-- ==== Sys2Proof/Word.lean ====
section
/-!
DEFINITION. The words of the part: 64-bit scalars, 32-bit elements, bytes, 1,024-bit masks and 128-bit lane keys
(R2, R19, R23, R49).
-/

namespace Sys2Proof

/-- A scalar register's value (R49). -/
abbrev Word := BitVec 64

/-- A vector register's element (R49). -/
abbrev Elem := BitVec 32

/-- A byte of memory. -/
abbrev Byte := BitVec 8

/-- A lane mask: bit l stands for lane l (R23). -/
abbrev Mask := BitVec 1024

/-- A logical lane key (R19). -/
abbrev LaneKey := BitVec 128

end Sys2Proof
end

