-- ==== Sys2Proof/Syntax.lean ====
section
/-!
DEFINITION. The syntax of the part: one constructor of `Instr` per row of spec/opcode_table.json.
259 rows are encoded instructions (08_encoding.md R149 to R161); 102 rows are the part's own events
(95_what_each_step_holds.md), which carry no encoding and whose parameters are plain data.
Register numbers, tags, scopes, engines and control registers are types, so that raw encodings end in Decode.
-/

namespace Sys2Proof

/-- The built-in formats, by the format tags 0 to 13 (R55). -/
inductive Fmt where
  | f64 | f32 | bf16 | f16 | s8 | s16 | s32 | s64 | n8 | n16 | n32 | n64 | b32 | pk
  deriving DecidableEq, Repr

/-- A format tag a register can hold: a built-in format, or 16 + k for the narrow format of `nf`k (R55).
Tags 14 and 15 are never held. -/
inductive Tag where
  | fmt (f : Fmt)
  | nf (k : BitVec 4)
  deriving DecidableEq, Repr

/-- The type field FT of formats D and U (R155). -/
inductive FType where
  | f32 | f64 | f16 | bf16
  deriving DecidableEq, Repr

/-- The type a major 8 to 11 fixes (R186). -/
inductive IType where
  | s32 | n32 | s64 | n64
  deriving DecidableEq, Repr

/-- The type field TY of format VM (R155). -/
inductive CmpTy where
  | f32 | f64 | f16 | bf16 | s32 | n32 | s64 | n64
  deriving DecidableEq, Repr

/-- The condition field CC of format VM (R155, R189). -/
inductive CmpOp where
  | eq | ne | lt | le | gt | ge | uo | ord
  deriving DecidableEq, Repr

/-- A vector-class operand specifier (R153); `imm i` is specifier 96 + i, the value i − 16. -/
inductive VSrc where
  | v (r : BitVec 6)
  | o (r : BitVec 3)
  | x (r : BitVec 2)
  | imm (i : BitVec 5)
  deriving DecidableEq, Repr

/-- A scalar-class operand specifier (R153); `imm i` is specifier 96 + i, the value i − 16. -/
inductive SSrc where
  | s (r : BitVec 6)
  | imm (i : BitVec 5)
  deriving DecidableEq, Repr

/-- The scopes, AUX codes 0 to 5 (R7, R158). -/
inductive Scope where
  | team | gang | core | die | device | domain
  deriving DecidableEq, Repr

/-- The engines of major 49 (R278). -/
inductive EngineId where
  | bce
  | gs (die : BitVec 2)
  | se (k : BitVec 5)
  deriving DecidableEq, Repr

/-- The control registers (R294). -/
inductive CtlReg where
  | pathq | xfill | vacant | mxs | logt | om | tstat | dbgctl | tvec | cause | epc | eaddr | emask | ttbase
  deriving DecidableEq, Repr

/-- The kind of a body (R117, R271). -/
inductive BodyKind where
  | dynamic | kinematic | static
  deriving DecidableEq, Repr

/-- The field selector of `cquery` (R275). -/
inductive QueryField where
  | root | state | isl | ecnt | shard | slot
  deriving DecidableEq, Repr

/-- What an access does, for the permission checks of a walk and the ACC field of an entry (R94, R383). -/
inductive AccKind where
  | load | store | atomic | reduction | fullEmpty | fetch | bulkLoad
  deriving DecidableEq, Repr

/-- A flow: source engine with its device, destination device and class (R343, R344). -/
structure FlowId where
  dev : BitVec 10
  src : BitVec 16
  dst : BitVec 10
  cls : BitVec 2
  deriving DecidableEq, Repr

/-- What the request of a flit asks of this device's homes (R343, R344). -/
inductive FlitOp where
  | write (pa : Nat) (bytes : List (BitVec 8))
  | reduce (pa : Nat) (op : BitVec 4) (fmt : Fmt) (v : BitVec 64)
  | read (pa len : Nat)
  | atomic (pa : Nat) (op : BitVec 4) (fmt : Fmt) (a b : BitVec 64)
  | timing (count : BitVec 64)
  /-- For the group of a TAG and TICK: gangs of the sender arrived at a generation of its barrier, gangs of the sender
  dissolved, in both cases with whether a team the generation expected had halted; its start was missed, the sender has placed its members at a level and a checked mode, or the sender's
  members are pre-empted or can be restored (R32, R315, R403). -/
  | groupArrival (tag : BitVec 32) (tick : BitVec 64) (gen : BitVec 32) (gangs : Nat) (abandoned : Bool)
  | groupLeft (tag : BitVec 32) (tick : BitVec 64) (gangs : Nat) (abandoned : Bool)
  | missedStart (tag : BitVec 32) (tick : BitVec 64)
  | placed (tag : BitVec 32) (tick : BitVec 64) (level : BitVec 2) (checked : Bool)
  | away (tag : BitVec 32) (tick : BitVec 64)
  | back (tag : BitVec 32) (tick : BitVec 64)
  deriving DecidableEq, Repr

/-- A flit as it arrives at a lane of a port from a device: its 256 bytes (R343), whether its tag holds under the key of
the pair and class (R345), and what its payload asks, whose coding in the payload the spec does not give (log 75). -/
structure Flit where
  bytes : List (BitVec 8)
  sender : BitVec 10
  port : Nat
  lane : Nat
  authentic : Bool
  op : FlitOp
  deriving DecidableEq, Repr

/-- How a root port is set at bring-up: as one ×16, two ×8 or four ×4 (R339). -/
inductive PortSplit where
  | x16 | x8 | x4
  deriving DecidableEq, Repr

/-- The mode of the host endpoint (R337, R338). -/
inductive HostMode where
  | pcie | cxl2 | cxl3
  deriving DecidableEq, Repr

/-- What bring-up meets (R349, R350, R359): the step that fails; the images it measures, slot 0 first, or none where
they are not given; the host's mode and the highest PCIe generation the host supports; per root port its setting and the
highest generation its link partner supports; per link port the highest generation its partner supports; and the ring
oscillators' frequencies, core and per mille, of the cores that are not at 1,000 (R358, R415). -/
structure BringUp where
  failAt : Option Nat
  images : Option (List (List (BitVec 8)))
  hostMode : HostMode
  hostGen : Nat
  rootPorts : List (PortSplit × Nat)
  linkGens : List Nat
  rings : List (Nat × Nat)
  deriving DecidableEq, Repr

/-- A temperature sensor of a core or a die, or the ring oscillator of a core (R358). -/
inductive Sensor where
  | core (n : Nat)
  | die (n k : Nat)
  | ring (n : Nat)
  deriving DecidableEq, Repr

/-- How a host access enters: by physical address over CXL.mem, through an aperture of BAR 2 at an offset, or in BAR 0
or BAR 4 at an offset (R337, R338, R340). -/
inductive HostPath where
  | physical (pa : Nat)
  | aperture (k : BitVec 6) (off : Nat)
  | management (off : Nat)
  | vectors (off : Nat)
  deriving DecidableEq, Repr

/-- The register a `registerWrite` event names: one whose writes no row of the table makes (R3, R300, R310, R382). -/
inductive RegTarget where
  | teamCr (team : Nat) (cr : CtlReg) (word : Nat)
  | teamScalar (team : Nat) (r : BitVec 6)
  | teamVector (team : Nat) (r : BitVec 6) (lane : Nat)
  | teamMask (team : Nat) (r : BitVec 3) (word : Nat)
  | teamOffset (team : Nat) (r : BitVec 3)
  | teamNarrow (team : Nat) (r : BitVec 4)
  | teamMatrix (team : Nat) (r : BitVec 4)
  | bankScalar (team : Nat) (r : BitVec 4)
  | bankVector (team : Nat) (r : BitVec 2) (lane : Nat)
  | aperture (k : BitVec 6)
  | functionTenant (port : Nat)
  | faultQueueFlags (tenant : BitVec 8)
  | remoteRoot (dev : BitVec 10) (tenant : BitVec 8)
  deriving DecidableEq, Repr

/-- The instructions and events, one constructor per row of the opcode table: the encoded instructions in the
table's order, save that those without fields and five more come after the rest (Lean's runtime builds at most 244
constructors with fields), then the events. -/
inductive Instr where
  /-- MOV_16 (R152). 16-bit form of mov: copies the operand selected by SS into VD. -/
  | movShort (ss : BitVec 5) (vd : BitVec 6)
  /-- ADD_F32_16 (R152). 16-bit form of add.f32 with VD as destination and first source. -/
  | addF32Short (ss : BitVec 5) (vd : BitVec 6)
  /-- SUB_F32_16 (R152). 16-bit form of sub.f32. -/
  | subF32Short (ss : BitVec 5) (vd : BitVec 6)
  /-- MUL_F32_16 (R152). 16-bit form of mul.f32. -/
  | mulF32Short (ss : BitVec 5) (vd : BitVec 6)
  /-- MIN_F32_16 (R152). 16-bit form of min.f32. -/
  | minF32Short (ss : BitVec 5) (vd : BitVec 6)
  /-- MAX_F32_16 (R152). 16-bit form of max.f32. -/
  | maxF32Short (ss : BitVec 5) (vd : BitVec 6)
  /-- ADD_S32_16 (R152). 16-bit form of add.s32. -/
  | addS32Short (ss : BitVec 5) (vd : BitVec 6)
  /-- SUB_S32_16 (R152). 16-bit form of sub.s32. -/
  | subS32Short (ss : BitVec 5) (vd : BitVec 6)
  /-- MUL_S32_16 (R152). 16-bit form of mul.s32. -/
  | mulS32Short (ss : BitVec 5) (vd : BitVec 6)
  /-- ADD_N32_16 (R152). 16-bit form of add.n32. -/
  | addN32Short (ss : BitVec 5) (vd : BitVec 6)
  /-- SUB_N32_16 (R152). 16-bit form of sub.n32. -/
  | subN32Short (ss : BitVec 5) (vd : BitVec 6)
  /-- AND_B32_16 (R152). 16-bit form of and.b32. -/
  | andB32Short (ss : BitVec 5) (vd : BitVec 6)
  /-- OR_B32_16 (R152). 16-bit form of or.b32. -/
  | orB32Short (ss : BitVec 5) (vd : BitVec 6)
  /-- XOR_B32_16 (R152). 16-bit form of xor.b32. -/
  | xorB32Short (ss : BitVec 5) (vd : BitVec 6)
  /-- SHL_N32_16 (R152). 16-bit form of shl.n32. -/
  | shlN32Short (ss : BitVec 5) (vd : BitVec 6)
  /-- SHR_N32_16 (R152). 16-bit form of shr.n32. -/
  | shrN32Short (ss : BitVec 5) (vd : BitVec 6)
  /-- ADD_F32 (R183). Lane-wise f32 add rounded once under RM. -/
  | addF32 (vb va : VSrc) (vd : BitVec 6) (nw : Bool) (rm : BitVec 2)
  /-- SUB_F32 (R183). Lane-wise f32 subtract. -/
  | subF32 (vb va : VSrc) (vd : BitVec 6) (nw : Bool) (rm : BitVec 2)
  /-- MUL_F32 (R183). Lane-wise f32 multiply. -/
  | mulF32 (vb va : VSrc) (vd : BitVec 6) (nw : Bool) (rm : BitVec 2)
  /-- FMA_F32 (R183). Lane-wise f32 fused multiply-add into the destination. -/
  | fmaF32 (vb va : VSrc) (vd : BitVec 6) (nw : Bool) (rm : BitVec 2)
  /-- ADD_F64 (R183). Lane-wise f64 add on register pairs. -/
  | addF64 (vb va : VSrc) (vd : BitVec 6) (nw : Bool) (rm : BitVec 2)
  /-- SUB_F64 (R183). Lane-wise f64 subtract. -/
  | subF64 (vb va : VSrc) (vd : BitVec 6) (nw : Bool) (rm : BitVec 2)
  /-- MUL_F64 (R183). Lane-wise f64 multiply. -/
  | mulF64 (vb va : VSrc) (vd : BitVec 6) (nw : Bool) (rm : BitVec 2)
  /-- FMA_F64 (R183). Lane-wise f64 fused multiply-add. -/
  | fmaF64 (vb va : VSrc) (vd : BitVec 6) (nw : Bool) (rm : BitVec 2)
  /-- ADD_F16 (R183). Lane-wise f16 add. -/
  | addF16 (vb va : VSrc) (vd : BitVec 6) (nw : Bool) (rm : BitVec 2)
  /-- SUB_F16 (R183). Lane-wise f16 subtract. -/
  | subF16 (vb va : VSrc) (vd : BitVec 6) (nw : Bool) (rm : BitVec 2)
  /-- MUL_F16 (R183). Lane-wise f16 multiply. -/
  | mulF16 (vb va : VSrc) (vd : BitVec 6) (nw : Bool) (rm : BitVec 2)
  /-- FMA_F16 (R183). Lane-wise f16 fused multiply-add. -/
  | fmaF16 (vb va : VSrc) (vd : BitVec 6) (nw : Bool) (rm : BitVec 2)
  /-- ADD_BF16 (R183). Lane-wise bf16 add. -/
  | addBf16 (vb va : VSrc) (vd : BitVec 6) (nw : Bool) (rm : BitVec 2)
  /-- SUB_BF16 (R183). Lane-wise bf16 subtract. -/
  | subBf16 (vb va : VSrc) (vd : BitVec 6) (nw : Bool) (rm : BitVec 2)
  /-- MUL_BF16 (R183). Lane-wise bf16 multiply. -/
  | mulBf16 (vb va : VSrc) (vd : BitVec 6) (nw : Bool) (rm : BitVec 2)
  /-- FMA_BF16 (R183). Lane-wise bf16 fused multiply-add. -/
  | fmaBf16 (vb va : VSrc) (vd : BitVec 6) (nw : Bool) (rm : BitVec 2)
  /-- DIV (R184). Lane-wise floating-point divide of the type FT under RM. -/
  | div (vb va : VSrc) (vd : BitVec 6) (nw : Bool) (ft : FType) (rm : BitVec 2)
  /-- MIN (R184). Lane-wise floating-point minimum. -/
  | fmin (vb va : VSrc) (vd : BitVec 6) (nw : Bool) (ft : FType)
  /-- MAX (R184). Lane-wise floating-point maximum. -/
  | fmax (vb va : VSrc) (vd : BitVec 6) (nw : Bool) (ft : FType)
  /-- COPYSIGN (R184). Bits of a with the sign of b. -/
  | copysign (vb va : VSrc) (vd : BitVec 6) (nw : Bool) (ft : FType)
  /-- SQRT (R185). Correctly rounded square root. -/
  | sqrt (va : VSrc) (vd : BitVec 6) (nw : Bool) (ft : FType) (rm : BitVec 2)
  /-- RCP (R185). Correctly rounded reciprocal. -/
  | rcp (va : VSrc) (vd : BitVec 6) (nw : Bool) (ft : FType) (rm : BitVec 2)
  /-- RSQRT (R185). Correctly rounded reciprocal square root. -/
  | rsqrt (va : VSrc) (vd : BitVec 6) (nw : Bool) (ft : FType) (rm : BitVec 2)
  /-- EXP2 (R185). Correctly rounded base-2 exponential. -/
  | exp2 (va : VSrc) (vd : BitVec 6) (nw : Bool) (ft : FType) (rm : BitVec 2)
  /-- LOG2 (R185). Correctly rounded base-2 logarithm. -/
  | log2 (va : VSrc) (vd : BitVec 6) (nw : Bool) (ft : FType) (rm : BitVec 2)
  /-- SIN (R185). Correctly rounded sine in radians. -/
  | sin (va : VSrc) (vd : BitVec 6) (nw : Bool) (ft : FType) (rm : BitVec 2)
  /-- COS (R185). Correctly rounded cosine in radians. -/
  | cos (va : VSrc) (vd : BitVec 6) (nw : Bool) (ft : FType) (rm : BitVec 2)
  /-- TANH (R185). Correctly rounded hyperbolic tangent. -/
  | tanh (va : VSrc) (vd : BitVec 6) (nw : Bool) (ft : FType) (rm : BitVec 2)
  /-- RINT (R185). Nearest integral value under RM. -/
  | rint (va : VSrc) (vd : BitVec 6) (nw : Bool) (ft : FType) (rm : BitVec 2)
  /-- NEG (R185). Flips the sign bit, keeping other bits. -/
  | fneg (va : VSrc) (vd : BitVec 6) (nw : Bool) (ft : FType)
  /-- ABS (R185). Clears the sign bit, keeping other bits. -/
  | fabs (va : VSrc) (vd : BitVec 6) (nw : Bool) (ft : FType)
  /-- FCLASS (R185). Writes the n32 class word of each lane's value. -/
  | fclass (va : VSrc) (vd : BitVec 6) (nw : Bool) (ft : FType)
  /-- INT_ADD (R186). Wrapping integer add of the type fixed by the major. -/
  | intAdd (vb va : VSrc) (vd : BitVec 6) (nw : Bool) (it : IType)
  /-- INT_SUB (R186). Wrapping integer subtract. -/
  | intSub (vb va : VSrc) (vd : BitVec 6) (nw : Bool) (it : IType)
  /-- INT_MUL (R186). Wrapping integer multiply. -/
  | intMul (vb va : VSrc) (vd : BitVec 6) (nw : Bool) (it : IType)
  /-- MULH (R186). High half of the exact integer product. -/
  | intMulh (vb va : VSrc) (vd : BitVec 6) (nw : Bool) (it : IType)
  /-- INT_MIN (R186). Integer minimum by signedness. -/
  | intMin (vb va : VSrc) (vd : BitVec 6) (nw : Bool) (it : IType)
  /-- INT_MAX (R186). Integer maximum by signedness. -/
  | intMax (vb va : VSrc) (vd : BitVec 6) (nw : Bool) (it : IType)
  /-- ADDS (R186). Saturating integer add. -/
  | intAdds (vb va : VSrc) (vd : BitVec 6) (nw : Bool) (it : IType)
  /-- SUBS (R186). Saturating integer subtract. -/
  | intSubs (vb va : VSrc) (vd : BitVec 6) (nw : Bool) (it : IType)
  /-- SHL (R186). Wrapping shift left by b mod w. -/
  | intShl (vb va : VSrc) (vd : BitVec 6) (nw : Bool) (it : IType)
  /-- SHR (R186). Shift right, arithmetic for s types and logical for n types. -/
  | intShr (vb va : VSrc) (vd : BitVec 6) (nw : Bool) (it : IType)
  /-- INT_ABS (R186). Wrapping absolute value of a signed integer. -/
  | intAbs (va : VSrc) (vd : BitVec 6) (nw : Bool) (wide : Bool)
  /-- INT_NEG (R186). Wrapping negation of a signed integer. -/
  | intNeg (va : VSrc) (vd : BitVec 6) (nw : Bool) (wide : Bool)
  /-- MAD (R186). Wrapping integer multiply-add into the destination. -/
  | intMad (vb va : VSrc) (vd : BitVec 6) (nw : Bool) (it : IType)
  /-- INT_DIV (R186). Integer quotient toward zero, never trapping. -/
  | intDiv (vb va : VSrc) (vd : BitVec 6) (nw : Bool) (it : IType)
  /-- REM (R186). Integer remainder, never trapping. -/
  | intRem (vb va : VSrc) (vd : BitVec 6) (nw : Bool) (it : IType)
  /-- AND (R187). Bitwise and. -/
  | bitAnd (vb va : VSrc) (vd : BitVec 6) (nw : Bool)
  /-- OR (R187). Bitwise or. -/
  | bitOr (vb va : VSrc) (vd : BitVec 6) (nw : Bool)
  /-- XOR (R187). Bitwise exclusive-or. -/
  | bitXor (vb va : VSrc) (vd : BitVec 6) (nw : Bool)
  /-- ANDN (R187). a AND NOT b. -/
  | bitAndn (vb va : VSrc) (vd : BitVec 6) (nw : Bool)
  /-- NOT (R187). Bitwise not. -/
  | bitNot (va : VSrc) (vd : BitVec 6) (nw : Bool)
  /-- POPC (R187). Population count. -/
  | bitPopc (va : VSrc) (vd : BitVec 6) (nw : Bool)
  /-- CLZ (R187). Count leading zeros. -/
  | bitClz (va : VSrc) (vd : BitVec 6) (nw : Bool)
  /-- CTZ (R187). Count trailing zeros. -/
  | bitCtz (va : VSrc) (vd : BitVec 6) (nw : Bool)
  /-- ROTL (R187). Rotate left by b mod 32. -/
  | bitRotl (vb va : VSrc) (vd : BitVec 6) (nw : Bool)
  /-- BREV (R187). Bit reversal. -/
  | bitBrev (va : VSrc) (vd : BitVec 6) (nw : Bool)
  /-- CMP (R189). Compares lanes under CC and writes the result bits into a mask register. -/
  | cmp (vb va : VSrc) (ty : CmpTy) (md : BitVec 3) (cc : CmpOp)
  /-- CVT (R190). Converts each lane from its tag to DF under RM and SAT. -/
  | cvt (df : Tag) (sat : Bool) (va : VSrc) (vd : BitVec 6) (nw : Bool) (rm : BitVec 3)
  /-- VADDI (R188). Adds a signed 11-bit immediate to an s32 or n32 source. -/
  | vaddi (imm : BitVec 11) (va : VSrc) (vd : BitVec 6) (nw : Bool)
  /-- SHLI (R188). Shift left by an immediate amount. -/
  | shli (amt : BitVec 5) (va : VSrc) (vd : BitVec 6) (nw : Bool)
  /-- SHRI_N (R188). Logical shift right by an immediate amount. -/
  | shriN (amt : BitVec 5) (va : VSrc) (vd : BitVec 6) (nw : Bool)
  /-- SHRI_S (R188). Arithmetic shift right by an immediate amount. -/
  | shriS (amt : BitVec 5) (va : VSrc) (vd : BitVec 6) (nw : Bool)
  /-- ROTLI (R188). Rotate left by an immediate amount. -/
  | rotli (amt : BitVec 5) (va : VSrc) (vd : BitVec 6) (nw : Bool)
  /-- XPERM (R197). Each lane reads va from the lane named by its permute index word. -/
  | xperm (vb va : VSrc) (vd : BitVec 6) (nw : Bool)
  /-- SHFL (R197). Shuffle within the lane's leaf word by a vector index. -/
  | shfl (vb va : VSrc) (vd : BitVec 6) (nw : Bool)
  /-- SHFL_XOR (R197). Shuffle from lane l XOR b within the leaf word. -/
  | shflXor (sb : SSrc) (va : VSrc) (vd : BitVec 6) (nw : Bool)
  /-- SHFL_UP (R197). Shuffle from lane l minus b within the leaf word. -/
  | shflUp (sb : SSrc) (va : VSrc) (vd : BitVec 6) (nw : Bool)
  /-- SHFL_DN (R197). Shuffle from lane l plus b within the leaf word. -/
  | shflDn (sb : SSrc) (va : VSrc) (vd : BitVec 6) (nw : Bool)
  /-- VOTE_ANY (R198). 1 if some lane of the 2^k group is true. -/
  | voteAny (sb : SSrc) (va : VSrc) (vd : BitVec 6) (nw : Bool)
  /-- VOTE_ALL (R198). 1 if every lane of the group is true. -/
  | voteAll (sb : SSrc) (va : VSrc) (vd : BitVec 6) (nw : Bool)
  /-- VOTE_EQ (R198). 1 if no lane of the group is vacant and all hold equal bits. -/
  | voteEq (sb : SSrc) (va : VSrc) (vd : BitVec 6) (nw : Bool)
  /-- BALLOT (R198). Writes the group's truth bits as a word. -/
  | ballot (sb : SSrc) (va : VSrc) (vd : BitVec 6) (nw : Bool)
  /-- CSAMP (R199). Categorical sample of an active lane by weight and random word. -/
  | csamp (sb : SSrc) (va : VSrc) (vd : BitVec 6) (nw : Bool)
  /-- RNG_N32 (R200). Counter-based random word per lane from a key and counter. -/
  | rngN32 (vc : VSrc) (sk : SSrc) (vd : BitVec 6) (nw : Bool)
  /-- MOV (R193). Copies value, tag and poison; an immediate gives uniform s32. -/
  | mov (va : VSrc) (vd : BitVec 6) (nw : Bool)
  /-- MOVTAG (R193). Reinterprets the source bits under a new tag. -/
  | movtag (tag : Tag) (va : VSrc) (vd : BitVec 6) (nw : Bool)
  /-- LANE (R193). Writes the lane index as affine (0, 1) s32. -/
  | lane (vd : BitVec 6) (nw : Bool)
  /-- BCAST (R193). Every active lane reads lane b of va. -/
  | bcast (sb : SSrc) (va : VSrc) (vd : BitVec 6) (nw : Bool)
  /-- SEL (R193). Selects va or vb per lane by the old destination value. -/
  | sel (vb va : VSrc) (vd : BitVec 6) (nw : Bool)
  /-- VMOVI_GET (R194). Each lane reads its own named register. -/
  | vmoviGet (tag : Tag) (va : VSrc) (vd : BitVec 6) (nw : Bool)
  /-- VMOVI_PUT (R194). Each lane writes vb into its own named register. -/
  | vmoviPut (vb va : VSrc)
  /-- AFFINE (R193). Builds an affine s32 register from two scalars. -/
  | affine (sb sa : SSrc) (vd : BitVec 6) (nw : Bool)
  /-- OMOV (R193). Writes a uniform or affine value into an operand-file register. -/
  | omov (va : VSrc) (od : BitVec 3) (nw : Bool)
  /-- DOT_F32_BF16 (R192). Packed bf16 dot product accumulated into f32. -/
  | dotF32Bf16 (vb va : VSrc) (vd : BitVec 6) (nw : Bool)
  /-- DOT_F32_F16 (R192). Packed f16 dot product accumulated into f32. -/
  | dotF32F16 (vb va : VSrc) (vd : BitVec 6) (nw : Bool)
  /-- DOT_S32_S8 (R192). Packed s8 dot product accumulated into s32. -/
  | dotS32S8 (vb va : VSrc) (vd : BitVec 6) (nw : Bool)
  /-- DOT_F32_NF (R192). Packed narrow-format dot product accumulated into f32. -/
  | dotF32Nf (vb va : VSrc) (vd : BitVec 6) (nw : Bool)
  /-- SADD (R163). Scalar add modulo 2^64. -/
  | sadd (sb sa : SSrc) (sd : BitVec 6)
  /-- SSUB (R163). Scalar subtract. -/
  | ssub (sb sa : SSrc) (sd : BitVec 6)
  /-- SMUL (R163). Scalar multiply low. -/
  | smul (sb sa : SSrc) (sd : BitVec 6)
  /-- SMULH_S (R163). High half of the signed scalar product. -/
  | smulhS (sb sa : SSrc) (sd : BitVec 6)
  /-- SMULH_N (R163). High half of the unsigned scalar product. -/
  | smulhN (sb sa : SSrc) (sd : BitVec 6)
  /-- SDIV_S (R163). Signed scalar division. -/
  | sdivS (sb sa : SSrc) (sd : BitVec 6)
  /-- SDIV_N (R163). Unsigned scalar division. -/
  | sdivN (sb sa : SSrc) (sd : BitVec 6)
  /-- SREM_S (R163). Signed scalar remainder. -/
  | sremS (sb sa : SSrc) (sd : BitVec 6)
  /-- SREM_N (R163). Unsigned scalar remainder. -/
  | sremN (sb sa : SSrc) (sd : BitVec 6)
  /-- SAND (R163). Scalar bitwise and. -/
  | sand (sb sa : SSrc) (sd : BitVec 6)
  /-- SOR (R163). Scalar bitwise or. -/
  | sor (sb sa : SSrc) (sd : BitVec 6)
  /-- SXOR (R163). Scalar bitwise exclusive-or. -/
  | sxor (sb sa : SSrc) (sd : BitVec 6)
  /-- SANDN (R163). Scalar a AND NOT b. -/
  | sandn (sb sa : SSrc) (sd : BitVec 6)
  /-- SSHL (R163). Scalar shift left. -/
  | sshl (sb sa : SSrc) (sd : BitVec 6)
  /-- SSHR_N (R163). Scalar logical shift right. -/
  | sshrN (sb sa : SSrc) (sd : BitVec 6)
  /-- SSHR_S (R163). Scalar arithmetic shift right. -/
  | sshrS (sb sa : SSrc) (sd : BitVec 6)
  /-- SROTL (R163). Scalar rotate left. -/
  | srotl (sb sa : SSrc) (sd : BitVec 6)
  /-- SMIN_S (R163). Signed scalar minimum. -/
  | sminS (sb sa : SSrc) (sd : BitVec 6)
  /-- SMIN_N (R163). Unsigned scalar minimum. -/
  | sminN (sb sa : SSrc) (sd : BitVec 6)
  /-- SMAX_S (R163). Signed scalar maximum. -/
  | smaxS (sb sa : SSrc) (sd : BitVec 6)
  /-- SMAX_N (R163). Unsigned scalar maximum. -/
  | smaxN (sb sa : SSrc) (sd : BitVec 6)
  /-- SSLT_S (R163). Signed scalar set-less-than. -/
  | ssltS (sb sa : SSrc) (sd : BitVec 6)
  /-- SSLT_N (R163). Unsigned scalar set-less-than. -/
  | ssltN (sb sa : SSrc) (sd : BitVec 6)
  /-- SSEQ (R163). Scalar set-equal. -/
  | sseq (sb sa : SSrc) (sd : BitVec 6)
  /-- SPOPC (R163). Scalar population count. -/
  | spopc (sa : SSrc) (sd : BitVec 6)
  /-- SCLZ (R163). Scalar count leading zeros. -/
  | sclz (sa : SSrc) (sd : BitVec 6)
  /-- SCTZ (R163). Scalar count trailing zeros. -/
  | sctz (sa : SSrc) (sd : BitVec 6)
  /-- SMOV (R163). Scalar move. -/
  | smov (sa : SSrc) (sd : BitVec 6)
  /-- SADDI (R164). Scalar add of a sign-extended 12-bit immediate. -/
  | saddi (imm : BitVec 12) (sa : SSrc) (sd : BitVec 6)
  /-- SANDI (R164). Scalar and with a zero-extended immediate. -/
  | sandi (imm : BitVec 12) (sa : SSrc) (sd : BitVec 6)
  /-- SORI (R164). Scalar or with a zero-extended immediate. -/
  | sori (imm : BitVec 12) (sa : SSrc) (sd : BitVec 6)
  /-- SXORI (R164). Scalar exclusive-or with a zero-extended immediate. -/
  | sxori (imm : BitVec 12) (sa : SSrc) (sd : BitVec 6)
  /-- SSHLI (R164). Scalar shift left by an immediate. -/
  | sshli (amt : BitVec 6) (sa : SSrc) (sd : BitVec 6)
  /-- SSHRI_N (R164). Scalar logical shift right by an immediate. -/
  | sshriN (amt : BitVec 6) (sa : SSrc) (sd : BitVec 6)
  /-- SSHRI_S (R164). Scalar arithmetic shift right by an immediate. -/
  | sshriS (amt : BitVec 6) (sa : SSrc) (sd : BitVec 6)
  /-- SROTLI (R164). Scalar rotate left by an immediate. -/
  | srotli (amt : BitVec 6) (sa : SSrc) (sd : BitVec 6)
  /-- SLI (R165). Sets a scalar to a 16-bit immediate shifted into quarter q. -/
  | sli (imm : BitVec 16) (q : BitVec 2) (sd : BitVec 6)
  /-- SLK (R165). Replaces quarter q of a scalar with a 16-bit immediate. -/
  | slk (imm : BitVec 16) (q : BitVec 2) (sd : BitVec 6)
  /-- MAND (R166). Mask and. -/
  | mand (mb ma md : BitVec 3)
  /-- MOR (R166). Mask or. -/
  | mor (mb ma md : BitVec 3)
  /-- MXOR (R166). Mask exclusive-or. -/
  | mxor (mb ma md : BitVec 3)
  /-- MANDN (R166). Mask a AND NOT b. -/
  | mandn (mb ma md : BitVec 3)
  /-- MNOT (R166). Mask not, with bits at or above the team size cleared. -/
  | mnot (ma md : BitVec 3)
  /-- MMOV (R166). Mask move. -/
  | mmov (ma md : BitVec 3)
  /-- MCNT (R166). Counts the set bits of a mask into a scalar. -/
  | mcnt (ma : BitVec 3) (sd : BitVec 6)
  /-- MFIRST (R166). Index of the lowest set bit of a mask. -/
  | mfirst (ma : BitVec 3) (sd : BitVec 6)
  /-- MACT (R166). Copies the issuing path's active mask into a mask register. -/
  | mact (md : BitVec 3)
  /-- MGET (R166). Reads a leaf or summary word of a mask. -/
  | mget (w : BitVec 7) (ma : BitVec 3) (sd : BitVec 6)
  /-- MPUT (R166). Writes a leaf word of a mask from a scalar. -/
  | mput (w : BitVec 7) (sa : SSrc) (md : BitVec 3)
  /-- BZ (R168). Uniform branch when the scalar is zero. -/
  | bz (off : BitVec 16) (sa : SSrc)
  /-- BNZ (R168). Uniform branch when the scalar is non-zero. -/
  | bnz (off : BitVec 16) (sa : SSrc)
  /-- BLTZ (R168). Uniform branch when the scalar is negative. -/
  | bltz (off : BitVec 16) (sa : SSrc)
  /-- BGEZ (R168). Uniform branch when the scalar is non-negative. -/
  | bgez (off : BitVec 16) (sa : SSrc)
  /-- BDIV (R171). Divergent branch by mask, pushing a stack entry when both sides are non-empty. -/
  | bdiv (off : BitVec 12) (joff : BitVec 10) (ms : BitVec 3)
  /-- JMP (R169). Jump relative to PC. -/
  | jmp (off : BitVec 24)
  /-- CALL (R169). Jump writing PC + 4 to s63. -/
  | call (off : BitVec 24)
  /-- JR (R170). Transfers to a scalar address. -/
  | jr (sa : SSrc)
  /-- CALLR (R170). Indirect call writing PC + 4 to s63. -/
  | callr (sa : SSrc)
  /-- BRTAB (R175). Per-lane branch through a checked target list, pushing table entries. -/
  | brtab (va : VSrc)
  /-- WCNT (R179). Blocks the path until an outstanding-work counter is at most n. -/
  | wcnt (c : BitVec 2) (n : BitVec 6)
  /-- RDCLK (R180). Reads the Meridian tick or the retired-instruction count. -/
  | rdclk (ret : Bool) (sd : BitVec 6)
  /-- RDID (R181). Reads a team, gang, core or key identity value. -/
  | rdid (sel : BitVec 4) (sd : BitVec 6)
  /-- LD (R203). Global load, each byte from the core's log or view. -/
  | ld (base : BitVec 4) (ix : VSrc) (vd : BitVec 6) (fmt : Fmt) (off : BitVec 4)
  /-- ST (R204). Global store appending plain log entries per lane. -/
  | st (base : BitVec 4) (ix : VSrc) (vd : BitVec 6) (fmt : Fmt) (off : BitVec 4)
  /-- SLD (R203). Scratchpad load in place. -/
  | sld (base : BitVec 4) (ix : VSrc) (vd : BitVec 6) (fmt : Fmt) (off : BitVec 4)
  /-- SST (R205). Scratchpad store in place. -/
  | sst (base : BitVec 4) (ix : VSrc) (vd : BitVec 6) (fmt : Fmt) (off : BitVec 4)
  /-- RED_ADD (R208). Reduction add appended as reduction-atomic entries or buffered. -/
  | redAdd (base : BitVec 4) (ix : VSrc) (vd : BitVec 6) (fmt : Fmt)
  /-- RED_MIN (R208). Reduction minimum. -/
  | redMin (base : BitVec 4) (ix : VSrc) (vd : BitVec 6) (fmt : Fmt)
  /-- RED_MAX (R208). Reduction maximum. -/
  | redMax (base : BitVec 4) (ix : VSrc) (vd : BitVec 6) (fmt : Fmt)
  /-- RED_AND (R208). Reduction and. -/
  | redAnd (base : BitVec 4) (ix : VSrc) (vd : BitVec 6) (fmt : Fmt)
  /-- RED_OR (R208). Reduction or. -/
  | redOr (base : BitVec 4) (ix : VSrc) (vd : BitVec 6) (fmt : Fmt)
  /-- RED_XOR (R208). Reduction exclusive-or. -/
  | redXor (base : BitVec 4) (ix : VSrc) (vd : BitVec 6) (fmt : Fmt)
  /-- ATOM_ADD (R209). Returning atomic add performed at the home. -/
  | atomAdd (base : BitVec 4) (ix : VSrc) (vd : BitVec 6) (fmt : Fmt)
  /-- ATOM_MIN (R209). Returning atomic minimum. -/
  | atomMin (base : BitVec 4) (ix : VSrc) (vd : BitVec 6) (fmt : Fmt)
  /-- ATOM_MAX (R209). Returning atomic maximum. -/
  | atomMax (base : BitVec 4) (ix : VSrc) (vd : BitVec 6) (fmt : Fmt)
  /-- ATOM_AND (R209). Returning atomic and. -/
  | atomAnd (base : BitVec 4) (ix : VSrc) (vd : BitVec 6) (fmt : Fmt)
  /-- ATOM_OR (R209). Returning atomic or. -/
  | atomOr (base : BitVec 4) (ix : VSrc) (vd : BitVec 6) (fmt : Fmt)
  /-- ATOM_XOR (R209). Returning atomic exclusive-or. -/
  | atomXor (base : BitVec 4) (ix : VSrc) (vd : BitVec 6) (fmt : Fmt)
  /-- ATOM_XCHG (R209). Returning atomic exchange. -/
  | atomXchg (base : BitVec 4) (ix : VSrc) (vd : BitVec 6) (fmt : Fmt)
  /-- ATOM_CAS (R207). Returning atomic compare-and-swap on bits. -/
  | atomCas (base : BitVec 4) (ix : VSrc) (vd : BitVec 6) (fmt : Fmt)
  /-- LDFE (R211). Waits for full, reads and marks empty, then acquires at gang scope. -/
  | ldfe (base : BitVec 4) (ix : VSrc) (vd : BitVec 6) (fmt : Fmt)
  /-- STFE (R211). Releases at gang scope, waits for empty, writes and marks full. -/
  | stfe (base : BitVec 4) (ix : VSrc) (vd : BitVec 6) (fmt : Fmt)
  /-- LDF (R211). Waits for full and reads, leaving the word full. -/
  | ldf (base : BitVec 4) (ix : VSrc) (vd : BitVec 6) (fmt : Fmt)
  /-- REL (R212). Release: waits for appends and publishes the team's log tail at a scope. -/
  | rel (sc : Scope)
  /-- ACQ (R212). Acquire: replays covered publications of the scope's cores. -/
  | acq (sc : Scope)
  /-- ACQSET (R212). Acquire over an explicit core set. -/
  | acqset (sc : Scope) (sa : SSrc)
  /-- FENCE (R212). Release followed by acquire as one instruction. -/
  | fence (sc : Scope)
  /-- BAR (R214). Gang barrier arrival with flush and publication. -/
  | bar (sc : Scope) (sd : BitVec 6)
  /-- GBAR (R214). Gang group barrier arrival. -/
  | gbar (sc : Scope) (sd : BitVec 6)
  /-- GJOIN (R215). Moves the team into a named or new gang of its family. -/
  | gjoin (sa : SSrc)
  /-- SPAWN (R216). Releases, raises the join counter and enqueues one child per active lane. -/
  | spawn (p : BitVec 4) (np : BitVec 3) (sa : SSrc) (sd : BitVec 6)
  /-- JWAIT (R217). Releases partial spawn groups and blocks until the join counter is zero, then acquires. -/
  | jwait (sa : SSrc)
  /-- COPY (R218). Issues a BCE copy joining the team's open batch. -/
  | copy (sn : BitVec 6) (sa : SSrc) (sd : BitVec 6)
  /-- CBSEAL (R220). Closes the open copy batch and returns its number. -/
  | cbseal (sd : BitVec 6)
  /-- CBWAIT (R220). Waits for copy batches up to n and publishes their segment entries at core scope. -/
  | cbwait (sa : SSrc)
  /-- TALLOC (R221). Allocates the lowest empty tile entry as filling. -/
  | talloc (sa : SSrc) (sd : BitVec 6)
  /-- TREADY (R221). Moves a tile from filling to ready. -/
  | tready (sa : SSrc)
  /-- TREL (R221). Moves a tile from ready to empty. -/
  | trel (sa : SSrc)
  /-- TSTAT (R221). Reads a tile table entry. -/
  | tstat (sa : SSrc) (sd : BitVec 6)
  /-- MM (R249). Team matrix multiply-accumulate from tile views into an accumulator handle. -/
  | mm (fmt : Tag) (acc : BitVec 5) (oma omb : BitVec 4) (sd : BitVec 6)
  /-- MM_SP (R254). Structured-sparse team matrix multiply. -/
  | mmSp (fmt : Tag) (acc : BitVec 5) (oma omb : BitVec 4) (sd : BitVec 6)
  /-- MMO (R256). Octet matrix multiply on vector registers. -/
  | mmo (fmt : Tag) (vd va : BitVec 6) (omb sd : BitVec 4)
  /-- MMO_SP (R256). Structured-sparse octet matrix multiply. -/
  | mmoSp (fmt : Tag) (vd va : BitVec 6) (omb sd : BitVec 4)
  /-- AALLOC (R246). Allocates an accumulator handle or returns all ones. -/
  | aalloc (sa : SSrc) (sd : BitVec 6)
  /-- AFREE (R247). Frees an accumulator handle after earlier work on it. -/
  | afree (n : BitVec 5)
  /-- AZERO (R247). Zeroes an accumulator handle after earlier work on it. -/
  | azero (n : BitVec 5)
  /-- ADRAIN (R263). Drains an accumulator handle to memory through the BCE. -/
  | adrain (addMode : Bool) (h : BitVec 5) (sa : SSrc) (sd : BitVec 6)
  /-- ADRAIN_T (R263). Drains a scratchpad tile to memory through the BCE. -/
  | adrainT (addMode : Bool) (sa : SSrc) (sd : BitVec 6)
  /-- WBLD (R261). Loads a compressed image into the weight buffer, or reports it held. -/
  | wbld (sa : SSrc) (sd : BitVec 6)
  /-- OMSET (R243). Writes an operand-map register. -/
  | omset (k : BitVec 4) (sa : SSrc)
  /-- NFSET (R258). Writes a narrow format register. -/
  | nfset (k : BitVec 4) (sa : SSrc)
  /-- NFGET (R258). Reads a narrow format register. -/
  | nfget (k : BitVec 4) (sd : BitVec 6)
  /-- DMSET (R259). Sets the team's duplication map. -/
  | dmset (side : Bool) (sa : SSrc)
  /-- SQLD (R267). Loads key-value pairs from scratchpad into a stream register. -/
  | sqld (s32 : Bool) (qd : BitVec 3) (sa : SSrc)
  /-- SQST (R267). Stores a stream register's pairs to scratchpad. -/
  | sqst (qa : BitVec 3) (sa : SSrc)
  /-- SQINT (R268). Stream intersection with product values. -/
  | sqint (qa qd qb : BitVec 3)
  /-- SQUNI (R268). Stream union. -/
  | squni (qa qd qb : BitVec 3)
  /-- SQSUB (R268). Stream difference. -/
  | sqsub (qa qd qb : BitVec 3)
  /-- SQMADD (R268). Stream merge-add. -/
  | sqmadd (qa qd qb : BitVec 3)
  /-- SQCNT (R269). Reads a stream register's count and overflow bit. -/
  | sqcnt (qa : BitVec 3) (sd : BitVec 6)
  /-- SQEXT (R269). Extracts stream pairs into vector lanes. -/
  | sqext (qa : BitVec 3) (sa : SSrc) (vd : BitVec 6)
  /-- CSCENE (R272). Opens a scene from a descriptor and initialises its tables. -/
  | cscene (sa : SSrc) (sd : BitVec 6)
  /-- CCLOSE (R273). Writes back body records and closes a scene. -/
  | cclose (sa : SSrc)
  /-- CKIND (R274). Sets body kinds for the next step boundary. -/
  | ckind (k : BodyKind) (sa : SSrc) (vb : BitVec 6)
  /-- CLINK (R274). Records edges, unions components and appends cross entries. -/
  | clink (joint : Bool) (sa : SSrc) (vb : BitVec 6)
  /-- CUNLINK (R274). Removes edges and marks components for relabelling. -/
  | cunlink (joint : Bool) (sa : SSrc) (vb : BitVec 6)
  /-- CSTEP (R276). Island-side step end with release, or driver wait and regroup. -/
  | cstep (sa : SSrc) (sd : BitVec 6)
  /-- CWAKE (R274). Sets WAKE on named bodies. -/
  | cwake (sa : SSrc) (vb : BitVec 6)
  /-- CQUERY (R275). Returns a current field of each named body. -/
  | cquery (f : QueryField) (sa : SSrc) (vb : BitVec 6)
  /-- ENQ (R283). Hands a chain to the family's engine channel and returns its run number. -/
  | enq (e : EngineId) (sa : SSrc) (sd : BitVec 6)
  /-- ESEQ (R284). Reads the channel's DONE without acquiring. -/
  | eseq (e : EngineId) (sd : BitVec 6)
  /-- EWAIT (R285). Blocks until DONE reaches n, acquires at core scope and returns the run status. -/
  | ewait (e : EngineId) (sa : SSrc) (sd : BitVec 6)
  /-- VGROW (R62). Grows the team's vector register count, waiting for register file. -/
  | vgrow (g : BitVec 3)
  /-- VSHRINK (R62). Shrinks the team's vector register count and frees its charge. -/
  | vshrink (g : BitVec 3)
  /-- CRR (R295). Reads a control register word. -/
  | crr (cr : CtlReg) (sa : SSrc) (sd : BitVec 6)
  /-- CRW (R295). Writes a control register under its access codes. -/
  | crw (cr : CtlReg) (sa : SSrc) (sd : BitVec 6)
  /-- CRS (R295). Sets RW bits of a control register, returning the old value. -/
  | crs (cr : CtlReg) (sa : SSrc) (sd : BitVec 6)
  /-- CRC (R295). Clears RW bits of a control register, returning the old value. -/
  | crc (cr : CtlReg) (sa : SSrc) (sd : BitVec 6)
  /-- TRAP (R299). Retires, then enters a user trap with code 0x0BF. -/
  | trap (n : BitVec 7)
  /-- BRK (R300). Break: a debug stop when attached, otherwise a trap. -/
  | brk (n : BitVec 7)
  /-- RET (R170). Transfers to the address in s63. -/
  | ret
  /-- RCV (R37). Marks an arm arrived at its join, popping the entry when both have arrived. -/
  | rcv
  /-- PAUSE (R38). Yields the arm's turn to the other arm or the team's next turn. -/
  | pause
  /-- EXIT (R177). Waits for loads and appends, then exits the active lanes, ending the team when none remain. -/
  | exit
  /-- GLEAVE (R215). Returns the team to the gang it was created in. -/
  | gleave
  /-- IFENCE (R213). Discards every instruction the team fetched before it. -/
  | ifence
  /-- WBLD_REL (R261). Gives up the weight buffer. -/
  | wbldRel
  /-- CSLEEP (R277). Marks the team's island gang for sleep. -/
  | csleep
  /-- RTE (R299). Returns from a handler, restoring level and freeing the trap bank. -/
  | rte
  /-- NOP (R159). Hint word that executes as a no-op. -/
  | nop
  /-- TCINV (R301). Publishes, then removes cached translations of one page in a scope. -/
  | tcinv (sc : Scope) (sa : SSrc)
  /-- TCINVA (R301). Publishes, then removes cached translations of a tenant or all tenants. -/
  | tcinva (sc : Scope) (sa : SSrc)
  /-- TARGET_ENTRY (R159). Branch target list entry, a no-op when executed. -/
  | targetEntry (payload : BitVec 20)
  /-- TARGET_LIST_HEADER (R159). Branch target list header, a no-op when executed. -/
  | targetListHeader (payload : BitVec 20)
  /-- HINT (R159). Any other hint-space word, executed as a no-op. -/
  | hint (hk : BitVec 5) (payload : BitVec 20)
  /-- QUANTUM_EXPIRY (R38). An arm's quantum runs out and issue passes to the other arm. -/
  | quantumExpiry (team : Nat)
  /-- ISSUE_TURN (R321). The issue arbiter grants a turn of up to 8 instructions to the next ready team. -/
  | issueTurn (core : Nat) (prefetch : Bool)
  /-- SPAWN_GROUP_TIMEOUT (R40). At level 0 a partial spawn group leaves after 256 idle cycles. -/
  | spawnGroupTimeout (gang : Nat) (entry : BitVec 64)
  /-- FAMILY_RESOURCE_RETURN (R31). A dissolved family's partition and reservations return once its BCE channel has DONE equal to ISSUED. -/
  | familyResourceReturn (family : Nat)
  /-- TEAM_SWAP_OUT (R63). After 4,096 cycles with no issue, the greatest-key blocked grower is swapped out. -/
  | teamSwapOut (core : Nat)
  /-- SWAPPED_TEAM_RESTORE (R63). A swapped-out team is restored once the free register file holds its grown count. -/
  | swappedTeamRestore (team : Nat)
  /-- LOGICAL_CLOCK_GRANT (R327). A waiting synchronising operation becomes least in the domain and is performed. -/
  | logicalClockGrant (team : Nat)
  /-- PUBLICATION_RECORD (R225). A release's publication is recorded once its appends and earlier loads are done. -/
  | publicationRecord (team : Nat)
  /-- ACQUIRE_COMPLETE (R108). An acquire's replay of covered publications completes. -/
  | acquireComplete (team : Nat)
  /-- LOAD_RETURN (R203). Load data arrives and is written to the lanes. -/
  | loadReturn (team : Nat)
  /-- HOME_ATOMIC (R209). A returning atomic is performed at its home and its old value returned. -/
  | homeAtomic (team : Nat)
  /-- LOG_DRAIN (R109). The core's log drain coalesces and sends published entries to their homes. -/
  | logDrain (core : Nat)
  /-- HOME_APPLY (R109). A home die cache applies a drained entry in publication order. -/
  | homeApply (index : Nat)
  /-- LOG_ACK (R109). A home acknowledgement removes an entry from the ring. -/
  | logAck (core : Nat)
  /-- LOG_SPILL (R111). Oldest unpublished entries move to the spill log when over 7/8 full. -/
  | logSpill (core : Nat)
  /-- LOG_FULL_PREEMPTION (R387). A team stalled with ring and spill log full has its gang pre-empted. -/
  | logFullPreemption (team : Nat)
  /-- TRAP_ENTRY (R297). A trapping team waits for the trap bank and enters its handler. -/
  | trapEntry (team : Nat)
  /-- WATCHDOG_RETIRE_TIMEOUT (R375). The retire timer reaches 2^WDE and the team traps with 0x089. -/
  | watchdogRetireTimeout (team : Nat)
  /-- WATCHDOG_STARVE_TIMEOUT (R375). The starve timer reaches 2^WDE and the team traps with 0x08A. -/
  | watchdogStarveTimeout (team : Nat)
  /-- HANDLER_HANG (R380). A handler's retire timer reaches 2^WDE and its team halts with 0x08B. -/
  | handlerHang (team : Nat)
  /-- GANG_PREEMPTION (R302). A gang is stopped at pre-emption points and saved to a context image. -/
  | gangPreemption (gang : Nat)
  /-- GANG_RESTORE (R308). A context image is checked, placed and its log segments re-appended. -/
  | gangRestore (gang : Nat) (damaged : List Nat)
  /-- CSTEP_REGROUP (R123). Once every island gang has ended its step, the driver's cstep regroups the scene. -/
  | cstepRegroup (scene : Nat)
  /-- BODY_RECORD_WRITEBACK (R117). A body record falling out of the instance cache is written back to the body table. -/
  | bodyRecordWriteback (scene body : Nat)
  /-- RUN_ACCEPT (R279). A channel accepts a run and gives it the next number. -/
  | runAccept (chan : Nat)
  /-- BCE_COPY_COMMAND (R218). The BCE performs a copy issued by the copy instruction. -/
  | bceCopyCommand (chan run : Nat)
  /-- BCE_DRAIN_COMMAND (R264). The BCE performs a drain issued by adrain. -/
  | bceDrainCommand (chan run : Nat)
  /-- CHAIN_NOP (R286). An engine executes a NOP chain entry. -/
  | chainNop (chan run : Nat)
  /-- COPY_ENTRY (R287). The BCE executes a COPY chain entry. -/
  | copyEntry (chan run : Nat)
  /-- GATHER (R288). A gather/scatter unit gathers indexed elements to a contiguous destination. -/
  | gather (chan run : Nat)
  /-- SCATTER (R288). A gather/scatter unit stores or adds contiguous elements at indexed addresses. -/
  | scatter (chan run : Nat)
  /-- DRAIN_ENTRY (R289). The BCE executes a DRAIN chain entry. -/
  | drainEntry (chan run : Nat)
  /-- SOLVE (R143). A solver engine assembles, factorises and iterates ADMM to a status and writes the result. -/
  | solve (chan run : Nat)
  /-- LOOP_ENTRY (R291). An engine processes a LOOP entry on its loop stack. -/
  | loopEntry (chan run : Nat)
  /-- COND_ENTRY (R292). An engine tests a scratchpad word or DONE and waits or branches. -/
  | condEntry (chan run : Nat)
  /-- COND_RETEST (R292). A waiting COND entry re-tests and continues when true. -/
  | condRetest (chan run : Nat)
  /-- ENTRY_COMPLETION (R280). A chain entry completes and the next starts or the run ends with its status. -/
  | entryCompletion (chan run : Nat)
  /-- MXE_PASS (R250). The MXE applies an issued matrix instruction whole to its handle. -/
  | mxePass (core : Nat)
  /-- MXE_IDLE (R356). An MXE with no pass for 2,048 cycles becomes idle. -/
  | mxeIdle (core : Nat)
  /-- MXE_ADMISSION (R356). The ramp governor admits up to 8 waiting MXEs per 100 ns. -/
  | mxeAdmission
  /-- QUEUE_DOORBELL (R311). A producer raises DB and the HQS may read the packets behind it. -/
  | queueDoorbell (queue : Nat) (db : BitVec 64)
  /-- NOP_PACKET (R312). A NOP packet starts and completes at once. -/
  | nopPacket (queue : Nat)
  /-- LAUNCH (R313). A LAUNCH packet offers its gangs for placement in order. -/
  | launchPacket (queue : Nat)
  /-- WAIT (R316). A WAIT packet holds its queue until its tested value compares true. -/
  | waitPacket (queue : Nat)
  /-- LEVEL (R316). A LEVEL packet sets the level and checked mode of later launches. -/
  | levelPacket (queue : Nat)
  /-- HOLD (R316). A HOLD packet stops or resumes admission from a queue, pre-empting its gangs. -/
  | holdPacket (queue : Nat)
  /-- SIGNAL (R316). A SIGNAL packet writes a value at its home and optionally interrupts. -/
  | signalPacket (queue : Nat)
  /-- PACKET_COMPLETION (R312). A packet completes, DONE rises in order and the completion releases. -/
  | packetCompletion (queue : Nat)
  /-- QUEUE_BIND (R317). A queue with pending work binds to a hardware slot, displacing by priority. -/
  | queueBind (queue : Nat)
  /-- SLICE_EXPIRY (R317). A bound queue's time slice expires, letting an equal-priority waiter take its slot. -/
  | sliceExpiry (queue : Nat)
  /-- PRIORITY_AGEING (R317). A waiting queue's effective priority rises by 1 per 8 slices unbound. -/
  | priorityAgeing (queue : Nat)
  /-- GANG_PLACEMENT (R319). The work distributor places a waiting gang on the least-loaded qualifying core. -/
  | gangPlacement
  /-- GROUP_START (R315). At TICK the members of a multi-device group issue their first instructions. -/
  | groupStart (group : Nat)
  /-- GROUP_MISSED_START (R315). At TICK minus 1,000 an unplaced device halts its queue and reports a missed start. -/
  | groupMissedStart (queue : Nat)
  /-- MISSED_START_REPORT (R315). A missed-start report from another device dissolves this device's members unstarted. -/
  | missedStartReport (tag : BitVec 32) (tick : BitVec 64)
  /-- QUEUE_REGISTRATION (R310). A management request registers a user queue in the HQS table. -/
  | queueRegistration (queue : Nat) (tenant : BitVec 8) (desc : BitVec 64)
  /-- QUEUE_DEREGISTRATION (R402). A management request deregisters a queue, discarding unread packets if halted. -/
  | queueDeregistration (queue : Nat)
  /-- QUEUE_RECOVERY (R402). A management request clears HALT and the HQS rereads the packet at RD. -/
  | queueRecovery (queue : Nat)
  /-- CHECK_RECORD_REGISTRATION (R331). A management request registers a queue's check record. -/
  | checkRecordRegistration (queue : Nat) (addr : BitVec 64)
  /-- TENANT_ROOT_REGISTRATION (R95). The runtime registers a tenant's translation root on this device. -/
  | tenantRootRegistration (tenant : BitVec 8) (root : BitVec 64)
  /-- ENTRY_LIST_REGISTRATION (R428). The loader registers an image's list of .entry addresses. -/
  | entryListRegistration (tenant : BitVec 8) (entries : List (BitVec 64))
  /-- WATCHDOG_EXPONENT (R374). A management request sets a tenant's watchdog exponent. -/
  | watchdogExponent (tenant : BitVec 8) (wde : Nat)
  /-- FAULT_QUEUE_REGISTRATION (R382). The runtime registers a tenant fault queue descriptor. -/
  | faultQueueRegistration (tenant : BitVec 8) (desc : BitVec 64)
  /-- FAULT_QUEUE_CONSUME (R382). Software raises RD, freeing room for waiting entries. -/
  | faultQueueConsume (tenant : BitVec 8) (rd : BitVec 64)
  /-- ACK_WORD (R385). The fault service processes an ack word, retrying, killing or trapping the parked team. -/
  | ackWord (tenant : BitVec 8)
  /-- HOST_WRITE (R340). A write through the endpoint, BAR 2 or CXL.mem is applied at its home and releases. -/
  | hostWrite (path : HostPath) (bytes : List (BitVec 8))
  /-- HOST_READ (R340). A host read is served at the home. -/
  | hostRead (path : HostPath) (len : Nat)
  /-- ROOT_PORT_DMA (R339). A downstream function's DMA is translated under its tenant and applied or refused. -/
  | rootPortDma (port : Nat) (va : BitVec 64) (write : Bool) (bytes : List (BitVec 8))
  /-- FLIT_RECEIVE (R344). A flit arrives, is checked, held in its flow window and performed in order. -/
  | flitReceive (flit : Flit)
  /-- FLOW_ACK (R413). A cumulative acknowledgement frees a flow's kept requests and responses. -/
  | flowAck (flow : FlowId) (num : BitVec 32)
  /-- RESEND_TIMEOUT (R412). After 4 µs without acknowledgement a request is resent over the next port. -/
  | resendTimeout (flow : FlowId)
  /-- LINK_LANE_RETIRE (R414). A lane over the drop threshold is retired, spared, narrowed or the port taken down. -/
  | linkLaneRetire (port : Nat) (lane : Nat)
  /-- LINK_KEY_REPLACE (R345). The Lodestars replace a pair key after 2^32 flits. -/
  | linkKeyReplace (dev : BitVec 10) (cls : BitVec 2)
  /-- DEVICE_ID_ASSIGNMENT (R346). The fabric manager assigns the device ID at domain formation. -/
  | deviceIdAssignment (dev : BitVec 10) (count : BitVec 64)
  /-- ROUTE_TABLE_WRITE (R346). The fabric manager writes route masks. -/
  | routeTableWrite (dev : BitVec 10) (mask : BitVec 36)
  /-- MERIDIAN_TIMING_MESSAGE (R348). A class 3 timing message adjusts the Meridian rate. -/
  | meridianTimingMessage (reference : BitVec 64)
  /-- MERIDIAN_OUT_OF_BOUND (R418). No timing message for 100 µs puts the device out of bound. -/
  | meridianOutOfBound
  /-- POWER_SAMPLE (R357). The governor measures package power every 1 µs and throttles at TDP. -/
  | powerSample (watts : Nat)
  /-- MONITOR_SAMPLE (R358). Lodestar reads temperature, droop and oscillator monitors every 10 µs. -/
  | monitorSample (sensor : Sensor) (reading : Nat)
  /-- VOLTAGE_DROOP (R358). A droop stretches its core's clock and is counted. -/
  | voltageDroop (core : Nat)
  /-- BRING_UP (R359). At power-up the device verifies, trains and starts its parts in order. -/
  | bringUp (cfg : BringUp)
  /-- THIRD_RUN_VOTE (R410). A commit mismatch starts a third run from the epoch image and votes. -/
  | thirdRunVote (family : Nat) (third : Option (BitVec 256))
  /-- CORE_OUT_OF_SERVICE (R415). A failing core's gangs migrate to a spare that takes over its logical number. -/
  | coreOutOfService (core : Nat)
  /-- HBM_ROW_SPARE (R416). A row with repeated corrected errors is copied to a spare row. -/
  | hbmRowSpare (chan row : Nat)
  /-- HBM_CHANNEL_RETIRE_REQUEST (R416). Exhausted spare rows raise a channel retirement request. -/
  | hbmChannelRetireRequest (chan : Nat)
  /-- HBM_CHANNEL_RETIRE (R416). On the runtime's answer the physical range is retired. -/
  | hbmChannelRetire (chan : Nat)
  /-- DIE_CACHE_WAY_RETIRE (R416). A way with repeated corrected errors is flushed and retired. -/
  | dieCacheWayRetire (die way : Nat)
  /-- SOLVER_ENGINE_RETIRE (R416). A solver engine with repeated errors is retired and its channels reassigned. -/
  | solverEngineRetire (engine : BitVec 5)
  /-- FIRMWARE_UPDATE (R416). A verified image replaces its slot and is re-measured. -/
  | firmwareUpdate (slot : BitVec 3) (image : List (BitVec 8)) (verified : Bool)
  /-- TENANT_CREATE (R351). Lodestar creates a tenant and draws its keys. -/
  | tenantCreate (tenant : BitVec 8)
  /-- TENANT_DELETE (R351). Lodestar deletes a tenant and destroys its key. -/
  | tenantDelete (tenant : BitVec 8)
  /-- DEBUG_ADMISSION (R354). Lodestar admits a tenant to debugging on a signed request. -/
  | debugAdmission (tenant : BitVec 8) (signed : Bool)
  /-- JOB_OPEN (R352). A job is opened on a queue. -/
  | jobOpen (queue : Nat)
  /-- JOB_CLOSE (R352). Lodestar digests the result region and signs the job record. -/
  | jobClose (queue base len dest : Nat)
  /-- DEBUG_STOP_REQUEST (R300). The debug port sets DBGCTL.STOP, stopping the team at its next boundary. -/
  | debugStopRequest (team : Nat)
  /-- DEBUG_CONTINUE (R300). The debug port's continue command acts as rte. -/
  | debugContinue (team : Nat)
  /-- DEBUG_STEP (R300). The debug port's step command returns and stops after one instruction. -/
  | debugStep (team : Nat)
  /-- REGISTER_WRITE (R3). A write to a register with no row of its own sets its fields under their access codes. -/
  | registerWrite (target : RegTarget) (value : BitVec 64)
  /-- TRANSLATION_WALK (R96). The die's translation service completes a table walk and delivers a translation or a fault to every merged miss waiting on it. -/
  | translationWalk (core : Nat) (tenant : BitVec 8) (va : BitVec 64) (acc : AccKind) (sys : Bool)
  /-- POWER_LOSS (R353). Power is lost, stopping the device while the monotonic signing-index counter keeps its value. -/
  | powerLoss
  /-- DOMAIN_DISSOLUTION (R346). The load-store domain is dissolved, ending the fixed device IDs assigned at its formation. -/
  | domainDissolution
  /-- DEBUG_ADMISSION_END (R354). A tenant's admission to debugging ends, so later job records no longer get DEBUG set. -/
  | debugAdmissionEnd (tenant : BitVec 8)
  deriving DecidableEq, Repr

end Sys2Proof
end

