-- ==== Sys2Proof/WellFormed.lean ====
section
/-!
DEFINITION. Well-formedness: what an encoded instruction must satisfy beyond the types of its fields
(08_encoding.md R152, R155, R158, R160; 10_isa_vector.md R189, R190; 11_isa_memory_sync.md R206, R211, R214, R216;
13_isa_matrix_stream.md R248, R255; 15_system_traps.md R294, R295, R301).
An event has no encoding, so nothing restricts it.
-/

namespace Sys2Proof

/-- The format and type pairs of `red.add`, `red.min`, `red.max` and their returning forms (R206). -/
def Fmt.isArith : Fmt → Bool
  | .s32 | .n32 | .s64 | .n64 | .f32 | .f64 => true
  | _ => false

/-- The formats of the bitwise reductions and atomics (R206). -/
def Fmt.isBitwise : Fmt → Bool
  | .b32 | .s32 | .n32 | .s64 | .n64 => true
  | _ => false

/-- The formats of `atom.xchg` and `atom.cas` (R206). -/
def Fmt.isExchange : Fmt → Bool
  | .b32 | .s32 | .n32 | .f32 | .s64 | .n64 | .f64 => true
  | _ => false

/-- The formats of the full/empty accesses (R211). -/
def Fmt.isFullEmpty : Fmt → Bool
  | .s32 | .n32 | .b32 | .f32 | .s64 | .n64 | .f64 => true
  | _ => false

/-- The A formats of `mm` (R248). -/
def Tag.isMatrixA : Tag → Bool
  | .fmt .f64 | .fmt .f32 | .fmt .bf16 | .fmt .f16 | .fmt .s8 | .fmt .n8 => true
  | .nf _ => true
  | _ => false

/-- The A formats of `mmo`: those of `mm` without f64 (R255). -/
def Tag.isOctetA : Tag → Bool
  | .fmt .f64 => false
  | t => t.isMatrixA

/-- The destination formats of `cvt`: b32 and pk are unassigned (R155). -/
def Tag.isCvtTarget : Tag → Bool
  | .fmt .b32 | .fmt .pk => false
  | _ => true

/-- Whether a tag is floating or narrow. -/
def Tag.isFloating (t : Tag) : Bool :=
  match t with
  | .nf _ | .fmt .f32 | .fmt .f64 | .fmt .bf16 | .fmt .f16 => true
  | _ => false

/-- Whether a tag names a narrow format. -/
def Tag.isNarrow (t : Tag) : Bool :=
  match t with
  | .nf _ => true
  | .fmt _ => false

/-- A rounding code and SAT bit of `cvt` that no source of the target's rows allows, so that the encoding alone is
disallowed (R71, R160, R190, R191). -/
def cvtBarred (df : Tag) (sat : Bool) (rm : BitVec 3) : Bool :=
  if df.isFloating then
    sat || decide (5 < rm.toNat) || (rm == 5 && !df.isNarrow) ||
      (rm == 4 && !(df.isNarrow || df == .fmt .bf16 || df == .fmt .f16))
  else decide (3 < rm.toNat) || (sat && rm != 0)

/-- Whether a condition code is allowed with a type: `uo` and `ord` need a floating type (R155, R189). -/
def CmpOp.allowed (cc : CmpOp) (ty : CmpTy) : Bool :=
  match cc, ty with
  | .uo, .s32 | .uo, .n32 | .uo, .s64 | .uo, .n64 => false
  | .ord, .s32 | .ord, .n32 | .ord, .s64 | .ord, .n64 => false
  | _, _ => true

/-- The release scopes of `bar` (R214). -/
def Scope.isBar : Scope → Bool
  | .team => false
  | _ => true

/-- The release scopes of `gbar` (R214). -/
def Scope.isGbar : Scope → Bool
  | .device | .domain => true
  | _ => false

/-- The scopes of `tcinv` and `tcinva` (R301). -/
def Scope.isTcinv : Scope → Bool
  | .core | .die | .device | .domain => true
  | _ => false

/-- The number of words of a control register (R294). -/
def CtlReg.words : CtlReg → Nat
  | .vacant => 33
  | .om => 16
  | .emask => 33
  | _ => 1

/-- The residual checks, constructor by constructor. -/
def Instr.wf : Instr → Bool
  | .movShort ss vd => !(ss == 0 && vd == 0)
  | .cmp _ _ ty _ cc => cc.allowed ty
  | .cvt df sat _ _ _ rm => df.isCvtTarget && !cvtBarred df sat rm
  | .mget w _ _ => w.ule 32
  | .mput w _ _ => w.ule 31
  | .bdiv _ joff _ => joff != 0
  | .rdid n _ => n.ule 13
  | .redAdd _ _ _ f | .redMin _ _ _ f | .redMax _ _ _ f => f.isArith
  | .redAnd _ _ _ f | .redOr _ _ _ f | .redXor _ _ _ f => f.isBitwise
  | .atomAdd _ _ _ f | .atomMin _ _ _ f | .atomMax _ _ _ f => f.isArith
  | .atomAnd _ _ _ f | .atomOr _ _ _ f | .atomXor _ _ _ f => f.isBitwise
  | .atomXchg _ _ _ f | .atomCas _ _ _ f => f.isExchange
  | .ldfe _ _ _ f | .stfe _ _ _ f | .ldf _ _ _ f => f.isFullEmpty
  | .bar sc _ => sc.isBar
  | .gbar sc _ => sc.isGbar
  | .spawn _ np _ _ => np.ule 4
  | .mm f _ _ _ _ | .mmSp f _ _ _ _ => f.isMatrixA
  | .mmo f _ _ _ _ | .mmoSp f _ _ _ _ => f.isOctetA
  | .crr cr sa _ => cr.words != 1 || sa == .s 0
  | .crw cr _ sd => cr.words != 1 || sd == 0
  | .crs cr _ _ | .crc cr _ _ => cr.words == 1
  | .tcinv sc _ | .tcinva sc _ => sc.isTcinv
  | .hint hk p => if hk == 0 then p != 0 else hk != 1 && hk != 2
  | _ => true

/-- A well-formed instruction. -/
abbrev Instr.WellFormed (i : Instr) : Prop := i.wf = true

end Sys2Proof
end

