-- ==== Sys2Proof/Decode.lean ====
section
/-!
DEFINITION. Decoding: from the parcels at the PC to an instruction or a named refusal, total on any bytes
(08_encoding.md R150 to R161), and the encoder written from the same tables. Checks follow the order of R161:
codes first, then reserved fields, then specifiers, then rounding codes, then `crs`/`crc` on several words.
Events (95_what_each_step_holds.md) have no encoding.
-/

namespace Sys2Proof

/-- What the decoder reads from a word. Lean's runtime builds at most 244 constructors with fields, so five
instructions have their own alternatives here; `Decoded.toInstr` says which instruction each is. -/
inductive Decoded where
  | instr (i : Instr)
  | hint (hk : BitVec 5) (payload : BitVec 20)
  | tcinv (all : Bool) (sc : Scope) (sa : SSrc)
  deriving DecidableEq, Repr

/-- The instruction a decoded word is; major 63 is the hint space (R159). -/
noncomputable def Decoded.toInstr : Decoded → Instr
  | .instr i => i
  | .hint hk p =>
    if hk == 0 && p == 0 then .nop
    else if hk == 1 then .targetEntry p
    else if hk == 2 then .targetListHeader p
    else .hint hk p
  | .tcinv all sc sa => if all then .tcinva sc sa else .tcinv sc sa

/-- Why a word is not an instruction; each has its class 0 detail (R160, R370). -/
inductive Reject where
  /-- The parcel 0x0000. -/
  | zeroParcel
  /-- An unassigned major. -/
  | major
  /-- An unassigned minor, FN, OP, CC, kind, DF, format pair, tag or scope code. -/
  | code
  /-- A non-zero reserved field. -/
  | reserved
  /-- An unassigned operand specifier. -/
  | specifier
  /-- A disallowed rounding code. -/
  | rounding
  /-- A control register number that R294 does not list. -/
  | ctlReg
  /-- `crs` or `crc` on a register of several words. -/
  | severalWords
  /-- An unassigned engine ID. -/
  | engine
  /-- Fewer bytes than the instruction has: no class 0 trap, fetch reads on (R150). -/
  | truncated
  deriving DecidableEq, Repr

/-- The class 0 code of a refusal (R370). `truncated` never reaches a trap. -/
def Reject.detail : Reject → BitVec 9
  | .zeroParcel => 0x000
  | .major => 0x001
  | .code => 0x002
  | .reserved => 0x003
  | .specifier => 0x004
  | .rounding => 0x005
  | .ctlReg => 0x007
  | .severalWords => 0x008
  | .engine => 0x00A
  | .truncated => 0x000

/-- Refuse with `r` unless the condition holds. -/
def require (b : Bool) (r : Reject) : Except Reject Unit :=
  if b then .ok () else .error r

/-! ## Fields -/

/-- A vector-class specifier (R153). -/
def vsrcOf (p : BitVec 7) : Except Reject VSrc :=
  if p.ult 64 then .ok (.v (p.extractLsb' 0 6))
  else if p.ult 72 then .ok (.o (p.extractLsb' 0 3))
  else if p.ult 76 then .ok (.x (p.extractLsb' 0 2))
  else if p.ult 96 then .error .specifier
  else .ok (.imm (p.extractLsb' 0 5))

/-- A scalar-class specifier (R153). -/
def ssrcOf (p : BitVec 7) : Except Reject SSrc :=
  if p.ult 64 then .ok (.s (p.extractLsb' 0 6))
  else if p.ult 96 then .error .specifier
  else .ok (.imm (p.extractLsb' 0 5))

/-- The specifier of a vector-class operand (R153). -/
def VSrc.bits : VSrc → BitVec 7
  | .v r => (0#1 ++ r : BitVec 7)
  | .o r => (8#4 ++ r : BitVec 7)
  | .x r => (18#5 ++ r : BitVec 7)
  | .imm i => (3#2 ++ i : BitVec 7)

/-- The specifier of a scalar-class operand (R153). -/
def SSrc.bits : SSrc → BitVec 7
  | .s r => (0#1 ++ r : BitVec 7)
  | .imm i => (3#2 ++ i : BitVec 7)

/-- The tag number of a built-in format (R55). -/
def Fmt.code : Fmt → BitVec 4
  | .f64 => 0 | .f32 => 1 | .bf16 => 2 | .f16 => 3 | .s8 => 4 | .s16 => 5 | .s32 => 6 | .s64 => 7
  | .n8 => 8 | .n16 => 9 | .n32 => 10 | .n64 => 11 | .b32 => 12 | .pk => 13

/-- A four-bit format field; 14 and 15 are unassigned (R155). -/
def fmtOf (b : BitVec 4) : Except Reject Fmt :=
  match b.toNat with
  | 0 => .ok .f64 | 1 => .ok .f32 | 2 => .ok .bf16 | 3 => .ok .f16 | 4 => .ok .s8 | 5 => .ok .s16
  | 6 => .ok .s32 | 7 => .ok .s64 | 8 => .ok .n8 | 9 => .ok .n16 | 10 => .ok .n32 | 11 => .ok .n64
  | 12 => .ok .b32 | 13 => .ok .pk | _ => .error .code

/-- The five bits of a tag (R55). -/
def Tag.code : Tag → BitVec 5
  | .fmt f => (0#1 ++ f.code : BitVec 5)
  | .nf k => (1#1 ++ k : BitVec 5)

/-- A five-bit tag field; 14 and 15 are unassigned (R55, R155). -/
def tagOf (b : BitVec 5) : Except Reject Tag :=
  if b.ult 16 then (fmtOf (b.extractLsb' 0 4)).map .fmt else .ok (.nf (b.extractLsb' 0 4))

/-- FT of formats D and U (R155). -/
def FType.code : FType → BitVec 2
  | .f32 => 0 | .f64 => 1 | .f16 => 2 | .bf16 => 3

/-- Decodes FT. -/
def ftypeOf (b : BitVec 2) : FType :=
  match b.toNat with
  | 0 => .f32 | 1 => .f64 | 2 => .f16 | _ => .bf16

/-- The low two bits of majors 8 to 11 (R157). -/
def IType.code : IType → BitVec 2
  | .s32 => 0 | .n32 => 1 | .s64 => 2 | .n64 => 3

/-- Decodes the type of majors 8 to 11. -/
def itypeOf (b : BitVec 2) : IType :=
  match b.toNat with
  | 0 => .s32 | 1 => .n32 | 2 => .s64 | _ => .n64

/-- TY of format VM (R155). -/
def CmpTy.code : CmpTy → BitVec 3
  | .f32 => 0 | .f64 => 1 | .f16 => 2 | .bf16 => 3 | .s32 => 4 | .n32 => 5 | .s64 => 6 | .n64 => 7

/-- Decodes TY. -/
def cmpTyOf (b : BitVec 3) : CmpTy :=
  match b.toNat with
  | 0 => .f32 | 1 => .f64 | 2 => .f16 | 3 => .bf16 | 4 => .s32 | 5 => .n32 | 6 => .s64 | _ => .n64

/-- CC of format VM (R155). -/
def CmpOp.code : CmpOp → BitVec 4
  | .eq => 0 | .ne => 1 | .lt => 2 | .le => 3 | .gt => 4 | .ge => 5 | .uo => 6 | .ord => 7

/-- Decodes CC; 8 to 15 are unassigned. -/
def cmpOpOf (b : BitVec 4) : Except Reject CmpOp :=
  match b.toNat with
  | 0 => .ok .eq | 1 => .ok .ne | 2 => .ok .lt | 3 => .ok .le | 4 => .ok .gt | 5 => .ok .ge
  | 6 => .ok .uo | 7 => .ok .ord | _ => .error .code

/-- The scope codes of AUX[2:0] (R158). -/
def Scope.code : Scope → BitVec 3
  | .team => 0 | .gang => 1 | .core => 2 | .die => 3 | .device => 4 | .domain => 5

/-- Decodes a scope; 6 and 7 are unassigned. -/
def scopeOf (b : BitVec 3) : Except Reject Scope :=
  match b.toNat with
  | 0 => .ok .team | 1 => .ok .gang | 2 => .ok .core | 3 => .ok .die | 4 => .ok .device | 5 => .ok .domain
  | _ => .error .code

/-- The engine ID of major 49 (R278). -/
def EngineId.code : EngineId → BitVec 7
  | .bce => 0
  | .gs d => (1#5 ++ d : BitVec 7)
  | .se k => 8 + (0#2 ++ k : BitVec 7)

/-- Decodes an engine ID; 1 to 3 and 40 to 127 are unassigned. -/
def engineOf (b : BitVec 7) : Except Reject EngineId :=
  if b == 0 then .ok .bce
  else if b.ult 4 then .error .engine
  else if b.ult 8 then .ok (.gs (b.extractLsb' 0 2))
  else if b.ult 40 then .ok (.se ((b - 8).extractLsb' 0 5))
  else .error .engine

/-- The number of a control register (R294). -/
def CtlReg.code : CtlReg → BitVec 7
  | .pathq => 0 | .xfill => 1 | .vacant => 2 | .mxs => 3 | .logt => 4 | .om => 5 | .tstat => 6 | .dbgctl => 7
  | .tvec => 8 | .cause => 9 | .epc => 10 | .eaddr => 11 | .emask => 12 | .ttbase => 13

/-- Decodes a control register number (R294). -/
def ctlRegOf (b : BitVec 7) : Except Reject CtlReg :=
  match b.toNat with
  | 0 => .ok .pathq | 1 => .ok .xfill | 2 => .ok .vacant | 3 => .ok .mxs | 4 => .ok .logt | 5 => .ok .om
  | 6 => .ok .tstat | 7 => .ok .dbgctl | 8 => .ok .tvec | 9 => .ok .cause | 10 => .ok .epc | 11 => .ok .eaddr
  | 12 => .ok .emask | 13 => .ok .ttbase | _ => .error .ctlReg

/-- The body kinds of `ckind` (R271). -/
def BodyKind.code : BodyKind → BitVec 2
  | .dynamic => 0 | .kinematic => 1 | .static => 2

/-- Decodes a body kind; 3 is unassigned. -/
def bodyKindOf (b : BitVec 2) : Except Reject BodyKind :=
  match b.toNat with
  | 0 => .ok .dynamic | 1 => .ok .kinematic | 2 => .ok .static | _ => .error .code

/-- The selectors of `cquery` (R275). -/
def QueryField.code : QueryField → BitVec 3
  | .root => 0 | .state => 1 | .isl => 2 | .ecnt => 3 | .shard => 4 | .slot => 5

/-- Decodes a selector; 6 and 7 are unassigned. -/
def queryOf (b : BitVec 3) : Except Reject QueryField :=
  match b.toNat with
  | 0 => .ok .root | 1 => .ok .state | 2 => .ok .isl | 3 => .ok .ecnt | 4 => .ok .shard | 5 => .ok .slot
  | _ => .error .code

/-! ## The 16-bit form -/

/-- Decodes a 16-bit parcel whose bit 0 is 0 (R152). -/
def decode16 (p : BitVec 16) : Except Reject Instr :=
  if p == 0 then .error .zeroParcel
  else
    let ss := p.extractLsb' 11 5
    let vd := p.extractLsb' 5 6
    match (p.extractLsb' 1 4).toNat with
    | 0 => .ok (.movShort ss vd)
    | 1 => .ok (.addF32Short ss vd)
    | 2 => .ok (.subF32Short ss vd)
    | 3 => .ok (.mulF32Short ss vd)
    | 4 => .ok (.minF32Short ss vd)
    | 5 => .ok (.maxF32Short ss vd)
    | 6 => .ok (.addS32Short ss vd)
    | 7 => .ok (.subS32Short ss vd)
    | 8 => .ok (.mulS32Short ss vd)
    | 9 => .ok (.addN32Short ss vd)
    | 10 => .ok (.subN32Short ss vd)
    | 11 => .ok (.andB32Short ss vd)
    | 12 => .ok (.orB32Short ss vd)
    | 13 => .ok (.xorB32Short ss vd)
    | 14 => .ok (.shlN32Short ss vd)
    | _ => .ok (.shrN32Short ss vd)

/-! ## The 32-bit formats -/

/-- Format F, F32 (R155, R183). -/
def decodeFF32 (w : BitVec 32) : Except Reject Instr := do
  let vb ← vsrcOf (w.extractLsb' 25 7)
  let va ← vsrcOf (w.extractLsb' 18 7)
  match (w.extractLsb' 9 2).toNat with
  | 0 => .ok (.addF32 vb va (w.extractLsb' 12 6) (w.getLsbD 11) (w.extractLsb' 7 2))
  | 1 => .ok (.subF32 vb va (w.extractLsb' 12 6) (w.getLsbD 11) (w.extractLsb' 7 2))
  | 2 => .ok (.mulF32 vb va (w.extractLsb' 12 6) (w.getLsbD 11) (w.extractLsb' 7 2))
  | _ => .ok (.fmaF32 vb va (w.extractLsb' 12 6) (w.getLsbD 11) (w.extractLsb' 7 2))

/-- Format F, F64 (R155, R183). -/
def decodeFF64 (w : BitVec 32) : Except Reject Instr := do
  let vb ← vsrcOf (w.extractLsb' 25 7)
  let va ← vsrcOf (w.extractLsb' 18 7)
  match (w.extractLsb' 9 2).toNat with
  | 0 => .ok (.addF64 vb va (w.extractLsb' 12 6) (w.getLsbD 11) (w.extractLsb' 7 2))
  | 1 => .ok (.subF64 vb va (w.extractLsb' 12 6) (w.getLsbD 11) (w.extractLsb' 7 2))
  | 2 => .ok (.mulF64 vb va (w.extractLsb' 12 6) (w.getLsbD 11) (w.extractLsb' 7 2))
  | _ => .ok (.fmaF64 vb va (w.extractLsb' 12 6) (w.getLsbD 11) (w.extractLsb' 7 2))

/-- Format F, F16 (R155, R183). -/
def decodeFF16 (w : BitVec 32) : Except Reject Instr := do
  let vb ← vsrcOf (w.extractLsb' 25 7)
  let va ← vsrcOf (w.extractLsb' 18 7)
  match (w.extractLsb' 9 2).toNat with
  | 0 => .ok (.addF16 vb va (w.extractLsb' 12 6) (w.getLsbD 11) (w.extractLsb' 7 2))
  | 1 => .ok (.subF16 vb va (w.extractLsb' 12 6) (w.getLsbD 11) (w.extractLsb' 7 2))
  | 2 => .ok (.mulF16 vb va (w.extractLsb' 12 6) (w.getLsbD 11) (w.extractLsb' 7 2))
  | _ => .ok (.fmaF16 vb va (w.extractLsb' 12 6) (w.getLsbD 11) (w.extractLsb' 7 2))

/-- Format F, Bf16 (R155, R183). -/
def decodeFBf16 (w : BitVec 32) : Except Reject Instr := do
  let vb ← vsrcOf (w.extractLsb' 25 7)
  let va ← vsrcOf (w.extractLsb' 18 7)
  match (w.extractLsb' 9 2).toNat with
  | 0 => .ok (.addBf16 vb va (w.extractLsb' 12 6) (w.getLsbD 11) (w.extractLsb' 7 2))
  | 1 => .ok (.subBf16 vb va (w.extractLsb' 12 6) (w.getLsbD 11) (w.extractLsb' 7 2))
  | 2 => .ok (.mulBf16 vb va (w.extractLsb' 12 6) (w.getLsbD 11) (w.extractLsb' 7 2))
  | _ => .ok (.fmaBf16 vb va (w.extractLsb' 12 6) (w.getLsbD 11) (w.extractLsb' 7 2))

/-- Major 5, format D (R184). -/
def decodeDiv (w : BitVec 32) : Except Reject Instr := do
  let vb ← vsrcOf (w.extractLsb' 25 7)
  let va ← vsrcOf (w.extractLsb' 18 7)
  .ok (.div vb va (w.extractLsb' 12 6) (w.getLsbD 11) (ftypeOf (w.extractLsb' 9 2)) (w.extractLsb' 7 2))

/-- Major 6, format D (R184). -/
def decodeMinMax (w : BitVec 32) : Except Reject Instr := do
  require ((w.extractLsb' 7 2) != 3) .code
  let vb ← vsrcOf (w.extractLsb' 25 7)
  let va ← vsrcOf (w.extractLsb' 18 7)
  match (w.extractLsb' 7 2).toNat with
  | 0 => .ok (.fmin vb va (w.extractLsb' 12 6) (w.getLsbD 11) (ftypeOf (w.extractLsb' 9 2)))
  | 1 => .ok (.fmax vb va (w.extractLsb' 12 6) (w.getLsbD 11) (ftypeOf (w.extractLsb' 9 2)))
  | _ => .ok (.copysign vb va (w.extractLsb' 12 6) (w.getLsbD 11) (ftypeOf (w.extractLsb' 9 2)))

/-- Major 7, format U (R185); `neg`, `abs` and `fclass` require RM 0. -/
def decodeUnary (w : BitVec 32) : Except Reject Instr := do
  require ((w.extractLsb' 25 7).ult 12) .code
  let va ← vsrcOf (w.extractLsb' 18 7)
  require ((w.extractLsb' 25 7).ult 9 || (w.extractLsb' 7 2) == 0) .rounding
  match (w.extractLsb' 25 7).toNat with
  | 0 => .ok (.sqrt va (w.extractLsb' 12 6) (w.getLsbD 11) (ftypeOf (w.extractLsb' 9 2)) (w.extractLsb' 7 2))
  | 1 => .ok (.rcp va (w.extractLsb' 12 6) (w.getLsbD 11) (ftypeOf (w.extractLsb' 9 2)) (w.extractLsb' 7 2))
  | 2 => .ok (.rsqrt va (w.extractLsb' 12 6) (w.getLsbD 11) (ftypeOf (w.extractLsb' 9 2)) (w.extractLsb' 7 2))
  | 3 => .ok (.exp2 va (w.extractLsb' 12 6) (w.getLsbD 11) (ftypeOf (w.extractLsb' 9 2)) (w.extractLsb' 7 2))
  | 4 => .ok (.log2 va (w.extractLsb' 12 6) (w.getLsbD 11) (ftypeOf (w.extractLsb' 9 2)) (w.extractLsb' 7 2))
  | 5 => .ok (.sin va (w.extractLsb' 12 6) (w.getLsbD 11) (ftypeOf (w.extractLsb' 9 2)) (w.extractLsb' 7 2))
  | 6 => .ok (.cos va (w.extractLsb' 12 6) (w.getLsbD 11) (ftypeOf (w.extractLsb' 9 2)) (w.extractLsb' 7 2))
  | 7 => .ok (.tanh va (w.extractLsb' 12 6) (w.getLsbD 11) (ftypeOf (w.extractLsb' 9 2)) (w.extractLsb' 7 2))
  | 8 => .ok (.rint va (w.extractLsb' 12 6) (w.getLsbD 11) (ftypeOf (w.extractLsb' 9 2)) (w.extractLsb' 7 2))
  | 9 => .ok (.fneg va (w.extractLsb' 12 6) (w.getLsbD 11) (ftypeOf (w.extractLsb' 9 2)))
  | 10 => .ok (.fabs va (w.extractLsb' 12 6) (w.getLsbD 11) (ftypeOf (w.extractLsb' 9 2)))
  | _ => .ok (.fclass va (w.extractLsb' 12 6) (w.getLsbD 11) (ftypeOf (w.extractLsb' 9 2)))

/-- Majors 8 to 11, format V (R186); `abs` and `neg` exist for the signed types only and reserve SB. -/
def decodeInt (w : BitVec 32) : Except Reject Instr := do
  require ((w.extractLsb' 7 4) != 15 && (!w.getLsbD 1 || ((w.extractLsb' 7 4) != 10 && (w.extractLsb' 7 4) != 11))) .code
  if (w.extractLsb' 7 4) == 10 || (w.extractLsb' 7 4) == 11 then
    require ((w.extractLsb' 25 7) == 0) .reserved
    let va ← vsrcOf (w.extractLsb' 18 7)
    if (w.extractLsb' 7 4) == 10 then .ok (.intAbs va (w.extractLsb' 12 6) (w.getLsbD 11) (w.getLsbD 2))
    else .ok (.intNeg va (w.extractLsb' 12 6) (w.getLsbD 11) (w.getLsbD 2))
  else
    let vb ← vsrcOf (w.extractLsb' 25 7)
    let va ← vsrcOf (w.extractLsb' 18 7)
    match (w.extractLsb' 7 4).toNat with
    | 0 => .ok (.intAdd vb va (w.extractLsb' 12 6) (w.getLsbD 11) (itypeOf (w.extractLsb' 1 2)))
    | 1 => .ok (.intSub vb va (w.extractLsb' 12 6) (w.getLsbD 11) (itypeOf (w.extractLsb' 1 2)))
    | 2 => .ok (.intMul vb va (w.extractLsb' 12 6) (w.getLsbD 11) (itypeOf (w.extractLsb' 1 2)))
    | 3 => .ok (.intMulh vb va (w.extractLsb' 12 6) (w.getLsbD 11) (itypeOf (w.extractLsb' 1 2)))
    | 4 => .ok (.intMin vb va (w.extractLsb' 12 6) (w.getLsbD 11) (itypeOf (w.extractLsb' 1 2)))
    | 5 => .ok (.intMax vb va (w.extractLsb' 12 6) (w.getLsbD 11) (itypeOf (w.extractLsb' 1 2)))
    | 6 => .ok (.intAdds vb va (w.extractLsb' 12 6) (w.getLsbD 11) (itypeOf (w.extractLsb' 1 2)))
    | 7 => .ok (.intSubs vb va (w.extractLsb' 12 6) (w.getLsbD 11) (itypeOf (w.extractLsb' 1 2)))
    | 8 => .ok (.intShl vb va (w.extractLsb' 12 6) (w.getLsbD 11) (itypeOf (w.extractLsb' 1 2)))
    | 9 => .ok (.intShr vb va (w.extractLsb' 12 6) (w.getLsbD 11) (itypeOf (w.extractLsb' 1 2)))
    | 12 => .ok (.intMad vb va (w.extractLsb' 12 6) (w.getLsbD 11) (itypeOf (w.extractLsb' 1 2)))
    | 13 => .ok (.intDiv vb va (w.extractLsb' 12 6) (w.getLsbD 11) (itypeOf (w.extractLsb' 1 2)))
    | _ => .ok (.intRem vb va (w.extractLsb' 12 6) (w.getLsbD 11) (itypeOf (w.extractLsb' 1 2)))

/-- Major 12, format V (R187); SB is reserved for FN 4 to 7 and 9. -/
def decodeBits (w : BitVec 32) : Except Reject Instr := do
  require ((w.extractLsb' 7 4).ult 10) .code
  if (((w.extractLsb' 7 4)).ule 3 || (w.extractLsb' 7 4) == 8) then
    let vb ← vsrcOf (w.extractLsb' 25 7)
    let va ← vsrcOf (w.extractLsb' 18 7)
    match (w.extractLsb' 7 4).toNat with
    | 0 => .ok (.bitAnd vb va (w.extractLsb' 12 6) (w.getLsbD 11))
    | 1 => .ok (.bitOr vb va (w.extractLsb' 12 6) (w.getLsbD 11))
    | 2 => .ok (.bitXor vb va (w.extractLsb' 12 6) (w.getLsbD 11))
    | 3 => .ok (.bitAndn vb va (w.extractLsb' 12 6) (w.getLsbD 11))
    | _ => .ok (.bitRotl vb va (w.extractLsb' 12 6) (w.getLsbD 11))
  else
    require ((w.extractLsb' 25 7) == 0) .reserved
    let va ← vsrcOf (w.extractLsb' 18 7)
    match (w.extractLsb' 7 4).toNat with
    | 4 => .ok (.bitNot va (w.extractLsb' 12 6) (w.getLsbD 11))
    | 5 => .ok (.bitPopc va (w.extractLsb' 12 6) (w.getLsbD 11))
    | 6 => .ok (.bitClz va (w.extractLsb' 12 6) (w.getLsbD 11))
    | 7 => .ok (.bitCtz va (w.extractLsb' 12 6) (w.getLsbD 11))
    | _ => .ok (.bitBrev va (w.extractLsb' 12 6) (w.getLsbD 11))

/-- Major 13, format VM (R189); bit 11 is reserved. -/
def decodeCmp (w : BitVec 32) : Except Reject Instr := do
  let cc ← cmpOpOf (w.extractLsb' 7 4)
  require (cc.allowed (cmpTyOf (w.extractLsb' 15 3))) .code
  require (!w.getLsbD 11) .reserved
  let vb ← vsrcOf (w.extractLsb' 25 7)
  let va ← vsrcOf (w.extractLsb' 18 7)
  .ok (.cmp vb va (cmpTyOf (w.extractLsb' 15 3)) (w.extractLsb' 12 3) cc)

/-- Major 14, format C (R190); bits 25 and 7 are reserved, RM 6 and 7 never allowed (R71). -/
def decodeCvt (w : BitVec 32) : Except Reject Instr := do
  let df ← tagOf (w.extractLsb' 27 5)
  require df.isCvtTarget .code
  require (!w.getLsbD 25 && !w.getLsbD 7) .reserved
  let va ← vsrcOf (w.extractLsb' 18 7)
  require (!cvtBarred df (w.getLsbD 26) (w.extractLsb' 8 3)) .rounding
  .ok (.cvt df (w.getLsbD 26) va (w.extractLsb' 12 6) (w.getLsbD 11) (w.extractLsb' 8 3))

/-- Major 15, format VI (R188). -/
def decodeVaddi (w : BitVec 32) : Except Reject Instr := do
  let va ← vsrcOf (w.extractLsb' 14 7)
  .ok (.vaddi (w.extractLsb' 21 11) va (w.extractLsb' 8 6) (w.getLsbD 7))

/-- Major 16, format VI (R188); IMM[10:7] is reserved and IMM[6:5] the kind. -/
def decodeVshi (w : BitVec 32) : Except Reject Instr := do
  require ((w.extractLsb' 28 4) == 0) .reserved
  let va ← vsrcOf (w.extractLsb' 14 7)
  match (w.extractLsb' 26 2).toNat with
  | 0 => .ok (.shli (w.extractLsb' 21 5) va (w.extractLsb' 8 6) (w.getLsbD 7))
  | 1 => .ok (.shriN (w.extractLsb' 21 5) va (w.extractLsb' 8 6) (w.getLsbD 7))
  | 2 => .ok (.shriS (w.extractLsb' 21 5) va (w.extractLsb' 8 6) (w.getLsbD 7))
  | _ => .ok (.rotli (w.extractLsb' 21 5) va (w.extractLsb' 8 6) (w.getLsbD 7))

/-- Major 17, format V (R197 to R200). -/
def decodeCross (w : BitVec 32) : Except Reject Instr := do
  require ((w.extractLsb' 7 4).ult 11) .code
  if ((w.extractLsb' 7 4)).ule 1 then
    let va ← vsrcOf (w.extractLsb' 18 7)
    let vb ← vsrcOf (w.extractLsb' 25 7)
    if (w.extractLsb' 7 4) == 0 then .ok (.xperm vb va (w.extractLsb' 12 6) (w.getLsbD 11)) else .ok (.shfl vb va (w.extractLsb' 12 6) (w.getLsbD 11))
  else if (w.extractLsb' 7 4) == 10 then
    let sk ← ssrcOf (w.extractLsb' 18 7)
    let vc ← vsrcOf (w.extractLsb' 25 7)
    .ok (.rngN32 vc sk (w.extractLsb' 12 6) (w.getLsbD 11))
  else
    let va ← vsrcOf (w.extractLsb' 18 7)
    let sb ← ssrcOf (w.extractLsb' 25 7)
    match (w.extractLsb' 7 4).toNat with
    | 2 => .ok (.shflXor sb va (w.extractLsb' 12 6) (w.getLsbD 11))
    | 3 => .ok (.shflUp sb va (w.extractLsb' 12 6) (w.getLsbD 11))
    | 4 => .ok (.shflDn sb va (w.extractLsb' 12 6) (w.getLsbD 11))
    | 5 => .ok (.voteAny sb va (w.extractLsb' 12 6) (w.getLsbD 11))
    | 6 => .ok (.voteAll sb va (w.extractLsb' 12 6) (w.getLsbD 11))
    | 7 => .ok (.voteEq sb va (w.extractLsb' 12 6) (w.getLsbD 11))
    | 8 => .ok (.ballot sb va (w.extractLsb' 12 6) (w.getLsbD 11))
    | _ => .ok (.csamp sb va (w.extractLsb' 12 6) (w.getLsbD 11))

/-- Major 18, format V (R193, R194). -/
def decodeMoves (w : BitVec 32) : Except Reject Instr := do
  require ((w.extractLsb' 7 4).ult 9) .code
  match (w.extractLsb' 7 4).toNat with
  | 0 => do
    require ((w.extractLsb' 25 7) == 0) .reserved
    let va ← vsrcOf (w.extractLsb' 18 7)
    .ok (.mov va (w.extractLsb' 12 6) (w.getLsbD 11))
  | 1 => do
    let tag ← tagOf (w.extractLsb' 25 5)
    require ((w.extractLsb' 30 2) == 0) .reserved
    let va ← vsrcOf (w.extractLsb' 18 7)
    .ok (.movtag tag va (w.extractLsb' 12 6) (w.getLsbD 11))
  | 2 => do
    require ((w.extractLsb' 18 14) == 0) .reserved
    .ok (.lane (w.extractLsb' 12 6) (w.getLsbD 11))
  | 3 => do
    let va ← vsrcOf (w.extractLsb' 18 7)
    let sb ← ssrcOf (w.extractLsb' 25 7)
    .ok (.bcast sb va (w.extractLsb' 12 6) (w.getLsbD 11))
  | 4 => do
    let va ← vsrcOf (w.extractLsb' 18 7)
    let vb ← vsrcOf (w.extractLsb' 25 7)
    .ok (.sel vb va (w.extractLsb' 12 6) (w.getLsbD 11))
  | 5 => do
    let tag ← tagOf (w.extractLsb' 25 5)
    require ((w.extractLsb' 30 2) == 0) .reserved
    let va ← vsrcOf (w.extractLsb' 18 7)
    .ok (.vmoviGet tag va (w.extractLsb' 12 6) (w.getLsbD 11))
  | 6 => do
    require ((w.extractLsb' 11 7) == 0) .reserved
    let va ← vsrcOf (w.extractLsb' 18 7)
    let vb ← vsrcOf (w.extractLsb' 25 7)
    .ok (.vmoviPut vb va)
  | 7 => do
    let sa ← ssrcOf (w.extractLsb' 18 7)
    let sb ← ssrcOf (w.extractLsb' 25 7)
    .ok (.affine sb sa (w.extractLsb' 12 6) (w.getLsbD 11))
  | _ => do
    require ((w.extractLsb' 25 7) == 0 && (w.extractLsb' 15 3) == 0) .reserved
    let va ← vsrcOf (w.extractLsb' 18 7)
    .ok (.omov va (w.extractLsb' 12 3) (w.getLsbD 11))

/-- Major 19, format D with X = 0 (R192). -/
def decodeDot (w : BitVec 32) : Except Reject Instr := do
  require ((w.extractLsb' 7 2) == 0) .reserved
  let vb ← vsrcOf (w.extractLsb' 25 7)
  let va ← vsrcOf (w.extractLsb' 18 7)
  match (w.extractLsb' 9 2).toNat with
  | 0 => .ok (.dotF32Bf16 vb va (w.extractLsb' 12 6) (w.getLsbD 11))
  | 1 => .ok (.dotF32F16 vb va (w.extractLsb' 12 6) (w.getLsbD 11))
  | 2 => .ok (.dotS32S8 vb va (w.extractLsb' 12 6) (w.getLsbD 11))
  | _ => .ok (.dotF32Nf vb va (w.extractLsb' 12 6) (w.getLsbD 11))

/-- Major 20, format S (R163); SB is reserved for FN 24 to 27. -/
def decodeScalar (w : BitVec 32) : Except Reject Instr := do
  require ((w.extractLsb' 7 5).ult 28) .code
  if (w.extractLsb' 7 5).ult 24 then
    let sb ← ssrcOf (w.extractLsb' 25 7)
    let sa ← ssrcOf (w.extractLsb' 18 7)
    match (w.extractLsb' 7 5).toNat with
    | 0 => .ok (.sadd sb sa (w.extractLsb' 12 6))
    | 1 => .ok (.ssub sb sa (w.extractLsb' 12 6))
    | 2 => .ok (.smul sb sa (w.extractLsb' 12 6))
    | 3 => .ok (.smulhS sb sa (w.extractLsb' 12 6))
    | 4 => .ok (.smulhN sb sa (w.extractLsb' 12 6))
    | 5 => .ok (.sdivS sb sa (w.extractLsb' 12 6))
    | 6 => .ok (.sdivN sb sa (w.extractLsb' 12 6))
    | 7 => .ok (.sremS sb sa (w.extractLsb' 12 6))
    | 8 => .ok (.sremN sb sa (w.extractLsb' 12 6))
    | 9 => .ok (.sand sb sa (w.extractLsb' 12 6))
    | 10 => .ok (.sor sb sa (w.extractLsb' 12 6))
    | 11 => .ok (.sxor sb sa (w.extractLsb' 12 6))
    | 12 => .ok (.sandn sb sa (w.extractLsb' 12 6))
    | 13 => .ok (.sshl sb sa (w.extractLsb' 12 6))
    | 14 => .ok (.sshrN sb sa (w.extractLsb' 12 6))
    | 15 => .ok (.sshrS sb sa (w.extractLsb' 12 6))
    | 16 => .ok (.srotl sb sa (w.extractLsb' 12 6))
    | 17 => .ok (.sminS sb sa (w.extractLsb' 12 6))
    | 18 => .ok (.sminN sb sa (w.extractLsb' 12 6))
    | 19 => .ok (.smaxS sb sa (w.extractLsb' 12 6))
    | 20 => .ok (.smaxN sb sa (w.extractLsb' 12 6))
    | 21 => .ok (.ssltS sb sa (w.extractLsb' 12 6))
    | 22 => .ok (.ssltN sb sa (w.extractLsb' 12 6))
    | _ => .ok (.sseq sb sa (w.extractLsb' 12 6))
  else
    require ((w.extractLsb' 25 7) == 0) .reserved
    let sa ← ssrcOf (w.extractLsb' 18 7)
    match (w.extractLsb' 7 5).toNat with
    | 24 => .ok (.spopc sa (w.extractLsb' 12 6))
    | 25 => .ok (.sclz sa (w.extractLsb' 12 6))
    | 26 => .ok (.sctz sa (w.extractLsb' 12 6))
    | _ => .ok (.smov sa (w.extractLsb' 12 6))

/-- `saddi`, format SI (R164). -/
def decodeSaddi (w : BitVec 32) : Except Reject Instr := do
  let sa ← ssrcOf (w.extractLsb' 13 7)
  .ok (.saddi (w.extractLsb' 20 12) sa (w.extractLsb' 7 6))

/-- `sandi`, format SI (R164). -/
def decodeSandi (w : BitVec 32) : Except Reject Instr := do
  let sa ← ssrcOf (w.extractLsb' 13 7)
  .ok (.sandi (w.extractLsb' 20 12) sa (w.extractLsb' 7 6))

/-- `sori`, format SI (R164). -/
def decodeSori (w : BitVec 32) : Except Reject Instr := do
  let sa ← ssrcOf (w.extractLsb' 13 7)
  .ok (.sori (w.extractLsb' 20 12) sa (w.extractLsb' 7 6))

/-- `sxori`, format SI (R164). -/
def decodeSxori (w : BitVec 32) : Except Reject Instr := do
  let sa ← ssrcOf (w.extractLsb' 13 7)
  .ok (.sxori (w.extractLsb' 20 12) sa (w.extractLsb' 7 6))

/-- Major 25, format SI (R164); IMM[11:8] is reserved and IMM[7:6] the kind. -/
def decodeSshi (w : BitVec 32) : Except Reject Instr := do
  require ((w.extractLsb' 28 4) == 0) .reserved
  let sa ← ssrcOf (w.extractLsb' 13 7)
  match (w.extractLsb' 26 2).toNat with
  | 0 => .ok (.sshli (w.extractLsb' 20 6) sa (w.extractLsb' 7 6))
  | 1 => .ok (.sshriN (w.extractLsb' 20 6) sa (w.extractLsb' 7 6))
  | 2 => .ok (.sshriS (w.extractLsb' 20 6) sa (w.extractLsb' 7 6))
  | _ => .ok (.srotli (w.extractLsb' 20 6) sa (w.extractLsb' 7 6))

/-- Major 26, format SU (R165). -/
def decodeSu (w : BitVec 32) : Except Reject Instr := do
  if w.getLsbD 7 then .ok (.slk (w.extractLsb' 16 16) (w.extractLsb' 14 2) (w.extractLsb' 8 6))
  else .ok (.sli (w.extractLsb' 16 16) (w.extractLsb' 14 2) (w.extractLsb' 8 6))

/-- Major 27, format E (R166); bits an entry does not use are reserved. -/
def decodeMask (w : BitVec 32) : Except Reject Instr := do
  require ((w.extractLsb' 7 5).ult 11) .code
  match (w.extractLsb' 7 5).toNat with
  | 0 => do
    require ((w.extractLsb' 28 4) == 0 && (w.extractLsb' 21 4) == 0 && (w.extractLsb' 15 3) == 0) .reserved
    .ok (.mand (w.extractLsb' 25 3) (w.extractLsb' 18 3) (w.extractLsb' 12 3))
  | 1 => do
    require ((w.extractLsb' 28 4) == 0 && (w.extractLsb' 21 4) == 0 && (w.extractLsb' 15 3) == 0) .reserved
    .ok (.mor (w.extractLsb' 25 3) (w.extractLsb' 18 3) (w.extractLsb' 12 3))
  | 2 => do
    require ((w.extractLsb' 28 4) == 0 && (w.extractLsb' 21 4) == 0 && (w.extractLsb' 15 3) == 0) .reserved
    .ok (.mxor (w.extractLsb' 25 3) (w.extractLsb' 18 3) (w.extractLsb' 12 3))
  | 3 => do
    require ((w.extractLsb' 28 4) == 0 && (w.extractLsb' 21 4) == 0 && (w.extractLsb' 15 3) == 0) .reserved
    .ok (.mandn (w.extractLsb' 25 3) (w.extractLsb' 18 3) (w.extractLsb' 12 3))
  | 4 => do
    require ((w.extractLsb' 25 7) == 0 && (w.extractLsb' 21 4) == 0 && (w.extractLsb' 15 3) == 0) .reserved
    .ok (.mnot (w.extractLsb' 18 3) (w.extractLsb' 12 3))
  | 5 => do
    require ((w.extractLsb' 25 7) == 0 && (w.extractLsb' 21 4) == 0 && (w.extractLsb' 15 3) == 0) .reserved
    .ok (.mmov (w.extractLsb' 18 3) (w.extractLsb' 12 3))
  | 6 => do
    require ((w.extractLsb' 25 7) == 0 && (w.extractLsb' 21 4) == 0) .reserved
    .ok (.mcnt (w.extractLsb' 18 3) (w.extractLsb' 12 6))
  | 7 => do
    require ((w.extractLsb' 25 7) == 0 && (w.extractLsb' 21 4) == 0) .reserved
    .ok (.mfirst (w.extractLsb' 18 3) (w.extractLsb' 12 6))
  | 8 => do
    require ((w.extractLsb' 25 7) == 0 && (w.extractLsb' 18 7) == 0 && (w.extractLsb' 15 3) == 0) .reserved
    .ok (.mact (w.extractLsb' 12 3))
  | 9 => do
    require ((w.extractLsb' 25 7).ule 32) .code
    require ((w.extractLsb' 21 4) == 0) .reserved
    .ok (.mget (w.extractLsb' 25 7) (w.extractLsb' 18 3) (w.extractLsb' 12 6))
  | _ => do
    require ((w.extractLsb' 25 7).ule 31) .code
    require ((w.extractLsb' 15 3) == 0) .reserved
    let sa ← ssrcOf (w.extractLsb' 18 7)
    .ok (.mput (w.extractLsb' 25 7) sa (w.extractLsb' 12 3))

/-- Major 28, format BS (R168). -/
def decodeBs (w : BitVec 32) : Except Reject Instr := do
  let sa ← ssrcOf (w.extractLsb' 7 7)
  match (w.extractLsb' 14 2).toNat with
  | 0 => .ok (.bz (w.extractLsb' 16 16) sa)
  | 1 => .ok (.bnz (w.extractLsb' 16 16) sa)
  | 2 => .ok (.bltz (w.extractLsb' 16 16) sa)
  | _ => .ok (.bgez (w.extractLsb' 16 16) sa)

/-- Major 29, format BD (R171); JOFF 0 is unassigned. -/
def decodeBdiv (w : BitVec 32) : Except Reject Instr := do
  require ((w.extractLsb' 10 10) != 0) .code
  .ok (.bdiv (w.extractLsb' 20 12) (w.extractLsb' 10 10) (w.extractLsb' 7 3))

/-- Major 30, format J (R169). -/
def decodeJ (w : BitVec 32) : Except Reject Instr := do
  if w.getLsbD 7 then .ok (.call (w.extractLsb' 8 24)) else .ok (.jmp (w.extractLsb' 8 24))

/-- Major 31, format E (R170 to R181). -/
def decodeControl (w : BitVec 32) : Except Reject Instr := do
  require ((w.extractLsb' 7 5).ult 10) .code
  match (w.extractLsb' 7 5).toNat with
  | 0 => do
    require ((w.extractLsb' 25 7) == 0 && (w.extractLsb' 18 7) == 0 && (w.extractLsb' 12 6) == 0) .reserved
    .ok .ret
  | 1 => do
    require ((w.extractLsb' 25 7) == 0 && (w.extractLsb' 12 6) == 0) .reserved
    let sa ← ssrcOf (w.extractLsb' 18 7)
    .ok (.jr sa)
  | 2 => do
    require ((w.extractLsb' 25 7) == 0 && (w.extractLsb' 12 6) == 0) .reserved
    let sa ← ssrcOf (w.extractLsb' 18 7)
    .ok (.callr sa)
  | 3 => do
    require ((w.extractLsb' 25 7) == 0 && (w.extractLsb' 12 6) == 0) .reserved
    let va ← vsrcOf (w.extractLsb' 18 7)
    .ok (.brtab va)
  | 4 => do
    require ((w.extractLsb' 25 7) == 0 && (w.extractLsb' 18 7) == 0 && (w.extractLsb' 12 6) == 0) .reserved
    .ok .rcv
  | 5 => do
    require ((w.extractLsb' 25 7) == 0 && (w.extractLsb' 18 7) == 0 && (w.extractLsb' 12 6) == 0) .reserved
    .ok .pause
  | 6 => do
    require ((w.extractLsb' 25 7) == 0 && (w.extractLsb' 18 7) == 0 && (w.extractLsb' 12 6) == 0) .reserved
    .ok .exit
  | 7 => do
    require ((w.extractLsb' 27 5) == 0 && (w.extractLsb' 18 7) == 0) .reserved
    .ok (.wcnt (w.extractLsb' 25 2) (w.extractLsb' 12 6))
  | 8 => do
    require ((w.extractLsb' 25 7).ult 2) .code
    require ((w.extractLsb' 18 7) == 0) .reserved
    .ok (.rdclk (w.getLsbD 25) (w.extractLsb' 12 6))
  | _ => do
    require ((w.extractLsb' 25 7).ult 14) .code
    require ((w.extractLsb' 18 7) == 0) .reserved
    .ok (.rdid (w.extractLsb' 25 4) (w.extractLsb' 12 6))

/-- `ld`, format M (R155, R203, R204). -/
def decodeLd (w : BitVec 32) : Except Reject Instr := do
  let f ← fmtOf (w.extractLsb' 11 4)
  let ix ← vsrcOf (w.extractLsb' 21 7)
  .ok (.ld (w.extractLsb' 28 4) ix (w.extractLsb' 15 6) f (w.extractLsb' 7 4))

/-- `st`, format M (R155, R203, R204). -/
def decodeSt (w : BitVec 32) : Except Reject Instr := do
  let f ← fmtOf (w.extractLsb' 11 4)
  let ix ← vsrcOf (w.extractLsb' 21 7)
  .ok (.st (w.extractLsb' 28 4) ix (w.extractLsb' 15 6) f (w.extractLsb' 7 4))

/-- `sld`, format M (R155, R203, R204). -/
def decodeSld (w : BitVec 32) : Except Reject Instr := do
  let f ← fmtOf (w.extractLsb' 11 4)
  let ix ← vsrcOf (w.extractLsb' 21 7)
  .ok (.sld (w.extractLsb' 28 4) ix (w.extractLsb' 15 6) f (w.extractLsb' 7 4))

/-- `sst`, format M (R155, R203, R204). -/
def decodeSst (w : BitVec 32) : Except Reject Instr := do
  let f ← fmtOf (w.extractLsb' 11 4)
  let ix ← vsrcOf (w.extractLsb' 21 7)
  .ok (.sst (w.extractLsb' 28 4) ix (w.extractLsb' 15 6) f (w.extractLsb' 7 4))

/-- Major 36, format M with OP for OFF (R206). -/
def decodeAtomic (w : BitVec 32) : Except Reject Instr := do
  require ((w.extractLsb' 7 4) != 6 && (w.extractLsb' 7 4) != 7) .code
  let f ← fmtOf (w.extractLsb' 11 4)
  match (w.extractLsb' 7 4).toNat with
  | 0 => do
    require f.isArith .code
    let ix ← vsrcOf (w.extractLsb' 21 7)
    .ok (.redAdd (w.extractLsb' 28 4) ix (w.extractLsb' 15 6) f)
  | 1 => do
    require f.isArith .code
    let ix ← vsrcOf (w.extractLsb' 21 7)
    .ok (.redMin (w.extractLsb' 28 4) ix (w.extractLsb' 15 6) f)
  | 2 => do
    require f.isArith .code
    let ix ← vsrcOf (w.extractLsb' 21 7)
    .ok (.redMax (w.extractLsb' 28 4) ix (w.extractLsb' 15 6) f)
  | 3 => do
    require f.isBitwise .code
    let ix ← vsrcOf (w.extractLsb' 21 7)
    .ok (.redAnd (w.extractLsb' 28 4) ix (w.extractLsb' 15 6) f)
  | 4 => do
    require f.isBitwise .code
    let ix ← vsrcOf (w.extractLsb' 21 7)
    .ok (.redOr (w.extractLsb' 28 4) ix (w.extractLsb' 15 6) f)
  | 5 => do
    require f.isBitwise .code
    let ix ← vsrcOf (w.extractLsb' 21 7)
    .ok (.redXor (w.extractLsb' 28 4) ix (w.extractLsb' 15 6) f)
  | 8 => do
    require f.isArith .code
    let ix ← vsrcOf (w.extractLsb' 21 7)
    .ok (.atomAdd (w.extractLsb' 28 4) ix (w.extractLsb' 15 6) f)
  | 9 => do
    require f.isArith .code
    let ix ← vsrcOf (w.extractLsb' 21 7)
    .ok (.atomMin (w.extractLsb' 28 4) ix (w.extractLsb' 15 6) f)
  | 10 => do
    require f.isArith .code
    let ix ← vsrcOf (w.extractLsb' 21 7)
    .ok (.atomMax (w.extractLsb' 28 4) ix (w.extractLsb' 15 6) f)
  | 11 => do
    require f.isBitwise .code
    let ix ← vsrcOf (w.extractLsb' 21 7)
    .ok (.atomAnd (w.extractLsb' 28 4) ix (w.extractLsb' 15 6) f)
  | 12 => do
    require f.isBitwise .code
    let ix ← vsrcOf (w.extractLsb' 21 7)
    .ok (.atomOr (w.extractLsb' 28 4) ix (w.extractLsb' 15 6) f)
  | 13 => do
    require f.isBitwise .code
    let ix ← vsrcOf (w.extractLsb' 21 7)
    .ok (.atomXor (w.extractLsb' 28 4) ix (w.extractLsb' 15 6) f)
  | 14 => do
    require f.isExchange .code
    let ix ← vsrcOf (w.extractLsb' 21 7)
    .ok (.atomXchg (w.extractLsb' 28 4) ix (w.extractLsb' 15 6) f)
  | _ => do
    require f.isExchange .code
    let ix ← vsrcOf (w.extractLsb' 21 7)
    .ok (.atomCas (w.extractLsb' 28 4) ix (w.extractLsb' 15 6) f)

/-- Major 37, format M with OP for OFF (R211). -/
def decodeFullEmpty (w : BitVec 32) : Except Reject Instr := do
  require ((w.extractLsb' 7 4).ult 3) .code
  let f ← fmtOf (w.extractLsb' 11 4)
  require f.isFullEmpty .code
  let ix ← vsrcOf (w.extractLsb' 21 7)
  match (w.extractLsb' 7 4).toNat with
  | 0 => .ok (.ldfe (w.extractLsb' 28 4) ix (w.extractLsb' 15 6) f)
  | 1 => .ok (.stfe (w.extractLsb' 28 4) ix (w.extractLsb' 15 6) f)
  | _ => .ok (.ldf (w.extractLsb' 28 4) ix (w.extractLsb' 15 6) f)

/-- Major 38, format E (R212 to R215). -/
def decodeSync (w : BitVec 32) : Except Reject Instr := do
  require ((w.extractLsb' 7 5).ult 9) .code
  match (w.extractLsb' 7 5).toNat with
  | 0 => do
    let sc ← scopeOf (w.extractLsb' 25 3)
    require ((w.extractLsb' 28 4) == 0 && (w.extractLsb' 18 7) == 0 && (w.extractLsb' 12 6) == 0) .reserved
    .ok (.rel sc)
  | 1 => do
    let sc ← scopeOf (w.extractLsb' 25 3)
    require ((w.extractLsb' 28 4) == 0 && (w.extractLsb' 18 7) == 0 && (w.extractLsb' 12 6) == 0) .reserved
    .ok (.acq sc)
  | 2 => do
    let sc ← scopeOf (w.extractLsb' 25 3)
    require ((w.extractLsb' 28 4) == 0 && (w.extractLsb' 12 6) == 0) .reserved
    let sa ← ssrcOf (w.extractLsb' 18 7)
    .ok (.acqset sc sa)
  | 3 => do
    let sc ← scopeOf (w.extractLsb' 25 3)
    require ((w.extractLsb' 28 4) == 0 && (w.extractLsb' 18 7) == 0 && (w.extractLsb' 12 6) == 0) .reserved
    .ok (.fence sc)
  | 4 => do
    let sc ← scopeOf (w.extractLsb' 25 3)
    require sc.isBar .code
    require ((w.extractLsb' 28 4) == 0 && (w.extractLsb' 18 7) == 0) .reserved
    .ok (.bar sc (w.extractLsb' 12 6))
  | 5 => do
    let sc ← scopeOf (w.extractLsb' 25 3)
    require sc.isGbar .code
    require ((w.extractLsb' 28 4) == 0 && (w.extractLsb' 18 7) == 0) .reserved
    .ok (.gbar sc (w.extractLsb' 12 6))
  | 6 => do
    require ((w.extractLsb' 25 7) == 0 && (w.extractLsb' 12 6) == 0) .reserved
    let sa ← ssrcOf (w.extractLsb' 18 7)
    .ok (.gjoin sa)
  | 7 => do
    require ((w.extractLsb' 25 7) == 0 && (w.extractLsb' 18 7) == 0 && (w.extractLsb' 12 6) == 0) .reserved
    .ok .gleave
  | _ => do
    require ((w.extractLsb' 25 7) == 0 && (w.extractLsb' 18 7) == 0 && (w.extractLsb' 12 6) == 0) .reserved
    .ok .ifence

/-- Major 39, format E (R216, R217). -/
def decodeSpawn (w : BitVec 32) : Except Reject Instr := do
  require ((w.extractLsb' 7 5).ult 2) .code
  if (w.extractLsb' 7 5) == 0 then
    require ((w.extractLsb' 25 3).ule 4) .code
    let sa ← ssrcOf (w.extractLsb' 18 7)
    .ok (.spawn (w.extractLsb' 28 4) (w.extractLsb' 25 3) sa (w.extractLsb' 12 6))
  else
    require ((w.extractLsb' 25 7) == 0 && (w.extractLsb' 12 6) == 0) .reserved
    let sa ← ssrcOf (w.extractLsb' 18 7)
    .ok (.jwait sa)

/-- Major 40, format E (R218, R220). -/
def decodeCopy (w : BitVec 32) : Except Reject Instr := do
  require ((w.extractLsb' 7 5).ult 3) .code
  match (w.extractLsb' 7 5).toNat with
  | 0 => do
    require (!w.getLsbD 31) .reserved
    let sa ← ssrcOf (w.extractLsb' 18 7)
    .ok (.copy (w.extractLsb' 25 6) sa (w.extractLsb' 12 6))
  | 1 => do
    require ((w.extractLsb' 25 7) == 0 && (w.extractLsb' 18 7) == 0) .reserved
    .ok (.cbseal (w.extractLsb' 12 6))
  | _ => do
    require ((w.extractLsb' 25 7) == 0 && (w.extractLsb' 12 6) == 0) .reserved
    let sa ← ssrcOf (w.extractLsb' 18 7)
    .ok (.cbwait sa)

/-- Major 41, format E (R221); AUX is reserved. -/
def decodeTile (w : BitVec 32) : Except Reject Instr := do
  require ((w.extractLsb' 7 5).ult 4) .code
  require ((w.extractLsb' 25 7) == 0) .reserved
  match (w.extractLsb' 7 5).toNat with
  | 0 => do
    let sa ← ssrcOf (w.extractLsb' 18 7)
    .ok (.talloc sa (w.extractLsb' 12 6))
  | 1 => do
    require ((w.extractLsb' 12 6) == 0) .reserved
    let sa ← ssrcOf (w.extractLsb' 18 7)
    .ok (.tready sa)
  | 2 => do
    require ((w.extractLsb' 12 6) == 0) .reserved
    let sa ← ssrcOf (w.extractLsb' 18 7)
    .ok (.trel sa)
  | _ => do
    let sa ← ssrcOf (w.extractLsb' 18 7)
    .ok (.tstat sa (w.extractLsb' 12 6))

/-- Major 42, format MX (R248, R252). -/
def decodeMm (w : BitVec 32) : Except Reject Instr := do
  let f ← tagOf (w.extractLsb' 27 5)
  require f.isMatrixA .code
  if w.getLsbD 7 then .ok (.mmSp f (w.extractLsb' 22 5) (w.extractLsb' 18 4) (w.extractLsb' 14 4) (w.extractLsb' 8 6))
  else .ok (.mm f (w.extractLsb' 22 5) (w.extractLsb' 18 4) (w.extractLsb' 14 4) (w.extractLsb' 8 6))

/-- `mmo`, format MO (R255). -/
def decodeMmo (w : BitVec 32) : Except Reject Instr := do
  let f ← tagOf (w.extractLsb' 27 5)
  require f.isOctetA .code
  .ok (.mmo f (w.extractLsb' 21 6) (w.extractLsb' 15 6) (w.extractLsb' 11 4) (w.extractLsb' 7 4))

/-- `mmoSp`, format MO (R255). -/
def decodeMmoSp (w : BitVec 32) : Except Reject Instr := do
  let f ← tagOf (w.extractLsb' 27 5)
  require f.isOctetA .code
  .ok (.mmoSp f (w.extractLsb' 21 6) (w.extractLsb' 15 6) (w.extractLsb' 11 4) (w.extractLsb' 7 4))

/-- Major 45, format E (R246, R247, R263). -/
def decodeAcc (w : BitVec 32) : Except Reject Instr := do
  require ((w.extractLsb' 7 5).ult 4) .code
  match (w.extractLsb' 7 5).toNat with
  | 0 => do
    require ((w.extractLsb' 25 7) == 0) .reserved
    let sa ← ssrcOf (w.extractLsb' 18 7)
    .ok (.aalloc sa (w.extractLsb' 12 6))
  | 1 => do
    require ((w.extractLsb' 30 2) == 0 && (w.extractLsb' 18 7) == 0 && (w.extractLsb' 12 6) == 0) .reserved
    .ok (.afree (w.extractLsb' 25 5))
  | 2 => do
    require ((w.extractLsb' 30 2) == 0 && (w.extractLsb' 18 7) == 0 && (w.extractLsb' 12 6) == 0) .reserved
    .ok (.azero (w.extractLsb' 25 5))
  | _ => do
    if w.getLsbD 30 then
      require ((w.extractLsb' 25 5) == 0) .reserved
      let sa ← ssrcOf (w.extractLsb' 18 7)
      .ok (.adrainT (w.getLsbD 31) sa (w.extractLsb' 12 6))
    else
      let sa ← ssrcOf (w.extractLsb' 18 7)
      .ok (.adrain (w.getLsbD 31) (w.extractLsb' 25 5) sa (w.extractLsb' 12 6))

/-- Major 46, format E (R241, R258, R259, R261). -/
def decodeSetup (w : BitVec 32) : Except Reject Instr := do
  require ((w.extractLsb' 7 5).ult 5) .code
  match (w.extractLsb' 7 5).toNat with
  | 0 => do
    require ((w.extractLsb' 26 6) == 0) .reserved
    if w.getLsbD 25 then
      require ((w.extractLsb' 18 7) == 0 && (w.extractLsb' 12 6) == 0) .reserved
      .ok .wbldRel
    else
      let sa ← ssrcOf (w.extractLsb' 18 7)
      .ok (.wbld sa (w.extractLsb' 12 6))
  | 1 => do
    require ((w.extractLsb' 29 3) == 0 && (w.extractLsb' 12 6) == 0) .reserved
    let sa ← ssrcOf (w.extractLsb' 18 7)
    .ok (.omset (w.extractLsb' 25 4) sa)
  | 2 => do
    require ((w.extractLsb' 29 3) == 0 && (w.extractLsb' 12 6) == 0) .reserved
    let sa ← ssrcOf (w.extractLsb' 18 7)
    .ok (.nfset (w.extractLsb' 25 4) sa)
  | 3 => do
    require ((w.extractLsb' 29 3) == 0 && (w.extractLsb' 18 7) == 0) .reserved
    .ok (.nfget (w.extractLsb' 25 4) (w.extractLsb' 12 6))
  | _ => do
    require ((w.extractLsb' 26 6) == 0 && (w.extractLsb' 12 6) == 0) .reserved
    let sa ← ssrcOf (w.extractLsb' 18 7)
    .ok (.dmset (w.getLsbD 25) sa)

/-- Major 47, format E (R267 to R269). -/
def decodeStream (w : BitVec 32) : Except Reject Instr := do
  require ((w.extractLsb' 7 5).ult 8) .code
  match (w.extractLsb' 7 5).toNat with
  | 0 => do
    require ((w.extractLsb' 29 3) == 0 && (w.extractLsb' 12 6) == 0) .reserved
    let sa ← ssrcOf (w.extractLsb' 18 7)
    .ok (.sqld (w.getLsbD 28) (w.extractLsb' 25 3) sa)
  | 1 => do
    require ((w.extractLsb' 28 4) == 0 && (w.extractLsb' 12 6) == 0) .reserved
    let sa ← ssrcOf (w.extractLsb' 18 7)
    .ok (.sqst (w.extractLsb' 25 3) sa)
  | 2 => do
    require (!w.getLsbD 31 && (w.extractLsb' 18 7) == 0 && (w.extractLsb' 15 3) == 0) .reserved
    .ok (.sqint (w.extractLsb' 28 3) (w.extractLsb' 25 3) (w.extractLsb' 12 3))
  | 3 => do
    require (!w.getLsbD 31 && (w.extractLsb' 18 7) == 0 && (w.extractLsb' 15 3) == 0) .reserved
    .ok (.squni (w.extractLsb' 28 3) (w.extractLsb' 25 3) (w.extractLsb' 12 3))
  | 4 => do
    require (!w.getLsbD 31 && (w.extractLsb' 18 7) == 0 && (w.extractLsb' 15 3) == 0) .reserved
    .ok (.sqsub (w.extractLsb' 28 3) (w.extractLsb' 25 3) (w.extractLsb' 12 3))
  | 5 => do
    require (!w.getLsbD 31 && (w.extractLsb' 18 7) == 0 && (w.extractLsb' 15 3) == 0) .reserved
    .ok (.sqmadd (w.extractLsb' 28 3) (w.extractLsb' 25 3) (w.extractLsb' 12 3))
  | 6 => do
    require ((w.extractLsb' 28 4) == 0 && (w.extractLsb' 18 7) == 0) .reserved
    .ok (.sqcnt (w.extractLsb' 25 3) (w.extractLsb' 12 6))
  | _ => do
    require ((w.extractLsb' 28 4) == 0) .reserved
    let sa ← ssrcOf (w.extractLsb' 18 7)
    .ok (.sqext (w.extractLsb' 25 3) sa (w.extractLsb' 12 6))

/-- Major 48, format E (R271). -/
def decodeIsland (w : BitVec 32) : Except Reject Instr := do
  require ((w.extractLsb' 7 5).ult 9) .code
  match (w.extractLsb' 7 5).toNat with
  | 0 => do
    require ((w.extractLsb' 25 7) == 0) .reserved
    let sa ← ssrcOf (w.extractLsb' 18 7)
    .ok (.cscene sa (w.extractLsb' 12 6))
  | 1 => do
    require ((w.extractLsb' 25 7) == 0 && (w.extractLsb' 12 6) == 0) .reserved
    let sa ← ssrcOf (w.extractLsb' 18 7)
    .ok (.cclose sa)
  | 2 => do
    let k ← bodyKindOf (w.extractLsb' 25 2)
    require ((w.extractLsb' 27 5) == 0) .reserved
    let sa ← ssrcOf (w.extractLsb' 18 7)
    .ok (.ckind k sa (w.extractLsb' 12 6))
  | 3 => do
    require ((w.extractLsb' 26 6) == 0) .reserved
    let sa ← ssrcOf (w.extractLsb' 18 7)
    .ok (.clink (w.getLsbD 25) sa (w.extractLsb' 12 6))
  | 4 => do
    require ((w.extractLsb' 26 6) == 0) .reserved
    let sa ← ssrcOf (w.extractLsb' 18 7)
    .ok (.cunlink (w.getLsbD 25) sa (w.extractLsb' 12 6))
  | 5 => do
    require ((w.extractLsb' 25 7) == 0) .reserved
    let sa ← ssrcOf (w.extractLsb' 18 7)
    .ok (.cstep sa (w.extractLsb' 12 6))
  | 6 => do
    require ((w.extractLsb' 25 7) == 0 && (w.extractLsb' 18 7) == 0 && (w.extractLsb' 12 6) == 0) .reserved
    .ok .csleep
  | 7 => do
    require ((w.extractLsb' 25 7) == 0) .reserved
    let sa ← ssrcOf (w.extractLsb' 18 7)
    .ok (.cwake sa (w.extractLsb' 12 6))
  | _ => do
    let f ← queryOf (w.extractLsb' 25 3)
    require ((w.extractLsb' 28 4) == 0) .reserved
    let sa ← ssrcOf (w.extractLsb' 18 7)
    .ok (.cquery f sa (w.extractLsb' 12 6))

/-- Major 49, format E (R278, R279). -/
def decodeEngine (w : BitVec 32) : Except Reject Instr := do
  require ((w.extractLsb' 7 5).ult 3) .code
  let e ← engineOf (w.extractLsb' 25 7)
  match (w.extractLsb' 7 5).toNat with
  | 0 => do
    let sa ← ssrcOf (w.extractLsb' 18 7)
    .ok (.enq e sa (w.extractLsb' 12 6))
  | 1 => do
    require ((w.extractLsb' 18 7) == 0) .reserved
    .ok (.eseq e (w.extractLsb' 12 6))
  | _ => do
    let sa ← ssrcOf (w.extractLsb' 18 7)
    .ok (.ewait e sa (w.extractLsb' 12 6))

/-- Major 54, the format of R61. -/
def decodeCount (w : BitVec 32) : Except Reject Instr := do
  require ((w.extractLsb' 7 5).ult 2) .code
  require ((w.extractLsb' 15 17) == 0) .reserved
  if (w.extractLsb' 7 5) == 0 then .ok (.vgrow (w.extractLsb' 12 3)) else .ok (.vshrink (w.extractLsb' 12 3))

/-- Major 55, format E (R294, R295, R299 to R301). -/
def decodeSystem (w : BitVec 32) : Except Reject Decoded := do
  require ((w.extractLsb' 7 5).ult 9) .code
  match (w.extractLsb' 7 5).toNat with
  | 0 => do
    let cr ← ctlRegOf (w.extractLsb' 25 7)
    require (cr.words != 1 || (w.extractLsb' 18 7) == 0) .reserved
    let sa ← ssrcOf (w.extractLsb' 18 7)
    .ok (.instr (.crr cr sa (w.extractLsb' 12 6)))
  | 1 => do
    let cr ← ctlRegOf (w.extractLsb' 25 7)
    require (cr.words != 1 || (w.extractLsb' 12 6) == 0) .reserved
    let sa ← ssrcOf (w.extractLsb' 18 7)
    .ok (.instr (.crw cr sa (w.extractLsb' 12 6)))
  | 2 => do
    let cr ← ctlRegOf (w.extractLsb' 25 7)
    let sa ← ssrcOf (w.extractLsb' 18 7)
    require (cr.words == 1) .severalWords
    .ok (.instr (.crs cr sa (w.extractLsb' 12 6)))
  | 3 => do
    let cr ← ctlRegOf (w.extractLsb' 25 7)
    let sa ← ssrcOf (w.extractLsb' 18 7)
    require (cr.words == 1) .severalWords
    .ok (.instr (.crc cr sa (w.extractLsb' 12 6)))
  | 4 => do
    require ((w.extractLsb' 25 7) == 0 && (w.extractLsb' 18 7) == 0 && (w.extractLsb' 12 6) == 0) .reserved
    .ok (.instr .rte)
  | 5 => do
    require ((w.extractLsb' 18 7) == 0 && (w.extractLsb' 12 6) == 0) .reserved
    .ok (.instr (.trap (w.extractLsb' 25 7)))
  | 6 => do
    require ((w.extractLsb' 18 7) == 0 && (w.extractLsb' 12 6) == 0) .reserved
    .ok (.instr (.brk (w.extractLsb' 25 7)))
  | 7 => do
    let sc ← scopeOf (w.extractLsb' 25 3)
    require sc.isTcinv .code
    require ((w.extractLsb' 28 4) == 0 && (w.extractLsb' 12 6) == 0) .reserved
    let sa ← ssrcOf (w.extractLsb' 18 7)
    .ok (.tcinv false sc sa)
  | _ => do
    let sc ← scopeOf (w.extractLsb' 25 3)
    require sc.isTcinv .code
    require ((w.extractLsb' 28 4) == 0 && (w.extractLsb' 12 6) == 0) .reserved
    let sa ← ssrcOf (w.extractLsb' 18 7)
    .ok (.tcinv true sc sa)

/-- Decodes a 32-bit word by its major opcode (R155, R157); its bit 0 is 1. -/
def decodeWord (w : BitVec 32) : Except Reject Decoded :=
  match (w.extractLsb' 1 6).toNat with
  | 1 => (decodeFF32 w).map .instr
  | 2 => (decodeFF64 w).map .instr
  | 3 => (decodeFF16 w).map .instr
  | 4 => (decodeFBf16 w).map .instr
  | 5 => (decodeDiv w).map .instr
  | 6 => (decodeMinMax w).map .instr
  | 7 => (decodeUnary w).map .instr
  | 8 => (decodeInt w).map .instr
  | 9 => (decodeInt w).map .instr
  | 10 => (decodeInt w).map .instr
  | 11 => (decodeInt w).map .instr
  | 12 => (decodeBits w).map .instr
  | 13 => (decodeCmp w).map .instr
  | 14 => (decodeCvt w).map .instr
  | 15 => (decodeVaddi w).map .instr
  | 16 => (decodeVshi w).map .instr
  | 17 => (decodeCross w).map .instr
  | 18 => (decodeMoves w).map .instr
  | 19 => (decodeDot w).map .instr
  | 20 => (decodeScalar w).map .instr
  | 21 => (decodeSaddi w).map .instr
  | 22 => (decodeSandi w).map .instr
  | 23 => (decodeSori w).map .instr
  | 24 => (decodeSxori w).map .instr
  | 25 => (decodeSshi w).map .instr
  | 26 => (decodeSu w).map .instr
  | 27 => (decodeMask w).map .instr
  | 28 => (decodeBs w).map .instr
  | 29 => (decodeBdiv w).map .instr
  | 30 => (decodeJ w).map .instr
  | 31 => (decodeControl w).map .instr
  | 32 => (decodeLd w).map .instr
  | 33 => (decodeSt w).map .instr
  | 34 => (decodeSld w).map .instr
  | 35 => (decodeSst w).map .instr
  | 36 => (decodeAtomic w).map .instr
  | 37 => (decodeFullEmpty w).map .instr
  | 38 => (decodeSync w).map .instr
  | 39 => (decodeSpawn w).map .instr
  | 40 => (decodeCopy w).map .instr
  | 41 => (decodeTile w).map .instr
  | 42 => (decodeMm w).map .instr
  | 43 => (decodeMmo w).map .instr
  | 44 => (decodeMmoSp w).map .instr
  | 45 => (decodeAcc w).map .instr
  | 46 => (decodeSetup w).map .instr
  | 47 => (decodeStream w).map .instr
  | 48 => (decodeIsland w).map .instr
  | 49 => (decodeEngine w).map .instr
  | 54 => (decodeCount w).map .instr
  | 55 => decodeSystem w
  | 63 => .ok (.hint (w.extractLsb' 27 5) (w.extractLsb' 7 20))
  | _ => .error .major

/-- The number of bytes of the instruction whose first parcel is `p` (R150). -/
def lengthOf (p : BitVec 16) : Nat := if p.getLsbD 0 then 4 else 2

/-- Decodes from the first parcel and the parcel after it, which a 16-bit instruction does not have (R150). -/
def decodeFetched (p q : BitVec 16) : Except Reject Decoded :=
  if p.getLsbD 0 then decodeWord (q ++ p : BitVec 32) else (decode16 p).map .instr

/-- The instruction of a 32-bit word. -/
noncomputable def decode32 (w : BitVec 32) : Except Reject Instr := (decodeWord w).map Decoded.toInstr

/-- The instruction at two parcels. -/
noncomputable def decodeParcels (p q : BitVec 16) : Except Reject Instr := (decodeFetched p q).map Decoded.toInstr

/-- A parcel from its bytes, least significant first (R150). -/
def parcelOf (b0 b1 : Byte) : BitVec 16 := (b1 ++ b0 : BitVec 16)

/-- Decodes the instruction at the head of a list of bytes, with the bytes after it. -/
noncomputable def decodeBytes : List Byte → Except Reject (Instr × List Byte)
  | b0 :: b1 :: rest =>
    let p := parcelOf b0 b1
    if p.getLsbD 0 then
      match rest with
      | b2 :: b3 :: rest' => (decode32 (parcelOf b2 b3 ++ p : BitVec 32)).map (·, rest')
      | _ => .error .truncated
    else (decode16 p).map (·, rest)
  | _ => .error .truncated

/-- The instruction the decoder reads from an instruction whose bits are `w`, the first parcel in the low bits. -/
noncomputable def decodeTableWord (nbits w : Nat) : Option Instr :=
  let v : BitVec 32 := BitVec.ofNat 32 (w % 2 ^ nbits)
  (decodeParcels (v.extractLsb' 0 16) (v.extractLsb' 16 16)).toOption

/-! ## The encoder -/

/-- Bit of a flag. -/
def bit (b : Bool) : BitVec 1 := BitVec.ofBool b

/-- Format F, D, U or V with a 2-bit and a 2-bit low field (R155). -/
def asmF (sb sa : BitVec 7) (vd : BitVec 6) (nw : Bool) (f g : BitVec 2) (major : BitVec 6) : BitVec 32 :=
  (sb ++ sa ++ vd ++ bit nw ++ f ++ g ++ major ++ 1#1 : BitVec 32)

/-- Format V (R155). -/
def asmV (sb sa : BitVec 7) (vd : BitVec 6) (nw : Bool) (fn : BitVec 4) (major : BitVec 6) : BitVec 32 :=
  (sb ++ sa ++ vd ++ bit nw ++ fn ++ major ++ 1#1 : BitVec 32)

/-- Formats S and E (R155). -/
def asmE (aux sa : BitVec 7) (sd : BitVec 6) (minor : BitVec 5) (major : BitVec 6) : BitVec 32 :=
  (aux ++ sa ++ sd ++ minor ++ major ++ 1#1 : BitVec 32)

/-- Format M (R155). -/
def asmM (base : BitVec 4) (ix : BitVec 7) (vd : BitVec 6) (fmt off : BitVec 4) (major : BitVec 6) : BitVec 32 :=
  (base ++ ix ++ vd ++ fmt ++ off ++ major ++ 1#1 : BitVec 32)

/-- Format VI (R155). -/
def asmVI (imm : BitVec 11) (sa : BitVec 7) (vd : BitVec 6) (nw : Bool) (major : BitVec 6) : BitVec 32 :=
  (imm ++ sa ++ vd ++ bit nw ++ major ++ 1#1 : BitVec 32)

/-- Format SI (R155). -/
def asmSI (imm : BitVec 12) (sa : BitVec 7) (sd : BitVec 6) (major : BitVec 6) : BitVec 32 :=
  (imm ++ sa ++ sd ++ major ++ 1#1 : BitVec 32)

/-- Format SU (R155). -/
def asmSU (imm : BitVec 16) (q : BitVec 2) (sd : BitVec 6) (k : BitVec 1) : BitVec 32 :=
  (imm ++ q ++ sd ++ k ++ 26#6 ++ 1#1 : BitVec 32)

/-- Format BS (R155). -/
def asmBS (off : BitVec 16) (cc : BitVec 2) (sa : BitVec 7) : BitVec 32 :=
  (off ++ cc ++ sa ++ 28#6 ++ 1#1 : BitVec 32)

/-- Format MX (R155). -/
def asmMX (fmt acc : BitVec 5) (oma omb : BitVec 4) (sd : BitVec 6) (sp : BitVec 1) : BitVec 32 :=
  (fmt ++ acc ++ oma ++ omb ++ sd ++ sp ++ 42#6 ++ 1#1 : BitVec 32)

/-- Format MO (R155). -/
def asmMO (fmt : BitVec 5) (vd va : BitVec 6) (omb sd : BitVec 4) (major : BitVec 6) : BitVec 32 :=
  (fmt ++ vd ++ va ++ omb ++ sd ++ major ++ 1#1 : BitVec 32)

/-- The hint format (R159). -/
def asmHint (hk : BitVec 5) (payload : BitVec 20) : BitVec 32 :=
  (hk ++ payload ++ 63#6 ++ 1#1 : BitVec 32)

/-- The 16-bit form (R152). -/
def asmShort (ss : BitVec 5) (vd : BitVec 6) (op : BitVec 4) : BitVec 16 :=
  (ss ++ vd ++ op ++ 0#1 : BitVec 16)

/-- The parcel of a 16-bit instruction; none for any other. -/
def encode16 : Instr → Option (BitVec 16)
  | .movShort ss vd => some (asmShort ss vd 0)
  | .addF32Short ss vd => some (asmShort ss vd 1)
  | .subF32Short ss vd => some (asmShort ss vd 2)
  | .mulF32Short ss vd => some (asmShort ss vd 3)
  | .minF32Short ss vd => some (asmShort ss vd 4)
  | .maxF32Short ss vd => some (asmShort ss vd 5)
  | .addS32Short ss vd => some (asmShort ss vd 6)
  | .subS32Short ss vd => some (asmShort ss vd 7)
  | .mulS32Short ss vd => some (asmShort ss vd 8)
  | .addN32Short ss vd => some (asmShort ss vd 9)
  | .subN32Short ss vd => some (asmShort ss vd 10)
  | .andB32Short ss vd => some (asmShort ss vd 11)
  | .orB32Short ss vd => some (asmShort ss vd 12)
  | .xorB32Short ss vd => some (asmShort ss vd 13)
  | .shlN32Short ss vd => some (asmShort ss vd 14)
  | .shrN32Short ss vd => some (asmShort ss vd 15)
  | _ => none

/-- The word of a 32-bit instruction; none for a 16-bit one and for an event. -/
def encode32 : Instr → Option (BitVec 32)
  | .addF32 vb va vd nw rm => some (asmF vb.bits va.bits vd nw 0 rm 1)
  | .subF32 vb va vd nw rm => some (asmF vb.bits va.bits vd nw 1 rm 1)
  | .mulF32 vb va vd nw rm => some (asmF vb.bits va.bits vd nw 2 rm 1)
  | .fmaF32 vb va vd nw rm => some (asmF vb.bits va.bits vd nw 3 rm 1)
  | .addF64 vb va vd nw rm => some (asmF vb.bits va.bits vd nw 0 rm 2)
  | .subF64 vb va vd nw rm => some (asmF vb.bits va.bits vd nw 1 rm 2)
  | .mulF64 vb va vd nw rm => some (asmF vb.bits va.bits vd nw 2 rm 2)
  | .fmaF64 vb va vd nw rm => some (asmF vb.bits va.bits vd nw 3 rm 2)
  | .addF16 vb va vd nw rm => some (asmF vb.bits va.bits vd nw 0 rm 3)
  | .subF16 vb va vd nw rm => some (asmF vb.bits va.bits vd nw 1 rm 3)
  | .mulF16 vb va vd nw rm => some (asmF vb.bits va.bits vd nw 2 rm 3)
  | .fmaF16 vb va vd nw rm => some (asmF vb.bits va.bits vd nw 3 rm 3)
  | .addBf16 vb va vd nw rm => some (asmF vb.bits va.bits vd nw 0 rm 4)
  | .subBf16 vb va vd nw rm => some (asmF vb.bits va.bits vd nw 1 rm 4)
  | .mulBf16 vb va vd nw rm => some (asmF vb.bits va.bits vd nw 2 rm 4)
  | .fmaBf16 vb va vd nw rm => some (asmF vb.bits va.bits vd nw 3 rm 4)
  | .div vb va vd nw ft rm => some (asmF vb.bits va.bits vd nw ft.code rm 5)
  | .fmin vb va vd nw ft => some (asmF vb.bits va.bits vd nw ft.code 0 6)
  | .fmax vb va vd nw ft => some (asmF vb.bits va.bits vd nw ft.code 1 6)
  | .copysign vb va vd nw ft => some (asmF vb.bits va.bits vd nw ft.code 2 6)
  | .sqrt va vd nw ft rm => some (asmF 0 va.bits vd nw ft.code rm 7)
  | .rcp va vd nw ft rm => some (asmF 1 va.bits vd nw ft.code rm 7)
  | .rsqrt va vd nw ft rm => some (asmF 2 va.bits vd nw ft.code rm 7)
  | .exp2 va vd nw ft rm => some (asmF 3 va.bits vd nw ft.code rm 7)
  | .log2 va vd nw ft rm => some (asmF 4 va.bits vd nw ft.code rm 7)
  | .sin va vd nw ft rm => some (asmF 5 va.bits vd nw ft.code rm 7)
  | .cos va vd nw ft rm => some (asmF 6 va.bits vd nw ft.code rm 7)
  | .tanh va vd nw ft rm => some (asmF 7 va.bits vd nw ft.code rm 7)
  | .rint va vd nw ft rm => some (asmF 8 va.bits vd nw ft.code rm 7)
  | .fneg va vd nw ft => some (asmF 9 va.bits vd nw ft.code 0 7)
  | .fabs va vd nw ft => some (asmF 10 va.bits vd nw ft.code 0 7)
  | .fclass va vd nw ft => some (asmF 11 va.bits vd nw ft.code 0 7)
  | .intAdd vb va vd nw it => some (asmV vb.bits va.bits vd nw 0 (2#4 ++ it.code : BitVec 6))
  | .intSub vb va vd nw it => some (asmV vb.bits va.bits vd nw 1 (2#4 ++ it.code : BitVec 6))
  | .intMul vb va vd nw it => some (asmV vb.bits va.bits vd nw 2 (2#4 ++ it.code : BitVec 6))
  | .intMulh vb va vd nw it => some (asmV vb.bits va.bits vd nw 3 (2#4 ++ it.code : BitVec 6))
  | .intMin vb va vd nw it => some (asmV vb.bits va.bits vd nw 4 (2#4 ++ it.code : BitVec 6))
  | .intMax vb va vd nw it => some (asmV vb.bits va.bits vd nw 5 (2#4 ++ it.code : BitVec 6))
  | .intAdds vb va vd nw it => some (asmV vb.bits va.bits vd nw 6 (2#4 ++ it.code : BitVec 6))
  | .intSubs vb va vd nw it => some (asmV vb.bits va.bits vd nw 7 (2#4 ++ it.code : BitVec 6))
  | .intShl vb va vd nw it => some (asmV vb.bits va.bits vd nw 8 (2#4 ++ it.code : BitVec 6))
  | .intShr vb va vd nw it => some (asmV vb.bits va.bits vd nw 9 (2#4 ++ it.code : BitVec 6))
  | .intMad vb va vd nw it => some (asmV vb.bits va.bits vd nw 12 (2#4 ++ it.code : BitVec 6))
  | .intDiv vb va vd nw it => some (asmV vb.bits va.bits vd nw 13 (2#4 ++ it.code : BitVec 6))
  | .intRem vb va vd nw it => some (asmV vb.bits va.bits vd nw 14 (2#4 ++ it.code : BitVec 6))
  | .intAbs va vd nw wide => some (asmV 0 va.bits vd nw 10 (2#4 ++ bit wide ++ 0#1 : BitVec 6))
  | .intNeg va vd nw wide => some (asmV 0 va.bits vd nw 11 (2#4 ++ bit wide ++ 0#1 : BitVec 6))
  | .bitAnd vb va vd nw => some (asmV vb.bits va.bits vd nw 0 12)
  | .bitOr vb va vd nw => some (asmV vb.bits va.bits vd nw 1 12)
  | .bitXor vb va vd nw => some (asmV vb.bits va.bits vd nw 2 12)
  | .bitAndn vb va vd nw => some (asmV vb.bits va.bits vd nw 3 12)
  | .bitRotl vb va vd nw => some (asmV vb.bits va.bits vd nw 8 12)
  | .bitNot va vd nw => some (asmV 0 va.bits vd nw 4 12)
  | .bitPopc va vd nw => some (asmV 0 va.bits vd nw 5 12)
  | .bitClz va vd nw => some (asmV 0 va.bits vd nw 6 12)
  | .bitCtz va vd nw => some (asmV 0 va.bits vd nw 7 12)
  | .bitBrev va vd nw => some (asmV 0 va.bits vd nw 9 12)
  | .cmp vb va ty md cc => some ((vb.bits ++ va.bits ++ ty.code ++ md ++ 0#1 ++ cc.code ++ 13#6 ++ 1#1 : BitVec 32))
  | .cvt df sat va vd nw rm => some ((df.code ++ bit sat ++ 0#1 ++ va.bits ++ vd ++ bit nw ++ rm ++ 0#1 ++ 14#6 ++ 1#1 : BitVec 32))
  | .vaddi imm va vd nw => some (asmVI imm va.bits vd nw 15)
  | .shli amt va vd nw => some (asmVI (0#4 ++ 0#2 ++ amt : BitVec 11) va.bits vd nw 16)
  | .shriN amt va vd nw => some (asmVI (0#4 ++ 1#2 ++ amt : BitVec 11) va.bits vd nw 16)
  | .shriS amt va vd nw => some (asmVI (0#4 ++ 2#2 ++ amt : BitVec 11) va.bits vd nw 16)
  | .rotli amt va vd nw => some (asmVI (0#4 ++ 3#2 ++ amt : BitVec 11) va.bits vd nw 16)
  | .xperm vb va vd nw => some (asmV vb.bits va.bits vd nw 0 17)
  | .shfl vb va vd nw => some (asmV vb.bits va.bits vd nw 1 17)
  | .shflXor sb va vd nw => some (asmV sb.bits va.bits vd nw 2 17)
  | .shflUp sb va vd nw => some (asmV sb.bits va.bits vd nw 3 17)
  | .shflDn sb va vd nw => some (asmV sb.bits va.bits vd nw 4 17)
  | .voteAny sb va vd nw => some (asmV sb.bits va.bits vd nw 5 17)
  | .voteAll sb va vd nw => some (asmV sb.bits va.bits vd nw 6 17)
  | .voteEq sb va vd nw => some (asmV sb.bits va.bits vd nw 7 17)
  | .ballot sb va vd nw => some (asmV sb.bits va.bits vd nw 8 17)
  | .csamp sb va vd nw => some (asmV sb.bits va.bits vd nw 9 17)
  | .rngN32 vc sk vd nw => some (asmV vc.bits sk.bits vd nw 10 17)
  | .mov va vd nw => some (asmV 0 va.bits vd nw 0 18)
  | .movtag tag va vd nw => some (asmV (0#2 ++ tag.code : BitVec 7) va.bits vd nw 1 18)
  | .lane vd nw => some (asmV 0 0 vd nw 2 18)
  | .bcast sb va vd nw => some (asmV sb.bits va.bits vd nw 3 18)
  | .sel vb va vd nw => some (asmV vb.bits va.bits vd nw 4 18)
  | .vmoviGet tag va vd nw => some (asmV (0#2 ++ tag.code : BitVec 7) va.bits vd nw 5 18)
  | .vmoviPut vb va => some (asmV vb.bits va.bits 0 false 6 18)
  | .affine sb sa vd nw => some (asmV sb.bits sa.bits vd nw 7 18)
  | .omov va od nw => some (asmV 0 va.bits (0#3 ++ od : BitVec 6) nw 8 18)
  | .dotF32Bf16 vb va vd nw => some (asmF vb.bits va.bits vd nw 0 0 19)
  | .dotF32F16 vb va vd nw => some (asmF vb.bits va.bits vd nw 1 0 19)
  | .dotS32S8 vb va vd nw => some (asmF vb.bits va.bits vd nw 2 0 19)
  | .dotF32Nf vb va vd nw => some (asmF vb.bits va.bits vd nw 3 0 19)
  | .sadd sb sa sd => some (asmE sb.bits sa.bits sd 0 20)
  | .ssub sb sa sd => some (asmE sb.bits sa.bits sd 1 20)
  | .smul sb sa sd => some (asmE sb.bits sa.bits sd 2 20)
  | .smulhS sb sa sd => some (asmE sb.bits sa.bits sd 3 20)
  | .smulhN sb sa sd => some (asmE sb.bits sa.bits sd 4 20)
  | .sdivS sb sa sd => some (asmE sb.bits sa.bits sd 5 20)
  | .sdivN sb sa sd => some (asmE sb.bits sa.bits sd 6 20)
  | .sremS sb sa sd => some (asmE sb.bits sa.bits sd 7 20)
  | .sremN sb sa sd => some (asmE sb.bits sa.bits sd 8 20)
  | .sand sb sa sd => some (asmE sb.bits sa.bits sd 9 20)
  | .sor sb sa sd => some (asmE sb.bits sa.bits sd 10 20)
  | .sxor sb sa sd => some (asmE sb.bits sa.bits sd 11 20)
  | .sandn sb sa sd => some (asmE sb.bits sa.bits sd 12 20)
  | .sshl sb sa sd => some (asmE sb.bits sa.bits sd 13 20)
  | .sshrN sb sa sd => some (asmE sb.bits sa.bits sd 14 20)
  | .sshrS sb sa sd => some (asmE sb.bits sa.bits sd 15 20)
  | .srotl sb sa sd => some (asmE sb.bits sa.bits sd 16 20)
  | .sminS sb sa sd => some (asmE sb.bits sa.bits sd 17 20)
  | .sminN sb sa sd => some (asmE sb.bits sa.bits sd 18 20)
  | .smaxS sb sa sd => some (asmE sb.bits sa.bits sd 19 20)
  | .smaxN sb sa sd => some (asmE sb.bits sa.bits sd 20 20)
  | .ssltS sb sa sd => some (asmE sb.bits sa.bits sd 21 20)
  | .ssltN sb sa sd => some (asmE sb.bits sa.bits sd 22 20)
  | .sseq sb sa sd => some (asmE sb.bits sa.bits sd 23 20)
  | .spopc sa sd => some (asmE 0 sa.bits sd 24 20)
  | .sclz sa sd => some (asmE 0 sa.bits sd 25 20)
  | .sctz sa sd => some (asmE 0 sa.bits sd 26 20)
  | .smov sa sd => some (asmE 0 sa.bits sd 27 20)
  | .saddi imm sa sd => some (asmSI imm sa.bits sd 21)
  | .sandi imm sa sd => some (asmSI imm sa.bits sd 22)
  | .sori imm sa sd => some (asmSI imm sa.bits sd 23)
  | .sxori imm sa sd => some (asmSI imm sa.bits sd 24)
  | .sshli amt sa sd => some (asmSI (0#4 ++ 0#2 ++ amt : BitVec 12) sa.bits sd 25)
  | .sshriN amt sa sd => some (asmSI (0#4 ++ 1#2 ++ amt : BitVec 12) sa.bits sd 25)
  | .sshriS amt sa sd => some (asmSI (0#4 ++ 2#2 ++ amt : BitVec 12) sa.bits sd 25)
  | .srotli amt sa sd => some (asmSI (0#4 ++ 3#2 ++ amt : BitVec 12) sa.bits sd 25)
  | .sli imm q sd => some (asmSU imm q sd 0)
  | .slk imm q sd => some (asmSU imm q sd 1)
  | .mand mb ma md => some (asmE (0#4 ++ mb : BitVec 7) (0#4 ++ ma : BitVec 7) (0#3 ++ md : BitVec 6) 0 27)
  | .mor mb ma md => some (asmE (0#4 ++ mb : BitVec 7) (0#4 ++ ma : BitVec 7) (0#3 ++ md : BitVec 6) 1 27)
  | .mxor mb ma md => some (asmE (0#4 ++ mb : BitVec 7) (0#4 ++ ma : BitVec 7) (0#3 ++ md : BitVec 6) 2 27)
  | .mandn mb ma md => some (asmE (0#4 ++ mb : BitVec 7) (0#4 ++ ma : BitVec 7) (0#3 ++ md : BitVec 6) 3 27)
  | .mnot ma md => some (asmE 0 (0#4 ++ ma : BitVec 7) (0#3 ++ md : BitVec 6) 4 27)
  | .mmov ma md => some (asmE 0 (0#4 ++ ma : BitVec 7) (0#3 ++ md : BitVec 6) 5 27)
  | .mcnt ma sd => some (asmE 0 (0#4 ++ ma : BitVec 7) sd 6 27)
  | .mfirst ma sd => some (asmE 0 (0#4 ++ ma : BitVec 7) sd 7 27)
  | .mact md => some (asmE 0 0 (0#3 ++ md : BitVec 6) 8 27)
  | .mget k ma sd => some (asmE k (0#4 ++ ma : BitVec 7) sd 9 27)
  | .mput k sa md => some (asmE k sa.bits (0#3 ++ md : BitVec 6) 10 27)
  | .bz off sa => some (asmBS off 0 sa.bits)
  | .bnz off sa => some (asmBS off 1 sa.bits)
  | .bltz off sa => some (asmBS off 2 sa.bits)
  | .bgez off sa => some (asmBS off 3 sa.bits)
  | .bdiv off joff ms => some ((off ++ joff ++ ms ++ 29#6 ++ 1#1 : BitVec 32))
  | .jmp off => some ((off ++ 0#1 ++ 30#6 ++ 1#1 : BitVec 32))
  | .call off => some ((off ++ 1#1 ++ 30#6 ++ 1#1 : BitVec 32))
  | .ret => some (asmE 0 0 0 0 31)
  | .jr sa => some (asmE 0 sa.bits 0 1 31)
  | .callr sa => some (asmE 0 sa.bits 0 2 31)
  | .brtab va => some (asmE 0 va.bits 0 3 31)
  | .rcv => some (asmE 0 0 0 4 31)
  | .pause => some (asmE 0 0 0 5 31)
  | .exit => some (asmE 0 0 0 6 31)
  | .wcnt c n => some (asmE (0#5 ++ c : BitVec 7) 0 n 7 31)
  | .rdclk r sd => some (asmE (0#6 ++ bit r : BitVec 7) 0 sd 8 31)
  | .rdid sel sd => some (asmE (0#3 ++ sel : BitVec 7) 0 sd 9 31)
  | .ld base ix vd f off => some (asmM base ix.bits vd f.code off 32)
  | .st base ix vd f off => some (asmM base ix.bits vd f.code off 33)
  | .sld base ix vd f off => some (asmM base ix.bits vd f.code off 34)
  | .sst base ix vd f off => some (asmM base ix.bits vd f.code off 35)
  | .redAdd base ix vd f => some (asmM base ix.bits vd f.code 0 36)
  | .redMin base ix vd f => some (asmM base ix.bits vd f.code 1 36)
  | .redMax base ix vd f => some (asmM base ix.bits vd f.code 2 36)
  | .redAnd base ix vd f => some (asmM base ix.bits vd f.code 3 36)
  | .redOr base ix vd f => some (asmM base ix.bits vd f.code 4 36)
  | .redXor base ix vd f => some (asmM base ix.bits vd f.code 5 36)
  | .atomAdd base ix vd f => some (asmM base ix.bits vd f.code 8 36)
  | .atomMin base ix vd f => some (asmM base ix.bits vd f.code 9 36)
  | .atomMax base ix vd f => some (asmM base ix.bits vd f.code 10 36)
  | .atomAnd base ix vd f => some (asmM base ix.bits vd f.code 11 36)
  | .atomOr base ix vd f => some (asmM base ix.bits vd f.code 12 36)
  | .atomXor base ix vd f => some (asmM base ix.bits vd f.code 13 36)
  | .atomXchg base ix vd f => some (asmM base ix.bits vd f.code 14 36)
  | .atomCas base ix vd f => some (asmM base ix.bits vd f.code 15 36)
  | .ldfe base ix vd f => some (asmM base ix.bits vd f.code 0 37)
  | .stfe base ix vd f => some (asmM base ix.bits vd f.code 1 37)
  | .ldf base ix vd f => some (asmM base ix.bits vd f.code 2 37)
  | .rel sc => some (asmE (0#4 ++ sc.code : BitVec 7) 0 0 0 38)
  | .acq sc => some (asmE (0#4 ++ sc.code : BitVec 7) 0 0 1 38)
  | .acqset sc sa => some (asmE (0#4 ++ sc.code : BitVec 7) sa.bits 0 2 38)
  | .fence sc => some (asmE (0#4 ++ sc.code : BitVec 7) 0 0 3 38)
  | .bar sc sd => some (asmE (0#4 ++ sc.code : BitVec 7) 0 sd 4 38)
  | .gbar sc sd => some (asmE (0#4 ++ sc.code : BitVec 7) 0 sd 5 38)
  | .gjoin sa => some (asmE 0 sa.bits 0 6 38)
  | .gleave => some (asmE 0 0 0 7 38)
  | .ifence => some (asmE 0 0 0 8 38)
  | .spawn p np sa sd => some (asmE (p ++ np : BitVec 7) sa.bits sd 0 39)
  | .jwait sa => some (asmE 0 sa.bits 0 1 39)
  | .copy sn sa sd => some (asmE (0#1 ++ sn : BitVec 7) sa.bits sd 0 40)
  | .cbseal sd => some (asmE 0 0 sd 1 40)
  | .cbwait sa => some (asmE 0 sa.bits 0 2 40)
  | .talloc sa sd => some (asmE 0 sa.bits sd 0 41)
  | .tready sa => some (asmE 0 sa.bits 0 1 41)
  | .trel sa => some (asmE 0 sa.bits 0 2 41)
  | .tstat sa sd => some (asmE 0 sa.bits sd 3 41)
  | .mm f acc oma omb sd => some (asmMX f.code acc oma omb sd 0)
  | .mmSp f acc oma omb sd => some (asmMX f.code acc oma omb sd 1)
  | .mmo f vd va omb sd => some (asmMO f.code vd va omb sd 43)
  | .mmoSp f vd va omb sd => some (asmMO f.code vd va omb sd 44)
  | .aalloc sa sd => some (asmE 0 sa.bits sd 0 45)
  | .afree n => some (asmE (0#2 ++ n : BitVec 7) 0 0 1 45)
  | .azero n => some (asmE (0#2 ++ n : BitVec 7) 0 0 2 45)
  | .adrain m h sa sd => some (asmE (bit m ++ 0#1 ++ h : BitVec 7) sa.bits sd 3 45)
  | .adrainT m sa sd => some (asmE (bit m ++ 1#1 ++ 0#5 : BitVec 7) sa.bits sd 3 45)
  | .wbld sa sd => some (asmE 0 sa.bits sd 0 46)
  | .wbldRel => some (asmE 1 0 0 0 46)
  | .omset k sa => some (asmE (0#3 ++ k : BitVec 7) sa.bits 0 1 46)
  | .nfset k sa => some (asmE (0#3 ++ k : BitVec 7) sa.bits 0 2 46)
  | .nfget k sd => some (asmE (0#3 ++ k : BitVec 7) 0 sd 3 46)
  | .dmset side sa => some (asmE (0#6 ++ bit side : BitVec 7) sa.bits 0 4 46)
  | .sqld t qd sa => some (asmE (0#3 ++ bit t ++ qd : BitVec 7) sa.bits 0 0 47)
  | .sqst qa sa => some (asmE (0#4 ++ qa : BitVec 7) sa.bits 0 1 47)
  | .sqint qa qd qb => some (asmE (0#1 ++ qa ++ qd : BitVec 7) 0 (0#3 ++ qb : BitVec 6) 2 47)
  | .squni qa qd qb => some (asmE (0#1 ++ qa ++ qd : BitVec 7) 0 (0#3 ++ qb : BitVec 6) 3 47)
  | .sqsub qa qd qb => some (asmE (0#1 ++ qa ++ qd : BitVec 7) 0 (0#3 ++ qb : BitVec 6) 4 47)
  | .sqmadd qa qd qb => some (asmE (0#1 ++ qa ++ qd : BitVec 7) 0 (0#3 ++ qb : BitVec 6) 5 47)
  | .sqcnt qa sd => some (asmE (0#4 ++ qa : BitVec 7) 0 sd 6 47)
  | .sqext qa sa vd => some (asmE (0#4 ++ qa : BitVec 7) sa.bits vd 7 47)
  | .cscene sa sd => some (asmE 0 sa.bits sd 0 48)
  | .cclose sa => some (asmE 0 sa.bits 0 1 48)
  | .ckind k sa vb => some (asmE (0#5 ++ k.code : BitVec 7) sa.bits vb 2 48)
  | .clink j sa vb => some (asmE (0#6 ++ bit j : BitVec 7) sa.bits vb 3 48)
  | .cunlink j sa vb => some (asmE (0#6 ++ bit j : BitVec 7) sa.bits vb 4 48)
  | .cstep sa sd => some (asmE 0 sa.bits sd 5 48)
  | .csleep => some (asmE 0 0 0 6 48)
  | .cwake sa vb => some (asmE 0 sa.bits vb 7 48)
  | .cquery f sa vb => some (asmE (0#4 ++ f.code : BitVec 7) sa.bits vb 8 48)
  | .enq en sa sd => some (asmE en.code sa.bits sd 0 49)
  | .eseq en sd => some (asmE en.code 0 sd 1 49)
  | .ewait en sa sd => some (asmE en.code sa.bits sd 2 49)
  | .vgrow g => some (asmE 0 0 (0#3 ++ g : BitVec 6) 0 54)
  | .vshrink g => some (asmE 0 0 (0#3 ++ g : BitVec 6) 1 54)
  | .crr cr sa sd => some (asmE cr.code sa.bits sd 0 55)
  | .crw cr sa sd => some (asmE cr.code sa.bits sd 1 55)
  | .crs cr sa sd => some (asmE cr.code sa.bits sd 2 55)
  | .crc cr sa sd => some (asmE cr.code sa.bits sd 3 55)
  | .rte => some (asmE 0 0 0 4 55)
  | .trap n => some (asmE n 0 0 5 55)
  | .brk n => some (asmE n 0 0 6 55)
  | .tcinv sc sa => some (asmE (0#4 ++ sc.code : BitVec 7) sa.bits 0 7 55)
  | .tcinva sc sa => some (asmE (0#4 ++ sc.code : BitVec 7) sa.bits 0 8 55)
  | .nop => some (asmHint 0 0)
  | .targetEntry p => some (asmHint 1 p)
  | .targetListHeader p => some (asmHint 2 p)
  | .hint hk p => some (asmHint hk p)
  | _ => none

/-- The bytes of an instruction, in the order they lie in memory (R150); none for an event. -/
def encode (i : Instr) : Option (List Byte) :=
  match encode16 i with
  | some p => some [p.extractLsb' 0 8, p.extractLsb' 8 8]
  | none =>
    (encode32 i).map fun w => [w.extractLsb' 0 8, w.extractLsb' 8 8, w.extractLsb' 16 8, w.extractLsb' 24 8]

/-- The word of an instruction, zero-extended from a parcel: what EADDR holds for a class 0 trap (R370). -/
def encodeWord (i : Instr) : BitVec 32 :=
  match encode16 i with
  | some p => p.setWidth 32
  | none => (encode32 i).getD 0

/-- Whether an instruction is an event: it has no encoding (95_what_each_step_holds.md). -/
def Instr.isEvent (i : Instr) : Bool := (encode16 i).isNone && (encode32 i).isNone

end Sys2Proof
end

