-- ==== Sys2Proof/Config.lean ====
section
/-!
DEFINITION. What the spec leaves open. Each constant without a body is a free value: nothing can evaluate it, so a
claim holds whatever it is. The assumption log's rows name them.
-/

namespace Sys2Proof

/-- Free values drawn one after another, numbered by `State.free` (log 5). -/
opaque Config.freeWord : Nat → BitVec 64

/-- A correctly rounded transcendental whose interval search ran out of precision: function number, format width,
operand bits, rounding code (log 14). -/
opaque Config.unresolved (fn width bits rm : Nat) : Nat

/-- The bits of an element beyond the elements of a compressed image, by draw and element (log 5). -/
opaque Config.beyondImage (draw e : Nat) : BitVec 64

/-- The check bits of a log entry over its first 56 bytes (R102), whose code the spec does not give (log 33). -/
opaque Config.checkBits : BitVec 448 → BitVec 64

/-- The CRC-32 of a flit over its first 252 bytes (R343), whose polynomial the spec does not give (log 75). -/
opaque Config.crc32 : List (BitVec 8) → BitVec 32

/-- Byte k of the signature that a one-time index gives a digest (R352, log 13). -/
opaque Config.signByte (index : Nat) (digest : BitVec 256) (k : Nat) : BitVec 8

end Sys2Proof
end

