-- ==== Sys2Proof/Machine/Num.lean ====
section
/-!
DEFINITION. Number formats and exact arithmetic (04_numbers.md R66 to R87): the value of a code, Round, Sat, Wrap,
exact sums and products, ChunkSum, Rng and CSample. Values are exact: a sign, a natural and a power of two.
-/

namespace Sys2Proof

/-- How a format spends its special codes (R68, R76). -/
inductive SpecPolicy where
  | ieee | oneNaN | saturating
  deriving DecidableEq, Repr

/-- A floating format, built in or narrow: sign present, exponent width, mantissa width, bias, policy (R67, R74). -/
structure FloatFmt where
  sign : Bool
  e : Nat
  m : Nat
  bias : Int
  spec : SpecPolicy
  deriving DecidableEq, Repr

/-- An exact value: a NaN, an infinity, or (−1)^neg · n · 2^x; `n = 0` is a signed zero. -/
inductive XVal where
  | nan
  | inf (neg : Bool)
  | fin (neg : Bool) (n : Nat) (x : Int)
  deriving DecidableEq, Repr

/-- The rounding modes of R71 after `.rnf` has been resolved. -/
inductive RMode where
  | rne | rz | ru | rd | sr
  deriving DecidableEq, Repr

/-- The four modes of a two-bit RM field (R155, R71). -/
def rmodeOf (rm : BitVec 2) : RMode :=
  match rm.toNat with
  | 0 => .rne | 1 => .rz | 2 => .ru | _ => .rd

/-- f64, f32, f16 and bf16 (R67). -/
def fmtF64 : FloatFmt := { sign := true, e := 11, m := 52, bias := 1023, spec := .ieee }
/-- f32 (R67). -/
def fmtF32 : FloatFmt := { sign := true, e := 8, m := 23, bias := 127, spec := .ieee }
/-- f16 (R67). -/
def fmtF16 : FloatFmt := { sign := true, e := 5, m := 10, bias := 15, spec := .ieee }
/-- bf16 (R66, R67). -/
def fmtBf16 : FloatFmt := { sign := true, e := 8, m := 7, bias := 127, spec := .ieee }

/-- The format of an FT field (R155). -/
def FloatFmt.ofFType : FType → FloatFmt
  | .f32 => fmtF32 | .f64 => fmtF64 | .f16 => fmtF16 | .bf16 => fmtBf16

/-- The total width of a format. -/
def FloatFmt.width (f : FloatFmt) : Nat := (if f.sign then 1 else 0) + f.e + f.m

/-- The format a narrow format register defines (R74). -/
def narrowFmt (nf : BitVec 32) : FloatFmt :=
  { sign := nf.getLsbD 7
    e := (nf.extractLsb' 0 4).toNat
    m := (nf.extractLsb' 4 3).toNat
    bias := (nf.extractLsb' 8 8).toInt
    spec := match (nf.extractLsb' 16 2).toNat with
      | 0 => .ieee | 1 => .oneNaN | _ => .saturating }

/-- Whether a narrow format definition is valid (R75); its reserved bits are checked by the caller. -/
def narrowValid (nf : BitVec 32) : Bool :=
  let f := narrowFmt nf
  let w := f.width
  decide (1 ≤ w) && decide (w ≤ 8) && nf.extractLsb' 16 2 != 3 &&
  (f.spec != .ieee || (decide (2 ≤ f.e) && decide (1 ≤ f.m))) &&
  (f.spec != .oneNaN || decide (2 ≤ w)) && (nf.extractLsb' 18 3).ule 4

/-- DEFRND of a valid narrow format register (R74). -/
def narrowDefRnd (nf : BitVec 32) : RMode :=
  match (nf.extractLsb' 18 3).toNat with
  | 0 => .rne | 1 => .rz | 2 => .ru | 3 => .rd | _ => .sr

/-- NaNOf: the canonical NaN, or +0 for a saturating format (R68, R76). -/
def FloatFmt.nanCode (f : FloatFmt) : Nat :=
  match f.spec with
  | .ieee => (2 ^ f.e - 1) * 2 ^ f.m + 2 ^ (f.m - 1)
  | .oneNaN => if f.sign then 2 ^ (f.e + f.m) else 2 ^ f.width - 1
  | .saturating => 0

/-- The code of the largest finite magnitude (R67, R76). -/
def FloatFmt.maxCode (f : FloatFmt) : Nat :=
  match f.spec with
  | .ieee => (2 ^ f.e - 1) * 2 ^ f.m - 1
  | .oneNaN => if f.sign then 2 ^ (f.e + f.m) - 1 else 2 ^ f.width - 2
  | .saturating => 2 ^ (f.e + f.m) - 1

/-- The code of ∞, where the format has one. -/
def FloatFmt.infCode (f : FloatFmt) : Nat := (2 ^ f.e - 1) * 2 ^ f.m

/-- A magnitude code with its sign bit. -/
def FloatFmt.withSign (f : FloatFmt) (neg : Bool) (code : Nat) : Nat :=
  if f.sign && neg then 2 ^ (f.e + f.m) + code else code

/-- The exact value of a code: NarrowValue, and the IEEE formats (R66 to R68, R76). -/
def FloatFmt.value (f : FloatFmt) (b : Nat) : XVal :=
  let b := b % 2 ^ f.width
  let neg := f.sign && b.testBit (f.e + f.m)
  let e := b / 2 ^ f.m % 2 ^ f.e
  let m := b % 2 ^ f.m
  if f.spec == .oneNaN && b == f.nanCode then .nan
  else if f.spec == .ieee && e == 2 ^ f.e - 1 then (if m == 0 then .inf neg else .nan)
  else if e == 0 then .fin neg m (1 - f.bias - f.m)
  else .fin neg (2 ^ f.m + m) (e - f.bias - f.m)

/-- The bit length of a natural: 0 for 0. -/
def bitLen (n : Nat) : Nat := if n = 0 then 0 else n.log2 + 1

/-- floor(log2 (n / d · 2^x)) for positive n and d. -/
def floorLog2 (n d : Nat) (x : Int) : Int :=
  let k : Int := (bitLen n : Int) - (bitLen d : Int)
  let below := if 0 ≤ k then decide (n < d * 2 ^ k.toNat) else decide (n * 2 ^ (-k).toNat < d)
  k - (if below then 1 else 0) + x

/-- Rounds n / d to an integer under a mode; `neg` is the sign of the value (R72, R80). -/
def roundNat (n d : Nat) (neg : Bool) (mode : RMode) (rnd : Nat) : Nat :=
  let q := n / d
  let r := n % d
  if r = 0 then q
  else
    let up := match mode with
      | .rne => decide (d < 2 * r) || (decide (2 * r = d) && q % 2 == 1)
      | .rz => false
      | .ru => !neg
      | .rd => neg
      | .sr => decide (d * 2 ^ 16 ≤ r * 2 ^ 16 + rnd * d)
    if up then q + 1 else q

/-- What an overflowing magnitude becomes (R72, R76). -/
def FloatFmt.overflow (f : FloatFmt) (neg : Bool) (mode : RMode) : Nat :=
  if f.spec == .ieee && (mode == .rne || (mode == .ru && !neg) || (mode == .rd && neg)) then f.infCode
  else f.maxCode

/-- The magnitude code of n / d · 2^x > 0, and whether it overflowed (R72). -/
def FloatFmt.roundMag (f : FloatFmt) (n d : Nat) (x : Int) (neg : Bool) (mode : RMode) (rnd : Nat) : Nat × Bool :=
  let kmin : Int := 1 - f.bias
  let k := if f.e = 0 then kmin else max (floorLog2 n d x) kmin
  let sh := x - (k - f.m)
  let q := if 0 ≤ sh then roundNat (n * 2 ^ sh.toNat) d neg mode rnd
           else roundNat n (d * 2 ^ (-sh).toNat) neg mode rnd
  let code := (k - kmin).toNat * 2 ^ f.m + q
  if code ≤ f.maxCode then (code, false) else (f.overflow neg mode, true)

/-- Round of (−1)^neg · n / d · 2^x, with n possibly 0 (R69, R72). -/
def FloatFmt.roundRat (f : FloatFmt) (neg : Bool) (n d : Nat) (x : Int) (mode : RMode) (rnd : Nat) : Nat :=
  if neg && !f.sign then 0
  else
    let code := if n = 0 then 0 else (f.roundMag n d x neg mode rnd).1
    if code = 0 && f.spec == .oneNaN then 0 else f.withSign neg code

/-- Round(x, F, mode, rnd) (R72). -/
def FloatFmt.round (f : FloatFmt) (v : XVal) (mode : RMode) (rnd : Nat) : Nat :=
  match v with
  | .nan => f.nanCode
  | .inf neg =>
    if neg && !f.sign then 0
    else f.withSign neg (if f.spec == .ieee then f.infCode else f.maxCode)
  | .fin neg n x => f.roundRat neg n 1 x mode rnd

/-- Whether Round takes a finite value past the largest finite magnitude: MXS.OVF and MXS.SAT ask it (R84). -/
def FloatFmt.overflows (f : FloatFmt) (v : XVal) (mode : RMode) : Bool :=
  match v with
  | .fin neg n x => n != 0 && (f.roundMag n 1 x neg mode 0).2
  | _ => false

/-! ## Exact arithmetic -/

/-- The integer of a finite value at the scale 2^x0, x0 at most its exponent. -/
def scaled (neg : Bool) (n : Nat) (x x0 : Int) : Int :=
  let v : Int := n * 2 ^ (x - x0).toNat
  if neg then -v else v

/-- The exact product (R68, R69, R85). -/
def XVal.mul : XVal → XVal → XVal
  | .nan, _ => .nan
  | _, .nan => .nan
  | .inf a, .inf b => .inf (a != b)
  | .inf a, .fin b n _ => if n = 0 then .nan else .inf (a != b)
  | .fin a n _, .inf b => if n = 0 then .nan else .inf (a != b)
  | .fin a n x, .fin b m y => .fin (a != b) (n * m) (x + y)

/-- The value with the other sign. -/
def XVal.neg : XVal → XVal
  | .nan => .nan
  | .inf a => .inf (!a)
  | .fin a n x => .fin (!a) n x

/-- The exact sum; a zero sum of unlike terms is signed by the mode (R69, R85). -/
def XVal.add (mode : RMode) : XVal → XVal → XVal
  | .nan, _ => .nan
  | _, .nan => .nan
  | .inf a, .inf b => if a = b then .inf a else .nan
  | .inf a, .fin _ _ _ => .inf a
  | .fin _ _ _, .inf b => .inf b
  | .fin a n x, .fin b m y =>
    let e := min x y
    let s := scaled a n x e + scaled b m y e
    if s = 0 then
      (if n = 0 && m = 0 && a == b then .fin a 0 0 else .fin (mode == .rd) 0 0)
    else .fin (decide (s < 0)) s.natAbs e

/-- The exact sum of a list, under `.rne`; −0 only when every term is −0 (R69, R85). -/
def XVal.sum : List XVal → XVal
  | [] => .fin false 0 0
  | [v] => v
  | v :: vs => XVal.add .rne v (XVal.sum vs)

/-- Whether a value is a NaN. -/
def XVal.isNan : XVal → Bool
  | .nan => true
  | _ => false

/-- The sign of a value; a NaN has none. -/
def XVal.isNeg : XVal → Bool
  | .nan => false
  | .inf a => a
  | .fin a _ _ => a

/-- Whether a value is a zero of either sign. -/
def XVal.isZero : XVal → Bool
  | .fin _ n _ => n == 0
  | _ => false

/-- An ordering key of a value at a common scale: −1, 0 or 1 for a < b, a = b, a > b; zeros are equal (R189). -/
def XVal.cmp (a b : XVal) : Int :=
  match a, b with
  | .nan, _ => 0
  | _, .nan => 0
  | .inf s, .inf t => if s = t then 0 else if s then -1 else 1
  | .inf s, .fin _ _ _ => if s then -1 else 1
  | .fin _ _ _, .inf t => if t then 1 else -1
  | .fin s n x, .fin t m y =>
    let e := min x y
    (scaled s n x e - scaled t m y e).sign

/-- The exact value of an integer. -/
def XVal.ofInt (i : Int) : XVal := .fin (decide (i < 0)) i.natAbs 0

/-- Rounds a finite value to the integer grid (R73, R185). -/
def roundInt (neg : Bool) (n : Nat) (x : Int) (mode : RMode) : Int :=
  let q := if 0 ≤ x then n * 2 ^ x.toNat else roundNat n (2 ^ (-x).toNat) neg mode 0
  if neg then -(q : Int) else q

/-! ## Integer formats -/

/-- Wrap to w bits as a pattern (R70). -/
def wrapBits (w : Nat) (i : Int) : Nat := (i % (2 : Int) ^ w).toNat

/-- The integer a w-bit pattern holds (R70). -/
def intOf (signed : Bool) (w b : Nat) : Int :=
  let b := b % 2 ^ w
  if signed && decide (2 ^ (w - 1) ≤ b) then (b : Int) - (2 : Int) ^ w else b

/-- The least value of an integer format (R70). -/
def intLeast (signed : Bool) (w : Nat) : Int := if signed then -((2 : Int) ^ (w - 1)) else 0

/-- The greatest value of an integer format (R70). -/
def intGreatest (signed : Bool) (w : Nat) : Int :=
  if signed then (2 : Int) ^ (w - 1) - 1 else (2 : Int) ^ w - 1

/-- Sat, as an integer (R70). -/
def satInt (signed : Bool) (w : Nat) (i : Int) : Int :=
  min (max i (intLeast signed w)) (intGreatest signed w)

/-- Sat as a pattern (R70). -/
def satBits (signed : Bool) (w : Nat) (i : Int) : Nat := wrapBits w (satInt signed w i)

/-- Floating point to integer (R73). -/
def toIntBits (signed : Bool) (w : Nat) (mode : RMode) : XVal → Nat
  | .nan => 0
  | .inf neg => wrapBits w (if neg then intLeast signed w else intGreatest signed w)
  | .fin neg n x => satBits signed w (roundInt neg n x mode)

/-! ## Tags -/

/-- Signedness and width of an integer format; none for the others (R55, R70). -/
def Fmt.intShape : Fmt → Option (Bool × Nat)
  | .s8 => some (true, 8) | .s16 => some (true, 16) | .s32 => some (true, 32) | .s64 => some (true, 64)
  | .n8 => some (false, 8) | .n16 => some (false, 16) | .n32 => some (false, 32) | .n64 => some (false, 64)
  | _ => none

/-- The floating format of a built-in tag (R55). -/
def Fmt.float : Fmt → Option FloatFmt
  | .f64 => some fmtF64 | .f32 => some fmtF32 | .bf16 => some fmtBf16 | .f16 => some fmtF16
  | _ => none

/-- The width in bits of a format's element (R55). -/
def Fmt.bits : Fmt → Nat
  | .f64 | .s64 | .n64 => 64
  | .f32 | .s32 | .n32 | .b32 | .pk => 32
  | .bf16 | .f16 | .s16 | .n16 => 16
  | .s8 | .n8 => 8

/-- The width in bytes of a memory element (R156). -/
def Fmt.bytes (f : Fmt) : Nat := Fmt.bits f / 8

/-- Whether a format occupies a register pair (R54, R55). -/
def Fmt.isPair : Fmt → Bool
  | .f64 | .s64 | .n64 => true
  | _ => false

/-- Whether a tag is a pair tag. -/
def Tag.isPair : Tag → Bool
  | .fmt f => f.isPair
  | .nf _ => false

/-- The pattern of a w-bit element in its 32-bit or 64-bit place (R55). -/
def Fmt.place (f : Fmt) (b : Nat) : Nat :=
  match f with
  | .s8 => wrapBits 32 (intOf true 8 b)
  | .s16 => wrapBits 32 (intOf true 16 b)
  | _ => b % 2 ^ f.bits

/-! ## Rng and CSample -/

/-- Rng(k, c) (R81). -/
def rng (k : BitVec 64) (c : BitVec 32) : BitVec 32 :=
  let kh : BitVec 32 := k.extractLsb' 32 32
  let round (x : BitVec 32) (i : Nat) : BitVec 32 :=
    let x := x ^^^ (x >>> 16)
    let x := x * 0x045D9F3B#32
    x ^^^ kh.rotateLeft (8 * i)
  let x := c ^^^ k.extractLsb' 0 32
  let x := round (round (round x 0) 1) 2
  x ^^^ (x >>> 16)

/-- The weight of CSample: negative, −0 and NaN weights count as 0 (R82). -/
def sampleWeight : XVal → XVal
  | .fin false n x => .fin false n x
  | .inf false => .inf false
  | _ => .fin false 0 0

/-- The least exponent of a list of weights. -/
def leastExp (ws : List (Nat × XVal)) : Int :=
  ws.foldl (fun e w => match w.2 with
    | .fin _ _ x => min e x
    | _ => e) 0

/-- The integer of a finite weight at a scale. -/
def weightAt (e : Int) : XVal → Nat
  | .fin _ n x => n * 2 ^ (x - e).toNat
  | _ => 0

/-- The prefix search of CSample: the first lane whose prefix sum exceeds the threshold rnd / 2^32 · total (R82). -/
def samplePrefix (e : Int) (rnd total : Nat) : Nat → List (Nat × XVal) → Nat
  | _, [] => 0xFFFFFFFF
  | acc, (l, w) :: rest =>
    let acc := acc + weightAt e w
    if rnd * total < acc * 2 ^ 32 then l else samplePrefix e rnd total acc rest

/-- CSample over the active lanes in ascending order, each with its exact weight (R82). -/
def cSample (ws : List (Nat × XVal)) (rnd : BitVec 32) : BitVec 32 :=
  let ws := ws.map fun w => (w.1, sampleWeight w.2)
  match ws.find? fun w => w.2 == .inf false with
  | some w => BitVec.ofNat 32 w.1
  | none =>
    let e := leastExp ws
    let total := ws.foldl (fun t w => t + weightAt e w.2) 0
    if total = 0 then 0xFFFFFFFF#32 else BitVec.ofNat 32 (samplePrefix e rnd.toNat total 0 ws)

/-! ## ChunkSum -/

/-- The accumulator formats of R83. -/
inductive AccFmt where
  | f64 | f32 | f16 | s32
  deriving DecidableEq, Repr

/-- The flags RoundAcc may set in MXS (R84, R251). -/
structure AccFlags where
  sat : Bool
  ovf : Bool
  deriving DecidableEq, Repr

/-- The exact value of an accumulator element. -/
def AccFmt.value (af : AccFmt) (b : Nat) : XVal :=
  match af with
  | .f64 => fmtF64.value b
  | .f32 => fmtF32.value b
  | .f16 => fmtF16.value b
  | .s32 => XVal.ofInt (intOf true 32 b)

/-- RoundAcc (R84). -/
def roundAcc (af : AccFmt) (v : XVal) : Nat × AccFlags :=
  match af with
  | .f32 => (fmtF32.round v .rne 0, { sat := false, ovf := fmtF32.overflows v .rne })
  | .f16 =>
    if fmtF16.overflows v .rne then (fmtF16.withSign v.isNeg fmtF16.maxCode, { sat := true, ovf := false })
    else (fmtF16.round v .rne 0, { sat := false, ovf := false })
  | .s32 =>
    match v with
    | .fin neg n x =>
      let i := scaled neg n x 0
      (satBits true 32 i, { sat := decide (satInt true 32 i ≠ i), ovf := false })
    | _ => (0, { sat := false, ovf := false })
  | .f64 => (fmtF64.round v .rne 0, { sat := false, ovf := false })

/-- ChunkSum over products already cut into chunks; masked positions are absent from their chunk (R83). -/
def chunkSum (af : AccFmt) : Nat → AccFlags → List (List XVal) → Nat × AccFlags
  | acc, fl, [] => (acc, fl)
  | acc, fl, c :: cs =>
    let r := roundAcc af (XVal.sum (af.value acc :: c))
    chunkSum af r.1 { sat := fl.sat || r.2.sat, ovf := fl.ovf || r.2.ovf } cs

/-- Cuts a list into chunks of c, c positive, with fuel (R83). -/
def chunksOf (c : Nat) : Nat → List α → List (List α)
  | 0, _ => []
  | _, [] => []
  | fuel + 1, xs => xs.take c :: chunksOf c fuel (xs.drop c)

end Sys2Proof
end

