-- ==== Sys2Proof/Machine/Regs.lean ====
section
/-!
DEFINITION. Vector registers with their shape, tag and poison (03_registers.md R51 to R55), and the small register
types of a team: stream registers (R266) and roles (R33).
-/

namespace Sys2Proof.Machine

/-- What a vector register holds (R51). -/
inductive Shape where
  | uniform (u : Elem)
  | affine (base stride : Elem)
  | general (lanes : List Elem)
  deriving DecidableEq, Repr

/-- The bits an index of a list holds; lanes beyond the list hold 0. -/
def Shape.read (s : Shape) (l : Nat) : Elem :=
  match s with
  | .uniform u => u
  | .affine b d => b + d * BitVec.ofNat 32 l
  | .general ls => ls.getD l 0

/-- A vector register: shape and value, format tag, and a poison bit per lane (R51, R55, R65). The poison of a
uniform or affine register is all ones or 0. -/
structure VReg where
  tag : Tag
  shape : Shape
  poison : Mask
  deriving DecidableEq, Repr

/-- Uniform 0 with tag b32 (R50). -/
def VReg.zero : VReg := { tag := .fmt .b32, shape := .uniform 0, poison := 0 }

/-- The element lane l reads. -/
def VReg.read (r : VReg) (l : Nat) : Elem := r.shape.read l

/-- A vector result: one register, or two for a pair. -/
structure Res where
  lo : VReg
  hi : Option VReg
  deriving DecidableEq, Repr

/-- A latch: a vector result, with the high register of a pair result (R58). -/
structure Latch where
  lo : VReg
  hi : Option VReg
  deriving DecidableEq, Repr

/-- A latch's content: a result, or the place of one that is not written yet (R58, R203). -/
inductive LatchSlot where
  | held (l : Latch)
  | due (id : Nat)
  deriving DecidableEq, Repr

/-- A stream register: type, OVF and pairs of n32 key and value bits in ascending keys (R266). -/
structure Stream where
  s32 : Bool
  ovf : Bool
  pairs : List (BitVec 32 × BitVec 32)
  deriving DecidableEq, Repr

/-- An empty stream register (R266). -/
def Stream.empty : Stream := { s32 := false, ovf := false, pairs := [] }

/-- The roles of a launch, in packet order (R33, R313). -/
inductive RoleId where
  | copy | matrix | epilogue | general
  deriving DecidableEq, Repr

/-- A role word of a launch (R33, R313). -/
structure Role where
  teams : Nat
  lanes : Nat
  vregs : Nat
  sregs : Nat
  deriving DecidableEq, Repr

end Sys2Proof.Machine
end

