-- ==== Sys2Proof/Machine/TeamTypes.lean ====
section
/-!
DEFINITION. Teams, gangs, resource families and cores as plain data (02_execution_model.md, 03_registers.md,
05_memory_hierarchy.md, 15_system_traps.md). Teams, gangs and families carry unique ids of the model's own; a core is
named by its logical number.
-/

namespace Sys2Proof.Machine

/-! ## Entries of the store log -/

/-- The kinds of a log entry (R102). -/
inductive EntryKind where
  | plain | reduction | segment
  deriving DecidableEq, Repr

/-- How far an entry has come (R106, R109). -/
inductive EntryState where
  /-- In the ring or the spill log, unpublished. -/
  | logged
  /-- Covered by the publication of this order number. -/
  | published (pub : Nat)
  /-- Sent to its home, not yet applied. -/
  | sent (pub : Nat)
  /-- Applied at its home, not yet acknowledged. -/
  | applied
  deriving DecidableEq, Repr

/-- A log entry (R102), with the model's bookkeeping after its fields. -/
structure LogEntry where
  data : BitVec 256
  hdev : BitVec 10
  gran : BitVec 42
  mask : BitVec 32
  kind : EntryKind
  slot : BitVec 6
  poison : Bool
  fmt : Fmt
  op : BitVec 4
  eng : Bool
  tenant : BitVec 8
  lsn : BitVec 48
  /-- The team that appended it, and that team's gang. -/
  team : Nat
  gang : Nat
  state : EntryState
  /-- In the spill log rather than the ring (R111). -/
  spilled : Bool
  /-- Lane key and program-order number of a reduction (R110, R323). -/
  key : LaneKey
  order : Word
  /-- A reduction of a level 1 or higher team: staged at its home (R323). -/
  sorted : Bool
  /-- A segment's bytes from the start of its first granule, as its engine holds them, and the granules among
  them that are poisoned; `none` while the engine does not hold them (R109). -/
  held : Option (List (BitVec 8))
  heldPoison : List Nat
  /-- Source address, source space, length in granules, completing run and LASTMASK of a segment (R102). -/
  srcAddr : Word
  srcSpace : BitVec 8
  len : Nat
  run : Word
  lastMask : BitVec 32
  /-- The id of the engine run it belongs to, and whether that is a `copy`, whose entries only `cbwait` publishes
  (R106). -/
  runId : Option Nat
  copy : Bool
  /-- The LAUNCH its team came from: queue and packet (R323). -/
  origin : Option (Nat × Nat)
  deriving DecidableEq, Repr

/-! ## Teams -/

/-- What a blocked path waits for; it issues its instruction again at each turn (log 17). -/
inductive Wait where
  /-- `wcnt` on a counter (R179). -/
  | counter
  /-- `vgrow` to a count (R62). -/
  | grow (n : Nat)
  /-- An acquire, release at a level, or `cbwait` that is not complete (R212, R220). -/
  | sync
  /-- A full/empty access that has lanes to serve (R98). -/
  | fullEmpty
  /-- `jwait` on the counter at a partition offset (R217). -/
  | join (off : Nat)
  /-- `ewait`, `eseq` or `enq` on an engine (R283 to R285). -/
  | engine
  /-- A barrier that has not completed (R214). -/
  | barrier
  /-- A group barrier that has not completed (R214). -/
  | groupBarrier
  /-- A `spawn` with queue and ring full (R41). -/
  | spawn
  /-- An append that finds ring and spill log full (R111, R387). -/
  | logFull
  /-- A tile that is not ready, or a matrix operand in use (R100, R250). -/
  | tile
  /-- A driver `cstep`, or an island instruction during a regrouping (R118, R123). -/
  | step
  /-- An island team whose step has ended (R122). -/
  | stepEnded
  /-- The logical clock (R327). -/
  | clock
  /-- An outstanding write of a register (R162, R178). -/
  | register
  /-- A returning atomic at its home (R209). -/
  | atomic
  /-- Anything else that delays issue and changes nothing. -/
  | other
  deriving DecidableEq, Repr

/-- The place a vector result goes: a team's register, or one of the trap bank (R298). -/
inductive VTarget where
  | v (n : Nat)
  | kv (n : Nat)
  deriving DecidableEq, Repr

/-- The three full/empty accesses (R98). -/
inductive FeOp where
  | ldfe | stfe | ldf
  deriving DecidableEq, Repr

/-- A full/empty access in progress: where its results go, and the lanes it has still to serve, ascending, each with
its physical scratchpad offset and the value it stores (R98, R211). The lane at the head has arrived at its word under
`ticket`; those behind it have not. -/
structure FeAccess where
  op : FeOp
  fmt : Fmt
  target : VTarget
  ticket : Nat
  todo : List (Nat × Nat × BitVec 64)
  deriving DecidableEq, Repr

/-- What a blocked instruction has already done. -/
inductive Prog where
  | none
  /-- A full/empty access has begun (R98). -/
  | access (a : FeAccess)
  /-- A `spawn` has raised its counter, at a partition offset, and has these lanes' children still to gather at an
  entry (R41, R216). -/
  | spawning (entry : Word) (off : Nat) (todo : List Nat)
  /-- An acquire: publications up to this one are to be replayed; whether they are (R108). -/
  | acquire (upTo : Nat) (ready : Bool)
  /-- A command has been handed to its channel as a run; its number, once the channel has accepted it (R279, R283). -/
  | command (run : Nat) (num : Option Word)
  /-- A step that is not repeated has been taken: a `jwait`'s release of groups, an `eseq`'s number. -/
  | done (w : Word)
  deriving DecidableEq, Repr

/-- A path or an arm: its PC, its lanes, the instructions left of its quantum, and how it stands (R35). -/
structure Arm where
  pc : Word
  mask : Mask
  quantum : Nat
  arrived : Bool
  wait : Option Wait
  /-- The tick at which the wait began; the watchdog asks it (R375). -/
  since : Nat
  prog : Prog
  deriving DecidableEq, Repr

/-- A path at `pc` with lanes `mask`, running. -/
def Arm.start (pc : Word) (mask : Mask) (quantum : Nat) : Arm :=
  { pc, mask, quantum, arrived := false, wait := none, since := 0, prog := .none }

/-- An entry of the divergence stack (R35, R176). `sel` is the running arm. -/
structure Entry where
  join : Word
  arm0 : Arm
  arm1 : Arm
  sel : Bool
  table : Bool
  deriving DecidableEq, Repr

/-- What a trap reports (R297, R371 to R381). -/
structure TrapInfo where
  code : BitVec 9
  eaddr : Word
  emask : Mask
  epc : Word
  arm : Bool
  div : Bool
  /-- A debug stop (R300). -/
  dbg : Bool
  deriving DecidableEq, Repr

/-- How a team stands (R25, R63, R122, R297, R300, R373, R384). -/
inductive Status where
  | running
  /-- Waiting for the trap bank with its trap (R297). -/
  | waitingBank (t : TrapInfo)
  /-- In a handler. -/
  | handler
  /-- In a debug stop: no handler path runs (R300). -/
  | debugStop
  /-- Parked on a recoverable fault whose entry has this index once written (R384). -/
  | parked (t : TrapInfo) (acc : AccKind) (level : Nat)
  /-- Swapped out while blocked in `vgrow` (R63). -/
  | swappedOut
  /-- Halted (R373). -/
  | halted
  deriving DecidableEq, Repr

/-- Where a lane's bytes lie: at their homes, cut at granules, or in another core's scratchpad (R91). -/
inductive Place where
  | home (parts : List (Nat × Nat))
  | window (core off : Nat)
  deriving DecidableEq, Repr

/-- Some bytes of a lane: the core whose scratchpad holds them, none for global memory; address and length. -/
structure Touch where
  lane : Nat
  space : Option Nat
  addr : Nat
  len : Nat
  deriving DecidableEq, Repr

/-- What an issued instruction still has to do (R178). -/
inductive Work where
  /-- A global or window load reads its bytes. -/
  | load (fmt : Fmt) (places : List (Nat × Place))
  /-- A returning atomic is performed at its homes: OP, and each lane's operands and key (R209). -/
  | atomic (fmt : Fmt) (op : BitVec 4) (lanes : List (Nat × BitVec 64 × BitVec 64)) (keys : List (Nat × Nat))
  /-- A result is written: of a scratchpad load or a cross-lane instruction (`cross`), with the lanes that read a
  vacant source; `whole` says that it replaces its registers, of which other lanes keep nothing (R53, R196, R205). -/
  | result (cross : Bool) (res : Res) (whole : Bool) (vacant : Mask)
  /-- A store's or reduction's entries go to the log, or to the atomic buffer (R204, R208). -/
  | append (buffered : Bool) (entries : List LogEntry)
  deriving DecidableEq, Repr

/-- An instruction that has been issued and is not complete: its registers are busy, and its counter is raised, until
it is (R162, R178). -/
structure Pending where
  id : Nat
  /-- The register a result goes to; none for a store and for a result that goes to the latches alone. -/
  target : Option VTarget
  pair : Bool
  /-- The lanes it was issued for, and the bytes it reads or writes. -/
  mask : Mask
  touch : List Touch
  work : Work
  deriving DecidableEq, Repr

/-- A copy of a team that no `cbwait` has covered (R112, R218): its run's id, its batch once sealed, whether its
destination is global, whether it is complete, and the fault that ended it, which one `cbwait` takes (R395). -/
structure CopyRec where
  run : Nat
  batch : Option (BitVec 32)
  glob : Bool
  done : Bool
  fault : Bool
  deriving DecidableEq, Repr

/-- The first violation of a switched-off lane (R386). -/
structure Violation where
  code : BitVec 9
  pc : Word
  addr : Word
  deriving DecidableEq, Repr

/-- A team (R23, R26, R49). -/
structure Team where
  id : Nat
  gang : Nat
  /-- Logical ID of the gang it was created in (R29, R215). -/
  home : BitVec 32
  core : Nat
  slot : BitVec 6
  index : BitVec 6
  role : RoleId
  spawned : Bool
  depth : Nat
  /-- The reserve the team runs in, for a spawned team without a free place (R42). -/
  reserve : Option Nat
  size : Nat
  keys : List LaneKey
  /-- `spawn` instructions each lane has executed (R21). -/
  ords : List (BitVec 10)
  /-- The join counter's partition offset of each spawned lane; none for a launched or never-launched lane (R44). -/
  joins : List (Option (BitVec 22))
  act : Mask
  path : Arm
  stack : List Entry
  hpath : Arm
  vcnt : Nat
  scnt : Nat
  v : Vector VReg 64
  s : Vector Word 64
  m : Vector Mask 8
  o : Vector VReg 8
  nf : Vector (BitVec 32) 16
  om : Vector Word 16
  q : Vector Stream 8
  pathq : Word
  xfill : Word
  vacant : Mask
  mxs : Word
  logt : Word
  tstat : Word
  dbgctl : Word
  /-- The value of the last `dmset`, and its SIDE (R259). -/
  dm : Word
  dmSide : Bool
  /-- Batch numbers: the last sealed, and the copies of the open batch (R112, R305). -/
  sealed : BitVec 32
  openCopies : BitVec 32
  copies : List CopyRec
  /-- The counters of R178. -/
  ld : Nat
  ap : Nat
  en : Nat
  xl : Nat
  retired : Word
  /-- The model's own: instructions retired at any level, by which a turn knows that one has retired. -/
  issued : Nat
  /-- BASE of the logical clock (R326). -/
  base : Word
  /-- The program-order number of the next reduction (R110). -/
  order : Word
  /-- The first generation of its gang's barrier it takes part in (R29). -/
  fromGen : BitVec 32
  /-- Barrier arrival and its generation (R214, R305). -/
  arrived : Bool
  arrGen : BitVec 32
  groupArrived : Bool
  groupGen : BitVec 32
  status : Status
  faultMask : Mask
  firstViolation : Option Violation
  pend : List Pending
  /-- Ticks at which the retire and starve timers last restarted (R374). -/
  retireAt : Nat
  starveAt : Nat
  /-- The tick at which both timers stopped, while they do not advance (R374). -/
  pausedAt : Option Nat
  /-- ACT of an ack word processed while the team's gang was saved; it takes effect at restore (R385). -/
  acked : Option (Nat × BitVec 2)
  /-- The tick at which the retire timer of the handler path last restarted (R380). -/
  hangAt : Nat
  /-- Parcels fetched ahead: address and parcel (R151). -/
  prefetched : List (Word × BitVec 16)
  /-- Instructions since the latch run began; the latches are valid only inside it (R58). -/
  run : Nat
  /-- A stop after the next retired instruction (R300). -/
  stopNext : Bool
  /-- A switch of arms that waits for the logical clock (R327, R329). -/
  switchDue : Bool
  /-- Digest records since the last commit, when the family is paired, and the core's
  next LSN at that commit (R334). -/
  records : List (BitVec 8)
  committed : BitVec 48
  deriving DecidableEq, Repr

/-! ## Spawning -/

/-- A gathered child (R39, R40, R306). -/
structure Child where
  uid : Nat
  gang : Nat
  entry : Word
  key : LaneKey
  payload : List Elem
  poison : BitVec 4
  counter : BitVec 22
  depth : Nat
  /-- LCLK of the parent at its `spawn` (R326). -/
  clock : Word
  /-- The tick at which it joined its group (R40). -/
  tick : Nat
  /-- Publications below this one precede the child's events (R227). -/
  pubs : Nat
  deriving DecidableEq, Repr

/-! ## Keys of memory (R114) -/

/-- Under which key a granule of memory is held: a tenant's, the device's system key, or one that is destroyed. -/
inductive Holder where
  | tenant (t : BitVec 8)
  | system
  | lost
  deriving DecidableEq, Repr

/-! ## Publications -/

/-- A publication (R106). `seq` is the order in which they were recorded; `lsns` are the entries of its core that it
covers and that were not applied when it was recorded, those an earlier publication covers among them. -/
structure Pub where
  seq : Nat
  core : Nat
  team : Nat
  scope : Scope
  num : Word
  tick : Word
  gang : Nat
  family : Nat
  /-- Made by a spawned lane's exit (R44). -/
  ending : Bool
  lsns : List (BitVec 48)
  deriving DecidableEq, Repr

/-- An entry on its way to its home, with the LSNs it stands for (R109). -/
structure Flight where
  core : Nat
  pub : Nat
  lsns : List (BitVec 48)
  entry : LogEntry
  deriving DecidableEq, Repr

/-- A reduction staged at its home (R323). -/
structure Staged where
  addr : Nat
  op : BitVec 4
  fmt : Fmt
  value : BitVec 64
  key : LaneKey
  order : Word
  poison : Bool
  /-- The LAUNCH its team came from: queue and packet (R323). -/
  origin : Option (Nat × Nat)
  deriving DecidableEq, Repr

/-! ## Tiles -/

/-- The states of a tile (R99). -/
inductive TileState where
  | empty | filling | ready | draining
  deriving DecidableEq, Repr

/-- A tile table entry (R99); BASE and size are in KiB. -/
structure Tile where
  state : TileState
  fmt : Tag
  gslot : BitVec 5
  sizeM1 : BitVec 12
  base : BitVec 12
  deriving DecidableEq, Repr

/-- The reset entry (R99). -/
def Tile.none : Tile := { state := .empty, fmt := .fmt .b32, gslot := 0, sizeM1 := 0, base := 0 }

/-- The weight buffer (R261). -/
structure WeightBuf where
  family : Nat
  addr : Word
  bytes : List (BitVec 8)
  /-- Poisoned granules of the image, counted from its start. -/
  bad : List Nat
  deriving DecidableEq, Repr

/-! ## Gangs and families -/

/-- An island gang's place in its scene (R122 to R135). -/
structure IslandRef where
  scene : BitVec 6
  /-- The unit's ID body, and the root of its component; the ID body for a batch (R127). -/
  unit : BitVec 24
  root : BitVec 24
  batch : Bool
  shard : Nat
  shards : Nat
  /-- The bodies of the store, and the anchors and ghosts, each in ascending ID (R128). -/
  bodies : List (BitVec 24)
  anchors : List (BitVec 24)
  /-- Offset of the cross list, and the entries written to it this step (R127, R130). -/
  offCross : Nat
  ncross : Nat
  /-- `csleep` was issued this step (R133). -/
  sleep : Bool
  deriving DecidableEq, Repr

/-- The values of a check record (R331). -/
structure CheckRec where
  seed : Word
  sample : Bool
  pairSel : BitVec 2
  deriving DecidableEq, Repr

/-- A check record of zeros. -/
def CheckRec.zero : CheckRec := { seed := 0, sample := false, pairSel := 0 }

/-- A gang (R27, R28, R304). -/
structure Gang where
  uid : Nat
  logical : BitVec 32
  tenant : BitVec 8
  level : BitVec 2
  checked : Bool
  sys : Bool
  queue : Option Nat
  /-- The LAUNCH packet's index in its queue (R313). -/
  packet : Option Nat
  /-- The LAUNCH it came from, itself or through the gang that made it: queue and packet (R323, R325). -/
  origin : Option (Nat × Nat)
  vcore : Nat
  /-- The core, when resident, and its gang slot (R27, R95). -/
  core : Option Nat
  gslot : BitVec 5
  ttbase : Word
  family : Nat
  barGen : BitVec 32
  /-- A team the generation in progress expected has halted, and the status of the last one completed (R214). -/
  abandoned : Bool
  barStatus : Word
  /-- The gang group it is a member of (R32). -/
  group : Option Nat
  roles : List Role
  spawnWidth : Nat
  nest : Nat
  /-- Children in the spawn ring, oldest first (R41). -/
  ring : List Nat
  /-- Groups that have left as teams and wait for room (R42). -/
  released : List (List Child)
  island : Option IslandRef
  /-- The determinism domain (R325): the uid of its first gang. -/
  domain : Option Nat
  /-- The check record's values its launch took (R331). -/
  check : CheckRec
  /-- The gang has been saved and waits for restore (R302), and its context image (R303). -/
  saved : Bool
  image : List (BitVec 8)
  deriving DecidableEq, Repr

/-- The state of an accumulator handle (R245). -/
inductive HandleState where
  | free | held | draining
  deriving DecidableEq, Repr

/-- An accumulator handle (R245). Elements are row-major. -/
structure Handle where
  state : HandleState
  rows : Nat
  cols : Nat
  af : AccFmt
  elems : List Word
  deriving DecidableEq, Repr

/-- A free handle. -/
def Handle.empty : Handle := { state := .free, rows := 0, cols := 0, af := .f32, elems := [] }

/-- A resource family (R30): what its gangs share. -/
structure Family where
  uid : Nat
  /-- The logical ID of the gang whose resources these are (R304). -/
  logical : BitVec 32
  tenant : BitVec 8
  core : Nat
  resident : Bool
  partBase : Nat
  partSize : Nat
  accUnits : Nat
  handles : List Handle
  /-- Levels of the spawn reserve, its register-file charge per level, and the levels in use (R34, R42). -/
  nest : Nat
  reserveCharge : Nat
  reserves : List Nat
  /-- Paired with a shadow on another core (R332, R333). -/
  paired : Bool
  shadowCore : Option Nat
  shadowBase : Nat
  /-- Commit points passed, and a mismatch waiting for a third run: the team, and the digests of primary and shadow
  (R334, R409, R410). -/
  commits : Nat
  mismatch : Option (Nat × BitVec 256 × BitVec 256)
  /-- The partition's bytes, full words and tiles while the family is saved (R306). -/
  savedBytes : List (Nat × BitVec 8)
  savedFull : List Nat
  savedTiles : List (Nat × BitVec 8 × Tile)
  /-- The weight buffer's image while the family is saved (R261, R304). -/
  weight : Option WeightBuf
  /-- Its gangs' gathered children, and per team the unpublished entries and buffered atomics, while it is saved
  (R306, R307). -/
  savedChildren : List Child
  savedLogs : List (Nat × List LogEntry × List LogEntry)
  /-- The publications below this one are visible to its teams wherever it is restored (R108, R229). -/
  savedSeen : Nat
  /-- Logical IDs of the gangs that have dissolved in it (R316). -/
  past : List (BitVec 32)
  deriving DecidableEq, Repr

/-- A gang group (R32, R315). -/
structure Group where
  uid : Nat
  members : List Nat
  /-- Members over all devices. -/
  total : Nat
  gen : BitVec 32
  abandoned : Bool
  barStatus : Word
  tag : BitVec 32
  /-- The Meridian tick at which an MDEV group starts; none once it has started. -/
  startAt : Option Word
  mdev : Bool
  /-- TICK of its packets; the generation this device's arrival was last reported for; and the members of other devices
  that have arrived, by generation, with whether a team expected there had halted (R32, R214, R315). -/
  tick : Word
  told : Option (BitVec 32)
  remote : List (BitVec 32 × Nat × Bool)
  /-- Devices whose members are pre-empted, and whether this device has told that its own are (R315). -/
  away : Nat
  out : Bool
  deriving DecidableEq, Repr

/-! ## Cores -/

/-- A cached translation (R96). -/
structure CachedTr where
  tenant : BitVec 8
  dev : BitVec 10
  /-- LOCAL of the page's first byte, and the page's size in bits (R93). -/
  page : Nat
  bits : Nat
  pfn : Nat
  sys : Bool
  rd : Bool
  w : Bool
  dirty : Bool
  /-- Home address of the leaf entry, where D is set (R94). -/
  leaf : Nat
  deriving DecidableEq, Repr

/-- A matrix view as an instruction sees it when it issues: the map, the format, and the bytes of its tile in the
core's scratchpad; no tile for a view of the weight buffer (R241, R242). -/
structure MatView where
  om : Word
  tag : Tag
  tile : Option (BitVec 8)
  base : Nat
  bytes : Nat
  deriving DecidableEq, Repr

/-- An `mm` or `mm.sp` issued to the MXE and not yet applied, with all it read when it issued (R249, R250). -/
structure Pass where
  team : Nat
  gang : Nat
  family : Nat
  handle : BitVec 5
  m : Nat
  n : Nat
  k : Nat
  a : MatView
  b : MatView
  nf : Vector (BitVec 32) 16
  /-- Number of the free values read beyond an image (log 5). -/
  free : Nat
  side : Bool
  k0 : Nat
  dup : List Nat
  /-- `mm.sp`: the position each kept value of a row stands for; none in an illegal group (R254). -/
  kept : Option (List (List (Option Nat)))
  nmbad : Bool
  deriving DecidableEq, Repr

/-- A core (R13). -/
structure Core where
  n : Nat
  phys : Nat
  inService : Bool
  closed : Bool
  /-- It is being taken out of service (R415). -/
  leaving : Bool
  /-- Its ring oscillator's frequency as last read, per mille, and whether it was below 950 at bring-up (R358, R415). -/
  ring : Nat
  slow : Bool
  tvec : Word
  k : Vector Word 16
  kv : Vector VReg 4
  cause : Word
  epc : Word
  eaddr : Word
  emask : Mask
  owner : Option Nat
  waiting : List Nat
  latches : List LatchSlot
  scratch : List (Nat × BitVec 8)
  full : List Nat
  /-- The full/empty accesses that wait at words, in order of arrival: word, team and ticket (R98). -/
  arrivals : List (Nat × Nat × Nat)
  tiles : List (BitVec 8 × Tile)
  log : List LogEntry
  lsn : BitVec 48
  /-- The publications below this order number are visible to the core (R108). -/
  seen : Nat
  abuf : List LogEntry
  spawnq : List Child
  tc : List CachedTr
  lastSlot : BitVec 6
  weight : Option WeightBuf
  mxeAdmitted : Bool
  /-- An instruction waits for admission (R356). -/
  mxeAsked : Bool
  mxeLast : Nat
  passes : List Pass
  /-- Ticks at which a paired issue was corrected or halted a team and a vote was lost, newest first (R415), and event
  counters (R63, R358, R387). -/
  corrected : List Nat
  halts : List Nat
  lostVotes : List Nat
  swapOuts : Nat
  logPreempts : Nat
  droops : Nat
  /-- The tick at which a team of the core last issued (R63). -/
  lastIssue : Nat
  /-- The agenda's round: when the core was last granted a turn, in grants (log 1). -/
  lastGrant : Nat
  /-- Per determinism domain, the key of the team last granted a turn (R329). -/
  lastKeys : List (Nat × LaneKey)
  /-- Entries of saved teams that stay in the spill log (R307). -/
  heldSpill : Nat
  deriving DecidableEq, Repr

/-- A core before anything has run on it. -/
def Core.fresh (n : Nat) : Core :=
  { n, phys := n % 48, inService := true, closed := false, leaving := false, ring := 1000, slow := false, tvec := 0, k := Vector.replicate 16 0,
    kv := Vector.replicate 4 VReg.zero, cause := 0, epc := 0, eaddr := 0, emask := 0, owner := none, waiting := [],
    latches := [], scratch := [], full := [], arrivals := [], tiles := [], log := [], lsn := 0, seen := 0, abuf := [], spawnq := [], tc := [],
    lastSlot := 63, weight := none, mxeAdmitted := false, mxeAsked := false, mxeLast := 0, passes := [], corrected := [], halts := [],
    lostVotes := [], swapOuts := 0, logPreempts := 0, droops := 0, lastIssue := 0, lastGrant := 0,
    lastKeys := [], heldSpill := 0 }

/-! ## Copies of paired families (R333, R409) -/

/-- What a team of a paired family has received from outside it: the registers written, and the bytes forwarded. -/
structure Forward where
  team : Nat
  regs : List (VTarget × VReg)
  words : List (BitVec 6 × Word)
  bytes : Nat
  deriving DecidableEq, Repr

/-- A shadow, or the third copy: the family, gangs and teams as they stand in it, what of its core is its own, and the
forwarded values its teams have not taken yet, oldest first (R333). `third` is the copy that a third run from the epoch's
image and record makes, kept at pace with the epoch (R410, log 24). -/
structure Copy where
  third : Bool
  family : Family
  gangs : List Gang
  teams : List Team
  core : Core
  inputs : List Forward
  deriving DecidableEq, Repr

/-- An epoch of a paired family: the images of its gangs in the check area, the values forwarded and the digests committed
since, whether a third run can still follow it, and whether the third copy has met every committed digest (R409, R410). -/
structure Epoch where
  family : Nat
  images : List (List (BitVec 8))
  values : List Forward
  digests : List (BitVec 256)
  votable : Bool
  faithful : Bool
  deriving DecidableEq, Repr

end Sys2Proof.Machine
end

