-- ==== Sys2Proof/Machine/EngineTypes.lean ====
section
/-!
DEFINITION. Engines, channels and runs (14_isa_islands_engines.md R278 to R292), user queues and packets
(16_scheduling.md R310 to R317), and tenants with their fault queues (24_faults_memory.md R382 to R385).
-/

namespace Sys2Proof.Machine

/-- What a run is: a chain, or a single command (R279). -/
inductive RunKind where
  | chain
  /-- A `copy` (R218): destination, source, length word, and the bytes it copies before its destination faults. -/
  | copy (dst src ctl : Word) (limit : Nat)
  /-- An `adrain` (R263): add mode, source tile or handle, the shape record's address, and the record as it was read. -/
  | drain (add tile : Bool) (index : Nat) (addr : Word) (record : List (BitVec 8))
  deriving DecidableEq, Repr

/-- The entry a run has executed: its status, and where the run goes (R281, R286, R291, R292). `waiting` holds the
bytes of a COND in wait mode that has not been true yet. -/
structure CurEntry where
  status : BitVec 8
  next : Word
  ends : Bool
  waiting : Option (List (BitVec 8))
  deriving DecidableEq, Repr

/-- A run (R279, R280), with what it keeps of the team that issued it. -/
structure Run where
  id : Nat
  num : Word
  team : Nat
  gang : Nat
  key : LaneKey
  teamIndex : BitVec 6
  gangLogical : BitVec 32
  slot : BitVec 6
  level : Nat
  ttbase : Word
  sys : Bool
  nf : Vector (BitVec 32) 16
  kind : RunKind
  started : Bool
  /-- The next entry to start, or the head (R280). -/
  next : Word
  /-- Loop stack, top first: LOOP entry address, j, and the strides (R291). -/
  loops : List (Word × Nat × BitVec 32 × BitVec 32)
  cur : Option CurEntry
  /-- A translation fault to report, with its address (R383). -/
  fault : Option (BitVec 9 × Word)
  status : Option (BitVec 8)
  deriving DecidableEq, Repr

/-- An entry of the tenant fault queue (R373, R383). -/
structure FaultEntry where
  word0 : BitVec 32
  cause : BitVec 11
  teamIndex : BitVec 8
  gang : BitVec 32
  key : LaneKey
  pc : Word
  addr : Word
  /-- The lanes its mask words describe; for an engine fault, the run's status byte stands in MSUM instead. -/
  lanes : Mask
  status : Option (BitVec 8)
  core : BitVec 16
  /-- The parked team the entry stands for, when it is to be acked (R385). -/
  parked : Option Nat
  /-- The team or channel that holds it while it waits (R382). -/
  holder : Nat
  deriving DecidableEq, Repr

/-- A channel (R279). -/
structure Chan where
  id : Nat
  engine : EngineId
  core : Nat
  family : Nat
  tenant : BitVec 8
  issued : Word
  done : Word
  statuses : List (Word × BitVec 8)
  runs : List Run
  accept : List Run
  deriving DecidableEq, Repr

/-! ## Queues -/

/-- A packet that has started (R312). -/
structure Started where
  index : Word
  kind : BitVec 8
  bytes : List (BitVec 8)
  complete : Bool
  deriving DecidableEq, Repr

/-- A queue of the HQS queue table (R310, R317, R331). -/
structure Queue where
  num : Nat
  /-- Address of the descriptor (R310). -/
  desc : Word
  ring : Word
  slice : BitVec 32
  tenant : BitVec 8
  sys : Bool
  prio : BitVec 2
  log2sz : Nat
  /-- Level and checked mode of later launches (R316). -/
  level : BitVec 2
  checked : Bool
  rd : Word
  done : Word
  db : Word
  halt : Bool
  code : BitVec 9
  started : List Started
  held : Bool
  slot : Option Nat
  boundAt : Nat
  waitFrom : Nat
  raised : Nat
  sliceOver : Bool
  /-- Check record in force (R331). -/
  check : CheckRec
  /-- A check record with a reserved bit set: halts at the first packet (R331). -/
  badCheck : Bool
  deriving DecidableEq, Repr

/-- A launch with gangs still to be placed or to dissolve (R313, R314). -/
structure Launch where
  queue : Nat
  packet : Word
  entry : Word
  args : Word
  roles : List Role
  gbase : BitVec 30
  nest : Nat
  spw : Nat
  acc : Nat
  part : Nat
  gtotal : Nat
  mdev : Bool
  grp : Bool
  gangs : Nat
  tick : Word
  tag : BitVec 32
  level : BitVec 2
  checked : Bool
  sys : Bool
  tenant : BitVec 8
  check : CheckRec
  /-- Gangs placed so far, and dissolved so far. -/
  placed : Nat
  dissolved : Nat
  domain : Option Nat
  deriving DecidableEq, Repr

/-! ## Tenants -/

/-- A registered tenant fault queue (R382). -/
structure FaultQueue where
  desc : Word
  ring : Word
  log2sz : Nat
  wr : Word
  rd : Word
  ackRing : Word
  ackDb : Word
  ackRd : Word
  badAck : Bool
  ovf : Bool
  /-- A translation fault met on a ring: entries are held until the queue is registered again (R434). -/
  broken : Bool
  /-- Unanswered KIND 0x01 entries: index and team (R385). -/
  outstanding : List (Word × Nat)
  deriving DecidableEq, Repr

/-- A tenant (R95, R351, R374, R382, R428). -/
structure Tenant where
  num : BitVec 8
  created : Bool
  root : Option Word
  wde : Nat
  queue : Option FaultQueue
  /-- Entries waiting for ring space or registration, oldest first. -/
  waiting : List FaultEntry
  /-- Addresses declared with `.entry`, as the loader registered them (R428). -/
  entries : List Word
  debug : Bool
  deriving DecidableEq, Repr

/-- A tenant nothing has been said about. -/
def Tenant.fresh (n : BitVec 8) : Tenant :=
  { num := n, created := false, root := none, wde := 34, queue := none, waiting := [], entries := [], debug := false }

end Sys2Proof.Machine
end

