-- ==== Sys2Proof/Machine/PlatformTypes.lean ====
section
/-!
DEFINITION. Scenes of the Constellation Unit (06_islands.md R116 to R135), and the platform: Lodestar, links,
monitors, reliability (18_platform.md, 26_faults_reliability_links.md).
-/

namespace Sys2Proof.Machine

/-- A body's record (R116, R117); PARENT is the root of its component, and ECNT counts the scene's edges. -/
structure Body where
  id : BitVec 24
  parent : BitVec 24
  kind : BodyKind
  /-- A change of kind that takes effect at the next `cstep` (R117). -/
  nextKind : BodyKind
  sleep : Bool
  wake : Bool
  isl : BitVec 32
  shard : BitVec 16
  slot : BitVec 32
  /-- Touched by an edge report or a `cwake` this step (R123). -/
  reported : Bool
  deriving DecidableEq, Repr

/-- A body as `cscene` leaves it (R116). -/
def Body.fresh (id : BitVec 24) : Body :=
  { id, parent := id, kind := .dynamic, nextKind := .dynamic, sleep := false, wake := false, isl := 0xFFFFFFFF,
    shard := 0, slot := 0, reported := false }

/-- An edge: smaller and larger ID, joint or contact, user tag (R118). -/
structure Edge where
  lo : BitVec 24
  hi : BitVec 24
  joint : Bool
  user : BitVec 32
  deriving DecidableEq, Repr

/-- An open scene (R116, R272). -/
structure Scene where
  num : BitVec 6
  tenant : BitVec 8
  /-- The tables and the level the unit translates under: those of the team that opened it (R398). -/
  ttbase : Word
  sys : Bool
  btab : Word
  bstate : Word
  ecap : Nat
  nbody : Nat
  entry : Word
  extra : Nat
  crosscap : Nat
  sreg : Nat
  vreg : Nat
  scap : Nat
  step : Word
  /-- The bodies that differ from `Body.fresh`, in ascending ID. -/
  bodies : List Body
  /-- Those of them that have fallen out of the unit's cache (R117). -/
  evicted : List (BitVec 24)
  /-- In ascending order of smaller ID, larger ID and kind. -/
  edges : List Edge
  failed : Bool
  /-- Driver teams whose `cstep` waits, oldest first (R122). -/
  drivers : List Nat
  /-- The result of a regrouping not yet taken by the driver at the head. -/
  result : Option Word
  /-- LCLK of the last step end (R328). -/
  lastEnd : Word
  deriving DecidableEq, Repr

/-- A request without an acknowledgement (R344, R412, R413): its number, the port it last left by, its resends, the tick
of the last sending, the waiting instruction's team on a class 1 flow, and its address there or, on a class 2 flow, the
run and die of its piece (R347); `dead` once its resends are exhausted. -/
structure Request where
  num : BitVec 32
  port : Nat
  resends : Nat
  since : Nat
  team : Option Nat
  addr : Word
  dead : Bool
  deriving DecidableEq, Repr

/-- A flow's sender or receiver state at this device (R343, R344, R412, R413). -/
structure Flow where
  id : FlowId
  next : BitVec 32
  /-- Unacknowledged requests, oldest first, at most 1,024, those that wait for room, as the address each is known by, and
  whether one has reached 16 resends (R344, R413). -/
  pending : List Request
  queued : List Word
  told : Bool
  /-- H: all requests up to H have been performed. -/
  high : BitVec 32
  /-- Requests held out of order: number, and what is asked. -/
  window : List (BitVec 32 × FlitOp)
  /-- Kept responses: number and bytes. -/
  responses : List (BitVec 32 × List (BitVec 8))
  deriving DecidableEq, Repr

/-- A link port (R342, R414): the generation it trained to, none before. -/
structure Port where
  num : Nat
  trained : Option Nat
  down : Bool
  narrowed : Bool
  spareUsed : Bool
  retiredLanes : List Nat
  /-- Dropped flits by lane (R412). -/
  drops : List (Nat × Nat)
  /-- Flits of the last 2^30 ticks, newest first: lane, tick, and whether it was dropped (R414). -/
  arrivals : List (Nat × Nat × Bool)
  deriving DecidableEq, Repr

/-- A job (R352). -/
structure Job where
  queue : Nat
  /-- Its tenant was admitted to debugging, an image was replaced, checked mode was on for one of its gangs. -/
  debug : Bool
  upd : Bool
  chk : Bool
  /-- The lowest level of its launches; none before the first. -/
  level : Option (BitVec 2)
  openAt : Word
  deriving DecidableEq, Repr

/-- An event record in the machine-event ring (R411). -/
structure MachineEvent where
  unit : Nat
  event : Nat
  index : Nat
  detail : Nat
  tick : Word
  deriving DecidableEq, Repr

/-- A throttling or stop state of the device (R357, R358, R417). -/
structure Thermal where
  /-- Power at or above the limit, and a warning temperature not yet left (R357, R417). -/
  overPower : Bool
  hot : Bool
  stopped : Bool
  watts : Nat
  /-- Temperatures read, in tenths of a degree, by sensor, and the sensors above warning. -/
  temps : List (Sensor × Nat)
  warned : List Sensor
  deriving DecidableEq, Repr

/-- Whether the governor throttles (R357, R417). -/
def Thermal.throttled (t : Thermal) : Bool := t.overPower || t.hot

/-- An error of the hardware itself (log 63). -/
inductive Upset where
  /-- An uncorrectable error in the granule with this key (R115). -/
  | granule (key : Nat)
  /-- A corrected error of a row of an HBM channel, of a way of a die cache, or of a register, operand or mask word
  (R115, R405, R416). -/
  | corrected (chan row : Nat)
  | cacheCorrected (die way : Nat)
  | wordCorrected
  /-- An uncorrectable error in the local store of a solver engine (R400). -/
  | engine (k : BitVec 5)
  /-- An uncorrectable log or spill entry of a core (R390). -/
  | entry (core : Nat) (lsn : BitVec 48)
  /-- An uncorrectable entry of a core's atomic buffer (R390). -/
  | buffered (core k : Nat)
  /-- An uncorrectable entry of a core's spawn queue or of its gang's spawn ring (R397). -/
  | child (core k : Nat)
  /-- An uncorrectable record of a scene's body table or edge table (R398). -/
  | table (scene : Nat)
  /-- A scratchpad word that the BCE cannot correct, at a run that has not started (R391). -/
  | chainRead (chan run : Nat)
  /-- The next instruction that reads the operand with this specifier meets an uncorrectable word (R152, R405). -/
  | register (spec : Nat)
  /-- The next instruction that reads this mask register meets an uncorrectable word (R405). -/
  | mask (m : BitVec 3)
  /-- The next lane-wise scratchpad read meets an uncorrectable word (R391). -/
  | word
  /-- The two issues of the next checked-mode instruction differ, and differ again (R408). -/
  | pair (again : Bool)
  /-- Bits of a lane of a vector register flip unseen, in the primary's copy of a team or in its shadow's (R334). -/
  | flip (shadow : Bool) (team : Nat) (reg : BitVec 6) (lane : Nat) (bits : BitVec 32)
  /-- The shadow's digest at the next commit point of a paired family (R334). -/
  | digest (shadow : BitVec 256)
  deriving DecidableEq, Repr

/-- Whether an error strikes between instructions. -/
def Upset.atOnce : Upset → Bool
  | .granule _ | .corrected _ _ | .cacheCorrected _ _ | .wordCorrected | .engine _ | .entry _ _ | .buffered _ _ | .child _ _ | .table _ | .chainRead _ _
  | .flip _ _ _ _ _ => true
  | .register _ | .mask _ | .word | .pair _ | .digest _ => false

end Sys2Proof.Machine
end

