-- ==== Sys2Proof/Machine/State.lean ====
section
/-!
DEFINITION. The machine's state, the faults and refusals, and the state after reset. One device of the domain, with
the memory of the whole domain in one list (log 12). Cores, tenants and bodies that nothing has touched are absent
from their lists and read as their fresh records.
-/

namespace Sys2Proof.Machine

/-- The machine's own stops. -/
inductive Fault where
  /-- An encoded instruction was executed while no resident team held the turn (log 2). Raised by the meanings; safe:
  the hardware issues an instruction only from a team. -/
  | noTeam
  /-- An access to a physical address that no installed HBM holds (log 11). Raised by the memory operations; safe. -/
  | absent (pa : Nat)
  deriving DecidableEq, Repr

/-- Refusals. -/
inductive Refusal where
  /-- An instruction whose meaning is not modelled yet. Raised by exec's arms alone; safe. -/
  | notModelled (mnemonic : String)
  deriving DecidableEq, Repr

/-- The state (INVENTORY.md, ## State). -/
structure State where
  /-- The model's own: events waiting to happen, oldest first (log 1). -/
  agenda : List Instr
  /-- The model's own: whether the next access, publication, acquire or pass is left outstanding (log 7). -/
  defer : List Bool
  /-- The model's own: number of the next free value (log 5). -/
  free : Nat
  /-- The team whose turn is being issued, and the instructions left in the turn (R321). -/
  cur : Option Nat
  turnLeft : Nat
  /-- The model's own: the next unique id. -/
  nextId : Nat
  teams : List Team
  gangs : List Gang
  families : List Family
  /-- Shadows and third copies of paired families, and their epochs (R333, R409). -/
  copies : List Copy
  epochs : List Epoch
  groups : List Group
  cores : List Core
  /-- Global memory: (device · 2^47 + physical address, byte), canonical (R16, R88). -/
  mem : List Host.Cell
  /-- Poisoned granules, by their first byte's key (R115). -/
  poison : List Nat
  /-- Granules under a key: first byte's key and holder, ascending; and the pages, base and size, whose other granules
  lost their key (R114, R351). -/
  held : List (Nat × Holder)
  lostPages : List (Nat × Nat)
  staged : List Staged
  flights : List Flight
  pubs : List Pub
  pubNum : Word
  pubSeq : Nat
  /-- Publications waiting to be recorded: team, scope and TAIL at the release (R106, R225). -/
  pendPubs : List (Nat × Scope × BitVec 48)
  /-- Meridian (R348), whether the device is in bound (R418), and the tick of the last timing message. -/
  tick : Word
  inBound : Bool
  lastTiming : Word
  /-- Ticks for which the count stands still to fall back to the reference, or runs at twice its rate to catch up with it,
  and the tick of the last timing message sent (R348). -/
  holdBack : Nat
  catchUp : Nat
  lastSent : Nat
  /-- A device ID is assigned: the device is in a domain (R346). -/
  inDomain : Bool
  dev : BitVec 10
  /-- The steps of bring-up that have succeeded, and whether the next one failed (R359). -/
  bringup : Nat
  bringupFailed : Bool
  /-- Cores that run, in the order of their logical numbers, and the tick of the next start (R355). -/
  coresStarted : Nat
  nextStart : Nat
  /-- The host endpoint's mode and the PCIe generation it trained to, and each root port's setting and generation (R337 to
  R339). -/
  hostMode : HostMode
  hostLink : Option Nat
  rootPorts : List (PortSplit × Option Nat)
  /-- The bytes of the two mailbox rings of BAR 0 and of the MSI-X table of BAR 4, by offset (R337, R341). -/
  mailRings : List Host.Cell
  vectorTable : List Host.Cell
  /-- Granules that the host may hold cached, and the back-invalidates sent, newest first: output only (R338). -/
  hostCached : List Nat
  backInvalidates : List Nat
  queues : List Queue
  /-- Check records by queue number (R331). -/
  checkRecords : List (Nat × Word)
  /-- The hardware slot from which a gang was last placed (R317). -/
  lastQueueSlot : Nat
  launches : List Launch
  tenants : List Tenant
  /-- TTBASE of a tenant on another device of the domain: device, tenant, value (R93). -/
  remoteRoots : List (BitVec 10 × BitVec 8 × Word)
  chans : List Chan
  /-- The channel of each engine that was served last: engine, BCE core, channel (R280). -/
  served : List (EngineId × Option Nat × Nat)
  /-- The last factorisation of each solver engine (R142): template address, and the bit patterns it answers to. -/
  factors : List (BitVec 5 × Word × List Nat)
  scenes : List Scene
  /-- MSI-X vectors raised, oldest first (R337). -/
  msix : List Nat
  /-- Values the host has read, newest first: output only (R340). -/
  hostReads : List (HostPath × List (BitVec 8))
  /-- The apertures of BAR 2 and the tenants of downstream functions, as the runtime assigned them (R337, R339). -/
  apertures : List (BitVec 6 × BitVec 8 × Word)
  functions : List (Nat × BitVec 8)
  /-- Acknowledgements and responses sent over the links, newest first: output only (R344, R413). -/
  linkSent : List (FlowId × BitVec 32 × List (BitVec 8))
  /-- Messages of class 3 sent to other devices, newest first: output only (R315, R344, R348). -/
  messages : List (BitVec 10 × FlitOp)
  /-- Start reports of other devices: TAG, TICK, level, checked mode (R315, R403). -/
  startReports : List (BitVec 32 × Word × BitVec 2 × Bool)
  /-- Values downstream functions have read, newest first: output only (R339). -/
  dmaReads : List (Nat × Word × List (BitVec 8))
  /-- DMA requests answered with Unsupported Request (R339). -/
  dmaRefused : Nat
  /-- Status words of the management requests that the runtime and that Lodestar have completed, newest first (R341). -/
  mailbox : List (BitVec 32)
  lodestarBox : List (BitVec 32)
  machineEvents : List MachineEvent
  lostEvents : Nat
  routes : List (BitVec 10 × BitVec 36)
  ports : List Port
  flows : List Flow
  linkKeys : List (BitVec 10 × BitVec 2 × BitVec 32 × BitVec 64)
  measures : List (BitVec 256)
  jobs : List Job
  signIndex : Nat
  thermal : Thermal
  rampAt : List Nat
  /-- Physical cores taken out of service, by die (R415). -/
  coresRetired : List (Nat × Nat)
  rowsSpared : List (Nat × Nat)
  /-- Errors that check bits corrected (R115, R405); and those of HBM rows and of die-cache ways since their last repair:
  channel or die, row or way, tick (R416). -/
  corrections : Nat
  rowErrors : List (Nat × Nat × Nat)
  wayErrors : List (Nat × Nat × Nat)
  channelsAsked : List Nat
  channelsRetired : List Nat
  waysRetired : List (Nat × Nat)
  enginesRetired : List (BitVec 5)
  /-- Repeats of the solve an engine is at (R400, R416). -/
  engineRepeats : List (BitVec 5 × Nat)
  /-- Entries discarded at the drain for want of a key (R394). -/
  discarded : Nat
  /-- The model's own: errors of the hardware still to come, oldest first (log 63). -/
  upsets : List Upset
  deriving DecidableEq, Repr

/-- The state after reset: bring-up has not run, nothing is registered, memory lists nothing (log 4, log 9). -/
def State.reset : State :=
  { agenda := [], defer := [], free := 0, cur := none, turnLeft := 0, nextId := 0, teams := [], gangs := [],
    families := [], copies := [], epochs := [], groups := [], cores := [], mem := [], poison := [], held := [],
    lostPages := [], staged := [], flights := [], pubs := [], pubNum := 0, pubSeq := 0, pendPubs := [], tick := 0,
    inBound := true, lastTiming := 0, holdBack := 0, catchUp := 0, lastSent := 0, inDomain := false, dev := 0,
    bringup := 0, bringupFailed := false, coresStarted := 0, nextStart := 0, hostMode := .pcie, hostLink := none,
    rootPorts := List.replicate 8 (.x16, none), mailRings := [], vectorTable := [], hostCached := [],
    backInvalidates := [], queues := [], checkRecords := [], lastQueueSlot := 63, launches := [], tenants := [],
    remoteRoots := [], chans := [], served := [], factors := [], scenes := [], msix := [], hostReads := [],
    apertures := [], functions := [], linkSent := [], messages := [], startReports := [], dmaReads := [], dmaRefused := 0,
    mailbox := [], lodestarBox := [], machineEvents := [], lostEvents := 0, routes := [], ports := [], flows := [],
    linkKeys := [], measures := List.replicate 8 0, jobs := [], signIndex := 0,
    thermal := { overPower := false, hot := false, stopped := false, watts := 0, temps := [], warned := [] },
    rampAt := [], coresRetired := [], rowsSpared := [], corrections := 0, rowErrors := [], wayErrors := [],
    channelsAsked := [], channelsRetired := [], waysRetired := [], enginesRetired := [], engineRepeats := [],
    discarded := 0, upsets := [] }

end Sys2Proof.Machine
end

