-- ==== Sys2Proof/Machine/Access.lean ====
section
/-!
DEFINITION. Finding and replacing the records of the state, the arm that issues, and the status bits of a team.
-/

namespace Sys2Proof.Machine

/-- Replaces the elements that satisfy `p`. -/
def setWhere (p : α → Bool) (x : α) (xs : List α) : List α := xs.map fun y => if p y then x else y

/-- The position of the first element that satisfies `p`. -/
def indexOf? (p : α → Bool) : List α → Option Nat
  | [] => none
  | x :: xs => if p x then some 0 else (indexOf? p xs).map (· + 1)

/-- The elements stably sorted by a strict order `lt`. -/
def sortBy (lt : α → α → Bool) (xs : List α) : List α := xs.foldr insert []
where
  insert (x : α) : List α → List α
    | [] => [x]
    | y :: ys => if lt y x then y :: insert x ys else x :: y :: ys

/-! ## Teams -/

/-- The team with an id. -/
def State.team? (s : State) (id : Nat) : Option Team := s.teams.find? fun t => t.id == id

/-- Puts a team's record back. -/
def State.putTeam (s : State) (t : Team) : State := { s with teams := setWhere (fun u => u.id == t.id) t s.teams }

/-- Changes the team with an id. -/
def State.modTeam (s : State) (id : Nat) (f : Team → Team) : State :=
  { s with teams := s.teams.map fun u => if u.id == id then f u else u }

/-- The team whose turn is being issued (R321). -/
def State.issuer? (s : State) : Option Team :=
  match s.cur with
  | none => none
  | some id => s.team? id

/-- Whether the team runs a handler path (R297). -/
def Team.handling (t : Team) : Bool :=
  match t.status with
  | .handler => true
  | _ => false

/-- The path or arm that issues: the handler path, the running arm of the top entry, or the one path (R35, R297). -/
def Team.arm (t : Team) : Arm :=
  match t.status with
  | .handler => t.hpath
  | _ =>
    match t.stack with
    | [] => t.path
    | e :: _ => if e.sel then e.arm1 else e.arm0

/-- Replaces the arm of `Team.arm`. -/
def Team.setArm (t : Team) (a : Arm) : Team :=
  match t.status with
  | .handler => { t with hpath := a }
  | _ =>
    match t.stack with
    | [] => { t with path := a }
    | e :: es => { t with stack := (if e.sel then { e with arm1 := a } else { e with arm0 := a }) :: es }

/-- Active(t): the mask of the path being issued (R25). -/
def Team.active (t : Team) : Mask := t.arm.mask

/-- The indexes below n that are set in a mask, ascending. -/
def lanesOf (m : Mask) (n : Nat) : List Nat := (List.range n).filter fun l => m.getLsbD l

/-- The active lanes in ascending order (R5). -/
def Team.lanes (t : Team) : List Nat := lanesOf t.active t.size

/-- A mask with the bits below n set. -/
def maskBelow (n : Nat) : Mask := BitVec.ofNat 1024 (2 ^ n - 1)

/-- The mask of a list of lanes. -/
def maskOf (ls : List Nat) : Mask := ls.foldl (fun m l => m ||| BitVec.ofNat 1024 (2 ^ l)) 0

/-- Number of set bits among the low n. -/
def countBits (n m : Nat) : Nat := ((List.range n).filter fun i => m.testBit i).length

/-- A leaf word of a mask (R23). -/
def leafWord (m : Mask) (w : Nat) : BitVec 32 := m.extractLsb' (32 * w) 32

/-- The summary word: bit w says whether leaf word w is non-zero (R23). -/
def summaryWord (m : Mask) : BitVec 32 :=
  (List.range 32).foldl (fun a w => if leafWord m w == 0 then a else a ||| BitVec.ofNat 32 (2 ^ w)) 0

/-- Replaces a leaf word. -/
def setLeaf (m : Mask) (w : Nat) (x : BitVec 32) : Mask :=
  (m &&& ~~~(BitVec.ofNat 1024 ((2 ^ 32 - 1) * 2 ^ (32 * w)))) ||| (x.setWidth 1024 <<< (32 * w))

/-- Level of a team: TSTAT.LVL, true for system (R293). -/
def Team.isSystem (t : Team) : Bool := t.tstat.getLsbD 0

/-- TSTAT.INH: in a handler or a debug stop (R293). -/
def Team.inh (t : Team) : Bool := t.tstat.getLsbD 6

/-- TSTAT.KSW: the trap-bank naming is on (R298). -/
def Team.ksw (t : Team) : Bool := t.tstat.getLsbD 7

/-- PATHQ.QUANT; 0 behaves as 1 (R38). -/
def Team.quant (t : Team) : Nat := max 1 (t.pathq.extractLsb' 0 16).toNat

/-- LCLK: BASE plus the retired-instruction count (R326). -/
def Team.lclk (t : Team) : Word := t.base + t.retired

/-- The team logical key: the key of lane 0 (R22). -/
def Team.key (t : Team) : LaneKey := t.keys.headD 0

/-- The key of a lane. -/
def Team.laneKey (t : Team) (l : Nat) : LaneKey := t.keys.getD l 0

/-- Whether a team holds its place on a core: it has not been swapped out or halted (R26, R63). -/
def Team.resident (t : Team) : Bool :=
  match t.status with
  | .swappedOut | .halted => false
  | _ => true

/-! ## Gangs, families, groups -/

/-- The gang with a uid. -/
def State.gang? (s : State) (uid : Nat) : Option Gang := s.gangs.find? fun g => g.uid == uid

/-- Puts a gang back. -/
def State.putGang (s : State) (g : Gang) : State := { s with gangs := setWhere (fun h => h.uid == g.uid) g s.gangs }

/-- The gang of a team. -/
def State.gangOf? (s : State) (t : Team) : Option Gang := s.gang? t.gang

/-- The family with a uid. -/
def State.family? (s : State) (uid : Nat) : Option Family := s.families.find? fun f => f.uid == uid

/-- Puts a family back. -/
def State.putFamily (s : State) (f : Family) : State :=
  { s with families := setWhere (fun h => h.uid == f.uid) f s.families }

/-- The family of a team. -/
def State.familyOf? (s : State) (t : Team) : Option Family := (s.gangOf? t).bind fun g => s.family? g.family

/-- Determinism level of a team's gang (R322). -/
def State.levelOf (s : State) (t : Team) : Nat := ((s.gangOf? t).map fun g => g.level.toNat).getD 0

/-- Tenant of a team's gang. -/
def State.tenantOf (s : State) (t : Team) : BitVec 8 := ((s.gangOf? t).map fun g => g.tenant).getD 0

/-- The teams of a gang. -/
def State.teamsOf (s : State) (gang : Nat) : List Team := s.teams.filter fun t => t.gang == gang

/-- The gangs of a family. -/
def State.gangsOf (s : State) (family : Nat) : List Gang := s.gangs.filter fun g => g.family == family

/-- The group with a uid. -/
def State.group? (s : State) (uid : Nat) : Option Group := s.groups.find? fun g => g.uid == uid

/-- Puts a group back. -/
def State.putGroup (s : State) (g : Group) : State :=
  { s with groups := setWhere (fun h => h.uid == g.uid) g s.groups }

/-! ## Cores -/

/-- Number of logical cores (R10, R13). -/
def coreCount : Nat := 192

/-- The die of a logical core (R10). -/
def dieOf (core : Nat) : Nat := core / 48

/-- A core's record; one that nothing has touched is fresh. -/
def State.core (s : State) (n : Nat) : Core := (s.cores.find? fun c => c.n == n).getD (Core.fresh n)

/-- Replaces the record with the same number, or adds it. -/
def putCoreIn (c : Core) : List Core → List Core
  | [] => [c]
  | d :: ds => if d.n == c.n then c :: ds else d :: putCoreIn c ds

/-- Puts a core's record back. -/
def State.putCore (s : State) (c : Core) : State := { s with cores := putCoreIn c s.cores }

/-- Changes a core's record. -/
def State.modCore (s : State) (n : Nat) (f : Core → Core) : State := s.putCore { f (s.core n) with n := n }

/-- Invalidates the latches (R58). -/
def State.dropLatches (s : State) (n : Nat) : State :=
  match s.cores.find? fun c => c.n == n with
  | none => s
  | some c => if c.latches.isEmpty then s else s.putCore { c with latches := [] }

/-! ## Tenants, queues, channels, scenes -/

/-- A tenant's record; one that nothing has touched is fresh. -/
def State.tenant (s : State) (n : BitVec 8) : Tenant := (s.tenants.find? fun t => t.num == n).getD (Tenant.fresh n)

/-- Replaces the record with the same number, or adds it. -/
def putTenantIn (t : Tenant) : List Tenant → List Tenant
  | [] => [t]
  | u :: us => if u.num == t.num then t :: us else u :: putTenantIn t us

/-- Puts a tenant's record back. -/
def State.putTenant (s : State) (t : Tenant) : State := { s with tenants := putTenantIn t s.tenants }

/-- The registered queue with a number. -/
def State.queue? (s : State) (n : Nat) : Option Queue := s.queues.find? fun q => q.num == n

/-- Puts a queue back. -/
def State.putQueue (s : State) (q : Queue) : State := { s with queues := setWhere (fun r => r.num == q.num) q s.queues }

/-- The channel with an id. -/
def State.chan? (s : State) (id : Nat) : Option Chan := s.chans.find? fun c => c.id == id

/-- Puts a channel back. -/
def State.putChan (s : State) (c : Chan) : State := { s with chans := setWhere (fun d => d.id == c.id) c s.chans }

/-- A family's channel on an engine (R279). -/
def State.chanOf? (s : State) (family : Nat) (e : EngineId) : Option Chan :=
  s.chans.find? fun c => c.family == family && c.engine == e

/-- The open scene with a number. -/
def State.scene? (s : State) (n : Nat) : Option Scene := s.scenes.find? fun c => c.num.toNat == n

/-- Puts a scene back. -/
def State.putScene (s : State) (c : Scene) : State := { s with scenes := setWhere (fun d => d.num == c.num) c s.scenes }

/-- Takes the next of the model's choices; without one, nothing is left outstanding (log 7). -/
def State.choose (s : State) : Bool × State :=
  match s.defer with
  | [] => (false, s)
  | b :: bs => (b, { s with defer := bs })

/-- Draws a free value (log 5). -/
def State.draw (s : State) : BitVec 64 × State := (Config.freeWord s.free, { s with free := s.free + 1 })

/-- Takes the next unique id. -/
def State.fresh (s : State) : Nat × State := (s.nextId, { s with nextId := s.nextId + 1 })

/-- Records held by the machine-event ring (log 20). -/
def eventRing : Nat := 4096

/-- Writes a record to the machine-event ring: UNIT, EVENT, INDEX and DETAIL (R411). -/
def State.event (s : State) (unit event index detail : Nat) : State :=
  let r : MachineEvent := { unit := unit, event := event, index := index, detail := detail, tick := s.tick }
  if s.machineEvents.length < eventRing then { s with machineEvents := s.machineEvents ++ [r] }
  else { s with machineEvents := s.machineEvents.drop 1 ++ [r], lostEvents := s.lostEvents + 1 }

/-- The ticks of a list that lie in the 2^46 ticks which end now, and now (R415). -/
def recent (now : Nat) (ts : List Nat) : List Nat := now :: ts.filter fun a => decide (now < a + 2 ^ 46)

/-- Raises an MSI-X vector (R337). -/
def State.raise (s : State) (vector : Nat) : State := { s with msix := s.msix ++ [vector] }

/-! ## Arms -/

/-- Every path and arm of a team. -/
def Team.arms (t : Team) : List Arm := t.hpath :: t.path :: t.stack.flatMap fun e => [e.arm0, e.arm1]

/-- Changes every path and arm. -/
def Team.mapArms (t : Team) (f : Arm → Arm) : Team :=
  { t with hpath := f t.hpath, path := f t.path
           stack := t.stack.map fun (e : Entry) => { e with arm0 := f e.arm0, arm1 := f e.arm1 } }

/-- Whether a device can be reached: this one, or one with a route (R346). -/
def State.reachable (s : State) (dev : Nat) : Bool :=
  dev == s.dev.toNat || s.routes.any fun r => r.1.toNat == dev && r.2 != 0

end Sys2Proof.Machine
end

