-- ==== Sys2Proof/Machine/Flows.lean ====
section
/-!
DEFINITION. The sending side of flows: requests, ports and keys (18_platform.md R344 to R346;
26_faults_reliability_links.md R412, R413).
-/

namespace Sys2Proof.Machine

/-- Unacknowledged requests of a flow (R344). -/
def flowRequests : Nat := 1024

/-- A flow nothing has used: requests are numbered from 1 (R344). -/
def Flow.fresh (id : FlowId) : Flow :=
  { id := id, next := 1, pending := [], queued := [], told := false, high := 0, window := [], responses := [] }

/-- The state of a flow. -/
def State.flow (s : State) (id : FlowId) : Flow := (s.flows.find? fun f => f.id == id).getD (Flow.fresh id)

/-- Puts a flow back. -/
def State.putFlow (s : State) (f : Flow) : State :=
  { s with flows := f :: s.flows.filter fun g => g.id != f.id }

/-- The route mask of a device (R346). -/
def State.routeTo (s : State) (dev : BitVec 10) : BitVec 36 :=
  ((s.routes.find? fun r => r.1 == dev).map fun r => r.2).getD 0

/-- The next port of a mask, in ascending rotation after a port (R412); none of an empty mask, over which no traffic
leaves (R346). -/
def portAfter (mask : BitVec 36) (p : Nat) : Option Nat :=
  ((List.range 36).map fun k => (p + 1 + k) % 36).find? fun k => mask.getLsbD k

/-- Counts a flit under the key of a device and class (R345). -/
def State.countFlit (s : State) (dev : BitVec 10) (cls : BitVec 2) : State :=
  let key := (s.linkKeys.find? fun k => k.1 == dev && k.2.1 == cls).getD (dev, cls, 0, 0)
  { s with linkKeys := (dev, cls, key.2.2.1, key.2.2.2 + 1) :: s.linkKeys.filter fun k => !(k.1 == dev && k.2.1 == cls) }

/-- A flit leaves for a flow's destination over the port after another one of its route mask, where there is one. -/
def State.leaveBy (s : State) (id : FlowId) (p : Nat) : Nat × State :=
  match portAfter (s.routeTo id.dst) p with
  | some q => (q, s.countFlit id.dst id.cls)
  | none => (p, s)

/-- Whether a flow has room for another request (R344). -/
def Flow.room (f : Flow) : Bool := decide (f.pending.length < flowRequests)

/-- Sends a request of a flow; one without room waits for it. -/
def State.sendRequest (s : State) (id : FlowId) (team : Option Nat) (addr : Word) : State :=
  let f := s.flow id
  if !f.room then s.putFlow { f with queued := f.queued ++ [addr] }
  else
    let (port, s) := s.leaveBy id 35
    let r : Request := { num := f.next, port := port, resends := 0, since := s.tick.toNat
                         team := team, addr := addr, dead := false }
    s.putFlow { f with next := f.next + 1, pending := f.pending ++ [r] }

/-- Sends the requests of a flow that waited, as far as there is room. -/
def State.sendQueued (s : State) (id : FlowId) : State :=
  let f := s.flow id
  let n := flowRequests - f.pending.length
  (f.queued.take n).foldl (fun (s : State) a => s.sendRequest id none a) (s.putFlow { f with queued := f.queued.drop n })

/-- Changes the unacknowledged requests of every flow, and sends those that waited for room. -/
def State.keepRequests (s : State) (keep : Flow → Request → Bool) : State :=
  let s := { s with flows := s.flows.map fun (f : Flow) => { f with pending := f.pending.filter (keep f) } }
  (s.flows.filter fun f => !f.queued.isEmpty).foldl (fun (s : State) f => s.sendQueued f.id) s

/-- The flow of the host die's messages to a device (R344; log 12). -/
def State.controlFlow (s : State) (dev : BitVec 10) : FlowId := { dev := s.dev, src := 0xFFFF, dst := dev, cls := 3 }

/-- Sends a message of class 3 to every device of the domain that can be reached (R344). -/
def State.tellAll (s : State) (op : FlitOp) : State :=
  (s.routes.filter fun r => r.1 != s.dev && r.2 != 0).foldl (fun (s : State) r =>
    { s.sendRequest (s.controlFlow r.1) none 0 with messages := (r.1, op) :: s.messages }) s

/-- The flow of a core's drain to a device; source engines are numbered by core (log 12). -/
def State.drainFlow (s : State) (core : Nat) (dev : BitVec 10) : FlowId :=
  { dev := s.dev, src := BitVec.ofNat 16 core, dst := dev, cls := 0 }

/-- Sends some requests of a flow. -/
def State.sendRequests : Nat → FlowId → State → State
  | 0, _, s => s
  | n + 1, id, s => State.sendRequests n id (s.sendRequest id none 0)

/-- The drain's flow to a device holds as many requests as entries are on their way, at most 1,024: the applied ones
are acknowledged, and further ones are sent (R344). -/
def State.syncFlow (s : State) (core : Nat) (dev : BitVec 10) : State :=
  let id := s.drainFlow core dev
  let f := s.flow id
  let want := min flowRequests (s.flights.filter fun x => x.core == core && x.entry.hdev == dev).length
  let kept := f.pending.drop (f.pending.length - want)
  State.sendRequests (want - kept.length) id (s.putFlow { f with pending := kept })

/-- Brings the drain's flows to some devices up to date; entries of this device use none. -/
def State.syncFlows (s : State) (core : Nat) (devs : List (BitVec 10)) : State :=
  (devs.eraseDups.filter fun d => d != s.dev).foldl (fun s d => s.syncFlow core d) s

/-- The request a team's instruction waits for. -/
def State.awaited (s : State) (team : Nat) : Option Request :=
  (s.flows.flatMap fun f => f.pending).find? fun r => r.team == some team

/-- Forgets a team's requests. -/
def State.dropRequests (s : State) (team : Nat) : State := s.keepRequests fun _ r => r.team != some team

/-! ## Pieces of bulk data (R344, R347) -/

/-- How a piece is known among the requests of its flow: its run and the die that owns it. -/
def pieceKey (run die : Nat) : Word := BitVec.ofNat 64 (4 * run + die)

/-- The flow of a unit's bulk data to a device (log 12). -/
def State.bulkFlow (s : State) (src : BitVec 16) (dev : Nat) : FlowId :=
  { dev := s.dev, src := src, dst := BitVec.ofNat 10 dev, cls := 2 }

/-- The pieces of a run are acknowledged: its results are merged. -/
def State.endPieces (s : State) (run : Nat) : State :=
  s.keepRequests fun f r => f.id.cls != 2 || r.addr.toNat / 4 != run

end Sys2Proof.Machine
end

