-- ==== Sys2Proof/Machine/Trans.lean ====
section
/-!
DEFINITION. The correctly rounded functions of major 7 (10_isa_vector.md R185). Square roots and reciprocals are
exact up to a sticky bit; the transcendental functions are enclosed in an interval that is narrowed until both ends
round alike (log 14).
-/

namespace Sys2Proof

/-- The functions of FN 0 to 8 (R185). -/
inductive UnaryFn where
  | sqrt | rcp | rsqrt | exp2 | log2 | sin | cos | tanh | rint
  deriving DecidableEq, Repr

/-- The minor of a function (R158). -/
def UnaryFn.code : UnaryFn → Nat
  | .sqrt => 0 | .rcp => 1 | .rsqrt => 2 | .exp2 => 3 | .log2 => 4 | .sin => 5 | .cos => 6 | .tanh => 7 | .rint => 8

/-! ## Fixed point series: a value v is held as an integer near v · 2^w -/

/-- floor of the integer square root by bisection on bits, most significant first. -/
def isqrtBits : Nat → Nat → Nat → Nat
  | 0, _, r => r
  | b + 1, n, r => let t := r + 2 ^ b; isqrtBits b n (if t * t ≤ n then t else r)

/-- The integer square root of n. -/
def isqrt (n : Nat) : Nat := isqrtBits (bitLen n / 2 + 1) n 0

/-- Σ z^(2i+1) / (2i+1), signs alternating when `alt`: atanh and atan of z at 2^w; `p` is z^(2i+1), `z2` is z². -/
def oddSeries (alt : Bool) (w : Nat) (z2 : Int) : Nat → Nat → Int → Int
  | 0, _, _ => 0
  | fuel + 1, i, p =>
    if p = 0 then 0
    else
      let t := p / (2 * i + 1 : Nat)
      (if alt && i % 2 == 1 then -t else t) + oddSeries alt w z2 fuel (i + 1) (p * z2 / (2 : Int) ^ w)

/-- atanh(z) at 2^w for z given at 2^w. -/
def atanhFix (w : Nat) (z : Int) : Int := oddSeries false w (z * z / (2 : Int) ^ w) (w + 8) 0 z

/-- atan(1 / k) at 2^w. -/
def atanInv (w k : Nat) : Int :=
  let z : Int := (2 : Int) ^ w / k
  oddSeries true w (z * z / (2 : Int) ^ w) (w + 8) 0 z

/-- π at 2^w, by Machin's formula. -/
def piFix (w : Nat) : Int := (16 * atanInv (w + 16) 5 - 4 * atanInv (w + 16) 239) / 2 ^ 16

/-- ln 2 at 2^w: 2 · atanh(1/3). -/
def ln2Fix (w : Nat) : Int := 2 * atanhFix (w + 16) ((2 : Int) ^ (w + 16) / 3) / 2 ^ 16

/-- Σ y^i / i! from term i on: e^y at 2^w; `t` is y^i / i!. -/
def expSeries (w : Nat) (y : Int) : Nat → Nat → Int → Int
  | 0, _, _ => 0
  | fuel + 1, i, t =>
    if t = 0 then 0 else t + expSeries w y fuel (i + 1) (t * y / (2 : Int) ^ w / (i + 1 : Nat))

/-- e^y at 2^w for 0 ≤ y < 1 at 2^w. -/
def expFix (w : Nat) (y : Int) : Int := expSeries w y (w + 8) 0 ((2 : Int) ^ w)

/-- Σ (−1)^j y^i / i! over i = i0, i0 + 2, …: cosine from i0 = 0 and sine from i0 = 1. -/
def trigSeries (w : Nat) (y2 : Int) : Nat → Nat → Int → Int
  | 0, _, _ => 0
  | fuel + 1, i, t =>
    if t = 0 then 0
    else t - trigSeries w y2 fuel (i + 2) (t * y2 / (2 : Int) ^ w / ((i + 1) * (i + 2) : Nat))

/-- sin y at 2^w. -/
def sinFix (w : Nat) (y : Int) : Int := trigSeries w (y * y / (2 : Int) ^ w) (w + 8) 1 y
/-- cos y at 2^w. -/
def cosFix (w : Nat) (y : Int) : Int := trigSeries w (y * y / (2 : Int) ^ w) (w + 8) 0 ((2 : Int) ^ w)

/-- The integer at 2^w of n · 2^x, rounded down. -/
def fixOf (w : Nat) (n : Nat) (x : Int) : Int :=
  if 0 ≤ x + w then (n * 2 ^ (x + w).toNat : Nat) else (n / 2 ^ (-(x + w)).toNat : Nat)

/-! ## Enclosures: an integer v and an exponent, the true value lying within 2^32 of v at that scale -/

/-- e^y · 2^k for y = f · ln 2, with f = n·2^x mod 1: exp2 of (−1)^neg · n · 2^x as (v, exponent). -/
def exp2Enc (w : Nat) (neg : Bool) (n : Nat) (x : Int) : Int × Int :=
  let v := fixOf w n x
  let v := if neg then -v - 1 else v
  let k := v / (2 : Int) ^ w
  let f := v % (2 : Int) ^ w
  (expFix w (f * ln2Fix w / (2 : Int) ^ w), k - w)

/-- log2 of n · 2^x as (v, exponent). -/
def log2Enc (w : Nat) (n : Nat) (x : Int) : Int × Int :=
  let l := bitLen n
  -- y = n / 2^(l−1) lies in [1, 2); above √2 it is halved
  let y : Int := fixOf w n (1 - (l : Int))
  let k : Int := x + l - 1
  let big := decide (2 * (2 : Int) ^ (2 * w) < y * y)
  let y := if big then y / 2 else y
  let k := if big then k + 1 else k
  let one := (2 : Int) ^ w
  let z := (y - one) * one / (y + one)
  (k * one + 2 * atanhFix w z * one / ln2Fix w, -(w : Int))

/-- sin or cos of n · 2^x (n · 2^x ≥ 0) as (v, exponent). -/
def trigEnc (w : Nat) (cosine : Bool) (n : Nat) (x : Int) : Int × Int :=
  let big := w + (max 0 (x + bitLen n)).toNat + 16
  let half := piFix big / 2
  let v := fixOf big n x
  let q := v / half
  let r := (v - q * half) / (2 : Int) ^ (big - w)
  let q := (q + if cosine then 1 else 0) % 4
  let s := if q % 2 = 0 then sinFix w r else cosFix w r
  (if q < 2 then s else -s, -(w : Int))

/-- tanh of n · 2^x ≥ 0 as (v, exponent): (e^2y − 1) / (e^2y + 1). -/
def tanhEnc (w : Nat) (n : Nat) (x : Int) : Int × Int :=
  let one := (2 : Int) ^ w
  let v := fixOf w n (x + 1) * one / ln2Fix w
  let k := v / one
  let f := v % one
  let e := expFix w (f * ln2Fix w / one)
  let ek := e * 2 ^ k.toNat
  ((ek - one) * one / (ek + one), -(w : Int))

/-- Rounds a value strictly inside the enclosure, if every value inside rounds alike. -/
def FloatFmt.roundEnc (f : FloatFmt) (mode : RMode) (v x : Int) : Option Nat :=
  let side (i : Int) : Nat := f.round (.fin (decide (i < 0)) i.natAbs x) mode 0
  let lo := side (v - 2 ^ 32)
  let hi := side (v + 2 ^ 32)
  if decide (v - 2 ^ 32 < 0) != decide (v + 2 ^ 32 < 0) then none
  else if lo = hi then some lo else none

/-- Narrows the enclosure by doubling the working precision until it decides the rounding. -/
def refine (f : FloatFmt) (mode : RMode) (enc : Nat → Int × Int) : Nat → Nat → Option Nat
  | 0, _ => none
  | fuel + 1, w =>
    let r := enc w
    match f.roundEnc mode r.1 r.2 with
    | some b => some b
    | none => refine f mode enc fuel (2 * w)

/-- A non-zero exact value displaced by less than any format can hold: towards zero when `down`. -/
def nudge (neg : Bool) (n : Nat) (x : Int) (down : Bool) : XVal :=
  .fin neg (if down then n * 2 ^ 200 - 1 else n * 2 ^ 200 + 1) (x - 200)

/-- Whether n · 2^x lies below 2^−40. -/
def isTiny (n : Nat) (x : Int) : Bool := decide (x + bitLen n < -40)

/-- Round of a root: n · 2^x with a sticky bit for an inexact remainder. -/
def rootVal (neg : Bool) (r : Nat) (exact : Bool) (x : Int) : XVal :=
  .fin neg (2 * r + if exact then 0 else 1) (x - 1)

/-- The bits of a function's value; `none` when the enclosure search ran out of fuel (R185). -/
def unaryBits? (fn : UnaryFn) (f : FloatFmt) (mode : RMode) (b : Nat) : Option Nat :=
  let rd (v : XVal) : Option Nat := some (f.round v mode 0)
  let search (enc : Nat → Int × Int) : Option Nat := refine f mode enc 7 128
  let one : XVal := .fin false 1 0
  match fn, f.value b with
  | _, .nan => rd .nan
  | .sqrt, .inf neg => if neg then rd .nan else rd (.inf false)
  | .sqrt, .fin neg n x =>
    if n = 0 then rd (.fin neg 0 0)
    else if neg then rd .nan
    else
      let odd := x % 2 != 0
      let n := if odd then 2 * n else n
      let x := if odd then x - 1 else x
      let m := n * 2 ^ 160
      let r := isqrt m
      rd (rootVal false r (r * r == m) (x / 2 - 80))
  | .rcp, .inf neg => rd (.fin neg 0 0)
  | .rcp, .fin neg n x => if n = 0 then rd (.inf neg) else some (f.roundRat neg 1 n (-x) mode 0)
  | .rsqrt, .inf neg => if neg then rd .nan else rd (.fin false 0 0)
  | .rsqrt, .fin neg n x =>
    if n = 0 then rd (.inf neg)
    else if neg then rd .nan
    else
      let odd := x % 2 != 0
      let n := if odd then 2 * n else n
      let x := if odd then x - 1 else x
      let r := isqrt (2 ^ 280 / n)
      rd (rootVal false r (r * r * n == 2 ^ 280) (-(x / 2) - 140))
  | .exp2, .inf neg => if neg then rd (.fin false 0 0) else rd (.inf false)
  | .exp2, .fin neg n x =>
    if n = 0 then rd one
    else if isTiny n x && decide (x + bitLen n < -80) then rd (nudge false 1 0 neg)
    else if 12 ≤ x + bitLen n then rd (.fin false 1 (if neg then -5000 else 5000))
    else
      -- an integral argument has an exact power
      let v := scaled neg n x (min x 0)
      let s := (-(min x 0)).toNat
      if v % (2 : Int) ^ s = 0 then rd (.fin false 1 (v / (2 : Int) ^ s))
      else search fun w => exp2Enc w neg n x
  | .log2, .inf neg => if neg then rd .nan else rd (.inf false)
  | .log2, .fin neg n x =>
    if n = 0 then rd (.inf true)
    else if neg then rd .nan
    else if n = 2 ^ (bitLen n - 1) then
      let k := x + bitLen n - 1
      if k = 0 then rd (.fin false 0 0) else rd (XVal.ofInt k)
    else search fun w => log2Enc w n x
  | .sin, .inf _ => rd .nan
  | .sin, .fin neg n x =>
    if n = 0 then rd (.fin neg 0 0)
    else if isTiny n x then rd (nudge neg n x true)
    else search fun w => let r := trigEnc w false n x; (if neg then -r.1 else r.1, r.2)
  | .cos, .inf _ => rd .nan
  | .cos, .fin _ n x =>
    if n = 0 then rd one
    else if isTiny n x then rd (nudge false 1 0 true)
    else search fun w => trigEnc w true n x
  | .tanh, .inf neg => rd (.fin neg 1 0)
  | .tanh, .fin neg n x =>
    if n = 0 then rd (.fin neg 0 0)
    else if isTiny n x then rd (nudge neg n x true)
    else if 7 ≤ x + bitLen n then rd (nudge neg 1 0 true)
    else search fun w => let r := tanhEnc w n x; (if neg then -r.1 else r.1, r.2)
  | .rint, .inf neg => rd (.inf neg)
  | .rint, .fin neg n x =>
    if n = 0 then rd (.fin neg 0 0) else rd (.fin neg (roundInt neg n x mode).natAbs 0)

/-- The number of a mode (R71). -/
def RMode.code : RMode → Nat
  | .rne => 0 | .rz => 1 | .ru => 2 | .rd => 3 | .sr => 4

/-- The bits of a function's value (R185). -/
def unaryBits (fn : UnaryFn) (f : FloatFmt) (mode : RMode) (b : Nat) : Nat :=
  match unaryBits? fn f mode b with
  | some r => r
  | none => Config.unresolved fn.code f.width b mode.code % 2 ^ f.width

end Sys2Proof
end

