-- ==== Sys2Proof/Machine/Lane.lean ====
section
/-!
DEFINITION. What one lane computes, on bit patterns of the format's width (10_isa_vector.md R183 to R192,
11_isa_memory_sync.md R207).
-/

namespace Sys2Proof

/-! ## Floating point -/

/-- The arithmetic of majors 1 to 4 (R183). -/
inductive FloatOp where
  | add | sub | mul
  deriving DecidableEq, Repr

/-- One lane of `add`, `sub` or `mul` (R183, R69). -/
def floatArith (op : FloatOp) (f : FloatFmt) (mode : RMode) (a b : Nat) : Nat :=
  let x := f.value a
  let y := f.value b
  match op with
  | .add => f.round (x.add mode y) mode 0
  | .sub => f.round (x.add mode y.neg) mode 0
  | .mul => f.round (x.mul y) mode 0

/-- One lane of `fma`: a · b + d, rounded once (R183). -/
def floatFma (f : FloatFmt) (mode : RMode) (a b d : Nat) : Nat :=
  f.round (((f.value a).mul (f.value b)).add mode (f.value d)) mode 0

/-- One lane of `div` (R184). -/
def floatDiv (f : FloatFmt) (mode : RMode) (a b : Nat) : Nat :=
  match f.value a, f.value b with
  | .nan, _ => f.nanCode
  | _, .nan => f.nanCode
  | .inf _, .inf _ => f.nanCode
  | .inf s, .fin t _ _ => f.round (.inf (s != t)) mode 0
  | .fin s _ _, .inf t => f.round (.fin (s != t) 0 0) mode 0
  | .fin s n x, .fin t m y =>
    if m = 0 then (if n = 0 then f.nanCode else f.round (.inf (s != t)) mode 0)
    else f.roundRat (s != t) n m (x - y) mode 0

/-- Whether a is before b in the order of `min`: −0 is less than +0 (R184). -/
def floatLess (a b : XVal) : Bool :=
  if a.isZero && b.isZero then a.isNeg && !b.isNeg else decide (a.cmp b < 0)

/-- One lane of `min` or `max`; a NaN gives the canonical NaN (R184). -/
def floatMinMax (f : FloatFmt) (greater : Bool) (a b : Nat) : Nat :=
  let x := f.value a
  let y := f.value b
  if x.isNan || y.isNan then f.nanCode
  else if floatLess x y then (if greater then b else a) else (if greater then a else b)

/-- The sign bit's weight. -/
def FloatFmt.signBit (f : FloatFmt) : Nat := 2 ^ (f.e + f.m)

/-- The bits of a with the sign bit of b (R184). -/
def floatCopysign (f : FloatFmt) (a b : Nat) : Nat := a % f.signBit + (b / f.signBit % 2) * f.signBit

/-- The sign bit flipped (R185). -/
def floatNeg (f : FloatFmt) (a : Nat) : Nat := a % f.signBit + (1 - a / f.signBit % 2) * f.signBit

/-- The sign bit cleared (R185). -/
def floatAbs (f : FloatFmt) (a : Nat) : Nat := a % f.signBit

/-- The class word of `fclass` (R185). -/
def floatClass (f : FloatFmt) (a : Nat) : Nat :=
  let neg := a / f.signBit % 2 == 1
  let e := a / 2 ^ f.m % 2 ^ f.e
  let m := a % 2 ^ f.m
  if e = 2 ^ f.e - 1 then
    if m = 0 then (if neg then 2 ^ 0 else 2 ^ 7)
    else if m / 2 ^ (f.m - 1) = 0 then 2 ^ 8 else 2 ^ 9
  else if e = 0 then
    if m = 0 then (if neg then 2 ^ 3 else 2 ^ 4) else (if neg then 2 ^ 2 else 2 ^ 5)
  else if neg then 2 ^ 1 else 2 ^ 6

/-! ## Integers -/

/-- The two-source integer operations (R186). -/
inductive IntOp where
  | add | sub | mul | mulh | min | max | adds | subs | shl | shr | div | rem
  deriving DecidableEq, Repr

/-- The quotient rounded toward zero; a zero divisor gives all ones, and least ÷ −1 wraps (R186). -/
def intQuot (signed : Bool) (w : Nat) (a b : Nat) : Int :=
  let x := intOf signed w a
  let y := intOf signed w b
  if y = 0 then -1 else x.tdiv y

/-- One lane of an integer operation (R186). -/
def intArith (op : IntOp) (signed : Bool) (w : Nat) (a b : Nat) : Nat :=
  let x := intOf signed w a
  let y := intOf signed w b
  match op with
  | .add => wrapBits w (x + y)
  | .sub => wrapBits w (x - y)
  | .mul => wrapBits w (x * y)
  | .mulh => wrapBits w (x * y / (2 : Int) ^ w)
  | .min => wrapBits w (min x y)
  | .max => wrapBits w (max x y)
  | .adds => satBits signed w (x + y)
  | .subs => satBits signed w (x - y)
  | .shl => wrapBits w (x * (2 : Int) ^ (b % 2 ^ w % w))
  | .shr => wrapBits w (x / (2 : Int) ^ (b % 2 ^ w % w))
  | .div => wrapBits w (intQuot signed w a b)
  | .rem => if y = 0 then wrapBits w x else wrapBits w (x.tmod y)

/-- One lane of `mad` (R186). -/
def intMadd (w : Nat) (a b d : Nat) : Nat := (a * b + d) % 2 ^ w

/-- Wrap of |a| (R186). -/
def intAbsBits (w a : Nat) : Nat := wrapBits w (intOf true w a).natAbs

/-- Wrap of −a (R186). -/
def intNegBits (w a : Nat) : Nat := wrapBits w (-(intOf true w a))

/-- Signedness and width of a type of majors 8 to 11. -/
def IType.shape : IType → Bool × Nat
  | .s32 => (true, 32) | .n32 => (false, 32) | .s64 => (true, 64) | .n64 => (false, 64)

/-- The format of a type of majors 8 to 11. -/
def IType.fmt : IType → Fmt
  | .s32 => .s32 | .n32 => .n32 | .s64 => .s64 | .n64 => .n64

/-- The format of an FT field. -/
def FType.fmt : FType → Fmt
  | .f32 => .f32 | .f64 => .f64 | .f16 => .f16 | .bf16 => .bf16

/-! ## Bits -/

/-- Number of 1 bits among the low w. -/
def popcBits (w a : Nat) : Nat := ((List.range w).filter fun i => a.testBit i).length

/-- Leading zeros of a w-bit word; w for 0. -/
def clzBits (w a : Nat) : Nat := w - bitLen (a % 2 ^ w)

/-- Trailing zeros of a w-bit word; w for 0. -/
def ctzBits (w a : Nat) : Nat := ((List.range w).find? fun i => a.testBit i).getD w

/-- Rotation left of a w-bit word. -/
def rotlBits (w a k : Nat) : Nat :=
  let a := a % 2 ^ w
  let k := k % w
  (a * 2 ^ k) % 2 ^ w + a / 2 ^ (w - k)

/-- Bit i moves to bit w − 1 − i. -/
def brevBits (w a : Nat) : Nat :=
  (List.range w).foldl (fun r i => if a.testBit i then r + 2 ^ (w - 1 - i) else r) 0

/-! ## Compares -/

/-- The format of a TY field (R155). -/
def CmpTy.fmt : CmpTy → Fmt
  | .f32 => .f32 | .f64 => .f64 | .f16 => .f16 | .bf16 => .bf16
  | .s32 => .s32 | .n32 => .n32 | .s64 => .s64 | .n64 => .n64

/-- A condition on an ordering (R189). -/
def CmpOp.holds (cc : CmpOp) (c : Int) (unordered : Bool) : Bool :=
  match cc with
  | .eq => !unordered && decide (c = 0)
  | .ne => unordered || decide (c ≠ 0)
  | .lt => !unordered && decide (c < 0)
  | .le => !unordered && decide (c ≤ 0)
  | .gt => !unordered && decide (0 < c)
  | .ge => !unordered && decide (0 ≤ c)
  | .uo => unordered
  | .ord => !unordered

/-- The truth of `a cc b` in a format (R189). -/
def cmpLane (cc : CmpOp) (ty : CmpTy) (a b : Nat) : Bool :=
  match ty.fmt.float with
  | some f =>
    let x := f.value a
    let y := f.value b
    cc.holds (x.cmp y) (x.isNan || y.isNan)
  | none =>
    match ty.fmt.intShape with
    | some (sg, w) => cc.holds (intOf sg w a - intOf sg w b) false
    | none => false

/-! ## Conversions -/

/-- The kind of a tag for `cvt` (R190): floating, with its format; integer, with sign and width; or neither. -/
inductive NumKind where
  | float (f : FloatFmt)
  | int (signed : Bool) (w : Nat)
  | raw
  deriving DecidableEq, Repr

/-- The kind of a tag, narrow formats taken from the team's registers (R55, R74). -/
def Tag.kind (t : Tag) (nf : BitVec 4 → BitVec 32) : NumKind :=
  match t with
  | .nf k => .float (narrowFmt (nf k))
  | .fmt f =>
    match f.float with
    | some g => .float g
    | none =>
      match f.intShape with
      | some (sg, w) => .int sg w
      | none => .raw

/-- One lane of `cvt`: the pattern of the result (R73, R190, R191). -/
def cvtLane (src dst : NumKind) (sat : Bool) (mode : RMode) (rnd : Nat) (a : Nat) : Nat :=
  match src, dst with
  | .float f, .float g => g.round (f.value a) mode rnd
  | .int sg w, .float g => g.round (XVal.ofInt (intOf sg w a)) mode rnd
  | .float f, .int sg w => toIntBits sg w mode (f.value a)
  | .int sg w, .int sg' w' => if sat then satBits sg' w' (intOf sg w a) else wrapBits w' (intOf sg w a)
  | _, _ => 0

/-- Whether `.sr` may convert from one tag to another (R71, R191). -/
def stochasticOk (src dst : Tag) : Bool :=
  match src, dst with
  | .fmt .f32, .fmt .bf16 | .fmt .f32, .fmt .f16 => true
  | .fmt .f32, .nf _ | .fmt .bf16, .nf _ | .fmt .f16, .nf _ => true
  | _, _ => false

/-- The width in bits of a tag's element (R55). -/
def Tag.bits (t : Tag) (nf : BitVec 4 → BitVec 32) : Nat :=
  match t with
  | .fmt f => f.bits
  | .nf k => (narrowFmt (nf k)).width

/-- The 32-bit place of the low w bits of an element under a single-register tag (R55). -/
def Tag.place (t : Tag) (nf : BitVec 4 → BitVec 32) (a : Nat) : Nat :=
  match t with
  | .fmt f => f.place a
  | .nf k => a % 2 ^ (narrowFmt (nf k)).width

/-! ## Atomics -/

/-- The new value of OP 0 to 5 (R207). -/
def reduceOp (op : Nat) (f : Fmt) (o v : Nat) : Nat :=
  match f.float, op with
  | some g, 0 => floatArith .add g .rne o v
  | some g, 1 => floatMinMax g false o v
  | some g, 2 => floatMinMax g true o v
  | _, 3 => (o &&& v) % 2 ^ f.bits
  | _, 4 => (o ||| v) % 2 ^ f.bits
  | _, 5 => (o ^^^ v) % 2 ^ f.bits
  | _, _ =>
    let (sg, w) := f.intShape.getD (false, f.bits)
    intArith (match op with
      | 0 => .add
      | 1 => .min
      | _ => .max) sg w o v

/-- The new value of a returning atomic, OP 8 to 15; `w` is the swap value of `cas` (R207). -/
def atomicOp (op : Nat) (f : Fmt) (o v w : Nat) : Nat :=
  if op = 14 then v % 2 ^ f.bits
  else if op = 15 then (if o % 2 ^ f.bits = v % 2 ^ f.bits then w % 2 ^ f.bits else o)
  else reduceOp (op - 8) f o v

end Sys2Proof
end

