-- ==== Sys2Proof/Machine/Mem.lean ====
section
/-!
DEFINITION. Memory at its homes: bytes, poison, staged reductions, the application of log entries, and scratchpad
(05_memory_hierarchy.md R90, R97, R98, R109, R113, R115; 17_determinism.md R323).
-/

namespace Sys2Proof.Machine

/-! ## Bytes by address -/

/-- Bytes by address, addresses strictly rising; an unlisted address reads 0, and no listed byte is 0 (log 3). -/
abbrev Memory := List Host.Cell

/-- The byte at an address. -/
def Memory.read : Memory → Nat → Byte
  | [], _ => 0
  | (k, b) :: m, a => if k < a then Memory.read m a else if k = a then b else 0

/-- Writes one byte; 0 removes the entry. -/
def Memory.write : Memory → Nat → Byte → Memory
  | [], a, b => if b = 0 then [] else [(a, b)]
  | (k, c) :: m, a, b =>
    if k < a then (k, c) :: Memory.write m a b
    else if k = a then (if b = 0 then m else (a, b) :: m)
    else if b = 0 then (k, c) :: m else (a, b) :: (k, c) :: m

/-- Every listed address is above `lo`. -/
def Memory.above (lo : Nat) : Memory → Bool
  | [] => true
  | (k, _) :: _ => decide (lo < k)

/-- The canonical form: addresses strictly rising, no listed 0. -/
def Memory.wf : Memory → Bool
  | [] => true
  | (k, b) :: m => b != 0 && Memory.above k m && Memory.wf m

/-- n bytes from an address on. -/
def Memory.readBytes (m : Memory) (a n : Nat) : List Byte := (List.range n).map fun i => Memory.read m (a + i)

/-- Writes bytes from an address on. -/
def Memory.writeBytes (m : Memory) (a : Nat) : List Byte → Memory
  | [] => m
  | b :: bs => Memory.writeBytes (Memory.write m a b) (a + 1) bs

/-- Removes every byte from a up to a + n. -/
def Memory.clear (m : Memory) (a n : Nat) : Memory := m.filter fun c => decide (c.1 < a) || decide (a + n ≤ c.1)

/-- Little-endian bytes of a number. -/
def bytesOf : Nat → Nat → List Byte
  | 0, _ => []
  | n + 1, w => BitVec.ofNat 8 w :: bytesOf n (w / 256)

/-- The number whose little-endian bytes these are. -/
def natOfBytes : List Byte → Nat
  | [] => 0
  | b :: bs => b.toNat + 256 * natOfBytes bs

/-- The field of n bytes at an offset of a byte list; bytes beyond it are 0. -/
def fieldOf (bs : List Byte) (off n : Nat) : Nat := natOfBytes ((bs.drop off).take n)

/-- Inserts a number in an ascending list without repeats. -/
def insertNat (x : Nat) : List Nat → List Nat
  | [] => [x]
  | y :: ys => if y < x then y :: insertNat x ys else if y = x then y :: ys else x :: y :: ys

/-! ## Homes -/

/-- The key of a physical address of a device in the memory of the domain (log 12). -/
def memKey (dev pa : Nat) : Nat := dev * 2 ^ 47 + pa

/-- Bytes of HBM per device: 12 stacks of 96 GiB (R14). -/
def hbmBytes : Nat := 1152 * 2 ^ 30

/-- Whether a key lies in installed HBM (log 11). -/
def installed (key : Nat) : Bool := decide (key % 2 ^ 47 < hbmBytes)

/-- The device and die of a key's home: 288 GiB per die, in die order (log 6). -/
def homeOf (key : Nat) : Nat × Nat := (key / 2 ^ 47 % 2 ^ 10, key % 2 ^ 47 / (288 * 2 ^ 30))

/-- The first key of a key's 32-byte granule. -/
def granule (key : Nat) : Nat := key / 32 * 32

/-- The first keys of the granules a range of n bytes touches. -/
def granulesOf (key n : Nat) : List Nat :=
  if n = 0 then [] else (List.range ((key + n - 1) / 32 - key / 32 + 1)).map fun i => granule key + 32 * i

/-! ## The keys that memory is held under (R114, R351) -/

/-- A byte's key with the tenant under whose encryption key an access reads or writes it: 2^57 times one more than the
tenant above the key. A key without one is accessed under the key that holds it (log 73). -/
def keyUnder (tenant : BitVec 8) (key : Nat) : Nat := (tenant.toNat + 1) * 2 ^ 57 + key

/-- The key without the tenant. -/
def bareKey (key : Nat) : Nat := key % 2 ^ 57

/-- The tenant of a key. -/
def tenantOfKey (key : Nat) : Option (BitVec 8) :=
  if key < 2 ^ 57 then none else some (BitVec.ofNat 8 (key / 2 ^ 57 - 1))

/-- What holds a granule: one that nothing was written to under a tenant's key is held by the system key. -/
def State.holder (s : State) (gran : Nat) : Holder :=
  match s.held.find? fun h => h.1 == gran with
  | some (_, h) => h
  | none =>
    if s.lostPages.any fun p => decide (p.1 ≤ gran) && decide (gran < p.1 + p.2) then .lost else .system

/-- Whether data a holder encrypted decrypts in an access under a tenant's key (log 73). -/
def Holder.opens (h : Holder) (tenant : Option (BitVec 8)) : Bool :=
  match h, tenant with
  | .lost, _ => false
  | .tenant o, some t => o == t
  | _, _ => true

/-- Sets a granule's holder. -/
def setHeld (gran : Nat) (h : Holder) : List (Nat × Holder) → List (Nat × Holder)
  | [] => [(gran, h)]
  | x :: xs => if x.1 < gran then x :: setHeld gran h xs else if x.1 = gran then (gran, h) :: xs else (gran, h) :: x :: xs

/-- Free bytes, drawn anew each time. -/
def State.freeBytes (s : State) (n : Nat) : List Byte × State :=
  ((List.range n).map fun i => (Config.beyondImage s.free i).setWidth 8, { s with free := s.free + 1 })

/-- A write under a tenant's key takes a granule over: what another key holds in it turns into free values (R114). -/
def State.takeOver (s : State) (tenant : Option (BitVec 8)) (gran : Nat) : State :=
  let h := s.holder gran
  let s := if h.opens tenant then s
    else
      let (bs, s) := s.freeBytes 32
      { s with mem := Memory.writeBytes s.mem gran bs }
  match h, tenant with
  | _, some t => if h == .tenant t then s else { s with held := setHeld gran (.tenant t) s.held }
  | .lost, none => { s with held := setHeld gran .system s.held }
  | _, none => s

/-- Whether a granule is poisoned (R115). -/
def State.poisoned (s : State) (gran : Nat) : Bool := s.poison.contains gran

/-- Sets or clears a granule's poison state. -/
def State.setPoison (s : State) (gran : Nat) (on : Bool) : State :=
  { s with poison := if on then insertNat gran s.poison else s.poison.filter fun g => g != gran }

/-- Before a write to a granule that the host holds cached, its home sends a back-invalidate (R338). -/
def State.backInvalidate (s : State) (gran : Nat) : State :=
  if s.hostCached.contains gran then
    { s with hostCached := s.hostCached.filter fun g => g != gran, backInvalidates := gran :: s.backInvalidates }
  else s

/-- Applies a reduction to the value at a key (R109, R207); a poisoned operand poisons the granule (R208). -/
def State.applyReduce (s : State) (key : Nat) (op : BitVec 4) (f : Fmt) (v : BitVec 64) (poison : Bool) : State :=
  let s := s.backInvalidate (granule key)
  let o := natOfBytes (Memory.readBytes s.mem key f.bytes)
  let s := { s with mem := Memory.writeBytes s.mem key (bytesOf f.bytes (reduceOp op.toNat f o v.toNat)) }
  if poison then s.setPoison (granule key) true else s

/-- Ascending key, then program-order number (R323). -/
def stagedBefore (a b : Staged) : Bool :=
  decide (a.key.toNat < b.key.toNat) || (a.key == b.key && decide (a.order.toNat < b.order.toNat))

/-- Applies every staged reduction of a granule (R323). -/
def State.settle (s : State) (gran : Nat) : State :=
  match s.staged.filter fun e => granule e.addr == gran with
  | [] => s
  | es =>
    (sortBy stagedBefore es).foldl (fun s e => s.applyReduce e.addr e.op e.fmt e.value e.poison)
      { s with staged := s.staged.filter fun e => granule e.addr != gran }

/-- Applies every staged reduction of a LAUNCH's teams, in ascending key (R323). -/
def State.settleLaunch (s : State) (origin : Nat × Nat) : State :=
  let mine (e : Staged) : Bool := e.origin == some origin
  (sortBy stagedBefore (s.staged.filter mine)).foldl (fun s e => s.applyReduce e.addr e.op e.fmt e.value e.poison)
    { s with staged := s.staged.filter fun e => !mine e }

/-- Settles a list of granules. -/
def State.settleAll (s : State) (grans : List Nat) : State := grans.foldl State.settle s

/-- Reads n bytes at their homes, with whether one lies in a poisoned granule; staged entries come first (R323). What
the access's key does not decrypt reads as free values (R114). -/
def State.homeRead (s : State) (key n : Nat) : List Byte × Bool × State :=
  let k := bareKey key
  let gs := granulesOf k n
  let s := s.settleAll gs
  if gs.all fun g => (s.holder g).opens (tenantOfKey key) then (Memory.readBytes s.mem k n, gs.any s.poisoned, s)
  else
    let (bs, s) := s.freeBytes n
    (bs, gs.any s.poisoned, s)

/-- Writes the bytes of one granule that a mask selects. A full write without poison clears the granule's poison
state; a poisoned write sets it; every other leaves it (R115). A plain write reaches a descriptor in memory as bytes: its
fields' access codes (RO, W1C) hold for `registerWrite` alone, which log 76 marks as the model's choice. -/
def State.granWrite (s : State) (gran : Nat) (data : List Byte) (mask : BitVec 32) (poison : Bool) : State :=
  let s := (s.settle gran).backInvalidate gran
  let sel := (data.zipIdx 0).filter fun p => mask.getLsbD p.2
  let s := { s with mem := sel.foldl (fun m p => Memory.write m (gran + p.2) p.1) s.mem }
  if poison then s.setPoison gran true
  else if mask == 0xFFFFFFFF then s.setPoison gran false else s

/-- The mask of n bytes from byte k of a granule on. -/
def byteMask (k n : Nat) : BitVec 32 := BitVec.ofNat 32 ((2 ^ n - 1) * 2 ^ k)

/-- The bytes of a range cut at granules: granule, bytes laid out in it, mask. -/
def cutGranules : Nat → Nat → List Byte → List (Nat × List Byte × BitVec 32)
  | 0, _, _ => []
  | _, _, [] => []
  | fuel + 1, key, bs =>
    let k := key % 32
    let here := bs.take (32 - k)
    (granule key, List.replicate k 0 ++ here, byteMask k here.length)
      :: cutGranules fuel (granule key + 32) (bs.drop (32 - k))

/-- Writes bytes at their homes, granule by granule, under the key of the access; `poison` taints every granule. -/
def State.streamWrite (s : State) (key : Nat) (bs : List Byte) (poison : Bool) : State :=
  (cutGranules (bs.length + 1) (bareKey key) bs).foldl (fun (s : State) p =>
    (s.takeOver (tenantOfKey key) p.1).granWrite p.1 p.2.1 p.2.2 poison) s

/-- Writes bytes at their homes, granule by granule. -/
def State.homeWrite (s : State) (key : Nat) (bs : List Byte) : State := s.streamWrite key bs false

/-! ## Log entries at their homes -/

/-- The key of an entry's granule. -/
def LogEntry.granKey (e : LogEntry) : Nat := memKey e.hdev.toNat (e.gran.toNat * 32)

/-- DATA as bytes. -/
def LogEntry.bytes (e : LogEntry) : List Byte := bytesOf 32 e.data.toNat

/-- The byte offsets of the elements a reduction's mask selects, ascending (R102, R264). -/
def LogEntry.elements (e : LogEntry) : List Nat :=
  ((List.range (32 / e.fmt.bytes)).map fun i => i * e.fmt.bytes).filter fun k => e.mask.getLsbD k

/-- The mask of granule i of a segment (R102). -/
def LogEntry.segMask (e : LogEntry) (i : Nat) : BitVec 32 :=
  (if i = 0 then e.mask else 0xFFFFFFFF) &&& (if i + 1 = e.len then e.lastMask else 0xFFFFFFFF)

/-- The granules an entry writes, ascending. -/
def LogEntry.grans (e : LogEntry) : List Nat :=
  match e.kind with
  | .segment => (List.range e.len).map fun i => e.granKey + 32 * i
  | _ => [e.granKey]

/-- Applies an entry at its home, under its tenant's key (R109, R114, R115, R323). An entry of a tenant without a key
is discarded and counted (R394). -/
def State.applyEntry (s : State) (e : LogEntry) : State :=
  if !(s.tenant e.tenant).created then { s with discarded := s.discarded + 1 }
  else
    let s := e.grans.foldl (fun (s : State) g => s.takeOver (some e.tenant) g) s
    match e.kind with
    | .plain => s.granWrite e.granKey e.bytes e.mask e.poison
    | .reduction =>
      e.elements.foldl (fun s k =>
        let v := BitVec.ofNat 64 (fieldOf e.bytes k e.fmt.bytes)
        if e.sorted then
          { s with staged := s.staged ++ [{ addr := e.granKey + k, op := e.op, fmt := e.fmt, value := v, key := e.key,
                                            order := e.order, poison := e.poison, origin := e.origin }] }
        else (s.settle e.granKey).applyReduce (e.granKey + k) e.op e.fmt v e.poison) s
    | .segment =>
      let bs := e.held.getD []
      (List.range e.len).foldl (fun s i =>
        s.granWrite (e.granKey + 32 * i) ((bs.drop (32 * i)).take 32) (e.segMask i)
          (e.poison || e.heldPoison.contains i)) s

/-! ## Scratchpad -/

/-- Bytes of a core's scratchpad (R13). -/
def scratchBytes : Nat := 3 * 2 ^ 20

/-- n bytes of a core's scratchpad from a physical offset on. -/
def State.scratchRead (s : State) (core off n : Nat) : List Byte := Memory.readBytes (s.core core).scratch off n

/-- Writes bytes of a core's scratchpad in place (R97). -/
def State.scratchWrite (s : State) (core off : Nat) (bs : List Byte) : State :=
  s.modCore core fun c => { c with scratch := Memory.writeBytes c.scratch off bs }

/-- The full/empty bit of the word that holds a physical offset (R98). -/
def State.isFull (s : State) (core off : Nat) : Bool := (s.core core).full.contains (off / 8)

/-- Sets or clears a full/empty bit. -/
def State.setFull (s : State) (core off : Nat) (on : Bool) : State :=
  s.modCore core fun c =>
    { c with full := if on then insertNat (off / 8) c.full else c.full.filter fun w => w != off / 8 }

/-- A partition as it is at admission: zeros, every word empty (R97). -/
def State.clearPartition (s : State) (core base size : Nat) : State :=
  s.modCore core fun c =>
    { c with scratch := Memory.clear c.scratch base size
             full := c.full.filter fun w => decide (w < base / 8) || decide ((base + size) / 8 ≤ w) }

end Sys2Proof.Machine
end

