-- ==== Sys2Proof/Machine/Translate.lean ====
section
/-!
DEFINITION. Global addresses, the walk of a table set, and the translation cache (05_memory_hierarchy.md R88, R89,
R93 to R96, R114; 24_faults_memory.md R381).
-/

namespace Sys2Proof.Machine

/-- Why an access has no translation: a class 3 code with the level of the faulting table, or an address no HBM
holds (log 11). -/
inductive TrErr where
  | fault (code : BitVec 9) (level : Nat)
  | absent (pa : Nat)
  deriving DecidableEq, Repr

/-- What a translation goes by: the core whose cache it uses (none: an engine of a die), tenant, root and enable
bit, and level (R93, R95, R96). -/
structure TrCtx where
  core : Option Nat
  tenant : BitVec 8
  root : Nat
  en : Bool
  sys : Bool
  deriving DecidableEq, Repr

/-- DEV of a global address (R88). -/
def devOf (va : Word) : Nat := (va.extractLsb' 47 10).toNat

/-- LOCAL of a global address (R88). -/
def localOf (va : Word) : Nat := (va.extractLsb' 0 47).toNat

/-- Whether bits [63:57] are 0 and DEV is below 576 (R89). -/
def validAddr (va : Word) : Bool := va.extractLsb' 57 7 == 0 && decide (devOf va < 576)

/-- Least bit of a level's index, the size in bits of a page it maps (R93). -/
def levelShift (level : Nat) : Nat :=
  match level with
  | 0 => 16
  | 1 => 21
  | 2 => 30
  | _ => 39

/-- Entries of a level's table (R93). -/
def levelEntries (level : Nat) : Nat :=
  match level with
  | 0 => 32
  | 1 | 2 => 512
  | _ => 256

/-- The level of a leaf that maps pages of a size (R93). -/
def levelOfBits (bits : Nat) : Nat := if bits = 16 then 0 else if bits = 21 then 1 else 2

/-- Whether an access reads (R94). -/
def accReads : AccKind → Bool
  | .load | .atomic | .fetch | .bulkLoad | .fullEmpty => true
  | .store | .reduction => false

/-- Whether an access writes (R94). -/
def accWrites : AccKind → Bool
  | .store | .atomic | .reduction => true
  | .load | .fetch | .bulkLoad | .fullEmpty => false

/-- The permission check of a leaf, in the order of R94. -/
def permCheck (sysPage rd w : Bool) (acc : AccKind) (sys : Bool) : Option (BitVec 9) :=
  if sysPage && !sys then some 0x0C4
  else if accReads acc && !rd then some 0x0C2
  else if accWrites acc && !w then some 0x0C3
  else none

/-- A valid entry's form (R94): reserved bits, no leaf at level 3, a leaf at level 0, the page size. -/
def entryFormed (level : Nat) (e : BitVec 64) : Bool :=
  let leaf := e.getLsbD 3
  e.extractLsb' 48 16 == 0 && e.extractLsb' 7 9 == 0 && !(leaf && level == 3) && (leaf || level != 0) &&
    (!leaf || decide ((e.extractLsb' 16 32).toNat * 2 ^ 16 % 2 ^ levelShift level = 0))

/-- Sets bits of the first byte of a table entry at its home (R94). -/
def State.markEntry (s : State) (key : Nat) (bits : BitVec 8) : State :=
  let s := s.backInvalidate (granule key)
  { s with mem := Memory.write s.mem key (Memory.read s.mem key ||| bits) }

/-- A finished walk: page size in bits, physical page base, permissions, dirty bit and the leaf's key. -/
structure Leaf where
  bits : Nat
  base : Nat
  sys : Bool
  rd : Bool
  w : Bool
  dirty : Bool
  key : Nat
  deriving DecidableEq, Repr

/-- The walk from a level downward: one entry per level, checked in the order of R94; A is set in each entry the
walk goes on with, D in the leaf of a write. -/
def walkFrom (dev local_ : Nat) (acc : AccKind) (sys : Bool) : Nat → Nat → State → Except TrErr Leaf × State
  | level, table, s =>
    let pa := table + 8 * (local_ / 2 ^ levelShift level % levelEntries level)
    let key := memKey dev pa
    if hbmBytes ≤ pa then (.error (.absent pa), s)
    else
      let (bs, poisoned, s) := s.homeRead key 8
      let e := BitVec.ofNat 64 (natOfBytes bs)
      if poisoned then (.error (.fault 0x0C8 level), s)
      else if !e.getLsbD 0 then (.error (.fault 0x0C1 level), s)
      else if !entryFormed level e then (.error (.fault 0x0C5 level), s)
      else
        let next := (e.extractLsb' 16 32).toNat * 2 ^ 16
        if e.getLsbD 3 then
          match permCheck (e.getLsbD 4) (e.getLsbD 1) (e.getLsbD 2) acc sys with
          | some code => (.error (.fault code level), s)
          | none =>
            (.ok { bits := levelShift level, base := next, sys := e.getLsbD 4, rd := e.getLsbD 1, w := e.getLsbD 2,
                   dirty := e.getLsbD 6 || accWrites acc, key := key },
             s.markEntry key (if accWrites acc then 0x60 else 0x20))
        else
          match level with
          | 0 => (.error (.fault 0x0C5 0), s)
          | level + 1 => walkFrom dev local_ acc sys level next (s.markEntry key 0x20)
termination_by structural level => level

/-- Cached translations per core (R13). -/
def cacheSize : Nat := 512

/-- Whether a cached translation is of a tenant, device and page. -/
def CachedTr.covers (c : CachedTr) (tenant : BitVec 8) (dev local_ : Nat) : Bool :=
  c.tenant == tenant && c.dev.toNat == dev && decide (c.page ≤ local_) && decide (local_ < c.page + 2 ^ c.bits)

/-- Adds a translation; beyond 512 the oldest leaves (log 21). -/
def State.cacheAdd (s : State) (core : Nat) (c : CachedTr) : State :=
  s.modCore core fun r =>
    let rest := r.tc.filter fun d => !d.covers c.tenant c.dev.toNat c.page
    { r with tc := (if rest.length < cacheSize then rest else rest.drop 1) ++ [c] }

/-- The translations a core holds; none for a die's engine. -/
def State.cachedOf (s : State) (core : Option Nat) : List CachedTr :=
  match core with
  | none => []
  | some n => (s.core n).tc

/-- TTBASE of a tenant on another device, as its runtime registered it there: translation off until then (R93,
R95). -/
def State.remoteRoot (s : State) (dev : Nat) (tenant : BitVec 8) : Word :=
  ((s.remoteRoots.find? fun r => r.1.toNat == dev && r.2.1 == tenant).map fun r => r.2.2).getD 0

/-- The level-3 table of the context's tenant on the device an address names, in 64 KiB units; none where translation is
off there (R93, R95). -/
def State.rootOn (s : State) (c : TrCtx) (dev : Nat) : Option Nat :=
  if dev == s.dev.toNat then (if c.en then some c.root else none)
  else
    let r := s.remoteRoot dev c.tenant
    if c.en && r.getLsbD 0 then some (r.extractLsb' 16 32).toNat else none

/-- The physical address of a byte of a device, as a key; absent beyond the installed HBM (log 11). -/
def physKey (dev pa : Nat) : Except TrErr Nat := if hbmBytes ≤ pa then .error (.absent pa) else .ok (memKey dev pa)

/-- Walks a table set on the device an address names, and caches the leaf (R93, R96). -/
def State.walk (s : State) (c : TrCtx) (acc : AccKind) (va : Word) (root : Nat) : Except TrErr Nat × State :=
  let dev := devOf va
  let local_ := localOf va
  match walkFrom dev local_ acc c.sys 3 (root * 2 ^ 16) s with
  | (.error e, s) => (.error e, s)
  | (.ok l, s) =>
    let page := local_ / 2 ^ l.bits * 2 ^ l.bits
    let s := match c.core with
      | none => s
      | some n => s.cacheAdd n
          { tenant := c.tenant, dev := BitVec.ofNat 10 dev, page := page, bits := l.bits, pfn := l.base / 2 ^ 16,
            sys := l.sys, rd := l.rd, w := l.w, dirty := l.dirty, leaf := l.key }
    (physKey dev (l.base + (local_ - page)), s)

/-- The key of an access under a tenant's key: a granule that the tenant holds already, and one that it may read, needs
no mark (R114). -/
def State.keyFor (s : State) (tenant : BitVec 8) (acc : AccKind) (key : Nat) : Nat :=
  let h := s.holder (granule key)
  if h == .tenant tenant || (!accWrites acc && h.opens (some tenant)) then key else keyUnder tenant key

/-- The translation of one address: the checks of R89, R346, R95 and R351, a cached translation, or a walk
(log 22). -/
def State.translate (s : State) (c : TrCtx) (acc : AccKind) (va : Word) : Except TrErr Nat × State :=
  if !validAddr va then (.error (.fault 0x0C0 0), s)
  else if !s.reachable (devOf va) then (.error (.fault 0x0C7 0), s)
  else
    match s.rootOn c (devOf va) with
    | none => (.error (.fault 0x0C6 0), s)
    | some root =>
      if !(s.tenant c.tenant).created then (.error (.fault 0x0CA 0), s)
      else
        let (r, s) : Except TrErr Nat × State :=
          match (s.cachedOf c.core).find? fun t => t.covers c.tenant (devOf va) (localOf va) with
          | none => s.walk c acc va root
          | some t =>
            match permCheck t.sys t.rd t.w acc c.sys with
            | some code => (.error (.fault code (levelOfBits t.bits)), s)
            | none =>
              let s := if accWrites acc && !t.dirty then
                  match c.core with
                  | none => s
                  | some n => (s.markEntry t.leaf 0x40).modCore n fun r =>
                      { r with tc := r.tc.map fun d => if d == t then { d with dirty := true } else d }
                else s
              (physKey (devOf va) (t.pfn * 2 ^ 16 + (localOf va - t.page)), s)
        match r with
        | .ok key => (.ok (s.keyFor c.tenant acc key), s)
        | .error e => (.error e, s)

/-- The parts of a range of n bytes, cut at granules: address and length (R89). -/
def cutRange : Nat → Word → Nat → List (Word × Nat)
  | 0, _, _ => []
  | fuel + 1, va, n =>
    if n = 0 then []
    else
      let k := min n (32 - (va.toNat % 32))
      (va, k) :: cutRange fuel (va + BitVec.ofNat 64 k) (n - k)

/-- Translates every part of a range: key and length of each, or the first failure with its address. -/
def State.translateParts (s : State) (c : TrCtx) (acc : AccKind) :
    List (Word × Nat) → Except (TrErr × Word) (List (Nat × Nat)) × State
  | [] => (.ok [], s)
  | (va, n) :: ps =>
    match s.translate c acc va with
    | (.error e, s) => (.error (e, va), s)
    | (.ok key, s) =>
      match s.translateParts c acc ps with
      | (.error e, s) => (.error e, s)
      | (.ok rest, s) => (.ok ((key, n) :: rest), s)

/-- Translates a range of n bytes. -/
def State.translateRange (s : State) (c : TrCtx) (acc : AccKind) (va : Word) (n : Nat) :
    Except (TrErr × Word) (List (Nat × Nat)) × State :=
  s.translateParts c acc (cutRange (n / 32 + 2) va n)

/-- The context of a team's accesses (R95, R293). -/
def State.teamCtx (s : State) (t : Team) : TrCtx :=
  let tt := ((s.gangOf? t).map fun g => g.ttbase).getD 0
  { core := some t.core, tenant := tt.extractLsb' 8 8, root := (tt.extractLsb' 16 32).toNat, en := tt.getLsbD 0,
    sys := t.isSystem }

end Sys2Proof.Machine
end

