-- ==== Sys2Proof/Machine/Log.lean ====
section
/-!
DEFINITION. The store log: append, spill, atomic buffer, publication, drain, application, acknowledgement and replay
(05_memory_hierarchy.md R102 to R111; 12_consistency.md R224, R225; 24_faults_memory.md R387 to R392).
-/

namespace Sys2Proof.Machine

/-! ## Appending -/

/-- Entries of the ring, of the spill log, of the atomic buffer, the spill threshold, and the limit of R388. -/
def ringEntries : Nat := 16384
def spillEntries : Nat := 1048576
def abufEntries : Nat := 8192
def spillAbove : Nat := 14336
def unpublishedLimit : Nat := 1062912

/-- An entry with every field 0. -/
def LogEntry.blank : LogEntry :=
  { data := 0, hdev := 0, gran := 0, mask := 0, kind := .plain, slot := 0, poison := false, fmt := .f64, op := 0,
    eng := false, tenant := 0, lsn := 0, team := 0, gang := 0, state := .logged, spilled := false, key := 0, order := 0,
    sorted := false, held := none, heldPoison := [], srcAddr := 0, srcSpace := 0, len := 0, run := 0, lastMask := 0,
    runId := none, copy := false, origin := none }

/-- Whether an entry is unpublished. -/
def LogEntry.unpublished (e : LogEntry) : Bool := e.state == .logged

/-- a is not later than b: the signed 48-bit difference (R102). -/
def lsnLe (a b : BitVec 48) : Bool := decide (0 ≤ (b - a).toInt)

/-- Entries in the ring. -/
def Core.ringCount (c : Core) : Nat := (c.log.filter fun e => !e.spilled).length

/-- Entries in the spill log: spilled entries, those of saved teams, and what the atomic buffer does not hold (R111,
R208, R307). -/
def Core.spillCount (c : Core) : Nat := (c.log.filter fun e => e.spilled).length + (c.abuf.length - abufEntries) + c.heldSpill

/-- Moves the oldest n unpublished ring entries to the spill log. -/
def spillOldest : Nat → List LogEntry → List LogEntry
  | 0, es => es
  | _, [] => []
  | n + 1, e :: es =>
    if e.unpublished && !e.spilled then { e with spilled := true } :: spillOldest n es
    else e :: spillOldest (n + 1) es

/-- The spill rule of R111. -/
def Core.spill (c : Core) : Core :=
  let n := min (c.ringCount - spillAbove) (spillEntries - c.spillCount)
  if n = 0 then c else { c with log := spillOldest n c.log }

/-- The entries that can still be appended: a ring full of published entries takes none (R111). -/
def Core.room (c : Core) : Nat :=
  let published := (c.log.filter fun e => !e.spilled && !e.unpublished).length
  if ringEntries ≤ published then 0 else (ringEntries - c.ringCount) + (spillEntries - c.spillCount)

/-- Entries that shadows hold in a core's log (R333). -/
def State.shadowEntries (s : State) (core : Nat) : Nat :=
  ((s.copies.filter fun c => !c.third && c.family.shadowCore == some core).map fun c => c.core.log.length).foldl (· + ·) 0

/-- Entries that issued instructions of a team have still to append, to the log or to the atomic buffer (R178). -/
def Team.toAppend (t : Team) (buffer : Bool) : Nat :=
  (t.pend.map fun p =>
    match p.work with
    | .append b es => if b == buffer then es.length else 0
    | _ => 0).foldl (· + ·) 0

/-- Entries that the teams of a core have still to append. -/
def State.toAppend (s : State) (core : Nat) (buffer : Bool) : Nat :=
  ((s.teams.filter fun t => t.core == core).map fun t => t.toAppend buffer).foldl (· + ·) 0

/-- The places of a core's log that no issued instruction will take (R103, R111). -/
def State.appendRoom (s : State) (core : Nat) : Nat :=
  (s.core core).room - s.toAppend core false - s.shadowEntries core

/-- The places of a core's atomic buffer and spill log that no issued instruction will take (R110, R208). -/
def State.bufferRoom (s : State) (core : Nat) : Nat :=
  let c := s.core core
  ((abufEntries - c.abuf.length) + (spillEntries - c.spillCount)) - s.toAppend core true

/-- A team's unpublished entries, buffered atomics and what it has still to append included (R388). -/
def State.unpublishedOf (s : State) (t : Team) : Nat :=
  let c := s.core t.core
  (c.log.filter fun e => e.team == t.id && e.unpublished).length + (c.abuf.filter fun e => e.team == t.id).length +
    ((s.team? t.id).map fun u => u.toAppend false + u.toAppend true).getD 0

/-! ### The bytes of an entry (R102) -/

/-- KIND. -/
def EntryKind.code : EntryKind → Nat
  | .plain => 0
  | .reduction => 1
  | .segment => 2

/-- DATA: the granule's bytes, or a segment's descriptor. -/
def LogEntry.dataBytes (e : LogEntry) : List Byte :=
  match e.kind with
  | .segment =>
    bytesOf 8 e.srcAddr.toNat ++ bytesOf 4 e.len ++ bytesOf 4 e.srcSpace.toNat ++ bytesOf 8 e.run.toNat ++
      bytesOf 8 e.lastMask.toNat
  | _ => e.bytes

/-- Bytes 0x00 to 0x2F, with a SLOT. -/
def LogEntry.head (e : LogEntry) (slot : BitVec 6) : List Byte :=
  e.dataBytes ++ bytesOf 8 (e.hdev.toNat * 2 ^ 47 + e.gran.toNat * 2 ^ 5) ++ bytesOf 4 e.mask.toNat ++
    bytesOf 4 (e.kind.code * 2 ^ 30 + slot.toNat * 2 ^ 24 + (if e.poison then 2 ^ 23 else 0) +
      (if e.kind == .reduction then e.fmt.code.toNat * 2 ^ 18 + e.op.toNat * 2 ^ 14 else 0) +
      (if e.eng then 2 ^ 13 else 0))

/-- The 64 bytes of an entry. -/
def LogEntry.encode (e : LogEntry) : List Byte :=
  let bs := e.head e.slot ++ bytesOf 8 (e.tenant.toNat * 2 ^ 48 + e.lsn.toNat)
  bs ++ bytesOf 8 (Config.checkBits (BitVec.ofNat 448 (natOfBytes bs))).toNat

/-- Appends an entry whose SLOT, TENANT, team and gang are set: it takes the core's LSN (R103). -/
def State.appendEntry (s : State) (core : Nat) (e : LogEntry) : State :=
  let c := s.core core
  s.putCore { c with
    log := c.log ++ [{ e with lsn := c.lsn, state := .logged, spilled := false }], lsn := c.lsn + 1 }.spill

/-- The digest record of an entry that a paired family's team appends (R334). -/
def Team.entryRecord (t : Team) (e : LogEntry) : List Byte := e.head 0 ++ bytesOf 8 0 ++ bytesOf 8 t.lclk.toNat

/-- The LAUNCH that a gang came from (R323). -/
def State.originOf (s : State) (gang : Nat) : Option (Nat × Nat) := (s.gang? gang).bind fun g => g.origin

/-- The tenant whose key a team's accesses go under: TENANT of its gang's TTBASE (R95, R114). -/
def State.keyTenant (s : State) (t : Team) : BitVec 8 := ((s.gangOf? t).map fun g => g.ttbase.extractLsb' 8 8).getD 0

/-- LogAppend (R103): the entry takes the team's SLOT and TENANT and the core's LSN, and LOGT follows, but for an
engine entry. A paired family's team adds a digest record (R334). -/
def State.append (s : State) (t : Team) (e : LogEntry) : State :=
  let lsn := (s.core t.core).lsn
  let paired := (s.familyOf? t).any fun f => f.paired
  let s := s.appendEntry t.core { e with
    slot := t.slot, tenant := s.keyTenant t, team := t.id, gang := t.gang, origin := s.originOf t.gang }
  if e.eng then s
  else s.modTeam t.id fun u =>
    { u with logt := lsn.setWidth 64, records := if paired then u.records ++ u.entryRecord e else u.records }

/-- The HDEV and GRAN fields of a granule's key. -/
def LogEntry.at (e : LogEntry) (gran : Nat) : LogEntry :=
  { e with hdev := BitVec.ofNat 10 (gran / 2 ^ 47), gran := BitVec.ofNat 42 (gran % 2 ^ 47 / 32) }

/-- A plain entry of n bytes at a key, which lie in one granule. -/
def LogEntry.plainAt (key : Nat) (bs : List Byte) (poison : Bool) : LogEntry :=
  { (LogEntry.blank.at (granule key)) with
    data := BitVec.ofNat 256 (natOfBytes (List.replicate (key % 32) 0 ++ bs))
    mask := byteMask (key % 32) bs.length, poison := poison }

/-- A reduction-atomic entry (R208). -/
def LogEntry.reduceAt (key : Nat) (op : BitVec 4) (f : Fmt) (v : Nat) (poison : Bool) (lane : LaneKey) (order : Word)
    (sorted : Bool) : LogEntry :=
  { LogEntry.plainAt key (bytesOf f.bytes v) poison with
    kind := .reduction, op := op, fmt := f, key := lane, order := order, sorted := sorted }

/-- Adds a reduction to the core's atomic buffer (R110, R208). -/
def State.buffer (s : State) (t : Team) (e : LogEntry) : State :=
  s.modCore t.core fun c =>
    { c with abuf := c.abuf ++ [{ e with
        slot := t.slot, tenant := s.keyTenant t, team := t.id, gang := t.gang, origin := s.originOf t.gang }] }

/-- Ascending lane key, then program order (R110). -/
def entryBefore (a b : LogEntry) : Bool :=
  decide (a.key.toNat < b.key.toNat) || (a.key == b.key && decide (a.order.toNat < b.order.toNat))

/-! ## Publication -/

/-- Whether Publish by a team with this TAIL covers an entry: every entry of the team up to TAIL, published before or
not, but engine entries and those of `copy`s that no `cbwait` has published (R106). -/
def LogEntry.coveredBy (e : LogEntry) (team : Nat) (tail : BitVec 48) : Bool :=
  e.team == team && !e.eng && lsnLe e.lsn tail && (!e.copy || !e.unpublished)

/-- TAIL of a team (R104). -/
def Team.tail (t : Team) : BitVec 48 := t.logt.extractLsb' 0 48

/-- Whether an entry has not been applied. -/
def LogEntry.undrained (e : LogEntry) : Bool := e.state != .applied

/-- Records a publication at a core, under a team and a gang, of the entries that `cover` selects and that are not
applied yet; those that no earlier one covers drain under it (R106). -/
def State.recordPubOf (s : State) (core team gang : Nat) (scope : Scope) (cover : LogEntry → Bool) : State :=
  let seq := s.pubSeq
  let num := s.pubNum + 1
  let c := s.core core
  let covered := c.log.filter fun e => e.undrained && cover e
  let s := { s with pubSeq := seq + 1, pubNum := num }
  if covered.isEmpty then s
  else
    let p : Pub :=
      { seq := seq, core := core, team := team, scope := scope, num := num, tick := s.tick, gang := gang
        family := ((s.gang? gang).map fun g => g.family).getD 0, ending := false, lsns := covered.map fun e => e.lsn }
    { s with pubs := s.pubs ++ [p] }.putCore
      { c with log := c.log.map fun (e : LogEntry) => if e.unpublished && cover e then { e with state := .published seq } else e }

/-- Records a publication of a team (R106). -/
def State.recordPub (s : State) (t : Team) (scope : Scope) (cover : LogEntry → Bool) : State :=
  s.recordPubOf t.core t.id t.gang scope cover

/-- Publish(t, S) with a given TAIL (R106); at team scope nothing is recorded. -/
def State.publishTail (s : State) (t : Team) (scope : Scope) (tail : BitVec 48) : State :=
  match scope with
  | .team => s
  | _ => s.recordPub t scope fun e => e.coveredBy t.id tail

/-- Records the publications of a team that wait to be recorded (R225). -/
def State.recordPending (s : State) (team : Nat) : State :=
  match s.team? team with
  | none => s
  | some t =>
    (s.pendPubs.filter fun p => p.1 == team).foldl (fun s p => s.publishTail t p.2.1 p.2.2)
      { s with pendPubs := s.pendPubs.filter fun p => p.1 != team }

/-- Publish(t, S) (R106), after the publications that wait (R225). -/
def State.publish (s : State) (team : Nat) (scope : Scope) : State :=
  let s := s.recordPending team
  match s.team? team with
  | none => s
  | some t => s.publishTail t scope t.tail

/-! ## Drain, application, acknowledgement -/

/-- The publication an entry waits under, if it has not been sent. -/
def LogEntry.unsent (e : LogEntry) : Option Nat :=
  match e.state with
  | .published p => some p
  | _ => none

/-- A flight being formed, with the bytes of its data that are poisoned. -/
structure Forming where
  flight : Flight
  poisoned : BitVec 32

/-- Bytes of `new` where its mask is set, of `old` elsewhere. -/
def mergeBytes (old new : List Byte) (mask : BitVec 32) : List Byte :=
  (List.range 32).map fun i => if mask.getLsbD i then new.getD i 0 else old.getD i 0

/-- Coalesces a plain entry into the last flight that touches its granule, when that is plain (R109); otherwise the
entry flies by itself. -/
def coalesce (core pub : Nat) (fs : List Forming) (e : LogEntry) : List Forming :=
  let alone := fs ++ [{ flight := { core := core, pub := pub, lsns := [e.lsn], entry := e },
                        poisoned := if e.poison then e.mask else 0 }]
  match fs.reverse.find? fun f => f.flight.entry.grans.any fun g => e.grans.contains g with
  | none => alone
  | some f =>
    if f.flight.entry.kind == .plain && e.kind == .plain && f.flight.entry.tenant == e.tenant then
      let o := f.flight.entry
      let bad := (f.poisoned &&& ~~~e.mask) ||| (if e.poison then e.mask else 0)
      let m : LogEntry := { o with
        data := BitVec.ofNat 256 (natOfBytes (mergeBytes o.bytes e.bytes e.mask))
        mask := o.mask ||| e.mask, poison := bad != 0, lsn := e.lsn }
      fs.map fun g =>
        if g.flight.lsns == f.flight.lsns then
          { flight := { f.flight with lsns := f.flight.lsns ++ [e.lsn], entry := m }, poisoned := bad }
        else g
    else alone

/-- Whether an entry's home can be reached; one whose home cannot stays in the log (R346). -/
def State.homeReached (s : State) (e : LogEntry) : Bool := s.reachable e.hdev.toNat

/-- Whether an entry must stay in its log: its family's copies have stopped on a mismatch, and its team has not committed
since it appended it (R334). -/
def State.heldByVote (s : State) (e : LogEntry) : Bool :=
  (s.team? e.team).any fun t =>
    ((s.familyOf? t).any fun f => f.mismatch.isSome) && lsnLe t.committed e.lsn

/-- Whether an entry can leave for its home. -/
def State.mayLeave (s : State) (e : LogEntry) : Bool := s.homeReached e && !s.heldByVote e

/-- Sends the unsent entries of one publication of a core (R109), but those to a device without a route (R346). -/
def State.sendPub (s : State) (core pub : Nat) : State :=
  let c := s.core core
  let ready (e : LogEntry) : Bool := e.unsent == some pub && s.mayLeave e
  let es := c.log.filter ready
  let fs := es.foldl (coalesce core pub) []
  ({ s with flights := s.flights ++ fs.map Forming.flight }.putCore
    { c with log := c.log.map fun (e : LogEntry) => if ready e then { e with state := .sent pub } else e }).syncFlows
      core (fs.map fun (f : Forming) => f.flight.entry.hdev)

/-- The least publication of a core that has unsent entries for homes it can reach. -/
def State.nextUnsent (s : State) (core : Nat) : Option Nat :=
  ((s.core core).log.filter s.mayLeave).foldl (fun m e =>
    match e.unsent, m with
    | none, m => m
    | some p, none => some p
    | some p, some q => some (min p q)) none

/-- Whether two entries have a home in common. -/
def shareHome (a b : LogEntry) : Bool :=
  let hs := a.grans.map homeOf
  b.grans.any fun g => hs.contains (homeOf g)

/-- Whether a flight may be applied: its home is reached (R346), and nothing earlier in publication order waits for one of
its homes (R109). -/
def State.mayApply (s : State) (index : Nat) (f : Flight) : Bool :=
  s.homeReached f.entry && !((s.flights.zipIdx 0).any fun g =>
      (decide (g.1.pub < f.pub) || (g.1.pub == f.pub && decide (g.2 < index))) && shareHome g.1.entry f.entry) &&
  !(s.cores.any fun c => c.log.any fun e =>
      match e.unsent with
      | some p => decide (p < f.pub) && shareHome e f.entry
      | none => false)

/-- Applies a flight at its home and marks its entries (R109). -/
def State.land (s : State) (f : Flight) : State :=
  ((s.applyEntry f.entry).modCore f.core fun c =>
    { c with log := c.log.map fun e =>
        if e.state == .sent f.pub && f.lsns.contains e.lsn then { e with state := .applied } else e }).syncFlows
      f.core [f.entry.hdev]

/-- Removes the applied entries of a core's ring (R109). -/
def State.ack (s : State) (core : Nat) : State :=
  s.modCore core fun c => { c with log := c.log.filter LogEntry.undrained }

/-- Forgets the publications of which nothing is left to apply. -/
def State.prunePubs (s : State) : State :=
  { s with pubs := s.pubs.filter fun p =>
      (s.core p.core).log.any fun e => e.undrained && p.lsns.contains e.lsn }

/-- Applies every publication up to an order number at its homes, and acknowledges it (R108, R109). -/
def State.forceTo (s : State) (seq : Nat) : State :=
  let due := sortBy (fun a b : Pub => decide (a.seq < b.seq)) (s.pubs.filter fun p => decide (p.seq ≤ seq))
  let s := due.foldl (fun s p => s.sendPub p.core p.seq) s
  let lands (f : Flight) : Bool := decide (f.pub ≤ seq) && s.homeReached f.entry
  let fs := sortBy (fun a b : Flight => decide (a.pub < b.pub)) (s.flights.filter lands)
  let s := fs.foldl State.land { s with flights := s.flights.filter fun f => !lands f }
  (due.foldl (fun s p => s.ack p.core) s).prunePubs

/-- Buffered entries that satisfy `sel`. -/
def State.buffered (s : State) (core : Nat) (sel : LogEntry → Bool) : List LogEntry := (s.core core).abuf.filter sel

/-- Whether the log has room for the entries that a flush would append (R103, R111). -/
def State.flushes (s : State) (t : Team) (sel : LogEntry → Bool) : Bool :=
  decide ((s.buffered t.core sel).length ≤ s.appendRoom t.core)

/-- The flush of R110: the selected entries, sorted, appended under the SLOT of the flushing team. -/
def State.flush (s : State) (t : Team) (sel : LogEntry → Bool) : State :=
  let es := sortBy entryBefore (s.buffered t.core sel)
  let s := s.modCore t.core fun c => { c with abuf := c.abuf.filter fun e => !sel e }
  es.foldl (fun s e => s.append t e) s

/-- A flush that cannot wait, of a team that ends: what is published is applied first where the log has no room (R103,
R110, R392). -/
def State.flushNow (s : State) (t : Team) (sel : LogEntry → Bool) : State :=
  (if s.flushes t sel || s.pubSeq = 0 then s else s.forceTo (s.pubSeq - 1)).flush t sel

/-- Publishes at a scope and waits until what it covers is applied (R209, R220, R301). -/
def State.publishAndWait (s : State) (team : Nat) (scope : Scope) : State :=
  let s := s.publish team scope
  if s.pubSeq = 0 then s else s.forceTo (s.pubSeq - 1)

/-! ## Replay -/

/-- The team instance of a scope, as core and gang numbers: whether (core, gang) a and b share it. Each scope takes in
the narrower ones, so a gang shares its core and die wherever it was when it released (R7, R224). -/
def scopeShares (sc : Scope) (coreA gangA coreB gangB : Nat) : Bool :=
  match sc with
  | .team => false
  | .gang => gangA == gangB
  | .core => coreA == coreB || gangA == gangB
  | .die => dieOf coreA == dieOf coreB || gangA == gangB
  | .device | .domain => true

/-- Whether an acquire by a team at a scope, over the cores that `named` selects, covers a publication (R107,
R224). -/
def Pub.covers (p : Pub) (u : Team) (scope : Scope) (named : Nat → Bool) : Bool :=
  scopeShares scope p.core p.gang u.core u.gang && scopeShares p.scope p.core p.gang u.core u.gang && named p.core

/-- The last publication an acquire covers (R108). -/
def State.coveredUpTo (s : State) (u : Team) (scope : Scope) (named : Nat → Bool) : Option Nat :=
  s.pubs.foldl (fun m p => if p.covers u scope named then some (max (m.getD 0) p.seq) else m) none

/-- One more than the last publication an acquire of a team covers; 0 when it covers none (R108). -/
def State.coverage (s : State) (u : Team) (scope : Scope) (named : Nat → Bool) : Nat :=
  match s.coveredUpTo u scope named with
  | none => 0
  | some n => n + 1

/-- Publications from an order number on were made by a spawned lane's exit (R44). -/
def State.markEnding (s : State) (n : Nat) : State :=
  { s with pubs := s.pubs.map fun (p : Pub) => if n ≤ p.seq then { p with ending := true } else p }

/-- One more than the last publication that spawned lanes of a family made as they exited (R44, R227). -/
def State.endings (s : State) (family : Nat) : Nat :=
  s.pubs.foldl (fun m p => if p.ending && p.family == family then max m (p.seq + 1) else m) 0

/-- Applies every publication below an order number at its homes (R108). -/
def State.forceBelow (s : State) (n : Nat) : State := if n = 0 then s else s.forceTo (n - 1)

/-- The publications below an order number become visible to a core; its reads of what they cover come after their
application from then on (R108). -/
def State.see (s : State) (core n : Nat) : State :=
  if n ≤ (s.core core).seen then s else s.modCore core fun c => { c with seen := n }

/-- The publication an entry is applied under, while it is not applied. -/
def LogEntry.under (e : LogEntry) : Option Nat :=
  match e.state with
  | .published p | .sent p => some p
  | _ => none

/-- Whether some granule of a list still waits for an entry of a publication below `n`, of those that `sel` selects by
core. -/
def State.behindIn (s : State) (n : Nat) (grans : List Nat) (sel : Nat → LogEntry → Bool) : Bool :=
  s.cores.any fun c => c.log.any fun e =>
    (match e.under with
      | some p => decide (p < n)
      | none => false) && sel c.n e && e.grans.any fun g => grans.contains g

/-- Whether some granule of a list still waits for an entry of a publication below `n`. -/
def State.behind (s : State) (n : Nat) (grans : List Nat) : Bool := s.behindIn n grans fun _ _ => true

/-- What is visible to a core is applied before it reads some granules at their homes (R108). -/
def State.showTo (s : State) (core : Nat) (grans : List Nat) : State :=
  let n := (s.core core).seen
  if s.behind n grans then s.forceBelow n else s

/-- What is visible to a core is applied before its load reads some granules, but for the plain entries of its own log,
which the load reads there (R105, R108). -/
def State.showLoad (s : State) (core : Nat) (grans : List Nat) : State :=
  let n := (s.core core).seen
  if s.behindIn n grans fun c e => c != core || e.kind != .plain then s.forceBelow n else s

/-- Replay (R108): every covered publication, with what precedes it in publication order, becomes visible to the team's
core. -/
def State.replay (s : State) (team : Nat) (scope : Scope) (named : Nat → Bool) : State :=
  let s := s.recordPending team
  match s.team? team with
  | none => s
  | some u => s.see u.core (s.coverage u scope named)

/-- Every core. -/
def allCores : Nat → Bool := fun _ => true

/-! ## Reading and discarding -/

/-- The youngest undrained plain entry of a log that covers a byte (R105). -/
def youngest (log : List LogEntry) (key : Nat) : Option LogEntry :=
  log.reverse.find? fun e =>
    e.kind == .plain && e.undrained && e.granKey == granule key && e.mask.getLsbD (key % 32)

/-- n bytes at a key as a load of a core reads them (R105, R108, R115), with whether one is poisoned. -/
def State.coreRead (s : State) (core key n : Nat) : List Byte × Bool × State :=
  let k := bareKey key
  let s := s.showLoad core (granulesOf k n)
  let log := ((s.core core).log.filter fun e =>
    e.kind == .plain && e.undrained && (granulesOf k n).contains e.granKey)
  let (home, homeBad, s) := s.homeRead key n
  let bs := (List.range n).map fun i =>
    match youngest log (k + i) with
    | some e => (e.bytes.getD ((k + i) % 32) 0, e.poison)
    | none => (home.getD i 0, homeBad && s.poisoned (granule (k + i)))
  (bs.map Prod.fst, bs.any Prod.snd, s)

/-- Discards a team's unpublished entries (R392). -/
def State.discard (s : State) (t : Team) : State :=
  s.modCore t.core fun c =>
    { c with log := c.log.filter fun e => !(e.team == t.id && e.unpublished)
             abuf := c.abuf.filter fun e => e.team != t.id }

/-! ## Pieces of bulk data (R344, R347) -/

/-- Sends what a run moves at other devices as one request to each owning die, in class 2; a piece that is under way is
not sent again. -/
def State.sendPieces (s : State) (src : BitVec 16) (run : Nat) (keys : List Nat) : State :=
  ((keys.map homeOf).eraseDups.filter fun h => h.1 != s.dev.toNat).foldl (fun (s : State) h =>
    let id := s.bulkFlow src h.1
    let f := s.flow id
    if f.pending.any (fun r => r.addr == pieceKey run h.2) || f.queued.contains (pieceKey run h.2) then s
    else s.sendRequest id none (pieceKey run h.2)) s

end Sys2Proof.Machine
end

