-- ==== Sys2Proof/Machine/Faults.lean ====
section
/-!
DEFINITION. What the HQS and the fault service read and write for a tenant, and the tenant fault queue
(16_scheduling.md R434; 23_faults_execution.md R373; 24_faults_memory.md R382, R383).
-/

namespace Sys2Proof.Machine

/-- The translation of the HQS and the fault service for a tenant: the registered root, as at system level, no
core's cache (R434). -/
def State.hqsCtx (s : State) (tenant : BitVec 8) : TrCtx :=
  let root := (s.tenant tenant).root
  { core := none, tenant := tenant, root := ((root.getD 0).extractLsb' 16 32).toNat, en := root.isSome, sys := true }

/-- Reads bytes for a tenant, with whether one is poisoned; none on a translation fault. -/
def State.hqsRead (s : State) (tenant : BitVec 8) (va : Word) (n : Nat) : Option (List Byte × Bool) × State :=
  match s.translateRange (s.hqsCtx tenant) .load va n with
  | (.error _, s) => (none, s)
  | (.ok parts, s) =>
    let (bs, bad, s) := parts.foldl (fun (acc : List Byte × Bool × State) p =>
      let (b, bad, s) := acc.2.2.homeRead p.1 p.2
      (acc.1 ++ b, acc.2.1 || bad, s)) ([], false, s)
    (some (bs, bad), s)

/-- Writes bytes at keys in order. -/
def State.writeParts (s : State) : List (Nat × Nat) → List Byte → State
  | [], _ => s
  | (key, n) :: ps, bs => (s.homeWrite key (bs.take n)).writeParts ps (bs.drop n)

/-- Writes bytes for a tenant at their homes; false on a translation fault. -/
def State.hqsWrite (s : State) (tenant : BitVec 8) (va : Word) (bs : List Byte) : Bool × State :=
  match s.translateRange (s.hqsCtx tenant) .store va bs.length with
  | (.error _, s) => (false, s)
  | (.ok parts, s) => (true, s.writeParts parts bs)

/-- A 64-bit word for a tenant. -/
def State.hqsWord (s : State) (tenant : BitVec 8) (va : Word) : Option Word × State :=
  match s.hqsRead tenant va 8 with
  | (some (bs, _), s) => (some (BitVec.ofNat 64 (natOfBytes bs)), s)
  | (none, s) => (none, s)

/-- KIND of an entry (R373, R383). -/
def FaultEntry.kind (e : FaultEntry) : BitVec 8 := e.word0.extractLsb' 0 8

/-- Index of the lowest non-empty leaf word; 0 for an empty mask. -/
def lowLeaf (m : Mask) : Nat := ((List.range 32).find? fun w => leafWord m w != 0).getD 0

/-- The 64 bytes of an entry (R373). -/
def FaultEntry.bytes (e : FaultEntry) : List Byte :=
  let (sum, word, leaf) : Nat × Nat × Nat :=
    match e.status with
    | some b => (b.toNat, 0, 0)
    | none => ((summaryWord e.lanes).toNat, lowLeaf e.lanes, (leafWord e.lanes (lowLeaf e.lanes)).toNat)
  bytesOf 4 e.word0.toNat ++ bytesOf 4 e.cause.toNat ++ bytesOf 4 e.gang.toNat ++ bytesOf 4 e.teamIndex.toNat ++
    bytesOf 16 e.key.toNat ++ bytesOf 8 e.pc.toNat ++ bytesOf 8 e.addr.toNat ++ bytesOf 4 sum ++ bytesOf 4 word ++
    bytesOf 4 leaf ++ bytesOf 4 e.core.toNat

/-- The flag word of a fault queue descriptor (R382). -/
def FaultQueue.flags (q : FaultQueue) : List Byte := bytesOf 8 ((if q.ovf then 1 else 0) + (if q.badAck then 2 else 0))

/-- Replaces the fault queue of a tenant. -/
def State.setFaultQueue (s : State) (tenant : BitVec 8) (q : FaultQueue) : State :=
  s.putTenant { s.tenant tenant with queue := some q }

/-- Sets flags of a fault queue and writes the flag word of its descriptor. -/
def State.flagFaultQueue (s : State) (tenant : BitVec 8) (q : FaultQueue) : State :=
  ((s.setFaultQueue tenant q).hqsWrite tenant (q.desc + 0x38) q.flags).2

/-- Writes the oldest waiting entry, if the queue is registered and has room; an entry that finds the ring full sets
OVF and waits (R382). The answer says whether one was written. -/
def State.writeFault (s : State) (tenant : BitVec 8) : Bool × State :=
  let t := s.tenant tenant
  match t.queue, t.waiting with
  | some q, e :: es =>
    if q.broken then (false, s)
    else
      match s.hqsWord tenant (q.desc + 0x18) with
      | (none, s) => (false, s.setFaultQueue tenant { q with broken := true })
      | (some rd, s) =>
        let q := { q with rd := rd }
        if q.wr - rd == BitVec.ofNat 64 (2 ^ q.log2sz) then (false, s.flagFaultQueue tenant { q with ovf := true })
        else
          let at_ := q.ring + BitVec.ofNat 64 (64 * (q.wr.toNat % 2 ^ q.log2sz))
          match s.hqsWrite tenant at_ e.bytes with
          | (false, s) => (false, s.setFaultQueue tenant { q with broken := true })
          | (true, s) =>
            let out := match e.parked with
              | some team => q.outstanding ++ [(q.wr, team)]
              | none => q.outstanding
            let q := { q with wr := q.wr + 1, outstanding := out }
            let s := s.putTenant { s.tenant tenant with waiting := es, queue := some q }
            (true, (s.hqsWrite tenant (q.desc + 0x10) (bytesOf 8 q.wr.toNat)).2.raise 65)
  | _, _ => (false, s)

/-- Writes waiting entries in order while that succeeds. -/
def State.writeFaults : Nat → BitVec 8 → State → State
  | 0, _, s => s
  | n + 1, tenant, s =>
    match s.writeFault tenant with
    | (true, s) => State.writeFaults n tenant s
    | (false, s) => s

/-- Writes what waits of a tenant. -/
def State.flushFaults (s : State) (tenant : BitVec 8) : State :=
  State.writeFaults (s.tenant tenant).waiting.length tenant s

/-- Reports an entry (R382); a KIND 0x05 report merges into a waiting one of its team. -/
def State.postFault (s : State) (tenant : BitVec 8) (e : FaultEntry) : State :=
  let t := s.tenant tenant
  let same (w : FaultEntry) : Bool := w.kind == 5 && e.kind == 5 && w.holder == e.holder
  let waiting :=
    if t.waiting.any same then t.waiting.map fun w => if same w then { w with lanes := w.lanes ||| e.lanes } else w
    else t.waiting ++ [e]
  (s.putTenant { t with waiting := waiting }).flushFaults tenant

/-- An entry about a team, with what the halt entry of R373 holds. -/
def State.teamEntry (s : State) (t : Team) (word0 : BitVec 32) (cause : BitVec 11) (pc addr : Word) (lanes : Mask) :
    FaultEntry :=
  { word0 := word0, cause := cause, teamIndex := t.index.setWidth 8,
    gang := ((s.gangOf? t).map fun g => g.logical).getD 0, key := t.key, pc := pc, addr := addr, lanes := lanes,
    status := none, core := BitVec.ofNat 16 t.core, parked := none, holder := t.id }

end Sys2Proof.Machine
end

