-- ==== Sys2Proof/Machine/Channels.lean ====
section
/-!
DEFINITION. Channels: acceptance, completion and cancellation of runs (14_isa_islands_engines.md R279 to R281;
24_faults_memory.md R382, R383).
-/

namespace Sys2Proof.Machine

/-- Runs of a channel that are accepted and not complete. -/
def Chan.open (c : Chan) : List Run := c.runs.filter fun r => r.status.isNone

/-- Runs a channel holds that are not complete (R279). -/
def channelRuns : Nat := 64

/-- The run with a number. -/
def Chan.run? (c : Chan) (num : Word) : Option Run := c.runs.find? fun r => r.num == num

/-- Replaces a run. -/
def Chan.setRun (c : Chan) (r : Run) : Chan := { c with runs := setWhere (fun q => q.id == r.id) r c.runs }

/-- Raises DONE over the completed runs and keeps the last 64 statuses (R279). -/
def Chan.advance : Nat → Chan → Chan
  | 0, c => c
  | n + 1, c =>
    match c.run? (c.done + 1) with
    | none => c
    | some r =>
      match r.status with
      | none => c
      | some st =>
        Chan.advance n { c with
          done := c.done + 1, runs := c.runs.filter fun q => q.id != r.id
          statuses := ((c.done + 1, st) :: c.statuses).take 64 }

/-- Entries of a channel's faults that wait to be written (R382). -/
def State.waitingFaults (s : State) (c : Chan) : Nat :=
  ((s.tenant c.tenant).waiting.filter fun e => e.holder == c.id).length

/-- A run that reports a fault completes only while fewer than 64 entries of its channel wait (R382). -/
def State.mayComplete (s : State) (c : Chan) (r : Run) : Bool := r.fault.isNone || decide (s.waitingFaults c < 64)

/-- The engine ID of a channel's engine (R278). -/
def Chan.engineId (c : Chan) : BitVec 7 :=
  match c.engine with
  | .bce => 0
  | .gs die => 4 + die.setWidth 7
  | .se k => 8 + k.setWidth 7

/-- Writes the KIND 0x04 entry of a run that ends with status 3 (R383). -/
def State.reportRun (s : State) (c : Chan) (r : Run) (status : BitVec 8) : State :=
  match r.fault with
  | none => s
  | some (code, addr) =>
    s.postFault c.tenant
      { word0 := 4 + (c.engineId.setWidth 32 <<< 16), cause := code.setWidth 11, teamIndex := r.teamIndex.setWidth 8,
        gang := r.gangLogical, key := r.key, pc := r.num, addr := addr, lanes := 0, status := some status,
        core := BitVec.ofNat 16 c.core, parked := none, holder := c.id }

/-- A `copy` of a team has ended (R112, R219). -/
def State.noteCopy (s : State) (r : Run) (fault : Bool) : State :=
  s.modTeam r.team fun t =>
    { t with copies := t.copies.map fun c => if c.run == r.id then { c with done := true, fault := fault } else c }

/-- A run completes with a status (R279, R281). -/
def State.completeRun (s : State) (chan : Nat) (r : Run) (status : BitVec 8) : State :=
  match s.chan? chan with
  | none => s
  | some c =>
    let s := if status == 3 then s.reportRun c r status else s
    let c := c.setRun { r with status := some status, cur := none, loops := [] }
    ((s.putChan (c.advance c.runs.length)).noteCopy r (status == 3)).endPieces r.id

/-- Cuts the log entries of a run to nothing: its engine will hold no data for them. -/
def State.emptySegments (s : State) (core run : Nat) : State :=
  s.modCore core fun c =>
    { c with log := c.log.map fun e => if e.runId == some run then { e with len := 0, held := some [] } else e }

/-- A cancelled drain gives its source back (R265, R280). -/
def State.giveBack (s : State) (c : Chan) (r : Run) : State :=
  match r.kind with
  | .drain _ false h _ _ =>
    match s.family? c.family with
    | none => s
    | some f => s.putFamily { f with
        handles := (f.handles.zipIdx 0).map fun x => if x.2 = h then { x.1 with state := .held } else x.1 }
  | .drain _ true k _ _ =>
    s.modCore c.core fun d => { d with
      tiles := d.tiles.map fun (p : BitVec 8 × Tile) => if p.1.toNat = k then (p.1, { p.2 with state := .ready }) else p }
  | _ => s

/-- Cancels a run that has not started (R280). -/
def State.cancelRun (s : State) (chan : Nat) (r : Run) : State :=
  match s.chan? chan with
  | none => s
  | some c => ((s.emptySegments c.core r.id).giveBack c r).completeRun chan { r with fault := none } 10

/-- Cancels a family's runs that have not started; those not yet accepted complete when they are (R280). -/
def State.cancelRuns (s : State) (family : Nat) : State :=
  (s.chans.filter fun c => c.family == family).foldl (fun s c =>
    let s := (c.open.filter fun r => !r.started).foldl (fun s r => s.cancelRun c.id r) s
    match s.chan? c.id with
    | none => s
    | some d => s.putChan { d with accept := d.accept.map fun r => { r with status := some 10 } }) s

/-- The command of a run has its number (R283). -/
def Team.numbered (t : Team) (run : Nat) (num : Word) : Team :=
  t.mapArms fun a => if a.prog == .command run none then { a with prog := .command run (some num), wait := none } else a

/-- Accepts the oldest waiting run while there is room, and gives it the next number (R279). -/
def State.acceptRun (s : State) (chan : Nat) : State :=
  match s.chan? chan with
  | none => s
  | some c =>
    match c.accept with
    | [] => s
    | r :: rest =>
      if channelRuns ≤ c.open.length then s
      else
        let num := c.issued + 1
        let cancelled := r.status.isSome
        let r := { r with num := num, status := none }
        let s := s.putChan { c with issued := num, accept := rest, runs := c.runs ++ [r] }
        let s := (s.modTeam r.team fun t => { t with en := t.en - 1 }.numbered r.id num).modCore c.core fun d =>
          { d with log := d.log.map fun e => if e.runId == some r.id then { e with run := num } else e }
        if cancelled then s.cancelRun chan r else s

/-- Takes back a run that its channel has not accepted (R376). -/
def State.withdrawRun (s : State) (team run : Nat) : State :=
  match s.chans.find? fun c => c.accept.any fun r => r.id == run with
  | none => s
  | some c =>
    let s := (c.accept.filter fun r => r.id == run).foldl (fun (s : State) r => s.giveBack c r)
      (s.putChan { c with accept := c.accept.filter fun r => r.id != run })
    (s.modTeam team fun t => { t with en := t.en - 1 }).modCore c.core fun d =>
      { d with log := d.log.filter fun e => e.runId != some run }

/-- A new channel of a family on an engine. -/
def Chan.fresh (id : Nat) (e : EngineId) (core family : Nat) (tenant : BitVec 8) : Chan :=
  { id := id, engine := e, core := core, family := family, tenant := tenant, issued := 0, done := 0, statuses := [],
    runs := [], accept := [] }

/-- Channels of an engine (R279). -/
def channelLimit : EngineId → Nat
  | .bce => 1024
  | .gs _ => 64
  | .se _ => 16

/-- The family's channel on an engine, made if there is none and one is free (R279). -/
def State.chanFor (s : State) (f : Family) (tenant : BitVec 8) (e : EngineId) : Option Chan × State :=
  match s.chanOf? f.uid e with
  | some c => (some c, s)
  | none =>
    let live := s.chans.filter fun c => c.engine == e
    if e != .bce && decide (channelLimit e ≤ live.length) then (none, s)
    else
      let (id, s) := s.fresh
      let c := Chan.fresh id e f.core f.uid tenant
      (some c, { s with chans := s.chans ++ [c] })

end Sys2Proof.Machine
end

