-- ==== Sys2Proof/Machine/Gangs.lean ====
section
/-!
DEFINITION. Room on a core, the creation of teams, spawned teams, barriers, the end of a team and of a gang, and the
logical clock (02_execution_model.md R19 to R44; 11_isa_memory_sync.md R214; 16_scheduling.md R314, R319;
17_determinism.md R326 to R328).
-/

namespace Sys2Proof.Machine

/-! ## Room on a core (R34, R319) -/

/-- Register-file bytes of a team (R34). -/
def teamCharge (vcnt size : Nat) : Nat := vcnt * ((size + 31) / 32) * 128

/-- Register-file bytes of a core (R13). -/
def registerFile : Nat := 2 * 2 ^ 20

/-- Whether a gang is resident. -/
def State.gangResident (s : State) (uid : Nat) : Bool :=
  match s.gang? uid with
  | some g => g.core.isSome
  | none => false

/-- Whether a team has ended or halted. -/
def Team.gone (t : Team) : Bool :=
  match t.status with
  | .halted => true
  | _ => false

/-- The teams that hold a place on a core (R26); a swapped-out one keeps its slot (R63). -/
def State.teamsOn (s : State) (core : Nat) : List Team :=
  s.teams.filter fun t => t.core == core && !t.gone && s.gangResident t.gang

/-- The families whose resources a core holds. -/
def State.familiesOn (s : State) (core : Nat) : List Family := s.families.filter fun f => f.core == core && f.resident

/-- The sum of a list. -/
def sumOf (xs : List Nat) : Nat := xs.foldl (· + ·) 0

/-- The families whose shadow a core holds (R333). -/
def State.shadowsOn (s : State) (core : Nat) : List Family :=
  s.families.filter fun f => f.resident && f.shadowCore == some core

/-- Register file a team of a family is charged with n registers: a team in a reserve only what it has grown beyond it
(R34, R42, R62). -/
def Family.chargeOf (f : Family) (t : Team) (n : Nat) : Nat :=
  teamCharge n t.size - (if t.reserve.isSome then f.reserveCharge else 0)

/-- Register file a family's teams are charged beyond its reserves (R34); swapped-out teams are not counted. -/
def State.teamsCharge (s : State) (family : Nat) : Nat :=
  match s.family? family with
  | none => 0
  | some f =>
    sumOf ((s.teams.filter fun t => t.resident && (s.gang? t.gang).any fun g => g.family == family).map fun t =>
      f.chargeOf t t.vcnt)

/-- Slots a family's teams hold outside its reserves. -/
def State.teamsCount (s : State) (family : Nat) : Nat :=
  (s.teams.filter fun t =>
    !t.gone && t.reserve.isNone && (s.gang? t.gang).any fun g => g.family == family).length

/-- Free register file of a core: the reserves of its families are charged (R34, R42), and so are its shadows. -/
def State.freeRf (s : State) (core : Nat) : Nat :=
  registerFile - sumOf ((s.familiesOn core ++ s.shadowsOn core).map fun f =>
    f.nest * f.reserveCharge + s.teamsCharge f.uid)

/-- Whether a core waits to restore a team it swapped out, which goes before grants and admissions (R63). -/
def State.owesRestore (s : State) (core : Nat) : Bool :=
  s.teams.any fun t => t.core == core && t.status == .swappedOut && s.gangResident t.gang

/-- Free team slots of a core, less those of reserves. -/
def State.freeSlots (s : State) (core : Nat) : Nat :=
  64 - sumOf ((s.familiesOn core ++ s.shadowsOn core).map fun f => f.nest + s.teamsCount f.uid)

/-- The lowest team slot no team of a core holds. -/
def State.slotFor (s : State) (core : Nat) : BitVec 6 :=
  let used := (s.teamsOn core).map fun t => t.slot.toNat
  BitVec.ofNat 6 (((List.range 64).find? fun k => !used.contains k).getD 0)

/-- Free gang slots of a core (R27); the gangs of shadows hold slots too. -/
def State.freeGangs (s : State) (core : Nat) : Nat :=
  32 - ((s.gangs.filter fun g => g.core == some core).length +
    sumOf ((s.shadowsOn core).map fun f => (s.gangsOf f.uid).length))

/-- The lowest free gang slot of a core. -/
def State.gangSlotFor (s : State) (core : Nat) : Option (BitVec 5) :=
  let used := (s.gangs.filter fun g => g.core == some core).map fun g => g.gslot.toNat
  if s.freeGangs core = 0 then none
  else ((List.range 32).find? fun k => !used.contains k).map fun k => BitVec.ofNat 5 k

/-- Free accumulator units of a core (R245). -/
def State.freeAcc (s : State) (core : Nat) : Nat :=
  32 - sumOf ((s.familiesOn core ++ s.shadowsOn core).map fun f => f.accUnits)

/-- The gaps that ascending (base, size) ranges leave from `lo` up to `hi`. -/
def gapsFrom (lo hi : Nat) : List (Nat × Nat) → List (Nat × Nat)
  | [] => if lo < hi then [(lo, hi - lo)] else []
  | (b, n) :: rs => (if lo < b then [(lo, b - lo)] else []) ++ gapsFrom (max lo (b + n)) hi rs

/-- The free ranges of a core's scratchpad (R34). -/
def State.freeRanges (s : State) (core : Nat) : List (Nat × Nat) :=
  let held := (s.familiesOn core).map (fun f => (f.partBase, f.partSize)) ++
    (s.shadowsOn core).map fun f => (f.shadowBase, f.partSize)
  gapsFrom 0 scratchBytes (sortBy (fun a b : Nat × Nat => decide (a.1 < b.1)) (held.filter fun r => r.2 != 0))

/-- The lowest base at which a partition fits; an empty one fits anywhere. -/
def State.partFit (s : State) (core size : Nat) : Option Nat :=
  if size = 0 then some 0 else ((s.freeRanges core).find? fun r => decide (size ≤ r.2)).map Prod.fst

/-- Free scratchpad, counted over all free ranges (R319). -/
def State.freeScratch (s : State) (core : Nat) : Nat := sumOf ((s.freeRanges core).map Prod.snd)

/-! ## Creating teams -/

/-- The key of a launched lane (R19). -/
def launchedKey (gang : BitVec 32) (team lane : Nat) : LaneKey :=
  BitVec.ofNat 128 (gang.toNat * 2 ^ 96 + team * 2 ^ 90 + lane * 2 ^ 80)

/-- The depth of a lane: its non-zero spawn fields (R21). -/
def keyDepth (k : LaneKey) : Nat := ((List.range 8).filter fun i => k.toNat / 2 ^ (70 - 10 * i) % 1024 != 0).length

/-- The key of a child: the first zero spawn field takes the ordinal (R21). -/
def childKey (k : LaneKey) (ordinal : Nat) : LaneKey :=
  BitVec.ofNat 128 (k.toNat + ordinal * 2 ^ (70 - 10 * keyDepth k))

/-- A team as it starts (R39, R50), at user level. -/
def Team.make (id : Nat) (g : Gang) (core : Nat) (slot index : BitVec 6) (role : RoleId) (size vcnt scnt : Nat)
    (pc : Word) (keys : List LaneKey) (act : Mask) (tick : Nat) : Team :=
  { id := id, gang := g.uid, home := g.logical, core := core, slot := slot, index := index, role := role,
    spawned := false, depth := 0, reserve := none, size := size, keys := keys, ords := [], joins := [], act := act,
    path := Arm.start pc act 64, stack := [], hpath := Arm.start 0 0 0, vcnt := vcnt, scnt := scnt,
    v := Vector.replicate 64 VReg.zero, s := Vector.replicate 64 0, m := Vector.replicate 8 0,
    o := Vector.replicate 8 VReg.zero, nf := Vector.replicate 16 0x000107B4, om := Vector.replicate 16 0,
    q := Vector.replicate 8 Stream.empty, pathq := 0x40, xfill := 0, vacant := 0, mxs := 0, logt := 0, tstat := 0,
    dbgctl := 0, dm := 0, dmSide := false, sealed := 0, openCopies := 0, copies := [], ld := 0, ap := 0, en := 0, xl := 0,
    retired := 0, issued := 0, base := 0, order := 0, fromGen := 0, arrived := false, arrGen := 0, groupArrived := false,
    groupGen := 0, status := .running, faultMask := 0, firstViolation := none, pend := [], retireAt := tick,
    starveAt := tick, pausedAt := none, acked := none, hangAt := tick, prefetched := [], run := 0, stopNext := false, switchDue := false, records := [], committed := 0 }

/-- The role word of a gang for a role. -/
def Gang.role (g : Gang) (r : RoleId) : Role :=
  let i := match r with
    | .copy => 0
    | .matrix => 1
    | .epilogue => 2
    | .general => 3
  g.roles.getD i { teams := 0, lanes := 1, vregs := 8, sregs := 8 }

/-! ## The logical clock (R326 to R328) -/

/-- An arm has arrived, or all its lanes have exited (R37). -/
def Arm.isArrived (a : Arm) : Bool := a.arrived || a.mask == 0

/-- The arms whose waits decide exclusion: those of the top entry that have not arrived, or the path (R328). -/
def Team.topArms (t : Team) : List Arm :=
  match t.stack with
  | [] => [t.path]
  | e :: _ => [e.arm0, e.arm1].filter fun a => !a.isArrived

/-- Waits that exclude a team (R328); a team whose step has ended issues nothing more and holds back no one (log 30). -/
def Wait.excludes : Wait → Bool
  | .barrier | .groupBarrier | .fullEmpty | .join _ | .step | .stepEnded => true
  | _ => false

/-- Whether a team is excluded (R328). -/
def Team.excluded (t : Team) : Bool :=
  !t.handling && !t.topArms.isEmpty && t.topArms.all fun a =>
    match a.wait with
    | some w => w.excludes
    | none => false

/-- The determinism domain of a team (R325). -/
def State.domainOf (s : State) (t : Team) : Option Nat := (s.gangOf? t).bind fun g => g.domain

/-- Whether every gang of a launch has been placed. -/
def Launch.isPlaced (l : Launch) : Bool := decide (l.gangs ≤ l.placed)

/-- The logical ID of gang g of a launch (R313). -/
def Launch.logical (l : Launch) (g : Nat) : BitVec 32 := BitVec.ofNat 32 (2 ^ 30 + (l.gbase.toNat + g) % 2 ^ 30)

/-- Whether a team's pair comes no later than a clock and key. -/
def Team.noLater (t : Team) (clock : Word) (key : LaneKey) : Bool :=
  decide (t.lclk.toNat < clock.toNat) || (t.lclk == clock && decide (t.key.toNat ≤ key.toNat))

/-- The team's pair is the least among its domain's counted teams (R327). The teams of a launched gang that waits for
room count at LCLK 0, so that placement changes no order (R330, log 65). -/
def State.clockLeast (s : State) (t : Team) : Bool :=
  match s.domainOf t with
  | none => true
  | some d =>
    (s.teams.all fun u =>
      u.id == t.id || u.gone || u.excluded || s.domainOf u != some d || t.noLater u.lclk u.key) &&
    s.launches.all fun l => l.domain != some d || l.isPlaced || t.noLater 0 (launchedKey (l.logical l.placed) 0 0)

/-- Raises BASE so that LCLK is at least c + 1 (R328). -/
def Team.raiseClock (t : Team) (c : Word) : Team :=
  if t.lclk.toNat ≤ c.toNat then { t with base := c + 1 - t.retired } else t

/-- Ends the waits of a team's arms that satisfy `p`; a team so re-admitted has its clock raised past c (R328). -/
def Team.wakeIf (p : Wait → Bool) (c : Option Word) (t : Team) : Team :=
  let hit (a : Arm) : Bool := match a.wait with
    | some w => p w
    | none => false
  let clear (a : Arm) : Arm := if hit a then { a with wait := none } else a
  if hit t.path || t.stack.any fun e => hit e.arm0 || hit e.arm1 then
    let u := { t with path := clear t.path
                      stack := t.stack.map fun e => { e with arm0 := clear e.arm0, arm1 := clear e.arm1 } }
    match c with
    | some c => if t.excluded then u.raiseClock c else u
    | none => u
  else t

/-- Ends waits of the teams that satisfy `sel`. -/
def State.wake (s : State) (sel : Team → Bool) (p : Wait → Bool) (c : Option Word) : State :=
  { s with teams := s.teams.map fun t =>
      if sel t then t.wakeIf p (if (s.domainOf t).isSome then c else none) else t }

/-! ## Spawned teams (R39 to R42) -/

/-- The general role's register counts and the spawn width make a spawned team of these children (R39, R40). -/
def spawnedTeam (id : Nat) (g : Gang) (core : Nat) (slot index : BitVec 6) (reserve : Option Nat) (cs : List Child)
    (tick : Nat) : Team :=
  let r := g.role .general
  let n := cs.length
  let act := maskBelow n
  let word (j : Nat) : VReg :=
    { tag := .fmt .b32, shape := .general (cs.map fun c => c.payload.getD j 0)
      poison := maskOf ((List.range n).filter fun i =>
        match cs[i]? with
        | some c => c.poison.getLsbD j
        | none => false) }
  let t := Team.make id g core slot index .general g.spawnWidth r.vregs r.sregs ((cs.head?.map fun c => c.entry).getD 0)
    (cs.map fun c => c.key) act tick
  { t with
    spawned := true, depth := (cs.map fun c => c.depth).foldl max 0, reserve := reserve
    joins := cs.map fun c => some c.counter
    v := (((t.v.set 0 (word 0)).set 1 (word 1)).set 2 (word 2)).set 3 (word 3)
    base := if 2 ≤ g.level.toNat then
        BitVec.ofNat 64 ((cs.map fun c => c.clock.toNat).foldl max 0 + 1) else 0 }

/-- The lowest team index no live team of a gang has. -/
def State.indexFor (s : State) (gang : Nat) : BitVec 6 :=
  let used := ((s.teamsOf gang).filter fun t => !t.gone).map fun t => t.index.toNat
  BitVec.ofNat 6 (((List.range 64).find? fun k => !used.contains k).getD 0)

/-- Places a released team, to whose core its parents' releases are visible (R227), in a free slot and register file,
else in the reserve of its depth (R42); none when neither has room. -/
def State.seatChild (s : State) (g : Gang) (cs : List Child) : Option State :=
  match g.core, s.family? g.family with
  | some core, some f =>
    let r := g.role .general
    let d := (cs.map fun c => c.depth).foldl max 0
    let place (s : State) (reserve : Option Nat) : State :=
      let (id, s) := (s.see core ((cs.map fun c => c.pubs).foldl max 0)).fresh
      { s with teams := s.teams ++ [spawnedTeam id g core (s.slotFor core) (s.indexFor g.uid) reserve cs s.tick.toNat] }
    if 0 < s.freeSlots core && !s.owesRestore core && decide (teamCharge r.vregs g.spawnWidth ≤ s.freeRf core) then some (place s none)
    else if f.reserves.contains d then none
    else some (place (s.putFamily { f with reserves := d :: f.reserves }) (some d))
  | _, _ => none

/-- Seats released groups in order; a group that waits for its reserve holds back those of its depth (R42). -/
def State.seatGroups (s : State) (g : Gang) : List (List Child) → List Nat → List (List Child) × State
  | [], _ => ([], s)
  | cs :: rest, held =>
    let d := (cs.map fun c => c.depth).foldl max 0
    if held.contains d then
      let (keep, s) := s.seatGroups g rest held
      (cs :: keep, s)
    else
      match s.seatChild g cs with
      | some s => s.seatGroups g rest held
      | none =>
        let (keep, s) := s.seatGroups g rest (d :: held)
        (cs :: keep, s)

/-- Seats what a gang has released and could not place. -/
def State.seatWaiting (s : State) (gang : Nat) : State :=
  match s.gang? gang with
  | none => s
  | some g =>
    if g.released.isEmpty then s
    else
      let (keep, s) := s.seatGroups g g.released []
      { s with gangs := s.gangs.map fun h => if h.uid == gang then { h with released := keep } else h }

/-- Seats the waiting groups of every gang of a core, after room has been freed. -/
def State.seatCore (s : State) (core : Nat) : State :=
  ((s.gangs.filter fun g => g.core == some core && !g.released.isEmpty).map fun g => g.uid).foldl State.seatWaiting s

/-- Children of the spawn queue proper hold 1,024 entries, those of a ring 65,536 (R40, R41). -/
def spawnQueueEntries : Nat := 1024
def spawnRingEntries : Nat := 65536

/-- Children of a core that stand in rings. -/
def State.ringed (s : State) (core : Nat) : List Nat :=
  (s.gangs.filter fun g => g.core == some core).foldl (fun l g => l ++ g.ring) []

/-- Moves ring children into free queue entries, oldest first (R41). -/
def State.refillQueue (s : State) (core : Nat) : State :=
  let q := (s.core core).spawnq
  let ringed := s.ringed core
  let k := spawnQueueEntries - (q.length - ringed.length)
  let moved := ((q.filter fun c => ringed.contains c.uid).take k).map fun c => c.uid
  if moved.isEmpty then s
  else { s with gangs := s.gangs.map fun g => { g with ring := g.ring.filter fun u => !moved.contains u } }

/-- The gathered children of a (gang, entry) group, oldest first. -/
def State.childrenOf (s : State) (core gang : Nat) (entry : Word) : List Child :=
  (s.core core).spawnq.filter fun c => c.gang == gang && c.entry == entry

/-- Takes children out of the queue and ring as released groups of a gang, then seats them. -/
def State.release (s : State) (g : Gang) (core : Nat) (groups : List (List Child)) : State :=
  let uids := groups.foldl (fun l cs => l ++ cs.map fun c => c.uid) []
  let s := s.modCore core fun c => { c with spawnq := c.spawnq.filter fun k => !uids.contains k.uid }
  let s := { s with gangs := s.gangs.map fun (h : Gang) =>
    if h.uid == g.uid then
      { h with released := h.released ++ groups, ring := h.ring.filter fun u => !uids.contains u }
    else h }
  (s.refillQueue core).seatWaiting g.uid

/-- Releases the first spawn width children of a full group (R40). -/
def State.releaseFull (s : State) (gang : Nat) (entry : Word) : State :=
  match s.gang? gang with
  | none => s
  | some g =>
    match g.core with
    | none => s
    | some core =>
      let cs := s.childrenOf core gang entry
      if g.spawnWidth ≤ cs.length then s.release g core [cs.take g.spawnWidth] else s

/-- Releases one partial group. -/
def State.releaseGroup (s : State) (gang : Nat) (entry : Word) : State :=
  match s.gang? gang with
  | none => s
  | some g =>
    match g.core with
    | none => s
    | some core =>
      match s.childrenOf core gang entry with
      | [] => s
      | cs => s.release g core (chunksOf g.spawnWidth (cs.length + 1) cs)

/-- Every partial group of a gang leaves (R40). -/
def State.releasePartials (s : State) (gang : Nat) : State :=
  match (s.gang? gang).bind fun g => g.core with
  | none => s
  | some core =>
    let entries := ((s.core core).spawnq.filter fun c => c.gang == gang).map fun c => c.entry
    entries.eraseDups.foldl (fun s e => s.releaseGroup gang e) s

/-! ## Join counters (R44) -/

/-- Adds to the join counter at a partition offset; a counter that reaches 0 ends the waits on it. -/
def State.counterAdd (s : State) (f : Family) (off : Nat) (delta : Word) (clock : Option Word) : State :=
  let a := f.partBase + off
  let n := BitVec.ofNat 64 (natOfBytes (s.scratchRead f.core a 8)) + delta
  let s := s.scratchWrite f.core a (bytesOf 8 n.toNat)
  if n == 0 then
    s.wake (fun t => (s.gangOf? t).any fun g => g.family == f.uid) (fun w => w == .join off) clock
  else s

/-- The counter decrements of exiting spawned lanes (R44). -/
def State.countDown (s : State) (t : Team) (lanes : List Nat) (clock : Option Word) : State :=
  match s.familyOf? t with
  | none => s
  | some f =>
    lanes.foldl (fun s l =>
      match t.joins.getD l none with
      | some off => s.counterAdd f off.toNat (-1) clock
      | none => s) s

/-! ## Barriers (R214) -/

/-- A barrier generation a has not passed b (signed 32-bit difference). -/
def genLe (a b : BitVec 32) : Bool := decide (0 ≤ (b - a).toInt)

/-- The teams the generation in progress expects (R29, R43). -/
def State.barExpected (s : State) (g : Gang) : List Team :=
  (s.teamsOf g.uid).filter fun t => !t.spawned && !t.gone && genLe t.fromGen g.barGen

/-- Completes the generation in progress if every expected team has arrived (R214). The clock is that of the last
arrival. -/
def State.barStep (s : State) (gang : Nat) (clock : Option Word) : State :=
  match s.gang? gang with
  | none => s
  | some g =>
    let some_ := (s.teamsOf gang).any fun t => !t.gone && t.arrived && genLe g.barGen t.arrGen
    if some_ && (s.barExpected g).all fun t => t.arrived && genLe g.barGen t.arrGen then
      let s := s.putGang
        { g with barGen := g.barGen + 1, barStatus := if g.abandoned then 1 else 0, abandoned := false }
      (s.releasePartials gang).wake (fun t => t.gang == gang && t.arrived && genLe t.arrGen g.barGen)
        (fun w => w == .barrier) clock
    else s

/-- Completes what can complete: at most the generation in progress and the one a joined team has arrived at. -/
def State.barCheck (s : State) (gang : Nat) (clock : Option Word) : State := (s.barStep gang clock).barStep gang clock

/-- The teams a group barrier expects on this device (R32). -/
def State.groupExpected (s : State) (gr : Group) : List Team :=
  s.teams.filter fun t => gr.members.contains t.gang && !t.spawned && !t.gone

/-- Members of other devices that have arrived at the generation in progress (R315). -/
def Group.remoteArrived (gr : Group) : Nat := sumOf ((gr.remote.filter fun r => r.1 == gr.gen).map fun r => r.2.1)

/-- Whether a team that the generation in progress expected has halted, here or on another device (R214). -/
def Group.broken (gr : Group) : Bool := gr.abandoned || gr.remote.any fun r => r.1 == gr.gen && r.2.2

/-- Completes a group barrier when every team of every member gang has arrived (R32, R214). A device tells the others of
a multi-device group when its own members have, and completes when it has heard of all the rest (R315, log 12). -/
def State.groupCheck (s : State) (group : Nat) (clock : Option Word) : State :=
  match s.group? group with
  | none => s
  | some gr =>
    let es := s.groupExpected gr
    if es.isEmpty || !es.all fun t => t.groupArrived && t.groupGen == gr.gen then s
    else
      let s := if gr.mdev && gr.told != some gr.gen then
          s.tellAll (.groupArrival gr.tag gr.tick gr.gen gr.members.length gr.abandoned)
        else s
      if gr.members.length + gr.remoteArrived == gr.total then
        (s.putGroup { gr with gen := gr.gen + 1, barStatus := if gr.broken then 1 else 0, abandoned := false
                              told := some gr.gen, remote := gr.remote.filter fun r => r.1 != gr.gen }).wake
          (fun t => gr.members.contains t.gang) (fun w => w == .groupBarrier) clock
      else s.putGroup { gr with told := some gr.gen }

/-- The multi-device group of a TAG and a TICK (R315). -/
def State.groupNamed (s : State) (tag : BitVec 32) (tick : Word) : Option Group :=
  s.groups.find? fun gr => gr.mdev && gr.tag == tag && gr.tick == tick

/-- Members of another device have arrived at a generation of a group's barrier (R315). -/
def State.remoteArrival (s : State) (tag : BitVec 32) (tick : Word) (gen : BitVec 32) (n : Nat) (abandoned : Bool) :
    State :=
  match s.groupNamed tag tick with
  | none => s
  | some gr => (s.putGroup { gr with remote := gr.remote ++ [(gen, n, abandoned)] }).groupCheck gr.uid none

/-- Members of another device have dissolved (R31, R315). -/
def State.remoteLeave (s : State) (tag : BitVec 32) (tick : Word) (n : Nat) (abandoned : Bool) : State :=
  match s.groupNamed tag tick with
  | none => s
  | some gr =>
    (s.putGroup { gr with total := gr.total - n, abandoned := gr.abandoned || abandoned }).groupCheck gr.uid none

/-! ## The end of a gang and of a family (R31, R314) -/

/-- The KIND 0x05 entries of a gang's teams, whose masks restart empty (R386). -/
def State.reportMasks (s : State) (gang : Nat) (part : Bool) : State :=
  let s := (s.teamsOf gang).foldl (fun s t =>
    if t.faultMask == 0 then s
    else
      let v := t.firstViolation.getD { code := 0x100, pc := 0, addr := 0 }
      s.postFault (s.tenantOf t)
        (s.teamEntry t (if part then 0x105 else 0x005) (v.code.setWidth 11) v.pc v.addr t.faultMask)) s
  { s with teams := s.teams.map fun (t : Team) =>
      if t.gang == gang then { t with faultMask := 0, firstViolation := none } else t }

/-- The reductions that a drain left in a core's atomic buffer after its gang had ended are published when the gang's
family returns its resources (R240, R289, log 68). -/
def State.flushLate (s : State) (core : Nat) : State :=
  let late (e : LogEntry) : Bool := (s.gang? e.gang).isNone
  let es := sortBy entryBefore (s.buffered core late)
  if es.isEmpty then s
  else
    let s := s.modCore core fun c => { c with abuf := c.abuf.filter fun e => !late e }
    let s := es.foldl (fun (s : State) (e : LogEntry) => s.appendEntry core e) s
    s.recordPubOf core 0 0 .device fun e => e.kind == .reduction && e.unpublished && late e

/-- Returns a dissolved family's resources once its BCE channel has DONE equal to ISSUED; channels of die engines
return when theirs are (R31, R279). -/
def State.familyReturn (s : State) (family : Nat) : State :=
  if !(s.gangsOf family).isEmpty then s
  else
    let s := { s with chans := s.chans.filter fun c => !(c.family == family && c.done == c.issued) }
    match s.family? family with
    | none => s
    | some f =>
      if s.chans.any fun c => c.family == family && c.engine == .bce then s
      else
        let s := s.flushLate f.core
        let s := { s with families := s.families.filter fun h => h.uid != family }
        let s := s.modCore f.core fun c =>
          match c.weight with
          | some w => if w.family == family then { c with weight := none } else c
          | none => c
        s.seatCore f.core

/-- Counts a dissolved gang against its launch (R312, R314). -/
def State.launchDissolved (s : State) (g : Gang) : State :=
  match g.queue, g.packet with
  | some q, some p =>
    { s with launches := s.launches.map fun l =>
        if l.queue == q && l.packet == BitVec.ofNat 64 p then { l with dissolved := l.dissolved + 1 } else l }
  | _, _ => s

/-- Dissolves a gang (R31): its masks are reported, its group and its launch lose it, its tile entries become empty,
and its family's resources return when they can. -/
def State.dissolve (s : State) (gang : Nat) : State :=
  match s.gang? gang with
  | none => s
  | some g =>
    let left := g.group.bind s.group?
    let s := s.reportMasks gang false
    let s := match g.core with
      | none => s
      | some core => s.modCore core fun c => { c with
          tiles := c.tiles.map fun (p : BitVec 8 × Tile) => if p.2.gslot == g.gslot then (p.1, { p.2 with state := .empty }) else p }
    let s := { s with
      teams := s.teams.filter fun t => !(t.gang == gang && t.gone)
      gangs := s.gangs.filter fun h => h.uid != gang
      groups := (s.groups.map fun (gr : Group) =>
        if gr.members.contains gang then
          { gr with members := gr.members.filter fun u => u != gang, total := gr.total - 1 }
        else gr).filter fun gr => !gr.members.isEmpty }
    let s := match left with
      | none => s
      | some gr => (if gr.mdev then s.tellAll (.groupLeft gr.tag gr.tick 1 gr.abandoned) else s).groupCheck gr.uid none
    let s := { s with families := s.families.map fun (f : Family) =>
      if f.uid == g.family then { f with past := g.logical :: f.past } else f }
    (s.launchDissolved g).familyReturn g.family

/-- Whether a team has ended its step (R122). -/
def Team.stepEnded (t : Team) : Bool := t.gone || t.path.wait == some .stepEnded

/-- Whether every team of a gang has ended its step (R122). -/
def State.gangStepEnded (s : State) (gang : Nat) : Bool := (s.teamsOf gang).all Team.stepEnded

/-- An island gang retires: its teams go, and it dissolves (R125). -/
def State.retireGang (s : State) (gang : Nat) : State :=
  ({ s with teams := s.teams.map fun (t : Team) =>
      if t.gang == gang then { t with status := .halted, act := 0 } else t }).dissolve gang

/-- A team of an island gang has ended its step, at its clock (R122, R328); in a failed scene a gang all of whose
teams have ended retires (R398). -/
def State.islandEnd (s : State) (g : Gang) (clock : Option Word) : State :=
  match g.island.bind fun r => s.scene? r.scene.toNat with
  | none => s
  | some c =>
    let s := s.putScene { c with lastEnd := clock.getD c.lastEnd }
    if c.failed && s.gangStepEnded g.uid then s.retireGang g.uid else s

/-- Whether a gang's logical ID is of the launched class (R20). -/
def Gang.launched (g : Gang) : Bool := g.logical.extractLsb' 30 2 == 1

/-- A driver's `cstep` ends without having returned: what was regrouped for it is not kept for another (R122, R376). -/
def State.dropDriver (s : State) (team : Nat) : State :=
  { s with scenes := s.scenes.map fun (c : Scene) =>
      { c with drivers := c.drivers.filter fun d => d != team
               result := if c.drivers.head? == some team then none else c.result } }

/-- What follows when a team has left or ended: room is seated, children are released before the gang can dissolve,
barriers may complete, and a gang without teams ends (R31, R314). `ended` says that the team ended rather than left. -/
def State.afterTeam (s : State) (t : Team) (gang : Nat) (ended : Bool) (clock : Option Word) : State :=
  match s.gang? gang with
  | none => s
  | some g =>
    let s := match g.core with
      | some core => s.seatCore core
      | none => s
    let live (s : State) : Bool := (s.teamsOf gang).any fun u => !u.gone
    let s := if live s then s else s.releasePartials gang
    let s := s.barCheck gang clock
    let s := match g.group with
      | some gr => s.groupCheck gr clock
      | none => s
    let waiting := match s.gang? gang with
      | some g => !g.released.isEmpty
      | none => false
    let s := if ended then s.dropDriver t.id else s
    if g.island.isSome then s.islandEnd g clock
    else if live s || waiting then s
    else if ended && g.launched then
      let s := if 1 ≤ g.level.toNat then s.flushNow t fun e => e.gang == gang else s
      let s := match s.team? t.id with
        | some u => s.recordPub u .device fun e => e.coveredBy u.id u.tail
        | none => s
      s.dissolve gang
    else s.dissolve gang

/-- Frees the reserve a team ran in (R42). -/
def State.freeReserve (s : State) (t : Team) : State :=
  match t.reserve, s.familyOf? t with
  | some d, some f => s.putFamily { f with reserves := f.reserves.filter fun e => e != d }
  | _, _ => s

/-- The buffered entries that the end of a team flushes: an island team's own, and those of the gang when a launched
gang's last team ends (R110, R122, R314). -/
def State.endFlush (s : State) (t : Team) (e : LogEntry) : Bool :=
  match s.gangOf? t with
  | none => false
  | some g =>
    1 ≤ g.level.toNat &&
      if g.island.isSome then e.team == t.id
      else g.launched && e.gang == t.gang && (s.teamsOf t.gang).all fun u => u.gone || u.id == t.id

/-- A team ends: its slot, registers and stack are freed (R25). Its record stays until the gang dissolves, for its
fault mask. An island team's end releases at device scope first (R122). -/
def State.endTeam (s : State) (team : Nat) : State :=
  let s := s.recordPending team
  let s := match s.team? team with
    | some t => match s.gangOf? t with
      | some g =>
        if g.island.isSome then
          (if 1 ≤ g.level.toNat then s.flushNow t fun e => e.team == team else s).publish team .device
        else s
      | none => s
    | none => s
  match s.team? team with
  | none => s
  | some t =>
    let s := (s.modTeam team fun t => { t with status := .halted, act := 0, arrived := false, groupArrived := false }).freeReserve t
    s.afterTeam t t.gang true (some t.lclk)

end Sys2Proof.Machine
end

