-- ==== Sys2Proof/Machine/Ops.lean ====
section
/-!
DEFINITION. How an instruction ends: retirement, waits, traps, parking and halts; taking a trap and returning from
one; lanes that exit; arms that switch (02_execution_model.md R25, R36 to R38; 15_system_traps.md R296 to R300;
23_faults_execution.md R369, R373; 24_faults_memory.md R384, R386; 26_faults_reliability_links.md R406).
-/

namespace Sys2Proof.Machine

/-! ## How an instruction can stop -/

/-- Why an instruction does not retire. -/
inductive Stop where
  /-- A precise trap: code, EADDR, and the lanes its rule names; none for Active(t) (R369). -/
  | trap (code : BitVec 9) (eaddr : Word) (mask : Option Mask)
  /-- A recoverable class 3 fault (R384). -/
  | park (code : BitVec 9) (eaddr : Word) (mask : Mask) (acc : AccKind) (level : Nat)
  /-- The instruction waits and issues again (log 17). -/
  | wait (w : Wait)
  /-- A containment halt (R296, R406). -/
  | halt (code : BitVec 9) (eaddr : Word)
  /-- An address no HBM holds (log 11). -/
  | absent (pa : Nat)
  deriving DecidableEq, Repr

/-- What the body of a memory or system instruction does: it changes the state and may stop. -/
abbrev M := EStateM Stop State

/-- How a retiring instruction moves its path. -/
inductive Done where
  /-- To the next instruction. -/
  | next
  /-- To an address. -/
  | goto (pc : Word)
  /-- To the next instruction, and then a trap is taken (R299, R300). -/
  | trapAfter (code : BitVec 9) (eaddr : Word)
  /-- To the next instruction, and then a debug stop is made (R300). -/
  | stopAfter (code : BitVec 9) (eaddr : Word)
  /-- The body has moved the path itself. -/
  | moved
  deriving DecidableEq, Repr

/-- A trap that names no lanes. -/
def trapWith (code : BitVec 9) (eaddr : Word) : Stop := .trap code eaddr none

/-- Stops with `e` if `b`. -/
def stopIf (b : Bool) (e : Stop) : Except Stop Unit := if b then .error e else .ok ()

/-- Stops the body with `e` if `b`. -/
def M.stopIf (b : Bool) (e : Stop) : M Unit := if b then throw e else pure ()

/-- Lifts a pure computation. -/
def M.lift (x : Except Stop α) : M α := fun s =>
  match x with
  | .ok a => .ok a s
  | .error e => .error e s

/-! ## The divergence stack (R36, R37, R176) -/

/-- What a popped entry hands to the path below: the address after its join, its lanes, and its join if it is a table
entry. -/
structure Popped where
  pc : Word
  mask : Mask
  table : Option Word
  deriving DecidableEq, Repr

/-- The running arm of an entry. -/
def Entry.running (e : Entry) : Arm := if e.sel then e.arm1 else e.arm0

/-- The other arm. -/
def Entry.other (e : Entry) : Arm := if e.sel then e.arm0 else e.arm1

/-- Replaces the running arm. -/
def Entry.setRunning (e : Entry) (a : Arm) : Entry := if e.sel then { e with arm1 := a } else { e with arm0 := a }

/-- An arm that continues after a pop; below a table entry of the same join it arrives (R37, R176). -/
def Arm.resume (a : Arm) (p : Popped) (arrived : Bool) : Arm :=
  { a with pc := p.pc, mask := p.mask, arrived := arrived, wait := none, prog := .none }

/-- What an entry hands down when it pops. -/
def Entry.popped (e : Entry) : Popped :=
  { pc := e.join + 4, mask := e.arm0.mask ||| e.arm1.mask, table := if e.table then some e.join else none }

/-- Pops every entry at the top whose arms have both arrived; the answer says whether one popped. -/
def collapse : Option Popped → List Entry → Arm → List Entry × Arm × Bool
  | none, [], path => ([], path, false)
  | some p, [], path => ([], path.resume p false, true)
  | p?, e :: es, path =>
    let e := match p? with
      | none => e
      | some p => e.setRunning (e.running.resume p (e.table && p.table == some e.join))
    if e.arm0.isArrived && e.arm1.isArrived then collapse (some e.popped) es path
    else (e :: es, path, p?.isSome)

/-- Pops what can pop; the starve timer restarts at a pop (R37, R374). -/
def Team.collapse (t : Team) (tick : Nat) : Team :=
  let (stack, path, popped) := Machine.collapse none t.stack t.path
  { t with stack := stack, path := path, starveAt := if popped then tick else t.starveAt }

/-- Issue passes to the other arm of the top entry if it has not arrived, and otherwise stays; the arm that then
issues has a fresh quantum (R38). -/
def Team.passIssue (t : Team) : Team :=
  match t.stack with
  | [] => { t with path := { t.path with quantum := t.quant } }
  | e :: es =>
    let e := if e.other.isArrived then e else { e with sel := !e.sel }
    { t with stack := e.setRunning { e.running with quantum := t.quant } :: es }

/-- After an arm has arrived, issue passes at once, or at level 2 and above once the clock lets it (R38, R327). -/
def Team.arrivalSwitch (t : Team) (level : Nat) : Team :=
  match t.stack with
  | [] => t
  | e :: _ =>
    if e.running.isArrived then (if 2 ≤ level then { t with switchDue := true } else t.passIssue) else t

/-- Waits at which issue passes to the other arm: those of R38, and at level 2 and above only those that exclude
(R329). -/
def Wait.switches (w : Wait) (level : Nat) : Bool :=
  w.excludes || (decide (level < 2) && (w == .counter || w == .sync || w == .engine))

/-! ## Halts (R373, R406) -/

/-- The CAUSE word of a trap (R297). -/
def TrapInfo.cause (i : TrapInfo) : BitVec 11 :=
  i.code.setWidth 11 ||| (if i.arm then 0x200 else 0) ||| (if i.div then 0x400 else 0)

/-- Performs a returning atomic on one element at its home: the old value and its poison; a poisoned granule is not
written (R209). -/
def State.atomicAt (s : State) (key : Nat) (op : BitVec 4) (f : Fmt) (v w : BitVec 64) : Nat × Bool × State :=
  let (bs, bad, s) := s.homeRead key f.bytes
  let o := natOfBytes bs
  if bad then (o, true, s)
  else (o, false, s.homeWrite key (bytesOf f.bytes (atomicOp op.toNat f o v.toNat w.toNat)))

/-- The lanes of an outstanding atomic are performed in ascending order (R209); the old values, with their poison. -/
def State.performAtomic (s : State) (op : BitVec 4) (f : Fmt) :
    List (Nat × BitVec 64 × BitVec 64) → List (Nat × Nat) → List (Nat × Nat × Bool) × State
  | [], _ => ([], s)
  | (l, v, w) :: rest, keys =>
    let key := ((keys.find? fun p => p.1 == l).map Prod.snd).getD 0
    let (o, bad, s) := s.atomicAt key op f v w
    let (os, s) := s.performAtomic op f rest keys
    ((l, o, bad) :: os, s)

/-- The granules of the words an atomic acts on. -/
def keyGranules (keys : List (Nat × Nat)) : List Nat := keys.map fun k => granule (bareKey k.2)

/-- The issued atomics of a halting team complete; none writes a register (R406). -/
def State.finishAtomics (s : State) (t : Team) : State :=
  t.pend.foldl (fun s p =>
    match p.work with
    | .atomic f op lanes keys => ((s.showTo t.core (keyGranules keys)).performAtomic op f lanes keys).2
    | _ => s) s

/-- Frees the trap bank a team holds or waits for; the next waiting team enters by `TRAP_ENTRY` (R64, R380). -/
def State.freeBank (s : State) (t : Team) : State :=
  let c := s.core t.core
  if c.owner == some t.id then s.putCore { c with owner := none }
  else if c.waiting.contains t.id then s.putCore { c with waiting := c.waiting.filter fun u => u != t.id }
  else s

/-- Marks the generations in progress that expected a halted team (R214). -/
def State.abandonBarriers (s : State) (t : Team) : State :=
  if t.spawned then s
  else
    match s.gangOf? t with
    | none => s
    | some g =>
      let s := if genLe t.fromGen g.barGen then s.putGang { g with abandoned := true } else s
      match g.group.bind s.group? with
      | some gr => s.putGroup { gr with abandoned := true }
      | none => s

/-- The halt of a team, in the order of R406. -/
def State.haltTeam (s : State) (team : Nat) (i : TrapInfo) (nest report : Bool) : State :=
  match (s.recordPending team).team? team with
  | none => s
  | some t =>
    let s := ((s.recordPending team).finishAtomics t).discard t
    let s := match s.gangOf? t with
      | some g => s.cancelRuns g.family
      | none => s
    let s := if report then
        s.postFault (s.tenantOf t) (s.teamEntry t (if nest then 0x102 else 0x002) i.cause i.epc i.eaddr i.emask)
      else s
    let s := s.freeBank t
    let s := if i.code == 0x1C2 then s.modCore t.core fun c => { c with halts := recent s.tick.toNat c.halts } else s
    let lanes := if t.spawned then lanesOf t.act t.size else []
    let s := s.countDown t lanes (some t.lclk)
    let s := (s.modTeam team fun u => { u with
      status := .halted, act := 0, pend := [], arrived := false, groupArrived := false }).freeReserve t
    (s.abandonBarriers t).afterTeam t t.gang true (some t.lclk)

/-! ## Taking a trap, and returning from one (R296, R297, R299) -/

/-- The watchdog timers stop (R374). -/
def Team.pauseTimers (t : Team) (tick : Nat) : Team := { t with pausedAt := some (t.pausedAt.getD tick) }

/-- The watchdog timers go on from where they stopped (R374). -/
def Team.resumeTimers (t : Team) (tick : Nat) : Team :=
  match t.pausedAt with
  | none => t
  | some p =>
    { t with pausedAt := none, retireAt := t.retireAt + (tick - p), starveAt := t.starveAt + (tick - p) }

/-- The watchdog timers of a team go on, unless it is saved, stopped for a vote, or may not issue for another reason
(R374, R405). -/
def State.resumeTeam (s : State) (team : Nat) : State :=
  s.modTeam team fun t =>
    if t.status == .running && s.gangResident t.gang && (s.familyOf? t).all fun f => f.mismatch.isNone then
      t.resumeTimers s.tick.toNat
    else t

/-- ADDR of TVEC as an address (R296). -/
def handlerAddr (tvec : Word) : Word := tvec &&& 0x01FFFFFFFFFFFFFE

/-- TSTAT after trap entry: PPL := LVL; LVL, INH and KSW 1; DBG for a debug stop (R297, R300). -/
def tstatEnter (tstat : Word) (dbg : Bool) : Word :=
  ((tstat &&& 1) <<< 4) ||| 0xC1 ||| (if dbg then 0x20 else 0)

/-- Trap entry with the bank free (R297): the bank's registers are written, the level is raised, and the handler path
runs lanes 0 to min(32, size) − 1 at TVEC.ADDR. In a debug stop no handler path runs, and STOP is cleared (R300). -/
def State.enterTrap (s : State) (team : Nat) (i : TrapInfo) : State :=
  match s.team? team with
  | none => s
  | some t =>
    let c := s.core t.core
    let s := s.putCore { c with
      cause := i.cause.setWidth 64, epc := i.epc, eaddr := i.eaddr, emask := i.emask, owner := some team, latches := [] }
    s.putTeam { t.pauseTimers s.tick.toNat with
      tstat := tstatEnter t.tstat i.dbg
      status := if i.dbg then .debugStop else .handler
      hpath := Arm.start (handlerAddr c.tvec) (maskBelow (min 32 t.size)) t.quant
      dbgctl := if i.dbg then t.dbgctl &&& ~~~1 else t.dbgctl
      stopNext := false, hangAt := s.tick.toNat }

/-- What a trap of a team reports, taken at its running arm (R297). -/
def Team.trapInfo (t : Team) (code : BitVec 9) (eaddr : Word) (mask : Mask) (epc : Word) (dbg : Bool) : TrapInfo :=
  { code := code, eaddr := eaddr, emask := mask, epc := epc
    arm := match t.stack with
      | [] => false
      | e :: _ => e.sel
    div := !t.stack.isEmpty, dbg := dbg }

/-- Whether the trap bank of a core is free with no team waiting for it (R64). -/
def Core.bankFree (c : Core) : Bool := c.owner.isNone && c.waiting.isEmpty

/-- A trap (R296): nested, the team halts; without an enabled handler it halts, but for a debug stop; otherwise the
handler is entered, once the bank is free. -/
def State.takeTrap (s : State) (team : Nat) (i : TrapInfo) : State :=
  match s.team? team with
  | none => s
  | some t =>
    let c := s.core t.core
    if t.inh then s.haltTeam team i true true
    else if !i.dbg && !c.tvec.getLsbD 0 then s.haltTeam team i false true
    else if c.bankFree then s.enterTrap team i
    else
      (s.modTeam team fun t => { t.pauseTimers s.tick.toNat with status := .waitingBank i }).putCore { c with
        waiting := c.waiting ++ [team], latches := [] }

/-- TSTAT after a return: LVL := PPL; INH, DBG and KSW 0 (R299). -/
def tstatReturn (tstat : Word) : Word := (tstat &&& 0x10) ||| ((tstat >>> 4) &&& 1)

/-- The return from a trap (R299): level, INH, DBG and KSW, the path that resumes at EPC, the bank. -/
def State.returnTrap (s : State) (team : Nat) : State :=
  match s.team? team with
  | none => s
  | some t =>
    let c := s.core t.core
    let t := { t with tstat := tstatReturn t.tstat, status := .running }
    let t := if c.cause.getLsbD 10 then
        match t.stack with
        | [] => { t with path := { t.path with pc := c.epc } }
        | e :: es =>
          let e := { e with sel := c.cause.getLsbD 9 }
          { t with stack := e.setRunning { e.running with pc := c.epc } :: es }
      else { t with path := { t.path with pc := c.epc } }
    ((s.putTeam t).putCore { c with owner := none, latches := [] }).resumeTeam team

/-! ## Lanes that exit (R25, R44, R177, R386) -/

/-- Clears exited lanes from the team's masks, the handler path's among them, and pops what can pop (R25, R37). -/
def Team.clearLanes (t : Team) (gone : Mask) (tick level : Nat) : Team :=
  let keep (a : Arm) : Arm := { a with mask := a.mask &&& ~~~gone }
  let t := { t with
    act := t.act &&& ~~~gone, path := keep t.path, hpath := keep t.hpath
    stack := t.stack.map fun (e : Entry) => { e with arm0 := keep e.arm0, arm1 := keep e.arm1 } }
  (t.collapse tick).arrivalSwitch level

/-- Lanes exit: spawned ones release at gang scope and lower their join counters (R44); without lanes left the team
ends (R25). -/
def State.exitLanes (s : State) (team : Nat) (gone : Mask) : State :=
  match s.team? team with
  | none => s
  | some t =>
    let lanes := lanesOf (gone &&& t.act) t.size
    let s := if t.spawned then ((s.publish team .gang).markEnding s.pubSeq).countDown t lanes (some t.lclk) else s
    let s := s.modTeam team fun t => t.clearLanes gone s.tick.toNat (s.levelOf t)
    match s.team? team with
    | some t => if t.act == 0 && !t.gone then (s.freeBank t).endTeam team else s
    | none => s

/-- Switches lanes off after a violation of the instruction at `pc` (R386): lane, code and address of each,
ascending. -/
def State.switchOff (s : State) (team : Nat) (pc : Word) (bad : List (Nat × BitVec 9 × Word)) : State :=
  match bad, s.team? team with
  | (_, code, addr) :: _, some _ =>
    let mask := maskOf (bad.map Prod.fst)
    let v : Violation := { code := code, pc := pc, addr := addr }
    (s.modTeam team fun t => { t with
      faultMask := t.faultMask ||| mask, firstViolation := some (t.firstViolation.getD v) }).exitLanes team mask
  | _, _ => s

/-! ## Retiring and stopping -/

/-- The running arm goes on at an address, with nothing left of a wait. -/
def Team.moveTo (t : Team) (pc : Word) : Team := t.setArm { t.arm with pc := pc, wait := none, prog := .none }

/-- Restarts the retire timer of the path that retires an instruction (R374, R380). -/
def Team.restartRetire (t : Team) (handling : Bool) (tick : Nat) : Team :=
  if handling then { t with hangAt := tick } else { t with retireAt := tick }

/-- Counts a retired instruction; RET and the logical clock count those that were issued at user level (R180). -/
def Team.countRetired (t : Team) (user : Bool) (tick : Nat) : Team :=
  { t.restartRetire t.handling tick with
    retired := if user then t.retired + 1 else t.retired, issued := t.issued + 1 }

/-- Retires an instruction of `len` bytes that team `t` issued. -/
def State.retire (s : State) (t : Team) (len : Nat) (f : Done) : State :=
  let tick := s.tick.toNat
  let after := t.arm.pc + BitVec.ofNat 64 len
  let user := !t.isSystem
  match f with
  | .next => s.modTeam t.id fun u => (u.moveTo after).countRetired user tick
  | .goto pc => s.modTeam t.id fun u => (u.moveTo pc).countRetired user tick
  | .moved => s.modTeam t.id fun u =>
      { u.restartRetire t.handling tick with
        retired := if user then u.retired + 1 else u.retired, issued := u.issued + 1 }
  | .trapAfter code eaddr =>
    let s := s.modTeam t.id fun u => (u.moveTo after).countRetired user tick
    s.takeTrap t.id (t.trapInfo code eaddr t.active after false)
  | .stopAfter code eaddr =>
    let s := s.modTeam t.id fun u => (u.moveTo after).countRetired user tick
    s.takeTrap t.id (t.trapInfo code eaddr t.active after true)

/-- ACC of a KIND 0x01 entry (R383). -/
def accCode (acc : AccKind) : Nat :=
  match acc with
  | .load => 0
  | .store => 1
  | .atomic => 2
  | .reduction => 3
  | .fullEmpty => 4
  | .fetch => 5
  | .bulkLoad => 6

/-- Parks a team on a recoverable fault and reports it (R384). -/
def State.parkTeam (s : State) (t : Team) (i : TrapInfo) (acc : AccKind) (level : Nat) : State :=
  let s := s.modTeam t.id fun u =>
    { (u.setArm { u.arm with wait := none, prog := .none }).pauseTimers s.tick.toNat with status := .parked i acc level }
  let word0 := BitVec.ofNat 32 (1 + level * 2 ^ 8 + accCode acc * 2 ^ 16)
  s.postFault (s.tenantOf t) { s.teamEntry t word0 i.cause i.epc i.eaddr i.emask with parked := some t.id }

/-- The running arm waits; issue may pass to the other arm (R38). -/
def State.setWait (s : State) (t : Team) (w : Wait) : State :=
  let level := s.levelOf t
  s.modTeam t.id fun u =>
    let a := u.arm
    let u := u.setArm { a with wait := some w, since := if a.wait.isSome then a.since else s.tick.toNat }
    if w.switches level && !u.handling && !u.stack.isEmpty then u.passIssue else u

/-- What a blocked instruction has done is given up: of a `spawn`, the count of the children it has not gathered; of a
driver's `cstep`, its place; of an engine command, the run that its channel has not accepted (R376). -/
def State.abandon (s : State) (t : Team) : State :=
  let s := if t.arm.wait == some .step then s.dropDriver t.id else s
  match t.arm.prog, s.familyOf? t with
  | .spawning _ off todo, some f => s.counterAdd f off (-(BitVec.ofNat 64 todo.length)) none
  | .command run none, _ => s.withdrawRun t.id run
  | _, _ => s

/-- An instruction of team `t` stops. -/
def State.stop (s : State) (t : Team) (e : Stop) : State :=
  let clear (s : State) : State :=
    (s.abandon t).modTeam t.id fun u => u.setArm { u.arm with wait := none, prog := .none }
  match e with
  | .trap code eaddr mask => (clear s).takeTrap t.id (t.trapInfo code eaddr (mask.getD t.active) t.arm.pc false)
  | .park code eaddr mask acc level =>
    let i := t.trapInfo code eaddr mask t.arm.pc false
    if t.inh then s.haltTeam t.id i true true else s.parkTeam t i acc level
  | .wait w => s.setWait t w
  | .halt code eaddr => s.haltTeam t.id (t.trapInfo code eaddr t.active t.arm.pc false) false true
  | .absent _ => s

/-- Issues an instruction of `len` bytes for the team whose turn it is: the body, then retirement, or what its stop
calls for. -/
def issue (len : Nat) (body : Team → M Done) (s : State) : Host.Outcome State Fault Refusal :=
  match s.issuer? with
  | none => .fault .noTeam
  | some t =>
    match body t s with
    | .ok f s => .next (s.retire t len f)
    | .error (.absent pa) _ => .fault (.absent pa)
    | .error e s => .next (s.stop t e)

/-! ## What bodies share -/

/-- An operation of R327 waits until its team's pair is the least of its domain; one that waits under R328 has passed
the test. -/
def M.gate (t : Team) : M Unit := fun s =>
  let passed := match t.arm.wait with
    | some w => w.excludes
    | none => false
  if passed || s.levelOf t < 2 || s.clockLeast t then .ok () s else .error (.wait .clock) s

/-- Instructions that a handler may not issue: a nested trap (R297, R372). -/
def M.notInHandler (t : Team) : M Unit := M.stopIf t.handling (trapWith 0x08C 0)

/-- An empty divergence stack is required; EADDR is the depth (R372). -/
def M.emptyStack (t : Team) : M Unit :=
  M.stopIf (!t.stack.isEmpty) (trapWith 0x088 (BitVec.ofNat 64 t.stack.length))

/-- A counter of R178: `.ld` also counts the full/empty accesses that wait (R211). -/
def Team.counter (t : Team) (c : BitVec 2) : Nat :=
  match c.toNat with
  | 0 => t.ld + (t.arms.filter fun a => a.wait == some .fullEmpty).length
  | 1 => t.ap
  | 2 => t.en
  | _ => t.xl

/-- An instruction that would raise a counter above 63 waits at issue (R178). -/
def M.countable (t : Team) (c : BitVec 2) : M Unit := M.stopIf (decide (63 ≤ t.counter c)) (.wait .other)

/-- The team as it stands now. -/
def M.team (id : Nat) : M Team := fun s =>
  match s.team? id with
  | some t => .ok t s
  | none => .error (.wait .other) s

/-- Changes the team. -/
def M.modTeam (id : Nat) (f : Team → Team) : M Unit := modify fun s => s.modTeam id f

/-- Remembers what a waiting instruction has done. -/
def M.setProg (id : Nat) (p : Prog) : M Unit := M.modTeam id fun t => t.setArm { t.arm with prog := p }

end Sys2Proof.Machine
end

