-- ==== Sys2Proof/Machine/Operands.lean ====
section
/-!
DEFINITION. Operands: reading scalars and vectors with their checks, writing results with shape and latches
(03_registers.md R51 to R58; 08_encoding.md R153, R154, R161; 15_system_traps.md R298; 23_faults_execution.md R371).
-/

namespace Sys2Proof.Machine

/-! ## What an instruction on registers sees -/

/-- A team with the trap-bank registers and latches of its core: all that an instruction on registers reads or
writes. -/
structure View where
  team : Team
  k : Vector Word 16
  kv : Vector VReg 4
  latches : List LatchSlot
  deriving DecidableEq, Repr

/-- The view of a team on a core. -/
def View.of (t : Team) (c : Core) : View := { team := t, k := c.k, kv := c.kv, latches := c.latches }

/-- Puts a view back. -/
def State.putView (s : State) (v : View) : State :=
  let s := s.putTeam v.team
  let c := s.core v.team.core
  if c.k = v.k ∧ c.kv = v.kv ∧ c.latches = v.latches then s
  else s.putCore { c with k := v.k, kv := v.kv, latches := v.latches }

/-- The view of a team now. -/
def M.view (id : Nat) : M View := fun s =>
  match s.team? id with
  | some t => .ok (View.of t (s.core t.core)) s
  | none => .error (.wait .other) s

/-- Puts a view back. -/
def M.putView (v : View) : M Unit := modify fun s => s.putView v

/-- Reads from the team's registers as they stand. -/
def M.read (t : Team) (f : View → Except Stop α) : M α := do M.lift (f (← M.view t.id))

/-- Changes the team's registers. -/
def M.regs (t : Team) (f : View → Except Stop View) : M Unit := do M.putView (← M.read t f)

/-- An instruction that only reads and writes registers. -/
def regOp (len : Nat) (f : View → Except Stop View) (s : State) : Host.Outcome State Fault Refusal :=
  issue len (fun t s =>
    match f (View.of t (s.core t.core)) with
    | .ok v => .ok .next (s.putView v)
    | .error e => .error e s) s

/-! ## Class 1 reports (R371) -/

/-- EADDR of class 1: WANT, HAVE, POS, SPEC. -/
def regAddr (want have_ pos spec : Nat) : Word :=
  BitVec.ofNat 64 (want * 2 ^ 14 + have_ * 2 ^ 9 + pos * 2 ^ 7 + spec)

/-- Operand positions: 0 SA or BASE, 1 SB, 2 IX, 3 destination. -/
def posSA : Nat := 0
def posSB : Nat := 1
def posIX : Nat := 2
def posD : Nat := 3

/-- A class 1 trap without tags. -/
def regTrap (code : BitVec 9) (pos spec : Nat) : Stop := trapWith code (regAddr 0 0 pos spec)

/-! ## Scalars -/

/-- KSW names the trap bank, which only system level may (R64, R298). -/
def View.bankCheck (v : View) (pos r : Nat) : Except Stop Unit :=
  stopIf (!v.team.isSystem) (regTrap 0x045 pos r)

/-- Whether a scalar register number names the trap bank (R298). -/
def View.namesK (v : View) (r : BitVec 6) : Bool := v.team.ksw && decide (48 ≤ r.toNat)

/-- Whether a vector register number names the trap bank (R298). -/
def View.namesKv (v : View) (r : BitVec 6) : Bool := v.team.ksw && decide (60 ≤ r.toNat)

/-- The count check of a scalar field (R33, R161). -/
def View.checkS (v : View) (pos : Nat) (r : BitVec 6) : Except Stop Unit :=
  if v.namesK r then v.bankCheck pos r.toNat
  else stopIf (decide (v.team.scnt ≤ r.toNat)) (regTrap 0x040 pos r.toNat)

/-- The value of a scalar register, the trap bank's under KSW. -/
def View.scalar (v : View) (r : BitVec 6) : Word :=
  if v.namesK r then v.k.getD (r.toNat - 48) 0 else v.team.s.getD r.toNat 0

/-- A small immediate (R153). -/
def immValue (i : BitVec 5) : Int := (i.toNat : Int) - 16

/-- Reads a scalar-class operand. -/
def View.readS (v : View) (pos : Nat) (a : SSrc) : Except Stop Word :=
  match a with
  | .imm i => .ok (BitVec.ofInt 64 (immValue i))
  | .s r => do
    v.checkS pos r
    return v.scalar r

/-- The BASE field of format M, which KSW does not affect (R298, R371). -/
def View.readBase (v : View) (b : BitVec 4) : Except Stop Word := do
  stopIf (decide (v.team.scnt ≤ b.toNat)) (regTrap 0x040 posSA b.toNat)
  return v.team.s.getD b.toNat 0

/-- Writes a scalar register, the trap bank's under KSW. -/
def View.setS (v : View) (r : BitVec 6) (x : Word) : View :=
  if v.namesK r then { v with k := v.k.setIfInBounds (r.toNat - 48) x }
  else { v with team := { v.team with s := v.team.s.setIfInBounds r.toNat x } }

/-- Checks a scalar destination and writes it. -/
def View.writeS (v : View) (r : BitVec 6) (x : Word) : Except Stop View := do
  v.checkS posD r
  return v.setS r x

/-! ## Vector registers -/

/-- Whether an issued instruction still has to write a register: the one it names, or the one after it of a pair. -/
def Pending.writes (p : Pending) (r : VTarget) : Bool :=
  p.target == some r ||
    (p.pair && (match p.target, r with
      | some (.v a), .v b => a + 1 == b
      | some (.kv a), .kv b => a + 1 == b
      | _, _ => false))

/-- Whether an instruction was issued by the path that issues now: for some of its lanes (R35, R38). -/
def Team.issuedBy (t : Team) (p : Pending) : Bool := p.mask &&& t.active != 0

/-- Where a vector register number leads (R64). -/
def View.targetOf (v : View) (r : BitVec 6) : VTarget := if v.namesKv r then .kv (r.toNat - 60) else .v r.toNat

/-- Whether an issued instruction of this path still has to write a register; those of another arm, in other lanes, do
not hold it back (R35, R38, R162, R178). -/
def View.busy (v : View) (r : BitVec 6) : Bool :=
  v.team.pend.any fun p => v.team.issuedBy p && p.writes (v.targetOf r)

/-- The register a number names. -/
def View.vreg (v : View) (r : BitVec 6) : VReg :=
  if v.namesKv r then v.kv.getD (r.toNat - 60) VReg.zero else v.team.v.getD r.toNat VReg.zero

/-- Replaces the register a number names. -/
def View.setVreg (v : View) (r : BitVec 6) (x : VReg) : View :=
  if v.namesKv r then { v with kv := v.kv.setIfInBounds (r.toNat - 60) x }
  else { v with team := { v.team with v := v.team.v.setIfInBounds r.toNat x } }

/-- The count check of one vector register field (R33, R64). -/
def View.checkV1 (v : View) (pos : Nat) (r : BitVec 6) : Except Stop Unit :=
  if v.namesKv r then v.bankCheck pos r.toNat
  else stopIf (decide (v.team.vcnt ≤ r.toNat)) (regTrap 0x040 pos r.toNat)

/-- The count and pair checks of a vector register field: the count of the register the field names, the pair's
evenness, then the count of its second register (R33, R54, R161). -/
def View.checkV (v : View) (pos : Nat) (r : BitVec 6) (pair : Bool) : Except Stop Unit := do
  v.checkV1 pos r
  if pair then
    stopIf (r.getLsbD 0) (regTrap 0x042 pos r.toNat)
    v.checkV1 pos (r + 1)
  stopIf (v.busy r || (pair && v.busy (r + 1))) (.wait .register)

/-- A vector operand as read: its registers, `hi` for a pair, and whether it is a pair. -/
structure Src where
  lo : VReg
  hi : VReg
  pair : Bool
  deriving DecidableEq, Repr

/-- The tag of an operand. -/
def Src.tag (a : Src) : Tag := a.lo.tag

/-- The element of lane l as a number: 64 bits for a pair. -/
def Src.val (a : Src) (l : Nat) : Nat :=
  if a.pair then (a.lo.read l).toNat + 2 ^ 32 * (a.hi.read l).toNat else (a.lo.read l).toNat

/-- Whether a shape is uniform. -/
def Shape.isUniform : Shape → Bool
  | .uniform _ => true
  | _ => false

/-- Whether an operand is uniform. -/
def Src.uniform (a : Src) : Bool := a.lo.shape.isUniform && (!a.pair || a.hi.shape.isUniform)

/-- The poison of the lanes of an operand. -/
def Src.poison (a : Src) : Mask := if a.pair then a.lo.poison ||| a.hi.poison else a.lo.poison

/-- A uniform register. -/
def VReg.uniformOf (tag : Tag) (x : Nat) : VReg := { tag := tag, shape := .uniform (BitVec.ofNat 32 x), poison := 0 }

/-- A uniform operand of a format from the bits of its element (R56). -/
def Src.uniformOf (f : Fmt) (bits : Nat) : Src :=
  { lo := VReg.uniformOf (.fmt f) (f.place bits % 2 ^ 32), hi := VReg.uniformOf (.fmt f) (bits / 2 ^ 32)
    pair := f.isPair }

/-- The bits of an integer converted exactly to a format; b32 and pk take its two's complement (R56, R182). -/
def immBits (f : Fmt) (i : Int) : Nat :=
  match f.float with
  | some g => g.round (XVal.ofInt i) .rne 0
  | none => wrapBits f.bits i

/-- A small immediate as an operand of a format. -/
def Src.imm (f : Fmt) (i : BitVec 5) : Src := Src.uniformOf f (immBits f (immValue i))

/-- FmtCheck (R56). -/
def fmtCheck (a : Src) (wants : List Tag) (pos spec : Nat) : Except Stop Unit :=
  match wants with
  | [] => .ok ()
  | w :: _ =>
    stopIf (!wants.contains a.tag) (trapWith 0x041 (regAddr w.code.toNat a.tag.code.toNat pos spec))

/-- Both registers of a pair carry the pair's tag (R54, R56). -/
def pairCheck (a : Src) (pos spec : Nat) : Except Stop Unit :=
  stopIf (a.pair && a.hi.tag != a.lo.tag)
    (trapWith 0x041 (regAddr a.lo.tag.code.toNat a.hi.tag.code.toNat pos (spec + 1)))

/-- Reads a register, the operand file or a latch; `pair` says what to read. The count and pair checks come first,
then a latch's validity (R59, R161). -/
def View.fetch (v : View) (pos : Nat) (a : VSrc) (pair : Tag → Bool) : Except Stop Src :=
  match a with
  | .imm i => .ok (Src.imm .s32 i)
  | .v r => do
    v.checkV1 pos r
    stopIf (v.busy r) (.wait .register)
    let p := pair (v.vreg r).tag
    v.checkV pos r p
    return { lo := v.vreg r, hi := if p then v.vreg (r + 1) else VReg.zero, pair := p }
  | .o r => do
    let lo := v.team.o.getD r.toNat VReg.zero
    let p := pair lo.tag
    stopIf (p && r.getLsbD 0) (regTrap 0x042 pos (64 + r.toNat))
    return { lo := lo, hi := if p then v.team.o.getD (r.toNat + 1) VReg.zero else VReg.zero, pair := p }
  | .x r =>
    match v.latches[r.toNat]? with
    | none => .error (regTrap 0x043 pos (72 + r.toNat))
    | some (.due _) => .error (.wait .register)
    | some (.held l) => .ok { lo := l.lo, hi := l.hi.getD VReg.zero, pair := l.hi.isSome }

/-- Reads an operand that must carry a format (R56). -/
def View.readV (v : View) (pos : Nat) (a : VSrc) (f : Fmt) : Except Stop Src :=
  match a with
  | .imm i => .ok (Src.imm f i)
  | _ => do
    let x ← v.fetch pos a fun _ => f.isPair
    fmtCheck x [.fmt f] pos a.bits.toNat
    pairCheck x pos a.bits.toNat
    return x

/-- Reads an operand that must carry one of several single-register tags; an immediate takes the first. -/
def View.readOneOf (v : View) (pos : Nat) (a : VSrc) (fs : List Fmt) : Except Stop Src :=
  match a with
  | .imm i => .ok (Src.imm (fs.headD .s32) i)
  | _ => do
    let x ← v.fetch pos a fun _ => false
    fmtCheck x (fs.map .fmt) pos a.bits.toNat
    return x

/-- Reads an operand of any tag but a pair tag, which is pair misuse; an immediate takes format f (R187). -/
def View.readSingle (v : View) (pos : Nat) (a : VSrc) (f : Fmt) : Except Stop Src :=
  match a with
  | .imm i => .ok (Src.imm f i)
  | _ => do
    let x ← v.fetch pos a fun _ => false
    stopIf x.tag.isPair (regTrap 0x042 pos a.bits.toNat)
    return { x with pair := false }

/-- Reads an operand of any tag, pairs as pairs; an immediate is s32 (R193). -/
def View.readAny (v : View) (pos : Nat) (a : VSrc) : Except Stop Src := do
  let x ← v.fetch pos a Tag.isPair
  pairCheck x pos a.bits.toNat
  return x

/-- Reads the destination as a source of a format (R154). -/
def View.readD (v : View) (vd : BitVec 6) (f : Fmt) : Except Stop Src := do
  v.checkV posD vd f.isPair
  let x : Src := { lo := v.vreg vd, hi := if f.isPair then v.vreg (vd + 1) else VReg.zero, pair := f.isPair }
  fmtCheck x [.fmt f] posD vd.toNat
  pairCheck x posD vd.toNat
  return x

/-- The active lanes of the issuing path. -/
def View.active (v : View) : Mask := v.team.active

/-- A computing instruction halts its team on a poisoned active lane (R182). -/
def View.consume (v : View) (xs : List Src) : Except Stop Unit :=
  stopIf (xs.any fun x => x.poison &&& v.active != 0) (.halt 0x1C0 0)

/-! ## Results (R52, R53, R58) -/

/-- The values of the active lanes as a general register, which is then merged with the old one. -/
def View.general (v : View) (tag : Tag) (f : Nat → Nat) (poison : Mask) : VReg :=
  { tag := tag
    shape := .general ((List.range v.team.size).map fun l => if v.active.getLsbD l then BitVec.ofNat 32 (f l) else 0)
    poison := poison &&& v.active }

/-- A result computed lane by lane: uniform when `uniform`, general otherwise. `f` gives an element's bits in place,
64 for a pair. -/
def View.lanewise (v : View) (tag : Tag) (uniform : Bool) (f : Nat → Nat) : Res :=
  if uniform then
    let x := f 0
    { lo := VReg.uniformOf tag (x % 2 ^ 32), hi := if tag.isPair then some (VReg.uniformOf tag (x / 2 ^ 32)) else none }
  else
    { lo := v.general tag (fun l => f l % 2 ^ 32) 0
      hi := if tag.isPair then some (v.general tag (fun l => f l / 2 ^ 32) 0) else none }

/-- A single-register result of a given shape. -/
def Res.ofShape (tag : Tag) (shape : Shape) : Res := { lo := { tag := tag, shape := shape, poison := 0 }, hi := none }

/-- The lanes a register has, and those a covering write has active (R53); a kv register has the handler path's. -/
def View.extent (v : View) (kv : Bool) : Nat × Mask :=
  if kv then (32, maskBelow (min 32 v.team.size)) else (v.team.size, v.team.act)

/-- Whether a write covers (R53). -/
def View.covers (v : View) (kv : Bool) : Bool := (v.extent kv).2 &&& ~~~v.active == 0

/-- Whether a shape is general. -/
def Shape.isGeneral : Shape → Bool
  | .general _ => true
  | _ => false

/-- A result over an old value: uniform or affine as it is when the write covers, else general, with the old value in
every lane outside the active ones, exited lanes and those beyond a handler path's among them (R53, R182). -/
def View.merge (v : View) (kv : Bool) (old new : VReg) : VReg :=
  if v.covers kv && !new.shape.isGeneral then new
  else
    let n := (v.extent kv).1
    { tag := new.tag
      shape := .general ((List.range n).map fun l => if v.active.getLsbD l then new.read l else old.read l)
      poison := (new.poison &&& v.active) ||| (old.poison &&& ~~~v.active &&& maskBelow n) }

/-- Places a result in x0 (R58). -/
def View.latch (v : View) (l : LatchSlot) : View := { v with latches := (l :: v.latches).take 4 }

/-- Writes a vector result to its destination, unless `nw`, and to the latches. The destination has been checked. -/
def View.put (v : View) (vd : BitVec 6) (nw : Bool) (r : Res) : View :=
  let kv := v.namesKv vd
  let lo := v.merge kv (v.vreg vd) r.lo
  let hi := r.hi.map fun h => v.merge kv (v.vreg (vd + 1)) h
  let w := if nw then v
    else
      match hi with
      | none => v.setVreg vd lo
      | some h => (v.setVreg vd lo).setVreg (vd + 1) h
  w.latch (.held { lo := lo, hi := hi })

/-- Checks a vector destination and writes a result. -/
def View.writeV (v : View) (vd : BitVec 6) (nw : Bool) (r : Res) : Except Stop View := do
  v.checkV posD vd r.hi.isSome
  return v.put vd nw r

/-! ## Masks and narrow formats -/

/-- A mask register (R23). -/
def View.mask (v : View) (m : BitVec 3) : Mask := v.team.m.getD m.toNat 0

/-- Writes a mask register: bits at or above the team size are 0 (R166). -/
def View.setMask (v : View) (m : BitVec 3) (x : Mask) : View :=
  { v with team := { v.team with m := v.team.m.setIfInBounds m.toNat (x &&& maskBelow v.team.size) } }

/-- The narrow format register a tag names. -/
def View.nf (v : View) (k : BitVec 4) : BitVec 32 := v.team.nf.getD k.toNat 0

end Sys2Proof.Machine
end

