-- ==== Sys2Proof/Machine/Fetch.lean ====
section
/-!
DEFINITION. Reading code: translation faults as stops, parcels, and the two parcels of an instruction
(08_encoding.md R149 to R151; 24_faults_memory.md R381, R384; 26_faults_reliability_links.md R404).
-/

namespace Sys2Proof.Machine

/-- The codes of class 3 that park a team (R381). -/
def recoverable (code : BitVec 9) : Bool := code == 0x0C1 || code == 0x0C2 || code == 0x0C3

/-- What a failed translation of lanes `mask` at an address calls for (R381). -/
def TrErr.stop (e : TrErr) (acc : AccKind) (addr : Word) (mask : Mask) : Stop :=
  match e with
  | .absent pa => .absent pa
  | .fault code level => if recoverable code then .park code addr mask acc level else .trap code addr (some mask)

/-- n code bytes at an address, for the lanes that issue: translated as a fetch, read at their homes, where what an
acquire has made visible to the core is applied first (R151); a poisoned granule halts the team (R150, R393). -/
def M.code (t : Team) (addr : Word) (n : Nat) : M (List Byte) := fun s =>
  match s.translateRange (s.teamCtx t) .fetch addr n with
  | (.error (e, _), s) => .error (e.stop .fetch addr t.active) s
  | (.ok parts, s) =>
    let s := s.showTo t.core (parts.flatMap fun p => granulesOf (bareKey p.1) p.2)
    let (bs, bad, s) := parts.foldl (fun (acc : List Byte × Bool × State) p =>
      let (b, bad, s) := acc.2.2.homeRead p.1 p.2
      (acc.1 ++ b, acc.2.1 || bad, s)) ([], false, s)
    if bad then .error (.halt 0x1C6 addr) s else .ok bs s

/-- The parcel at an address: one fetched ahead, or read now (R151). -/
def M.parcel (t : Team) (addr : Word) : M (BitVec 16) :=
  match t.prefetched.find? fun p => p.1 == addr with
  | some p => pure p.2
  | none => do return BitVec.ofNat 16 (natOfBytes (← M.code t addr 2))

/-- The instruction at an address: its parcels as a 32-bit value, and whether it has two (R149, R150). -/
def M.fetchAt (t : Team) (pc : Word) : M (BitVec 32 × Bool) := do
  let lo ← M.parcel t pc
  if lo.getLsbD 0 then
    let hi ← M.parcel t (pc + 2)
    return (hi ++ lo, true)
  else return (lo.setWidth 32, false)

/-- The instruction at the running arm's PC. -/
def M.fetch (t : Team) : M (BitVec 32 × Bool) := M.fetchAt t t.arm.pc

end Sys2Proof.Machine
end

