-- ==== Sys2Proof/Machine/Control.lean ====
section
/-!
DEFINITION. Branches, divergence, exit, counters, clock and identity reads, majors 28 to 31
(09_isa_scalar_control.md R167 to R181; 02_execution_model.md R35 to R38), and the hint space (08_encoding.md R159).
-/

namespace Sys2Proof.Machine

/-! ## Shared -/

/-- An address a signed number of parcels from the PC (R167). -/
def parcelsFrom (pc : Word) (off : BitVec n) : Word := pc + (off.signExtend 64 <<< 1)

/-- A uniform branch (R168). -/
def branchIf (cond : Word → Bool) (off : BitVec 16) (sa : SSrc) (t : Team) : M Done := do
  let a ← M.read t fun v => v.readS posSA sa
  return if cond a then .goto (parcelsFrom t.arm.pc off) else .next

/-- Writes the link register, without a count check (R169, R298). -/
def M.link (t : Team) : M Unit := M.regs t fun v => .ok (v.setS 63 (t.arm.pc + 4))

/-- An indirect transfer: a target with bit 0 set traps (R170). -/
def M.target (a : Word) : M Unit := M.stopIf (a.getLsbD 0) (trapWith 0x086 a)

/-! ## Divergence (R36, R171, R176) -/

/-- Pushes an entry; arm 0 takes the first turn (R173). The starve timer starts when the first entry comes to lie below
another (R374). -/
def Team.push (t : Team) (join : Word) (pc0 : Word) (mask0 : Mask) (pc1 : Word) (mask1 : Mask) (table : Bool)
    (tick : Nat) : Team :=
  { t with starveAt := if t.stack.length ≤ 1 then tick else t.starveAt, stack :=
      { join := join, arm0 := Arm.start pc0 mask0 t.quant, arm1 := Arm.start pc1 mask1 t.quant, sel := false
        table := table } :: t.stack }

/-- Entries of the divergence stack (R35). -/
def stackEntries : Nat := 32

/-- The lowest-indexed lane of a mask decides which of two sets is arm 0 (R36). -/
def firstIn (a b : Mask) : Bool := ctzBits 1024 a.toNat < ctzBits 1024 b.toNat

/-- `bdiv` (R171). -/
def divergeBy (off : BitVec 12) (joff : BitVec 10) (ms : BitVec 3) (t : Team) : M Done := do
  let m ← M.read t fun v => .ok (v.mask ms)
  let taken := t.active &&& m
  let fall := t.active &&& ~~~m
  let pc := parcelsFrom t.arm.pc off
  if fall == 0 then return .goto pc
  else if taken == 0 then return .next
  else
    M.notInHandler t
    M.stopIf (decide (stackEntries ≤ t.stack.length)) (trapWith 0x080 32)
    let join := t.arm.pc + (joff.setWidth 64 <<< 1)
    let after := t.arm.pc + 4
    let tick := (← get).tick.toNat
    M.modTeam t.id fun u =>
      if firstIn taken fall then u.push join pc taken after fall false tick
      else u.push join after fall pc taken false tick
    return .moved

/-- `rcv`: the arm arrives at its entry's join; elsewhere a no-op (R37). -/
def arrive (t : Team) : M Done := do
  match t.handling, t.stack with
  | false, e :: _ =>
    if e.join == t.arm.pc then
      let s ← get
      M.modTeam t.id fun u =>
        ((u.setArm { u.arm with arrived := true, wait := none, prog := .none }).collapse s.tick.toNat).arrivalSwitch
          (s.levelOf t)
      return .moved
    else return .next
  | _, _ => return .next

/-- `pause`: issue passes to the other arm, at level 2 and above once the clock lets it (R38, R327). -/
def yieldArm (t : Team) : M Done := do
  let s ← get
  M.modTeam t.id fun u =>
    let u := u.moveTo (t.arm.pc + 4)
    if t.handling || t.stack.isEmpty then u
    else if 2 ≤ s.levelOf t then { u with switchDue := true }
    else u.passIssue
  return .moved

/-! ## Branch tables (R174 to R176) -/

/-- HK and payload of a word of the hint space. -/
def hintOf (w : BitVec 32) : Option (Nat × BitVec 20) :=
  if w.extractLsb' 0 7 == 0x7F then some ((w.extractLsb' 27 5).toNat, w.extractLsb' 7 20) else none

/-- The 32-bit words of a byte list. -/
def wordsOf (bs : List Byte) (n : Nat) : List (BitVec 32) :=
  (List.range n).map fun i => BitVec.ofNat 32 (fieldOf bs (4 * i) 4)

/-- The byte offsets of a target list; none when it is malformed (R174). -/
def M.targets (t : Team) : M (Option (List Word)) := do
  let header := BitVec.ofNat 32 (natOfBytes (← M.code t (t.arm.pc + 4) 4))
  match hintOf header with
  | some (2, p) =>
    if 1 ≤ p.toNat ∧ p.toNat ≤ 1024 then
      let ws := wordsOf (← M.code t (t.arm.pc + 8) (4 * p.toNat)) p.toNat
      return ws.mapM fun w =>
        match hintOf w with
        | some (1, q) => some (q.signExtend 64 <<< 1)
        | _ => none
    else return none
  | _ => return none

/-- Whether an address may be fetched from (R175). -/
def M.mapped (t : Team) (addr : Word) : M Bool := fun s =>
  match s.translate (s.teamCtx t) .fetch addr with
  | (.error (.fault _ _), s) => .ok false s
  | (_, s) => .ok true s

/-- The first check a lane's offset fails: 2 alignment, 3 membership, 4 mapping (R175). -/
def M.targetCheck (t : Team) (targets : List Word) (off : Word) : M (Option Nat) := do
  if off.getLsbD 0 then return some 2
  else if !targets.contains off then return some 3
  else if !(← M.mapped t (t.arm.pc + off)) then return some 4
  else return none

/-- `brtab` (R174 to R176). -/
def branchTable (va : VSrc) (t : Team) : M Done := do
  let a ← M.read t fun v => do
    let a ← v.readV posSA va .s32
    v.consume [a]
    return a
  let off (l : Nat) : Word := (a.lo.read l).signExtend 64
  match ← M.targets t with
  | none => throw (.trap 0x085 0 (some t.active))
  | some targets =>
    let checks ← t.lanes.mapM fun l => do return (l, ← M.targetCheck t targets (off l))
    match checks.filterMap fun c => c.2.map fun d => (c.1, d) with
    | (l, d) :: bad =>
      let first := ((l, d) :: bad).foldl (fun m c => min m c.2) 4
      throw (.trap (0x080 + BitVec.ofNat 9 first) (off l) (some (maskOf (((l, d) :: bad).map Prod.fst))))
    | [] =>
      let groups := (t.lanes.map off).eraseDups
      match groups with
      | [] => return .next
      | [d] => return .goto (t.arm.pc + d)
      | d :: _ =>
        M.notInHandler t
        M.stopIf (decide (stackEntries < t.stack.length + (groups.length - 1)))
          (trapWith 0x081 (BitVec.ofNat 64 groups.length))
        let mine := maskOf (t.lanes.filter fun l => off l == d)
        let join := t.arm.pc + 8 + BitVec.ofNat 64 (4 * targets.length)
        let tick := (← get).tick.toNat
        M.modTeam t.id fun u => u.push join (t.arm.pc + d) mine t.arm.pc (t.active &&& ~~~mine) true tick
        return .moved

/-! ## Ending lanes, counters (R177 to R179) -/

/-- `exit` (R177): waits for loads and appends; a spawned lane's release waits for the clock (R327). In a handler it
ends every lane of the team (R299). -/
def exitActive (t : Team) : M Done := do
  M.stopIf (t.counter 0 != 0 || t.ap != 0) (.wait .other)
  if t.spawned then M.gate t
  let gone := if t.handling then t.act else t.active
  M.stopIf (gone == t.act && !(← get).flushes t ((← get).endFlush t)) (.wait .logFull)
  modify fun s => (s.modTeam t.id fun u => u.moveTo (t.arm.pc + 4)).exitLanes t.id gone
  return .moved

/-! ## Identity (R181) -/

/-- The scalar that `rdid` gives. -/
def State.identity (s : State) (t : Team) (sel : Nat) : Word :=
  let g := s.gangOf? t
  let level := s.levelOf t
  let core := BitVec.ofNat 64 t.core
  match sel with
  | 0 => t.key.extractLsb' 64 64
  | 1 => t.key.extractLsb' 0 64
  | 2 => ((g.map fun (h : Gang) => h.logical).getD 0).setWidth 64
  | 3 => BitVec.ofNat 64 t.size
  | 4 => if 2 ≤ level then BitVec.ofNat 64 ((g.map fun (h : Gang) => h.vcore).getD 0) else core
  | 5 => s.dev.setWidth 64
  | 6 => BitVec.ofNat 64 level ||| (if (g.map fun (h : Gang) => h.checked).getD false then 4 else 0)
  | 7 => (s.tenantOf t).setWidth 64
  | 12 => core
  | _ => BitVec.ofNat 64 (((s.familyOf? t).map fun f => f.partBase).getD 0)

/-- The key word `rdid` gives for each active lane: uniform or affine for a launched team (R52, R181). -/
def View.keyWord (v : View) (i : Nat) : Res :=
  let word (l : Nat) : Nat := (v.team.laneKey l).toNat / 2 ^ (32 * i) % 2 ^ 32
  if v.team.spawned then v.lanewise (.fmt .n32) false word
  else
    Res.ofShape (.fmt .n32)
      (if i = 2 then .affine (BitVec.ofNat 32 (word 0)) 0x10000 else .uniform (BitVec.ofNat 32 (word 0)))

/-! ## The instructions -/

/-- `bz` (R168). -/
def execBz (off : BitVec 16) (sa : SSrc) (s : State) : Host.Outcome State Fault Refusal :=
  issue 4 (branchIf (fun a => a == 0) off sa) s

/-- `bnz` (R168). -/
def execBnz (off : BitVec 16) (sa : SSrc) (s : State) : Host.Outcome State Fault Refusal :=
  issue 4 (branchIf (fun a => a != 0) off sa) s

/-- `bltz` (R168). -/
def execBltz (off : BitVec 16) (sa : SSrc) (s : State) : Host.Outcome State Fault Refusal :=
  issue 4 (branchIf (fun a => a.msb) off sa) s

/-- `bgez` (R168). -/
def execBgez (off : BitVec 16) (sa : SSrc) (s : State) : Host.Outcome State Fault Refusal :=
  issue 4 (branchIf (fun a => !a.msb) off sa) s

/-- `bdiv` (R171). -/
def execBdiv (off : BitVec 12) (joff : BitVec 10) (ms : BitVec 3) (s : State) : Host.Outcome State Fault Refusal :=
  issue 4 (divergeBy off joff ms) s

/-- `jmp` (R169). -/
def execJmp (off : BitVec 24) (s : State) : Host.Outcome State Fault Refusal :=
  issue 4 (fun t => return .goto (parcelsFrom t.arm.pc off)) s

/-- `call` (R169). -/
def execCall (off : BitVec 24) (s : State) : Host.Outcome State Fault Refusal :=
  issue 4 (fun t => do
    M.link t
    return .goto (parcelsFrom t.arm.pc off)) s

/-- `ret` (R170). -/
def execRet (s : State) : Host.Outcome State Fault Refusal :=
  issue 4 (fun t => do
    let a ← M.read t fun v => .ok (v.scalar 63)
    M.target a
    return .goto a) s

/-- `jr` (R170). -/
def execJr (sa : SSrc) (s : State) : Host.Outcome State Fault Refusal :=
  issue 4 (fun t => do
    let a ← M.read t fun v => v.readS posSA sa
    M.target a
    return .goto a) s

/-- `callr`: the target is read before the link is written (R170). -/
def execCallr (sa : SSrc) (s : State) : Host.Outcome State Fault Refusal :=
  issue 4 (fun t => do
    let a ← M.read t fun v => v.readS posSA sa
    M.target a
    M.link t
    return .goto a) s

/-- `brtab` (R174 to R176). -/
def execBrtab (va : VSrc) (s : State) : Host.Outcome State Fault Refusal := issue 4 (branchTable va) s

/-- `rcv` (R37, R172). -/
def execRcv (s : State) : Host.Outcome State Fault Refusal := issue 4 arrive s

/-- `pause` (R38, R172). -/
def execPause (s : State) : Host.Outcome State Fault Refusal := issue 4 yieldArm s

/-- `exit` (R177). -/
def execExit (s : State) : Host.Outcome State Fault Refusal := issue 4 exitActive s

/-- `wcnt` (R179). -/
def execWcnt (c : BitVec 2) (n : BitVec 6) (s : State) : Host.Outcome State Fault Refusal :=
  issue 4 (fun t => do
    M.stopIf (decide (n.toNat < t.counter c)) (.wait .counter)
    return .next) s

/-- `rdclk` (R180). -/
def execRdclk (ret : Bool) (sd : BitVec 6) (s : State) : Host.Outcome State Fault Refusal :=
  issue 4 (fun t => do
    let s ← get
    M.regs t fun v => v.writeS sd (if ret || 2 ≤ s.levelOf t then t.retired else s.tick)
    return .next) s

/-- `rdid` (R181). -/
def execRdid (k : BitVec 4) (sd : BitVec 6) (s : State) : Host.Outcome State Fault Refusal :=
  issue 4 (fun t => do
    let s ← get
    M.regs t fun v =>
      if 8 ≤ k.toNat ∧ k.toNat < 12 then v.writeV sd false (v.keyWord (k.toNat - 8))
      else v.writeS sd (s.identity t k.toNat)
    return .next) s

/-- `nop` (R159). -/
def execNop (s : State) : Host.Outcome State Fault Refusal := issue 4 (fun _ => return .next) s

/-- A target entry, met as an instruction (R159). -/
def execTargetEntry (_ : BitVec 20) (s : State) : Host.Outcome State Fault Refusal :=
  issue 4 (fun _ => return .next) s

/-- A target list header, met as an instruction (R159). -/
def execTargetListHeader (_ : BitVec 20) (s : State) : Host.Outcome State Fault Refusal :=
  issue 4 (fun _ => return .next) s

/-- Any other word of the hint space (R159). -/
def execHint (_ : BitVec 5) (_ : BitVec 20) (s : State) : Host.Outcome State Fault Refusal :=
  issue 4 (fun _ => return .next) s

end Sys2Proof.Machine
end

