-- ==== Sys2Proof/Machine/Flags.lean ====
section
/-!
DEFINITION. Shapes and flags that results leave behind: the affine rules of R52, VACANT and XFILL (R195, R196), and
the flags of MXS (13_isa_matrix_stream.md R251).
-/

namespace Sys2Proof.Machine

/-! ## Affine shapes (R52) -/

/-- Base and stride of a uniform or affine shape. -/
def Shape.affine? : Shape → Option (Elem × Elem)
  | .uniform u => some (u, 0)
  | .affine b d => some (b, d)
  | .general _ => none

/-- The shape of a sum or difference (R52). -/
def addShape (sub : Bool) (a b : Shape) : Option Shape :=
  match a.affine?, b.affine? with
  | some (x, d), some (y, e) =>
    let base := if sub then x - y else x + y
    some (if a.isUniform && b.isUniform then .uniform base else .affine base (if sub then d - e else d + e))
  | _, _ => none

/-- The shape of a product (R52). -/
def mulShape (a b : Shape) : Option Shape :=
  match a, b with
  | .uniform x, .uniform y => some (.uniform (x * y))
  | .affine x d, .uniform c => some (.affine (x * c) (d * c))
  | .uniform c, .affine x d => some (.affine (x * c) (d * c))
  | _, _ => none

/-- The shape of a left shift (R52). -/
def shlShape (a b : Shape) : Option Shape :=
  match a, b with
  | .uniform x, .uniform c => some (.uniform (x <<< (c.toNat % 32)))
  | .affine x d, .uniform c => some (.affine (x <<< (c.toNat % 32)) (d <<< (c.toNat % 32)))
  | _, _ => none

/-! ## Vacant reads (R195, R196) -/

/-- Marks the lanes that read a vacant source (R195). -/
def View.noteVacant (v : View) (lanes : Mask) : View :=
  { v with team := { v.team with vacant := v.team.vacant ||| lanes } }

/-- Whether lane s is vacant to the issuing path (R25). -/
def View.isVacant (v : View) (s : Nat) : Bool := decide (v.team.size ≤ s) || !v.active.getLsbD s

/-- Fill(va): FILL under the tag; for a pair, FILL in the high register and 0 in the low (R196). -/
def View.fill (v : View) (tag : Tag) : Elem × Elem :=
  let w := v.team.xfill.toNat % 2 ^ 32
  if tag.isPair then (0, BitVec.ofNat 32 w) else (BitVec.ofNat 32 (tag.place v.nf w), 0)

/-! ## MXS (R251) -/

/-- MXS bits: NMTRAP 3, NMBAD 2, SAT 1, OVF 0. -/
def mxsNmtrap (mxs : Word) : Bool := mxs.getLsbD 3

/-- Sets flags of MXS; they stay set until software clears them (R251, R396). -/
def Team.raiseMxs (t : Team) (nmbad sat ovf : Bool) : Team :=
  { t with mxs := t.mxs ||| (if nmbad then 4 else 0) ||| (if sat then 2 else 0) ||| (if ovf then 1 else 0) }

end Sys2Proof.Machine
end

