-- ==== Sys2Proof/Machine/Convert.lean ====
section
/-!
DEFINITION. Conversions, major 14, and packed dot products, major 19 (10_isa_vector.md R190 to R192; 04_numbers.md
R77, R83).
-/

namespace Sys2Proof.Machine

/-! ## cvt (R190, R191) -/

/-- The mode of a `cvt`: RM, or DEFRND of the destination's narrow format register for `.rnf` (R191). -/
def cvtMode (v : View) (df : Tag) (rm : BitVec 3) : RMode :=
  match rm.toNat, df with
  | 4, _ => .sr
  | 5, .nf k => narrowDefRnd (v.nf k)
  | _, _ => rmodeOf (rm.setWidth 2)

/-- A rounding code or SAT bit outside the row of source and target; b32 and pk are judged as integers (R190). -/
def cvtDisallowed (src df : Tag) (sat : Bool) (rm : BitVec 3) (mode : RMode) : Bool :=
  cvtBarred df sat rm ||
    if df.isFloating then mode == .sr && !stochasticOk src df
    else if src.isFloating then sat
    else rm != 0

/-- `cvt` (R190, R191): a code barred for every source comes before the source is read at all, the others as soon as
its tag is known (R161). -/
def convert (df : Tag) (sat : Bool) (va : VSrc) (vd : BitVec 6) (nw : Bool) (rm : BitVec 3) (v : View) :
    Except Stop View := do
  let barred := trapWith 0x005 ((encodeWord (.cvt df sat va vd nw rm)).setWidth 64)
  stopIf (cvtBarred df sat rm) barred
  let tag := (← v.fetch posSA va fun _ => false).tag
  let mode := cvtMode v df rm
  stopIf (cvtDisallowed tag df sat rm mode) barred
  let a ← v.readAny posSA va
  stopIf (tag.kind v.nf == .raw) (trapWith 0x04B 0)
  let compute (u : Bool) (rnd : Nat → Nat) : Res := v.lanewise df u fun l =>
    df.place v.nf (cvtLane (tag.kind v.nf) (df.kind v.nf) sat mode (rnd l) (a.val l))
  if mode == .sr then
    let d ← v.readD vd .n32
    v.consume [a, d]
    return v.put vd nw (compute (a.uniform && d.uniform) fun l => d.val l % 2 ^ 16)
  else
    v.checkV posD vd df.isPair
    v.consume [a]
    return v.put vd nw (compute a.uniform fun _ => 0)

/-- `cvt[.sat].<df>[.rm]` (R190, R191). -/
def execCvt (df : Tag) (sat : Bool) (va : VSrc) (vd : BitVec 6) (nw : Bool) (rm : BitVec 3) (s : State) :
    Host.Outcome State Fault Refusal :=
  regOp 4 (convert df sat va vd nw rm) s

/-! ## dot (R192) -/

/-- The slot width of a packed element of a narrow width (R77). -/
def slotWidth (w : Nat) : Nat := if w ≤ 4 then 4 else 8

/-- The exact products of two packed words, slot by slot (R77, R192). -/
def slotProducts (slot : Nat) (fa fb : Nat → XVal) (a b : Elem) : List XVal :=
  (List.range (32 / slot)).map fun i =>
    (fa (a.toNat / 2 ^ (slot * i) % 2 ^ slot)).mul (fb (b.toNat / 2 ^ (slot * i) % 2 ^ slot))

/-- A packed dot product: one chunk, no flags (R192). -/
def dotLanes (af : AccFmt) (f : Fmt) (slot : Nat) (fa fb : Nat → XVal) (bad : Bool) (vb va : VSrc) (vd : BitVec 6)
    (nw : Bool) (v : View) : Except Stop View := do
  let a ← v.readV posSA va .pk
  let b ← v.readV posSB vb .pk
  let d ← v.readD vd f
  stopIf bad (trapWith 0x04A 0)
  v.consume [a, b, d]
  return v.put vd nw (v.lanewise (.fmt f) (a.uniform && b.uniform && d.uniform) fun l =>
    (chunkSum af (d.val l) { sat := false, ovf := false } [slotProducts slot fa fb (a.lo.read l) (b.lo.read l)]).1)

/-- `dot.f32.bf16` (R192). -/
def execDotF32Bf16 (vb va : VSrc) (vd : BitVec 6) (nw : Bool) (s : State) : Host.Outcome State Fault Refusal :=
  regOp 4 (dotLanes .f32 .f32 16 fmtBf16.value fmtBf16.value false vb va vd nw) s

/-- `dot.f32.f16` (R192). -/
def execDotF32F16 (vb va : VSrc) (vd : BitVec 6) (nw : Bool) (s : State) : Host.Outcome State Fault Refusal :=
  regOp 4 (dotLanes .f32 .f32 16 fmtF16.value fmtF16.value false vb va vd nw) s

/-- `dot.s32.s8` (R192). -/
def execDotS32S8 (vb va : VSrc) (vd : BitVec 6) (nw : Bool) (s : State) : Host.Outcome State Fault Refusal :=
  regOp 4 (dotLanes .s32 .s32 8 (fun b => XVal.ofInt (intOf true 8 b)) (fun b => XVal.ofInt (intOf true 8 b)) false
    vb va vd nw) s

/-- `dot.f32.nf`: va under `nf0`, vb under `nf1`, of equal slot width (R192). -/
def execDotF32Nf (vb va : VSrc) (vd : BitVec 6) (nw : Bool) (s : State) : Host.Outcome State Fault Refusal :=
  regOp 4 (fun v =>
    let f := narrowFmt (v.nf 0)
    let g := narrowFmt (v.nf 1)
    dotLanes .f32 .f32 (slotWidth f.width) f.value g.value (slotWidth f.width != slotWidth g.width) vb va vd nw v) s

end Sys2Proof.Machine
end

