-- ==== Sys2Proof/Machine/FloatVec.lean ====
section
/-!
DEFINITION. Lane-wise floating-point instructions, majors 1 to 7 (10_isa_vector.md R182 to R185).
-/

namespace Sys2Proof.Machine

/-- The bits of an operand's element in lane l under a format. -/
def Src.bits (a : Src) (f : Fmt) (l : Nat) : Nat := a.val l % 2 ^ f.bits

/-- A lane-wise instruction of one source: checks, poison, result of format `res` (R182, R52). -/
def laneOne (f res : Fmt) (op : Nat → Nat) (va : VSrc) (vd : BitVec 6) (nw : Bool) (v : View) : Except Stop View := do
  let a ← v.readV posSA va f
  v.checkV posD vd res.isPair
  v.consume [a]
  return v.put vd nw (v.lanewise (.fmt res) a.uniform fun l => res.place (op (a.bits f l)))

/-- A lane-wise instruction of two sources (R182, R52). -/
def laneTwo (f res : Fmt) (op : Nat → Nat → Nat) (vb va : VSrc) (vd : BitVec 6) (nw : Bool) (v : View) :
    Except Stop View := do
  let a ← v.readV posSA va f
  let b ← v.readV posSB vb f
  v.checkV posD vd res.isPair
  v.consume [a, b]
  return v.put vd nw (v.lanewise (.fmt res) (a.uniform && b.uniform) fun l => res.place (op (a.bits f l) (b.bits f l)))

/-- A lane-wise instruction that also reads its destination (R154, R52). -/
def laneThree (f : Fmt) (op : Nat → Nat → Nat → Nat) (vb va : VSrc) (vd : BitVec 6) (nw : Bool) (v : View) :
    Except Stop View := do
  let a ← v.readV posSA va f
  let b ← v.readV posSB vb f
  let d ← v.readD vd f
  v.consume [a, b, d]
  return v.put vd nw (v.lanewise (.fmt f) (a.uniform && b.uniform && d.uniform) fun l =>
    f.place (op (a.bits f l) (b.bits f l) (d.bits f l)))

/-- `add`, `sub` and `mul` of a floating format (R183). -/
def floatTwo (op : FloatOp) (ft : FType) (vb va : VSrc) (vd : BitVec 6) (nw : Bool) (rm : BitVec 2) :
    View → Except Stop View :=
  laneTwo ft.fmt ft.fmt (floatArith op (FloatFmt.ofFType ft) (rmodeOf rm)) vb va vd nw

/-- `fma` of a floating format (R183). -/
def floatThree (ft : FType) (vb va : VSrc) (vd : BitVec 6) (nw : Bool) (rm : BitVec 2) : View → Except Stop View :=
  laneThree ft.fmt (floatFma (FloatFmt.ofFType ft) (rmodeOf rm)) vb va vd nw

/-- `add.f32` (R183). -/
def execAddF32 (vb va : VSrc) (vd : BitVec 6) (nw : Bool) (rm : BitVec 2) (s : State) : Host.Outcome State Fault Refusal :=
  regOp 4 (floatTwo .add .f32 vb va vd nw rm) s

/-- `sub.f32` (R183). -/
def execSubF32 (vb va : VSrc) (vd : BitVec 6) (nw : Bool) (rm : BitVec 2) (s : State) : Host.Outcome State Fault Refusal :=
  regOp 4 (floatTwo .sub .f32 vb va vd nw rm) s

/-- `mul.f32` (R183). -/
def execMulF32 (vb va : VSrc) (vd : BitVec 6) (nw : Bool) (rm : BitVec 2) (s : State) : Host.Outcome State Fault Refusal :=
  regOp 4 (floatTwo .mul .f32 vb va vd nw rm) s

/-- `fma.f32` (R183). -/
def execFmaF32 (vb va : VSrc) (vd : BitVec 6) (nw : Bool) (rm : BitVec 2) (s : State) : Host.Outcome State Fault Refusal :=
  regOp 4 (floatThree .f32 vb va vd nw rm) s

/-- `add.f64` (R183). -/
def execAddF64 (vb va : VSrc) (vd : BitVec 6) (nw : Bool) (rm : BitVec 2) (s : State) : Host.Outcome State Fault Refusal :=
  regOp 4 (floatTwo .add .f64 vb va vd nw rm) s

/-- `sub.f64` (R183). -/
def execSubF64 (vb va : VSrc) (vd : BitVec 6) (nw : Bool) (rm : BitVec 2) (s : State) : Host.Outcome State Fault Refusal :=
  regOp 4 (floatTwo .sub .f64 vb va vd nw rm) s

/-- `mul.f64` (R183). -/
def execMulF64 (vb va : VSrc) (vd : BitVec 6) (nw : Bool) (rm : BitVec 2) (s : State) : Host.Outcome State Fault Refusal :=
  regOp 4 (floatTwo .mul .f64 vb va vd nw rm) s

/-- `fma.f64` (R183). -/
def execFmaF64 (vb va : VSrc) (vd : BitVec 6) (nw : Bool) (rm : BitVec 2) (s : State) : Host.Outcome State Fault Refusal :=
  regOp 4 (floatThree .f64 vb va vd nw rm) s

/-- `add.f16` (R183). -/
def execAddF16 (vb va : VSrc) (vd : BitVec 6) (nw : Bool) (rm : BitVec 2) (s : State) : Host.Outcome State Fault Refusal :=
  regOp 4 (floatTwo .add .f16 vb va vd nw rm) s

/-- `sub.f16` (R183). -/
def execSubF16 (vb va : VSrc) (vd : BitVec 6) (nw : Bool) (rm : BitVec 2) (s : State) : Host.Outcome State Fault Refusal :=
  regOp 4 (floatTwo .sub .f16 vb va vd nw rm) s

/-- `mul.f16` (R183). -/
def execMulF16 (vb va : VSrc) (vd : BitVec 6) (nw : Bool) (rm : BitVec 2) (s : State) : Host.Outcome State Fault Refusal :=
  regOp 4 (floatTwo .mul .f16 vb va vd nw rm) s

/-- `fma.f16` (R183). -/
def execFmaF16 (vb va : VSrc) (vd : BitVec 6) (nw : Bool) (rm : BitVec 2) (s : State) : Host.Outcome State Fault Refusal :=
  regOp 4 (floatThree .f16 vb va vd nw rm) s

/-- `add.bf16` (R183). -/
def execAddBf16 (vb va : VSrc) (vd : BitVec 6) (nw : Bool) (rm : BitVec 2) (s : State) : Host.Outcome State Fault Refusal :=
  regOp 4 (floatTwo .add .bf16 vb va vd nw rm) s

/-- `sub.bf16` (R183). -/
def execSubBf16 (vb va : VSrc) (vd : BitVec 6) (nw : Bool) (rm : BitVec 2) (s : State) : Host.Outcome State Fault Refusal :=
  regOp 4 (floatTwo .sub .bf16 vb va vd nw rm) s

/-- `mul.bf16` (R183). -/
def execMulBf16 (vb va : VSrc) (vd : BitVec 6) (nw : Bool) (rm : BitVec 2) (s : State) : Host.Outcome State Fault Refusal :=
  regOp 4 (floatTwo .mul .bf16 vb va vd nw rm) s

/-- `fma.bf16` (R183). -/
def execFmaBf16 (vb va : VSrc) (vd : BitVec 6) (nw : Bool) (rm : BitVec 2) (s : State) : Host.Outcome State Fault Refusal :=
  regOp 4 (floatThree .bf16 vb va vd nw rm) s

/-- `div.<t>` (R184). -/
def execDiv (vb va : VSrc) (vd : BitVec 6) (nw : Bool) (ft : FType) (rm : BitVec 2) (s : State) : Host.Outcome State Fault Refusal :=
  regOp 4 (laneTwo ft.fmt ft.fmt (floatDiv (FloatFmt.ofFType ft) (rmodeOf rm)) vb va vd nw) s

/-- `min.<t>` (R184). -/
def execFmin (vb va : VSrc) (vd : BitVec 6) (nw : Bool) (ft : FType) (s : State) : Host.Outcome State Fault Refusal :=
  regOp 4 (laneTwo ft.fmt ft.fmt (floatMinMax (FloatFmt.ofFType ft) false) vb va vd nw) s

/-- `max.<t>` (R184). -/
def execFmax (vb va : VSrc) (vd : BitVec 6) (nw : Bool) (ft : FType) (s : State) : Host.Outcome State Fault Refusal :=
  regOp 4 (laneTwo ft.fmt ft.fmt (floatMinMax (FloatFmt.ofFType ft) true) vb va vd nw) s

/-- `copysign.<t>` (R184). -/
def execCopysign (vb va : VSrc) (vd : BitVec 6) (nw : Bool) (ft : FType) (s : State) : Host.Outcome State Fault Refusal :=
  regOp 4 (laneTwo ft.fmt ft.fmt (floatCopysign (FloatFmt.ofFType ft)) vb va vd nw) s

/-- `sqrt.<t>` (R185). -/
def execSqrt (va : VSrc) (vd : BitVec 6) (nw : Bool) (ft : FType) (rm : BitVec 2) (s : State) : Host.Outcome State Fault Refusal :=
  regOp 4 (laneOne ft.fmt ft.fmt (unaryBits .sqrt (FloatFmt.ofFType ft) (rmodeOf rm)) va vd nw) s

/-- `rcp.<t>` (R185). -/
def execRcp (va : VSrc) (vd : BitVec 6) (nw : Bool) (ft : FType) (rm : BitVec 2) (s : State) : Host.Outcome State Fault Refusal :=
  regOp 4 (laneOne ft.fmt ft.fmt (unaryBits .rcp (FloatFmt.ofFType ft) (rmodeOf rm)) va vd nw) s

/-- `rsqrt.<t>` (R185). -/
def execRsqrt (va : VSrc) (vd : BitVec 6) (nw : Bool) (ft : FType) (rm : BitVec 2) (s : State) : Host.Outcome State Fault Refusal :=
  regOp 4 (laneOne ft.fmt ft.fmt (unaryBits .rsqrt (FloatFmt.ofFType ft) (rmodeOf rm)) va vd nw) s

/-- `exp2.<t>` (R185). -/
def execExp2 (va : VSrc) (vd : BitVec 6) (nw : Bool) (ft : FType) (rm : BitVec 2) (s : State) : Host.Outcome State Fault Refusal :=
  regOp 4 (laneOne ft.fmt ft.fmt (unaryBits .exp2 (FloatFmt.ofFType ft) (rmodeOf rm)) va vd nw) s

/-- `log2.<t>` (R185). -/
def execLog2 (va : VSrc) (vd : BitVec 6) (nw : Bool) (ft : FType) (rm : BitVec 2) (s : State) : Host.Outcome State Fault Refusal :=
  regOp 4 (laneOne ft.fmt ft.fmt (unaryBits .log2 (FloatFmt.ofFType ft) (rmodeOf rm)) va vd nw) s

/-- `sin.<t>` (R185). -/
def execSin (va : VSrc) (vd : BitVec 6) (nw : Bool) (ft : FType) (rm : BitVec 2) (s : State) : Host.Outcome State Fault Refusal :=
  regOp 4 (laneOne ft.fmt ft.fmt (unaryBits .sin (FloatFmt.ofFType ft) (rmodeOf rm)) va vd nw) s

/-- `cos.<t>` (R185). -/
def execCos (va : VSrc) (vd : BitVec 6) (nw : Bool) (ft : FType) (rm : BitVec 2) (s : State) : Host.Outcome State Fault Refusal :=
  regOp 4 (laneOne ft.fmt ft.fmt (unaryBits .cos (FloatFmt.ofFType ft) (rmodeOf rm)) va vd nw) s

/-- `tanh.<t>` (R185). -/
def execTanh (va : VSrc) (vd : BitVec 6) (nw : Bool) (ft : FType) (rm : BitVec 2) (s : State) : Host.Outcome State Fault Refusal :=
  regOp 4 (laneOne ft.fmt ft.fmt (unaryBits .tanh (FloatFmt.ofFType ft) (rmodeOf rm)) va vd nw) s

/-- `rint.<t>` (R185). -/
def execRint (va : VSrc) (vd : BitVec 6) (nw : Bool) (ft : FType) (rm : BitVec 2) (s : State) : Host.Outcome State Fault Refusal :=
  regOp 4 (laneOne ft.fmt ft.fmt (unaryBits .rint (FloatFmt.ofFType ft) (rmodeOf rm)) va vd nw) s

/-- `neg.<t>` (R185). -/
def execFneg (va : VSrc) (vd : BitVec 6) (nw : Bool) (ft : FType) (s : State) : Host.Outcome State Fault Refusal :=
  regOp 4 (laneOne ft.fmt ft.fmt (floatNeg (FloatFmt.ofFType ft)) va vd nw) s

/-- `abs.<t>` (R185). -/
def execFabs (va : VSrc) (vd : BitVec 6) (nw : Bool) (ft : FType) (s : State) : Host.Outcome State Fault Refusal :=
  regOp 4 (laneOne ft.fmt ft.fmt (floatAbs (FloatFmt.ofFType ft)) va vd nw) s

/-- `fclass.<t>`: an n32 class word in a single register (R185). -/
def execFclass (va : VSrc) (vd : BitVec 6) (nw : Bool) (ft : FType) (s : State) : Host.Outcome State Fault Refusal :=
  regOp 4 (laneOne ft.fmt .n32 (floatClass (FloatFmt.ofFType ft)) va vd nw) s

end Sys2Proof.Machine
end

