-- ==== Sys2Proof/Machine/IntVec.lean ====
section
/-!
DEFINITION. Integer and bit instructions, majors 8 to 12, 15 and 16, and compares, major 13 (10_isa_vector.md R186 to
R189).
-/

namespace Sys2Proof.Machine

/-- The affine result of an operation on s32 or n32, when R52 gives one. -/
def IntOp.shapeOf (op : IntOp) (a b : Shape) : Option Shape :=
  match op with
  | .add => addShape false a b
  | .sub => addShape true a b
  | .mul => mulShape a b
  | .shl => shlShape a b
  | _ => none

/-- Wrapping `add`, `sub`, `mul` and `shl`, whose results may be affine (R52, R186). -/
def intShaped (op : IntOp) (vb va : VSrc) (vd : BitVec 6) (nw : Bool) (it : IType) (v : View) : Except Stop View := do
  let f := it.fmt
  let a ← v.readV posSA va f
  let b ← v.readV posSB vb f
  v.checkV posD vd f.isPair
  v.consume [a, b]
  let r := match if f.isPair then none else IntOp.shapeOf op a.lo.shape b.lo.shape with
    | some sh => Res.ofShape (.fmt f) sh
    | none => v.lanewise (.fmt f) (a.uniform && b.uniform) fun l =>
        intArith op it.shape.1 it.shape.2 (a.bits f l) (b.bits f l)
  return v.put vd nw r

/-- Two sources of any single tag; the result is b32 (R187). -/
def bitTwo (op : Nat → Nat → Nat) (vb va : VSrc) (vd : BitVec 6) (nw : Bool) (v : View) : Except Stop View := do
  let a ← v.readSingle posSA va .b32
  let b ← v.readSingle posSB vb .b32
  v.checkV posD vd false
  v.consume [a, b]
  return v.put vd nw (v.lanewise (.fmt .b32) (a.uniform && b.uniform) fun l => op (a.val l) (b.val l) % 2 ^ 32)

/-- One source of any single tag (R187). -/
def bitOne (op : Nat → Nat) (res : Fmt) (va : VSrc) (vd : BitVec 6) (nw : Bool) (v : View) : Except Stop View := do
  let a ← v.readSingle posSA va .b32
  v.checkV posD vd false
  v.consume [a]
  return v.put vd nw (v.lanewise (.fmt res) a.uniform fun l => op (a.val l) % 2 ^ 32)

/-- A source of one of several tags with a uniform immediate; the result keeps the tag, and the shape is affine where
`shape` says so (R188). -/
def immShaped (fs : List Fmt) (shape : Shape → Shape → Option Shape) (op : Nat → Nat → Nat) (imm : Elem) (va : VSrc)
    (vd : BitVec 6) (nw : Bool) (v : View) : Except Stop View := do
  let a ← v.readOneOf posSA va fs
  v.checkV posD vd false
  v.consume [a]
  let r := match shape a.lo.shape (.uniform imm) with
    | some sh => Res.ofShape a.tag sh
    | none => v.lanewise a.tag a.uniform fun l => op (a.val l) imm.toNat
  return v.put vd nw r

/-- A compare into a mask: bits of inactive lanes keep their value (R189). -/
def compare (vb va : VSrc) (ty : CmpTy) (md : BitVec 3) (cc : CmpOp) (v : View) : Except Stop View := do
  let f := ty.fmt
  let a ← v.readV posSA va f
  let b ← v.readV posSB vb f
  v.consume [a, b]
  let hits := maskOf (v.team.lanes.filter fun l => cmpLane cc ty (a.bits f l) (b.bits f l))
  return v.setMask md ((v.mask md &&& ~~~v.active) ||| hits)

/-- `add`: affine when R52 says so (R186). -/
def execIntAdd (vb va : VSrc) (vd : BitVec 6) (nw : Bool) (it : IType) (s : State) : Host.Outcome State Fault Refusal :=
  regOp 4 (intShaped .add vb va vd nw it) s

/-- `sub`: affine when R52 says so (R186). -/
def execIntSub (vb va : VSrc) (vd : BitVec 6) (nw : Bool) (it : IType) (s : State) : Host.Outcome State Fault Refusal :=
  regOp 4 (intShaped .sub vb va vd nw it) s

/-- `mul`: affine when R52 says so (R186). -/
def execIntMul (vb va : VSrc) (vd : BitVec 6) (nw : Bool) (it : IType) (s : State) : Host.Outcome State Fault Refusal :=
  regOp 4 (intShaped .mul vb va vd nw it) s

/-- `shl`: affine when R52 says so (R186). -/
def execIntShl (vb va : VSrc) (vd : BitVec 6) (nw : Bool) (it : IType) (s : State) : Host.Outcome State Fault Refusal :=
  regOp 4 (intShaped .shl vb va vd nw it) s

/-- `mulh` (R186). -/
def execIntMulh (vb va : VSrc) (vd : BitVec 6) (nw : Bool) (it : IType) (s : State) : Host.Outcome State Fault Refusal :=
  regOp 4 (laneTwo it.fmt it.fmt (intArith .mulh it.shape.1 it.shape.2) vb va vd nw) s

/-- `min` (R186). -/
def execIntMin (vb va : VSrc) (vd : BitVec 6) (nw : Bool) (it : IType) (s : State) : Host.Outcome State Fault Refusal :=
  regOp 4 (laneTwo it.fmt it.fmt (intArith .min it.shape.1 it.shape.2) vb va vd nw) s

/-- `max` (R186). -/
def execIntMax (vb va : VSrc) (vd : BitVec 6) (nw : Bool) (it : IType) (s : State) : Host.Outcome State Fault Refusal :=
  regOp 4 (laneTwo it.fmt it.fmt (intArith .max it.shape.1 it.shape.2) vb va vd nw) s

/-- `adds` (R186). -/
def execIntAdds (vb va : VSrc) (vd : BitVec 6) (nw : Bool) (it : IType) (s : State) : Host.Outcome State Fault Refusal :=
  regOp 4 (laneTwo it.fmt it.fmt (intArith .adds it.shape.1 it.shape.2) vb va vd nw) s

/-- `subs` (R186). -/
def execIntSubs (vb va : VSrc) (vd : BitVec 6) (nw : Bool) (it : IType) (s : State) : Host.Outcome State Fault Refusal :=
  regOp 4 (laneTwo it.fmt it.fmt (intArith .subs it.shape.1 it.shape.2) vb va vd nw) s

/-- `shr` (R186). -/
def execIntShr (vb va : VSrc) (vd : BitVec 6) (nw : Bool) (it : IType) (s : State) : Host.Outcome State Fault Refusal :=
  regOp 4 (laneTwo it.fmt it.fmt (intArith .shr it.shape.1 it.shape.2) vb va vd nw) s

/-- `div` (R186). -/
def execIntDiv (vb va : VSrc) (vd : BitVec 6) (nw : Bool) (it : IType) (s : State) : Host.Outcome State Fault Refusal :=
  regOp 4 (laneTwo it.fmt it.fmt (intArith .div it.shape.1 it.shape.2) vb va vd nw) s

/-- `rem` (R186). -/
def execIntRem (vb va : VSrc) (vd : BitVec 6) (nw : Bool) (it : IType) (s : State) : Host.Outcome State Fault Refusal :=
  regOp 4 (laneTwo it.fmt it.fmt (intArith .rem it.shape.1 it.shape.2) vb va vd nw) s

/-- `abs` of s32, or of s64 when `wide` (R186). -/
def execIntAbs (va : VSrc) (vd : BitVec 6) (nw : Bool) (wide : Bool) (s : State) : Host.Outcome State Fault Refusal :=
  regOp 4 (laneOne (if wide then .s64 else .s32) (if wide then .s64 else .s32) (intAbsBits (if wide then 64 else 32)) va vd nw) s

/-- `neg` of s32, or of s64 when `wide` (R186). -/
def execIntNeg (va : VSrc) (vd : BitVec 6) (nw : Bool) (wide : Bool) (s : State) : Host.Outcome State Fault Refusal :=
  regOp 4 (laneOne (if wide then .s64 else .s32) (if wide then .s64 else .s32) (intNegBits (if wide then 64 else 32)) va vd nw) s

/-- `mad` (R186). -/
def execIntMad (vb va : VSrc) (vd : BitVec 6) (nw : Bool) (it : IType) (s : State) : Host.Outcome State Fault Refusal :=
  regOp 4 (laneThree it.fmt (intMadd it.shape.2) vb va vd nw) s

/-- `and.b32` (R187). -/
def execBitAnd (vb va : VSrc) (vd : BitVec 6) (nw : Bool) (s : State) : Host.Outcome State Fault Refusal :=
  regOp 4 (bitTwo (fun a b => a &&& b) vb va vd nw) s

/-- `or.b32` (R187). -/
def execBitOr (vb va : VSrc) (vd : BitVec 6) (nw : Bool) (s : State) : Host.Outcome State Fault Refusal :=
  regOp 4 (bitTwo (fun a b => a ||| b) vb va vd nw) s

/-- `xor.b32` (R187). -/
def execBitXor (vb va : VSrc) (vd : BitVec 6) (nw : Bool) (s : State) : Host.Outcome State Fault Refusal :=
  regOp 4 (bitTwo (fun a b => a ^^^ b) vb va vd nw) s

/-- `andn.b32` (R187). -/
def execBitAndn (vb va : VSrc) (vd : BitVec 6) (nw : Bool) (s : State) : Host.Outcome State Fault Refusal :=
  regOp 4 (bitTwo (fun a b => a &&& (2 ^ 32 - 1 - b)) vb va vd nw) s

/-- `rotl.b32` (R187). -/
def execBitRotl (vb va : VSrc) (vd : BitVec 6) (nw : Bool) (s : State) : Host.Outcome State Fault Refusal :=
  regOp 4 (bitTwo (fun a b => rotlBits 32 a b) vb va vd nw) s

/-- `not.b32` (R187). -/
def execBitNot (va : VSrc) (vd : BitVec 6) (nw : Bool) (s : State) : Host.Outcome State Fault Refusal :=
  regOp 4 (bitOne (fun a => 2 ^ 32 - 1 - a) .b32 va vd nw) s

/-- `popc.b32` (R187). -/
def execBitPopc (va : VSrc) (vd : BitVec 6) (nw : Bool) (s : State) : Host.Outcome State Fault Refusal :=
  regOp 4 (bitOne (popcBits 32) .n32 va vd nw) s

/-- `clz.b32` (R187). -/
def execBitClz (va : VSrc) (vd : BitVec 6) (nw : Bool) (s : State) : Host.Outcome State Fault Refusal :=
  regOp 4 (bitOne (clzBits 32) .n32 va vd nw) s

/-- `ctz.b32` (R187). -/
def execBitCtz (va : VSrc) (vd : BitVec 6) (nw : Bool) (s : State) : Host.Outcome State Fault Refusal :=
  regOp 4 (bitOne (ctzBits 32) .n32 va vd nw) s

/-- `brev.b32` (R187). -/
def execBitBrev (va : VSrc) (vd : BitVec 6) (nw : Bool) (s : State) : Host.Outcome State Fault Refusal :=
  regOp 4 (bitOne (brevBits 32) .b32 va vd nw) s

/-- `vaddi`: the shape of an add with a uniform (R188). -/
def execVaddi (imm : BitVec 11) (va : VSrc) (vd : BitVec 6) (nw : Bool) (s : State) : Host.Outcome State Fault Refusal :=
  regOp 4 (immShaped [.s32, .n32] (addShape false) (fun a b => intArith .add false 32 a b) (imm.signExtend 32) va vd nw) s

/-- `shli` (R188). -/
def execShli (amt : BitVec 5) (va : VSrc) (vd : BitVec 6) (nw : Bool) (s : State) : Host.Outcome State Fault Refusal :=
  regOp 4 (immShaped [.s32, .n32, .b32] shlShape (fun a b => intArith .shl false 32 a b) (amt.setWidth 32) va vd nw) s

/-- `shri.n` (R188). -/
def execShriN (amt : BitVec 5) (va : VSrc) (vd : BitVec 6) (nw : Bool) (s : State) : Host.Outcome State Fault Refusal :=
  regOp 4 (immShaped [.n32, .b32] (fun _ _ => none) (fun a b => intArith .shr false 32 a b) (amt.setWidth 32) va vd nw) s

/-- `shri.s` (R188). -/
def execShriS (amt : BitVec 5) (va : VSrc) (vd : BitVec 6) (nw : Bool) (s : State) : Host.Outcome State Fault Refusal :=
  regOp 4 (immShaped [.s32] (fun _ _ => none) (fun a b => intArith .shr true 32 a b) (amt.setWidth 32) va vd nw) s

/-- `rotli` (R188). -/
def execRotli (amt : BitVec 5) (va : VSrc) (vd : BitVec 6) (nw : Bool) (s : State) : Host.Outcome State Fault Refusal :=
  regOp 4 (immShaped [.s32, .n32, .b32] (fun _ _ => none) (fun a b => rotlBits 32 a b) (amt.setWidth 32) va vd nw) s

/-- `cmp.<cc>.<ty>` (R189). -/
def execCmp (vb va : VSrc) (ty : CmpTy) (md : BitVec 3) (cc : CmpOp) (s : State) : Host.Outcome State Fault Refusal :=
  regOp 4 (compare vb va ty md cc) s

end Sys2Proof.Machine
end

