-- ==== Sys2Proof/Machine/Moves.lean ====
section
/-!
DEFINITION. Moves and shape builders, major 18 (10_isa_vector.md R193, R194, R196; 03_registers.md R57, R60). Moved
values keep their poison; what chooses them is consumed (R182).
-/

namespace Sys2Proof.Machine

/-! ## Shared shapes -/

/-- A general result of the active lanes: `f` gives the low and high element of a lane, `bad` its poison. -/
def View.moved (v : View) (tag : Tag) (f : Nat → Elem × Elem) (bad : Nat → Bool) : Res :=
  let poison := maskOf (v.team.lanes.filter bad)
  { lo := v.general tag (fun l => (f l).1.toNat) poison
    hi := if tag.isPair then some (v.general tag (fun l => (f l).2.toNat) poison) else none }

/-- A uniform result, poisoned or not. -/
def Res.uniformOf (tag : Tag) (x : Elem × Elem) (bad : Bool) : Res :=
  let reg (e : Elem) : VReg := { tag := tag, shape := .uniform e, poison := if bad then -1 else 0 }
  { lo := reg x.1, hi := if tag.isPair then some (reg x.2) else none }

/-- The elements of a lane of an operand. -/
def Src.lane (a : Src) (l : Nat) : Elem × Elem := (a.lo.read l, a.hi.read l)

/-- Whether a lane of an operand is poisoned. -/
def Src.isPoisoned (a : Src) (l : Nat) : Bool := a.poison.getLsbD l

/-! ## mov and movtag -/

/-- `mov`: value, tag, poison and shape; a pair as a whole (R193). -/
def moveReg (va : VSrc) (vd : BitVec 6) (nw : Bool) (v : View) : Except Stop View := do
  let a ← v.readAny posSA va
  v.checkV posD vd a.pair
  return v.put vd nw { lo := a.lo, hi := if a.pair then some a.hi else none }

/-- `movtag`'s result for a single register: the new width's bits, extended as R55 requires (R193). -/
def View.retag (v : View) (tag : Tag) (r : VReg) : VReg :=
  let cut (e : Elem) : Elem := BitVec.ofNat 32 (tag.place v.nf (e.toNat % 2 ^ tag.bits v.nf))
  match r.shape with
  | .uniform u => { tag := tag, shape := .uniform (cut u), poison := r.poison }
  | .affine b d =>
    if tag == .fmt .s32 || tag == .fmt .n32 then { tag := tag, shape := .affine b d, poison := r.poison }
    else v.general tag (fun l => (cut (r.read l)).toNat) r.poison
  | .general _ => v.general tag (fun l => (cut (r.read l)).toNat) r.poison

/-- `movtag` (R193). -/
def moveTag (tag : Tag) (va : VSrc) (vd : BitVec 6) (nw : Bool) (v : View) : Except Stop View := do
  let a ← v.readAny posSA va
  stopIf (a.pair != tag.isPair) (regTrap 0x042 posSA va.bits.toNat)
  v.checkV posD vd tag.isPair
  return v.put vd nw
    (if tag.isPair then { lo := { a.lo with tag := tag }, hi := some { a.hi with tag := tag } }
     else { lo := v.retag tag a.lo, hi := none })

/-! ## Reads of another lane (R196) -/

/-- What a cross-lane read picks: a lane, nothing (vacant), or the explicit fill (R197). -/
inductive Pick where
  | lane (s : Nat)
  | vacant
  | fill
  deriving DecidableEq, Repr

/-- The lane a pick reads, when it is not vacant. -/
def View.picked (v : View) (p : Pick) : Option Nat :=
  match p with
  | .lane s => if v.isVacant s then none else some s
  | _ => none

/-- Whether a pick is a vacant read: the explicit fill reads nothing (R197). -/
def View.vacantPick (v : View) (p : Pick) : Bool := (v.picked p).isNone && p != .fill

/-- The elements XRead delivers (R196). -/
def View.xread (v : View) (a : Src) (p : Pick) : Elem × Elem :=
  match v.picked p with
  | some s => a.lane s
  | none => v.fill a.tag

/-- The poison XRead delivers: a vacant read has none (R196). -/
def View.xpoison (v : View) (a : Src) (p : Pick) : Bool :=
  match v.picked p with
  | some s => a.isPoisoned s
  | none => false

/-- What every active lane takes by XRead of its pick, and the lanes whose source is vacant (R196, R197). -/
def View.xmove (v : View) (a : Src) (pick : Nat → Pick) : Res × Mask :=
  (v.moved a.tag (fun l => v.xread a (pick l)) fun l => v.xpoison a (pick l),
    maskOf (v.team.lanes.filter fun l => v.vacantPick (pick l)))

/-- `bcast`: every active lane reads one lane; uniform when the write covers (R193). -/
def broadcast (sb : SSrc) (va : VSrc) (vd : BitVec 6) (nw : Bool) (v : View) : Except Stop View := do
  let a ← v.readAny posSA va
  let b ← v.readS posSB sb
  v.checkV posD vd a.pair
  let p := Pick.lane b.toNat
  let w := if v.vacantPick p then v.noteVacant v.active else v
  return w.put vd nw (Res.uniformOf a.tag (v.xread a p) (v.xpoison a p))

/-! ## sel -/

/-- The tag an immediate beside another operand takes: that operand's (R56). -/
def View.selTag (v : View) (va vb : VSrc) : Except Stop Tag :=
  match va, vb with
  | .imm _, .imm _ => .ok (.fmt .s32)
  | .imm _, _ => do return (← v.readAny posSB vb).tag
  | _, _ => do return (← v.readAny posSA va).tag

/-- A source of `sel`: an immediate takes the wanted format; the bits of one are an integer's (R56). -/
def View.readAs (v : View) (pos : Nat) (a : VSrc) (tag : Tag) : Except Stop Src :=
  match a, tag with
  | .imm i, .fmt f => .ok (Src.imm f i)
  | .imm i, .nf k =>
    let bits := (narrowFmt (v.nf k)).round (XVal.ofInt (immValue i)) .rne 0
    .ok { lo := VReg.uniformOf tag bits, hi := VReg.zero, pair := false }
  | _, _ => do
    let x ← v.fetch pos a fun t => t.isPair && tag.isPair
    fmtCheck x [tag] pos a.bits.toNat
    pairCheck x pos a.bits.toNat
    return x

/-- `sel`: va where the old destination is not 0, else vb; the tested value is consumed (R182, R193). -/
def selectLanes (vb va : VSrc) (vd : BitVec 6) (nw : Bool) (v : View) : Except Stop View := do
  let tag ← v.selTag va vb
  let a ← v.readAs posSA va tag
  let b ← v.readAs posSB vb tag
  v.checkV posD vd tag.isPair
  let d := v.vreg vd
  stopIf d.tag.isPair (regTrap 0x042 posD vd.toNat)
  v.consume [{ lo := d, hi := VReg.zero, pair := false }]
  let from_ (l : Nat) : Src := if d.read l == 0 then b else a
  let r := if a.uniform && b.uniform && d.shape.isUniform then
      Res.uniformOf tag ((from_ 0).lane 0) ((from_ 0).isPoisoned 0)
    else v.moved tag (fun l => (from_ l).lane l) fun l => (from_ l).isPoisoned l
  return v.put vd nw r

/-! ## Per-lane indirection (R60, R194) -/

/-- Whether lane l names a register beyond the count or with another tag. -/
def View.badName (v : View) (a : Src) (tag : Tag) (l : Nat) : Bool :=
  let n := (a.lo.read l).toNat
  decide (v.team.vcnt ≤ n) || (v.team.v.getD n VReg.zero).tag != tag

/-- The checks of the registers named by the active lanes: all of them, reported for the offending lanes, once no
issued instruction still has to write one, and so to give it its tag (R60, R162, R371). -/
def View.checkNames (v : View) (a : Src) (tag : Tag) (pos : Nat) : Except Stop Unit := do
  stopIf (v.team.lanes.any fun l => v.team.pend.any fun p =>
    v.team.issuedBy p && p.writes (.v (a.lo.read l).toNat)) (.wait .register)
  match v.team.lanes.filter (v.badName a tag) with
  | [] => .ok ()
  | l :: ls =>
    let n := (a.lo.read l).toNat
    let found := if v.team.vcnt ≤ n then 0 else (v.team.v.getD n VReg.zero).tag.code.toNat
    .error (.trap 0x047 (regAddr 0 found pos (n % 128)) (some (maskOf (l :: ls))))

/-- `vmovi.get` (R194). -/
def vmoviRead (tag : Tag) (va : VSrc) (vd : BitVec 6) (nw : Bool) (v : View) : Except Stop View := do
  let a ← v.readOneOf posSA va [.s32, .n32]
  stopIf tag.isPair (regTrap 0x042 posSB tag.code.toNat)
  v.checkV posD vd false
  v.consume [a]
  v.checkNames a tag posSA
  let reg (l : Nat) : VReg := v.team.v.getD (a.lo.read l).toNat VReg.zero
  return v.put vd nw (v.moved tag (fun l => ((reg l).read l, 0)) fun l => (reg l).poison.getLsbD l)

/-- Writes the lanes of `vmovi.put` that name register n. -/
def View.putNamed (v : View) (a b : Src) (n : Nat) : View :=
  let old := v.team.v.getD n VReg.zero
  let mine := maskOf (v.team.lanes.filter fun l => (a.lo.read l).toNat == n)
  let r : VReg :=
    { tag := old.tag
      shape := .general ((List.range v.team.size).map fun l => if mine.getLsbD l then b.lo.read l else old.read l)
      poison := ((b.poison &&& mine) ||| (old.poison &&& ~~~mine)) &&& maskBelow v.team.size }
  { v with team := { v.team with v := v.team.v.setIfInBounds n r } }

/-- `vmovi.put`: no result in the latches (R194). -/
def vmoviWrite (vb va : VSrc) (v : View) : Except Stop View := do
  let a ← v.readOneOf posSA va [.s32, .n32]
  let b ← v.readSingle posSB vb .s32
  v.consume [a]
  v.checkNames a b.tag posD
  let names := (v.team.lanes.map fun l => (a.lo.read l).toNat).eraseDups
  return names.foldl (fun w n => w.putNamed a b n) v

/-! ## omov -/

/-- Writes the operand file; a general result traps (R57). A pair fills two registers (R54). -/
def moveToFile (va : VSrc) (od : BitVec 3) (nw : Bool) (v : View) : Except Stop View := do
  let a ← v.readAny posSA va
  stopIf (a.pair && od.getLsbD 0) (regTrap 0x042 posD (64 + od.toNat))
  let flat (r : VReg) : Bool := r.shape.affine?.isSome
  stopIf (!(flat a.lo && (!a.pair || flat a.hi) && v.covers false)) (regTrap 0x044 posD (64 + od.toNat))
  let o := v.team.o.setIfInBounds od.toNat a.lo
  let o := if a.pair then o.setIfInBounds (od.toNat + 1) a.hi else o
  let w := if nw then v else { v with team := { v.team with o := o } }
  return w.latch (.held { lo := a.lo, hi := if a.pair then some a.hi else none })

/-! ## The instructions -/

/-- `mov` (R193). -/
def execMov (va : VSrc) (vd : BitVec 6) (nw : Bool) (s : State) : Host.Outcome State Fault Refusal :=
  regOp 4 (moveReg va vd nw) s

/-- `movtag.<tag>` (R193). -/
def execMovtag (tag : Tag) (va : VSrc) (vd : BitVec 6) (nw : Bool) (s : State) : Host.Outcome State Fault Refusal :=
  regOp 4 (moveTag tag va vd nw) s

/-- `lane`: affine (0, 1), s32 (R193). -/
def execLane (vd : BitVec 6) (nw : Bool) (s : State) : Host.Outcome State Fault Refusal :=
  regOp 4 (fun v => v.writeV vd nw (Res.ofShape (.fmt .s32) (.affine 0 1))) s

/-- `bcast` (R193). -/
def execBcast (sb : SSrc) (va : VSrc) (vd : BitVec 6) (nw : Bool) (s : State) : Host.Outcome State Fault Refusal :=
  regOp 4 (broadcast sb va vd nw) s

/-- `sel` (R193). -/
def execSel (vb va : VSrc) (vd : BitVec 6) (nw : Bool) (s : State) : Host.Outcome State Fault Refusal :=
  regOp 4 (selectLanes vb va vd nw) s

/-- `vmovi.get.<tag>` (R194). -/
def execVmoviGet (tag : Tag) (va : VSrc) (vd : BitVec 6) (nw : Bool) (s : State) : Host.Outcome State Fault Refusal :=
  regOp 4 (vmoviRead tag va vd nw) s

/-- `vmovi.put` (R194). -/
def execVmoviPut (vb va : VSrc) (s : State) : Host.Outcome State Fault Refusal :=
  regOp 4 (vmoviWrite vb va) s

/-- `affine vd, sa, sb`: affine (a[31:0], b[31:0]), s32 (R193). -/
def execAffine (sb sa : SSrc) (vd : BitVec 6) (nw : Bool) (s : State) : Host.Outcome State Fault Refusal :=
  regOp 4 (fun v => do
    let a ← v.readS posSA sa
    let b ← v.readS posSB sb
    v.writeV vd nw (Res.ofShape (.fmt .s32) (.affine (a.setWidth 32) (b.setWidth 32)))) s

/-- `omov` (R57, R193). -/
def execOmov (va : VSrc) (od : BitVec 3) (nw : Bool) (s : State) : Host.Outcome State Fault Refusal :=
  regOp 4 (moveToFile va od nw) s

end Sys2Proof.Machine
end

