-- ==== Sys2Proof/Machine/Memory.lean ====
section
/-!
DEFINITION. Loads, stores, reductions, returning atomics and full/empty accesses, majors 32 to 37
(08_encoding.md R156; 11_isa_memory_sync.md R202 to R211; 05_memory_hierarchy.md R88 to R91, R97, R98).
-/

namespace Sys2Proof.Machine

/-! ## Addresses (R156) -/

/-- The addresses of the active lanes, ascending; the index is consumed (R156, R203). -/
def View.addresses (v : View) (base : Word) (ix : Src) (off : BitVec 4) (f : Fmt) : List (Nat × Word) :=
  v.team.lanes.map fun l =>
    let e := ix.lo.read l
    let i : Int := if ix.tag == .fmt .s32 then e.toInt else e.toNat
    (l, base + BitVec.ofInt 64 ((i + off.toInt) * f.bytes))

/-- What became of a lane's address: a place, a failed translation, or a window violation. -/
inductive Resolved where
  | at (p : Place)
  | failed (e : TrErr)
  | violation
  deriving DecidableEq, Repr

/-- Whether a global address lies in a die window (R91). -/
def isWindow (va : Word) : Bool := localOf va / 2 ^ 40 == 0x7F

/-- The scratchpad a window access of n bytes reaches: this device and die, a partition of the tenant (R91). -/
def State.windowAt (s : State) (t : Team) (va : Word) (n : Nat) : Option (Nat × Nat) :=
  let k := localOf va / 2 ^ 22 % 2 ^ 18
  let p := localOf va % 2 ^ 22
  let core := dieOf t.core * 48 + k
  let mine (f : Family) : Bool :=
    decide (f.partBase ≤ p) && decide (p + n ≤ f.partBase + f.partSize) &&
      (s.gangsOf f.uid).any fun g => g.tenant == s.tenantOf t
  if isWindow va ∧ devOf va = s.dev.toNat ∧ k < 48 ∧ (s.familiesOn core).any mine then some (core, p) else none

/-- Resolves the n bytes of one lane (R89, R91, R96). -/
def State.resolve (s : State) (t : Team) (acc : AccKind) (va : Word) (n : Nat) : Resolved × State :=
  if !validAddr va then (.failed (.fault 0x0C0 0), s)
  else if isWindow va || isWindow (va + BitVec.ofNat 64 (n - 1)) then
    match acc, s.windowAt t va n with
    | .load, some (core, off) => (.at (.window core off), s)
    | .store, some (core, off) => (.at (.window core off), s)
    | _, _ => (.violation, s)
  else
    match s.translateRange (s.teamCtx t) acc va n with
    | (.error (e, _), s) => (.failed e, s)
    | (.ok parts, s) => (.at (.home parts), s)

/-- Resolves every lane, ascending. -/
def State.resolveAll (s : State) (t : Team) (acc : AccKind) (n : Nat) :
    List (Nat × Word) → List (Nat × Word × Resolved) × State
  | [] => ([], s)
  | (l, va) :: rest =>
    let (r, s) := s.resolve t acc va n
    let (rs, s) := s.resolveAll t acc n rest
    ((l, va, r) :: rs, s)

/-! ## Loaded values -/

/-- A lane's loaded bits in place, with its poison. -/
abbrev Loaded := List (Nat × Nat × Bool)

/-- The bits loaded by a lane. -/
def Loaded.bits (xs : Loaded) (l : Nat) : Nat := ((xs.find? fun x => x.1 == l).map fun x => x.2.1).getD 0

/-- The poison of a lane. -/
def Loaded.bad (xs : Loaded) (l : Nat) : Bool := ((xs.find? fun x => x.1 == l).map fun x => x.2.2).getD false

/-- The result of a load: general, tagged FMT (R203). -/
def View.loaded (v : View) (f : Fmt) (xs : Loaded) : Res :=
  v.moved (.fmt f) (fun l => (BitVec.ofNat 32 (xs.bits l), BitVec.ofNat 32 (xs.bits l / 2 ^ 32))) xs.bad

/-- Bytes at homes as a core's load reads them, part by part. -/
def State.readParts (s : State) (core : Nat) : List (Nat × Nat) → List Byte × Bool × State
  | [] => ([], false, s)
  | (key, n) :: ps =>
    let (b, bad, s) := s.coreRead core key n
    let (bs, bad', s) := s.readParts core ps
    (b ++ bs, bad || bad', s)

/-- Reads the lanes, ascending. -/
def State.loadAll (s : State) (core : Nat) (f : Fmt) : List (Nat × Place) → Loaded × State
  | [] => ([], s)
  | (l, p) :: rest =>
    let (bs, bad, s) := match p with
      | .home parts => s.readParts core parts
      | .window c off => (s.scratchRead c off f.bytes, false, s)
    let (xs, s) := s.loadAll core f rest
    ((l, f.place (natOfBytes bs), bad) :: xs, s)

/-! ## Instructions left outstanding (log 7) -/

/-- A register of n lanes with a new value in the lanes of a mask (R53). -/
def VReg.over (n : Nat) (mask : Mask) (old new : VReg) : VReg :=
  { tag := new.tag
    shape := .general ((List.range n).map fun l => if mask.getLsbD l then new.read l else old.read l)
    poison := (new.poison &&& mask) ||| (old.poison &&& ~~~mask &&& maskBelow n) }

/-- What loaded lanes put in the registers of a format. -/
def Loaded.result (xs : Loaded) (f : Fmt) (n : Nat) : Res :=
  let reg (g : Nat → Nat) : VReg :=
    { tag := .fmt f, shape := .general ((List.range n).map fun l => BitVec.ofNat 32 (g l))
      poison := maskOf ((List.range n).filter xs.bad) }
  { lo := reg xs.bits, hi := if f.isPair then some (reg fun l => xs.bits l / 2 ^ 32) else none }

/-- The counter an outstanding instruction has raised falls (R178). -/
def Team.lower (t : Team) (w : Work) : Team :=
  match w with
  | .load _ _ | .atomic _ _ _ _ | .result false _ _ _ => { t with ld := t.ld - 1 }
  | .result true _ _ _ => { t with xl := t.xl - 1 }
  | .append _ _ => { t with ap := t.ap - 1 }

/-- Writes the result of an outstanding instruction; its latch, if it is still one of the four, holds it too. -/
def View.deliver (v : View) (p : Pending) (res : Res) (whole : Bool) : View :=
  let old (k : Nat) : VReg := match p.target with
    | some (.v n) => v.team.v.getD (n + k) VReg.zero
    | some (.kv n) => v.kv.getD (n + k) VReg.zero
    | none => VReg.zero
  let size := match p.target with
    | some (.kv _) => 32
    | _ => v.team.size
  let place (k : Nat) (new : VReg) : VReg :=
    if whole || p.target.isNone then new else VReg.over size p.mask (old k) new
  let lo := place 0 res.lo
  let hi := res.hi.map (place 1)
  let put (k : Nat) (x : VReg) (v : View) : View := match p.target with
    | some (.v n) => { v with team := { v.team with v := v.team.v.setIfInBounds (n + k) x } }
    | some (.kv n) => { v with kv := v.kv.setIfInBounds (n + k) x }
    | none => v
  let v := match hi with
    | none => put 0 lo v
    | some h => put 1 h (put 0 lo v)
  { v with latches := v.latches.map fun q => if q == .due p.id then .held { lo := lo, hi := hi } else q }

/-- An outstanding instruction of a team is complete: its counter falls. -/
def Team.settled (t : Team) (p : Pending) : Team :=
  { t.lower p.work with pend := t.pend.filter fun q => q.id != p.id }

/-- Writes the result of an outstanding instruction of a team. -/
def State.deliver (s : State) (team : Nat) (p : Pending) (res : Res) (whole : Bool) : State :=
  match s.team? team with
  | none => s
  | some t =>
    let v := (View.of t (s.core t.core)).deliver p res whole
    s.putView { v with team := v.team.settled p }

/-- The lanes a result is for. -/
def Pending.lanes (p : Pending) (t : Team) : Nat :=
  match p.target with
  | some (.kv _) => 32
  | _ => t.size

/-- An outstanding instruction of a team completes (R178): a load reads its bytes, an atomic is performed, a result is
written, entries go to the log or the atomic buffer (R203, R204, R208, R209). -/
def State.finish (s : State) (t : Team) (p : Pending) : State :=
  match p.work with
  | .load f places =>
    let (xs, s) := s.loadAll t.core f places
    s.deliver t.id p (xs.result f (p.lanes t)) false
  | .atomic f op lanes keys =>
    let (os, s) := (s.showTo t.core (keyGranules keys)).performAtomic op f lanes keys
    let xs : Loaded := os.map fun o => (o.1, f.place o.2.1, o.2.2)
    s.deliver t.id p (xs.result f (p.lanes t)) false
  | .result _ res whole vacant =>
    let s := s.modTeam t.id fun u => { u with vacant := u.vacant ||| vacant }
    s.deliver t.id p res whole
  | .append buffered es =>
    let s := s.modTeam t.id fun u => u.settled p
    es.foldl (fun s e => if buffered then s.buffer t e else s.append t e) s

/-- Whether an outstanding instruction still has to append (R204, R208). -/
def Pending.appends (p : Pending) : Bool :=
  match p.work with
  | .append _ _ => true
  | _ => false

/-- Whether it is a returning atomic. -/
def Pending.isAtomic (p : Pending) : Bool :=
  match p.work with
  | .atomic _ _ _ _ => true
  | _ => false

/-- Completes the outstanding instructions of a list that `sel` selects, in order of issue; entries are appended in
that order too, so the appends before a selected one go first (R223). -/
def State.completeIn (s : State) (team : Nat) (sel : Pending → Bool) : List Pending → State
  | [] => s
  | p :: ps =>
    let due := sel p || (p.appends && ps.any fun q => q.appends && sel q)
    (match due, s.team? team with
      | true, some t => s.finish t p
      | _, _ => s).completeIn team sel ps

/-- Completes the outstanding instructions of a team that `sel` selects. -/
def State.completeWhere (s : State) (team : Nat) (sel : Pending → Bool) : State :=
  match s.team? team with
  | none => s
  | some t => s.completeIn team sel t.pend

/-- Completes every outstanding instruction of the path that issues (R225). -/
def State.bindPath (s : State) (team : Nat) : State :=
  match s.team? team with
  | none => s
  | some t => s.completeIn team t.issuedBy t.pend

/-- The earlier accesses of this path are complete: its loads have bound their values, its entries are appended
(R225). -/
def M.bind (t : Team) : M Unit := modify fun s => s.bindPath t.id

/-- Whether an earlier access to some bytes and a later one may not change places: they meet, in lanes of which the
earlier access's comes first or is the same (R223, R229, R232). -/
def Touch.before (a b : Touch) : Bool :=
  decide (a.lane ≤ b.lane) && a.space == b.space && decide (a.addr < b.addr + b.len) && decide (b.addr < a.addr + a.len)

/-- The bytes that lanes' accesses of n bytes touch. -/
def touches (n : Nat) (ps : List (Nat × Place)) : List Touch :=
  ps.flatMap fun p =>
    match p.2 with
    | .home parts => parts.map fun q => { lane := p.1, space := none, addr := q.1, len := q.2 }
    | .window c off => [{ lane := p.1, space := some c, addr := off, len := n }]

/-- An access to some bytes comes after the outstanding ones of its path that may not change places with it. -/
def M.inOrder (t : Team) (ts : List Touch) : M Unit :=
  modify fun s => s.completeWhere t.id fun p => t.issuedBy p && p.touch.any fun a => ts.any a.before

/-- Whatever the team has still to append is appended (R112, R209). -/
def M.appended (t : Team) : M Unit := modify fun s => s.completeWhere t.id Pending.appends

/-- Leaves an instruction outstanding: it raises its counter, its registers are busy and its latch is due (R58, R162,
R178). -/
def M.leave (t : Team) (target : Option VTarget) (pair latch : Bool) (mask : Mask) (touch : List Touch) (work : Work) :
    M Unit := do
  let (id, s) := (← get).fresh
  set s
  let v ← M.view t.id
  let p : Pending := { id := id, target := target, pair := pair, mask := mask, touch := touch, work := work }
  let u := { v.team with pend := v.team.pend ++ [p] }
  let u := match work with
    | .load _ _ | .atomic _ _ _ _ | .result false _ _ _ => { u with ld := u.ld + 1 }
    | .result true _ _ _ => { u with xl := u.xl + 1 }
    | .append _ _ => { u with ap := u.ap + 1 }
  M.putView (if latch then { v with team := u }.latch (.due id) else { v with team := u })

/-- Leaves a load or atomic of some places outstanding. -/
def M.leaveAccess (t : Team) (vd : BitVec 6) (f : Fmt) (places : List (Nat × Place)) (work : Work) : M Unit := do
  let v ← M.view t.id
  M.leave t (some (v.targetOf vd)) f.isPair true (maskOf (places.map Prod.fst)) (touches f.bytes places) work

/-- The model's choice whether what an instruction has still to do is left outstanding (log 7). -/
def M.later : M Bool := do
  let (b, s) := (← get).choose
  set s
  return b

/-- Writes a result that an instruction computed, now or, by the model's choice, later (R178, log 7). -/
def M.result (t : Team) (cross : Bool) (vd : BitVec 6) (nw : Bool) (r : Res) (vacant : Mask) : M Unit := do
  if ← M.later then
    let v ← M.view t.id
    let kv := v.namesKv vd
    let merged : Res :=
      { lo := v.merge kv (v.vreg vd) r.lo, hi := r.hi.map fun h => v.merge kv (v.vreg (vd + 1)) h }
    let whole := nw || (v.covers kv && !r.lo.shape.isGeneral)
    M.leave t (if nw then none else some (v.targetOf vd)) r.hi.isSome true t.active []
      (.result cross (if whole then merged else r) whole vacant)
  else
    M.modTeam t.id fun u => { u with vacant := u.vacant ||| vacant }
    M.regs t fun v => .ok (v.put vd nw r)

/-- The first remote home among some lanes' places (R88, R413): lane and device. -/
def State.remote (s : State) (places : List (Nat × Place)) : Option (Nat × Nat) :=
  (places.flatMap fun p =>
    match p.2 with
    | .home parts => parts.map fun q => (p.1, (homeOf q.1).1)
    | .window _ _ => []).find? fun p => p.2 != s.dev.toNat

/-- Whether the next access is left outstanding: the model's choice, for accesses at homes of this device alone
(log 7). -/
def M.leaves (places : List (Nat × Place)) : M Bool := do
  if ((← get).remote places).isSome then return false else M.later

/-- An access to a remote home: its request may still wait for an answer, and once its resends are exhausted the
instruction takes 0x1C5, of a returning atomic performed or not (R413, log 7). -/
def M.remoteAnswer (t : Team) (places : List (Nat × Place)) (addrs : List (Nat × Word)) (perform : State → State) :
    M Unit := do
  match (← get).remote places with
  | none => return
  | some (l, dev) =>
    let va := ((addrs.find? fun a => a.1 == l).map fun a => a.2).getD 0
    let (later, s) := (← get).choose
    set s
    match s.awaited t.id with
    | some r =>
      if r.dead then
        set ((if later then perform s else s).dropRequests t.id)
        throw (trapWith 0x1C5 r.addr)
      else if later then throw (.wait .other)
      else set (s.dropRequests t.id)
    | none =>
      if later then
        let id : FlowId := { dev := s.dev, src := BitVec.ofNat 16 t.core, dst := BitVec.ofNat 10 dev, cls := 1 }
        if (s.flow id).room then set (s.sendRequest id (some t.id) va)
        throw (.wait .other)

/-! ## Places of the lanes, and lanes switched off (R89 to R91, R96, R386) -/

/-- Switches violating lanes off; false when no lane of the path is left, and the path has moved on (R386). -/
def M.switchOff (t : Team) (bad : List (Nat × BitVec 9 × Word)) : M Bool := do
  if bad.isEmpty then return true
  M.bind t
  let left := t.active &&& ~~~(maskOf (bad.map Prod.fst))
  if left == 0 then
    modify fun s => (s.modTeam t.id fun u => u.moveTo (t.arm.pc + 4)).switchOff t.id t.arm.pc bad
    return false
  else
    modify fun s => s.switchOff t.id t.arm.pc bad
    return true

/-- The failed lanes stop the team: the lowest names code and address (R381). -/
def failedStop (acc : AccKind) (rs : List (Nat × Word × Resolved)) : Except Stop Unit :=
  let bad := rs.filterMap fun r =>
    match r.2.2 with
    | .failed e => some (r.1, r.2.1, e)
    | _ => none
  match bad with
  | [] => .ok ()
  | (_, va, e) :: _ => .error (e.stop acc va (maskOf (bad.map Prod.fst)))

/-- Translates the lanes' addresses before anything else happens, then switches violating lanes off; none when no
lane is left (R89, R91, R96). -/
def M.places (t : Team) (acc : AccKind) (n : Nat) (as : List (Nat × Word)) : M (Option (List (Nat × Place))) := do
  let s ← get
  let (rs, s) := s.resolveAll t acc n as
  set s
  M.lift (failedStop acc rs)
  let bad := rs.filterMap fun r =>
    match r.2.2 with
    | .violation => some (r.1, (0x101 : BitVec 9), r.2.1)
    | _ => none
  if ← M.switchOff t bad then
    return some (rs.filterMap fun r =>
      match r.2.2 with
      | .at p => some (r.1, p)
      | _ => none)
  else return none

/-- Partition offsets as physical scratchpad offsets of the core, lanes beyond the partition switched off (R90). -/
def M.offsets (t : Team) (n : Nat) (as : List (Nat × Word)) : M (Option (List (Nat × Nat))) := do
  let s ← get
  let (base, size) := ((s.familyOf? t).map fun f => (f.partBase, f.partSize)).getD (0, 0)
  let bad := (as.filter fun a => decide (size < a.2.toNat + n)).map fun a => (a.1, (0x100 : BitVec 9), a.2)
  if ← M.switchOff t bad then
    return some ((as.filter fun a => decide (a.2.toNat + n ≤ size)).map fun a => (a.1, base + a.2.toNat))
  else return none

/-! ## Loads and stores (R202 to R205) -/

/-- The operands of format M: BASE, then IX (R161). -/
def View.memOperands (v : View) (base : BitVec 4) (ix : VSrc) : Except Stop (Word × Src) := do
  let b ← v.readBase base
  let i ← v.readOneOf posIX ix [.s32, .n32]
  return (b, i)

/-- The addresses of a load, its destination checked (R161, R203). -/
def M.loadAddresses (t : Team) (base : BitVec 4) (ix : VSrc) (vd : BitVec 6) (f : Fmt) (off : BitVec 4) :
    M (List (Nat × Word)) :=
  M.read t fun v => do
    let (b, i) ← v.memOperands base ix
    v.checkV posD vd f.isPair
    v.consume [i]
    return v.addresses b i off f

/-- The addresses of a store and its source (R161, R204). -/
def M.storeAddresses (t : Team) (base : BitVec 4) (ix : VSrc) (vd : BitVec 6) (f : Fmt) (off : BitVec 4) :
    M (List (Nat × Word) × Src) :=
  M.read t fun v => do
    let (b, i) ← v.memOperands base ix
    let d ← v.readD vd f
    v.consume [i]
    return (v.addresses b i off f, d)

/-- `ld` (R203). -/
def load (base : BitVec 4) (ix : VSrc) (vd : BitVec 6) (f : Fmt) (off : BitVec 4) (t : Team) : M Done := do
  let as ← M.loadAddresses t base ix vd f off
  M.countable t 0
  match ← M.places t .load f.bytes as with
  | none => return .moved
  | some ps =>
    M.inOrder t (touches f.bytes ps)
    M.remoteAnswer t ps as id
    if ← M.leaves ps then M.leaveAccess t vd f ps (.load f ps)
    else
      let (xs, s) := (← get).loadAll t.core f ps
      set s
      M.regs t fun v => .ok (v.put vd false (v.loaded f xs))
    return .next

/-- The bytes a lane stores. -/
def Src.bytes (a : Src) (f : Fmt) (l : Nat) : List Byte := bytesOf f.bytes (a.val l)

/-- Appends entries, all of them or, without room, none yet, after those of the team's earlier instructions; a team at
the limit halts (R103, R111, R389). -/
def M.append (t : Team) (es : List LogEntry) : M Unit := do
  M.stopIf (decide ((← get).appendRoom t.core < es.length)) (.wait .logFull)
  M.appended t
  modify fun s => es.foldl (fun s e => s.append t e) s
  M.stopIf (decide (unpublishedLimit ≤ (← get).unpublishedOf t)) (.halt 0x141 0)

/-- Adds reductions to the atomic buffer, or waits when buffer and spill log are full (R110, R208, R387). -/
def M.buffer (t : Team) (es : List LogEntry) : M Unit := do
  M.stopIf (decide ((← get).bufferRoom t.core < es.length)) (.wait .logFull)
  M.appended t
  modify fun s => es.foldl (fun s e => s.buffer t e) s
  M.stopIf (decide (unpublishedLimit ≤ (← get).unpublishedOf t)) (.halt 0x141 0)

/-- Appends or buffers the entries of a store or reduction: now or, by the model's choice and short of the limit, later,
in places kept for them (R178, R204, R208, log 7). -/
def M.toLog (t : Team) (buffered : Bool) (ts : List Touch) (es : List LogEntry) : M Unit := do
  if !es.isEmpty && (← M.later) then
    let s ← get
    M.stopIf (decide ((if buffered then s.bufferRoom t.core else s.appendRoom t.core) < es.length)) (.wait .logFull)
    if s.unpublishedOf t + es.length < unpublishedLimit then
      M.leave t none false false (maskOf (ts.map fun x => x.lane)) ts (.append buffered es)
      return
  if buffered then M.buffer t es else M.append t es

/-- The entries of one lane's bytes, one for each part (R103). -/
def partEntries (bad : Bool) : List (Nat × Nat) → List Byte → List LogEntry
  | [], _ => []
  | (key, n) :: ps, bs => LogEntry.plainAt key (bs.take n) bad :: partEntries bad ps (bs.drop n)

/-- The entries of a store's lanes, ascending (R103, R204). -/
def storeEntries (f : Fmt) (d : Src) (ps : List (Nat × Place)) : List LogEntry :=
  ps.foldl (fun es p =>
    match p.2 with
    | .home parts => es ++ partEntries (d.isPoisoned p.1) parts (d.bytes f p.1)
    | .window _ _ => es) []

/-- Poison that would reach scratchpad halts the team (R391). -/
def M.noPoison (d : Src) (lanes : List Nat) : M Unit := M.stopIf (lanes.any d.isPoisoned) (.halt 0x1C0 0)

/-- Writes the lanes' bytes in scratchpads in place, ascending (R205). -/
def State.storeScratch (s : State) (f : Fmt) (d : Src) (ws : List (Nat × Nat × Nat)) : State :=
  ws.foldl (fun s w => s.scratchWrite w.2.1 w.2.2 (d.bytes f w.1)) s

/-- The window places of lanes: lane, core and offset. -/
def windowPlaces (ps : List (Nat × Place)) : List (Nat × Nat × Nat) :=
  ps.filterMap fun p =>
    match p.2 with
    | .window c off => some (p.1, c, off)
    | .home _ => none

/-- `st` (R204). -/
def store (base : BitVec 4) (ix : VSrc) (vd : BitVec 6) (f : Fmt) (off : BitVec 4) (t : Team) : M Done := do
  let (as, d) ← M.storeAddresses t base ix vd f off
  M.countable t 1
  match ← M.places t .store f.bytes as with
  | none => return .moved
  | some ps =>
    M.noPoison d ((windowPlaces ps).map Prod.fst)
    M.inOrder t (touches f.bytes ps)
    modify fun s => s.recordPending t.id
    M.toLog t false (touches f.bytes ps) (storeEntries f d ps)
    modify fun s => s.storeScratch f d (windowPlaces ps)
    return .next

/-- `sld` (R203). -/
def scratchLoad (base : BitVec 4) (ix : VSrc) (vd : BitVec 6) (f : Fmt) (off : BitVec 4) (t : Team) : M Done := do
  let as ← M.loadAddresses t base ix vd f off
  M.countable t 0
  match ← M.offsets t f.bytes as with
  | none => return .moved
  | some os =>
    let s ← get
    let xs : Loaded := os.map fun o => (o.1, f.place (natOfBytes (s.scratchRead t.core o.2 f.bytes)), false)
    let v ← M.view t.id
    M.result t false vd false (v.loaded f xs) 0
    return .next

/-- A scratchpad store comes after the reads of the team's earlier matrix instructions (R250). -/
def M.afterPasses (t : Team) : M Unit := do
  M.stopIf (((← get).core t.core).passes.any fun p => p.team == t.id) (.wait .tile)

/-- `sst`: it is performed when it issues, after the recording of an earlier release, so `.ld` falls at once (R205,
R225). -/
def scratchStore (base : BitVec 4) (ix : VSrc) (vd : BitVec 6) (f : Fmt) (off : BitVec 4) (t : Team) : M Done := do
  let (as, d) ← M.storeAddresses t base ix vd f off
  M.countable t 0
  match ← M.offsets t f.bytes as with
  | none => return .moved
  | some os =>
    M.noPoison d (os.map Prod.fst)
    M.afterPasses t
    M.inOrder t (os.map fun o => { lane := o.1, space := some t.core, addr := o.2, len := f.bytes })
    modify fun s => s.recordPending t.id
    modify fun s => s.storeScratch f d (os.map fun o => (o.1, t.core, o.2))
    return .next

/-! ## Reductions and returning atomics (R206 to R209) -/

/-- Every lane's address must be aligned to the width; the code, then the misaligned lanes (R89, R206, R211). -/
def M.aligned (code : BitVec 9) (n : Nat) (as : List (Nat × Word)) : M Unit :=
  match as.filter fun a => a.2.toNat % n != 0 with
  | [] => pure ()
  | (l, va) :: rest => throw (.trap code va (some (maskOf (l :: rest.map Prod.fst))))

/-- `red` (R208). -/
def reduction (op : BitVec 4) (base : BitVec 4) (ix : VSrc) (vd : BitVec 6) (f : Fmt) (t : Team) : M Done := do
  let (as, d) ← M.storeAddresses t base ix vd f 0
  M.aligned 0x140 f.bytes as
  M.countable t 1
  match ← M.places t .reduction f.bytes as with
  | none => return .moved
  | some ps =>
    M.inOrder t (touches f.bytes ps)
    modify fun s => s.recordPending t.id
    let level := (← get).levelOf t
    let es := ps.filterMap fun p =>
      match p.2 with
      | .home ((key, _) :: _) =>
        some (LogEntry.reduceAt key op f (d.val p.1 % 2 ^ f.bits) (d.isPoisoned p.1) (t.laneKey p.1) t.order
          (decide (1 ≤ level)))
      | _ => none
    M.toLog t (decide (1 ≤ level)) (touches f.bytes ps) es
    M.modTeam t.id fun u => { u with order := u.order + 1 }
    return .next

/-- The operands of a returning atomic: v, and for `cas` the compare and swap values (R207). -/
def View.atomOperands (v : View) (cas : Bool) (vd : BitVec 6) (f : Fmt) : Except Stop (Src × Src) := do
  if cas then
    let span := if f.isPair then 4 else 2
    v.checkV1 posD vd
    stopIf (decide (vd.toNat % span ≠ 0)) (regTrap 0x042 posD vd.toNat)
    (List.range span).forM fun k => v.checkV1 posD (vd + BitVec.ofNat 6 k)
    let c ← v.readD vd f
    let w ← v.readD (vd + BitVec.ofNat 6 (span / 2)) f
    return (c, w)
  else
    let d ← v.readD vd f
    return (d, d)

/-- Whether the team's log holds an undrained entry on a granule that a publication of the team covers (R209). -/
def State.mustPublish (s : State) (t : Team) (gran : Nat) : Bool :=
  (s.core t.core).log.any fun e =>
    e.team == t.id && e.undrained && !e.eng && e.grans.contains gran && (!e.copy || !e.unpublished)

/-- Publishes what R209 asks for, lane by lane, and waits for it. -/
def State.publishFor (s : State) (t : Team) (keys : List (Nat × Nat)) : State :=
  keys.foldl (fun s k => if s.mustPublish t (granule (bareKey k.2)) then s.publishAndWait t.id .core else s) s

/-- `atom` (R209). -/
def atomic (op : BitVec 4) (base : BitVec 4) (ix : VSrc) (vd : BitVec 6) (f : Fmt) (t : Team) : M Done := do
  let (as, c, w) : List (Nat × Word) × Src × Src ← M.read t fun v => do
    let (b, i) ← v.memOperands base ix
    let (c, w) ← v.atomOperands (op == 15) vd f
    v.consume [i, c, w]
    return (v.addresses b i 0 f, c, w)
  M.aligned 0x140 f.bytes as
  M.countable t 0
  M.gate t
  match ← M.places t .atomic f.bytes as with
  | none => return .moved
  | some ps =>
    M.inOrder t (touches f.bytes ps)
    modify fun s => s.recordPending t.id
    let lanes := ps.map fun p => (p.1, BitVec.ofNat 64 (c.val p.1), BitVec.ofNat 64 (w.val p.1))
    let keys := ps.filterMap fun p =>
      match p.2 with
      | .home ((key, _) :: _) => some (p.1, key)
      | _ => none
    let grans := keyGranules keys
    modify fun s => s.completeWhere t.id fun p =>
      match p.work with
      | .append _ es => es.any fun e => e.grans.any fun g => grans.contains g
      | _ => false
    modify fun s => (s.publishFor t keys).showTo t.core grans
    M.remoteAnswer t ps as fun s => (s.performAtomic op f lanes keys).2
    if (← M.leaves ps) && (← get).levelOf t < 2 then M.leaveAccess t vd f ps (.atomic f op lanes keys)
    else
      let (os, s) := (← get).performAtomic op f lanes keys
      set s
      let xs : Loaded := os.map fun o => (o.1, f.place o.2.1, o.2.2)
      M.regs t fun v => .ok (v.put vd false (v.loaded f xs))
    return .next

/-! ## Full/empty accesses (R98, R211) -/

/-- The state a word must be in. -/
def FeOp.wants (op : FeOp) : Bool := op != .stfe

/-- The access of a team under a ticket, while it has lanes to serve. -/
def Team.access? (t : Team) (ticket : Nat) : Option FeAccess :=
  t.arms.findSome? fun a =>
    match a.prog with
    | .access x => if x.ticket == ticket && !x.todo.isEmpty then some x else none
    | _ => none

/-- Replaces an access; one that has served its lanes waits no more. -/
def Team.putAccess (t : Team) (x : FeAccess) : Team :=
  t.mapArms fun a =>
    match a.prog with
    | .access y =>
      if y.ticket == x.ticket then { a with prog := .access x, wait := if x.todo.isEmpty then none else a.wait } else a
    | _ => a

/-- A register with a new element in one lane. -/
def VReg.setLane (r : VReg) (n lane : Nat) (tag : Tag) (x : Elem) : VReg :=
  VReg.over n (maskOf [lane]) r { tag := tag, shape := .uniform x, poison := 0 }

/-- Writes the element an access has read for a lane (R203, R211, R376). -/
def View.setLane (v : View) (target : VTarget) (f : Fmt) (lane x : Nat) : View :=
  let put (k : Nat) (e : Elem) (v : View) : View :=
    match target with
    | .v n =>
      let r := (v.team.v.getD (n + k) VReg.zero).setLane v.team.size lane (.fmt f) e
      { v with team := { v.team with v := v.team.v.setIfInBounds (n + k) r } }
    | .kv n =>
      let r := (v.kv.getD (n + k) VReg.zero).setLane 32 lane (.fmt f) e
      { v with kv := v.kv.setIfInBounds (n + k) r }
  let v := put 0 (BitVec.ofNat 32 x) v
  if f.isPair then put 1 (BitVec.ofNat 32 (x / 2 ^ 32)) v else v

/-- Performs a full/empty access of one lane: the data and the bit as one (R98). -/
def State.serveLane (s : State) (t : Team) (x : FeAccess) (lane off : Nat) (value : BitVec 64) : State :=
  let bits := x.fmt.place (natOfBytes (s.scratchRead t.core off x.fmt.bytes))
  let s := match x.op with
    | .ldfe => s.setFull t.core off false
    | .stfe => (s.scratchWrite t.core off (bytesOf x.fmt.bytes value.toNat)).setFull t.core off true
    | .ldf => s
  if x.op == .stfe then s
  else
    match s.team? t.id with
    | none => s
    | some u => s.putView ((View.of u (s.core u.core)).setLane x.target x.fmt lane bits)

/-- The first access, in order of arrival, that waits at a word of a core and that the word's state lets be served
(R98). -/
def State.nextArrival (s : State) (core word : Nat) : Option (Team × FeAccess) :=
  (s.core core).arrivals.findSome? fun a =>
    if a.1 != word then none
    else
      match s.team? a.2.1 with
      | none => none
      | some t =>
        match t.access? a.2.2 with
        | none => none
        | some x => if t.core == core && !t.gone && s.isFull core (8 * word) == x.op.wants then some (t, x) else none

/-- Serves the accesses that wait at a word for as long as one can be served; an access that has more lanes arrives at
the word of its next (R98). A team that was excluded has its clock raised past the operation that satisfied its wait
(R328). -/
def State.serveWord : Nat → Nat → Nat → Option Word → State → State
  | 0, _, _, _, s => s
  | fuel + 1, core, word, clock, s =>
    match s.nextArrival core word with
    | none => s
    | some (t, x) =>
      match x.todo with
      | [] => s
      | (lane, off, value) :: rest =>
        let y := { x with todo := rest }
        let s := s.serveLane t x lane off value
        let raise (u : Team) : Team := match clock with
          | some c => if t.excluded && (s.domainOf t).isSome then u.raiseClock c else u
          | none => u
        let s := s.modTeam t.id fun u => (raise u).putAccess y
        let gone := (s.core core).arrivals.filter fun a => a.2.2 != x.ticket
        let here := rest.head?.map fun q => q.2.1 / 8
        let s := s.modCore core fun c => { c with
          arrivals := gone ++ (here.map fun w => (w, t.id, x.ticket)).toList }
        let clock := clock.map fun _ => ((s.team? t.id).map fun u => u.lclk).getD 0
        let s := match here with
          | some w => State.serveWord fuel core w clock s
          | none => s
        State.serveWord fuel core word clock s

/-- The lanes that the accesses of a core have still to serve. -/
def State.toServe (s : State) (core : Nat) : Nat :=
  ((s.teams.filter fun t => t.core == core).flatMap fun t => t.arms.map fun a =>
    match a.prog with
    | .access x => x.todo.length
    | _ => 0).foldl (· + ·) 0

/-- An access arrives at the word of its first lane, and what can be served is (R98). -/
def State.arrive (s : State) (t : Team) (x : FeAccess) : State :=
  match x.todo with
  | [] => s
  | (_, off, _) :: _ =>
    let s := s.modCore t.core fun c => { c with arrivals := c.arrivals ++ [(off / 8, t.id, x.ticket)] }
    State.serveWord (s.toServe t.core + 1) t.core (off / 8) (some t.lclk) s

/-- Ends a full/empty access all of whose lanes have been served, a reading one with its acquire; it waits until then
(R98, R211). -/
def M.endAccess (t : Team) (op : FeOp) : M Done := do
  match (← M.team t.id).arm.prog with
  | .access x =>
    M.stopIf (!x.todo.isEmpty) (.wait .fullEmpty)
    if op != .stfe then
      M.bind t
      modify fun s => s.replay t.id .gang allCores
    return .next
  | _ => return .next

/-- A full/empty access (R211): alignment of every lane, then partition checks, `stfe`'s release before its first
write, the lanes in ascending order, each once its word allows, and an acquire when a reading one completes. -/
def fullEmpty (op : FeOp) (base : BitVec 4) (ix : VSrc) (vd : BitVec 6) (f : Fmt) (t : Team) : M Done := do
  match t.arm.prog with
  | .access _ => M.endAccess t op
  | _ =>
    M.gate t
    let (as, d) ← match op with
      | .stfe => M.storeAddresses t base ix vd f 0
      | _ => do pure (← M.loadAddresses t base ix vd f 0, Src.imm .s32 16)
    M.aligned 0x102 f.bytes as
    M.countable t 0
    match ← M.offsets t f.bytes as with
    | none => return .moved
    | some os =>
      if op == .stfe then
        M.noPoison d (os.map Prod.fst)
        M.afterPasses t
      M.inOrder t (os.map fun o => { lane := o.1, space := some t.core, addr := o.2, len := f.bytes })
      if op == .stfe then
        M.bind t
        M.appended t
        modify fun s => s.publish t.id .gang
      else modify fun s => s.recordPending t.id
      let (ticket, s) := (← get).fresh
      set s
      let v ← M.view t.id
      let x : FeAccess :=
        { op := op, fmt := f, target := v.targetOf vd, ticket := ticket
          todo := os.map fun o => (o.1, o.2, BitVec.ofNat 64 (d.val o.1)) }
      M.setProg t.id (.access x)
      modify fun s => s.arrive t x
      M.endAccess t op

/-! ## The instructions -/

/-- `ld.<fmt>` (R203). -/
def execLd (base : BitVec 4) (ix : VSrc) (vd : BitVec 6) (fmt : Fmt) (off : BitVec 4) (s : State) :
    Host.Outcome State Fault Refusal := issue 4 (load base ix vd fmt off) s

/-- `st.<fmt>` (R204). -/
def execSt (base : BitVec 4) (ix : VSrc) (vd : BitVec 6) (fmt : Fmt) (off : BitVec 4) (s : State) :
    Host.Outcome State Fault Refusal := issue 4 (store base ix vd fmt off) s

/-- `sld.<fmt>` (R203). -/
def execSld (base : BitVec 4) (ix : VSrc) (vd : BitVec 6) (fmt : Fmt) (off : BitVec 4) (s : State) :
    Host.Outcome State Fault Refusal := issue 4 (scratchLoad base ix vd fmt off) s

/-- `sst.<fmt>` (R205). -/
def execSst (base : BitVec 4) (ix : VSrc) (vd : BitVec 6) (fmt : Fmt) (off : BitVec 4) (s : State) :
    Host.Outcome State Fault Refusal := issue 4 (scratchStore base ix vd fmt off) s

/-- `red.add` (R208). -/
def execRedAdd (base : BitVec 4) (ix : VSrc) (vd : BitVec 6) (fmt : Fmt) (s : State) : Host.Outcome State Fault Refusal :=
  issue 4 (reduction 0 base ix vd fmt) s

/-- `red.min` (R208). -/
def execRedMin (base : BitVec 4) (ix : VSrc) (vd : BitVec 6) (fmt : Fmt) (s : State) : Host.Outcome State Fault Refusal :=
  issue 4 (reduction 1 base ix vd fmt) s

/-- `red.max` (R208). -/
def execRedMax (base : BitVec 4) (ix : VSrc) (vd : BitVec 6) (fmt : Fmt) (s : State) : Host.Outcome State Fault Refusal :=
  issue 4 (reduction 2 base ix vd fmt) s

/-- `red.and` (R208). -/
def execRedAnd (base : BitVec 4) (ix : VSrc) (vd : BitVec 6) (fmt : Fmt) (s : State) : Host.Outcome State Fault Refusal :=
  issue 4 (reduction 3 base ix vd fmt) s

/-- `red.or` (R208). -/
def execRedOr (base : BitVec 4) (ix : VSrc) (vd : BitVec 6) (fmt : Fmt) (s : State) : Host.Outcome State Fault Refusal :=
  issue 4 (reduction 4 base ix vd fmt) s

/-- `red.xor` (R208). -/
def execRedXor (base : BitVec 4) (ix : VSrc) (vd : BitVec 6) (fmt : Fmt) (s : State) : Host.Outcome State Fault Refusal :=
  issue 4 (reduction 5 base ix vd fmt) s

/-- `atom.add` (R209). -/
def execAtomAdd (base : BitVec 4) (ix : VSrc) (vd : BitVec 6) (fmt : Fmt) (s : State) : Host.Outcome State Fault Refusal :=
  issue 4 (atomic 8 base ix vd fmt) s

/-- `atom.min` (R209). -/
def execAtomMin (base : BitVec 4) (ix : VSrc) (vd : BitVec 6) (fmt : Fmt) (s : State) : Host.Outcome State Fault Refusal :=
  issue 4 (atomic 9 base ix vd fmt) s

/-- `atom.max` (R209). -/
def execAtomMax (base : BitVec 4) (ix : VSrc) (vd : BitVec 6) (fmt : Fmt) (s : State) : Host.Outcome State Fault Refusal :=
  issue 4 (atomic 10 base ix vd fmt) s

/-- `atom.and` (R209). -/
def execAtomAnd (base : BitVec 4) (ix : VSrc) (vd : BitVec 6) (fmt : Fmt) (s : State) : Host.Outcome State Fault Refusal :=
  issue 4 (atomic 11 base ix vd fmt) s

/-- `atom.or` (R209). -/
def execAtomOr (base : BitVec 4) (ix : VSrc) (vd : BitVec 6) (fmt : Fmt) (s : State) : Host.Outcome State Fault Refusal :=
  issue 4 (atomic 12 base ix vd fmt) s

/-- `atom.xor` (R209). -/
def execAtomXor (base : BitVec 4) (ix : VSrc) (vd : BitVec 6) (fmt : Fmt) (s : State) : Host.Outcome State Fault Refusal :=
  issue 4 (atomic 13 base ix vd fmt) s

/-- `atom.xchg` (R209). -/
def execAtomXchg (base : BitVec 4) (ix : VSrc) (vd : BitVec 6) (fmt : Fmt) (s : State) : Host.Outcome State Fault Refusal :=
  issue 4 (atomic 14 base ix vd fmt) s

/-- `atom.cas` (R209). -/
def execAtomCas (base : BitVec 4) (ix : VSrc) (vd : BitVec 6) (fmt : Fmt) (s : State) : Host.Outcome State Fault Refusal :=
  issue 4 (atomic 15 base ix vd fmt) s

/-- `ldfe` (R211). -/
def execLdfe (base : BitVec 4) (ix : VSrc) (vd : BitVec 6) (fmt : Fmt) (s : State) : Host.Outcome State Fault Refusal :=
  issue 4 (fullEmpty .ldfe base ix vd fmt) s

/-- `stfe` (R211). -/
def execStfe (base : BitVec 4) (ix : VSrc) (vd : BitVec 6) (fmt : Fmt) (s : State) : Host.Outcome State Fault Refusal :=
  issue 4 (fullEmpty .stfe base ix vd fmt) s

/-- `ldf` (R211). -/
def execLdf (base : BitVec 4) (ix : VSrc) (vd : BitVec 6) (fmt : Fmt) (s : State) : Host.Outcome State Fault Refusal :=
  issue 4 (fullEmpty .ldf base ix vd fmt) s

end Sys2Proof.Machine
end

