-- ==== Sys2Proof/Machine/Cross.lean ====
section
/-!
DEFINITION. The cross-lane network, major 17 (10_isa_vector.md R195 to R201). Each instruction reads its sources when it
issues and raises `.xl` until its result, with the VACANT bits it sets, is written (R178, R201).
-/

namespace Sys2Proof.Machine

/-- The formats of a lane index. -/
def indexFmts : List Fmt := [.s32, .n32, .b32]

/-- The permute index word (R197). -/
def permutePick (w : Elem) : Pick := if w.getLsbD 31 then .fill else .lane (w.toNat % 2 ^ 31)

/-- The index of `shfl`, inside the lane's own leaf word (R197). -/
def shufflePick (l : Nat) (w : Elem) : Pick := if w.toNat < 32 then .lane (l / 32 * 32 + w.toNat) else .vacant

/-- A computed lane, vacant outside the leaf word of lane l (R197). -/
def leafPick (l : Nat) (s : Int) : Pick := if 0 ≤ s ∧ s.toNat / 32 = l / 32 then .lane s.toNat else .vacant

/-- An instruction of major 17: a result and the lanes that read a vacant source (R201). -/
def crossOp (vd : BitVec 6) (nw : Bool) (f : View → Except Stop (Res × Mask)) (s : State) :
    Host.Outcome State Fault Refusal :=
  issue 4 (fun t => do
    let (r, vacant) ← M.read t f
    M.countable t 3
    M.result t true vd nw r vacant
    return .next) s

/-- `xperm` and `shfl`: the index vector is consumed (R182, R197). -/
def crossVector (pick : Nat → Elem → Pick) (vb va : VSrc) (vd : BitVec 6) (v : View) : Except Stop (Res × Mask) := do
  let a ← v.readAny posSA va
  let b ← v.readOneOf posSB vb indexFmts
  v.checkV posD vd a.pair
  v.consume [b]
  return v.xmove a fun l => pick l (b.lo.read l)

/-- `shfl.xor`, `shfl.up` and `shfl.dn` (R197). -/
def crossScalar (pick : Nat → Nat → Int) (sb : SSrc) (va : VSrc) (vd : BitVec 6) (v : View) :
    Except Stop (Res × Mask) := do
  let a ← v.readAny posSA va
  let b ← v.readS posSB sb
  v.checkV posD vd a.pair
  return v.xmove a fun l => leafPick l (pick l b.toNat)

/-! ## Votes (R198) -/

/-- The lanes of G(l). -/
def groupLanes (k l : Nat) : List Nat := (List.range (2 ^ k)).map fun j => l / 2 ^ k * 2 ^ k + j

/-- A vote's result for the lanes of a group, given in ascending order with their values; none for a vacant one. -/
abbrev VoteRule := List (Option Elem) → Nat

/-- Whether a lane of a group is true. -/
def voteTrue (x : Option Elem) : Bool :=
  match x with
  | some e => e != 0
  | none => false

/-- `vote.any`. -/
def ruleAny : VoteRule := fun xs => if xs.any voteTrue then 1 else 0

/-- `vote.all`. -/
def ruleAll : VoteRule := fun xs => if xs.all voteTrue then 1 else 0

/-- `vote.eq`: no lane vacant, all bits equal. -/
def ruleEq : VoteRule := fun xs => if xs.all fun x => x.isSome && x == xs.headD none then 1 else 0

/-- `ballot`: bit j for lane j of the group. -/
def ruleBallot : VoteRule := fun xs =>
  (xs.zipIdx 0).foldl (fun w p => if voteTrue p.1 then w + 2 ^ p.2 else w) 0

/-- The values of a group as lane l consults them. -/
def View.groupValues (v : View) (a : Src) (k l : Nat) : List (Option Elem) :=
  (groupLanes k l).map fun s => if v.isVacant s then none else some (a.lo.read s)

/-- The vote instructions: k at most `limit` (R198). -/
def vote (rule : VoteRule) (limit : Nat) (sb : SSrc) (va : VSrc) (vd : BitVec 6) (v : View) :
    Except Stop (Res × Mask) := do
  let a ← v.readSingle posSA va .s32
  let k ← v.readS posSB sb
  v.checkV posD vd false
  stopIf (decide (limit < k.toNat)) (trapWith 0x049 0)
  v.consume [a]
  let k := k.toNat
  let vacant := maskOf (v.team.lanes.filter fun l => (v.groupValues a k l).any Option.isNone)
  let r := if k = 10 then Res.ofShape (.fmt .n32) (.uniform (BitVec.ofNat 32 (rule (v.groupValues a k 0))))
    else v.lanewise (.fmt .n32) false fun l => rule (v.groupValues a k l)
  return (r, vacant)

/-! ## Samples and random words (R199, R200) -/

/-- The exact value of a weight under its tag (R199). -/
def View.weight (v : View) (a : Src) (l : Nat) : XVal :=
  match a.tag.kind v.nf with
  | .float f => f.value (a.val l)
  | .int sg w => XVal.ofInt (intOf sg w (a.val l))
  | .raw => .fin false 0 0

/-- `csamp`: uniform when the write covers (R199). -/
def sampleLanes (sb : SSrc) (va : VSrc) (vd : BitVec 6) (v : View) : Except Stop (Res × Mask) := do
  let a ← v.readOneOf posSA va [.f32, .f16, .bf16, .n32]
  let k ← v.readS posSB sb
  v.checkV posD vd false
  v.consume [a]
  let w := cSample (v.team.lanes.map fun l => (l, v.weight a l)) (k.setWidth 32)
  return (Res.ofShape (.fmt .n32) (.uniform w), 0)

/-- `rng.n32` (R200). -/
def randomWords (vc : VSrc) (sk : SSrc) (vd : BitVec 6) (v : View) : Except Stop (Res × Mask) := do
  let k ← v.readS posSA sk
  let c ← v.readOneOf posSB vc [.n32, .s32, .b32]
  v.checkV posD vd false
  v.consume [c]
  return (v.lanewise (.fmt .n32) c.uniform fun l => (rng k (c.lo.read l)).toNat, 0)

/-! ## The instructions -/

/-- `xperm` (R197). -/
def execXperm (vb va : VSrc) (vd : BitVec 6) (nw : Bool) (s : State) : Host.Outcome State Fault Refusal :=
  crossOp vd nw (crossVector (fun _ w => permutePick w) vb va vd) s

/-- `shfl` (R197). -/
def execShfl (vb va : VSrc) (vd : BitVec 6) (nw : Bool) (s : State) : Host.Outcome State Fault Refusal :=
  crossOp vd nw (crossVector shufflePick vb va vd) s

/-- `shfl.xor` (R197). -/
def execShflXor (sb : SSrc) (va : VSrc) (vd : BitVec 6) (nw : Bool) (s : State) : Host.Outcome State Fault Refusal :=
  crossOp vd nw (crossScalar (fun l b => ((l ^^^ b : Nat) : Int)) sb va vd) s

/-- `shfl.up` (R197). -/
def execShflUp (sb : SSrc) (va : VSrc) (vd : BitVec 6) (nw : Bool) (s : State) : Host.Outcome State Fault Refusal :=
  crossOp vd nw (crossScalar (fun l b => (l : Int) - b) sb va vd) s

/-- `shfl.dn` (R197). -/
def execShflDn (sb : SSrc) (va : VSrc) (vd : BitVec 6) (nw : Bool) (s : State) : Host.Outcome State Fault Refusal :=
  crossOp vd nw (crossScalar (fun l b => (l : Int) + b) sb va vd) s

/-- `vote.any` (R198). -/
def execVoteAny (sb : SSrc) (va : VSrc) (vd : BitVec 6) (nw : Bool) (s : State) : Host.Outcome State Fault Refusal :=
  crossOp vd nw (vote ruleAny 10 sb va vd) s

/-- `vote.all` (R198). -/
def execVoteAll (sb : SSrc) (va : VSrc) (vd : BitVec 6) (nw : Bool) (s : State) : Host.Outcome State Fault Refusal :=
  crossOp vd nw (vote ruleAll 10 sb va vd) s

/-- `vote.eq` (R198). -/
def execVoteEq (sb : SSrc) (va : VSrc) (vd : BitVec 6) (nw : Bool) (s : State) : Host.Outcome State Fault Refusal :=
  crossOp vd nw (vote ruleEq 10 sb va vd) s

/-- `ballot` (R198). -/
def execBallot (sb : SSrc) (va : VSrc) (vd : BitVec 6) (nw : Bool) (s : State) : Host.Outcome State Fault Refusal :=
  crossOp vd nw (vote ruleBallot 5 sb va vd) s

/-- `csamp` (R199). -/
def execCsamp (sb : SSrc) (va : VSrc) (vd : BitVec 6) (nw : Bool) (s : State) : Host.Outcome State Fault Refusal :=
  crossOp vd nw (sampleLanes sb va vd) s

/-- `rng.n32` (R200). -/
def execRngN32 (vc : VSrc) (sk : SSrc) (vd : BitVec 6) (nw : Bool) (s : State) : Host.Outcome State Fault Refusal :=
  crossOp vd nw (randomWords vc sk vd) s

end Sys2Proof.Machine
end

