-- ==== Sys2Proof/Machine/Sync.lean ====
section
/-!
DEFINITION. Release, acquire, barriers, joining and leaving gangs, spawn and `jwait`, tile instructions: majors 38, 39
and 41 (11_isa_memory_sync.md R212 to R217, R221; 02_execution_model.md R29, R30, R39 to R44).
-/

namespace Sys2Proof.Machine

/-! ## Release and acquire (R212, R225) -/

/-- Domain-scope releases and acquires wait while the device is out of the Meridian bound (R418). -/
def M.inBound (scope : Scope) : M Unit := do M.stopIf (scope == .domain && !(← get).inBound) (.wait .sync)

/-- The flush of a release or arrival, which waits for room in the log (R103, R110, R111). -/
def M.flush (t : Team) (w : Wait) (sel : LogEntry → Bool) : M Unit := do
  M.stopIf (!(← get).flushes t sel) (.wait w)
  modify fun s => s.flush t sel

/-- The release of a team at a scope: `.ap` is 0, the atomic buffer is flushed where R110 says so, then Publish; the
recording may come later, below level 2 (R212, R225, log 7). -/
def M.release (t : Team) (scope : Scope) : M Unit := do
  M.inBound scope
  M.stopIf (t.ap != 0) (.wait .sync)
  M.bind t
  modify fun s => s.recordPending t.id
  let s ← get
  let wide := scope == .device || scope == .domain
  if 1 ≤ s.levelOf t && wide then M.flush t .logFull fun e => e.team == t.id
  let (later, s) := (← get).choose
  set s
  if later && s.levelOf t < 2 then
    match s.team? t.id with
    | some u => set { s with pendPubs := s.pendPubs ++ [(t.id, scope, u.tail)] }
    | none => pure ()
  else modify fun s => s.publish t.id scope

/-- The acquire of a team at a scope over the cores `named`: it covers what was recorded when it began, which becomes
visible to its core; it may complete later, below level 2 (R108, R212, log 7). -/
def M.acquire (t : Team) (scope : Scope) (named : Nat → Bool) : M Unit := do
  match t.arm.prog with
  | .acquire _ true => pure ()
  | .acquire _ false => throw (.wait .sync)
  | _ =>
    M.inBound scope
    M.bind t
    modify fun s => s.recordPending t.id
    let (later, s) := (← get).choose
    set s
    match s.team? t.id with
    | none => pure ()
    | some u =>
      let n := s.coverage u scope named
      if later && s.levelOf t < 2 then
        M.setProg t.id (.acquire n false)
        throw (.wait .sync)
      else modify fun s => s.see u.core n

/-- The cores an `acqset` names (R107, R212). -/
def State.namedCores (s : State) (a : Word) (core : Nat) : Bool :=
  a.extractLsb' 54 10 == s.dev && decide (core / 48 = (a.extractLsb' 52 2).toNat) && a.getLsbD (core % 48)

/-- `fence`: the release, once, then the acquire (R212). -/
def fence (scope : Scope) (t : Team) : M Done := do
  M.gate t
  match t.arm.prog with
  | .acquire _ _ => pure ()
  | _ => M.release t scope
  M.acquire t scope allCores
  return .next

/-! ## Barriers (R214) -/

/-- What a barrier arrival does before it counts (R214). -/
def M.arriveAt (t : Team) (scope : Scope) : M Unit := do
  M.inBound scope
  M.stopIf (t.ap != 0) (.wait .barrier)
  M.bind t
  modify fun s => s.recordPending t.id
  let s ← get
  if 1 ≤ s.levelOf t then M.flush t .logFull fun e => e.gang == t.gang
  modify fun s => s.publish t.id scope

/-- The checks of a barrier instruction; `grouped` says that one outside a group traps (R214, R372, R395). -/
def M.barrierChecks (t : Team) (sd : BitVec 6) (outside : Bool) : M Unit := do
  M.read t fun v => v.checkS posD sd
  M.notInHandler t
  M.emptyStack t
  M.stopIf (t.spawned || outside) (trapWith 0x182 0)

/-- The status word of a barrier (R214). -/
def barrierWord (gen : BitVec 32) (status : Word) : Word := (gen.setWidth 64 <<< 32) ||| status

/-- `bar` (R214). -/
def barrier (scope : Scope) (sd : BitVec 6) (t : Team) : M Done := do
  M.barrierChecks t sd false
  if !t.arrived then
    M.gate t
    M.arriveAt t scope
    let gen := (((← get).gang? t.gang).map fun g => g.barGen).getD 0
    M.modTeam t.id fun u => { u with arrived := true, arrGen := if genLe gen u.fromGen then u.fromGen else gen }
    modify fun s => s.barCheck t.gang (some t.lclk)
  let s ← get
  match s.gang? t.gang, s.team? t.id with
  | some g, some u =>
    M.stopIf (genLe g.barGen u.arrGen) (.wait .barrier)
    M.modTeam t.id fun u => { u with arrived := false }
    modify fun s => s.replay t.id .gang allCores
    M.regs t fun v => .ok (v.setS sd (barrierWord u.arrGen g.barStatus))
    return .next
  | _, _ => throw (.wait .barrier)

/-- The cores of a group's member gangs. -/
def State.memberCores (s : State) (gr : Group) (core : Nat) : Bool :=
  s.gangs.any fun g => gr.members.contains g.uid && g.core == some core

/-- `gbar` (R214). -/
def groupBarrier (scope : Scope) (sd : BitVec 6) (t : Team) : M Done := do
  let group := ((← get).gang? t.gang).bind fun g => g.group
  M.barrierChecks t sd group.isNone
  match group with
  | none => throw (trapWith 0x182 0)
  | some id =>
    if !t.groupArrived then
      M.gate t
      M.arriveAt t scope
      let gen := (((← get).group? id).map fun g => g.gen).getD 0
      M.modTeam t.id fun u => { u with groupArrived := true, groupGen := gen }
      modify fun s => s.groupCheck id (some t.lclk)
    let s ← get
    match s.group? id, s.team? t.id with
    | some gr, some u =>
      M.stopIf (genLe gr.gen u.groupGen) (.wait .groupBarrier)
      M.modTeam t.id fun u => { u with groupArrived := false }
      modify fun s => s.replay t.id scope (s.memberCores gr)
      M.regs t fun v => .ok (v.setS sd (barrierWord u.groupGen gr.barStatus))
      return .next
    | _, _ => throw (.wait .groupBarrier)

/-! ## Gangs (R29, R30, R215) -/

/-- The logical ID of a handle (R20). -/
def handleId (h : BitVec 30) : BitVec 32 := 0x80000000 ||| h.setWidth 32

/-- The resident gang with a logical ID that a team of a gang can name: of its tenant, and of its domain; one of its own
resource family before any other (R20, R27, R30). -/
def State.namedGang (s : State) (g : Gang) (id : BitVec 32) : Option Gang :=
  let named (h : Gang) : Bool :=
    h.logical == id && h.tenant == g.tenant && h.domain == g.domain && h.core.isSome
  ((s.gangsOf g.family).find? named).orElse fun _ => s.gangs.find? named

/-- A gang made by `gjoin` in the family of a gang (R30). -/
def Gang.child (g : Gang) (uid : Nat) (id : BitVec 32) (slot : BitVec 5) : Gang :=
  { g with uid := uid, logical := id, packet := none, gslot := slot, barGen := 0, abandoned := false, barStatus := 0
           group := none, ring := [], released := [], island := none, saved := false, image := [] }

/-- Moves a team into a gang: it takes part in that gang's barrier from a generation on, and its old gang loses it
(R29). -/
def State.moveTeam (s : State) (t : Team) (gang : Nat) (fromGen : BitVec 32) : State :=
  (s.modTeam t.id fun u => { u with gang := gang, fromGen := fromGen }).afterTeam t t.gang
    false (some t.lclk)

/-- A team enters a gang of its core and family, or a new gang of its family when there is none (R29, R30). -/
def M.enter (t : Team) (g : Gang) (id : BitVec 32) (named : Option Gang) (trap : Stop) : M Unit := do
  let s ← get
  match named with
  | some h =>
    M.stopIf (h.core != g.core || h.family != g.family) trap
    if h.uid != g.uid then set (s.moveTeam t h.uid (h.barGen + 1))
  | none =>
    match g.core.bind s.gangSlotFor with
    | none => throw (.wait .other)
    | some slot =>
      let (uid, s) := s.fresh
      set ({ s with gangs := s.gangs ++ [g.child uid id slot] }.moveTeam t uid 0)

/-- `gjoin` and `gleave` wait until `.ap` and `.ld` are 0, then for the logical clock (R215, R327). -/
def M.leaveGang (t : Team) : M Unit := do
  M.stopIf (t.counter 0 != 0 || t.ap != 0) (.wait .other)
  M.gate t

/-- `gjoin` (R215). -/
def joinGang (sa : SSrc) (t : Team) : M Done := do
  let a ← M.read t fun v => v.readS posSA sa
  M.notInHandler t
  M.emptyStack t
  M.stopIf t.spawned (trapWith 0x182 0)
  let trap := trapWith 0x183 a
  M.stopIf (a.extractLsb' 30 34 != 0) trap
  M.leaveGang t
  let s ← get
  match s.gangOf? t with
  | none => throw (.wait .other)
  | some g =>
    let id := handleId (a.extractLsb' 0 30)
    M.enter t g id (s.namedGang g id) trap
    return .next

/-- `gleave`: back to the gang the team was created in, which is one of its own family (R215). -/
def leaveGang (t : Team) : M Done := do
  M.notInHandler t
  M.emptyStack t
  match (← get).gangOf? t with
  | none => throw (.wait .other)
  | some g =>
    M.stopIf (g.logical == t.home) (trapWith 0x183 0)
    M.leaveGang t
    let home := ((← get).gangsOf g.family).find? fun h => h.logical == t.home
    M.enter t g t.home home (trapWith 0x183 0)
    return .next

/-! ## spawn and jwait (R216, R217) -/

/-- The register of payload word j. -/
def payloadReg (p : BitVec 4) (j : Nat) : Nat := 4 * p.toNat + j

/-- The payload registers below the count, none of them waiting for a load (R161, R216). -/
def View.checkPayload (v : View) (p : BitVec 4) (np : BitVec 3) : Except Stop Unit := do
  stopIf (decide (v.team.vcnt < payloadReg p np.toNat)) (regTrap 0x040 posD (max (payloadReg p 0) v.team.vcnt))
  stopIf ((List.range np.toNat).any fun j => v.busy (BitVec.ofNat 6 (payloadReg p j))) (.wait .register)

/-- The child of one lane (R21, R39). -/
def childOf (t : Team) (gang uid : Nat) (entry : Word) (p : BitVec 4) (np : BitVec 3) (counter : BitVec 22)
    (tick pubs lane : Nat) : Child :=
  let reg (j : Nat) : VReg := t.v.getD (payloadReg p j) VReg.zero
  let key := childKey (t.laneKey lane) ((t.ords.getD lane 0).toNat + 1)
  { uid := uid, gang := gang, entry := entry, key := key
    payload := (List.range np.toNat).map fun j => (reg j).read lane
    poison := BitVec.ofNat 4 (sumOf ((List.range np.toNat).map fun j =>
      if (reg j).poison.getLsbD lane then 2 ^ j else 0))
    counter := counter, depth := keyDepth key, clock := t.lclk, tick := tick, pubs := pubs }

/-- Children of a family that stand in its spawn ring: its gangs share one (R30). -/
def State.ringOf (s : State) (family : Nat) : List Nat := (s.gangsOf family).flatMap fun g => g.ring

/-- Free places of a core's spawn queue. -/
def State.queueRoom (s : State) (core : Nat) : Nat :=
  spawnQueueEntries - ((s.core core).spawnq.length - (s.ringed core).length)

/-- Free places of a core's spawn queue and of the ring of a gang's family (R30, R40, R41). -/
def State.spawnRoom (s : State) (core : Nat) (g : Gang) : Nat :=
  s.queueRoom core + (spawnRingEntries - (s.ringOf g.family).length)

/-- Adds children, in order, to the queue and then to the ring; the ring keeps the order of its groups (R41). -/
def State.gather (s : State) (core : Nat) (g : Gang) (cs : List Child) : State :=
  let first := if (s.ringOf g.family).isEmpty then s.queueRoom core else 0
  let ringed := (cs.drop first).map fun c => c.uid
  let s := s.modCore core fun c => { c with spawnq := c.spawnq ++ cs }
  { s with gangs := s.gangs.map fun (h : Gang) => if h.uid == g.uid then { h with ring := h.ring ++ ringed } else h }

/-- Releases full groups while there are any (R40). -/
def State.releaseFulls : Nat → Nat → Word → State → State
  | 0, _, _, s => s
  | n + 1, gang, entry, s => State.releaseFulls n gang entry (s.releaseFull gang entry)

/-- Gathers the children of some lanes, as many as there is room for, and releases full groups; the lanes that are
left (R40, R41, R216). -/
def State.gatherSome (s : State) (t : Team) (g : Gang) (entry : Word) (p : BitVec 4) (np : BitVec 3)
    (counter : BitVec 22) (todo : List Nat) : List Nat × State :=
  match s.team? t.id with
  | none => (todo, s)
  | some u =>
    let now := todo.take (s.spawnRoom t.core g)
    let cs := (now.zipIdx 0).map fun q =>
      childOf u g.uid (s.nextId + q.2) entry p np counter s.tick.toNat s.pubSeq q.1
    let s := { s with nextId := s.nextId + now.length }.gather t.core g cs
    let s := s.modTeam t.id fun u => { u with
      ords := (List.range u.size).map fun l => if now.contains l then u.ords.getD l 0 + 1 else u.ords.getD l 0 }
    (todo.drop now.length, State.releaseFulls (now.length + 1) g.uid entry s)

/-- Gathers the children that a `spawn` has still to gather: it stalls while queue and ring are full, as often as they
fill up (R41). -/
def State.gatherAll : Nat → Team → Gang → Word → BitVec 4 → BitVec 3 → BitVec 22 → List Nat → State → List Nat × State
  | 0, _, _, _, _, _, _, todo, s => (todo, s)
  | n + 1, t, g, entry, p, np, counter, todo, s =>
    match todo, s.gang? g.uid with
    | [], _ => ([], s)
    | _, none => (todo, s)
    | _, some h =>
      let (left, s) := s.gatherSome t h entry p np counter todo
      if left.length = todo.length then (left, s) else State.gatherAll n t g entry p np counter left s

/-- The last part of `spawn`: the children, as far as there is room (R41, R216). -/
def M.gather (t : Team) (g : Gang) (entry : Word) (p : BitVec 4) (np : BitVec 3) (off : Nat) (todo : List Nat) :
    M Done := do
  let (left, s) := State.gatherAll (todo.length + 1) t g entry p np (BitVec.ofNat 22 off) todo (← get)
  set s
  match left with
  | [] => return .next
  | _ =>
    M.setProg t.id (.spawning entry off left)
    throw (.wait .spawn)

/-- `spawn` (R216): the checks in the order of the entry, the release, the counter, the children. -/
def spawnChildren (p : BitVec 4) (np : BitVec 3) (sa : SSrc) (sd : BitVec 6) (t : Team) : M Done := do
  let s ← get
  match t.arm.prog, s.gangOf? t, s.familyOf? t with
  | .spawning entry off todo, some g, some _ => M.gather t g entry p np off todo
  | _, some g, some f =>
    let (entry, off) : Word × Word ← M.read t fun v => do
      let e ← v.readS posSA sa
      v.checkS posD sd
      v.checkPayload p np
      return (e, v.scalar sd)
    M.notInHandler t
    M.stopIf (g.nest == 0) (trapWith 0x180 0)
    M.stopIf (!(s.tenant g.tenant).entries.contains entry) (trapWith 0x087 entry)
    M.stopIf (off.toNat % 8 != 0 || decide (f.partSize < off.toNat + 8)) (trapWith 0x107 off)
    match t.lanes.filter fun l => decide (g.nest ≤ keyDepth (t.laneKey l)) || t.ords.getD l 0 == 1023 with
    | l :: ls => throw (.trap 0x181 (BitVec.ofNat 64 l) (some (maskOf (l :: ls))))
    | [] =>
      M.gate t
      M.stopIf (t.ap != 0) (.wait .other)
      M.stopIf (s.spawnRoom t.core g == 0) (.wait .spawn)
      M.bind t
      modify fun s => s.publish t.id .gang
      modify fun s => s.counterAdd f off.toNat (BitVec.ofNat 64 t.lanes.length) (some t.lclk)
      M.gather t g entry p np off.toNat t.lanes
  | _, _, _ => throw (.wait .other)

/-- `jwait` (R217): partial groups leave once, then the counter must be 0. -/
def joinWait (sa : SSrc) (t : Team) : M Done := do
  let off ← M.read t fun v => v.readS posSA sa
  let s ← get
  match s.familyOf? t with
  | none => throw (.wait .other)
  | some f =>
    M.stopIf (off.toNat % 8 != 0 || decide (f.partSize < off.toNat + 8)) (trapWith 0x107 off)
    M.gate t
    if t.arm.prog == .none then
      M.setProg t.id (.done 0)
      modify fun s => s.releasePartials t.gang
    let n := natOfBytes ((← get).scratchRead f.core (f.partBase + off.toNat) 8)
    M.stopIf (n != 0) (.wait (.join off.toNat))
    M.bind t
    modify fun s => (s.replay t.id .gang allCores).see t.core (s.endings f.uid)
    return .next

/-! ## Tiles (R99, R100, R221) -/

/-- An entry of a core's tile table. -/
def Core.tile (c : Core) (k : BitVec 8) : Tile := ((c.tiles.find? fun p => p.1 == k).map Prod.snd).getD Tile.none

/-- Replaces an entry. -/
def Core.setTile (c : Core) (k : BitVec 8) (x : Tile) : Core :=
  { c with tiles := (k, x) :: c.tiles.filter fun p => p.1 != k }

/-- STATE of an entry (R99). -/
def TileState.code : TileState → Nat
  | .empty => 0
  | .filling => 1
  | .ready => 2
  | .draining => 3

/-- The 64 bits of an entry (R99). -/
def Tile.bits (x : Tile) : Word :=
  BitVec.ofNat 64 (x.base.toNat + x.sizeM1.toNat * 2 ^ 12 + x.gslot.toNat * 2 ^ 28 + x.fmt.code.toNat * 2 ^ 33 +
    x.state.code * 2 ^ 38)

/-- First byte and bytes of a tile within its partition. -/
def Tile.range (x : Tile) : Nat × Nat := (x.base.toNat * 1024, (x.sizeM1.toNat + 1) * 1024)

/-- The tile an index names, owned by the gang and in a state; otherwise a class 4 trap (R221, R381). -/
def ownTile (c : Core) (g : Gang) (a : Word) (state : TileState) : Except Stop (BitVec 8 × Tile) := do
  stopIf (decide (256 ≤ a.toNat)) (trapWith 0x103 0)
  let k := a.setWidth 8
  let x := c.tile k
  stopIf (x.state != .empty && x.gslot != g.gslot) (trapWith 0x103 0)
  stopIf (x.state != state) (trapWith 0x105 0)
  return (k, x)

/-- Whether an issued matrix instruction still has to read a tile (R250). -/
def Core.readsTile (c : Core) (k : BitVec 8) : Bool := c.passes.any fun p => p.a.tile == some k || p.b.tile == some k

/-- `tready` and `trel` (R221). -/
def tileStep (old new : TileState) (sa : SSrc) (t : Team) : M Done := do
  let a ← M.read t fun v => v.readS posSA sa
  M.gate t
  let s ← get
  match s.gangOf? t with
  | none => throw (.wait .other)
  | some g =>
    let (k, x) ← M.lift (ownTile (s.core t.core) g a old)
    M.stopIf (old == .ready && (s.core t.core).readsTile k) (.wait .tile)
    modify fun s => s.modCore t.core fun c => c.setTile k { x with state := new }
    return .next

/-- `talloc` (R221). -/
def tileAlloc (sa : SSrc) (sd : BitVec 6) (t : Team) : M Done := do
  let a ← M.read t fun v => do
    let a ← v.readS posSA sa
    v.checkS posD sd
    return a
  let s ← get
  match s.gangOf? t, s.familyOf? t with
  | some g, some f =>
    let base := a.extractLsb' 0 12
    let size := a.extractLsb' 12 12
    let bad := trapWith 0x104 0
    M.stopIf (a.extractLsb' 29 35 != 0) bad
    match tagOf (a.extractLsb' 24 5) with
    | .error _ => throw bad
    | .ok fmt =>
      M.stopIf (decide (f.partSize < (base.toNat + size.toNat + 1) * 1024)) bad
      M.gate t
      match (List.range 256).find? fun k => ((s.core t.core).tile (BitVec.ofNat 8 k)).state == .empty with
      | none => M.regs t fun v => .ok (v.setS sd (-1))
      | some k =>
        let x : Tile := { state := .filling, fmt := fmt, gslot := g.gslot, sizeM1 := size, base := base }
        modify fun s => s.modCore t.core fun c => c.setTile (BitVec.ofNat 8 k) x
        M.regs t fun v => .ok (v.setS sd (BitVec.ofNat 64 k))
      return .next
  | _, _ => throw (.wait .other)

/-- `tstat`: another gang's entry reads as 0; an index beyond the table reads a free value (R221). -/
def tileStat (sa : SSrc) (sd : BitVec 6) (t : Team) : M Done := do
  let a ← M.read t fun v => do
    let a ← v.readS posSA sa
    v.checkS posD sd
    return a
  let s ← get
  if a.toNat < 256 then
    let x := (s.core t.core).tile (a.setWidth 8)
    let mine := (s.gangOf? t).any fun g => g.gslot == x.gslot
    M.regs t fun v => .ok (v.setS sd (if x.state == .empty || mine then x.bits else 0))
  else
    let (w, s) := s.draw
    set s
    M.regs t fun v => .ok (v.setS sd w)
  return .next

/-! ## The instructions -/

/-- `rel.<S>` (R212). -/
def execRel (sc : Scope) (s : State) : Host.Outcome State Fault Refusal :=
  issue 4 (fun t => do
    M.gate t
    M.release t sc
    return .next) s

/-- `acq.<S>` (R212). -/
def execAcq (sc : Scope) (s : State) : Host.Outcome State Fault Refusal :=
  issue 4 (fun t => do
    M.gate t
    M.acquire t sc allCores
    return .next) s

/-- `acqset.<S>` (R212). -/
def execAcqset (sc : Scope) (sa : SSrc) (s : State) : Host.Outcome State Fault Refusal :=
  issue 4 (fun t => do
    let a ← M.read t fun v => v.readS posSA sa
    M.gate t
    M.acquire t sc ((← get).namedCores a)
    return .next) s

/-- `fence.<S>` (R212). -/
def execFence (sc : Scope) (s : State) : Host.Outcome State Fault Refusal := issue 4 (fence sc) s

/-- `bar.<S>` (R214). -/
def execBar (sc : Scope) (sd : BitVec 6) (s : State) : Host.Outcome State Fault Refusal := issue 4 (barrier sc sd) s

/-- `gbar.<S>` (R214). -/
def execGbar (sc : Scope) (sd : BitVec 6) (s : State) : Host.Outcome State Fault Refusal :=
  issue 4 (groupBarrier sc sd) s

/-- `ifence` (R151, R213). -/
def execIfence (s : State) : Host.Outcome State Fault Refusal :=
  issue 4 (fun t => do
    M.modTeam t.id fun u => { u with prefetched := [] }
    return .next) s

/-- `gjoin` (R215). -/
def execGjoin (sa : SSrc) (s : State) : Host.Outcome State Fault Refusal := issue 4 (joinGang sa) s

/-- `gleave` (R215). -/
def execGleave (s : State) : Host.Outcome State Fault Refusal := issue 4 leaveGang s

/-- `spawn` (R216). -/
def execSpawn (p : BitVec 4) (np : BitVec 3) (sa : SSrc) (sd : BitVec 6) (s : State) :
    Host.Outcome State Fault Refusal := issue 4 (spawnChildren p np sa sd) s

/-- `jwait` (R217). -/
def execJwait (sa : SSrc) (s : State) : Host.Outcome State Fault Refusal := issue 4 (joinWait sa) s

/-- `talloc` (R221). -/
def execTalloc (sa : SSrc) (sd : BitVec 6) (s : State) : Host.Outcome State Fault Refusal := issue 4 (tileAlloc sa sd) s

/-- `tready` (R221). -/
def execTready (sa : SSrc) (s : State) : Host.Outcome State Fault Refusal := issue 4 (tileStep .filling .ready sa) s

/-- `trel` (R221). -/
def execTrel (sa : SSrc) (s : State) : Host.Outcome State Fault Refusal := issue 4 (tileStep .ready .empty sa) s

/-- `tstat` (R221). -/
def execTstat (sa : SSrc) (sd : BitVec 6) (s : State) : Host.Outcome State Fault Refusal := issue 4 (tileStat sa sd) s

end Sys2Proof.Machine
end

