-- ==== Sys2Proof/Machine/Matrix.lean ====
section
/-!
DEFINITION. Operand maps, accumulator handles, matrix products and the weight buffer: majors 42 to 46 but for the
drains (13_isa_matrix_stream.md R241 to R261; 04_numbers.md R77, R79, R83 to R86).
-/

namespace Sys2Proof.Machine

/-! ## Formats (R242, R244) -/

/-- The slot width of a tag in bits (R77, R242). -/
def tagSlot (nf : BitVec 4 → BitVec 32) (t : Tag) : Nat :=
  match t with
  | .nf k => slotWidth (narrowFmt (nf k)).width
  | .fmt f => f.bits

/-- The exact value of an element (R76, R244). -/
def tagValue (nf : BitVec 4 → BitVec 32) (t : Tag) (b : Nat) : XVal :=
  match t.kind nf with
  | .float f => f.value b
  | .int signed w => XVal.ofInt (intOf signed w b)
  | .raw => .fin false 0 0

/-- Tags of the first row of R244. -/
def tagHalf (t : Tag) : Bool := t == .fmt .bf16 || t == .fmt .f16 || t.isNarrow

/-- Tags of the second row of R244. -/
def tagByte (t : Tag) : Bool := t == .fmt .s8 || t == .fmt .n8

/-- The chunk length of a pair of formats with an accumulator format, if R244 has it. -/
def chunkLength (a b : Tag) (af : AccFmt) : Option Nat :=
  if tagHalf a && tagHalf b && (af == .f32 || af == .f16) then some 32
  else if tagByte a && tagByte b && af == .s32 then some 32
  else if a == .fmt .f32 && b == .fmt .f32 && af == .f32 then some 4
  else if a == .fmt .f64 && b == .fmt .f64 && af == .f64 then some 1
  else none

/-- The trap of a format combination (R395). -/
def formatTrap (a b : Tag) : Stop := trapWith 0x18C (BitVec.ofNat 64 (a.code.toNat + b.code.toNat * 32))

/-! ## The weight buffer's image (R260) -/

/-- Rounds up to a multiple. -/
def roundUp (n k : Nat) : Nat := (n + k - 1) / k * k

/-- FMT of an image. -/
def imageTag (bs : List Byte) : BitVec 5 := BitVec.ofNat 5 (fieldOf bs 0 4)

/-- SLOT of an image. -/
def imageSlot (bs : List Byte) : Nat := fieldOf bs 2 1

/-- NELEM of an image. -/
def imageElems (bs : List Byte) : Nat := fieldOf bs 4 4

/-- NLINE of an image. -/
def imageLines (bs : List Byte) : Nat := fieldOf bs 8 4

/-- DBYTES of an image. -/
def imageData (bs : List Byte) : Nat := fieldOf bs 12 4

/-- First byte of the line data. -/
def imageDataAt (bs : List Byte) : Nat := 32 + roundUp (4 * imageLines bs) 32

/-- Bytes of the whole image. -/
def imageBytes (bs : List Byte) : Nat := imageDataAt bs + imageData bs

/-- First byte of a line. -/
def imageLineAt (bs : List Byte) (l : Nat) : Nat := imageDataAt bs + fieldOf bs (32 + 4 * l) 4

/-- ImageElem, with whether its bytes are poisoned; none beyond the elements. -/
def WeightBuf.elem (w : WeightBuf) (e : Nat) : Option (Nat × Bool) :=
  if imageElems w.bytes ≤ e then none
  else
    let at_ := imageLineAt w.bytes (e / 64)
    let bm := fieldOf w.bytes at_ 8
    let i := e % 64
    if bm.testBit i then
      let bit := imageSlot w.bytes * countBits i bm
      let byte := at_ + 8 + bit / 8
      let n := max 1 (imageSlot w.bytes / 8)
      let x := fieldOf w.bytes byte n
      some (x / 2 ^ (bit % 8) % 2 ^ imageSlot w.bytes, w.bad.any fun g => decide (byte / 32 ≤ g) && decide (g ≤ (byte + n - 1) / 32))
    else some (0, false)

/-- Whether a header has the form of R260 under the reader's narrow formats. -/
def headerFormed (nf : BitVec 4 → BitVec 32) (bs : List Byte) : Bool :=
  match tagOf (imageTag bs) with
  | .error _ => false
  | .ok tag =>
    decide (fieldOf bs 0 4 / 2 ^ 5 % 2 ^ 11 = 0) && decide (fieldOf bs 3 1 = 0) && imageSlot bs == tagSlot nf tag &&
      decide (1 ≤ imageElems bs) && decide (imageElems bs ≤ 2 ^ 24) &&
      decide (imageLines bs = (imageElems bs + 63) / 64) && decide (imageData bs % 8 = 0) &&
      decide (fieldOf bs 16 16 = 0) && decide (imageBytes bs ≤ 2 ^ 20)

/-- Whether every line lies in the line data (R260). -/
def linesFormed (bs : List Byte) : Bool :=
  (List.range (imageLines bs)).all fun l =>
    let off := fieldOf bs (32 + 4 * l) 4
    let stored := countBits 64 (fieldOf bs (imageDataAt bs + off) 8)
    decide (off % 8 = 0) && decide (off + 8 + roundUp ((stored * imageSlot bs + 7) / 8) 8 ≤ imageData bs)

/-! ## Views (R241, R242) -/

/-- WB of an operand map. -/
def omWeight (om : Word) : Bool := om.getLsbD 23

/-- The number of element (r, c) of a view with slot width S. -/
def MatView.index (v : MatView) (slot r c : Nat) : Nat :=
  (v.om.extractLsb' 0 21).toNat * 256 / slot + r * (v.om.extractLsb' 40 16).toNat + c * (v.om.extractLsb' 24 16).toNat

/-- The byte offset of element e in its tile, swizzled. -/
def MatView.offset (v : MatView) (slot e : Nat) : Nat :=
  let a := e * slot / 8
  a ^^^ ((a / 128 % 2 ^ (v.om.extractLsb' 21 2).toNat) * 16)

/-- Whether element (r, c) lies in its tile. -/
def MatView.inside (v : MatView) (slot r c : Nat) : Bool :=
  v.tile.isNone || decide (v.offset slot (v.index slot r c) + max (slot / 8) 1 ≤ v.bytes)

/-- ElemAt, with whether it is poisoned. -/
def State.elemAt (s : State) (core draw slot : Nat) (v : MatView) (r c : Nat) : Nat × Bool :=
  let e := v.index slot r c
  match v.tile with
  | some _ =>
    let x := natOfBytes (s.scratchRead core (v.base + v.offset slot e) (max (slot / 8) 1))
    (if slot = 4 then x / 16 ^ (e % 2) % 16 else x, false)
  | none =>
    match (s.core core).weight.bind fun w => w.elem e with
    | some x => x
    | none => ((Config.beyondImage draw e).toNat % 2 ^ slot, false)

/-- The view of a map whose tile must be owned and ready (R248). -/
def tileView (c : Core) (g : Gang) (f : Family) (om : Word) (k : BitVec 8) : Except Stop MatView := do
  let x := c.tile k
  stopIf (x.state != .empty && x.gslot != g.gslot) (trapWith 0x103 0)
  stopIf (x.state != .ready) (.wait .tile)
  return { om := om, tag := x.fmt, tile := some k, base := f.partBase + x.base.toNat * 1024
           bytes := (x.sizeM1.toNat + 1) * 1024 }

/-- A class 1 trap of a tile whose FMT is not the wanted one. -/
def tileTagTrap (want have_ : Tag) (pos spec : Nat) : Stop :=
  trapWith 0x041 (regAddr want.code.toNat have_.code.toNat pos spec)

/-- Check 3 of R248: the A map. -/
def viewA (c : Core) (g : Gang) (f : Family) (fmt : Tag) (om : Word) (k : BitVec 4) : Except Stop MatView := do
  stopIf (omWeight om) (trapWith 0x18B om)
  let v ← tileView c g f om (om.extractLsb' 56 8)
  stopIf (v.tag != fmt) (tileTagTrap fmt v.tag posSA k.toNat)
  return v

/-- Check 4 of R248: the B map. -/
def viewB (c : Core) (g : Gang) (f : Family) (om : Word) : Except Stop MatView :=
  if omWeight om then
    match c.weight with
    | some w =>
      if w.family == f.uid then
        match tagOf (imageTag w.bytes) with
        | .ok tag => .ok { om := om, tag := tag, tile := none, base := 0, bytes := w.bytes.length }
        | .error _ => .error (trapWith 0x18B om)
      else .error (trapWith 0x18B om)
    | none => .error (trapWith 0x18B om)
  else tileView c g f om (om.extractLsb' 56 8)

/-! ## Sparsity (R252) -/

/-- n, g and w of a pattern. -/
def patternOf (pat : Nat) : Nat × Nat × Nat :=
  match pat with
  | 0 => (1, 2, 1)
  | 1 => (2, 4, 2)
  | 2 => (1, 4, 2)
  | _ => (4, 8, 3)

/-- Whether a list rises strictly. -/
def risesStrictly : List Nat → Bool
  | a :: b :: rest => decide (a < b) && risesStrictly (b :: rest)
  | _ => true

/-- The kept positions of one group of a row's metadata; none throughout for an illegal group. -/
def keptGroup (pat word q : Nat) : List (Option Nat) :=
  let (n, g, w) := patternOf pat
  let idx := (List.range n).map fun r => word / 2 ^ ((q * n + r) * w) % 2 ^ w
  if risesStrictly idx then idx.map fun i => some (g * q + i) else List.replicate n none

/-- The groups of a row of K positions. -/
def groupsOf (pat k : Nat) : Nat := (k + (patternOf pat).2.1 - 1) / (patternOf pat).2.1

/-- The kept positions of a row from its metadata bits, in group and index order. -/
def keptRow (pat k word : Nat) : List (Option Nat) := (List.range (groupsOf pat k)).flatMap (keptGroup pat word)

/-- Bytes of a row of metadata for `mm.sp` (R253). -/
def metaRowBytes (pat k : Nat) : Nat :=
  let (n, _, w) := patternOf pat
  4 * ((groupsOf pat k * n * w + 31) / 32)

/-! ## Accumulator handles (R245) -/

/-- Bytes of an element of an accumulator. -/
def accBytes : AccFmt → Nat
  | .f64 => 8
  | .f32 | .s32 => 4
  | .f16 => 2

/-- The tag of an accumulator format. -/
def accFmt : AccFmt → Fmt
  | .f64 => .f64
  | .f32 => .f32
  | .f16 => .f16
  | .s32 => .s32

/-- AF of `aalloc` (R246). -/
def accFmtOf (b : BitVec 5) : Option AccFmt :=
  match b.toNat with
  | 0 => some .f64
  | 1 => some .f32
  | 3 => some .f16
  | 6 => some .s32
  | _ => none

/-- Units of 16 KiB that a shape occupies. -/
def accUnitsFor (rows cols : Nat) (af : AccFmt) : Nat := (rows * cols * accBytes af + 16383) / 16384

/-- A handle of a family. -/
def Family.handle (f : Family) (n : Nat) : Handle := f.handles.getD n Handle.empty

/-- Replaces a handle of a family; there are 32. -/
def Family.setHandle (f : Family) (n : Nat) (h : Handle) : Family :=
  { f with handles := (List.range 32).map fun i => if i = n then h else f.handle i }

/-- Units a stream register uses (R266). -/
def Stream.units (q : Stream) : Nat := (8 * q.pairs.length + 16383) / 16384

/-- Units in use of a family's reservation: its held handles and its teams' stream registers. -/
def State.unitsUsed (s : State) (f : Family) : Nat :=
  sumOf ((f.handles.filter fun h => h.state != .free).map fun h => accUnitsFor h.rows h.cols h.af) +
    sumOf ((s.teams.filter fun t => !t.gone && (s.gangOf? t).any fun g => g.family == f.uid).map fun t =>
      sumOf (t.q.toList.map Stream.units))

/-- Free units of a family's reservation. -/
def State.unitsFree (s : State) (f : Family) : Nat := f.accUnits - s.unitsUsed f

/-- The gang and family of a team. -/
def M.family (t : Team) : M (Gang × Family) := do
  let s ← get
  match s.gangOf? t, s.familyOf? t with
  | some g, some f => return (g, f)
  | _, _ => throw (.wait .other)

/-- `aalloc` (R246). -/
def accAlloc (sa : SSrc) (sd : BitVec 6) (t : Team) : M Done := do
  let a ← M.read t fun v => do
    let a ← v.readS posSA sa
    v.checkS posD sd
    return a
  let rows := (a.extractLsb' 0 16).toNat
  let cols := (a.extractLsb' 16 16).toNat
  let bad := trapWith 0x18E a
  match accFmtOf (a.extractLsb' 32 5) with
  | none => throw bad
  | some af =>
    M.stopIf (rows == 0 || cols == 0 || a.extractLsb' 37 27 != 0 || decide (32 < accUnitsFor rows cols af)) bad
    M.gate t
    let (_, f) ← M.family t
    match (List.range 32).find? fun h => (f.handle h).state == .free with
    | some h =>
      if accUnitsFor rows cols af ≤ (← get).unitsFree f then
        let x : Handle := { state := .held, rows := rows, cols := cols, af := af, elems := List.replicate (rows * cols) 0 }
        modify fun s => s.putFamily (f.setHandle h x)
        M.regs t fun v => .ok (v.setS sd (BitVec.ofNat 64 h))
      else M.regs t fun v => .ok (v.setS sd (-1))
    | none => M.regs t fun v => .ok (v.setS sd (-1))
    return .next

/-- Whether an issued matrix instruction of a family still names a handle. -/
def Core.passOn (c : Core) (family : Nat) (h : BitVec 5) : Bool :=
  c.passes.any fun p => p.family == family && p.handle == h

/-- `afree` and `azero`: earlier work on the handle finishes first (R247). -/
def accChange (n : BitVec 5) (change : Handle → Handle) (t : Team) : M Done := do
  M.gate t
  let (_, f) ← M.family t
  M.stopIf ((f.handle n.toNat).state == .free) (trapWith 0x18A (n.setWidth 64))
  M.stopIf ((f.handle n.toNat).state == .draining || ((← get).core t.core).passOn f.uid n) (.wait .tile)
  modify fun s => s.putFamily (f.setHandle n.toNat (change (f.handle n.toNat)))
  return .next

/-! ## The size scalar (R248, R255) -/

/-- M, N and K. -/
def sizeM (x : Word) : Nat := (x.extractLsb' 0 16).toNat
def sizeN (x : Word) : Nat := (x.extractLsb' 16 16).toNat
def sizeK (x : Word) : Nat := (x.extractLsb' 32 16).toNat

/-- PAT. -/
def sizePat (x : Word) : Nat := (x.extractLsb' 48 3).toNat

/-- A size scalar that check 1 of R248 refuses. -/
def sizeBad (sp : Bool) (x : Word) : Bool :=
  sizeM x == 0 || sizeN x == 0 || sizeK x == 0 || x.extractLsb' 51 5 != 0 || decide (3 < sizePat x) ||
    (!sp && (sizePat x != 0 || x.extractLsb' 56 8 != 0))

/-- A size scalar that the octet form refuses (R255). -/
def octetBad (sp : Bool) (x : Word) : Bool :=
  sizeM x == 0 || sizeN x == 0 || sizeK x == 0 || decide (8 < sizeM x) || decide (8 < sizeN x) ||
    decide (8 < sizeK x) || x.extractLsb' 51 13 != 0 || decide (3 < sizePat x) || (!sp && sizePat x != 0)

/-! ## Passes (R249, R250, R254) -/

/-- The original index of a position on the side that follows the duplication map (R249). -/
def Pass.mapped (p : Pass) (side : Bool) (k : Nat) : Nat :=
  if p.side == side && decide (p.k0 ≤ k) then p.dup.getD (k - p.k0) k else k

/-- The column of the A view read for row i and position k; none when it is pruned. -/
def Pass.column (p : Pass) (i k : Nat) : Option Nat :=
  match p.kept with
  | none => some (p.mapped true k)
  | some rows => indexOf? (fun x => x == some (p.mapped true k)) (rows.getD i [])

/-- The elements of A that the pass reads. -/
def Pass.readsA (p : Pass) : List (Nat × Nat) :=
  (List.range p.m).flatMap fun i => ((List.range p.k).filterMap (p.column i)).map fun q => (i, q)

/-- The elements of B that the pass reads. -/
def Pass.readsB (p : Pass) : List (Nat × Nat) :=
  ((List.range p.k).filter fun k => (List.range p.m).any fun i => (p.column i k).isSome).flatMap fun k =>
    (List.range p.n).map fun j => (p.mapped false k, j)

/-- The narrow format registers as the pass saw them. -/
def Pass.nfOf (p : Pass) (k : BitVec 4) : BitVec 32 := p.nf.getD k.toNat 0

/-- Slot widths of the two views. -/
def Pass.slotA (p : Pass) : Nat := tagSlot p.nfOf p.a.tag
def Pass.slotB (p : Pass) : Nat := tagSlot p.nfOf p.b.tag

/-- The exact products of element (i, j), one for each k (R249, R254). -/
def State.products (s : State) (core : Nat) (p : Pass) (i j : Nat) : List XVal :=
  (List.range p.k).map fun k =>
    match p.column i k with
    | none => .fin false 0 0
    | some q =>
      (tagValue p.nfOf p.a.tag (s.elemAt core p.free p.slotA p.a i q).1).mul
        (tagValue p.nfOf p.b.tag (s.elemAt core p.free p.slotB p.b (p.mapped false k) j).1)

/-- Applies a pass whole to its handle and raises the flags of its team (R249 to R251). -/
def State.applyPass (s : State) (core : Nat) (p : Pass) : State :=
  match s.family? p.family with
  | none => s
  | some f =>
    let h := f.handle p.handle.toNat
    let c := (chunkLength p.a.tag p.b.tag h.af).getD 1
    let cell (e : Nat) (old : Word) : Word × AccFlags :=
      let i := e / h.cols
      let j := e % h.cols
      if i < p.m ∧ j < p.n then
        let r := chunkSum h.af old.toNat { sat := false, ovf := false } (chunksOf c (p.k + 1) (s.products core p i j))
        (BitVec.ofNat 64 r.1, r.2)
      else (old, { sat := false, ovf := false })
    let cells := (h.elems.zipIdx 0).map fun x => cell x.2 x.1
    let s := s.putFamily (f.setHandle p.handle.toNat { h with elems := cells.map Prod.fst })
    s.modTeam p.team fun t =>
      t.raiseMxs p.nmbad (cells.any fun x => x.2.sat) (cells.any fun x => x.2.ovf)

/-- The MXE applies the oldest issued instruction. -/
def State.runPass (s : State) (core : Nat) : State :=
  let c := s.core core
  match c.passes with
  | [] => s
  | p :: ps => (s.putCore { c with passes := ps, mxeLast := s.tick.toNat }).applyPass core p

/-- The MXE applies every issued instruction in order. -/
def State.runPasses : Nat → State → Nat → State
  | 0, s, _ => s
  | n + 1, s, core => State.runPasses n (s.runPass core) core

/-- Hands an instruction to the MXE; an admitted MXE applies it at once, unless it is left for later below level 2
(R250, R356, log 7). -/
def M.issuePass (t : Team) (p : Pass) : M Unit := do
  modify fun s => s.modCore t.core fun c => { c with passes := c.passes ++ [p], mxeAsked := true }
  let (later, s) := (← get).choose
  set s
  let c := s.core t.core
  if c.mxeAdmitted && !(later && s.levelOf t < 2) then modify fun s => s.runPasses c.passes.length t.core

/-- An instruction that the MXE performs at once waits for its admission (R356). -/
def M.admitted (t : Team) : M Unit := do
  if !((← get).core t.core).mxeAdmitted then
    modify fun s => s.modCore t.core fun c => { c with mxeAsked := true }
    throw (.wait .other)
  modify fun s => s.modCore t.core fun c => { c with mxeLast := s.tick.toNat }

/-- The first row with an illegal group. -/
def firstIllegal (rows : List (List (Option Nat))) : Option Nat := indexOf? (fun r => r.contains none) rows

/-- The entries of the duplication map that a product of K positions needs; one at or above K0 traps (R249, R259). -/
def State.dupEntries (s : State) (t : Team) (f : Family) (k : Nat) : Except Stop (List Nat) := do
  let k0 := (t.dm.extractLsb' 48 16).toNat
  let n := min (t.dm.extractLsb' 32 16).toNat (k - k0)
  let es := (List.range n).map fun i =>
    natOfBytes (s.scratchRead t.core (f.partBase + (t.dm.extractLsb' 0 22).toNat + 4 * i) 4)
  match indexOf? (fun e => decide (k0 ≤ e)) es with
  | some i => .error (trapWith 0x18F (BitVec.ofNat 64 i))
  | none => return es

/-- The metadata of `mm.sp` (R253): its tile, then the positions kept in every row. -/
def State.metaRows (s : State) (t : Team) (g : Gang) (f : Family) (x : Word) (sd : BitVec 6) :
    Except Stop (List (List (Option Nat))) := do
  let v ← tileView (s.core t.core) g f 0 (x.extractLsb' 56 8)
  stopIf (v.tag != .fmt .b32) (tileTagTrap (.fmt .b32) v.tag posD sd.toNat)
  let n := metaRowBytes (sizePat x) (sizeK x)
  stopIf (decide (v.bytes < sizeM x * n)) (trapWith 0x106 0)
  return (List.range (sizeM x)).map fun i =>
    keptRow (sizePat x) (sizeK x) (natOfBytes (s.scratchRead t.core (v.base + i * n) n))

/-- Whether the weight buffer holds poison under an element that is read. -/
def State.readsPoison (s : State) (core draw slot : Nat) (v : MatView) (es : List (Nat × Nat)) : Bool :=
  v.tile.isNone && es.any fun e => (s.elemAt core draw slot v e.1 e.2).2

/-- The checks of R248 after the scalar's, in their order; what the pass will need. -/
def State.preparePass (s : State) (t : Team) (g : Gang) (f : Family) (sp : Bool) (fmt : Tag) (acc : BitVec 5)
    (oma omb : BitVec 4) (x : Word) (sd : BitVec 6) : Except Stop Pass := do
  let c := s.core t.core
  let h := f.handle acc.toNat
  stopIf (h.state == .free) (trapWith 0x18A (acc.setWidth 64))
  stopIf (h.state == .draining) (.wait .tile)
  stopIf (decide (h.rows < sizeM x) || decide (h.cols < sizeN x)) (trapWith 0x18A (acc.setWidth 64))
  let a ← viewA c g f fmt (t.om.getD oma.toNat 0) oma
  let b ← viewB c g f (t.om.getD omb.toNat 0)
  stopIf ((chunkLength a.tag b.tag h.af).isNone || (sp && !(tagHalf a.tag || tagByte a.tag))) (formatTrap a.tag b.tag)
  let dup ← s.dupEntries t f (sizeK x)
  let kept ← if sp then (s.metaRows t g f x sd).map some else .ok none
  let p : Pass :=
    { team := t.id, gang := t.gang, family := f.uid, handle := acc, m := sizeM x, n := sizeN x, k := sizeK x, a := a
      b := b, nf := t.nf, free := s.free, side := t.dmSide, k0 := (t.dm.extractLsb' 48 16).toNat, dup := dup
      kept := kept, nmbad := (kept.bind firstIllegal).isSome }
  stopIf (!(p.readsA.all fun e => a.inside p.slotA e.1 e.2) || !(p.readsB.all fun e => b.inside p.slotB e.1 e.2))
    (trapWith 0x106 0)
  match kept.bind firstIllegal with
  | some i => stopIf (mxsNmtrap t.mxs) (trapWith 0x18D (BitVec.ofNat 64 i))
  | none => pure ()
  stopIf (s.readsPoison t.core s.free p.slotB b p.readsB) (.halt 0x1C0 0)
  return p

/-- `mm` and `mm.sp` (R248, R249, R254). -/
def matrixMultiply (sp : Bool) (fmt : Tag) (acc : BitVec 5) (oma omb : BitVec 4) (sd : BitVec 6) (t : Team) :
    M Done := do
  let x ← M.read t fun v => v.readS posD (.s sd)
  M.stopIf (sizeBad sp x) (trapWith 0x189 x)
  M.gate t
  let (g, f) ← M.family t
  let s ← get
  let p ← M.lift (s.preparePass t g f sp fmt acc oma omb x sd)
  modify fun s => { s with free := s.free + 1 }
  M.issuePass t p
  return .next

/-! ## The octet form (R255, R256) -/

/-- Elements of A per register. -/
def octetPack (nf : BitVec 4 → BitVec 32) (fmt : Tag) : Nat := 32 / tagSlot nf fmt

/-- The accumulator format and register format of an A format. -/
def octetAcc (fmt : Tag) : AccFmt := if tagByte fmt then .s32 else .f32

/-- A register of the octet form: below the count, of its tag, not waiting for a load. -/
def View.octetReg (v : View) (pos : Nat) (r : Nat) (wants : List Fmt) : Except Stop VReg := do
  stopIf (decide (64 ≤ r)) (regTrap 0x040 pos r)
  let n := BitVec.ofNat 6 r
  v.checkV pos n false
  let x : Src := { lo := v.vreg n, hi := VReg.zero, pair := false }
  fmtCheck x (wants.map .fmt) pos r
  return x.lo

/-- What the octet form reads from registers. -/
structure OctetRegs where
  ctl : VReg
  a : List VReg
  d : List VReg
  deriving DecidableEq, Repr

/-- Reads and checks the registers. -/
def View.octetRegs (v : View) (fmt : Tag) (vd va : BitVec 6) (x : Word) : Except Stop OctetRegs := do
  let e := octetPack v.nf fmt
  let ctl ← v.octetReg posSA va.toNat [.n32, .b32]
  let a ← (List.range ((sizeK x + e - 1) / e)).mapM fun i =>
    v.octetReg posSA (va.toNat + 1 + i) [if fmt == .fmt .f32 then .f32 else .pk]
  let d ← (List.range (sizeN x)).mapM fun n => v.octetReg posD (vd.toNat + n) [accFmt (octetAcc fmt)]
  return { ctl := ctl, a := a, d := d }

/-- The operands of the octet form: VA, sD and VD are checked before sD's value (R161, R255). -/
def View.octetOperands (v : View) (sp : Bool) (fmt : Tag) (vd va : BitVec 6) (sd : BitVec 4) :
    Except Stop (Word × OctetRegs) := do
  let _ ← v.octetReg posSA va.toNat [.n32, .b32]
  let x ← v.readS posSB (.s (sd.setWidth 6))
  if octetBad sp x then
    let _ ← v.octetReg posD vd.toNat [accFmt (octetAcc fmt)]
    .error (trapWith 0x189 x)
  else return (x, ← v.octetRegs fmt vd va x)

/-- Element k of a lane's row of A. -/
def OctetRegs.elemA (r : OctetRegs) (slot l k : Nat) : Nat :=
  let e := 32 / slot
  ((r.a.getD (k / e) VReg.zero).read l).toNat / 2 ^ (slot * (k % e)) % 2 ^ slot

/-- The positions a lane keeps; all of them in the dense form. -/
def OctetRegs.keeps (r : OctetRegs) (sp : Bool) (x : Word) (l : Nat) : List (Option Nat) :=
  if sp then keptRow (sizePat x) (sizeK x) ((r.ctl.read l).toNat % 2 ^ 16) else (List.range (sizeK x)).map some

/-- B block index of a lane's octet: that of the lowest participating lane of the octet. -/
def OctetRegs.block (r : OctetRegs) (lanes : List Nat) (l : Nat) : Nat :=
  (r.ctl.read ((lanes.find? fun i => i / 8 == l / 8).getD l)).toNat / 2 ^ 16

/-- One element of the octet form's result. -/
def State.octetCell (s : State) (t : Team) (sp : Bool) (fmt : Tag) (b : MatView) (x : Word) (r : OctetRegs)
    (lanes : List Nat) (l n : Nat) : Nat × AccFlags :=
  let nf (k : BitVec 4) : BitVec 32 := t.nf.getD k.toNat 0
  let keeps := r.keeps sp x l
  let prods := (List.range (sizeK x)).map fun k =>
    if keeps.contains (some k) then
      (tagValue nf fmt (r.elemA (tagSlot nf fmt) l k)).mul
        (tagValue nf b.tag (s.elemAt t.core s.free (tagSlot nf b.tag) b (8 * r.block lanes l + k) n).1)
    else .fin false 0 0
  chunkSum (octetAcc fmt) ((r.d.getD n VReg.zero).read l).toNat { sat := false, ovf := false }
    (chunksOf ((chunkLength fmt b.tag (octetAcc fmt)).getD 1) (sizeK x + 1) prods)

/-- The elements of B that the octet form reads. -/
def OctetRegs.readsB (r : OctetRegs) (sp : Bool) (x : Word) (lanes : List Nat) : List (Nat × Nat) :=
  lanes.flatMap fun l =>
    ((List.range (sizeK x)).filter fun k => (r.keeps sp x l).contains (some k)).flatMap fun k =>
      (List.range (sizeN x)).map fun n => (8 * r.block lanes l + k, n)

/-- A register with new values in some lanes. -/
def VReg.replace (r : VReg) (size : Nat) (lanes : List Nat) (f : Nat → Nat) : VReg :=
  { tag := r.tag
    shape := .general ((List.range size).map fun l => if lanes.contains l then BitVec.ofNat 32 (f l) else r.read l)
    poison := r.poison &&& ~~~(maskOf lanes) &&& maskBelow size }

/-- `mmo` and `mmo.sp` (R255, R256). -/
def octetMultiply (sp : Bool) (fmt : Tag) (vd va : BitVec 6) (omb sd : BitVec 4) (t : Team) : M Done := do
  let (x, r) : Word × OctetRegs ← M.read t fun v => v.octetOperands sp fmt vd va sd
  M.gate t
  let (g, f) ← M.family t
  let s ← get
  let nf (k : BitVec 4) : BitVec 32 := t.nf.getD k.toNat 0
  let b ← M.lift (viewB (s.core t.core) g f (t.om.getD omb.toNat 0))
  M.stopIf ((chunkLength fmt b.tag (octetAcc fmt)).isNone || (sp && !(tagHalf fmt || tagByte fmt))) (formatTrap fmt b.tag)
  let lanes := t.lanes.filter fun l => decide (l % 8 < sizeM x)
  let reads := r.readsB sp x lanes
  M.stopIf (!(reads.all fun e => b.inside (tagSlot nf b.tag) e.1 e.2)) (trapWith 0x106 0)
  let bad := lanes.find? fun l => (r.keeps sp x l).contains none
  match bad with
  | some l => M.stopIf (mxsNmtrap t.mxs) (trapWith 0x18D (BitVec.ofNat 64 l))
  | none => pure ()
  let poison := (r.ctl :: r.a ++ r.d).any fun q => q.poison &&& maskOf lanes != 0
  M.stopIf (poison || s.readsPoison t.core s.free (tagSlot nf b.tag) b reads) (.halt 0x1C0 0)
  M.admitted t
  modify fun s => { s with free := s.free + 1 }
  let cells := (List.range (sizeN x)).map fun n => lanes.map fun l => (l, s.octetCell t sp fmt b x r lanes l n)
  M.regs t fun v => .ok ((cells.zipIdx 0).foldl (fun (v : View) c =>
    let new := (r.d.getD c.2 VReg.zero).replace t.size lanes fun l =>
      ((c.1.find? fun y => y.1 == l).map fun y => y.2.1).getD 0
    v.put (vd + BitVec.ofNat 6 c.2) false { lo := new, hi := none }) v)
  M.modTeam t.id fun u => u.raiseMxs bad.isSome (cells.any fun c => c.any fun y => y.2.2.sat)
    (cells.any fun c => c.any fun y => y.2.2.ovf)
  return .next

/-! ## The weight buffer (R261) -/

/-- Whether an issued matrix instruction of a family still reads the weight buffer. -/
def Core.readsWeight (c : Core) (family : Nat) : Bool := c.passes.any fun p => p.family == family && p.b.tile.isNone

/-- Parts of a range as loads of a core read them: the bytes, and the indices of the poisoned parts. -/
def State.readPartsBad (s : State) (core : Nat) : Nat → List (Nat × Nat) → List Byte × List Nat × State
  | _, [] => ([], [], s)
  | i, (key, n) :: ps =>
    let (b, bad, s) := s.coreRead core key n
    let (bs, bads, s) := s.readPartsBad core (i + 1) ps
    (b ++ bs, if bad then i :: bads else bads, s)

/-- Reads global bytes as loads of the team's core, with the indices of the poisoned granules of a range that begins
at a granule (R105). -/
def M.bulkRead (t : Team) (acc : AccKind) (va : Word) (n : Nat) : M (List Byte × List Nat) := do
  let (r, s) := (← get).translateRange ((← get).teamCtx t) acc va n
  set s
  match r with
  | .error (e, at_) => throw (e.stop acc at_ t.active)
  | .ok parts =>
    let (bs, bad, s) := s.readPartsBad t.core 0 parts
    set s
    return (bs, bad)

/-- Whether the structure of an image lies in poisoned granules: the line table and every line's bitmap. -/
def structurePoisoned (bs : List Byte) (bad : List Nat) : Bool :=
  bad.any fun g =>
    decide (g < imageDataAt bs / 32) ||
      (List.range (imageLines bs)).any fun l => decide (imageLineAt bs l / 32 ≤ g) && decide (g ≤ (imageLineAt bs l + 7) / 32)

/-- Reads the image of a weight buffer as loads of the team's core: its bytes and the indices of its poisoned granules
(R260, R261). -/
def M.weightImage (t : Team) (a : Word) : M (List Byte × List Nat) := do
  let bad := trapWith 0x190 a
  let (header, poisoned) ← M.bulkRead t .bulkLoad a 32
  M.stopIf (!poisoned.isEmpty) (.halt 0x1C0 0)
  M.stopIf (!headerFormed (fun k => t.nf.getD k.toNat 0) header) bad
  let (bs, poisoned) ← M.bulkRead t .bulkLoad a (imageBytes header)
  M.stopIf (structurePoisoned bs poisoned) (.halt 0x1C0 0)
  M.stopIf (!linesFormed bs) bad
  return (bs, poisoned)

/-- `wbld` (R261). -/
def weightLoad (sa : SSrc) (sd : BitVec 6) (t : Team) : M Done := do
  let a ← M.read t fun v => do
    let a ← v.readS posSA sa
    v.checkS posD sd
    return a
  M.gate t
  let (_, f) ← M.family t
  let c := (← get).core t.core
  if c.weight.any fun w => w.family != f.uid then
    M.regs t fun v => .ok (v.setS sd 1)
    return .next
  M.stopIf (c.readsWeight f.uid) (.wait .tile)
  M.stopIf (a.toNat % 32 != 0) (trapWith 0x190 a)
  M.bind t
  let (bs, poisoned) ← M.weightImage t a
  modify fun s => s.modCore t.core fun c =>
    { c with weight := some { family := f.uid, addr := a, bytes := bs, bad := poisoned } }
  M.regs t fun v => .ok (v.setS sd 0)
  return .next

/-- `wbld.rel` (R261). -/
def weightRelease (t : Team) : M Done := do
  M.gate t
  let (_, f) ← M.family t
  M.stopIf (((← get).core t.core).readsWeight f.uid) (.wait .tile)
  modify fun s => s.modCore t.core fun c =>
    if c.weight.any fun w => w.family == f.uid then { c with weight := none } else c
  return .next

/-! ## The instructions -/

/-- `mm.<fmt>` (R248, R249). -/
def execMm (fmt : Tag) (acc : BitVec 5) (oma omb : BitVec 4) (sd : BitVec 6) (s : State) :
    Host.Outcome State Fault Refusal := issue 4 (matrixMultiply false fmt acc oma omb sd) s

/-- `mm.sp.<fmt>` (R253, R254). -/
def execMmSp (fmt : Tag) (acc : BitVec 5) (oma omb : BitVec 4) (sd : BitVec 6) (s : State) :
    Host.Outcome State Fault Refusal := issue 4 (matrixMultiply true fmt acc oma omb sd) s

/-- `mmo.<fmt>` (R255, R256). -/
def execMmo (fmt : Tag) (vd va : BitVec 6) (omb sd : BitVec 4) (s : State) : Host.Outcome State Fault Refusal :=
  issue 4 (octetMultiply false fmt vd va omb sd) s

/-- `mmo.sp.<fmt>` (R255, R256). -/
def execMmoSp (fmt : Tag) (vd va : BitVec 6) (omb sd : BitVec 4) (s : State) : Host.Outcome State Fault Refusal :=
  issue 4 (octetMultiply true fmt vd va omb sd) s

/-- `aalloc` (R246). -/
def execAalloc (sa : SSrc) (sd : BitVec 6) (s : State) : Host.Outcome State Fault Refusal := issue 4 (accAlloc sa sd) s

/-- `afree` (R247). -/
def execAfree (n : BitVec 5) (s : State) : Host.Outcome State Fault Refusal :=
  issue 4 (accChange n fun _ => Handle.empty) s

/-- `azero` (R247). -/
def execAzero (n : BitVec 5) (s : State) : Host.Outcome State Fault Refusal :=
  issue 4 (accChange n fun h => { h with elems := List.replicate (h.rows * h.cols) 0 }) s

/-- `wbld` (R261). -/
def execWbld (sa : SSrc) (sd : BitVec 6) (s : State) : Host.Outcome State Fault Refusal := issue 4 (weightLoad sa sd) s

/-- `wbld.rel` (R261). -/
def execWbldRel (s : State) : Host.Outcome State Fault Refusal := issue 4 weightRelease s

/-- `omset` (R243). -/
def execOmset (k : BitVec 4) (sa : SSrc) (s : State) : Host.Outcome State Fault Refusal :=
  issue 4 (fun t => do
    let a ← M.read t fun v => v.readS posSA sa
    M.stopIf (omWeight a && (a.extractLsb' 56 8 != 0 || a.extractLsb' 21 2 != 0)) (trapWith 0x18B a)
    M.modTeam t.id fun u => { u with om := u.om.setIfInBounds k.toNat a }
    return .next) s

/-- The bits of a narrow format register that hold fields; a write to the others is ignored (R3, R74). -/
def nfFields : BitVec 32 := 0x1FFFFF

/-- `nfset` (R258). -/
def execNfset (k : BitVec 4) (sa : SSrc) (s : State) : Host.Outcome State Fault Refusal :=
  issue 4 (fun t => do
    let a ← M.read t fun v => v.readS posSA sa
    M.stopIf (a.extractLsb' 32 32 != 0 || !narrowValid (a.extractLsb' 0 32)) (trapWith 0x046 0)
    M.modTeam t.id fun u => { u with nf := u.nf.setIfInBounds k.toNat (a.extractLsb' 0 32 &&& nfFields) }
    return .next) s

/-- `nfget` (R258). -/
def execNfget (k : BitVec 4) (sd : BitVec 6) (s : State) : Host.Outcome State Fault Refusal :=
  issue 4 (fun t => do
    M.regs t fun v => v.writeS sd ((v.nf k).setWidth 64)
    return .next) s

/-- `dmset` (R259). -/
def execDmset (side : Bool) (sa : SSrc) (s : State) : Host.Outcome State Fault Refusal :=
  issue 4 (fun t => do
    let a ← M.read t fun v => v.readS posSA sa
    let d := (a.extractLsb' 32 16).toNat
    let off := (a.extractLsb' 0 22).toNat
    M.stopIf (a.extractLsb' 22 10 != 0 || decide (16384 < d)) (trapWith 0x18F a)
    let (_, f) ← M.family t
    M.stopIf (off % 4 != 0 || decide (f.partSize < off + 4 * d)) (trapWith 0x107 (BitVec.ofNat 64 off))
    M.modTeam t.id fun u => { u with dm := a, dmSide := side }
    return .next) s

end Sys2Proof.Machine
end

