-- ==== Sys2Proof/Machine/Engines.lean ====
section
/-!
DEFINITION. Copies, drains and engine commands: majors 40 and 49, the drains of major 45, and the events of the
engines but for SOLVE (11_isa_memory_sync.md R218 to R220; 13_isa_matrix_stream.md R262 to R265;
14_isa_islands_engines.md R278 to R292; 12_consistency.md R238, R239).
-/

namespace Sys2Proof.Machine

/-! ## Runs -/

/-- A run as a team issues it. -/
def Run.make (s : State) (t : Team) (id : Nat) (kind : RunKind) (head : Word) : Run :=
  { id := id, num := 0, team := t.id, gang := t.gang, key := t.key, teamIndex := t.index
    gangLogical := ((s.gangOf? t).map fun g => g.logical).getD 0, slot := t.slot, level := s.levelOf t
    ttbase := ((s.gangOf? t).map fun g => g.ttbase).getD 0, sys := t.isSystem, nf := t.nf, kind := kind
    started := false, next := head, loops := [], cur := none, fault := none, status := none }

/-- The narrow formats a run keeps. -/
def Run.nfOf (r : Run) (k : BitVec 4) : BitVec 32 := r.nf.getD k.toNat 0

/-- The core whose view an engine reads: the BCE's own, or none for a die's engine. -/
def Chan.view (c : Chan) : Option Nat := if c.engine == .bce then some c.core else none

/-- The number of an engine as the source of flows (log 12). -/
def Chan.source (c : Chan) : BitVec 16 :=
  match c.engine with
  | .bce => BitVec.ofNat 16 (0x200 + c.core)
  | .gs d => BitVec.ofNat 16 (0x100 + d.toNat)
  | .se k => BitVec.ofNat 16 (0x108 + k.toNat)

/-- The translation of a run's accesses: its team's tables and level (R95, R293). -/
def Run.ctx (r : Run) (c : Chan) : TrCtx :=
  { core := c.view, tenant := r.ttbase.extractLsb' 8 8, root := (r.ttbase.extractLsb' 16 32).toNat
    en := r.ttbase.getLsbD 0, sys := r.sys }

/-- The die of an engine. -/
def Chan.die (c : Chan) : Nat :=
  match c.engine with
  | .bce => dieOf c.core
  | .gs die => die.toNat
  | .se k => k.toNat / 8

/-- Whether an engine is in a publication's instance: a member of its die's and of the device's, and the BCE of its
core's (R224). -/
def Pub.reaches (p : Pub) (die : Nat) (core : Option Nat) : Bool :=
  match p.scope with
  | .team | .gang => false
  | .core => core == some p.core
  | .die => dieOf p.core == die
  | .device | .domain => true

/-- One more than the last publication that the acquire of an engine covers, at device or domain scope (R108, R239). -/
def State.engineCoverage (s : State) (die : Nat) (core : Option Nat) : Nat :=
  s.pubs.foldl (fun m p => if p.reaches die core then max m (p.seq + 1) else m) 0

/-- An engine's acquire at device or domain scope. -/
def State.engineAcquire (s : State) (c : Chan) : State := s.forceBelow (s.engineCoverage c.die c.view)

/-- A failed engine access: the code to report, or an address no HBM holds. -/
def M.engineFault (e : TrErr) (at_ : Word) : M (BitVec 9 × Word) :=
  match e with
  | .fault code _ => pure (code, at_)
  | .absent pa => throw (.absent pa)

/-- Translates parts in order up to the first that fails. -/
def State.translateUpTo (s : State) (c : TrCtx) (acc : AccKind) :
    List (Word × Nat) → List (Nat × Nat) × Option (TrErr × Word) × State
  | [] => ([], none, s)
  | (va, n) :: ps =>
    match s.translate c acc va with
    | (.error e, s) => ([], some (e, va), s)
    | (.ok key, s) =>
      let (rest, e, s) := s.translateUpTo c acc ps
      ((key, n) :: rest, e, s)

/-- A byte on its way through an engine, with whether it came from a poisoned granule. -/
abbrev Stream8 := List (Byte × Bool)

/-- Reads parts, as loads of a core or at the homes, up to the last. -/
def State.readStream (s : State) (view : Option Nat) : List (Nat × Nat) → Stream8 × State
  | [] => ([], s)
  | (key, n) :: ps =>
    let (b, bad, s) := match view with
      | some core => s.coreRead core key n
      | none => s.homeRead key n
    let (bs, s) := s.readStream view ps
    (b.map (fun x => (x, bad)) ++ bs, s)

/-- Reads a global range for a run: what lies before the first fault, and the fault; the pieces of bulk data at other
devices are requests in class 2 (R344, R347). -/
def M.engineReadIn (bulk : Bool) (c : Chan) (r : Run) (va : Word) (n : Nat) :
    M (Stream8 × Option (BitVec 9 × Word)) := do
  let (parts, e, s) := (← get).translateUpTo (r.ctx c) .load (cutRange (n / 32 + 2) va n)
  let (bs, s) := s.readStream c.view parts
  set (if bulk then s.sendPieces c.source r.id (parts.map fun p => p.1) else s)
  match e with
  | none => return (bs, none)
  | some (e, at_) => return (bs, some (← M.engineFault e at_))

/-- Reads a global range for a run. -/
def M.engineRead : Chan → Run → Word → Nat → M (Stream8 × Option (BitVec 9 × Word)) := M.engineReadIn false

/-- Reads bulk data for a run. -/
def M.bulkFrom : Chan → Run → Word → Nat → M (Stream8 × Option (BitVec 9 × Word)) := M.engineReadIn true

/-- The partition of a run's family, with its core. -/
def State.partitionOf (s : State) (c : Chan) : Nat × Nat × Nat :=
  ((s.family? c.family).map fun f => (f.core, f.partBase, f.partSize)).getD (c.core, 0, 0)

/-! ## Segments (R102, R264, R287) -/

/-- Joins parts that follow one another at their home. -/
def joinParts (ps : List (Nat × Nat)) : List (Nat × Nat) :=
  ps.foldr (fun p acc =>
    match acc with
    | q :: qs => if bareKey p.1 + p.2 = bareKey q.1 then (p.1, p.2 + q.2) :: qs else p :: acc
    | [] => [p]) []

/-- A segment entry of n bytes at a key (R102). -/
def LogEntry.segmentAt (key n : Nat) (src : Word) (space : BitVec 8) (r : Run) (eng copy : Bool) : LogEntry :=
  { (LogEntry.blank.at (granule key)) with
    kind := .segment, mask := BitVec.ofNat 32 (2 ^ 32 - 2 ^ (key % 32))
    lastMask := BitVec.ofNat 32 (2 ^ ((key + n - 1) % 32 + 1) - 1), len := (granulesOf key n).length
    srcAddr := src - BitVec.ofNat 64 (key % 32), srcSpace := space, run := r.num, runId := some r.id, eng := eng
    copy := copy }

/-- The segment entries of a range, one for each run of granules that is contiguous at its home, with the fault that
cuts it short. -/
def M.segments (c : Chan) (r : Run) (va : Word) (n : Nat) (src : Word) (space : BitVec 8) (eng copy : Bool) :
    M (List LogEntry × Nat × Option (BitVec 9 × Word)) := do
  let (parts, e, s) := (← get).translateUpTo (r.ctx c) .store (cutRange (n / 32 + 2) va n)
  set s
  let fault ← match e with
    | none => pure none
    | some (e, at_) => do pure (some (← M.engineFault e at_))
  let (es, _) := (joinParts parts).foldl (fun (acc : List LogEntry × Nat) p =>
    (acc.1 ++ [LogEntry.segmentAt p.1 p.2 (src + BitVec.ofNat 64 acc.2) space r eng copy], acc.2 + p.2)) ([], 0)
  return (es, sumOf (parts.map Prod.snd), fault)

/-- Bytes a segment entry writes. -/
def LogEntry.segBytes (e : LogEntry) : Nat :=
  if e.len = 0 then 0 else e.len * 32 - ctzBits 32 e.mask.toNat - (31 - e.lastMask.toNat.log2)

/-- Gives a segment entry its data, as much of it as there is, cut to whole granules. -/
def LogEntry.hold (e : LogEntry) (bs : Stream8) : LogEntry :=
  let first := ctzBits 32 e.mask.toNat
  let data := List.replicate first (0, false) ++ bs
  let len := if bs.length < e.segBytes then data.length / 32 else e.len
  { e with
    len := len, held := some (data.map Prod.fst)
    heldPoison := (List.range len).filter fun i => ((data.drop (32 * i)).take 32).any Prod.snd }

/-- Gives a run's entries their data, in the order they were appended. -/
def holdIn (run : Nat) : List LogEntry → Stream8 → List LogEntry
  | [], _ => []
  | e :: es, bs =>
    if e.runId == some run && e.kind == .segment then
      e.hold (bs.take e.segBytes) :: holdIn run es (bs.drop e.segBytes)
    else e :: holdIn run es bs

/-- The engine of a run holds its data (R109). -/
def State.holdSegments (s : State) (core run : Nat) (bs : Stream8) : State :=
  s.modCore core fun c => { c with log := holdIn run c.log bs }

/-- Appends entries of a run under its team's slot; without room, the run waits (R103, R111). -/
def M.engineAppend (c : Chan) (r : Run) (es : List LogEntry) : M Unit := do
  M.stopIf (decide (((← get).core c.core).room < es.length)) (.wait .logFull)
  modify fun s => es.foldl (fun s e =>
    s.appendEntry c.core { e with
      slot := r.slot, tenant := (r.ctx c).tenant, team := r.team, gang := r.gang, origin := s.originOf r.gang }) s

/-- Publishes exactly a run's entries at device scope and waits until they are applied (R106, R239). -/
def State.enginePublish (s : State) (c : Chan) (r : Run) : State :=
  let s := s.recordPubOf c.core r.team r.gang .device fun e => e.runId == some r.id && e.unpublished
  s.forceBelow s.pubSeq

/-! ## Copies (R218, R219, R287) -/

/-- The fields of a length word: DIR, TV, TILE and LEN. -/
def copyDir (w : Word) : Nat := (w.extractLsb' 62 2).toNat
def copyTv (w : Word) : Bool := w.getLsbD 61
def copyTile (w : Word) : BitVec 8 := w.extractLsb' 48 8
def copyLen (w : Word) : Nat := (w.extractLsb' 0 32).toNat

/-- Whether the destination is scratchpad, and whether the source is. -/
def toScratch (dir : Nat) : Bool := dir % 2 == 1
def fromScratch (dir : Nat) : Bool := decide (2 ≤ dir)

/-- What a tile lacks as a destination or source of a gang: its owner, its state, or the range. -/
inductive TileFlaw where
  | owner | state | range
  deriving DecidableEq, Repr

/-- Judges the tile of a range at a partition offset. -/
def tileFlaw (c : Core) (gslot : Option (BitVec 5)) (k : BitVec 8) (want : TileState) (off n : Nat) : Option TileFlaw :=
  let x := c.tile k
  if x.state != .empty && gslot != some x.gslot then some .owner
  else if x.state != want then some .state
  else if x.range.1 ≤ off ∧ off + n ≤ x.range.1 + x.range.2 then none
  else some .range

/-- Halts the team of a run, if it still runs (R391). -/
def State.haltRunTeam (s : State) (r : Run) (code : BitVec 9) : State :=
  match s.team? r.team with
  | none => s
  | some t => if t.gone then s else s.haltTeam t.id (t.trapInfo code 0 t.active t.arm.pc false) false true

/-- Changes the state of a tile of a core. -/
def State.tileTo (s : State) (core : Nat) (k : BitVec 8) (st : TileState) : State :=
  s.modCore core fun c => c.setTile k { c.tile k with state := st }

/-- Moves the bytes of a copy: into its segment entries, or in place. The answer is its status. -/
def M.moveBytes (c : Chan) (r : Run) (dir : Nat) (dst src : Word) (n : Nat) (cut : Option (BitVec 9 × Word)) :
    M (BitVec 8 × Option (BitVec 9 × Word)) := do
  let (core, base, _) := (← get).partitionOf c
  let (bs, fault) ← if fromScratch dir then do
      pure (((← get).scratchRead core (base + src.toNat) n).map fun b => (b, false), none)
    else M.bulkFrom c r src n
  let fault := fault <|> cut
  if toScratch dir then
    if bs.any Prod.snd then
      modify fun s => s.haltRunTeam r 0x1C0
      return (10, none)
    modify fun s => s.scratchWrite core (base + dst.toNat) (bs.map Prod.fst)
  else modify fun s => s.holdSegments c.core r.id bs
  return (if fault.isSome then 3 else 0, fault)

/-- The checks of R218, in its order. -/
def copyCheck (c : Core) (g : Gang) (f : Family) (dst src w : Word) : Except Stop Unit := do
  let bad := trapWith 0x193 w
  let dir := copyDir w
  let n := copyLen w
  stopIf (w.extractLsb' 56 5 != 0 || w.extractLsb' 32 16 != 0) bad
  stopIf (copyTv w && !toScratch dir) bad
  stopIf (toScratch dir && decide (f.partSize < dst.toNat + n)) (trapWith 0x107 dst)
  stopIf (fromScratch dir && decide (f.partSize < src.toNat + n)) (trapWith 0x107 src)
  stopIf (!toScratch dir && (dst.toNat % 32 != 0 || n % 32 != 0)) bad
  if copyTv w then
    match tileFlaw c (some g.gslot) (copyTile w) .filling dst.toNat n with
    | none => pure ()
    | some .owner => throw (trapWith 0x103 0)
    | some .state => throw (trapWith 0x105 0)
    | some .range => throw (trapWith 0x107 dst)

/-- A command's run ends with a status; one that reports a fault completes when its channel has room for the entry
(R382). -/
def State.endCommand (s : State) (c : Chan) (r : Run) (status : BitVec 8) : State :=
  if status == 3 && !s.mayComplete c r then
    s.putChan (c.setRun { r with cur := some { status := status, next := r.next, ends := true, waiting := none } })
  else s.completeRun c.id r status

/-- A `copy` that its channel has accepted is performed (R218, R219, R238); one of no bytes was complete at issue. -/
def M.performCopy (c : Chan) (r : Run) (dst src w : Word) (limit : Nat) : M Unit := do
  let r := { r with started := true }
  modify fun s => s.putChan (c.setRun r)
  if copyLen w == 0 then modify fun s => s.completeRun c.id r 0
  else
    let (status, fault) ← M.moveBytes c r (copyDir w) dst src limit r.fault
    let s ← get
    let (core, _, _) := s.partitionOf c
    if copyTv w && status == 0 then
      if ((s.core core).tile (copyTile w)).state == .filling then
        modify fun s => (s.tileTo core (copyTile w) .ready).completeRun c.id r 0
      else modify fun s => s.completeRun c.id r 4
    else modify fun s => s.endCommand c { r with fault := fault } status

/-- `copy` (R218): the checks, the segment entries at issue, and the run. -/
def copyCommand (sn : BitVec 6) (sa : SSrc) (sd : BitVec 6) (t : Team) : M Done := do
  let (src, w, dst) : Word × Word × Word ← M.read t fun v => do
    let a ← v.readS posSA sa
    let w ← v.readS posSB (.s sn)
    let d ← v.readS posD (.s sd)
    return (a, w, d)
  let (g, f) ← M.family t
  M.lift (copyCheck ((← get).core t.core) g f dst src w)
  M.countable t 2
  modify fun s => s.recordPending t.id
  M.appended t
  let (c?, s) := (← get).chanFor f g.tenant .bce
  let (id, s) := s.fresh
  set s
  match c? with
  | none => throw (.wait .engine)
  | some c =>
    let dir := copyDir w
    let n := copyLen w
    let r := Run.make s t id (.copy dst src w n) 0
    let (es, limit, fault) ← if toScratch dir || n == 0 then pure ([], n, none)
      else do
        let from_ := if fromScratch dir then BitVec.ofNat 64 (f.partBase + src.toNat) else src
        M.segments c r dst n from_ (if fromScratch dir then 1 else 0) false true
    M.append t es
    let r := { r with kind := .copy dst src w limit, fault := fault }
    modify fun s => s.modTeam t.id fun u => { u with
      en := u.en + 1, openCopies := u.openCopies + 1
      copies := u.copies ++ [{ run := id, batch := none, glob := !toScratch dir && n != 0, done := n == 0, fault := false }] }
    if n == 0 && copyTv w then modify fun s => s.tileTo f.core (copyTile w) .ready
    let later ← M.later
    modify fun s =>
      let s := s.putChan { c with accept := c.accept ++ [r] }
      if later then s else s.acceptRun c.id
    return .next

/-- Whether a batch is among those up to n (R112, R220). -/
def CopyRec.upTo (c : CopyRec) (n : BitVec 32) : Bool :=
  match c.batch with
  | some b => genLe b n
  | none => false

/-- `cbseal` (R112, R220). -/
def sealBatch (sd : BitVec 6) (t : Team) : M Done := do
  M.read t fun v => v.checkS posD sd
  let n := t.sealed + 1
  M.modTeam t.id fun u => { u with
    sealed := n, openCopies := 0
    copies := u.copies.map fun c => { c with batch := some (c.batch.getD n) } }
  M.regs t fun v => .ok (v.setS sd (n.setWidth 64))
  return .next

/-- `cbwait` (R220): its copies complete, a faulted one traps once, and unpublished segment entries are published at
core scope and applied. -/
def waitBatches (sa : SSrc) (t : Team) : M Done := do
  let a ← M.read t fun v => v.readS posSA sa
  M.gate t
  let n := a.extractLsb' 0 32
  let n := if genLe n t.sealed then n else t.sealed
  let due := t.copies.filter fun c => c.upTo n
  M.stopIf (due.any fun c => !c.done) (.wait .engine)
  match due.find? fun c => c.fault with
  | some c =>
    M.modTeam t.id fun u => { u with
      copies := u.copies.map fun d => if d.upTo n then { d with fault := false } else d }
    throw (trapWith 0x194 ((c.batch.getD 0).setWidth 64))
  | none =>
    M.bind t
    modify fun s => s.recordPending t.id
    let ids := due.map fun c => c.run
    let mine (e : LogEntry) : Bool := e.copy && e.unpublished && (e.runId.any fun i => ids.contains i)
    let s ← get
    if ((s.core t.core).log.any mine) then
      match s.team? t.id with
      | some u =>
        modify fun s => s.recordPub u .core fun e => e.coveredBy u.id u.tail || mine e
        modify fun s => s.forceBelow s.pubSeq
      | none => pure ()
    M.modTeam t.id fun u => { u with copies := u.copies.filter fun c => !c.upTo n }
    return .next

/-! ## Drains (R262 to R265) -/

/-- The fields of a tensor shape record. -/
structure Shape64 where
  base : Word
  rstr : Nat
  dim0 : Nat
  dim1 : Nat
  row0 : Nat
  col0 : Nat
  crlo : Nat
  crhi : Nat
  cclo : Nat
  cchi : Nat
  ofmt : BitVec 5
  orm : BitVec 3
  sat : Bool
  comp : Bool
  scols : Nat
  ccap : Nat
  ovf : Word
  reserved : Bool
  deriving DecidableEq, Repr

/-- Reads a record (R262). -/
def Shape64.of (bs : List Byte) : Shape64 :=
  let w := BitVec.ofNat 32 (fieldOf bs 0x2C 4)
  { base := BitVec.ofNat 64 (fieldOf bs 0 8), rstr := fieldOf bs 8 4, dim0 := fieldOf bs 12 4, dim1 := fieldOf bs 16 4
    row0 := fieldOf bs 20 4, col0 := fieldOf bs 24 4, crlo := fieldOf bs 28 4, crhi := fieldOf bs 32 4
    cclo := fieldOf bs 36 4, cchi := fieldOf bs 40 4, ofmt := w.extractLsb' 27 5, orm := w.extractLsb' 24 3
    sat := w.getLsbD 23, comp := w.getLsbD 22, scols := (w.extractLsb' 0 16).toNat, ccap := fieldOf bs 0x30 4
    ovf := BitVec.ofNat 64 (fieldOf bs 0x38 8), reserved := w.extractLsb' 16 6 != 0 || fieldOf bs 0x34 4 != 0 }

/-- The source of a drain: its shape, tag, and the bits of each element. -/
structure DrainSource where
  rows : Nat
  cols : Nat
  tag : Tag
  elem : Nat → Nat → Nat

/-- A handle as a source. -/
def Handle.source (h : Handle) : DrainSource :=
  { rows := h.rows, cols := h.cols, tag := .fmt (accFmt h.af), elem := fun i j => (h.elems.getD (i * h.cols + j) 0).toNat }

/-- A tile as a source: SCOLS columns and as many rows as it holds (R263). -/
def State.tileSource (s : State) (core base : Nat) (x : Tile) (nf : BitVec 4 → BitVec 32) (scols : Nat) : DrainSource :=
  let slot := tagSlot nf x.fmt
  { rows := x.range.2 * 8 / (scols * slot), cols := scols, tag := x.fmt
    elem := fun i j =>
      let e := i * scols + j
      natOfBytes (s.scratchRead core (base + x.range.1 + e * slot / 8) (max (slot / 8) 1)) / 2 ^ (e * slot % 8) % 2 ^ slot }

/-- The written columns of a source row: tensor row, first and last column plus one (R264). -/
def Shape64.run (p : Shape64) (cols i : Nat) : Option (Nat × Nat × Nat) :=
  let r := p.row0 + i
  let lo := max p.col0 p.cclo
  let hi := min (p.col0 + cols) (min p.dim1 p.cchi)
  if r < p.dim0 ∧ p.crlo ≤ r ∧ r < p.crhi ∧ lo < hi then some (r, lo, hi) else none

/-- The source rows with something to write, ascending. -/
def Shape64.runs (p : Shape64) (rows cols : Nat) : List (Nat × Nat × Nat × Nat) :=
  (List.range rows).filterMap fun i => (p.run cols i).map fun x => (i, x)

/-- Whether a record and source fail a check of R263 that is not about the tile or handle itself. -/
def drainRefused (nf : BitVec 4 → BitVec 32) (p : Shape64) (src : DrainSource) (add : Bool) : Bool :=
  match tagOf p.ofmt with
  | .error _ => true
  | .ok out =>
    let mode := match p.orm.toNat, out with
      | 5, .nf k => narrowDefRnd (nf k)
      | _, _ => rmodeOf (p.orm.setWidth 2)
    p.reserved || decide (4 = p.orm.toNat) || src.tag.kind nf == .raw ||
      out.kind nf == .raw || cvtDisallowed src.tag out p.sat p.orm mode || decide (p.base.toNat % 32 ≠ 0) || decide (p.rstr % 32 ≠ 0) ||
      decide (p.ovf.toNat % 32 ≠ 0) ||
      (tagSlot nf out == 4 && (p.runs src.rows src.cols).any fun x => x.2.2.1 % 2 == 1 || x.2.2.2 % 2 == 1) ||
      (add && (p.comp || p.sat || !(out == .fmt .f32 || out == .fmt .f64 || out == .fmt .s32)))

/-- The bits written for source element (i, j) in slot form; a stochastic default takes a free value (R264). -/
def drainBits (nf : BitVec 4 → BitVec 32) (p : Shape64) (src : DrainSource) (free i j : Nat) : Nat :=
  match tagOf p.ofmt with
  | .error _ => 0
  | .ok out =>
    let mode := match p.orm.toNat, out with
      | 5, .nf k => narrowDefRnd (nf k)
      | _, _ => rmodeOf (p.orm.setWidth 2)
    let rnd := if mode == .sr then (Config.freeWord (free + i * src.cols + j)).toNat % 2 ^ 16 else 0
    cvtLane (src.tag.kind nf) (out.kind nf) p.sat mode rnd (src.elem i j)

/-- Packs elements of S bits into bytes (R77). -/
def packBits (slot : Nat) (xs : List Nat) : List Byte :=
  bytesOf ((xs.length * slot + 7) / 8) (sumOf ((xs.zipIdx 0).map fun x => x.1 % 2 ^ slot * 2 ^ (slot * x.2)))

/-- The bytes of one row's run. -/
def rowBytes (nf : BitVec 4 → BitVec 32) (p : Shape64) (src : DrainSource) (slot free : Nat)
    (x : Nat × Nat × Nat × Nat) : List Byte :=
  packBits slot ((List.range (x.2.2.2 - x.2.2.1)).map fun d => drainBits nf p src free x.1 (x.2.2.1 + d - p.col0))

/-- Where the run of a row begins. -/
def Shape64.rowAt (p : Shape64) (slot : Nat) (x : Nat × Nat × Nat × Nat) : Word :=
  p.base + BitVec.ofNat 64 (x.2.1 * p.rstr + x.2.2.1 * slot / 8)

/-- Slot bits of the output. -/
def Shape64.slot (p : Shape64) (nf : BitVec 4 → BitVec 32) : Nat :=
  match tagOf p.ofmt with
  | .ok out => tagSlot nf out
  | .error _ => 32

/-- The segment entries of a dense drain, row by row, up to a fault. A staging slot has no address (R102): the source
address of these entries counts from 0 at the run's first byte (log 70). -/
def M.drainSegments (c : Chan) (r : Run) (p : Shape64) (slot : Nat) :
    List (Nat × Nat × Nat × Nat) → M (List LogEntry × Option (BitVec 9 × Word))
  | [] => pure ([], none)
  | x :: xs => do
    let n := (x.2.2.2 - x.2.2.1) * slot / 8
    let (es, _, fault) ← M.segments c r (p.rowAt slot x) n 0 2 true false
    match fault with
    | some f => return (es, some f)
    | none =>
      let (rest, f) ← M.drainSegments c r p slot xs
      return (es ++ rest, f)

/-- The reductions of an `.add` drain: one for each granule, ascending, up to a fault (R264). -/
def M.drainReductions (c : Chan) (r : Run) (p : Shape64) (f : Fmt) (order : Word) :
    List (Word × List Byte) → M (List LogEntry × Option (BitVec 9 × Word))
  | [] => pure ([], none)
  | (va, bs) :: rest => do
    match (← get).translate (r.ctx c) .reduction va with
    | (.error e, s) =>
      set s
      return ([], some (← M.engineFault e va))
    | (.ok key, s) =>
      set s
      let e := { LogEntry.plainAt key bs false with
        kind := .reduction, op := 0, fmt := f, eng := r.level == 0, runId := some r.id, key := r.key, order := order
        sorted := r.level != 0, slot := r.slot, tenant := (r.ctx c).tenant, team := r.team, gang := r.gang
        origin := s.originOf r.gang }
      let (es, flt) ← M.drainReductions c r p f order rest
      return (e :: es, flt)

/-- The granule pieces of the rows, in ascending address. -/
def granulePieces (rows : List (Word × List Byte)) : List (Word × List Byte) :=
  let cut (x : Word × List Byte) : List (Word × List Byte) :=
    ((cutRange (x.2.length / 32 + 2) x.1 x.2.length).foldl (fun (acc : List (Word × List Byte) × Nat) q =>
      (acc.1 ++ [(q.1, (x.2.drop acc.2).take q.2)], acc.2 + q.2)) ([], 0)).1
  sortBy (fun a b : Word × List Byte => decide (a.1.toNat < b.1.toNat)) (rows.flatMap cut)

/-- Writes bytes for a run: entries appended, held, to be published by the engine. -/
def M.engineWrite (c : Chan) (r : Run) (va : Word) (bs : List Byte) : M (Option (BitVec 9 × Word)) := do
  let (es, _, fault) ← M.segments c r va bs.length 0 2 true false
  let (es, _) := es.foldl (fun (acc : List LogEntry × Stream8) e =>
    (acc.1 ++ [e.hold (acc.2.take e.segBytes)], acc.2.drop e.segBytes)) ([], bs.map fun b => (b, false))
  M.engineAppend c r es
  return fault

/-- Writes ranges in order up to a fault. -/
def M.engineWrites (c : Chan) (r : Run) : List (Word × List Byte) → M (Option (BitVec 9 × Word))
  | [] => pure none
  | (va, bs) :: rest => do
    match ← M.engineWrite c r va bs with
    | some f => return some f
    | none => M.engineWrites c r rest

/-- One line of a compressed image: the bitmap and the stored elements (R260). -/
def imageLine (slot : Nat) (xs : List Nat) : List Byte :=
  let bm := sumOf ((xs.zipIdx 0).map fun x => if x.1 = 0 then 0 else 2 ^ x.2)
  let data := packBits slot (xs.filter fun x => x != 0)
  bytesOf 8 bm ++ data ++ List.replicate (roundUp data.length 8 - data.length) 0

/-- A compressed image of elements (R260, R265). -/
def imageOf (ofmt : BitVec 5) (slot : Nat) (xs : List Nat) : List Byte :=
  let lines := (chunksOf 64 (xs.length + 1) xs).map (imageLine slot)
  let offs := (lines.foldl (fun (acc : List Nat × Nat) l => (acc.1 ++ [acc.2], acc.2 + l.length)) ([], 0)).1
  let table := offs.flatMap fun o => bytesOf 4 o
  let data := lines.flatMap id
  bytesOf 4 (ofmt.toNat + slot * 2 ^ 16) ++ bytesOf 4 xs.length ++ bytesOf 4 lines.length ++ bytesOf 4 data.length ++
    List.replicate 16 0 ++ table ++ List.replicate (roundUp table.length 32 - table.length) 0 ++ data

/-- What a drain did: its status, a fault, and whether a tile source is ready again. -/
structure Drained where
  status : BitVec 8
  fault : Option (BitVec 9 × Word)
  deriving DecidableEq, Repr

/-- The status of writes that may have met a fault. -/
def drainedAs (status : BitVec 8) (fault : Option (BitVec 9 × Word)) : Drained :=
  { status := if fault.isSome then 3 else status, fault := fault }

/-- Writes a drain's elements (R264, R265). The segment entries of a dense store have been appended already. -/
def M.drainWrite (c : Chan) (r : Run) (p : Shape64) (src : DrainSource) (add : Bool) (cut : Option (BitVec 9 × Word)) :
    M Drained := do
  let nf := r.nfOf
  let slot := p.slot nf
  let rows := p.runs src.rows src.cols
  let free := (← get).free
  modify fun s => { s with free := s.free + src.rows * src.cols }
  let bytes (x : Nat × Nat × Nat × Nat) : List Byte := rowBytes nf p src slot free x
  if add then
    let order := (((← get).team? r.team).map fun t => t.order).getD 0
    let fmt : Fmt := match tagOf p.ofmt with
      | .ok (.fmt f) => f
      | _ => .f32
    let (es, fault) ← M.drainReductions c r p fmt order (granulePieces (rows.map fun x => (p.rowAt slot x, bytes x)))
    if r.level == 0 then
      M.engineAppend c r (es.map fun e => { e with eng := true })
      modify fun s => s.enginePublish c r
    else
      modify fun s => (s.modCore c.core fun d => { d with
        abuf := d.abuf ++ es.map fun e => { e with runId := none } }).modTeam r.team fun t => { t with order := t.order + 1 }
    return drainedAs 0 fault
  else if p.comp then
    let xs := rows.flatMap fun x =>
      (List.range (x.2.2.2 - x.2.2.1)).map fun d => drainBits nf p src free x.1 (x.2.2.1 + d - p.col0)
    let image := imageOf p.ofmt slot xs
    if image.length ≤ p.ccap ∧ xs.length ≤ 2 ^ 24 then
      let fault ← M.engineWrite c r p.base image
      modify fun s => s.enginePublish c r
      return drainedAs 0 fault
    else if p.ovf != 0 then
      let fault ← M.engineWrites c r ((rows.zipIdx 0).map fun x =>
        (p.ovf + BitVec.ofNat 64 (x.2 * p.rstr), bytes x.1))
      modify fun s => s.enginePublish c r
      return drainedAs 1 fault
    else return drainedAs 2 none
  else
    modify fun s => (s.holdSegments c.core r.id ((rows.flatMap bytes).map fun b => (b, false))).enginePublish c r
    return drainedAs 0 cut

/-- The source of a drain as it stands: a handle or a tile of the run's family. -/
def State.drainSource (s : State) (c : Chan) (r : Run) (tile : Bool) (index : Nat) (p : Shape64) : DrainSource :=
  let (core, base, _) := s.partitionOf c
  if tile then s.tileSource core base ((s.core core).tile (BitVec.ofNat 8 index)) r.nfOf p.scols
  else (((s.family? c.family).map fun f => f.handle index).getD Handle.empty).source

/-- After a drain the handle is held, the tile empty, or ready again when nothing was written (R264, R265). -/
def State.drainDone (s : State) (c : Chan) (tile : Bool) (index : Nat) (status : BitVec 8) : State :=
  if tile then s.tileTo (s.partitionOf c).1 (BitVec.ofNat 8 index) (if status == 2 then .ready else .empty)
  else
    match s.family? c.family with
    | none => s
    | some f => s.putFamily (f.setHandle index { f.handle index with state := .held })

/-- The source becomes draining (R263). -/
def State.drainBegin (s : State) (c : Chan) (tile : Bool) (index : Nat) : State :=
  if tile then s.tileTo (s.partitionOf c).1 (BitVec.ofNat 8 index) .draining
  else
    match s.family? c.family with
    | none => s
    | some f => s.putFamily (f.setHandle index { f.handle index with state := .draining })

/-- Why a drain cannot begin. -/
inductive DrainFlaw where
  | refused | owner | notReady
  deriving DecidableEq, Repr

/-- The checks of R263 on the source and the record. -/
def State.drainFlaw (s : State) (c : Chan) (r : Run) (gslot : Option (BitVec 5)) (tile : Bool) (index : Nat)
    (p : Shape64) (add : Bool) : Option DrainFlaw :=
  let (core, _, _) := s.partitionOf c
  let d := s.core core
  if tile then
    let x := d.tile (BitVec.ofNat 8 index)
    if x.state != .empty && gslot != some x.gslot then some .owner
    else if x.state != .ready || d.readsTile (BitVec.ofNat 8 index) then some .notReady
    else if p.scols == 0 || drainRefused r.nfOf p (s.drainSource c r tile index p) add then some .refused
    else none
  else
    let h := ((s.family? c.family).map fun f => f.handle index).getD Handle.empty
    if h.state == .free then some .refused
    else if h.state == .draining || d.passOn c.family (BitVec.ofNat 5 index) then some .notReady
    else if drainRefused r.nfOf p h.source add then some .refused
    else none

/-- Hands a command to its channel: `.en` is raised until the channel accepts it, at once or later (R178, R279, log 7). -/
def M.command (t : Team) (c : Chan) (r : Run) : M Unit := do
  M.modTeam t.id fun u => { u with en := u.en + 1 }
  M.setProg t.id (.command r.id none)
  let later ← M.later
  modify fun s =>
    let s := s.putChan { c with accept := c.accept ++ [r] }
    if later then s else s.acceptRun c.id

/-- A command retires with its run's number, once it has one (R263, R283). -/
def M.accepted (t : Team) (sd : BitVec 6) : M Done := do
  match (← M.team t.id).arm.prog with
  | .command _ (some n) =>
    M.regs t fun v => .ok (v.setS sd n)
    return .next
  | _ => throw (.wait .other)

/-- `adrain` (R263): the record is read and checked, the source begins to drain, dense rows take their entries, and
the channel gives the run its number. -/
def drainCommand (add tile : Bool) (h : BitVec 5) (sa : SSrc) (sd : BitVec 6) (t : Team) : M Done := do
  let a ← M.read t fun v => do
    let a ← v.readS posSA sa
    v.checkS posD sd
    return a
  if let .command _ _ := t.arm.prog then return ← M.accepted t sd
  M.countable t 2
  let (g, f) ← M.family t
  let record := a &&& ~~~0xFF
  let bad := trapWith 0x191 record
  M.stopIf (!tile && a.extractLsb' 0 8 != 0) bad
  let index := if tile then (a.extractLsb' 0 8).toNat else h.toNat
  M.stopIf (!tile && (f.handle index).state == .free) bad
  M.bind t
  let (bs, poisoned) ← M.bulkRead t .load record 64
  M.stopIf (!poisoned.isEmpty) (.halt 0x1C0 0)
  let p := Shape64.of bs
  let (c?, s) := (← get).chanFor f g.tenant .bce
  let (id, s) := s.fresh
  set s
  match c? with
  | none => throw (.wait .other)
  | some c =>
    let r := Run.make s t id (.drain add tile index record bs) 0
    match s.drainFlaw c r (some g.gslot) tile index p add with
    | some .refused => throw bad
    | some .owner => throw (trapWith 0x103 0)
    | some .notReady => throw (.wait .tile)
    | none => pure ()
    modify fun s => s.recordPending t.id
    M.appended t
    let src := s.drainSource c r tile index p
    let (es, fault) ← if add || p.comp then pure ([], none)
      else M.drainSegments c r p (p.slot r.nfOf) (p.runs src.rows src.cols)
    M.engineAppend c r es
    modify fun s => s.drainBegin c tile index
    M.command t c { r with fault := fault }
    M.accepted t sd

/-! ## Engine instructions (R282 to R285) -/

/-- `enq` (R283). -/
def enqueue (e : EngineId) (sa : SSrc) (sd : BitVec 6) (t : Team) : M Done := do
  let a ← M.read t fun v => do
    let a ← v.readS posSA sa
    v.checkS posD sd
    return a
  if let .command _ _ := t.arm.prog then return ← M.accepted t sd
  let (g, f) ← M.family t
  let scratch := a.getLsbD 63
  M.stopIf (a.extractLsb' 0 6 != 0 || (scratch && (e != .bce || a.extractLsb' 22 41 != 0))) (trapWith 0x195 a)
  let off := (a.extractLsb' 0 22).toNat
  M.stopIf (scratch && decide (f.partSize < off + 64)) (trapWith 0x107 (BitVec.ofNat 64 off))
  M.gate t
  let (c?, s) := (← get).chanFor f g.tenant e
  let (id, s) := s.fresh
  set s
  match c? with
  | none =>
    M.regs t fun v => .ok (v.setS sd 0)
    return .next
  | some c =>
    M.countable t 2
    modify fun s => s.recordPending t.id
    M.command t c (Run.make s t id .chain a)
    M.accepted t sd

/-- `eseq` (R284). -/
def readSequence (e : EngineId) (sd : BitVec 6) (t : Team) : M Done := do
  M.read t fun v => v.checkS posD sd
  let (_, f) ← M.family t
  let level := (← get).levelOf t
  let c? := (← get).chanOf? f.uid e
  let done := (c?.map fun c => c.done).getD 0
  if 2 ≤ level then
    let n ← match t.arm.prog with
      | .done n => pure n
      | _ => do
        M.gate t
        let n := (c?.map fun c => c.issued).getD 0
        M.setProg t.id (.done n)
        pure n
    M.stopIf (decide (done.toNat < n.toNat)) (.wait .other)
    M.regs t fun v => .ok (v.setS sd n)
  else M.regs t fun v => .ok (v.setS sd done)
  return .next

/-- The status of run n that a channel still holds; 255 when it does not, 0 for run 0 (R285). -/
def Chan.statusOf (c : Chan) (n : Word) : BitVec 8 :=
  if n == 0 then 0
  else if 64 ≤ c.done.toNat - n.toNat then 255
  else ((c.statuses.find? fun x => x.1 == n).map Prod.snd).getD 255

/-- `ewait` (R285). -/
def awaitRun (e : EngineId) (sa : SSrc) (sd : BitVec 6) (t : Team) : M Done := do
  let n ← M.read t fun v => do
    let a ← v.readS posSA sa
    v.checkS posD sd
    return a
  let (_, f) ← M.family t
  let c? : Option Chan := (← get).chanOf? f.uid e
  M.stopIf (decide (((c?.map fun (c : Chan) => c.issued).getD 0).toNat < n.toNat)) (trapWith 0x196 n)
  if t.arm.prog == .none then M.gate t
  M.stopIf (decide (((c?.map fun (c : Chan) => c.done).getD 0).toNat < n.toNat)) (.wait .engine)
  M.acquire t .core allCores
  M.regs t fun v => .ok (v.setS sd (((c?.map fun (c : Chan) => c.statusOf n).getD 0).setWidth 64))
  return .next

/-! ## Chain entries (R286) -/

/-- KIND of an entry. -/
def entryKind (bs : List Byte) : Nat := fieldOf bs 8 1

/-- Whether an engine accepts a kind (R286). -/
def acceptsKind (e : EngineId) (kind : Nat) : Bool :=
  match kind, e with
  | 0, _ | 6, _ | 7, _ => true
  | 1, .bce | 4, .bce => true
  | 2, .gs _ | 3, .gs _ => true
  | 5, .se _ => true
  | _, _ => false

/-- Whether the common fields of an entry are formed (R286). -/
def entryFormedFor (e : EngineId) (bs : List Byte) : Bool :=
  decide (fieldOf bs 8 4 / 2 ^ 9 = 0) && decide (fieldOf bs 12 4 = 0) && acceptsKind e (entryKind bs)

/-- NEXT and END. -/
def entryNext (bs : List Byte) : Word := BitVec.ofNat 64 (fieldOf bs 0 8)
def entryEnd (bs : List Byte) : Bool := decide (fieldOf bs 9 1 % 2 = 1)

/-- Whether an address has the form of R283 for a channel's engine: a scratchpad form only on the BCE (R286). -/
def Chan.chainAddr (c : Chan) (a : Word) : Bool :=
  a.extractLsb' 0 6 == 0 && (!a.getLsbD 63 || (c.engine == .bce && a.extractLsb' 22 41 == 0))

/-- Reads the entry a run starts next: its bytes, or the status the run ends with (R239, R281, R286). -/
def M.readEntry (c : Chan) (r : Run) : M (Except (BitVec 8) (List Byte)) := do
  let a := r.next
  let (core, base, size) := (← get).partitionOf c
  if !c.chainAddr a then return .error 5
  else if a.getLsbD 63 then
    let off := (a.extractLsb' 0 22).toNat
    if size < off + 64 then return .error 9
    else
      modify fun s => s.engineAcquire c
      return .ok ((← get).scratchRead core (base + off) 64)
  else
    modify fun s => s.engineAcquire c
    let (parts, e, s) := (← get).translateUpTo (r.ctx c) .load (cutRange 4 a 64)
    let (bs, s) := s.readStream none parts
    set s
    match e with
    | some (.absent pa, _) => throw (.absent pa)
    | some _ => return .error 6
    | none => if bs.any Prod.snd then return .error 6 else return .ok (bs.map Prod.fst)

/-- Whether a run may start an entry now (R280): it stands between entries, a BCE's family is resident, and a solver
takes the oldest run of its channel. -/
def State.mayStart (s : State) (c : Chan) (r : Run) : Bool :=
  r.status.isNone && r.cur.isNone && r.kind == .chain &&
    (match c.engine with
      | .bce => (s.family? c.family).any fun f => f.resident
      | .gs _ => true
      | .se _ => (c.open.head?).any fun q => q.id == r.id)

/-- The outcome of an event's body: a body that cannot go on now changes nothing (log 2). -/
def event (body : M Unit) (s : State) : Host.Outcome State Fault Refusal :=
  match body s with
  | .ok _ s => .next s
  | .error (.absent pa) _ => .fault (.absent pa)
  | .error _ _ => .next s

/-- The event cannot happen now. -/
def M.idle : M α := throw (.wait .other)

/-- A channel and a run of it by number. -/
def M.run (chan num : Nat) : M (Chan × Run) := do
  match (← get).chan? chan with
  | none => M.idle
  | some c =>
    match c.run? (BitVec.ofNat 64 num) with
    | none => M.idle
    | some r => return (c, r)

/-- Replaces a run of a channel. -/
def State.putRun (s : State) (chan : Nat) (r : Run) : State :=
  match s.chan? chan with
  | none => s
  | some c => s.putChan (c.setRun r)

/-- The solver engine that serves a channel: its own, or the next of its die that has not been retired (R416). -/
def State.servingEngine (s : State) (k : BitVec 5) : BitVec 5 :=
  let die := k.toNat / 8 * 8
  (((List.range 8).map fun i => BitVec.ofNat 5 (die + (k.toNat + i) % 8)).find? fun e =>
    !s.enginesRetired.contains e).getD k

/-- The engine that serves the channels of an engine. -/
def State.server (s : State) (e : EngineId) : EngineId :=
  match e with
  | .se k => .se (s.servingEngine k)
  | e => e

/-- A channel is served by its engine at an entry boundary (R280). -/
def State.serveChan (s : State) (c : Chan) : State :=
  let e := s.server c.engine
  { s with served := (e, c.view, c.id) :: s.served.filter fun x => !(x.1 == e && x.2.1 == c.view) }

/-- The channels in the order in which they are served: those an engine serves in rotation from the one after the last
served (R280, R416). -/
def State.chanOrder (s : State) : List Chan :=
  let passed (c : Chan) : Bool :=
    s.served.any fun x => x.1 == s.server c.engine && x.2.1 == c.view && decide (c.id ≤ x.2.2)
  s.chans.filter (fun c => !passed c) ++ s.chans.filter passed

/-- An entry event: the entry is read, must be of the kind, and is executed; what it decided waits for its
completion. -/
def M.entry (kind chan num : Nat) (body : Chan → Run → List Byte → M CurEntry) : M Unit := do
  let (c, r) ← M.run chan num
  if !(← get).mayStart c r then M.idle
  match ← M.readEntry c r with
  | .error _ => M.idle
  | .ok bs =>
    if !(entryFormedFor c.engine bs && entryKind bs == kind) then M.idle
    let r := { r with started := true }
    modify fun s => (s.serveChan c).putRun chan r
    let cur ← body c r bs
    modify fun s =>
      match (s.chan? chan).bind fun c => c.run? r.num with
      | some q => s.putRun chan { q with cur := some cur }
      | none => s

/-- An entry that ends with a status and goes on at NEXT. -/
def endsWith (bs : List Byte) (status : BitVec 8) : CurEntry :=
  { status := status, next := entryNext bs, ends := entryEnd bs, waiting := none }

/-- The offsets that the loops on the stack add to the destination and source sides (R291). -/
def Run.strides (r : Run) : Word × Word :=
  r.loops.foldl (fun acc l =>
    (acc.1 + BitVec.ofInt 64 ((l.2.1 : Int) * l.2.2.1.toInt), acc.2 + BitVec.ofInt 64 ((l.2.1 : Int) * l.2.2.2.toInt)))
    (0, 0)

/-- The gang slot of a run's gang, while it is resident. -/
def State.runSlot (s : State) (r : Run) : Option (BitVec 5) :=
  match s.gang? r.gang with
  | some g => if g.core.isSome then some g.gslot else none
  | none => none

/-- Sets the fault a run reports when it completes. -/
def State.setRunFault (s : State) (chan : Nat) (r : Run) (fault : Option (BitVec 9 × Word)) : State :=
  s.putRun chan { r with fault := fault }

/-! ## COPY (R287) -/

/-- The fields of a COPY entry. -/
structure CopyEntry where
  dir : Nat
  dst : Word
  src : Word
  n : Nat
  dtile : Option (BitVec 8)
  stile : Option (BitVec 8)
  reserved : Bool
  deriving DecidableEq, Repr

/-- Reads a COPY entry, with the strides of its loops (R287, R291). -/
def CopyEntry.of (r : Run) (bs : List Byte) : CopyEntry :=
  let w := BitVec.ofNat 64 (fieldOf bs 0x20 8)
  { dir := copyDir w, dst := BitVec.ofNat 64 (fieldOf bs 0x10 8) + r.strides.1
    src := BitVec.ofNat 64 (fieldOf bs 0x18 8) + r.strides.2, n := copyLen w
    dtile := if w.getLsbD 61 then some (w.extractLsb' 48 8) else none
    stile := if w.getLsbD 60 then some (w.extractLsb' 40 8) else none
    reserved := w.extractLsb' 56 4 != 0 || w.extractLsb' 32 8 != 0 || fieldOf bs 0x28 24 != 0 }

/-- A COPY entry that targets an empty tile takes it empty → filling (R100): it belongs to the run's gang from then
on, with the BASE, SIZEM1 and FMT that the entry held (log 69). -/
def State.claimTile (s : State) (core : Nat) (slot : Option (BitVec 5)) (k : Option (BitVec 8)) : State :=
  match slot, k with
  | some g, some k =>
    let x := (s.core core).tile k
    if x.state == .empty then s.modCore core fun c => c.setTile k { x with state := .filling, gslot := g } else s
  | _, _ => s

/-- The status of a COPY entry that its checks refuse (R218, R287). -/
def State.copyEntryFlaw (s : State) (c : Chan) (r : Run) (e : CopyEntry) : Option (BitVec 8) :=
  let (core, _, size) := s.partitionOf c
  let claimed := (s.claimTile core (s.runSlot r) e.dtile).core core
  let flaw (k : Option (BitVec 8)) (want : TileState) (off : Word) : Option (BitVec 8) :=
    match k with
    | none => none
    | some k =>
      match tileFlaw claimed (s.runSlot r) k want off.toNat e.n with
      | none => none
      | some .range => some 5
      | some _ => some 4
  if e.reserved || (e.dtile.isSome && !toScratch e.dir) || (e.stile.isSome && !fromScratch e.dir) then some 5
  else if (toScratch e.dir && decide (size < e.dst.toNat + e.n)) ||
      (fromScratch e.dir && decide (size < e.src.toNat + e.n)) then some 9
  else if !toScratch e.dir && (e.dst.toNat % 32 != 0 || e.n % 32 != 0) then some 5
  else
    match flaw e.dtile .filling e.dst with
    | some st => some st
    | none => flaw e.stile .ready e.src

/-- A COPY entry (R287). -/
def copyEntry (c : Chan) (r : Run) (bs : List Byte) : M CurEntry := do
  let e := CopyEntry.of r bs
  match (← get).copyEntryFlaw c r e with
  | some st => return endsWith bs st
  | none =>
    let (core, base, _) := (← get).partitionOf c
    modify fun s => s.claimTile core (s.runSlot r) e.dtile
    match e.stile with
    | some k => if ((← get).core core).readsTile k then M.idle else modify fun s => s.tileTo core k .draining
    | none => pure ()
    let (es, limit, fault) ← if toScratch e.dir || e.n == 0 then pure ([], e.n, none)
      else do
        let from_ := if fromScratch e.dir then BitVec.ofNat 64 (base + e.src.toNat) else e.src
        M.segments c r e.dst e.n from_ (if fromScratch e.dir then 1 else 0) true false
    M.engineAppend c r es
    let (status, fault) ← M.moveBytes c r e.dir e.dst e.src limit fault
    modify fun s => s.setRunFault c.id r fault
    if !toScratch e.dir then modify fun s => s.enginePublish c r
    if status == 0 then
      match e.dtile with
      | some k => modify fun s => s.tileTo core k .ready
      | none => pure ()
    match e.stile with
    | some k => modify fun s => s.tileTo core k .empty
    | none => pure ()
    return endsWith bs status

/-! ## GATHER and SCATTER (R288) -/

/-- The fields of a GATHER or SCATTER entry. -/
structure ListEntry where
  dst : Word
  src : Word
  idx : Word
  count : Nat
  op : Nat
  wide : Bool
  esize : Nat
  reserved : Bool
  deriving DecidableEq, Repr

/-- Reads a GATHER or SCATTER entry, with the strides of its loops (R288, R291). -/
def ListEntry.of (scatter : Bool) (r : Run) (bs : List Byte) : ListEntry :=
  let w := BitVec.ofNat 32 (fieldOf bs 0x2C 4)
  let d := r.strides
  { dst := BitVec.ofNat 64 (fieldOf bs 0x10 8) + (if scatter then 0 else d.1)
    src := BitVec.ofNat 64 (fieldOf bs 0x18 8) + (if scatter then d.2 else 0)
    idx := BitVec.ofNat 64 (fieldOf bs 0x20 8) + (if scatter then d.1 else d.2)
    count := fieldOf bs 0x28 4, op := (w.extractLsb' 17 3).toNat, wide := w.getLsbD 16
    esize := (w.extractLsb' 0 16).toNat, reserved := w.extractLsb' 20 12 != 0 || fieldOf bs 0x30 16 != 0 }

/-- The format of a SCATTER's addition; none stores. -/
def scatterFmt (op : Nat) : Option Fmt :=
  match op with
  | 1 => some .f32
  | 2 => some .s32
  | 3 => some .f64
  | 4 => some .s64
  | _ => none

/-- Whether the entry's own fields are out of range (R288). -/
def ListEntry.bad (e : ListEntry) (scatter : Bool) : Bool :=
  e.reserved || e.count == 0 || decide (2 ^ 24 < e.count) || decide (e.esize < 4) || decide (4096 < e.esize) ||
    e.esize % 4 != 0 || decide ((if scatter then 4 else 0) < e.op) ||
    (match scatterFmt e.op with
      | some f => e.esize % f.bytes != 0
      | none => false)

/-- The indexed addresses, as far as the list can be read, and the fault that ends it. -/
def M.indices (c : Chan) (r : Run) (e : ListEntry) (base : Word) : M (List Word × Option (BitVec 9 × Word)) := do
  let w := if e.wide then 8 else 4
  let (bs, fault) ← M.bulkFrom c r e.idx (e.count * w)
  let xs := (List.range (bs.length / w)).map fun i =>
    let v := fieldOf (bs.map Prod.fst) (i * w) w
    if e.wide then BitVec.ofNat 64 v else base + BitVec.ofNat 64 (v * e.esize)
  return (xs, fault)

/-- Writes bytes of poisoned or clean granules at their homes. -/
def State.writeStream (s : State) : List (Nat × Nat) → Stream8 → State
  | [], _ => s
  | (key, n) :: ps, bs =>
    let here := bs.take n
    (s.streamWrite key (here.map Prod.fst) (here.any Prod.snd)).writeStream ps (bs.drop n)

/-- Adds the elements of a range to those at their homes (R207, R288). -/
def State.addStream (s : State) (f : Fmt) : List (Nat × Nat) → Stream8 → State
  | [], _ => s
  | (key, n) :: ps, bs =>
    let s := (List.range (n / f.bytes)).foldl (fun s i =>
      let x := (bs.drop (i * f.bytes)).take f.bytes
      let k := bareKey key + i * f.bytes
      ((s.settle (granule k)).takeOver (tenantOfKey key) (granule k)).applyReduce k 0 f
        (BitVec.ofNat 64 (natOfBytes (x.map Prod.fst))) (x.any Prod.snd)) s
    s.addStream f ps (bs.drop n)

/-- Moves one element between two addresses; the fault that stops it. -/
def M.moveElement (c : Chan) (r : Run) (f : Option Fmt) (from_ to_ : Word) (n : Nat) : M (Option (BitVec 9 × Word)) := do
  let (bs, fault) ← M.bulkFrom c r from_ n
  match fault with
  | some x => return some x
  | none =>
    let (parts, e, s) := (← get).translateUpTo (r.ctx c) (if f.isSome then .reduction else .store)
      (cutRange (n / 32 + 2) to_ n)
    set (s.sendPieces c.source r.id (parts.map fun p => p.1))
    match e with
    | some (e, at_) => return some (← M.engineFault e at_)
    | none =>
      modify fun s => match f with
        | none => s.writeStream parts bs
        | some f => s.addStream f parts bs
      return none

/-- Moves elements in ascending index up to a fault (R288). -/
def M.moveElements (c : Chan) (r : Run) (f : Option Fmt) (n : Nat) : List (Word × Word) → M (Option (BitVec 9 × Word))
  | [] => pure none
  | (a, b) :: rest => do
    match ← M.moveElement c r f a b n with
    | some x => return some x
    | none => M.moveElements c r f n rest

/-- A GATHER or SCATTER entry (R288). -/
def listEntry (scatter : Bool) (c : Chan) (r : Run) (bs : List Byte) : M CurEntry := do
  let e := ListEntry.of scatter r bs
  let f := if scatter then scatterFmt e.op else none
  let unit := (f.map Fmt.bytes).getD 4
  if e.bad scatter || e.idx.toNat % unit != 0 || e.dst.toNat % unit != 0 || e.src.toNat % unit != 0 then
    return endsWith bs 5
  let dev := (← get).dev.toNat
  if [e.dst, e.src, e.idx].any fun a => devOf a != dev then
    modify fun s => s.engineAcquire c
  let (xs, fault) ← M.indices c r e (if scatter then e.dst else e.src)
  if xs.any fun x => x.toNat % unit != 0 then return endsWith bs 5
  if xs.any fun x => devOf x != dev then modify fun s => s.engineAcquire c
  let moves := (xs.zipIdx 0).map fun x =>
    let k := BitVec.ofNat 64 (x.2 * e.esize)
    if scatter then (e.src + k, x.1) else (x.1, e.dst + k)
  let stopped ← M.moveElements c r f e.esize moves
  let fault := stopped <|> fault
  modify fun s => s.setRunFault c.id r fault
  return endsWith bs (if fault.isSome then 3 else 0)

/-! ## DRAIN, LOOP and COND (R289, R291, R292) -/

/-- The narrow formats of an entry are those of the run's team at its start, while the team lives (R74, R289). -/
def State.withFormats (s : State) (r : Run) : Run :=
  match s.team? r.team with
  | some t => { r with nf := t.nf }
  | none => r

/-- A DRAIN entry (R289). -/
def drainEntry (c : Chan) (r : Run) (bs : List Byte) : M CurEntry := do
  let w := BitVec.ofNat 32 (fieldOf bs 0x18 4)
  let record := BitVec.ofNat 64 (fieldOf bs 0x10 8)
  let tile := w.getLsbD 6
  let index := if tile then (w.extractLsb' 8 8).toNat else (w.extractLsb' 0 5).toNat
  let add := w.getLsbD 7
  if w.extractLsb' 16 16 != 0 || w.getLsbD 5 || fieldOf bs 0x1C 36 != 0 || record.toNat % 256 != 0 then
    return endsWith bs 5
  let (rec_, fault) ← M.engineRead c r record 64
  match fault with
  | some f =>
    modify fun s => s.setRunFault c.id r (some f)
    return endsWith bs 3
  | none =>
    if rec_.any Prod.snd then return endsWith bs 5
    let p := Shape64.of (rec_.map Prod.fst)
    let r := (← get).withFormats r
    match (← get).drainFlaw c r ((← get).runSlot r) tile index p add with
    | some .refused => return endsWith bs 5
    | some .owner => return endsWith bs 4
    | some .notReady => M.idle
    | none =>
      let src := (← get).drainSource c r tile index p
      let (es, cut) ← if add || p.comp then pure ([], none)
        else M.drainSegments c r p (p.slot r.nfOf) (p.runs src.rows src.cols)
      M.engineAppend c r es
      let d ← M.drainWrite c r p src add cut
      modify fun s => (s.drainDone c tile index d.status).setRunFault c.id r d.fault
      return endsWith bs d.status

/-- A LOOP entry (R291). -/
def loopEntry (c : Chan) (r : Run) (bs : List Byte) : M CurEntry := do
  let count := fieldOf bs 0x18 4
  let strides := (BitVec.ofNat 32 (fieldOf bs 0x1C 4), BitVec.ofNat 32 (fieldOf bs 0x20 4))
  let target := BitVec.ofNat 64 (fieldOf bs 0x10 8)
  if fieldOf bs 0x24 28 != 0 || count == 0 || !c.chainAddr target then return endsWith bs 5
  let go (j : Nat) (below : List (Word × Nat × BitVec 32 × BitVec 32)) : M CurEntry := do
    if j < count then
      modify fun s => s.putRun c.id { r with loops := (r.next, j, strides) :: below }
      return { status := 0, next := target, ends := false, waiting := none }
    else
      modify fun s => s.putRun c.id { r with loops := below }
      return endsWith bs 0
  match r.loops with
  | (l, j, _) :: below =>
    if l == r.next then go (j + 1) below
    else if below.any fun x => x.1 == r.next then return endsWith bs 5
    else if 4 ≤ r.loops.length then return endsWith bs 8
    else go 1 r.loops
  | [] => go 1 []

/-- The comparison of a COND or WAIT: eq, ne, ge, lt, unsigned. -/
def compareWords (cmp : Nat) (a b : Word) : Bool :=
  match cmp with
  | 0 => a == b
  | 1 => a != b
  | 2 => decide (b.toNat ≤ a.toNat)
  | _ => decide (a.toNat < b.toNat)

/-- Whether the comparison of a COND entry holds now. -/
def State.condHolds (s : State) (c : Chan) (bs : List Byte) : Bool :=
  let w := BitVec.ofNat 32 (fieldOf bs 0x10 4)
  let value := BitVec.ofNat 64 (fieldOf bs 0x20 8)
  let (core, base, _) := s.partitionOf c
  let x : Word := if w.getLsbD 1 then
      match engineOf (w.extractLsb' 8 7) with
      | .ok e => ((s.chanOf? c.family e).map fun d => d.done).getD 0
      | .error _ => 0
    else BitVec.ofNat 64 (natOfBytes (s.scratchRead core (base + fieldOf bs 0x18 8) 8))
  compareWords (w.extractLsb' 2 3).toNat x value

/-- Whether a family still has a team. -/
def State.familyLives (s : State) (family : Nat) : Bool :=
  s.teams.any fun t => !t.gone && (s.gangOf? t).any fun g => g.family == family

/-- A COND entry (R292). -/
def condEntry (c : Chan) (r : Run) (bs : List Byte) : M CurEntry := do
  let w := BitVec.ofNat 32 (fieldOf bs 0x10 4)
  let branch := w.getLsbD 0
  let seq := w.getLsbD 1
  let cmp := (w.extractLsb' 2 3).toNat
  let own := match engineOf (w.extractLsb' 8 7) with
    | .ok e => e == c.engine
    | .error _ => false
  let assigned := match engineOf (w.extractLsb' 8 7) with
    | .ok _ => true
    | .error _ => false
  let word := fieldOf bs 0x18 8
  let (_, _, size) := (← get).partitionOf c
  if w.extractLsb' 15 17 != 0 || w.extractLsb' 5 3 != 0 || fieldOf bs 0x14 4 != 0 || fieldOf bs 0x30 16 != 0 ||
      decide (3 < cmp) || (!seq && c.engine != .bce) || (seq && !assigned) || (branch && decide (2 ≤ r.level)) ||
      (seq && !branch && own && cmp == 2 && decide (r.num.toNat ≤ fieldOf bs 0x20 8)) || (!seq && word % 8 != 0) then
    return endsWith bs 5
  if !seq && decide (size < word + 8) then return endsWith bs 9
  let s ← get
  if branch then
    return { endsWith bs 0 with
      next := if s.condHolds c bs then entryNext bs else BitVec.ofNat 64 (fieldOf bs 0x28 8)
      ends := entryEnd bs && s.condHolds c bs }
  else if s.condHolds c bs then return endsWith bs 0
  else if !seq && !s.familyLives c.family then return endsWith bs 10
  else return { endsWith bs 0 with waiting := some bs }

/-- A waiting COND re-tests; without a team left to change a scratchpad word its run ends with status 10 (R31, R292). -/
def condRetest (chan num : Nat) : M Unit := do
  let (c, r) ← M.run chan num
  let s ← get
  match r.cur with
  | none => M.idle
  | some cur =>
    match cur.waiting with
    | none => M.idle
    | some bs =>
      if s.condHolds c bs then set (s.putRun chan { r with cur := some { cur with waiting := none } })
      else if fieldOf bs 0x10 1 / 2 % 2 == 0 && !s.familyLives c.family then
        set (s.putRun chan { r with cur := some { cur with waiting := none, status := 10 } })
      else M.idle

/-- An entry completes: the run ends with its status, or stands at the next entry. An entry that cannot be read or is
malformed ends the run (R280, R281, R286). -/
def completeEntry (chan num : Nat) : M Unit := do
  let (c, r) ← M.run chan num
  match r.cur with
  | some cur =>
    if cur.waiting.isSome then M.idle
    if decide (3 ≤ cur.status.toNat) || cur.ends then
      if !(← get).mayComplete c r then M.idle
      modify fun s => s.completeRun chan r cur.status
    else modify fun s => (s.putRun chan { r with cur := none, next := cur.next }).endPieces r.id
  | none =>
    if !(← get).mayStart c r then M.idle
    match ← M.readEntry c r with
    | .error st => modify fun s => s.completeRun chan { r with started := true } st
    | .ok bs =>
      if entryFormedFor c.engine bs then M.idle
      modify fun s => s.completeRun chan { r with started := true } 5

/-! ## The instructions -/

/-- `copy` (R218). -/
def execCopy (sn : BitVec 6) (sa : SSrc) (sd : BitVec 6) (s : State) : Host.Outcome State Fault Refusal :=
  issue 4 (copyCommand sn sa sd) s

/-- `cbseal` (R220). -/
def execCbseal (sd : BitVec 6) (s : State) : Host.Outcome State Fault Refusal := issue 4 (sealBatch sd) s

/-- `cbwait` (R220). -/
def execCbwait (sa : SSrc) (s : State) : Host.Outcome State Fault Refusal := issue 4 (waitBatches sa) s

/-- `adrain` (R263). -/
def execAdrain (addMode : Bool) (h : BitVec 5) (sa : SSrc) (sd : BitVec 6) (s : State) :
    Host.Outcome State Fault Refusal := issue 4 (drainCommand addMode false h sa sd) s

/-- `adrain.t` (R263). -/
def execAdrainT (addMode : Bool) (sa : SSrc) (sd : BitVec 6) (s : State) : Host.Outcome State Fault Refusal :=
  issue 4 (drainCommand addMode true 0 sa sd) s

/-- `enq` (R283). -/
def execEnq (e : EngineId) (sa : SSrc) (sd : BitVec 6) (s : State) : Host.Outcome State Fault Refusal :=
  issue 4 (enqueue e sa sd) s

/-- `eseq` (R284). -/
def execEseq (e : EngineId) (sd : BitVec 6) (s : State) : Host.Outcome State Fault Refusal :=
  issue 4 (readSequence e sd) s

/-- `ewait` (R285). -/
def execEwait (e : EngineId) (sa : SSrc) (sd : BitVec 6) (s : State) : Host.Outcome State Fault Refusal :=
  issue 4 (awaitRun e sa sd) s

/-- The BCE performs a `copy` (R218). -/
def copyRun (chan run : Nat) : M Unit := do
  let (c, r) ← M.run chan run
  let s ← get
  match r.kind with
  | .copy dst src w limit =>
    if r.status.isSome || r.cur.isSome || !(s.family? c.family).any (fun f => f.resident) then M.idle
    modify fun s => s.serveChan c
    M.performCopy c r dst src w limit
  | _ => M.idle

/-- The BCE performs an `adrain` (R264). -/
def drainRun (chan run : Nat) : M Unit := do
  let (c, r) ← M.run chan run
  let s ← get
  match r.kind with
  | .drain add tile index _ record =>
    if r.status.isSome || r.cur.isSome || !(s.family? c.family).any (fun f => f.resident) then M.idle
    let r := { r with started := true }
    modify fun s => (s.serveChan c).putRun chan r
    let p := Shape64.of record
    let d ← M.drainWrite c r p (s.drainSource c r tile index p) add r.fault
    modify fun s => s.drainDone c tile index d.status
    match (← get).chan? chan with
    | none => pure ()
    | some c => modify fun s => s.endCommand c { r with fault := d.fault } d.status
  | _ => M.idle

/-! ## The events -/

/-- A channel accepts its oldest waiting run (R279). -/
def execRunAccept (chan : Nat) (s : State) : Host.Outcome State Fault Refusal := .next (s.acceptRun chan)

/-- The BCE performs a `copy` (R218). -/
def execBceCopyCommand (chan run : Nat) (s : State) : Host.Outcome State Fault Refusal := event (copyRun chan run) s

/-- The BCE performs an `adrain` (R264). -/
def execBceDrainCommand (chan run : Nat) (s : State) : Host.Outcome State Fault Refusal := event (drainRun chan run) s

/-- A NOP entry (R286). -/
def execChainNop (chan run : Nat) (s : State) : Host.Outcome State Fault Refusal :=
  event (M.entry 0 chan run fun _ _ bs => pure (endsWith bs 0)) s

/-- A COPY entry (R287). -/
def execCopyEntry (chan run : Nat) (s : State) : Host.Outcome State Fault Refusal :=
  event (M.entry 1 chan run copyEntry) s

/-- A GATHER entry (R288). -/
def execGather (chan run : Nat) (s : State) : Host.Outcome State Fault Refusal :=
  event (M.entry 2 chan run (listEntry false)) s

/-- A SCATTER entry (R288). -/
def execScatter (chan run : Nat) (s : State) : Host.Outcome State Fault Refusal :=
  event (M.entry 3 chan run (listEntry true)) s

/-- A DRAIN entry (R289). -/
def execDrainEntry (chan run : Nat) (s : State) : Host.Outcome State Fault Refusal :=
  event (M.entry 4 chan run drainEntry) s

/-- A LOOP entry (R291). -/
def execLoopEntry (chan run : Nat) (s : State) : Host.Outcome State Fault Refusal :=
  event (M.entry 6 chan run loopEntry) s

/-- A COND entry (R292). -/
def execCondEntry (chan run : Nat) (s : State) : Host.Outcome State Fault Refusal :=
  event (M.entry 7 chan run condEntry) s

/-- A waiting COND entry re-tests (R292). -/
def execCondRetest (chan run : Nat) (s : State) : Host.Outcome State Fault Refusal := event (condRetest chan run) s

/-- An entry completes (R280). -/
def execEntryCompletion (chan run : Nat) (s : State) : Host.Outcome State Fault Refusal :=
  event (completeEntry chan run) s

end Sys2Proof.Machine
end

