-- ==== Sys2Proof/Machine/Placement.lean ====
section
/-!
DEFINITION. The work distributor: what a gang needs, which core it takes, and the gangs and teams that placement
makes (02_execution_model.md R32 to R34, R50; 16_scheduling.md R313, R314, R319, R320; 17_determinism.md R325, R332,
R333).
-/

namespace Sys2Proof.Machine

/-! ## What a gang needs -/

/-- What a gang or family takes of a core (R34): register file, team slots, partition, accumulator units, gang slots. -/
structure Need where
  rf : Nat
  slots : Nat
  part : Nat
  acc : Nat
  gangs : Nat
  deriving DecidableEq, Repr

/-- The need of a gang with these teams (registers and lanes of each) and nesting levels (R34). -/
def Need.of (teams : List (Nat × Nat)) (nest : Nat) (general : Role) (spawnWidth part acc : Nat) : Need :=
  { rf := sumOf (teams.map fun t => teamCharge t.1 t.2) + nest * teamCharge general.vregs spawnWidth
    slots := teams.length + nest, part := part, acc := acc, gangs := 1 }

/-- The teams of four roles, in role order and then index order (R20, R33): role, registers and lanes. -/
def teamsOfRoles (roles : List Role) : List (RoleId × Role) :=
  ([RoleId.copy, .matrix, .epilogue, .general].zip roles).foldl (fun l p => l ++ List.replicate p.2.teams p) []

/-- Whether bring-up has started a core (R355). -/
def State.runs (s : State) (core : Nat) : Bool := decide (core < s.coresStarted)

/-- Whether a gang fits on a core now (R319). -/
def State.fits (s : State) (n : Need) (core : Nat) : Bool :=
  s.runs core && (s.core core).inService && !(s.core core).closed && !(s.core core).leaving && !s.owesRestore core && decide (n.rf ≤ s.freeRf core) &&
    decide (n.slots ≤ s.freeSlots core) && (s.partFit core n.part).isSome && decide (n.acc ≤ s.freeAcc core) &&
    decide (n.gangs ≤ s.freeGangs core)

/-- Whether a need fits an empty core (R314). -/
def Need.possible (n : Need) : Bool :=
  decide (n.rf ≤ registerFile) && decide (n.slots ≤ 64) && decide (n.part ≤ scratchBytes) && decide (n.acc ≤ 32)

/-- The order of R319: more free register file, scratchpad, accumulator units, team slots. -/
def moreFree : List (Nat × Nat) → Bool
  | [] => false
  | (a, b) :: rest => decide (b < a) || (a == b && moreFree rest)

/-- Whether core a is less loaded than core b. -/
def State.lessLoaded (s : State) (a b : Nat) : Bool :=
  moreFree [(s.freeRf a, s.freeRf b), (s.freeScratch a, s.freeScratch b), (s.freeAcc a, s.freeAcc b),
    (s.freeSlots a, s.freeSlots b)]

/-- The least loaded core of those that satisfy `ok` and where a need fits, the lowest of equals (R319). -/
def State.chooseCoreIf (s : State) (n : Need) (ok : Nat → Bool) : Option Nat :=
  ((List.range coreCount).filter fun c => ok c && s.fits n c).foldl (fun best c =>
    match best with
    | none => some c
    | some b => if s.lessLoaded c b then some c else some b) none

/-- The least loaded core of those where a gang fits, outside `taken` (R319). -/
def State.chooseCore (s : State) (n : Need) (taken : List Nat) : Option Nat :=
  s.chooseCoreIf n fun c => !taken.contains c

/-- That many distinct cores, chosen one after the other. -/
def State.chooseCores (s : State) (n : Need) : Nat → List Nat → Option (List Nat)
  | 0, _ => some []
  | k + 1, taken =>
    match s.chooseCore n taken with
    | none => none
    | some c => (s.chooseCores n k (c :: taken)).map fun (cs : List Nat) => c :: cs

/-! ## Making gangs -/

/-- Whether a family runs paired, by its first gang (R332). -/
def pairedBy (check : CheckRec) (level : BitVec 2) (island : Bool) (logical : BitVec 32) : Bool :=
  level == 3 && (check.pairSel == 1 || (check.pairSel == 2 && !island) || (check.pairSel == 3 && island) ||
    (check.sample && decide ((rng check.seed logical).toNat < 2 ^ 22)))

/-- The TTBASE that admission loads for a tenant: the registered root, or EN 0 without one (R95). -/
def State.admittedRoot (s : State) (tenant : BitVec 8) : Word :=
  match (s.tenant tenant).root with
  | some r => (r &&& 0x0000FFFFFFFF0000) ||| (tenant.setWidth 64 <<< 8) ||| 1
  | none => tenant.setWidth 64 <<< 8

/-- What placement needs to know of a gang. -/
structure Plan where
  logical : BitVec 32
  tenant : BitVec 8
  level : BitVec 2
  checked : Bool
  sys : Bool
  queue : Option Nat
  packet : Option Nat
  origin : Option (Nat × Nat)
  vcore : Nat
  roles : List Role
  spawnWidth : Nat
  nest : Nat
  group : Option Nat
  island : Option IslandRef
  domain : Option Nat
  check : CheckRec
  need : Need
  deriving DecidableEq, Repr

/-- Whether the plan's family runs paired. -/
def Plan.paired (p : Plan) : Bool := pairedBy p.check p.level p.island.isSome p.logical

/-- The gang of a plan on a core. -/
def Plan.gang (p : Plan) (uid family core : Nat) (slot : BitVec 5) (ttbase : Word) : Gang :=
  { uid := uid, logical := p.logical, tenant := p.tenant, level := p.level, checked := p.checked, sys := p.sys
    queue := p.queue, packet := p.packet, origin := p.origin, vcore := p.vcore, core := some core, gslot := slot, ttbase := ttbase
    family := family, barGen := 0, abandoned := false, barStatus := 0, group := p.group, roles := p.roles
    spawnWidth := p.spawnWidth, nest := p.nest, ring := [], released := [], island := p.island, domain := p.domain
    check := p.check, saved := false, image := [] }

/-- The family of a plan on a core, with its shadow's core. -/
def Plan.family (p : Plan) (uid core base : Nat) (shadow : Option Nat) (shadowBase : Nat) : Family :=
  { uid := uid, logical := p.logical, tenant := p.tenant, core := core, resident := true, partBase := base, partSize := p.need.part
    accUnits := p.need.acc, handles := List.replicate 32 Handle.empty, nest := p.nest
    reserveCharge := teamCharge ((p.roles.getD 3 { teams := 0, lanes := 1, vregs := 8, sregs := 8 }).vregs) p.spawnWidth
    reserves := [], paired := shadow.isSome, shadowCore := shadow, shadowBase := shadowBase, commits := 0
    mismatch := none, savedBytes := [], savedFull := [], savedTiles := [], weight := none, savedChildren := []
    savedLogs := [], savedSeen := 0, past := [] }

/-- Makes a plan's gang and family on a core; the partition is cleared (R97). The answer is the gang's uid. -/
def State.install (s : State) (p : Plan) (core : Nat) (shadow : Option Nat) : Nat × State :=
  let base := (s.partFit core p.need.part).getD 0
  let sbase := (shadow.bind fun k => s.partFit k p.need.part).getD 0
  let slot := (s.gangSlotFor core).getD 0
  let (fam, s) := s.fresh
  let (uid, s) := s.fresh
  let s := { s with
    families := s.families ++ [p.family fam core base shadow sbase]
    gangs := s.gangs ++ [p.gang uid fam core slot (s.admittedRoot p.tenant)] }
  (uid, s.clearPartition core base p.need.part)

/-- Adds a team to the machine. -/
def State.addTeam (s : State) (t : Team) : State := { s with teams := s.teams ++ [t] }

/-! ## Launched gangs (R313, R314) -/

/-- The need of each gang of a launch. -/
def Launch.need (l : Launch) : Need :=
  Need.of ((teamsOfRoles l.roles).map fun p => (p.2.vregs, p.2.lanes)) l.nest
    (l.roles.getD 3 { teams := 0, lanes := 1, vregs := 8, sregs := 8 }) l.spw l.part l.acc

/-- The plan of gang g (R313, R320). -/
def Launch.plan (l : Launch) (g : Nat) (group domain : Option Nat) : Plan :=
  { logical := l.logical g, tenant := l.tenant, level := l.level, checked := l.checked, sys := l.sys
    queue := some l.queue, packet := some l.packet.toNat, origin := some (l.queue, l.packet.toNat), vcore := g % 192, roles := l.roles, spawnWidth := l.spw
    nest := l.nest, group := group, island := none, domain := domain, check := l.check, need := l.need }

/-- A launched team as it starts (R50, R313). -/
def Launch.team (l : Launch) (id g : Nat) (h : Gang) (core : Nat) (slot : BitVec 6) (index : Nat) (p : RoleId × Role)
    (tick : Nat) : Team :=
  let n := p.2.lanes
  let t := Team.make id h core slot (BitVec.ofNat 6 index) p.1 n p.2.vregs p.2.sregs l.entry
    ((List.range n).map fun k => launchedKey h.logical index k) (maskBelow n) tick
  { t with
    tstat := if l.sys then 1 else 0
    s := ((((t.s.set 0 (h.logical.setWidth 64)).set 1 (BitVec.ofNat 64 g)).set 2 (BitVec.ofNat 64 l.gangs)).set 3
      l.args).set 4 (BitVec.ofNat 64 index) }

/-- The launch of a gang of a packet. -/
def State.setLaunch (s : State) (l : Launch) : State :=
  { s with launches := setWhere (fun m => m.queue == l.queue && m.packet == l.packet) l s.launches }

/-- Places the next gang of a launch on a core and starts its teams. -/
def State.placeNext (s : State) (l : Launch) (core : Nat) (shadow group : Option Nat) : State :=
  let g := l.placed
  let (uid, s) := s.install (l.plan g group l.domain) core shadow
  let domain := if 2 ≤ l.level.toNat then some (l.domain.getD uid) else none
  let s := { s with gangs := s.gangs.map fun (h : Gang) => if h.uid == uid then { h with domain := domain } else h }
  let s := match s.gang? uid with
    | none => s
    | some h =>
      ((teamsOfRoles l.roles).zipIdx 0).foldl (fun (s : State) (q : (RoleId × Role) × Nat) =>
        let (id, s) := s.fresh
        s.addTeam (l.team id g h core (s.slotFor core) q.2 q.1 s.tick.toNat)) s
  s.setLaunch { l with placed := g + 1, domain := domain }

/-- The cores for n gangs, and for their shadows after them, or none (R32, R314, R333). -/
def State.coresFor (s : State) (need : Need) (n shadows : Nat) : Option (List Nat × List Nat) :=
  (s.chooseCores need (n + shadows) []).map fun (cs : List Nat) => (cs.take n, cs.drop n)

/-- Whether gang g of a launch runs paired. -/
def Launch.paired (l : Launch) (g : Nat) : Bool := pairedBy l.check l.level false (l.logical g)

/-- Places a launch's next gang, or its whole group, whose start report goes to the other devices (R314, R315, R403); none
when there is no room. -/
def State.placeLaunch (s : State) (l : Launch) : Option State :=
  if l.grp then
    let pairs := (List.range l.gangs).filter l.paired
    match s.coresFor l.need l.gangs pairs.length with
    | none => none
    | some (cores, shadows) =>
      let (gr, s) := s.fresh
      let s := (cores.zipIdx 0).foldl (fun (s : State) (p : Nat × Nat) =>
        match s.launches.find? fun m => m.queue == l.queue && m.packet == l.packet with
        | none => s
        | some m => s.placeNext m p.1 ((indexOf? (fun i => i == p.2) pairs).bind fun k => shadows[k]?) (some gr)) s
      let members := (s.gangs.filter fun h => h.group == some gr).map fun h => h.uid
      let group : Group :=
        { uid := gr, members := members, total := if l.mdev then l.gtotal else l.gangs, gen := 0, abandoned := false
          barStatus := 0, tag := l.tag, startAt := if l.mdev then some l.tick else none, mdev := l.mdev
          tick := l.tick, told := none, remote := [], away := 0, out := false }
      let s := { s with groups := s.groups ++ [group] }
      some (if l.mdev then s.tellAll (.placed l.tag l.tick l.level l.checked) else s)
  else
    match s.coresFor l.need 1 (if l.paired l.placed then 1 else 0) with
    | some (core :: _, shadows) => some (s.placeNext l core shadows.head? none)
    | _ => none

/-- Whether a group that has not started holds its teams back (R315). -/
def State.heldBack (s : State) (gang : Nat) : Bool :=
  match (s.gang? gang).bind fun g => g.group.bind s.group? with
  | some gr => gr.startAt.isSome
  | none => false

end Sys2Proof.Machine
end

