-- ==== Sys2Proof/Machine/Scenes.lean ====
section
/-!
DEFINITION. Scenes: body records, edges and components, and the regrouping of the step boundary (06_islands.md R116 to
R135; 25_faults_engines_scheduling.md R398, R399).
-/

namespace Sys2Proof.Machine

/-! ## Bodies and edges (R116 to R119) -/

/-- A body's record. -/
def Scene.body (c : Scene) (b : BitVec 24) : Body := (c.bodies.find? fun x => x.id == b).getD (Body.fresh b)

/-- Puts a record in an ascending list. -/
def putBodyIn (x : Body) : List Body → List Body
  | [] => [x]
  | y :: ys =>
    if y.id == x.id then x :: ys
    else if y.id.toNat < x.id.toNat then y :: putBodyIn x ys else x :: y :: ys

/-- Changes a body's record. -/
def Scene.modBody (c : Scene) (b : BitVec 24) (f : Body → Body) : Scene :=
  { c with bodies := putBodyIn { f (c.body b) with id := b } c.bodies }

/-- Puts a record in the cache again. -/
def Scene.recalled (c : Scene) (bs : List (BitVec 24)) : Scene :=
  { c with evicted := c.evicted.filter fun b => !bs.contains b }

/-- Edges incident on a body (R117). -/
def Scene.ecnt (c : Scene) (b : BitVec 24) : Nat := (c.edges.filter fun e => e.lo == b || e.hi == b).length

/-- Word 0x04 of a record, with a kind. -/
def Body.stateWord (x : Body) (k : BodyKind) : Nat :=
  k.code.toNat + (if x.wake then 4 else 0) + (if x.sleep then 8 else 0)

/-- The 64 bytes of a record (R117). -/
def Scene.record (c : Scene) (b : BitVec 24) : List Byte :=
  let x := c.body b
  bytesOf 4 x.parent.toNat ++ bytesOf 4 (x.stateWord x.kind) ++ bytesOf 4 x.isl.toNat ++ bytesOf 4 (c.ecnt b) ++
    bytesOf 4 (x.shard.toNat * 2 ^ 16) ++ bytesOf 4 x.slot.toNat ++ List.replicate 40 0

/-- The edge of two bodies. -/
def Edge.of (a b : BitVec 24) (joint : Bool) (user : BitVec 32) : Edge :=
  { lo := if a.toNat < b.toNat then a else b, hi := if a.toNat < b.toNat then b else a, joint := joint, user := user }

/-- Same pair and kind. -/
def Edge.same (a b : Edge) : Bool := a.lo == b.lo && a.hi == b.hi && a.joint == b.joint

/-- The order of the edge list (R129). -/
def Edge.before (a b : Edge) : Bool :=
  decide (a.lo.toNat < b.lo.toNat) ||
    (a.lo == b.lo && (decide (a.hi.toNat < b.hi.toNat) || (a.hi == b.hi && !a.joint && b.joint)))

/-- Inserts an edge, or replaces the one of the same pair and kind (R118). -/
def insertEdge (e : Edge) : List Edge → List Edge
  | [] => [e]
  | f :: fs => if f.same e then e :: fs else if f.before e then f :: insertEdge e fs else e :: f :: fs

/-- The other end of an edge. -/
def Edge.other (e : Edge) (b : BitVec 24) : BitVec 24 := if e.lo == b then e.hi else e.lo

/-- Whether a body is an end of an edge. -/
def Edge.touches (e : Edge) (b : BitVec 24) : Bool := e.lo == b || e.hi == b

/-- Whether a body is dynamic. -/
def Scene.dynamic (c : Scene) (b : BitVec 24) : Bool := (c.body b).kind == .dynamic

/-- The union of two components: the root is the least ID (R119). -/
def Scene.union (c : Scene) (a b : BitVec 24) : Scene :=
  let ra := (c.body a).parent
  let rb := (c.body b).parent
  let root := if ra.toNat < rb.toNat then ra else rb
  let c := (c.modBody a id).modBody b id
  { c with bodies := c.bodies.map fun x => if x.parent == ra || x.parent == rb then { x with parent := root } else x }

/-! ## Island stores -/

/-- The island gangs of a scene. -/
def State.islandGangs (s : State) (scene : BitVec 6) : List Gang :=
  s.gangs.filter fun g => g.island.any fun r => r.scene == scene

/-- The index of a body in a store; 0xFFFF if it is not there (R129). -/
def IslandRef.index (r : IslandRef) (b : BitVec 24) : Nat :=
  match indexOf? (fun x => x == b) (r.bodies ++ r.anchors) with
  | some i => i
  | none => 0xFFFF

/-- The 32 bytes of an edge or cross entry (R129). -/
def IslandRef.entry (r : IslandRef) (e : Edge) (crossing : Bool) : List Byte :=
  bytesOf 4 e.lo.toNat ++ bytesOf 4 e.hi.toNat ++ bytesOf 2 (r.index e.lo) ++ bytesOf 2 (r.index e.hi) ++
    bytesOf 4 ((if e.joint then 1 else 0) + (if r.anchors.contains e.lo then 2 else 0) +
      (if r.anchors.contains e.hi then 4 else 0) + (if crossing then 8 else 0)) ++
    bytesOf 4 e.user.toNat ++ List.replicate 12 0

/-- Writes bytes of a family's partition, where it is held. -/
def State.partWrite (s : State) (family off : Nat) (bs : List Byte) : State :=
  match s.family? family with
  | none => s
  | some f =>
    if f.resident then s.scratchWrite f.core (f.partBase + off) bs
    else s.putFamily { f with savedBytes := Memory.writeBytes f.savedBytes off bs }

/-- The flag word of a header: CROSSOVF set over what stands there (R127). -/
def State.setCrossOvf (s : State) (family : Nat) : State :=
  match s.family? family with
  | none => s
  | some f =>
    let old := if f.resident then (s.scratchRead f.core (f.partBase + 0x14) 1).headD 0 else Memory.read f.savedBytes 0x14
    s.partWrite family 0x14 [old ||| 1]

/-- Appends an edge to the cross list of a running unit, the entry before the count (R130). -/
def State.crossAppend (s : State) (c : Scene) (g : Gang) (r : IslandRef) (e : Edge) (crossing : Bool) : State :=
  if c.crosscap ≤ r.ncross then s.setCrossOvf g.family
  else
    let s := s.partWrite g.family (r.offCross + 32 * r.ncross) (r.entry e crossing)
    let s := s.partWrite g.family 0x10 (bytesOf 4 (r.ncross + 1))
    { s with gangs := s.gangs.map fun (h : Gang) =>
        if h.uid == g.uid then { h with island := some { r with ncross := r.ncross + 1 } } else h }

/-- The cross entries of a report: to each running unit that holds one end while the other is a dynamic body outside it
(R130). -/
def State.crossReport (s : State) (c : Scene) (e : Edge) : State :=
  let unit (b : BitVec 24) : Option (Gang × IslandRef) :=
    (s.islandGangs c.num).findSome? fun g => g.island.bind fun r => if r.bodies.contains b then some (g, r) else none
  let crossing := match unit e.lo, unit e.hi with
    | some (_, q), some (_, r) => !q.batch && !r.batch && q.root == r.root
    | _, _ => false
  [e.lo, e.hi].foldl (fun s b =>
    match unit b with
    | some (g, r) =>
      if c.dynamic (e.other b) && !r.bodies.contains (e.other b) then s.crossAppend c g r e crossing else s
    | none => s) s

/-! ## The units of a step (R123, R124, R134) -/

/-- Labels of bodies by component root, over edges between dynamic bodies (R123). -/
def joinLabels (ls : List (BitVec 24 × BitVec 24)) (e : Edge) : List (BitVec 24 × BitVec 24) :=
  let label (b : BitVec 24) : BitVec 24 := ((ls.find? fun p => p.1 == b).map Prod.snd).getD b
  let a := label e.lo
  let b := label e.hi
  let root := if a.toNat < b.toNat then a else b
  let add (ls : List (BitVec 24 × BitVec 24)) (x : BitVec 24) : List (BitVec 24 × BitVec 24) :=
    if ls.any fun p => p.1 == x then ls else ls ++ [(x, x)]
  (add (add ls e.lo) e.hi).map fun p => if p.2 == a || p.2 == b then (p.1, root) else p

/-- The scene with its pending kinds taken and every component relabelled (R123, step 1). -/
def Scene.relabel (c : Scene) : Scene :=
  let c : Scene := { c with bodies := c.bodies.map fun (x : Body) => { x with kind := x.nextKind } }
  let ls := (c.edges.filter fun e => c.dynamic e.lo && c.dynamic e.hi).foldl joinLabels []
  { c with bodies := c.bodies.map fun (x : Body) =>
      { x with parent := ((ls.find? fun p => p.1 == x.id).map Prod.snd).getD x.id } }

/-- The IDs of a list, ascending. -/
def sortIds (bs : List (BitVec 24)) : List (BitVec 24) := sortBy (fun a b => decide (a.toNat < b.toNat)) bs

/-- The components of dynamic bodies, in ascending order of root, each in ascending ID. -/
def Scene.components (c : Scene) : List (List (BitVec 24)) :=
  let ids := ((List.range c.nbody).map fun n => BitVec.ofNat 24 n).filter c.dynamic
  let roots := ids.filter fun b => (c.body b).parent == b
  roots.map fun r => if c.edges.any fun e => e.touches r then ids.filter fun b => (c.body b).parent == r else [r]

/-- The island gang a body ran in at the last step. -/
def ranIn (gs : List Gang) (b : BitVec 24) : Option Gang := gs.find? fun g => g.island.any fun r => r.bodies.contains b

/-- Whether a component sleeps after the boundary (R123, step 2): a running one all of whose gangs asked for it and of
which no body was reported, or one that slept and that nothing touched. -/
def Scene.sleeps (c : Scene) (gs : List Gang) (comp : List (BitVec 24)) : Bool :=
  let xs := comp.map c.body
  let quiet := xs.all fun x => !x.reported && !x.wake
  quiet && ((comp.all fun b => (ranIn gs b).any fun g => g.island.any IslandRef.sleep) || xs.all Body.sleep)

/-- A unit of a step (R123): its ID body, its component's root, its shard, its bodies in ascending ID. -/
structure StepUnit where
  unit : BitVec 24
  root : BitVec 24
  batch : Bool
  shard : Nat
  shards : Nat
  bodies : List (BitVec 24)
  deriving DecidableEq, Repr

/-- The breadth-first order of a component (R134): neighbours in ascending ID. -/
def Scene.breadthFirst (c : Scene) : Nat → List (BitVec 24) → List (BitVec 24) → List (BitVec 24)
  | 0, _, _ => []
  | _, [], _ => []
  | n + 1, b :: queue, seen =>
    let near := sortIds (((c.edges.filter fun e => e.touches b).map fun e => e.other b).filter fun x =>
      c.dynamic x && !seen.contains x).eraseDups
    b :: c.breadthFirst n (queue ++ near) (seen ++ near)

/-- The units of an awake component of two or more bodies (R123, R134). -/
def Scene.islandUnits (c : Scene) (comp : List (BitVec 24)) : List StepUnit :=
  let root := comp.headD 0
  if comp.length ≤ c.scap then [{ unit := root, root := root, batch := false, shard := 0, shards := 1, bodies := comp }]
  else
    let parts := (chunksOf c.scap (comp.length + 1) (c.breadthFirst comp.length [root] [root])).map sortIds
    (parts.zipIdx 0).map fun (p : List (BitVec 24) × Nat) =>
      { unit := p.1.headD 0, root := root, batch := false, shard := p.2, shards := parts.length, bodies := p.1 }

/-- The units of a step in ascending order of ID body. -/
def Scene.units (c : Scene) (awake : List (List (BitVec 24))) : List StepUnit :=
  let islands := (awake.filter fun comp => decide (2 ≤ comp.length)).foldl (fun l comp => l ++ c.islandUnits comp) []
  let loose := (awake.filter fun comp => decide (comp.length = 1)).foldl (fun l comp => l ++ comp) []
  let batches := (chunksOf c.scap (loose.length + 1) loose).map fun (bs : List (BitVec 24)) =>
    ({ unit := bs.headD 0, root := bs.headD 0, batch := true, shard := 0, shards := 1, bodies := bs } : StepUnit)
  sortBy (fun a b => decide (a.unit.toNat < b.unit.toNat)) (islands ++ batches)

/-- The anchors and ghosts of a unit, ascending (R128). -/
def Scene.anchorsOf (c : Scene) (u : StepUnit) : List (BitVec 24) :=
  let ends := c.edges.foldl (fun (l : List (BitVec 24)) e =>
    match u.bodies.contains e.lo, u.bodies.contains e.hi with
    | true, false => e.hi :: l
    | false, true => e.lo :: l
    | _, _ => l) []
  sortIds ends.eraseDups

/-- The edges with an end among a unit's bodies, in the order of the list (R129). -/
def Scene.edgesOf (c : Scene) (u : StepUnit) : List Edge :=
  c.edges.filter fun e => u.bodies.contains e.lo || u.bodies.contains e.hi

/-- Offsets of the sections after the header, and the partition's size (R126, R127). -/
structure StoreMap where
  anch : Nat
  edge : Nat
  cross : Nat
  free : Nat
  size : Nat
  deriving DecidableEq, Repr

/-- The store of a unit. -/
def Scene.storeMap (c : Scene) (u : StepUnit) : StoreMap :=
  let anch := 0x100 + 256 * u.bodies.length
  let edge := anch + 256 * (c.anchorsOf u).length
  let cross := edge + roundUp (32 * (c.edgesOf u).length) 256
  let free := cross + roundUp (32 * c.crosscap) 256
  { anch := anch, edge := edge, cross := cross, free := free, size := roundUp (free + 1024 * c.extra) 4096 }

/-- Lanes of each team of a unit of n bodies (R124). -/
def unitTeams (n : Nat) : List Nat := chunkLanes ((n + 31) / 32 * 32) (n / 1024 + 1)
where
  chunkLanes : Nat → Nat → List Nat
    | _, 0 => []
    | l, k + 1 => if l = 0 then [] else min l 1024 :: chunkLanes (l - 1024) k

/-- The role word of a scene's teams (R124). -/
def Scene.role (c : Scene) : Role := { teams := 0, lanes := 1024, vregs := c.vreg, sregs := c.sreg }

/-- What a unit's gang needs of a core (R126). -/
def Scene.need (c : Scene) (u : StepUnit) : Need :=
  Need.of ((unitTeams u.bodies.length).map fun l => (c.vreg, l)) 0 c.role 32 (c.storeMap u).size 0

/-- The logical ID of a unit's gang (R135). -/
def Scene.gangId (c : Scene) (b : BitVec 24) : BitVec 32 := BitVec.ofNat 32 (c.num.toNat * 2 ^ 24 + b.toNat)

/-- The place of a unit in its scene. -/
def Scene.ref (c : Scene) (u : StepUnit) : IslandRef :=
  { scene := c.num, unit := u.unit, root := u.root, batch := u.batch, shard := u.shard, shards := u.shards
    bodies := u.bodies, anchors := c.anchorsOf u, offCross := (c.storeMap u).cross, ncross := 0, sleep := false }

/-! ## Gangs of the units (R125, R126) -/

/-- A unit on its way to a gang: its rank, and the gang it keeps. -/
structure UnitJob where
  u : StepUnit
  rank : Nat
  keeps : Option Nat
  deriving DecidableEq, Repr

/-- The gang a unit keeps: of those whose ID body lies in it, the one with the least (R125). -/
def keptBy (gs : List Gang) (u : StepUnit) : Option Nat :=
  let least := (gs.filter fun g => g.island.any fun r => u.bodies.contains r.unit).foldl (fun (m : Option Gang) g =>
    match m with
    | none => some g
    | some h =>
      match g.island, h.island with
      | some q, some r => if q.unit.toNat < r.unit.toNat then some g else m
      | _, _ => m) none
  least.map fun g => g.uid

/-- The plan of a unit's gang under a driver's gang (R125, R135, R319, R320, R322, R325). -/
def Scene.plan (c : Scene) (d : Gang) (j : UnitJob) (group : Option Nat) : Plan :=
  { logical := c.gangId j.u.unit, tenant := d.tenant, level := d.level, checked := d.checked, sys := false
    queue := d.queue, packet := none, origin := d.origin, vcore := j.rank % 192, roles := [c.role, c.role, c.role, c.role]
    spawnWidth := 32, nest := 0, group := group, island := some (c.ref j.u), domain := d.domain, check := d.check
    need := c.need j.u }

/-- Takes a kept gang off its core: its teams go, its resources are free, and its family keeps the tiles, weight buffer
and gathered children it holds. -/
def State.liftOff (s : State) (gang : Nat) : State :=
  match s.gang? gang, (s.gang? gang).bind fun g => s.family? g.family with
  | some g, some f =>
    let c := s.core f.core
    let mine (t : Tile) : Bool := t.state != .empty && t.gslot == g.gslot
    { s with
      teams := s.teams.filter fun t => t.gang != gang
      gangs := s.gangs.map fun (h : Gang) => if h.uid == gang then { h with core := none, group := none } else h
      families := s.families.map fun (h : Family) =>
        if h.uid == f.uid then
          { h with
            resident := false, shadowCore := none, paired := false
            savedTiles := (c.tiles.filter fun (p : BitVec 8 × Tile) => mine p.2).map fun (p : BitVec 8 × Tile) => (gang, p.1, p.2)
            weight := c.weight.filter fun w => w.family == f.uid
            savedChildren := c.spawnq.filter fun k => k.gang == gang }
        else h }.putCore { c with
          tiles := c.tiles.map fun (p : BitVec 8 × Tile) => if mine p.2 then (p.1, { p.2 with state := .empty }) else p
          weight := c.weight.filter fun w => w.family != f.uid
          spawnq := c.spawnq.filter fun k => k.gang != gang }
  | _, _ => s

/-- Whether a core can take what a family off its core holds: the same tile indices, and the weight buffer (R101,
R261). -/
def State.takesHeld (s : State) (f : Family) (core : Nat) : Bool :=
  let c := s.core core
  f.savedTiles.all (fun p => (c.tile p.2.1).state == .empty) && (f.weight.isNone || c.weight.isNone)

/-- Puts what a family holds on its new core, its BCE channel among it (R28, R101, R261). -/
def State.putHeld (s : State) (f : Family) (core : Nat) (slot : BitVec 5) : State :=
  let s := { s with
    chans := s.chans.map fun (c : Chan) =>
      if c.family == f.uid && c.engine == EngineId.bce then { c with core := core } else c
    families := s.families.map fun (h : Family) =>
      if h.uid == f.uid then { h with savedTiles := [], weight := none, savedChildren := [] } else h }
  s.modCore core fun c =>
    let c := { c with
      spawnq := c.spawnq ++ f.savedChildren
      weight := match f.weight with
        | some w => some w
        | none => c.weight }
    f.savedTiles.foldl (fun c p => c.setTile p.2.1 { p.2.2 with gslot := slot }) c

/-- Seats a kept gang on a core under its unit's plan. It keeps its uid, family, barrier, spawn ring, and its gang slot
where it stays; its new partition begins as zeros (log 66). -/
def State.reseat (s : State) (gang : Nat) (p : Plan) (core : Nat) (shadow : Option Nat) (stay : Bool) : State :=
  match s.gang? gang, (s.gang? gang).bind fun g => s.family? g.family with
  | some g, some f =>
    let base := (s.partFit core p.need.part).getD 0
    let sbase := (shadow.bind fun k => s.partFit k p.need.part).getD 0
    let slot := if stay then g.gslot else (s.gangSlotFor core).getD 0
    let s := { s with
      gangs := s.gangs.map fun (h : Gang) =>
        if h.uid == gang then
          { p.gang gang g.family core slot (s.admittedRoot p.tenant) with barGen := g.barGen, ring := g.ring }
        else h
      families := s.families.map fun (h : Family) =>
        if h.uid == f.uid then
          { h with logical := p.logical, core := core, resident := true, partBase := base, partSize := p.need.part
                   paired := shadow.isSome, shadowCore := shadow, shadowBase := sbase }
        else h }
    (s.clearPartition core base p.need.part).putHeld f core slot
  | _, _ => s

/-- The kept gangs that stay on their cores, in order; the answer lists the units seated, with their gangs and cores
(R125). A group's members stay on distinct cores. -/
def State.stayers (s : State) (c : Scene) (d : Gang) :
    List (UnitJob × Option Nat) → List (UnitJob × Nat × Nat) → List (UnitJob × Nat × Nat) × State
  | [], done => (done, s)
  | (j, group) :: rest, done =>
    match j.keeps.bind s.gang? with
    | none => s.stayers c d rest done
    | some g =>
      let p := c.plan d j group
      let lifted := s.liftOff g.uid
      let mates := (done.filter fun x => group.isSome && x.1.u.root == j.u.root && !x.1.u.batch).map fun x => x.2.2
      match g.core with
      | none => lifted.stayers c d rest done
      | some core =>
        if mates.contains core || !lifted.fits p.need core then lifted.stayers c d rest done
        else
          match p.paired, lifted.chooseCore p.need (core :: mates) with
          | true, none => lifted.stayers c d rest done
          | true, some k => (lifted.reseat g.uid p core (some k) true).stayers c d rest (done ++ [(j, g.uid, core)])
          | false, _ => (lifted.reseat g.uid p core none true).stayers c d rest (done ++ [(j, g.uid, core)])

/-- Places one unit off the cores `taken`; the gang's uid and core (R125, R319). -/
def State.placeUnit (s : State) (c : Scene) (d : Gang) (j : UnitJob) (group : Option Nat) (taken : List Nat) :
    Option (Nat × Nat × State) :=
  let p := c.plan d j group
  let held := (j.keeps.bind s.gang?).bind fun g => s.family? g.family
  match s.chooseCoreIf p.need fun k => !taken.contains k && held.all fun f => s.takesHeld f k with
  | none => none
  | some core =>
    match p.paired, s.chooseCore p.need (core :: taken) with
    | true, none => none
    | b, k =>
      let shadow := if b then k else none
      match j.keeps.bind s.gang? with
      | some g => some (g.uid, core, s.reseat g.uid p core shadow false)
      | none =>
        let (uid, s) := s.install p core shadow
        some (uid, core, s)

/-- Whether two units belong to one island: the same group, or the same unit. -/
def sameIsland (a b : UnitJob × Option Nat) : Bool := a.1 == b.1 || (a.2.isSome && a.2 == b.2)

/-- Places the units that are not seated, in ascending order of ID body, the members of a group on distinct cores (R32,
R125, R319); the first that no core can admit otherwise. -/
def State.placeInOrder (s : State) (c : Scene) (d : Gang) (all : List (UnitJob × Option Nat)) :
    List (UnitJob × Option Nat) → List (UnitJob × Nat × Nat) →
    Except (UnitJob × Option Nat) (List (UnitJob × Nat × Nat) × State)
  | [], done => .ok (done, s)
  | j :: js, done =>
    if done.any fun x => x.1 == j.1 then s.placeInOrder c d all js done
    else
      let mates := (done.filter fun x => all.any fun k => k.1 == x.1 && sameIsland k j).map fun x => x.2.2
      match s.placeUnit c d j.1 j.2 mates with
      | none => .error j
      | some (uid, core, t) => t.placeInOrder c d all js (done ++ [(j.1, uid, core)])

/-- Places the units that are not seated; an island that cannot be placed whole does not run, its kept gangs retire, and
the rest are placed without it (R126, R134). -/
def State.placeUnits (c : Scene) (d : Gang) : Nat → List (UnitJob × Option Nat) → List (UnitJob × Nat × Nat) → State →
    List (UnitJob × Nat × Nat) × State
  | 0, _, seated, s => (seated, s)
  | n + 1, all, seated, s =>
    match s.placeInOrder c d all all seated with
    | .ok r => r
    | .error j =>
      let out := (all.filter (sameIsland j)).map Prod.fst
      State.placeUnits c d n (all.filter fun k => !sameIsland j k) (seated.filter fun x => !out.contains x.1)
        ((out.filterMap UnitJob.keeps).foldl State.retireGang s)

/-! ## Filling and starting (R123 step 5, R124, R127 to R129) -/

/-- How the unit translates (R398). -/
def Scene.ctx (c : Scene) : TrCtx :=
  { core := none, tenant := c.ttbase.extractLsb' 8 8, root := (c.ttbase.extractLsb' 16 32).toNat
    en := c.ttbase.getLsbD 0, sys := c.sys }

/-- Reads the records of bodies that have fallen out of the cache: false when one cannot be read (R117, R398). -/
def M.readRecords (c : Scene) : List (BitVec 24) → M Bool
  | [] => return true
  | b :: bs => do
    let (r, s) := (← get).translateRange c.ctx .load (c.btab + BitVec.ofNat 64 (64 * b.toNat)) 64
    set s
    match r with
    | .error (.absent pa, _) => throw (.absent pa)
    | .error _ => return false
    | .ok parts =>
      let (bs8, s) := s.readStream none parts
      set s
      if bs8.any Prod.snd then return false else M.readRecords c bs

/-- The unit takes up records that have fallen out of its cache; one that cannot be read marks the scene failed (R398). -/
def M.recall (num : Nat) (wanted : BitVec 24 → Bool) : M Unit := do
  match (← get).scene? num with
  | none => pure ()
  | some c =>
    let out := c.evicted.filter wanted
    if ← M.readRecords c out then modify fun s => s.putScene (c.recalled out)
    else modify fun s => s.putScene { c with failed := true }

/-- A body's state record, for a fill: none on a translation fault or a poisoned granule (R398, log 31). -/
def M.bodyState (c : Scene) (b : BitVec 24) : M (Option (List Byte)) := do
  let (r, s) := (← get).translateRange c.ctx .bulkLoad (c.bstate + BitVec.ofNat 64 (256 * b.toNat)) 256
  set s
  match r with
  | .error (.absent pa, _) => throw (.absent pa)
  | .error _ => return none
  | .ok parts =>
    let (bs, bad, s) := parts.foldl (fun (acc : List Byte × Bool × State) p =>
      let (x, bad, s) := acc.2.2.homeRead p.1 p.2
      (acc.1 ++ x, acc.2.1 || bad, s)) ([], false, (← get))
    set s
    return if bad then none else some bs

/-- The state records of a list of bodies, in order; none if one fails. -/
def M.bodyStates (c : Scene) : List (BitVec 24) → M (Option (List Byte))
  | [] => return some []
  | b :: bs => do
    match ← M.bodyState c b with
    | none => return none
    | some x =>
      match ← M.bodyStates c bs with
      | none => return none
      | some xs => return some (x ++ xs)

/-- What the header says of a unit besides its sections (R127). -/
structure UnitFlags where
  split : Bool
  merged : Bool
  woke : Bool
  deriving DecidableEq, Repr

/-- The header's flag word (R127). -/
def UnitFlags.word (f : UnitFlags) (u : StepUnit) : Nat :=
  (if u.shards ≠ 1 then 2 else 0) + (if u.batch then 4 else 0) + (if f.woke then 8 else 0) +
    (if f.merged then 16 else 0) + (if f.split then 32 else 0)

/-- The bytes of a store before its EXTRA space (R127 to R129). -/
def Scene.storeBytes (c : Scene) (u : StepUnit) (f : UnitFlags) (states : List Byte) : List Byte :=
  let m := c.storeMap u
  let es := c.edgesOf u
  let r := c.ref u
  let crossing (e : Edge) : Bool := c.dynamic (if u.bodies.contains e.lo then e.hi else e.lo) &&
    !(u.bodies.contains e.lo && u.bodies.contains e.hi)
  let header := bytesOf 4 (c.gangId u.unit).toNat ++ bytesOf 4 u.bodies.length ++ bytesOf 4 r.anchors.length ++
    bytesOf 4 es.length ++ bytesOf 4 0 ++ bytesOf 4 (f.word u) ++ bytesOf 8 c.step.toNat ++ bytesOf 4 u.root.toNat ++
    bytesOf 4 m.anch ++ bytesOf 4 m.edge ++ bytesOf 4 m.cross ++ bytesOf 4 m.free ++ bytesOf 4 c.crosscap
  header ++ List.replicate (0x100 - header.length) 0 ++ states ++
    es.foldl (fun l e => l ++ r.entry e (crossing e)) []

/-- A team of a unit as it starts (R124): `base` is BASE of its clock (R326). -/
def Scene.team (c : Scene) (u : StepUnit) (g : Gang) (core id : Nat) (slot : BitVec 6) (index lanes : Nat) (base : Word)
    (tick : Nat) : Team :=
  let n := u.bodies.length
  let live := min lanes (n - 1024 * index)
  let t := Team.make id g core slot (BitVec.ofNat 6 index) .general lanes c.vreg c.sreg c.entry
    ((List.range lanes).map fun l => launchedKey g.logical index l) (maskBelow live) tick
  { t with
    fromGen := g.barGen, base := base
    v := (t.v.set 0 { tag := .fmt .n32, shape := .general ((List.range lanes).map fun l =>
            ((u.bodies.getD (1024 * index + l) 0).setWidth 32)), poison := 0 }).set 1
          { tag := .fmt .n32, shape := .affine (BitVec.ofNat 32 (1024 * index)) 1, poison := 0 }
    s := (((t.s.set 0 (g.logical.setWidth 64)).set 1 (BitVec.ofNat 64 n)).set 2 c.step).set 3
          (BitVec.ofNat 64 (u.shard * 2 ^ 16 + u.shards)) }

/-- Starts the teams of a unit's gang. -/
def State.startUnit (s : State) (c : Scene) (u : StepUnit) (uid core : Nat) (base : Word) : State :=
  match s.gang? uid with
  | none => s
  | some g =>
    ((unitTeams u.bodies.length).zipIdx 0).foldl (fun (s : State) (p : Nat × Nat) =>
      let (id, s) := s.fresh
      s.addTeam (c.team u g core id (s.slotFor core) p.2 p.1 base s.tick.toNat)) s

/-! ## Regrouping (R123) -/

/-- The scene after the boundary: SLEEP, WAKE and reports, and for the bodies of units ISL, SHARD and SLOT (R117, R123,
R399). `ran` are the units that run. -/
def Scene.settleBodies (c : Scene) (asleep : List (BitVec 24)) (ran : List StepUnit) : Scene :=
  let touched := ran.foldl (fun (c : Scene) u => u.bodies.foldl (fun c b => c.modBody b id) c) c
  { touched with bodies := touched.bodies.map fun (x : Body) =>
      let x := { x with sleep := asleep.contains x.id, wake := false, reported := false }
      if x.sleep then x
      else
        match ran.find? fun u => u.bodies.contains x.id with
        | some u => { x with
            isl := c.gangId u.unit, shard := BitVec.ofNat 16 u.shard
            slot := BitVec.ofNat 32 ((indexOf? (fun b => b == x.id) u.bodies).getD 0) }
        | none => { x with isl := 0xFFFFFFFF } }

/-- The islands of a step: its units together by root, batches alone, in ascending order of ID body. -/
def groupUnits (js : List UnitJob) : List (List UnitJob) :=
  (js.filter fun j => j.u.batch || !js.any fun k =>
    !k.u.batch && k.u.root == j.u.root && decide (k.u.unit.toNat < j.u.unit.toNat)).map fun j =>
      if j.u.batch then [j] else js.filter fun k => !k.u.batch && k.u.root == j.u.root

/-- Whether an island may run (R126, R134): at most 192 shards, each partition at most 3 MiB. -/
def Scene.runnable (c : Scene) (js : List UnitJob) : Bool :=
  decide (js.length ≤ 192) && js.all fun j => decide ((c.storeMap j.u).size ≤ scratchBytes)

/-- The header flags of a unit (R127, R132): `gs` are the gangs of the last step, `us` the units of this one, and
`slept` says which bodies slept. -/
def unitFlags (gs : List Gang) (us : List StepUnit) (slept : BitVec 24 → Bool) (j : UnitJob) : UnitFlags :=
  let old := j.keeps.bind fun k => gs.find? fun g => g.uid == k
  let lot (g : Gang) (b : BitVec 24) : Bool :=
    match g.island with
    | some q => !q.batch && gs.any fun h => h.island.any fun r => !r.batch && r.root == q.root && r.bodies.contains b
    | none => false
  { split := old.any fun g => decide (2 ≤ (us.filter fun u => u.bodies.any (lot g)).length)
    merged := decide (2 ≤ (gs.filter fun g => g.island.any fun r => r.bodies.any fun b => j.u.bodies.contains b).length)
    woke := j.u.bodies.any slept }

/-- Reads every store's records, those of the bodies and then of the anchors; none if one fails. -/
def M.fills (c : Scene) : List UnitJob → M (Option (List (UnitJob × List Byte)))
  | [] => return some []
  | j :: js => do
    match ← M.bodyStates c (j.u.bodies ++ c.anchorsOf j.u) with
    | none => return none
    | some bs =>
      match ← M.fills c js with
      | none => return none
      | some rest => return some ((j, bs) :: rest)

/-- The scene fails: no unit starts, and its gangs retire (R398). -/
def State.failScene (s : State) (c : Scene) : State :=
  ((s.islandGangs c.num).foldl (fun (s : State) g => s.retireGang g.uid) s).putScene { c with failed := true }

/-- Starts the units that have gangs, with their stores filled (R123 step 5). -/
def State.startUnits (s : State) (c : Scene) (base : Word) (flags : UnitJob → UnitFlags)
    (ran : List (UnitJob × Nat × Nat)) (states : List (UnitJob × List Byte)) : State :=
  ran.foldl (fun (s : State) x =>
    let bs := ((states.find? fun y => y.1 == x.1).map Prod.snd).getD []
    match s.gang? x.2.1 with
    | none => s
    | some g =>
      (s.partWrite g.family 0 (c.storeBytes x.1.u (flags x.1) bs)).startUnit c x.1.u x.2.1 x.2.2 base) s

/-- Whether a kept gang may be moved: none of its tiles is filling or draining (R101). -/
def State.mayMove (s : State) (gang : Nat) : Bool :=
  match s.gang? gang, (s.gang? gang).bind fun g => s.family? g.family with
  | some g, some f =>
    !((s.core f.core).tiles.any fun (p : BitVec 8 × Tile) =>
      p.2.gslot == g.gslot && (p.2.state == .filling || p.2.state == .draining))
  | _, _ => true

/-- The regrouping for a driver (R123 to R126): the result stands in the scene. It waits while a gang that would move
may not (R101). -/
def M.regroup (num : Nat) (driver : Team) : M Unit := do
  M.recall num fun _ => true
  let s ← get
  match s.scene? num, s.gangOf? driver with
  | some c0, some d =>
    if c0.failed then
      set (s.failScene c0)
      return
    let gs := s.islandGangs c0.num
    let c := { c0.relabel with step := c0.step + 1 }
    let comps := c.components
    let asleep := (comps.filter (c.sleeps gs)).foldl (fun l x => l ++ x) []
    let us := c.units (comps.filter fun x => !c.sleeps gs x)
    let jobs := (us.zipIdx 0).map fun (p : StepUnit × Nat) => ({ u := p.1, rank := p.2, keeps := keptBy gs p.1 } : UnitJob)
    let islands := groupUnits jobs
    let may := islands.filter c.runnable
    let first := s.nextId
    let grouped := (may.zipIdx 0).map fun (p : List UnitJob × Nat) =>
      (p.1, if p.1.length = 1 then none else some (first + p.2))
    let all := sortBy (fun a b => decide (a.1.u.unit.toNat < b.1.u.unit.toNat))
      (grouped.foldl (fun l p => l ++ p.1.map fun j => (j, p.2)) [])
    let kept := all.filterMap fun j => j.1.keeps
    let s1 := (gs.filter fun g => !kept.contains g.uid).foldl (fun (s : State) g => s.retireGang g.uid)
      { s with nextId := first + may.length }
    let s1 := kept.foldl (fun (s : State) u => s.reportMasks u false) s1
    let (seated, s2) := s1.stayers c d all []
    M.stopIf (kept.any fun u => !(seated.any fun x => x.2.1 == u) && !s.mayMove u) (.wait .step)
    let (ran, s3) := State.placeUnits c d (islands.length + 1) all seated s2
    set (s3.forceBelow (s3.engineCoverage (dieOf driver.core) (some driver.core)))
    match ← M.fills c (ran.map fun x => x.1) with
    | none => modify fun s => s.failScene c
    | some states =>
      let ranUnits := ran.map fun x => x.1.u
      let base := if 2 ≤ d.level.toNat then driver.lclk + 1 else 0
      let s := (← get).startUnits c base (unitFlags gs us fun b => (c0.body b).sleep) ran states
      let groups := grouped.filterMap fun p =>
        match p.2 with
        | none => none
        | some gr =>
          let members := (ran.filter fun x => p.1.contains x.1).map fun x => x.2.1
          if members.isEmpty then none
          else some ({ uid := gr, members := members, total := members.length, gen := 0, abandoned := false
                       barStatus := 0, tag := 0, startAt := none, mdev := false, tick := 0
                       told := none, remote := [], away := 0, out := false } : Group)
      let old (gr : Group) : Bool := gr.members.all fun m => gs.any fun g => g.uid == m
      let missed := min 65535 (sumOf ((islands.filter fun js => !js.any fun j => ranUnits.contains j.u).map fun js =>
        if js.length ≤ 192 then js.length else 1))
      set { s with groups := s.groups.filter (fun gr => !old gr) ++ groups }
      modify fun s => s.putScene { c.settleBodies asleep ranUnits with
        result := some (BitVec.ofNat 64 (missed * 2 ^ 32 + ran.length)) }
  | _, _ => throw (.wait .other)

end Sys2Proof.Machine
end

