-- ==== Sys2Proof/Machine/Islands.lean ====
section
/-!
DEFINITION. The instructions of major 48 and the events of the Constellation Unit (14_isa_islands_engines.md R270 to
R277; 06_islands.md R116 to R122; 25_faults_engines_scheduling.md R395, R398).
-/

namespace Sys2Proof.Machine

/-! ## Shared checks (R270, R271, R274) -/

/-- The open scene a value names, of the team's tenant; a failed one traps unless `failedToo` (R270, R398). -/
def M.scene (t : Team) (a : Word) (failedToo : Bool) : M Scene := do
  let s ← get
  M.stopIf (decide (64 ≤ a.toNat)) (trapWith 0x184 a)
  match s.scene? a.toNat with
  | none => throw (trapWith 0x184 a)
  | some c =>
    M.stopIf (c.tenant != s.tenantOf t) (trapWith 0x184 a)
    M.stopIf (c.failed && !failedToo) (trapWith 0x198 a)
    return c

/-- Register k of the run that begins at vb: its number, which must be below the count (R271). -/
def View.runReg (v : View) (vb : BitVec 6) (k : Nat) : Except Stop (BitVec 6) := do
  stopIf (decide (64 ≤ vb.toNat + k)) (regTrap 0x040 posD (vb.toNat + k))
  let r := vb + BitVec.ofNat 6 k
  v.checkV1 posD r
  stopIf (v.busy r) (.wait .register)
  return r

/-- An ID register of a run: tag n32 or s32 (R271); a poisoned active lane halts the team. -/
def View.readIds (v : View) (vb : BitVec 6) (k : Nat) : Except Stop Src := do
  let r ← v.runReg vb k
  let x : Src := { lo := v.vreg r, hi := VReg.zero, pair := false }
  fmtCheck x [.fmt .n32, .fmt .s32] posD r.toNat
  v.consume [x]
  return x

/-- The tag register of `clink`: any tag but a pair tag (R271). -/
def View.readUser (v : View) (vb : BitVec 6) (k : Nat) : Except Stop Src := do
  let r ← v.runReg vb k
  let x : Src := { lo := v.vreg r, hi := VReg.zero, pair := false }
  stopIf x.tag.isPair (regTrap 0x042 posD r.toNat)
  v.consume [x]
  return x

/-- Every active lane's IDs are below NBODY; otherwise the class 6 trap of R118 with the lowest lane's ID. -/
def checkIds (c : Scene) (t : Team) (regs : List Src) : Except Stop Unit :=
  let bad (l : Nat) : Option Nat := (regs.map fun r => r.val l).find? fun n => decide (c.nbody ≤ n)
  match t.lanes.filter fun l => (bad l).isSome with
  | [] => .ok ()
  | l :: ls => .error (.trap 0x185 (BitVec.ofNat 64 ((bad l).getD 0)) (some (maskOf (l :: ls))))

/-- The body a lane names. -/
def Src.bodyId (r : Src) (l : Nat) : BitVec 24 := BitVec.ofNat 24 (r.val l)

/-- What the instructions on bodies share (R270, R274): the scene and ID registers, the clock, the scene, the IDs; they
wait while a regrouping has not been answered (R118). -/
def M.onBodies (t : Team) (sa : SSrc) (regs : View → Except Stop (List Src)) (stalls : Bool) : M (Scene × List Src) := do
  let (a, rs) : Word × List Src ← M.read t fun v => do
    let a ← v.readS posSA sa
    let rs ← regs v
    return (a, rs)
  M.gate t
  let c ← M.scene t a false
  M.lift (checkIds c t (rs.take 2))
  M.recall a.toNat fun b => t.lanes.any fun l => (rs.take 2).any fun r => r.bodyId l == b
  let c ← M.scene t a false
  M.stopIf (stalls && c.result.isSome) (.wait .other)
  return (c, rs)

/-! ## Opening and closing (R272, R273) -/

/-- A field of a descriptor: n bytes at an offset. -/
def descWord (bs : List Byte) (off n : Nat) : Word := BitVec.ofNat 64 (fieldOf bs off n)

/-- The scene a descriptor describes (R116). -/
def sceneOf (num : BitVec 6) (tenant : BitVec 8) (ttbase : Word) (sys : Bool) (bs : List Byte) : Scene :=
  { num := num, tenant := tenant, ttbase := ttbase, sys := sys, btab := descWord bs 0 8, bstate := descWord bs 8 8
    ecap := fieldOf bs 0x18 4, nbody := fieldOf bs 0x1C 4, entry := descWord bs 0x20 8, scap := fieldOf bs 0x28 2
    vreg := fieldOf bs 0x2A 1, sreg := fieldOf bs 0x2B 1, crosscap := fieldOf bs 0x2C 2, extra := fieldOf bs 0x2E 2
    step := 0, bodies := [], evicted := [], edges := [], failed := false, drivers := [], result := none, lastEnd := 0 }

/-- Whether a descriptor keeps the ranges of R116. A reserved field that is not 0 counts as out of range, which log 77 marks
as the model's choice. -/
def descFormed (entries : List Word) (bs : List Byte) : Bool :=
  let c := sceneOf 0 0 0 false bs
  let granule (n : Nat) : Bool := decide (8 ≤ n ∧ n ≤ 64 ∧ n % 8 = 0)
  c.btab.toNat % 65536 == 0 && c.bstate.toNat % 256 == 0 && fieldOf bs 0x10 8 % 65536 == 0 &&
    decide (1 ≤ c.ecap ∧ c.ecap ≤ 2 ^ 28) && decide (1 ≤ c.nbody ∧ c.nbody ≤ 2 ^ 24) && entries.contains c.entry &&
    decide (c.crosscap ≤ 4096) && granule c.sreg && granule c.vreg &&
    decide (32 ≤ c.scap ∧ c.scap ≤ 16384 ∧ c.scap % 32 = 0) && fieldOf bs 0x30 16 == 0

/-- Writes one body record under a context: the failure, with its address, or nothing. -/
def State.writeRecord (s : State) (x : TrCtx) (c : Scene) (b : BitVec 24) : Option (TrErr × Word) × State :=
  match s.translateRange x .store (c.btab + BitVec.ofNat 64 (64 * b.toNat)) 64 with
  | (.error e, s) => (some e, s)
  | (.ok parts, s) => (none, s.writeParts parts (c.record b))

/-- Writes records in order, up to the first failure. -/
def State.writeRecords (s : State) (x : TrCtx) (c : Scene) : List (BitVec 24) → Option (TrErr × Word) × State
  | [] => (none, s)
  | b :: bs =>
    match s.writeRecord x c b with
    | (none, s) => s.writeRecords x c bs
    | r => r

/-- Translates the first byte of each 64 KiB of the edge table as a store (R272). -/
def State.touchTable (s : State) (x : TrCtx) : List Word → Option (TrErr × Word) × State
  | [] => (none, s)
  | a :: as_ =>
    match s.translate x .store a with
    | (.error e, s) => (some (e, a), s)
    | (.ok _, s) => s.touchTable x as_

/-- Initialises the tables of a scene that opens; a fault is that of a store by the team (R272). -/
def M.initTables (t : Team) (c : Scene) (etab : Word) : M Unit := do
  let x := (← get).teamCtx t
  let (r, s) := (← get).writeRecords x c ((List.range c.nbody).map fun n => BitVec.ofNat 24 n)
  set s
  match r with
  | some (e, a) => throw (e.stop .store a t.active)
  | none =>
    let (r, s) := (← get).touchTable x
      ((List.range ((32 * c.ecap + 65535) / 65536)).map fun i => etab + BitVec.ofNat 64 (65536 * i))
    set s
    match r with
    | some (e, a) => throw (e.stop .store a t.active)
    | none => pure ()

/-- `cscene` (R272). -/
def openScene (sa : SSrc) (sd : BitVec 6) (t : Team) : M Done := do
  let a ← M.read t fun v => do
    let a ← v.readS posSA sa
    v.checkS posD sd
    return a
  M.gate t
  M.stopIf (a.toNat % 64 != 0) (trapWith 0x199 a)
  M.bind t
  let (bs, bad) ← M.bulkRead t .load a 64
  let s ← get
  let answer (w : Word) : M Done := do
    M.regs t fun v => .ok (v.setS sd w)
    return .next
  if !bad.isEmpty || !descFormed (s.tenant (s.tenantOf t)).entries bs then answer (-2)
  else
    match (List.range 64).find? fun n => (s.scene? n).isNone with
    | none => answer (-1)
    | some n =>
      let ttbase := ((s.gangOf? t).map fun g => g.ttbase).getD 0
      let c := sceneOf (BitVec.ofNat 6 n) (s.tenantOf t) ttbase t.isSystem bs
      M.initTables t c (descWord bs 0x10 8)
      modify fun s => { s with scenes := s.scenes ++ [c] }
      answer (BitVec.ofNat 64 n)

/-- Drivers whose `cstep` has not returned: those that have neither ended nor halted (R122). -/
def State.liveDrivers (s : State) (c : Scene) : List Nat :=
  c.drivers.filter fun id => (s.team? id).any fun t => !t.gone

/-- Writes back every record that can be written (R273, R398). -/
def State.writeBack (s : State) (c : Scene) : State :=
  c.bodies.foldl (fun s b => (s.writeRecord c.ctx c b.id).2) s

/-- `cclose` (R273). -/
def closeScene (sa : SSrc) (t : Team) : M Done := do
  let a ← M.read t fun v => v.readS posSA sa
  M.gate t
  let c ← M.scene t a true
  let s ← get
  M.stopIf (!(s.islandGangs c.num).isEmpty || !(s.liveDrivers c).isEmpty) (trapWith 0x187 a)
  modify fun s =>
    let s := s.writeBack c
    { s with scenes := s.scenes.filter fun d => d.num != c.num }
  return .next

/-! ## Bodies and edges (R118, R119, R133, R274, R275) -/

/-- `ckind` (R274). -/
def setKinds (k : BodyKind) (sa : SSrc) (vb : BitVec 6) (t : Team) : M Done := do
  let (c, rs) ← M.onBodies t sa (fun v => do return [← v.readIds vb 0]) true
  let ids := rs.headD (Src.imm .s32 0)
  modify fun s => s.putScene (t.lanes.foldl (fun (c : Scene) l =>
    c.modBody (ids.bodyId l) fun x => { x with nextKind := k, reported := true }) c)
  return .next

/-- One lane's report of an edge (R118, R119, R130): false when the table is full and the edge is new. -/
def State.linkLane (s : State) (num : Nat) (e : Edge) : Bool × State :=
  match s.scene? num with
  | none => (true, s)
  | some c =>
    if e.lo == e.hi then (true, s)
    else if !(c.edges.any fun f => f.same e) && decide (c.ecap ≤ c.edges.length) then (false, s)
    else
      let mark (x : Body) : Body := { x with reported := true }
      let c := ({ c with edges := insertEdge e c.edges }.modBody e.lo mark).modBody e.hi mark
      let c := if c.dynamic e.lo && c.dynamic e.hi then c.union e.lo e.hi else c
      (true, (s.putScene c).crossReport c e)

/-- Reports lane by lane; the lanes that were not applied (R274). -/
def State.linkLanes (s : State) (num : Nat) (edge : Nat → Edge) : List Nat → List Nat × State
  | [] => ([], s)
  | l :: ls =>
    match s.linkLane num (edge l) with
    | (true, s) => s.linkLanes num edge ls
    | (false, s) => (l :: ls, s)

/-- The edge that lane l of an instruction names. -/
def laneEdge (joint : Bool) (rs : List Src) (l : Nat) : Edge :=
  let r (k : Nat) : Src := rs.getD k (Src.imm .s32 0)
  Edge.of ((r 0).bodyId l) ((r 1).bodyId l) joint (BitVec.ofNat 32 ((r 2).val l))

/-- `clink` (R118, R119, R274). -/
def linkBodies (joint : Bool) (sa : SSrc) (vb : BitVec 6) (t : Team) : M Done := do
  let (c, rs) ← M.onBodies t sa (fun v => do
    let a ← v.readIds vb 0
    let b ← v.readIds vb 1
    let u ← v.readUser vb 2
    return [a, b, u]) true
  let (left, s) := (← get).linkLanes c.num.toNat (laneEdge joint rs) t.lanes
  set s
  match left with
  | [] => return .next
  | ls => throw (.trap 0x186 (BitVec.ofNat 64 c.ecap) (some (maskOf ls)))

/-- Removes one lane's edge, if it is there (R118, R274). -/
def Scene.unlinkLane (c : Scene) (e : Edge) : Scene :=
  if c.edges.any fun f => f.same e then
    let mark (x : Body) : Body := { x with reported := true }
    ({ c with edges := c.edges.filter fun f => !f.same e }.modBody e.lo mark).modBody e.hi mark
  else c

/-- `cunlink` (R118, R274). -/
def unlinkBodies (joint : Bool) (sa : SSrc) (vb : BitVec 6) (t : Team) : M Done := do
  let (c, rs) ← M.onBodies t sa (fun v => do
    let a ← v.readIds vb 0
    let b ← v.readIds vb 1
    return [a, b]) true
  modify fun s => s.putScene (t.lanes.foldl (fun (c : Scene) l => c.unlinkLane (laneEdge joint rs l)) c)
  return .next

/-- `cwake` (R133, R274): WAKE on a sleeping body; on an awake one only the report, which keeps its island awake
(R277). -/
def wakeBodies (sa : SSrc) (vb : BitVec 6) (t : Team) : M Done := do
  let (c, rs) ← M.onBodies t sa (fun v => do return [← v.readIds vb 0]) true
  let ids := rs.headD (Src.imm .s32 0)
  modify fun s => s.putScene (t.lanes.foldl (fun (c : Scene) l =>
    c.modBody (ids.bodyId l) fun x => { x with wake := x.wake || x.sleep, reported := true }) c)
  return .next

/-- The value a query gives (R275). -/
def Scene.queryValue (c : Scene) (f : QueryField) (b : BitVec 24) : Nat :=
  let x := c.body b
  match f with
  | .root => x.parent.toNat
  | .state => x.stateWord x.nextKind
  | .isl => x.isl.toNat
  | .ecnt => c.ecnt b
  | .shard => x.shard.toNat * 2 ^ 16
  | .slot => x.slot.toNat

/-- `cquery` (R275). -/
def queryBodies (f : QueryField) (sa : SSrc) (vb : BitVec 6) (t : Team) : M Done := do
  let (c, rs) ← M.onBodies t sa (fun v => do
    let a ← v.readIds vb 0
    let _ ← v.runReg vb 1
    return [a]) false
  let ids := rs.headD (Src.imm .s32 0)
  M.regs t fun v =>
    .ok (v.put (vb + 1) false (v.lanewise (.fmt .n32) ids.uniform fun l => c.queryValue f (ids.bodyId l)))
  return .next

/-! ## The step boundary (R122, R276, R277) -/

/-- The island side of `cstep` (R122, R276). -/
def endStep (g : Gang) (t : Team) : M Done := do
  if t.arm.wait != some .stepEnded then
    M.stopIf (t.ap != 0) (.wait .sync)
    M.bind t
    modify fun s => s.recordPending t.id
    if 1 ≤ g.level.toNat then M.flush t .logFull fun e => e.team == t.id
    modify fun s => s.publish t.id .device
    modify fun s => (s.setWait t .stepEnded).islandEnd g (some t.lclk)
  throw (.wait .stepEnded)

/-- Whether every island gang of a scene is resident and has ended its step (R122). -/
def State.stepOver (s : State) (c : Scene) : Bool := (s.islandGangs c.num).all fun g => g.core.isSome && s.gangStepEnded g.uid

/-- A driver that waited for the last step end counts again, its clock past it (R328). -/
def M.raiseDriver (c : Scene) (t : Team) : M Unit := do
  let clock := if 2 ≤ (← get).levelOf t then some c.lastEnd else none
  M.modTeam t.id fun u => u.wakeIf (fun w => w == .step) clock

/-- The driver's side of `cstep` (R122, R276, R398): it waits its turn and the step's end, regroups, replays and returns
the counts. -/
def driveStep (num : Nat) (sd : BitVec 6) (t : Team) : M Done := do
  let enlist (c : Scene) : Scene := if c.drivers.contains t.id then c else { c with drivers := c.drivers ++ [t.id] }
  modify fun s =>
    match s.scene? num with
    | none => s
    | some c => s.putScene (enlist { c with drivers := s.liveDrivers c })
  let s ← get
  match s.scene? num with
  | none => throw (.wait .step)
  | some c =>
    M.stopIf (c.drivers.head? != some t.id) (.wait .step)
    if c.result.isNone then
      M.stopIf (!s.stepOver c) (.wait .step)
      M.raiseDriver c t
      M.regroup num (← M.team t.id)
    let s ← get
    match (s.scene? num).map fun (c : Scene) => (c.failed, c.result) with
    | some (false, some w) =>
      modify fun s => (s.dropDriver t.id).replay t.id .device allCores
      M.regs t fun v => .ok (v.setS sd w)
      return .next
    | _ =>
      modify fun s => s.dropDriver t.id
      throw (trapWith 0x198 (BitVec.ofNat 64 num))

/-- Whether the regrouping that a driver waited for is done: it passed the test of R327 when it issued (R328). -/
def State.answered (s : State) (num : Nat) (t : Team) : Bool :=
  (s.scene? num).any fun c => c.result.isSome && c.drivers.head? == some t.id

/-- `cstep` (R276). -/
def stepScene (sa : SSrc) (sd : BitVec 6) (t : Team) : M Done := do
  let a ← M.read t fun v => do
    let a ← v.readS posSA sa
    v.checkS posD sd
    return a
  M.notInHandler t
  M.emptyStack t
  M.stopIf t.spawned (trapWith 0x182 0)
  if !(← get).answered a.toNat t then M.gate t
  match (← get).gangOf? t with
  | none => throw (.wait .other)
  | some g =>
    match g.island with
    | some r =>
      let _ ← M.scene t a true
      M.stopIf (r.scene.toNat != a.toNat) (trapWith 0x188 0)
      endStep g t
    | none =>
      let _ ← M.scene t a false
      driveStep a.toNat sd t

/-- `csleep` (R133, R277). -/
def sleepGang (t : Team) : M Done := do
  M.gate t
  match ((← get).gangOf? t).bind fun (g : Gang) => g.island.map fun (r : IslandRef) => (g, r) with
  | none => throw (trapWith 0x188 0)
  | some (g, r) =>
    modify fun s => { s with gangs := s.gangs.map fun (h : Gang) =>
      if h.uid == g.uid then { h with island := some { r with sleep := true } } else h }
    return .next

/-- The regrouping of a scene whose step is over, for the driver that waits at its head (R123, R328). -/
def regroupEvent (num : Nat) : M Unit := do
  let s ← get
  match s.scene? num with
  | none => M.idle
  | some c =>
    match (s.liveDrivers c).head?.bind s.team? with
    | none => M.idle
    | some t =>
      if c.failed || c.result.isSome || !s.stepOver c || t.arm.wait != some .step || !s.gangResident t.gang then M.idle
      modify fun s => s.putScene { c with drivers := s.liveDrivers c }
      M.raiseDriver c t
      M.regroup num (← M.team t.id)

/-- Writes a body record back; a translation fault marks the scene failed (R117, R398). -/
def M.writeBack (c : Scene) (b : BitVec 24) : M Unit := do
  let (r, s) := (← get).writeRecord c.ctx c b
  set s
  match r with
  | none => pure ()
  | some (.absent pa, _) => throw (.absent pa)
  | some (.fault _ _, _) => modify fun s => s.putScene { c with failed := true }

/-- A body record is written back (R117). -/
def writeBackEvent (num body : Nat) : M Unit := do
  match (← get).scene? num with
  | none => M.idle
  | some c =>
    if c.failed || decide (c.nbody ≤ body) then M.idle
    M.writeBack c (BitVec.ofNat 24 body)

/-- Records the unit of a die caches (R117). -/
def dieRecords : Nat := 262144

/-- The records the unit of a die holds: those of the bodies its scenes have touched, but for the evicted. -/
def State.heldRecords (s : State) (die : Nat) : List (Scene × BitVec 24) :=
  s.scenes.flatMap fun c => (c.bodies.filter fun x => x.id.toNat % 4 = die && !c.evicted.contains x.id).map fun x => (c, x.id)

/-- Beyond its 262,144 records the unit of a die writes one back and holds it no longer (R117, log 67). -/
def evictEvent : M Unit := do
  let s ← get
  if decide (sumOf (s.scenes.map fun c => c.bodies.length) ≤ dieRecords) then M.idle
  match (List.range 4).findSome? fun d =>
      let held := s.heldRecords d
      if held.length ≤ dieRecords then none else held.head? with
  | none => M.idle
  | some (c, b) =>
    set (s.putScene { c with evicted := c.evicted ++ [b] })
    M.writeBack { c with evicted := c.evicted ++ [b] } b

/-! ## The instructions -/

/-- `cscene` (R272). -/
def execCscene (sa : SSrc) (sd : BitVec 6) (s : State) : Host.Outcome State Fault Refusal := issue 4 (openScene sa sd) s

/-- `cclose` (R273). -/
def execCclose (sa : SSrc) (s : State) : Host.Outcome State Fault Refusal := issue 4 (closeScene sa) s

/-- `ckind` (R274). -/
def execCkind (k : BodyKind) (sa : SSrc) (vb : BitVec 6) (s : State) : Host.Outcome State Fault Refusal :=
  issue 4 (setKinds k sa vb) s

/-- `clink` (R274). -/
def execClink (joint : Bool) (sa : SSrc) (vb : BitVec 6) (s : State) : Host.Outcome State Fault Refusal :=
  issue 4 (linkBodies joint sa vb) s

/-- `cunlink` (R274). -/
def execCunlink (joint : Bool) (sa : SSrc) (vb : BitVec 6) (s : State) : Host.Outcome State Fault Refusal :=
  issue 4 (unlinkBodies joint sa vb) s

/-- `cstep` (R276). -/
def execCstep (sa : SSrc) (sd : BitVec 6) (s : State) : Host.Outcome State Fault Refusal := issue 4 (stepScene sa sd) s

/-- `csleep` (R277). -/
def execCsleep (s : State) : Host.Outcome State Fault Refusal := issue 4 sleepGang s

/-- `cwake` (R274). -/
def execCwake (sa : SSrc) (vb : BitVec 6) (s : State) : Host.Outcome State Fault Refusal := issue 4 (wakeBodies sa vb) s

/-- `cquery` (R275). -/
def execCquery (f : QueryField) (sa : SSrc) (vb : BitVec 6) (s : State) : Host.Outcome State Fault Refusal :=
  issue 4 (queryBodies f sa vb) s

/-- CSTEP_REGROUP (R123). -/
def execCstepRegroup (scene : Nat) (s : State) : Host.Outcome State Fault Refusal := event (regroupEvent scene) s

/-- BODY_RECORD_WRITEBACK (R117). -/
def execBodyRecordWriteback (scene body : Nat) (s : State) : Host.Outcome State Fault Refusal :=
  event (writeBackEvent scene body) s

end Sys2Proof.Machine
end

