-- ==== Sys2Proof/Machine/Shake.lean ====
section
/-!
DEFINITION. SHAKE256, which digests sections of a context image (15_system_traps.md R303), epochs
(17_determinism.md R333) and job records (18_platform.md R352). The state is 25 lanes of 64 bits, lane x + 5y.
-/

namespace Sys2Proof

/-- The round constants of Keccak-f[1600]. -/
def keccakRc : List (BitVec 64) :=
  [0x0000000000000001#64, 0x0000000000008082#64, 0x800000000000808A#64, 0x8000000080008000#64,
   0x000000000000808B#64, 0x0000000080000001#64, 0x8000000080008081#64, 0x8000000000008009#64] ++
  [0x000000000000008A#64, 0x0000000000000088#64, 0x0000000080008009#64, 0x000000008000000A#64,
   0x000000008000808B#64, 0x800000000000008B#64, 0x8000000000008089#64, 0x8000000000008003#64] ++
  [0x8000000000008002#64, 0x8000000000000080#64, 0x000000000000800A#64, 0x800000008000000A#64,
   0x8000000080008081#64, 0x8000000000008080#64, 0x0000000080000001#64, 0x8000000080008008#64]

/-- The rotation of each lane. -/
def keccakRot : List Nat :=
  [0, 1, 62, 28, 27, 36, 44, 6, 55, 20, 3, 10, 43, 25, 39, 41, 45, 15, 21, 8, 18, 2, 61, 56, 14]

/-- Lane i of a state. -/
def keccakLane (a : List (BitVec 64)) (i : Nat) : BitVec 64 := a.getD i 0

/-- One round. -/
def keccakRound (a : List (BitVec 64)) (rc : BitVec 64) : List (BitVec 64) :=
  let c := (List.range 5).map fun x =>
    keccakLane a x ^^^ keccakLane a (x + 5) ^^^ keccakLane a (x + 10) ^^^ keccakLane a (x + 15) ^^^ keccakLane a (x + 20)
  let d := (List.range 5).map fun x => keccakLane c ((x + 4) % 5) ^^^ (keccakLane c ((x + 1) % 5)).rotateLeft 1
  let t := (List.range 25).map fun i => (keccakLane a i ^^^ keccakLane d (i % 5)).rotateLeft (keccakRot.getD i 0)
  -- lane (x, y) of the permuted state comes from lane ((x + 3y) mod 5, x)
  let b := (List.range 25).map fun i => let x := i % 5; let y := i / 5; keccakLane t ((x + 3 * y) % 5 + 5 * x)
  let e := (List.range 25).map fun i =>
    let x := i % 5
    let y := i / 5
    keccakLane b i ^^^ (~~~ keccakLane b ((x + 1) % 5 + 5 * y) &&& keccakLane b ((x + 2) % 5 + 5 * y))
  match e with
  | [] => []
  | h :: r => (h ^^^ rc) :: r

/-- The permutation. -/
def keccakF (a : List (BitVec 64)) : List (BitVec 64) := keccakRc.foldl keccakRound a

/-- Eight bytes as a lane, least significant first. -/
def laneOfBytes (bs : List Byte) : BitVec 64 :=
  bs.reverse.foldl (fun (acc : BitVec 64) b => (acc <<< 8) ||| b.setWidth 64) 0

/-- The 17 lanes of a 136-byte block. -/
def blockLanes : Nat → List Byte → List (BitVec 64)
  | 0, _ => []
  | n + 1, bs => laneOfBytes (bs.take 8) :: blockLanes n (bs.drop 8)

/-- Absorbs padded blocks. -/
def shakeAbsorb : Nat → List Byte → List (BitVec 64) → List (BitVec 64)
  | 0, _, a => a
  | n + 1, bs, a =>
    let blk := blockLanes 17 (bs.take 136)
    shakeAbsorb n (bs.drop 136) (keccakF ((List.range 25).map fun i => keccakLane a i ^^^ keccakLane blk i))

/-- The padding of SHAKE: 0x1F, zeros, and 0x80 in the last byte of the block. -/
def shakePad (bs : List Byte) : List Byte :=
  let r := 136 - bs.length % 136
  if r = 1 then bs ++ [0x9F#8] else bs ++ 0x1F#8 :: (List.replicate (r - 2) 0#8 ++ [0x80#8])

/-- SHAKE256 with 256 bits of output; byte k of the output is bits [8k+7:8k]. -/
def shake256 (bs : List Byte) : BitVec 256 :=
  let p := shakePad bs
  let a := shakeAbsorb (p.length / 136) p (List.replicate 25 0)
  (keccakLane a 3 ++ keccakLane a 2 ++ keccakLane a 1 ++ keccakLane a 0 : BitVec 256)

end Sys2Proof
end

