-- ==== Sys2Proof/Machine/Image.lean ====
section
/-!
DEFINITION. The bytes of a context image (03_registers.md R65; 15_system_traps.md R303 to R307), and the check of its
sections (15_system_traps.md R308; 25_faults_engines_scheduling.md R404). The machine restores from the records it
keeps of a saved gang, of which the image is the encoding (log 16).
-/

namespace Sys2Proof.Machine

/-! ## Sections (R303) -/

/-- A section: KIND, TEAM and payload. -/
structure Section where
  kind : Nat
  team : Nat
  payload : List Byte
  deriving DecidableEq, Repr

/-- Pads bytes to a multiple of n. -/
def padTo (n : Nat) (bs : List Byte) : List Byte := bs ++ List.replicate (roundUp bs.length n - bs.length) 0

/-- A section's header, with the digest of `digested`. -/
def Section.header (x : Section) (digested : List Byte) : List Byte :=
  bytesOf 4 (x.kind + x.team * 2 ^ 8) ++ bytesOf 4 0 ++ bytesOf 8 x.payload.length ++ bytesOf 16 0 ++
    bytesOf 32 (shake256 digested).toNat

/-- The image of a list of sections: each with its header, and the end section, whose digest covers the headers. -/
def imageOfSections (xs : List Section) : List Byte :=
  let headers := xs.map fun x => x.header x.payload
  let last : Section := { kind := 15, team := 0, payload := [] }
  ((xs.zip headers).flatMap fun p => p.2 ++ padTo 64 p.1.payload) ++ last.header headers.flatten

/-! ## The gang header (R304) -/

/-- The family's BCE channel. -/
def State.bceOf (s : State) (family : Nat) : Option Chan := s.chanOf? family .bce

/-- A role of the header. -/
def Role.headerBytes (r : Role) : List Byte :=
  bytesOf 2 r.teams ++ bytesOf 2 r.lanes ++ bytesOf 1 r.vregs ++ bytesOf 1 r.sregs ++ bytesOf 2 0

/-- The payload of the gang header; the ring's address in HBM is a free value (log 5). -/
def State.gangHeader (s : State) (g : Gang) (f : Family) (live : List Team) (ring : Word) : List Byte :=
  let gr := g.group.bind s.group?
  let member := (gr.bind fun (gr : Group) => indexOf? (fun u => u == g.uid) gr.members).getD 0
  let chan := s.bceOf f.uid
  bytesOf 8 (g.logical.toNat + g.tenant.toNat * 2 ^ 32 + g.level.toNat * 2 ^ 40 + (if g.checked then 2 ^ 42 else 0)) ++
    bytesOf 8 f.logical.toNat ++ bytesOf 8 f.partSize ++
    bytesOf 8 (f.accUnits + live.length * 2 ^ 8 + g.spawnWidth * 2 ^ 16 + g.nest * 2 ^ 32) ++ bytesOf 8 ring.toNat ++
    bytesOf 8 (g.barGen.toNat + ((gr.map fun (gr : Group) => gr.gen.toNat).getD 0) * 2 ^ 32) ++
    bytesOf 8 (member + ((gr.map fun (gr : Group) => gr.total).getD 0) * 2 ^ 16) ++
    bytesOf 8 ((f.weight.map fun w => w.addr.toNat).getD 0) ++
    bytesOf 8 ((chan.map fun (c : Chan) => c.issued.toNat).getD 0) ++
    bytesOf 8 ((chan.map fun (c : Chan) => c.done.toNat).getD 0) ++
    ((List.range 4).flatMap fun i => (g.roles.getD i { teams := 0, lanes := 1, vregs := 8, sregs := 8 }).headerBytes) ++
    bytesOf 8 g.ttbase.toNat ++ bytesOf 8 0

/-! ## The team record (R65, R305) -/

/-- SHAPE (R51). -/
def Shape.code : Shape → Nat
  | .uniform _ => 0
  | .affine _ _ => 1
  | .general _ => 2

/-- The descriptor byte of a register (R65). -/
def VReg.descriptor (r : VReg) : Nat :=
  let p := match r.shape with
    | .general _ => 0
    | _ => if r.poison == 0 then 0 else 2 ^ 7
  p + r.shape.code * 2 ^ 5 + r.tag.code.toNat

/-- The bytes a register takes in the variable part (R65). -/
def VReg.saved (r : VReg) (lanes : Nat) : List Byte :=
  let b := (lanes + 31) / 32
  match r.shape with
  | .uniform u => bytesOf 8 u.toNat
  | .affine x d => bytesOf 4 x.toNat ++ bytesOf 4 d.toNat
  | .general _ =>
    ((List.range (32 * b)).flatMap fun l => bytesOf 4 (if l < lanes then (r.read l).toNat else 0)) ++
      bytesOf (4 * b) (r.poison &&& maskBelow lanes).toNat

/-- The value bytes of an operand-file register (R65). -/
def VReg.operandBytes (r : VReg) : List Byte :=
  match r.shape with
  | .affine x d => bytesOf 4 x.toNat ++ bytesOf 4 d.toNat
  | _ => bytesOf 8 (r.read 0).toNat

/-- The register section (R65). -/
def Team.registerSection (t : Team) : List Byte :=
  let regs := t.v.toList.zipIdx 0
  padTo 8 (bytesOf 8 (t.vcnt * 2 ^ 16 + (t.size - 1)) ++
    (regs.flatMap fun p => bytesOf 1 (if p.2 < t.vcnt then p.1.descriptor else 3 * 2 ^ 5 + 12)) ++
    (t.o.toList.flatMap fun r => bytesOf 1 r.descriptor) ++ (t.o.toList.flatMap VReg.operandBytes) ++
    ((regs.filter fun p => decide (p.2 < t.vcnt)).flatMap fun p => p.1.saved t.size))

/-- The state of an arm in a stack entry: 0 running, 1 blocked, 2 arrived. -/
def Arm.code (a : Arm) : Nat := if a.isArrived then 2 else if a.wait.isSome then 1 else 0

/-- A stack entry (R305). -/
def Entry.bytes (e : Entry) : List Byte :=
  bytesOf 8 e.join.toNat ++ bytesOf 8 e.arm0.pc.toNat ++ bytesOf 8 e.arm1.pc.toNat ++
    bytesOf 8 (e.arm0.quantum % 2 ^ 16 + e.arm1.quantum % 2 ^ 16 * 2 ^ 16 + e.arm0.code * 2 ^ 32 + e.arm1.code * 2 ^ 34 +
      (if e.table then 2 ^ 36 else 0)) ++
    bytesOf 32 0 ++ bytesOf 128 e.arm0.mask.toNat ++ bytesOf 128 e.arm1.mask.toNat

/-- Whether a team has arrived at a barrier of its gang or of its group, and at which generation. -/
def Team.arrival (t : Team) : Bool × BitVec 32 := if t.groupArrived then (true, t.groupGen) else (t.arrived, t.arrGen)

/-- A team record's payload (R305). The open batch's number is the one that its `cbseal` will give it (R112). -/
def Team.record (t : Team) : List Byte :=
  let bit (b : Bool) (k : Nat) : Nat := if b then 2 ^ k else 0
  bytesOf 16 t.key.toNat ++ bytesOf 8 t.arm.pc.toNat ++ bytesOf 8 t.retired.toNat ++
    bytesOf 8 (bit t.spawned 0 + bit (t.status == .swappedOut) 1 + bit t.arrival.1 2 + t.stack.length * 2 ^ 8 +
      bit (match t.stack with
        | [] => false
        | e :: _ => e.sel) 16 + t.slot.toNat * 2 ^ 17) ++
    bytesOf 8 t.arrival.2.toNat ++ bytesOf 8 t.tstat.toNat ++ bytesOf 8 t.dbgctl.toNat ++
    (t.s.toList.flatMap fun w => bytesOf 8 w.toNat) ++ bytesOf 128 t.act.toNat ++
    (t.m.toList.flatMap fun m => bytesOf 128 m.toNat) ++
    ([t.pathq, t.xfill, t.mxs, t.logt, t.dm, if t.dmSide then 1 else 0,
      BitVec.ofNat 64 ((t.sealed + 1).toNat + t.sealed.toNat * 2 ^ 32), t.base].flatMap fun w => bytesOf 8 w.toNat) ++
    (t.om.toList.flatMap fun w => bytesOf 8 w.toNat) ++ (t.nf.toList.flatMap fun w => bytesOf 4 w.toNat) ++
    bytesOf 128 t.vacant.toNat ++ (t.stack.reverse.flatMap Entry.bytes) ++ t.registerSection

/-! ## The other sections (R306, R307) -/

/-- The partition: its bytes, then its full/empty bits. -/
def Family.partitionBytes (f : Family) : List Byte :=
  Memory.readBytes f.savedBytes 0 f.partSize ++
    padTo 8 (bytesOf ((f.partSize / 8 + 7) / 8) (sumOf (f.savedFull.map fun w => 2 ^ w)))

/-- The tile entries of a gang, in ascending index. -/
def Family.tileBytes (f : Family) (gang : Nat) : List Byte :=
  (sortBy (fun a b : Nat × BitVec 8 × Tile => decide (a.2.1.toNat < b.2.1.toNat))
    (f.savedTiles.filter fun p => p.1 == gang)).flatMap fun p => bytesOf 8 p.2.1.toNat ++ bytesOf 8 p.2.2.bits.toNat

/-- The state code of a handle. -/
def HandleState.code : HandleState → Nat
  | .free => 0
  | .held => 1
  | .draining => 2

/-- AF of a handle. -/
def accCodeOf : AccFmt → Nat := fun af => (accFmt af).code.toNat

/-- A stream register. -/
def Stream.bytes (q : Stream) : List Byte :=
  bytesOf 8 (q.pairs.length + (if q.s32 then 2 ^ 13 else 0) + (if q.ovf then 2 ^ 14 else 0)) ++
    (q.pairs.flatMap fun p => bytesOf 4 p.1.toNat ++ bytesOf 4 p.2.toNat)

/-- The accumulator section. -/
def Family.accumulatorBytes (f : Family) (teams : List Team) : List Byte :=
  (f.handles.flatMap fun h =>
    bytesOf 8 (h.state.code + h.rows * 2 ^ 2 + h.cols * 2 ^ 18 + accCodeOf h.af * 2 ^ 34) ++ bytesOf 8 0) ++
    ((f.handles.filter fun h => h.state != .free).flatMap fun h =>
      h.elems.flatMap fun w => bytesOf (accBytes h.af) w.toNat) ++
    (teams.flatMap fun t => t.q.toList.flatMap Stream.bytes)

/-- A queued child. -/
def Child.bytes (c : Child) : List Byte :=
  bytesOf 8 c.entry.toNat ++ bytesOf 16 c.key.toNat ++
    ((List.range 4).flatMap fun j => bytesOf 4 (c.payload.getD j 0).toNat) ++
    bytesOf 8 (c.poison.toNat + c.counter.toNat * 2 ^ 4)

/-- The spawn section: the children of a gang in gather order, those of groups that have left and wait for room first,
then the ring's head and tail. -/
def Family.spawnBytes (f : Family) (g : Gang) : List Byte :=
  ((g.released.flatten ++ f.savedChildren.filter fun c => c.gang == g.uid).flatMap Child.bytes) ++ bytesOf 8 0 ++ bytesOf 8 g.ring.length

/-- References to spilled entries: runs of consecutive LSNs, of at most 65,535 entries each. -/
def spillRuns : List (BitVec 48) → List (BitVec 48 × Nat)
  | [] => []
  | l :: ls =>
    match spillRuns ls with
    | (m, n) :: rest => if m == l + 1 && decide (n < 65535) then (l, n + 1) :: rest else (l, 1) :: (m, n) :: rest
    | [] => [(l, 1)]

/-- A log segment (R307). -/
def logSegment (core : Nat) (es abuf : List LogEntry) : List Byte :=
  let ring := es.filter fun e => !e.spilled
  let runs := spillRuns ((es.filter fun e => e.spilled).map fun e => e.lsn)
  bytesOf 8 ring.length ++ bytesOf 8 runs.length ++ bytesOf 8 abuf.length ++ ring.flatMap LogEntry.encode ++
    (runs.flatMap fun r => bytesOf 8 core ++ bytesOf 8 (r.1.toNat + r.2 * 2 ^ 48)) ++
    (abuf.flatMap fun e => e.encode ++ bytesOf 16 e.key.toNat ++ bytesOf 8 e.order.toNat ++ bytesOf 8 0)

/-- The status byte of a run number in the status block: completed and kept, not completed, or not kept. -/
def Chan.statusByte (c : Chan) (n : Int) : Nat :=
  if n < 1 then 0xFF
  else
    let w := BitVec.ofInt 64 n
    if c.done.toNat < n.toNat then
      match c.run? w with
      | some r => (r.status.map fun (b : BitVec 8) => b.toNat).getD 0xFE
      | none => 0xFE
    else ((c.statuses.find? fun p => p.1 == w).map fun p => p.2.toNat).getD 0xFF

/-- The COPY or DRAIN form of a single command (R287, R289); 0 for a chain. -/
def RunKind.form : RunKind → List Byte
  | .chain => bytesOf 64 0
  | .copy dst src w _ =>
    let tile := (w.toNat / 2 ^ 48 % 2 ^ 8) * (if w.getLsbD 61 then 1 else 0)
    bytesOf 8 0 ++ bytesOf 8 1 ++ bytesOf 8 dst.toNat ++ bytesOf 8 src.toNat ++
      bytesOf 8 ((w.toNat / 2 ^ 62) * 2 ^ 62 + (if w.getLsbD 61 then 2 ^ 61 else 0) + tile * 2 ^ 48 + w.toNat % 2 ^ 32) ++
      bytesOf 24 0
  | .drain add tile index addr _ =>
    bytesOf 8 0 ++ bytesOf 8 4 ++ bytesOf 8 addr.toNat ++
      bytesOf 8 ((if tile then index * 2 ^ 8 + 2 ^ 6 else index) + (if add then 2 ^ 7 else 0)) ++ bytesOf 32 0

/-- A saved run. -/
def Run.saved (r : Run) : List Byte :=
  bytesOf 8 r.num.toNat ++ bytesOf 8 r.next.toNat ++
    bytesOf 8 ((if r.kind == .chain then 0 else 1) + (if r.started then 2 else 0) + r.loops.length * 4) ++ bytesOf 8 0 ++
    ((List.range 4).flatMap fun i =>
      match r.loops.reverse[i]? with
      | some l => bytesOf 8 l.1.toNat ++ bytesOf 8 l.2.1
      | none => bytesOf 16 0) ++
    r.kind.form

/-- The engine section of a BCE channel. -/
def Chan.engineBytes (c : Chan) : List Byte :=
  ((List.range 128).flatMap fun (i : Nat) => bytesOf 1 (c.statusByte ((c.issued.toNat : Int) - 127 + (i : Int)))) ++
    (c.open.flatMap Run.saved)

/-! ## The image of a gang -/

/-- Whether a gang's image holds its family's sections: the gang whose resources they are, or the family's first
(log 16). -/
def State.holdsFamily (s : State) (g : Gang) (f : Family) : Bool :=
  let gs := s.gangsOf f.uid
  match gs.find? fun h => h.logical == f.logical with
  | some h => h.uid == g.uid
  | none => (gs.head?.map fun (h : Gang) => h.uid) == some g.uid

/-- The sections of a gang's image, of the records its family holds while it is saved. -/
def State.sectionsOf (s : State) (g : Gang) (f : Family) (ring : Word) : List Section :=
  let own := s.holdsFamily g f
  let only (b : Bool) (x : Section) : List Section := if b then [x] else []
  let byIndex (ts : List Team) : List Team := sortBy (fun a b : Team => decide (a.index.toNat < b.index.toNat)) ts
  let famTeams := (s.gangsOf f.uid).flatMap fun h => byIndex ((s.teamsOf h.uid).filter fun t => !t.gone)
  let live := byIndex ((s.teamsOf g.uid).filter fun t => !t.gone)
  [{ kind := 0, team := 0, payload := s.gangHeader g f live ring }] ++
    (live.map fun t => { kind := 1, team := t.index.toNat, payload := t.record }) ++
    only own { kind := 2, team := 0, payload := f.partitionBytes } ++
    [{ kind := 3, team := 0, payload := f.tileBytes g.uid }] ++
    only own { kind := 4, team := 0, payload := f.accumulatorBytes famTeams } ++
    [{ kind := 5, team := 0, payload := f.spawnBytes g }] ++
    (live.map fun t =>
      let (es, ab) := ((f.savedLogs.find? fun p => p.1 == t.id).map Prod.snd).getD ([], [])
      { kind := 6, team := t.index.toNat, payload := logSegment f.core es ab }) ++
    (match s.bceOf f.uid with
      | some c => only own { kind := 7, team := 0, payload := c.engineBytes }
      | none => [])

/-! ## Checking an image (R308, R404) -/

/-- A section as it stands in an image: offset, KIND, TEAM, and whether its digest holds. -/
structure Checked where
  offset : Nat
  kind : Nat
  team : Nat
  sound : Bool
  deriving DecidableEq, Repr

/-- Walks the sections of an image; the end section's digest covers the headers before it. -/
def checkImage : Nat → Nat → List Byte → List Byte → List Checked
  | 0, _, _, _ => []
  | fuel + 1, off, headers, bs =>
    if bs.length < 64 then []
    else
      let n := fieldOf bs 8 8
      let kind := fieldOf bs 0 1
      let digested := if kind = 15 then headers else (bs.drop 64).take n
      let x : Checked :=
        { offset := off, kind := kind, team := fieldOf bs 1 1
          sound := fieldOf bs 32 32 == (shake256 digested).toNat }
      if kind = 15 then [x]
      else x :: checkImage fuel (off + 64 + roundUp n 64) (headers ++ bs.take 64) (bs.drop (64 + roundUp n 64))

/-- The damaged sections of an image: those whose digest fails, and those at the positions that ECC found damaged. -/
def damagedIn (image : List Byte) (ecc : List Nat) : List Checked :=
  ((checkImage (image.length / 64 + 1) 0 [] image).zipIdx 0).filterMap fun p =>
    if !p.1.sound || ecc.contains p.2 then some p.1 else none

end Sys2Proof.Machine
end

