-- ==== Sys2Proof/Machine/LatchRun.lean ====
section
/-!
DEFINITION. What the latch run of R58 asks of an instruction: the latches it reads, whether it places a result in
x0, and whether it ends a run or a turn (03_registers.md R58; 16_scheduling.md R321).
-/

namespace Sys2Proof

/-- The operand an SS field selects (R152). -/
def shortSrc (ss : BitVec 5) : VSrc :=
  if ss.toNat < 16 then .v (ss.setWidth 6)
  else if ss.toNat < 24 then .o (ss.extractLsb' 0 3)
  else if ss.toNat < 28 then .x (ss.extractLsb' 0 2)
  else
    match ss.toNat with
    | 28 => .imm 16
    | 29 => .imm 17
    | 30 => .imm 15
    | _ => .imm 18

/-- The vector-class operands of an instruction. -/
def Instr.vsources : Instr → List VSrc
  | .movShort ss _ => [shortSrc ss]
  | .addF32Short ss _ => [shortSrc ss]
  | .subF32Short ss _ => [shortSrc ss]
  | .mulF32Short ss _ => [shortSrc ss]
  | .minF32Short ss _ => [shortSrc ss]
  | .maxF32Short ss _ => [shortSrc ss]
  | .addS32Short ss _ => [shortSrc ss]
  | .subS32Short ss _ => [shortSrc ss]
  | .mulS32Short ss _ => [shortSrc ss]
  | .addN32Short ss _ => [shortSrc ss]
  | .subN32Short ss _ => [shortSrc ss]
  | .andB32Short ss _ => [shortSrc ss]
  | .orB32Short ss _ => [shortSrc ss]
  | .xorB32Short ss _ => [shortSrc ss]
  | .shlN32Short ss _ => [shortSrc ss]
  | .shrN32Short ss _ => [shortSrc ss]
  | .addF32 vb va _ _ _ => [vb, va]
  | .subF32 vb va _ _ _ => [vb, va]
  | .mulF32 vb va _ _ _ => [vb, va]
  | .fmaF32 vb va _ _ _ => [vb, va]
  | .addF64 vb va _ _ _ => [vb, va]
  | .subF64 vb va _ _ _ => [vb, va]
  | .mulF64 vb va _ _ _ => [vb, va]
  | .fmaF64 vb va _ _ _ => [vb, va]
  | .addF16 vb va _ _ _ => [vb, va]
  | .subF16 vb va _ _ _ => [vb, va]
  | .mulF16 vb va _ _ _ => [vb, va]
  | .fmaF16 vb va _ _ _ => [vb, va]
  | .addBf16 vb va _ _ _ => [vb, va]
  | .subBf16 vb va _ _ _ => [vb, va]
  | .mulBf16 vb va _ _ _ => [vb, va]
  | .fmaBf16 vb va _ _ _ => [vb, va]
  | .div vb va _ _ _ _ => [vb, va]
  | .fmin vb va _ _ _ => [vb, va]
  | .fmax vb va _ _ _ => [vb, va]
  | .copysign vb va _ _ _ => [vb, va]
  | .sqrt va _ _ _ _ => [va]
  | .rcp va _ _ _ _ => [va]
  | .rsqrt va _ _ _ _ => [va]
  | .exp2 va _ _ _ _ => [va]
  | .log2 va _ _ _ _ => [va]
  | .sin va _ _ _ _ => [va]
  | .cos va _ _ _ _ => [va]
  | .tanh va _ _ _ _ => [va]
  | .rint va _ _ _ _ => [va]
  | .fneg va _ _ _ => [va]
  | .fabs va _ _ _ => [va]
  | .fclass va _ _ _ => [va]
  | .intAdd vb va _ _ _ => [vb, va]
  | .intSub vb va _ _ _ => [vb, va]
  | .intMul vb va _ _ _ => [vb, va]
  | .intMulh vb va _ _ _ => [vb, va]
  | .intMin vb va _ _ _ => [vb, va]
  | .intMax vb va _ _ _ => [vb, va]
  | .intAdds vb va _ _ _ => [vb, va]
  | .intSubs vb va _ _ _ => [vb, va]
  | .intShl vb va _ _ _ => [vb, va]
  | .intShr vb va _ _ _ => [vb, va]
  | .intAbs va _ _ _ => [va]
  | .intNeg va _ _ _ => [va]
  | .intMad vb va _ _ _ => [vb, va]
  | .intDiv vb va _ _ _ => [vb, va]
  | .intRem vb va _ _ _ => [vb, va]
  | .bitAnd vb va _ _ => [vb, va]
  | .bitOr vb va _ _ => [vb, va]
  | .bitXor vb va _ _ => [vb, va]
  | .bitAndn vb va _ _ => [vb, va]
  | .bitNot va _ _ => [va]
  | .bitPopc va _ _ => [va]
  | .bitClz va _ _ => [va]
  | .bitCtz va _ _ => [va]
  | .bitRotl vb va _ _ => [vb, va]
  | .bitBrev va _ _ => [va]
  | .cmp vb va _ _ _ => [vb, va]
  | .cvt _ _ va _ _ _ => [va]
  | .vaddi _ va _ _ => [va]
  | .shli _ va _ _ => [va]
  | .shriN _ va _ _ => [va]
  | .shriS _ va _ _ => [va]
  | .rotli _ va _ _ => [va]
  | .xperm vb va _ _ => [vb, va]
  | .shfl vb va _ _ => [vb, va]
  | .shflXor _ va _ _ => [va]
  | .shflUp _ va _ _ => [va]
  | .shflDn _ va _ _ => [va]
  | .voteAny _ va _ _ => [va]
  | .voteAll _ va _ _ => [va]
  | .voteEq _ va _ _ => [va]
  | .ballot _ va _ _ => [va]
  | .csamp _ va _ _ => [va]
  | .rngN32 vc _ _ _ => [vc]
  | .mov va _ _ => [va]
  | .movtag _ va _ _ => [va]
  | .bcast _ va _ _ => [va]
  | .sel vb va _ _ => [vb, va]
  | .vmoviGet _ va _ _ => [va]
  | .vmoviPut vb va => [vb, va]
  | .omov va _ _ => [va]
  | .dotF32Bf16 vb va _ _ => [vb, va]
  | .dotF32F16 vb va _ _ => [vb, va]
  | .dotS32S8 vb va _ _ => [vb, va]
  | .dotF32Nf vb va _ _ => [vb, va]
  | .brtab va => [va]
  | .ld _ ix _ _ _ => [ix]
  | .st _ ix _ _ _ => [ix]
  | .sld _ ix _ _ _ => [ix]
  | .sst _ ix _ _ _ => [ix]
  | .redAdd _ ix _ _ => [ix]
  | .redMin _ ix _ _ => [ix]
  | .redMax _ ix _ _ => [ix]
  | .redAnd _ ix _ _ => [ix]
  | .redOr _ ix _ _ => [ix]
  | .redXor _ ix _ _ => [ix]
  | .atomAdd _ ix _ _ => [ix]
  | .atomMin _ ix _ _ => [ix]
  | .atomMax _ ix _ _ => [ix]
  | .atomAnd _ ix _ _ => [ix]
  | .atomOr _ ix _ _ => [ix]
  | .atomXor _ ix _ _ => [ix]
  | .atomXchg _ ix _ _ => [ix]
  | .atomCas _ ix _ _ => [ix]
  | .ldfe _ ix _ _ => [ix]
  | .stfe _ ix _ _ => [ix]
  | .ldf _ ix _ _ => [ix]
  | _ => []

/-- The latches an instruction reads. -/
def Instr.latchReads (i : Instr) : List Nat :=
  i.vsources.filterMap fun a =>
    match a with
    | .x r => some r.toNat
    | _ => none

/-- Whether an instruction has a vector result, which goes to x0 (R58). -/
def Instr.pushes : Instr → Bool
  | .movShort _ _ => true
  | .addF32Short _ _ => true
  | .subF32Short _ _ => true
  | .mulF32Short _ _ => true
  | .minF32Short _ _ => true
  | .maxF32Short _ _ => true
  | .addS32Short _ _ => true
  | .subS32Short _ _ => true
  | .mulS32Short _ _ => true
  | .addN32Short _ _ => true
  | .subN32Short _ _ => true
  | .andB32Short _ _ => true
  | .orB32Short _ _ => true
  | .xorB32Short _ _ => true
  | .shlN32Short _ _ => true
  | .shrN32Short _ _ => true
  | .addF32 _ _ _ _ _ => true
  | .subF32 _ _ _ _ _ => true
  | .mulF32 _ _ _ _ _ => true
  | .fmaF32 _ _ _ _ _ => true
  | .addF64 _ _ _ _ _ => true
  | .subF64 _ _ _ _ _ => true
  | .mulF64 _ _ _ _ _ => true
  | .fmaF64 _ _ _ _ _ => true
  | .addF16 _ _ _ _ _ => true
  | .subF16 _ _ _ _ _ => true
  | .mulF16 _ _ _ _ _ => true
  | .fmaF16 _ _ _ _ _ => true
  | .addBf16 _ _ _ _ _ => true
  | .subBf16 _ _ _ _ _ => true
  | .mulBf16 _ _ _ _ _ => true
  | .fmaBf16 _ _ _ _ _ => true
  | .div _ _ _ _ _ _ => true
  | .fmin _ _ _ _ _ => true
  | .fmax _ _ _ _ _ => true
  | .copysign _ _ _ _ _ => true
  | .sqrt _ _ _ _ _ => true
  | .rcp _ _ _ _ _ => true
  | .rsqrt _ _ _ _ _ => true
  | .exp2 _ _ _ _ _ => true
  | .log2 _ _ _ _ _ => true
  | .sin _ _ _ _ _ => true
  | .cos _ _ _ _ _ => true
  | .tanh _ _ _ _ _ => true
  | .rint _ _ _ _ _ => true
  | .fneg _ _ _ _ => true
  | .fabs _ _ _ _ => true
  | .fclass _ _ _ _ => true
  | .intAdd _ _ _ _ _ => true
  | .intSub _ _ _ _ _ => true
  | .intMul _ _ _ _ _ => true
  | .intMulh _ _ _ _ _ => true
  | .intMin _ _ _ _ _ => true
  | .intMax _ _ _ _ _ => true
  | .intAdds _ _ _ _ _ => true
  | .intSubs _ _ _ _ _ => true
  | .intShl _ _ _ _ _ => true
  | .intShr _ _ _ _ _ => true
  | .intAbs _ _ _ _ => true
  | .intNeg _ _ _ _ => true
  | .intMad _ _ _ _ _ => true
  | .intDiv _ _ _ _ _ => true
  | .intRem _ _ _ _ _ => true
  | .bitAnd _ _ _ _ => true
  | .bitOr _ _ _ _ => true
  | .bitXor _ _ _ _ => true
  | .bitAndn _ _ _ _ => true
  | .bitNot _ _ _ => true
  | .bitPopc _ _ _ => true
  | .bitClz _ _ _ => true
  | .bitCtz _ _ _ => true
  | .bitRotl _ _ _ _ => true
  | .bitBrev _ _ _ => true
  | .cvt _ _ _ _ _ _ => true
  | .vaddi _ _ _ _ => true
  | .shli _ _ _ _ => true
  | .shriN _ _ _ _ => true
  | .shriS _ _ _ _ => true
  | .rotli _ _ _ _ => true
  | .xperm _ _ _ _ => true
  | .shfl _ _ _ _ => true
  | .shflXor _ _ _ _ => true
  | .shflUp _ _ _ _ => true
  | .shflDn _ _ _ _ => true
  | .voteAny _ _ _ _ => true
  | .voteAll _ _ _ _ => true
  | .voteEq _ _ _ _ => true
  | .ballot _ _ _ _ => true
  | .csamp _ _ _ _ => true
  | .rngN32 _ _ _ _ => true
  | .mov _ _ _ => true
  | .movtag _ _ _ _ => true
  | .lane _ _ => true
  | .bcast _ _ _ _ => true
  | .sel _ _ _ _ => true
  | .vmoviGet _ _ _ _ => true
  | .affine _ _ _ _ => true
  | .omov _ _ _ => true
  | .dotF32Bf16 _ _ _ _ => true
  | .dotF32F16 _ _ _ _ => true
  | .dotS32S8 _ _ _ _ => true
  | .dotF32Nf _ _ _ _ => true
  | .ld _ _ _ _ _ => true
  | .sld _ _ _ _ _ => true
  | .atomAdd _ _ _ _ => true
  | .atomMin _ _ _ _ => true
  | .atomMax _ _ _ _ => true
  | .atomAnd _ _ _ _ => true
  | .atomOr _ _ _ _ => true
  | .atomXor _ _ _ _ => true
  | .atomXchg _ _ _ _ => true
  | .atomCas _ _ _ _ => true
  | .ldfe _ _ _ _ => true
  | .ldf _ _ _ _ => true
  | .mmo _ _ _ _ _ => true
  | .mmoSp _ _ _ _ _ => true
  | .sqext _ _ _ => true
  | .cquery _ _ _ => true
  | .rdid k _ => decide (8 ≤ k.toNat) && decide (k.toNat < 12)
  | _ => false

/-- Branches (R167 to R175). -/
def Instr.isBranch : Instr → Bool
  | .bz _ _ | .bnz _ _ | .bltz _ _ | .bgez _ _ | .bdiv _ _ _ | .jmp _ | .call _ | .ret | .jr _ | .callr _
  | .brtab _ => true
  | _ => false

/-- Whether an instruction stands in no latch run: a branch, `rcv`, `pause`, a blocking or a system instruction
(R38, R58). -/
def Instr.endsRun (i : Instr) : Bool :=
  i.isBranch ||
  match i with
  | .rcv | .pause | .exit => true
  | .wcnt _ _ | .ldfe _ _ _ _ | .stfe _ _ _ _ | .ldf _ _ _ _ | .acq _ | .acqset _ _ | .fence _ | .bar _ _ | .gbar _ _
  | .spawn _ _ _ _ | .jwait _ | .cbwait _ | .ewait _ _ _ | .wbld _ _ | .cscene _ _ | .cstep _ _ | .vgrow _ => true
  | .crr _ _ _ | .crw _ _ _ | .crs _ _ _ | .crc _ _ _ | .rte | .trap _ | .brk _ | .tcinv _ _ | .tcinva _ _ => true
  | _ => false

end Sys2Proof
end

