-- ==== Sys2Proof/Machine/Preempt.lean ====
section
/-!
DEFINITION. Pre-emption of a gang with what is scheduled with it, and its restore; the log-full pre-emption; swap-out
of a blocked grower and its restore (03_registers.md R63; 05_memory_hierarchy.md R101, R111; 15_system_traps.md R302
to R309; 23_faults_execution.md R379; 24_faults_memory.md R386, R387; 25_faults_engines_scheduling.md R404).
-/

namespace Sys2Proof.Machine

/-! ## What stops with a gang (R28, R30, R32) -/

/-- The families that are pre-empted and restored with a gang: its own, and those of the members of its group. -/
def State.companyOf (s : State) (gang : Nat) : List Nat :=
  match s.gang? gang with
  | none => []
  | some g =>
    let groups := (s.gangsOf g.family).filterMap fun h => h.group
    ((s.gangs.filter fun h => h.family == g.family || h.group.any fun r => groups.contains r).map fun h =>
      h.family).eraseDups

/-- The teams of a family. -/
def State.teamsIn (s : State) (family : Nat) : List Team :=
  s.teams.filter fun t => (s.gang? t.gang).any fun g => g.family == family

/-! ## Pre-emption points (R302) -/

/-- Whether one of the next n instructions from an address, in the run in progress, reads a latch that has already
been written; `made` results have been placed since (R38, R58). -/
def State.readsAhead (s : State) (t : Team) : Nat → Word → Nat → Bool
  | 0, _, _ => false
  | n + 1, pc, made =>
    match M.fetchAt t pc s with
    | .error _ _ => false
    | .ok (w, long) _ =>
      let next := pc + (if long then 4 else 2)
      match decodeFetched (w.extractLsb' 0 16) (w.extractLsb' 16 16) with
      | .error _ => false
      | .ok (.tcinv _ _ _) => false
      | .ok (.hint _ _) => s.readsAhead t n next made
      | .ok (.instr i) =>
        if i.endsRun then false
        else if i.latchReads.any fun k => decide (made ≤ k) && decide (k - made < (s.core t.core).latches.length) then true
        else s.readsAhead t n next (made + if i.pushes then 1 else 0)

/-- Whether the turn stands inside a latch run: a later instruction of the run reads a latch already written (R38, R58;
log 35). -/
def State.runOpen (s : State) (t : Team) : Bool :=
  s.cur == some t.id && t.run != 0 && !(s.core t.core).latches.isEmpty && s.readsAhead t (8 - t.run) t.arm.pc 0

/-- Whether a team stands at a pre-emption point (R302, R380). -/
def State.atPoint (s : State) (t : Team) : Bool :=
  t.gone || (t.ld == 0 && t.ap == 0 && t.en == 0 && t.xl == 0 && !s.runOpen t &&
    match t.status with
    | .handler | .debugStop | .waitingBank _ => false
    | _ => true)

/-- Whether nothing but its teams keeps a family from being pre-empted: matrix instructions, tiles, BCE entries
(R302). -/
def State.quiet (s : State) (f : Family) : Bool :=
  let c := s.core f.core
  let slots := (s.gangsOf f.uid).map fun g => g.gslot
  !(c.passes.any fun p => p.family == f.uid) &&
    !(c.tiles.any fun (p : BitVec 8 × Tile) =>
      slots.contains p.2.gslot && (p.2.state == .filling || p.2.state == .draining)) &&
    !(s.chans.any fun c => c.family == f.uid && c.engine == .bce && c.open.any fun r => r.cur.isSome)

/-- Whether families can be pre-empted now. -/
def State.mayPreempt (s : State) (fams : List Nat) : Bool :=
  fams.all fun u =>
    (s.family? u).any (fun f => f.resident && s.quiet f) && (s.teamsIn u).all s.atPoint

/-! ## Saving (R302 to R307, R386) -/

/-- A team's record as it is saved: what a blocked instruction has done is given up but for a barrier arrival and the
children that a `spawn` has gathered, and the fault mask restarts empty (R302, log 17). -/
def Team.save (t : Team) (tick : Nat) : Team :=
  let clear (a : Arm) : Arm :=
    match a.prog with
    | .spawning _ _ _ | .command _ _ => a
    | .access _ => { a with prog := .none, wait := none }
    | _ => { a with prog := .none }
  { t.pauseTimers tick with
    path := clear t.path
    stack := t.stack.map fun (e : Entry) => { e with arm0 := clear e.arm0, arm1 := clear e.arm1 }
    prefetched := [], run := 0, faultMask := 0, firstViolation := none, switchDue := t.switchDue }

/-- Takes a team's unpublished entries and buffered atomics off its core; its spilled entries stay in the spill log
until restore (R307). -/
def State.takeLogs (s : State) (t : Team) : (Nat × List LogEntry × List LogEntry) × State :=
  let c := s.core t.core
  let mine (e : LogEntry) : Bool := e.team == t.id && e.unpublished
  let es := c.log.filter mine
  ((t.id, es, c.abuf.filter fun e => e.team == t.id),
    s.putCore { c with
      log := c.log.filter fun e => !mine e, abuf := c.abuf.filter fun e => e.team != t.id
      heldSpill := c.heldSpill + (es.filter fun e => e.spilled).length })

/-- Takes the logs of several teams. -/
def State.takeAllLogs (s : State) : List Team → List (Nat × List LogEntry × List LogEntry) × State
  | [] => ([], s)
  | t :: ts =>
    let (l, s) := s.takeLogs t
    let (ls, s) := s.takeAllLogs ts
    (l :: ls, s)

/-- What a family keeps of its core while it is saved. -/
def State.savedFamily (s : State) (f : Family) (logs : List (Nat × List LogEntry × List LogEntry)) : Family :=
  let c := s.core f.core
  let gs := s.gangsOf f.uid
  let inside (a : Nat) : Bool := decide (f.partBase ≤ a) && decide (a < f.partBase + f.partSize)
  { f with
    resident := false, shadowCore := none
    savedBytes := (c.scratch.filter fun p => inside p.1).map fun p => (p.1 - f.partBase, p.2)
    savedFull := (c.full.filter fun w => inside (8 * w)).map fun w => w - f.partBase / 8
    savedTiles := c.tiles.filterMap fun (p : BitVec 8 × Tile) =>
      if p.2.state == .empty then none
      else (gs.find? fun g => g.gslot == p.2.gslot).map fun g => (g.uid, p.1, p.2)
    weight := c.weight.bind fun w => if w.family == f.uid then some w else none
    savedChildren := c.spawnq.filter fun k => gs.any fun g => g.uid == k.gang
    savedLogs := logs
    savedSeen := s.pubs.foldl (fun m p => if p.family == f.uid then max m (p.seq + 1) else m) c.seen }

/-- Whether a team of a core has the turn: no event of another team ends its latch run (R58). -/
def State.turnOn (s : State) (core : Nat) : Bool := s.cur.any fun u => (s.team? u).any fun t => t.core == core

/-- The core a family leaves. -/
def State.leaveCore (s : State) (f : Family) : State :=
  let gs := s.gangsOf f.uid
  s.modCore f.core fun c => { c with
    scratch := Memory.clear c.scratch f.partBase f.partSize
    full := c.full.filter fun w => decide (w < f.partBase / 8) || decide ((f.partBase + f.partSize) / 8 ≤ w)
    tiles := c.tiles.map fun (p : BitVec 8 × Tile) =>
      if gs.any fun g => g.gslot == p.2.gslot then (p.1, { p.2 with state := .empty }) else p
    weight := if c.weight.any fun w => w.family == f.uid then none else c.weight
    spawnq := c.spawnq.filter fun k => !gs.any fun g => g.uid == k.gang
    latches := if s.turnOn f.core then c.latches else [] }

/-- Writes the image of a saved gang (R303 to R307). -/
def State.writeImage (s : State) (gang : Nat) : State :=
  match s.gang? gang with
  | none => s
  | some g =>
    match s.family? g.family with
    | none => s
    | some f =>
      let (ring, s) := s.draw
      s.putGang { g with image := imageOfSections (s.sectionsOf g f ring) }

/-- Saves a family (R302 to R307). -/
def State.saveFamily (s : State) (family : Nat) : State :=
  match s.family? family with
  | none => s
  | some f =>
    let gs := (s.gangsOf family).map fun g => g.uid
    let live := (s.teamsIn family).filter fun t => !t.gone
    let s := (live.map fun (t : Team) => t.id).foldl State.recordPending s
    let s := gs.foldl (fun (s : State) u => s.reportMasks u true) s
    let (logs, s) := s.takeAllLogs live
    let s := { s with
      teams := s.teams.map fun (t : Team) => if live.any fun (u : Team) => u.id == t.id then t.save s.tick.toNat else t
      families := setWhere (fun h => h.uid == family) (s.savedFamily f logs) s.families
      chans := s.chans.map fun (c : Chan) =>
        if c.family == family && c.engine == EngineId.bce then
          { c with runs := c.runs.map fun (r : Run) => { r with cur := none } }
        else c
      cur := if s.cur.any fun u => live.any fun (t : Team) => t.id == u then none else s.cur }
    let s := s.leaveCore f
    let s := { s with gangs := s.gangs.map fun (g : Gang) =>
      if g.family == family then { g with core := none, saved := true } else g }
    (gs.foldl State.writeImage s).seatCore f.core

/-- Whether a group has members on other devices and has started. -/
def Group.spans (gr : Group) : Bool := gr.mdev && gr.startAt.isNone

/-- The other devices of a started group are told that its members here are pre-empted (R315). -/
def State.tellAway (s : State) (fams : List Nat) : State :=
  let mine (gr : Group) : Bool :=
    gr.spans && !gr.out && s.gangs.any fun g => fams.contains g.family && g.group == some gr.uid
  (s.groups.filter mine).foldl (fun (s : State) gr =>
    (s.putGroup { gr with out := true }).tellAll (.away gr.tag gr.tick)) s

/-- Pre-empts a gang with its company, if all stand at pre-emption points (R302). -/
def State.preempt (s : State) (gang : Nat) : State :=
  let fams := s.companyOf gang
  if !fams.isEmpty && s.mayPreempt fams then (fams.foldl State.saveFamily s).tellAway fams else s

/-! ## Restoring (R308) -/

/-- The count a running team of a core waits to grow to. -/
def Team.growing (t : Team) : Option Nat :=
  match t.status, t.arm.wait with
  | .running, some (.grow n) => some n
  | _, _ => none

/-- The vector registers a team is restored with: the grown count, if it was swapped out (R63). -/
def Team.restoredCount (t : Team) : Nat :=
  match t.status, t.arm.wait with
  | .swappedOut, some (.grow n) => max n t.vcnt
  | _, _ => t.vcnt

/-- What a saved family needs (R34, R63). -/
def State.needOf (s : State) (f : Family) : Need :=
  let ts := (s.teamsIn f.uid).filter fun t => !t.gone
  { rf := sumOf (ts.map fun t => f.chargeOf t t.restoredCount) + f.nest * f.reserveCharge
    slots := (ts.filter fun t => t.reserve.isNone).length + f.nest, part := f.partSize, acc := f.accUnits, gangs := (s.gangsOf f.uid).length }

/-- What a core must have free for a saved family beyond its need: its tile indices, the weight buffer, and room in
the log (R101, R261, R308; log 34). -/
def State.takesSaved (s : State) (f : Family) (core : Nat) : Bool :=
  let c := s.core core
  f.savedTiles.all (fun p => (c.tile p.2.1).state == .empty) && (f.weight.isNone || c.weight.isNone) &&
    decide (sumOf (f.savedLogs.map fun l => l.2.1.length) ≤ s.appendRoom core)

/-- The cores for saved families and their shadows, all distinct. -/
def State.coresForSaved (s : State) : List Family → List Nat → Option (List (Family × Nat × Option Nat))
  | [], _ => some []
  | f :: fs, taken =>
    match s.chooseCoreIf (s.needOf f) fun c => !taken.contains c && s.takesSaved f c with
    | none => none
    | some core =>
      let shadow := if f.paired then s.chooseCore (s.needOf f) (core :: taken) else none
      if f.paired && shadow.isNone then none
      else (s.coresForSaved fs (shadow.toList ++ core :: taken)).map fun rest => (f, core, shadow) :: rest

/-- Slots for n teams of a core. -/
def State.slotsFor (s : State) (core n : Nat) : List (BitVec 6) :=
  let used := (s.teamsOn core).map fun t => t.slot.toNat
  (((List.range 64).filter fun k => !used.contains k).take n).map fun k => BitVec.ofNat 6 k

/-- A team on its new core (R308); a swapped-out one has its registers, and its `vgrow` retires (R63). -/
def Team.arriveOn (t : Team) (core : Nat) (slot : BitVec 6) (tick : Nat) : Team :=
  let t := { t with core := core, slot := slot }
  match t.status with
  | .parked _ _ _ => t
  | .swappedOut =>
    (({ t with status := .running, vcnt := t.restoredCount }.resumeTimers tick).moveTo (t.arm.pc + 4)).countRetired
      (!t.isSystem) tick
  | .running => t.resumeTimers tick
  | _ => t

/-- Seats the gangs of a family in free gang slots of a core. -/
def State.seatGangs (s : State) (core : Nat) : List Nat → State
  | [] => s
  | u :: us =>
    let slot := (s.gangSlotFor core).getD 0
    { s with gangs := s.gangs.map fun (g : Gang) =>
        if g.uid == u then { g with core := some core, gslot := slot, saved := false, image := [] } else g }.seatGangs core us

/-- Puts a saved family's bytes, tiles, weight buffer and children on its new core. -/
def State.placeSaved (s : State) (f : Family) (core base : Nat) : State :=
  let slotOf (u : Nat) : BitVec 5 := ((s.gang? u).map fun g => g.gslot).getD 0
  let s := (s.clearPartition core base f.partSize).modCore core fun c => { c with
    scratch := f.savedBytes.foldl (fun m p => Memory.write m (base + p.1) p.2) c.scratch
    full := f.savedFull.foldl (fun l w => insertNat (base / 8 + w) l) c.full
    spawnq := c.spawnq ++ f.savedChildren
    weight := match f.weight with
      | some w => some w
      | none => c.weight }
  let s := s.modCore core fun c => f.savedTiles.foldl (fun c p => c.setTile p.2.1 { p.2.2 with gslot := slotOf p.1 }) c
  ({ s with gangs := s.gangs.map fun (g : Gang) =>
      if g.family == f.uid then
        { g with ring := (f.savedChildren.filter fun (k : Child) => k.gang == g.uid).map fun (k : Child) => k.uid }
      else g }).refillQueue core

/-- Loads the weight buffer of a restored family again from the address its image records (R261, R308). A restore has no
instruction to trap: a load that faults, meets poison in the structure or breaks R260 leaves the buffer given up
(log 72). -/
def State.reloadWeight (s : State) (f : Family) (core : Nat) : State :=
  match f.weight, (s.teamsIn f.uid).head? with
  | some w, some t =>
    match M.weightImage t w.addr s with
    | .ok (bs, poisoned) s => s.modCore core fun c => { c with weight := some { w with bytes := bs, bad := poisoned } }
    | .error _ s => s.modCore core fun c => { c with weight := none }
  | _, _ => s

/-- Appends a saved segment to the new core's log, and the buffered atomics to its buffer, under the team's new slot
(R308 step 4). -/
def State.reappend (s : State) (t : Team) (oldCore : Nat) (es abuf : List LogEntry) : State :=
  let s := s.modCore oldCore fun c => { c with heldSpill := c.heldSpill - (es.filter fun e => e.spilled).length }
  let s := es.foldl (fun (s : State) e =>
    let lsn := (s.core t.core).lsn
    let s := s.appendEntry t.core { e with slot := t.slot, gang := t.gang }
    if e.eng then s else s.modTeam t.id fun u => { u with logt := lsn.setWidth 64 }) s
  s.modCore t.core fun c => { c with abuf := c.abuf ++ abuf.map fun (e : LogEntry) => { e with slot := t.slot } }

/-- Re-appends the segments of a family's teams, in index order; those of the teams in `dead` are discarded. -/
def State.reappendAll (s : State) (f : Family) (dead : List Nat) : State :=
  (sortBy (fun a b : Team => decide (a.index.toNat < b.index.toNat)) (s.teamsIn f.uid)).foldl (fun (s : State) t =>
    match f.savedLogs.find? fun l => l.1 == t.id with
    | none => s
    | some (_, es, ab) =>
      if dead.contains t.id then s.reappend t f.core (es.filter fun _ => false) [] else s.reappend t f.core es ab) s

/-- Answers a parked team's ack (R385): retry, kill, or trap. -/
def State.answerPark (s : State) (team : Nat) (act : BitVec 2) : State :=
  match s.team? team with
  | none => s
  | some t =>
    match t.status with
    | .parked i _ _ =>
      let s := (s.modTeam team fun u => { u with status := .running, acked := none }).resumeTeam team
      match act.toNat with
      | 0 => s
      | 1 => s.haltTeam team i false false
      | _ => s.takeTrap team i
    | _ => s

/-- Restores a saved family on a core (R308); the teams in `dead` lose their segments (R404). -/
def State.restoreFamily (s : State) (f : Family) (core : Nat) (shadow : Option Nat) (dead : List Nat) : State :=
  let base := (s.partFit core f.partSize).getD 0
  let sbase := (shadow.bind fun k => s.partFit k f.partSize).getD 0
  let live := (s.teamsIn f.uid).filter fun t => !t.gone
  let slots := s.slotsFor core live.length
  let tick := s.tick.toNat
  let place (t : Team) : Team :=
    match indexOf? (fun u : Team => u.id == t.id) live with
    | none => t
    | some k => { t.arriveOn core (slots.getD k 0) tick with committed := (s.core core).lsn }
  let s := { s with
    teams := s.teams.map place
    families := s.families.map fun (h : Family) =>
      if h.uid == f.uid then
        { h with core := core, resident := true, partBase := base, shadowCore := shadow, shadowBase := sbase
                 savedBytes := [], savedFull := [], savedTiles := [], weight := none, savedChildren := [], savedLogs := [] }
      else h
    chans := s.chans.map fun (c : Chan) =>
      if c.family == f.uid then
        { c with core := core, runs := c.runs.map fun (r : Run) =>
            match (live.zip slots).find? fun (p : Team × BitVec 6) => p.1.id == r.team with
            | some p => { r with slot := p.2 }
            | none => r }
      else c }
  let s := s.seatGangs core ((s.gangsOf f.uid).map fun (g : Gang) => g.uid)
  let s := (((s.placeSaved f core base).reloadWeight f core).reappendAll f dead).see core f.savedSeen
  let s := if live.any fun t => t.growing.isSome then
      s.modCore core fun c => { c with lastIssue := tick }
    else s
  let acks := live.filterMap fun t => t.acked.map fun a => (a.1, t.id, a.2)
  (sortBy (fun a b : Nat × Nat × BitVec 2 => decide (a.1 < b.1)) acks).foldl (fun (s : State) a =>
    s.answerPark a.2.1 a.2.2) s

/-! ## Damaged images (R404) -/

/-- A team that damage halts: the entry names the section's offset, and no key when the record itself is damaged. -/
def State.haltDamaged (s : State) (team : Nat) (code : BitVec 9) (offset : Nat) (keyless : Bool) : State :=
  match s.team? team with
  | none => s
  | some t =>
    if t.gone then s
    else
      let i := { t.trapInfo code (BitVec.ofNat 64 offset) t.active 0 false with arm := false, div := false }
      let e := s.teamEntry t 0x002 i.cause 0 i.eaddr t.active
      (s.haltTeam team i false false).postFault (s.tenantOf t) (if keyless then { e with key := 0 } else e)

/-- The teams of a gang that damaged sections halt, each with its code, offset and whether the entry has no key: every
team for a section of the gang, the named one for a record or segment. -/
def State.deadIn (s : State) (gang : Nat) (bad : List Checked) : List (Nat × BitVec 9 × Nat × Bool) :=
  let live := (s.teamsOf gang).filter fun t => !t.gone
  match bad.find? fun x => x.kind != 1 && x.kind != 6 && x.kind != 7 with
  | some x => live.map fun t => (t.id, 0x1B0, x.offset, false)
  | none =>
    live.filterMap fun t =>
      (bad.find? fun x => (x.kind == 1 || x.kind == 6) && x.team == t.index.toNat).map fun x =>
        (t.id, 0x1B1, x.offset, x.kind == 1)

/-- A damaged engine section: the saved runs complete with status 10, and no status is kept. -/
def State.loseRuns (s : State) (family : Nat) : State :=
  match s.bceOf family with
  | none => s
  | some c =>
    let s := c.open.foldl (fun (s : State) r => s.cancelRun c.id r) s
    match s.chan? c.id with
    | none => s
    | some c => s.putChan { c with statuses := [] }

/-! ## When a gang may be restored -/

/-- The queue a gang runs under is bound and not held, and the device is not stopped (R316, R317, R417). -/
def State.queueAllows (s : State) (g : Gang) : Bool :=
  !s.thermal.stopped &&
    match g.queue.bind s.queue? with
    | some q => q.slot.isSome && !q.held
    | none => true

/-- A gang may be resident: its queue allows it, and no device holds members of its group back (R32, R315). -/
def State.gangAllowed (s : State) (g : Gang) : Bool :=
  s.queueAllows g && (g.group.bind s.group?).all fun gr => gr.away == 0 && !gr.out

/-- The other devices' members of a group are pre-empted, or can be restored (R315). -/
def State.hearAway (s : State) (tag : BitVec 32) (tick : Word) (count : Nat → Nat) : State :=
  match s.groupNamed tag tick with
  | none => s
  | some gr => s.putGroup { gr with away := count gr.away }

/-- A group's members here can be restored again: the other devices are told (R315). -/
def groupBackEvent (group : Nat) : M Unit := do
  let s ← get
  match s.group? group with
  | none => M.idle
  | some gr =>
    let gs := s.gangs.filter fun g => g.group == some group
    let fams := ((gs.map fun g => g.family).eraseDups).filterMap s.family?
    if !gr.out || !gs.all (fun g => g.saved && s.queueAllows g) || (s.coresForSaved fams []).isNone then M.idle
    set ((s.putGroup { gr with out := false }).tellAll (.back gr.tag gr.tick))

/-- Restores a saved gang with its company (R308); `ecc` are the positions of its sections that ECC found damaged. -/
def State.restore (s : State) (gang : Nat) (ecc : List Nat) : State :=
  let fams := (s.companyOf gang).filterMap s.family?
  let gs := s.gangs.filter fun g => fams.any fun f => f.uid == g.family
  if fams.isEmpty || !gs.all (fun g => g.saved && s.gangAllowed g) then s
  else
    match s.coresForSaved fams [] with
    | none => s
    | some places =>
      let bad (g : Gang) : List Checked := damagedIn g.image (if g.uid == gang then ecc else [])
      let dead := gs.flatMap fun g => s.deadIn g.uid (bad g)
      let lost := ((gs.filter fun g => (bad g).any fun x => x.kind == 7 || (x.kind != 1 && x.kind != 6)).map fun g =>
        g.family).eraseDups
      let s := places.foldl (fun (s : State) p =>
        s.restoreFamily p.1 p.2.1 p.2.2 (dead.map fun d => d.1)) s
      let s := lost.foldl State.loseRuns s
      dead.foldl (fun (s : State) d => s.haltDamaged d.1 d.2.1 d.2.2.1 d.2.2.2) s

/-! ## The log-full pre-emption (R111, R387) -/

/-- Whether a team stalls on a full ring and spill log. -/
def State.stalled (s : State) (t : Team) : Bool :=
  t.arm.wait == some .logFull && t.status == .running && s.gangResident t.gang && (s.core t.core).room == 0

/-- Pre-empts the gang of a stalled team and counts it (R387). -/
def logFullEvent (team : Nat) : M Unit := do
  let s ← get
  match s.team? team with
  | none => M.idle
  | some t =>
    if !s.stalled t || !s.mayPreempt (s.companyOf t.gang) then M.idle
    modify fun s => (s.modCore t.core fun c => { c with logPreempts := c.logPreempts + 1 }).preempt t.gang

/-! ## Swap-out of a grower (R63, R379) -/

/-- The blocked growers of a core. -/
def State.growers (s : State) (core : Nat) : List (Team × Nat) :=
  (s.teamsOn core).filterMap fun t => t.growing.map fun n => (t, n)

/-- The one with the greatest key. -/
def greatestGrower : List (Team × Nat) → Option (Team × Nat)
  | [] => none
  | p :: ps =>
    match greatestGrower ps with
    | none => some p
    | some q => if q.1.key.toNat < p.1.key.toNat then some p else some q

/-- The swap-out of R63, or the trap of a growth that cannot be restored (R379). -/
def swapOutEvent (core : Nat) : M Unit := do
  let s ← get
  if s.tick.toNat < (s.core core).lastIssue + 4096 then M.idle
  match greatestGrower (s.growers core) with
  | none => M.idle
  | some (t, n) =>
    match s.familyOf? t with
    | none => M.idle
    | some f =>
      let rest := sumOf (((s.teamsIn f.uid).filter fun u => u.id != t.id && u.resident).map fun u =>
        f.chargeOf u u.vcnt) + f.nest * f.reserveCharge
      modify fun s => s.modCore core fun c => { c with lastIssue := s.tick.toNat }
      if registerFile < f.chargeOf t n + rest then
        modify fun s => s.stop t (trapWith 0x04C (BitVec.ofNat 64 n))
      else
        modify fun s => ((s.modTeam t.id fun u => { u.pauseTimers s.tick.toNat with status := .swappedOut, prefetched := [] }).modCore
          core fun c => { c with swapOuts := c.swapOuts + 1 }).seatCore core

/-- The restore of a swapped-out team (R63). -/
def swapInEvent (team : Nat) : M Unit := do
  let s ← get
  match s.team? team with
  | none => M.idle
  | some t =>
    match s.familyOf? t with
    | none => M.idle
    | some f =>
      if t.status != .swappedOut || !s.gangResident t.gang || s.freeRf t.core < f.chargeOf t t.restoredCount then M.idle
      modify fun s => s.modTeam t.id fun u => u.arriveOn u.core u.slot s.tick.toNat

/-! ## The events -/

/-- A gang is stopped and saved (R302). -/
def execGangPreemption (gang : Nat) (s : State) : Host.Outcome State Fault Refusal := .next (s.preempt gang)

/-- A context image is checked, placed and its segments re-appended (R308, R404). -/
def execGangRestore (gang : Nat) (damaged : List Nat) (s : State) : Host.Outcome State Fault Refusal :=
  .next (s.restore gang damaged)

/-- A stalled team's gang is pre-empted (R387). -/
def execLogFullPreemption (team : Nat) (s : State) : Host.Outcome State Fault Refusal := event (logFullEvent team) s

/-- A blocked grower is swapped out (R63, R379). -/
def execTeamSwapOut (core : Nat) (s : State) : Host.Outcome State Fault Refusal := event (swapOutEvent core) s

/-- A swapped-out team is restored (R63). -/
def execSwappedTeamRestore (team : Nat) (s : State) : Host.Outcome State Fault Refusal := event (swapInEvent team) s

end Sys2Proof.Machine
end

