-- ==== Sys2Proof/Machine/Progress.lean ====
section
/-!
DEFINITION. What the machine does between instructions: turns and quanta, spawn groups, the logical clock, recording,
replay, loads and atomics that return, the log drain, trap entry, watchdogs, and the matrix engine
(02_execution_model.md R31, R38, R40; 05_memory_hierarchy.md R108, R109, R111; 12_consistency.md R225;
15_system_traps.md R297; 16_scheduling.md R321; 17_determinism.md R327, R329; 18_platform.md R356;
23_faults_execution.md R374, R375, R380).
-/

namespace Sys2Proof.Machine

/-! ## Turns (R321, R329) -/

/-- Whether a gang is to be pre-empted: its queue has lost its slot or is held, the device is stopped, or its core is
closed or out of service (R316, R317, R415, R417). -/
def State.unwanted (s : State) (g : Gang) : Bool :=
  let bad (n : Nat) : Bool := !(s.core n).inService || (s.core n).closed || (s.core n).leaving
  !s.gangAllowed g || g.core.any bad || (s.family? g.family).any fun f => f.resident && f.shadowCore.any bad

/-- Whether some gang of a gang's company is to be pre-empted. -/
def State.companyUnwanted (s : State) (gang : Nat) : Bool :=
  let fams := s.companyOf gang
  s.gangs.any fun g => fams.contains g.family && s.unwanted g

/-- Whether a team is held at its pre-emption point until its company has reached theirs (R302). -/
def State.holdsStill (s : State) (t : Team) : Bool :=
  s.companyUnwanted t.gang && s.atPoint t && (s.familyOf? t).any s.quiet

/-- Whether a team's family is stopped by digests that differ (R334, R410). -/
def State.mismatched (s : State) (t : Team) : Bool := (s.familyOf? t).any fun f => f.mismatch.isSome

/-- Whether a team can be granted a turn; one that waits may try again (R315, R321, log 17). -/
def State.mayIssue (s : State) (t : Team) : Bool :=
  (t.status == .running || t.status == .handler) && s.gangResident t.gang && !s.heldBack t.gang &&
    t.path.wait != some .stepEnded && !s.holdsStill t && !s.mismatched t

/-- Slots in rotating order from the one after the last granted. -/
def slotDistance (last slot : BitVec 6) : Nat := (slot - last - 1).toNat

/-- The team of a domain whose turn it is on a core, in ascending key from the one after the last granted (R329). -/
def State.domainNext (s : State) (core : Nat) (d : Nat) (ready : List Team) : Option Team :=
  let us := sortBy (fun a b : Team => decide (a.key.toNat < b.key.toNat)) (ready.filter fun t => s.domainOf t == some d)
  match (s.core core).lastKeys.find? fun p => p.1 == d with
  | none => us.head?
  | some (_, k) =>
    match us.find? fun t => decide (k.toNat < t.key.toNat) with
    | some t => some t
    | none => us.head?

/-- The next team of a core to be granted a turn (R321, R329). -/
def State.nextTeam (s : State) (core : Nat) : Option Team :=
  let ready := (s.teamsOn core).filter s.mayIssue
  let last := (s.core core).lastSlot
  match sortBy (fun a b : Team => decide (slotDistance last a.slot < slotDistance last b.slot)) ready with
  | [] => none
  | t :: _ =>
    match s.domainOf t with
    | none => some t
    | some d => s.domainNext core d ready

/-- Grants a turn: up to 8 instructions; the latches of the core are invalid (R58, R321). -/
def State.grant (s : State) (t : Team) : State :=
  let s := (s.modCore t.core fun c => { c with
    lastSlot := t.slot, lastGrant := s.tick.toNat, latches := []
    lastKeys := match s.domainOf t with
      | none => c.lastKeys
      | some d => (d, t.key) :: c.lastKeys.filter fun p => p.1 != d }).modTeam t.id fun u => { u with run := 0 }
  { s with cur := some t.id, turnLeft := 8 }

/-- The turn in progress ends; the latches are invalid (R58). -/
def State.endTurn (s : State) : State :=
  match s.issuer? with
  | none => { s with cur := none, turnLeft := 0 }
  | some t => { (s.modTeam t.id fun u => { u with run := 0 }).dropLatches t.core with cur := none, turnLeft := 0 }

/-- Fetches the parcels at and after an address ahead of their use, up to the first that cannot be read (R151). -/
def State.fetchAhead : Nat → Word → Team → State → State
  | 0, _, _, s => s
  | n + 1, addr, t, s =>
    if t.prefetched.any fun p => p.1 == addr then State.fetchAhead n (addr + 2) t s
    else
      match M.code t addr 2 s with
      | .error _ s => s
      | .ok bs s =>
        let p := (addr, BitVec.ofNat 16 (natOfBytes bs))
        State.fetchAhead n (addr + 2) t (s.modTeam t.id fun u => { u with prefetched := u.prefetched ++ [p] })

/-- A turn is granted on a core (R321). -/
def issueTurnEvent (core : Nat) (prefetch : Bool) : M Unit := do
  let s ← get
  if s.cur.isSome then M.idle
  match s.nextTeam core with
  | none => M.idle
  | some t =>
    set (s.grant t)
    if prefetch then modify fun s => State.fetchAhead 16 t.arm.pc t s

/-! ## Arms (R38, R327) -/

/-- A switch of arms: at level 2 and above it waits for the clock (R38, R327). -/
def State.switchArms (s : State) (t : Team) : State :=
  if s.levelOf t < 2 || s.clockLeast t then s.modTeam t.id fun u => { u.passIssue with switchDue := false }
  else s.modTeam t.id fun u => { u with switchDue := true }

/-- Whether the quantum of a team's running arm has run out (R38). -/
def State.quantumOut (s : State) (t : Team) : Bool :=
  t.status == .running && !t.stack.isEmpty && t.arm.quantum == 0 && !s.runOpen t

/-- An arm's quantum runs out (R38). -/
def quantumEvent (team : Nat) : M Unit := do
  let s ← get
  match s.team? team with
  | none => M.idle
  | some t =>
    if !s.quantumOut t then M.idle
    set (s.switchArms t)

/-! ## Spawn groups and families (R31, R40) -/

/-- A partial group leaves after 256 cycles in which no child joined it, at level 0 (R40). -/
def groupTimeoutEvent (gang : Nat) (entry : Word) : M Unit := do
  let s ← get
  match s.gang? gang with
  | none => M.idle
  | some g =>
    match g.core with
    | none => M.idle
    | some core =>
      let cs := s.childrenOf core gang entry
      if g.level != 0 || cs.isEmpty || cs.any (fun c => decide (s.tick.toNat < c.tick + 256)) then M.idle
      set (s.releaseGroup gang entry)

/-! ## The logical clock (R327) -/

/-- A team that waits for the clock has become the least of its domain, and issues again in its turn (R321, R327). -/
def clockGrantEvent (team : Nat) : M Unit := do
  let s ← get
  match s.team? team with
  | none => M.idle
  | some t =>
    if t.arm.wait != some .clock || !s.clockLeast t || !s.mayIssue t then M.idle
    modify fun s => s.modTeam t.id fun u => u.setArm { u.arm with wait := none }

/-! ## Publications, acquires, loads, atomics (R108, R203, R209, R225) -/

/-- The oldest publication of a team that waits to be recorded is recorded (R225). -/
def recordEvent (team : Nat) : M Unit := do
  let s ← get
  match s.team? team, s.pendPubs.find? fun p => p.1 == team with
  | some t, some p =>
    let rest := match indexOf? (fun q : Nat × Scope × BitVec 48 => q.1 == team) s.pendPubs with
      | some i => s.pendPubs.take i ++ s.pendPubs.drop (i + 1)
      | none => s.pendPubs
    set ({ s with pendPubs := rest }.publishTail t p.2.1 p.2.2)
  | _, _ => M.idle

/-- The number up to which the waiting acquires of a team replay. -/
def Team.awaits (t : Team) : Option Nat :=
  t.arms.foldl (fun m a =>
    match a.prog with
    | .acquire n false => some (max n (m.getD 0))
    | _ => m) none

/-- A waiting acquire of a team has replayed what it covers (R108). -/
def acquireEvent (team : Nat) : M Unit := do
  let s ← get
  match s.team? team with
  | none => M.idle
  | some t =>
    match t.awaits with
    | none => M.idle
    | some n =>
      set ((s.see t.core n).modTeam team fun u => u.mapArms fun a =>
        match a.prog with
        | .acquire k false => { a with prog := .acquire k true }
        | _ => a)

/-- The outstanding instructions of a team that may complete next: its returning atomics, or the others; of those that
append only the first (R178, R223). -/
def Team.completable (t : Team) (atomic : Bool) : List Pending :=
  let first := (t.pend.find? Pending.appends).map fun p => p.id
  t.pend.filter fun p => p.isAtomic == atomic && (!p.appends || first == some p.id)

/-- One of some alternatives: the model's choice (log 7). -/
def State.pick (s : State) : List α → Option (α × State)
  | [] => none
  | [x] => some (x, s)
  | x :: xs =>
    let (skip, s) := s.choose
    if skip then s.pick xs else some (x, s)

/-- An outstanding instruction of a team completes: a returning atomic is performed at its home, or a load returns, a
result is written, entries are appended (R178, R203, R209). -/
def returnEvent (team : Nat) (atomic : Bool) : M Unit := do
  let s ← get
  match s.team? team with
  | none => M.idle
  | some t =>
    match s.pick (t.completable atomic) with
    | none => M.idle
    | some (p, s) => set (s.finish t p)

/-! ## The log drain (R109, R111) -/

/-- A core's drain sends the entries of its next publication (R109). -/
def drainEvent (core : Nat) : M Unit := do
  let s ← get
  match s.nextUnsent core with
  | none => M.idle
  | some p => set (s.sendPub core p)

/-- A home applies a drained entry, in publication order (R109). -/
def applyEvent (index : Nat) : M Unit := do
  let s ← get
  match s.flights[index]? with
  | none => M.idle
  | some f =>
    if !s.mayApply index f then M.idle
    set ({ s with flights := s.flights.eraseIdx index }.land f)

/-! ## Trap entry (R64, R297) -/

/-- The longest-waiting trapped team enters when the bank is free (R64, R297). -/
def trapEntryEvent (team : Nat) : M Unit := do
  let s ← get
  match s.team? team with
  | none => M.idle
  | some t =>
    match t.status with
    | .waitingBank i =>
      let c := s.core t.core
      if c.owner.isSome || c.waiting.head? != some team || !s.gangResident t.gang then M.idle
      set ((s.putCore { c with waiting := c.waiting.drop 1 }).enterTrap team i)
    | _ => M.idle

/-! ## Watchdogs (R374, R375, R380) -/

/-- The watchdog period of a team's tenant in ticks; none when disabled. -/
def State.period (s : State) (t : Team) : Option Nat :=
  match (s.tenant (s.tenantOf t)).wde with
  | 0 => none
  | n => some (2 ^ n)

/-- Elapsed ticks of a timer, when it has reached the period. -/
def State.expired (s : State) (t : Team) (since : Nat) : Option Nat :=
  match s.period t with
  | none => none
  | some p => if p ≤ s.tick.toNat - since then some (s.tick.toNat - since) else none

/-- Whether a team's timers advance (R374) and it stands at an instruction boundary outside a latch run. -/
def State.timed (s : State) (t : Team) : Bool :=
  t.status == .running && t.pausedAt.isNone && s.gangResident t.gang && !s.runOpen t

/-- The retire timer's elapsed ticks, when it has expired. -/
def State.retireOut (s : State) (t : Team) : Option Nat := if s.timed t then s.expired t t.retireAt else none

/-- Whether an arm that has not arrived belongs to an entry below the top (R374). -/
def Team.starving (t : Team) : Bool := (t.stack.drop 1).any fun e => !e.arm0.isArrived || !e.arm1.isArrived

/-- The starve timer's elapsed ticks, when it has expired. -/
def State.starveOut (s : State) (t : Team) : Option Nat :=
  if s.timed t && t.starving then s.expired t t.starveAt else none

/-- With every arm blocked, the arm that has waited longest becomes the running one, arm 0 on a tie (R375). -/
def Team.longestArm (t : Team) : Team :=
  match t.stack with
  | [] => t
  | e :: es =>
    match e.arm0.isArrived, e.arm1.isArrived with
    | false, false =>
      if e.arm0.wait.isSome && e.arm1.wait.isSome then
        { t with stack := { e with sel := decide (e.arm1.since < e.arm0.since) } :: es }
      else t
    | _, _ => t

/-- A watchdog trap: both timers restart, and the trap is taken (R375). -/
def State.bark (s : State) (t : Team) (code : BitVec 9) (elapsed : Nat) : State :=
  let u := { t.longestArm with retireAt := s.tick.toNat, starveAt := s.tick.toNat }
  (s.putTeam u).stop u (trapWith code (BitVec.ofNat 64 elapsed))

/-- The retire timer expires (R375). -/
def retireTimeoutEvent (team : Nat) : M Unit := do
  let s ← get
  match s.team? team with
  | none => M.idle
  | some t =>
    match s.retireOut t with
    | none => M.idle
    | some n => set (s.bark t 0x089 n)

/-- The starve timer expires; the retire timer is checked first (R375). -/
def starveTimeoutEvent (team : Nat) : M Unit := do
  let s ← get
  match s.team? team with
  | none => M.idle
  | some t =>
    match s.retireOut t, s.starveOut t with
    | none, some n => set (s.bark t 0x08A n)
    | _, _ => M.idle

/-- A handler path's retire timer, when it has expired (R380). -/
def State.hangOut (s : State) (t : Team) : Option Nat := if t.status == .handler then s.expired t t.hangAt else none

/-- The halt of a team whose handler hangs (R380). -/
def State.hang (s : State) (t : Team) (elapsed : Nat) : State :=
  s.haltTeam t.id (t.trapInfo 0x08B (BitVec.ofNat 64 elapsed) t.active t.arm.pc false) true true

/-- A handler that hangs halts its team (R380). -/
def hangEvent (team : Nat) : M Unit := do
  let s ← get
  match s.team? team with
  | none => M.idle
  | some t =>
    match s.hangOut t with
    | none => M.idle
    | some n => set (s.hang t n)

/-! ## The matrix engine (R250, R356) -/

/-- Whether the MXE of a core can apply its next pass. -/
def State.passReady (s : State) (core : Nat) : Bool := (s.core core).mxeAdmitted && !(s.core core).passes.isEmpty

/-- The MXE applies the oldest pass whole (R250). -/
def passEvent (core : Nat) : M Unit := do
  let s ← get
  if !s.passReady core then M.idle
  set (s.runPass core)

/-- An MXE without a pass for 2,048 cycles becomes idle (R356). -/
def idleEvent (core : Nat) : M Unit := do
  let s ← get
  let c := s.core core
  if !c.mxeAdmitted || !c.passes.isEmpty || decide (s.tick.toNat < c.mxeLast + 2048) then M.idle
  set (s.putCore { c with mxeAdmitted := false })

/-- The cores whose MXEs wait for admission, in ascending number. -/
def State.mxeWaiting (s : State) : List Nat :=
  sortBy (fun a b : Nat => decide (a < b)) ((s.cores.filter fun c => c.mxeAsked && !c.mxeAdmitted).map fun c => c.n)

/-- Admissions left in the window of 100 ns that ends now (R356). -/
def State.rampRoom (s : State) : Nat := 8 - (s.rampAt.filter fun a => decide (s.tick.toNat < a + 100)).length

/-- The ramp governor admits waiting MXEs, while the device is not throttled (R356, R357). -/
def admissionEvent : M Unit := do
  let s ← get
  let cores := s.mxeWaiting.take s.rampRoom
  if cores.isEmpty || s.thermal.throttled then M.idle
  let now := s.tick.toNat
  let s := { s with rampAt := (s.rampAt.filter fun a => decide (now < a + 100)) ++ cores.map fun _ => now }
  set (cores.foldl (fun (s : State) n => s.modCore n fun c =>
    { c with mxeAdmitted := true, mxeAsked := false, mxeLast := now }) s)

/-! ## The events -/

/-- A quantum runs out and issue passes to the other arm (R38). -/
def execQuantumExpiry (team : Nat) (s : State) : Host.Outcome State Fault Refusal := event (quantumEvent team) s

/-- The issue arbiter grants a turn (R321). -/
def execIssueTurn (core : Nat) (prefetch : Bool) (s : State) : Host.Outcome State Fault Refusal :=
  event (issueTurnEvent core prefetch) s

/-- A partial spawn group leaves (R40). -/
def execSpawnGroupTimeout (gang : Nat) (entry : BitVec 64) (s : State) : Host.Outcome State Fault Refusal :=
  event (groupTimeoutEvent gang entry) s

/-- A dissolved family's resources return (R31). -/
def execFamilyResourceReturn (family : Nat) (s : State) : Host.Outcome State Fault Refusal :=
  .next (s.familyReturn family)

/-- A waiting synchronising operation becomes the least of its domain (R327). -/
def execLogicalClockGrant (team : Nat) (s : State) : Host.Outcome State Fault Refusal := event (clockGrantEvent team) s

/-- A release's publication is recorded (R225). -/
def execPublicationRecord (team : Nat) (s : State) : Host.Outcome State Fault Refusal := event (recordEvent team) s

/-- An acquire's replay completes (R108). -/
def execAcquireComplete (team : Nat) (s : State) : Host.Outcome State Fault Refusal := event (acquireEvent team) s

/-- Load data arrives, or another outstanding instruction that is no atomic completes (R178, R203). -/
def execLoadReturn (team : Nat) (s : State) : Host.Outcome State Fault Refusal := event (returnEvent team false) s

/-- A returning atomic is performed at its home and returns (R209). -/
def execHomeAtomic (team : Nat) (s : State) : Host.Outcome State Fault Refusal := event (returnEvent team true) s

/-- A core's log drain sends published entries (R109). -/
def execLogDrain (core : Nat) (s : State) : Host.Outcome State Fault Refusal := event (drainEvent core) s

/-- A home applies a drained entry (R109). -/
def execHomeApply (index : Nat) (s : State) : Host.Outcome State Fault Refusal := event (applyEvent index) s

/-- Applied entries leave the ring (R109). -/
def execLogAck (core : Nat) (s : State) : Host.Outcome State Fault Refusal := .next (s.ack core).prunePubs

/-- The oldest unpublished entries move to the spill log (R111). -/
def execLogSpill (core : Nat) (s : State) : Host.Outcome State Fault Refusal := .next (s.putCore (s.core core).spill)

/-- A trapped team enters its handler (R297). -/
def execTrapEntry (team : Nat) (s : State) : Host.Outcome State Fault Refusal := event (trapEntryEvent team) s

/-- The retire timer expires (R375). -/
def execWatchdogRetireTimeout (team : Nat) (s : State) : Host.Outcome State Fault Refusal :=
  event (retireTimeoutEvent team) s

/-- The starve timer expires (R375). -/
def execWatchdogStarveTimeout (team : Nat) (s : State) : Host.Outcome State Fault Refusal :=
  event (starveTimeoutEvent team) s

/-- A handler hangs (R380). -/
def execHandlerHang (team : Nat) (s : State) : Host.Outcome State Fault Refusal := event (hangEvent team) s

/-- The MXE applies a pass (R250). -/
def execMxePass (core : Nat) (s : State) : Host.Outcome State Fault Refusal := event (passEvent core) s

/-- An MXE becomes idle (R356). -/
def execMxeIdle (core : Nat) (s : State) : Host.Outcome State Fault Refusal := event (idleEvent core) s

/-- Waiting MXEs are admitted (R356). -/
def execMxeAdmission (s : State) : Host.Outcome State Fault Refusal := event admissionEvent s

end Sys2Proof.Machine
end

