-- ==== Sys2Proof/Machine/Queues.lean ====
section
/-!
DEFINITION. The HQS: user queues, their packets, hardware slots, and the placement of launched gangs
(16_scheduling.md R310 to R319, R434; 17_determinism.md R331; 25_faults_engines_scheduling.md R401 to R403).
-/

namespace Sys2Proof.Machine

/-! ## Descriptors and halts (R310, R401) -/

/-- Writes a word of a queue's descriptor; a translation fault is left to the caller. -/
def State.descWrite (s : State) (q : Queue) (off : Word) (w : Word) : Bool × State :=
  s.hqsWrite q.tenant (q.desc + off) (bytesOf 8 w.toNat)

/-- The HALT and CODE word. -/
def Queue.haltWord (q : Queue) : Word := (if q.halt then 0x8000000000000000 else 0) ||| q.code.setWidth 64

/-- Halts a queue with a code, and raises the vector of its slot (R401). -/
def State.haltQueue (s : State) (num : Nat) (code : BitVec 9) : State :=
  match s.queue? num with
  | none => s
  | some q =>
    let q := { q with halt := true, code := code, badCheck := false }
    let s := ((s.putQueue q).descWrite q 0x28 q.haltWord).2
    match q.slot with
    | some k => s.raise k
    | none => s

/-- Writes a descriptor word; a translation fault halts the queue (R434). -/
def State.descSet (s : State) (q : Queue) (off : Word) (w : Word) : State :=
  match s.descWrite q off w with
  | (true, s) => s
  | (false, s) => s.haltQueue q.num 0x1A7

/-- Whether a queue has a started packet that is not complete. -/
def Queue.waits (q : Queue) (kind : BitVec 8) : Bool := q.started.any fun p => p.kind == kind && !p.complete

/-- Raises DONE over complete packets, in index order (R312). -/
def Queue.advance : Nat → Queue → Queue
  | 0, q => q
  | n + 1, q =>
    match q.started with
    | [] => q
    | p :: ps => if p.complete then Queue.advance n { q with started := ps, done := q.done + 1 } else q

/-- Raises DONE as far as it goes, and writes it. -/
def State.raiseDone (s : State) (num : Nat) : State :=
  match s.queue? num with
  | none => s
  | some q =>
    let r := Queue.advance q.started.length q
    if r.done == q.done then s else (s.putQueue r).descSet r 0x18 r.done

/-- Marks a started packet complete. -/
def State.finishPacket (s : State) (num : Nat) (index : Word) : State :=
  match s.queue? num with
  | none => s
  | some q =>
    (s.putQueue { q with started := q.started.map fun (p : Started) =>
      if p.index == index then { p with complete := true } else p }).raiseDone num

/-! ## Check records (R331) -/

/-- Reads a queue's check record; the code that halts the queue, or the values. -/
def State.readCheck (s : State) (q : Queue) : Except (BitVec 9) CheckRec × State :=
  match s.checkRecords.find? fun p => p.1 == q.num with
  | none => (.ok CheckRec.zero, s)
  | some (_, a) =>
    match s.hqsRead q.tenant a 64 with
    | (none, s) => (.error 0x1A7, s)
    | (some (bs, bad), s) =>
      let w := BitVec.ofNat 64 (fieldOf bs 8 8)
      if bad then (.error 0x1A6, s)
      else if w.extractLsb' 3 61 != 0 || fieldOf bs 16 48 != 0 then (.error 0x1A5, s)
      else (.ok { seed := BitVec.ofNat 64 (fieldOf bs 0 8), sample := w.getLsbD 2, pairSel := w.extractLsb' 0 2 }, s)

/-- A reading of the check record outside a LEVEL packet: a bad record halts the queue at its next packet. -/
def State.loadCheck (s : State) (q : Queue) : State :=
  match s.readCheck q with
  | (.ok c, s) => s.putQueue { q with check := c, badCheck := false }
  | (.error 0x1A5, s) => s.putQueue { q with badCheck := true }
  | (.error code, s) => (s.putQueue q).haltQueue q.num code

/-! ## Starting packets (R311, R312) -/

/-- Whether the queue's next packet may be read. -/
def Queue.mayRead (q : Queue) : Bool :=
  q.slot.isSome && !q.halt && !q.held && decide (q.rd.toNat < q.db.toNat) && !q.waits 2 && !q.waits 3

/-- Address of a packet. -/
def Queue.packetAt (q : Queue) (i : Word) : Word := q.ring + BitVec.ofNat 64 (64 * (i.toNat % 2 ^ q.log2sz))

/-- Whether the queue has saved gangs, which are restored before further packets are admitted (R317). -/
def State.owesGangs (s : State) (num : Nat) : Bool := s.gangs.any fun g => g.queue == some num && g.saved

/-- Notes a packet as started: RD rises (R311). -/
def State.noteStarted (s : State) (num : Nat) (kind : BitVec 8) (bs : List Byte) (complete : Bool) : State :=
  match s.queue? num with
  | none => s
  | some q =>
    let r := { q with rd := q.rd + 1, started := q.started ++ [{ index := q.rd, kind := kind, bytes := bs, complete := complete }] }
    ((s.putQueue r).descSet r 0x10 r.rd).raiseDone num

/-- The writes that the publication of a doorbell covers are applied before the HQS reads what they wrote (R311). -/
def State.showHqs (s : State) (tenant : BitVec 8) (va : Word) (n : Nat) : State :=
  match s.translateRange (s.hqsCtx tenant) .load va n with
  | (.error _, s) => s
  | (.ok parts, s) =>
    if s.behind s.pubSeq (parts.flatMap fun p => granulesOf (bareKey p.1) p.2) then s.forceBelow s.pubSeq else s

/-- A packet's start: it is read once, with the writes its doorbell's publication covers applied, and checked; a bad
one halts the queue and RD does not pass it (R311, R312, R401). `go` answers a code, or whether the packet is complete
at its start. -/
def startPacket (num : Nat) (kind : BitVec 8)
    (go : State → Queue → List Byte → Except (BitVec 9) Bool × State) : M Unit := do
  let s ← get
  match s.queue? num with
  | none => M.idle
  | some q =>
    if !q.mayRead || s.thermal.stopped || s.owesGangs num then M.idle
    match (s.showHqs q.tenant (q.packetAt q.rd) 64).hqsRead q.tenant (q.packetAt q.rd) 64 with
    | (none, s) => set (s.haltQueue num 0x1A7)
    | (some (bs, bad), s) =>
      let header := BitVec.ofNat 64 (fieldOf bs 0 8)
      let k := header.extractLsb' 0 8
      if bad then set (s.haltQueue num 0x1A6)
      else if q.badCheck then set (s.haltQueue num 0x1A5)
      else if 5 < k.toNat || header.extractLsb' 9 23 != 0 then set (s.haltQueue num 0x1A0)
      else
        if k != kind || ((header.getLsbD 8 || k == 5) && q.done != q.rd) then M.idle
        match go s q bs with
        | (.error code, s) => set (s.haltQueue num code)
        | (.ok complete, s) => set (s.noteStarted num kind bs complete)

/-! ## NOP, WAIT, LEVEL, HOLD, SIGNAL (R316) -/

/-- An 8-byte field of a packet. -/
def packetWord (bs : List Byte) (off : Nat) : Word := BitVec.ofNat 64 (fieldOf bs off 8)

/-- Whether bytes from an offset to the end of a packet are 0. -/
def zeroFrom (bs : List Byte) (off : Nat) : Bool := fieldOf bs off (64 - off) == 0

/-- NOP. -/
def startNop (s : State) (_ : Queue) (bs : List Byte) : Except (BitVec 9) Bool × State :=
  (if zeroFrom bs 8 then .ok true else .error 0x1A0, s)

/-- A queue that a queue's packet may name: registered, and of its tenant unless it has SYS = 1. -/
def State.mayName (s : State) (q : Queue) (num : Nat) : Bool :=
  q.sys || (s.queue? num).any fun r => r.tenant == q.tenant

/-- Fields of a WAIT. -/
def waitSrc (w : Word) : Nat := (w.extractLsb' 0 2).toNat
def waitEng (w : Word) : BitVec 7 := w.extractLsb' 3 7
def waitQueue (w : Word) : Nat := (w.extractLsb' 10 14).toNat

/-- Whether a WAIT has a bad field. -/
def waitBad (bs : List Byte) : Bool :=
  let w := packetWord bs 8
  let a := packetWord bs 24
  let src := waitSrc w
  w.extractLsb' 24 40 != 0 || !zeroFrom bs 32 || src == 3 || (src != 2 && waitEng w != 0) ||
    (src != 0 && waitQueue w != 0) || (src == 0 && a != 0) || (src == 1 && a.extractLsb' 0 3 != 0) ||
    (src == 2 && (a.extractLsb' 32 32 != 0 ||
      match engineOf (waitEng w) with
      | .ok _ => false
      | .error _ => true))

/-- WAIT: it holds its queue from its start on; a word that cannot be read halts the queue (R434). -/
def startWait (s : State) (q : Queue) (bs : List Byte) : Except (BitVec 9) Bool × State :=
  let w := packetWord bs 8
  if waitBad bs then (.error 0x1A0, s)
  else if waitSrc w == 0 && !s.mayName q (waitQueue w) then (.error 0x1A4, s)
  else if waitSrc w == 1 then
    match s.hqsWord q.tenant (packetWord bs 24) with
    | (none, s) => (.error 0x1A7, s)
    | (some _, s) => (.ok false, s)
  else (.ok false, s)

/-- The family of a tenant that holds a gang, or held it until it dissolved (R31, R316). -/
def State.familyHolding (s : State) (tenant : BitVec 8) (id : BitVec 32) : Option Nat :=
  match s.gangs.find? fun g => g.logical == id && g.tenant == tenant with
  | some g => some g.family
  | none => (s.families.find? fun f => f.past.contains id && f.tenant == tenant).map fun f => f.uid

/-- Whether a gang of a started LAUNCH of a tenant still waits for its place. -/
def State.unplacedGang (s : State) (tenant : BitVec 8) (id : BitVec 32) : Bool :=
  s.launches.any fun l =>
    l.tenant == tenant && (List.range (l.gangs - l.placed)).any fun i => l.logical (l.placed + i) == id

/-- The value a WAIT tests; no value when the family of SRC 2 has dissolved, and DONE 0 before
it is there; none on a translation fault. -/
def State.waitValue (s : State) (q : Queue) (bs : List Byte) : Option (Option Word) × State :=
  let w := packetWord bs 8
  match waitSrc w with
  | 0 => (some (some (((s.queue? (waitQueue w)).map fun (r : Queue) => r.done).getD 0)), s)
  | 1 =>
    match s.hqsWord q.tenant (packetWord bs 24) with
    | (none, s) => (none, s)
    | (some v, s) => (some (some v), s)
  | _ =>
    let id := (packetWord bs 24).extractLsb' 0 32
    match s.familyHolding q.tenant id, engineOf (waitEng w) with
    | some f, .ok e => (some (some (((s.chanOf? f e).map fun (c : Chan) => c.done).getD 0)), s)
    | none, _ => (some (if s.unplacedGang q.tenant id then some 0 else none), s)
    | _, .error _ => (some none, s)

/-- Whether a tested value satisfies a WAIT. -/
def waitHolds (bs : List Byte) (v : Option Word) : Bool :=
  match v with
  | none => true
  | some v =>
    let want := packetWord bs 16
    if (packetWord bs 8).getLsbD 2 then v == want else decide (want.toNat ≤ v.toNat)

/-- LEVEL: level 3 reads the check record at its start (R331). -/
def startLevel (s : State) (q : Queue) (bs : List Byte) : Except (BitVec 9) Bool × State :=
  let w := packetWord bs 8
  let level := w.extractLsb' 0 2
  if w.extractLsb' 3 61 != 0 || !zeroFrom bs 16 then (.error 0x1A0, s)
  else
    let set_ (s : State) (c : CheckRec) : State :=
      match s.queue? q.num with
      | none => s
      | some r => s.putQueue { r with level := level, checked := w.getLsbD 2, check := c }
    if level == 3 then
      match s.readCheck q with
      | (.error code, s) => (.error code, s)
      | (.ok c, s) => (.ok false, set_ s c)
    else (.ok false, set_ s q.check)

/-- HOLD (R316). -/
def startHold (s : State) (q : Queue) (bs : List Byte) : Except (BitVec 9) Bool × State :=
  let w := packetWord bs 8
  let num := (w.extractLsb' 0 14).toNat
  if w.extractLsb' 15 49 != 0 || !zeroFrom bs 16 then (.error 0x1A0, s)
  else if !s.mayName q num then (.error 0x1A4, s)
  else
    match s.queue? num with
    | none => (.ok true, s)
    | some r => (.ok (!w.getLsbD 14), s.putQueue { r with held := w.getLsbD 14 })

/-- SIGNAL: the write at its home, then the interrupt (R316, R337). -/
def startSignal (s : State) (q : Queue) (bs : List Byte) : Except (BitVec 9) Bool × State :=
  let a := packetWord bs 8
  let flags := packetWord bs 24
  if a.extractLsb' 0 3 != 0 || flags.extractLsb' 1 63 != 0 || !zeroFrom bs 32 then (.error 0x1A0, s)
  else
    match s.hqsWrite q.tenant a (bytesOf 8 (packetWord bs 16).toNat) with
    | (false, s) => (.error 0x1A7, s)
    | (true, s) =>
      (.ok true, match flags.getLsbD 0, q.slot with
        | true, some k => s.raise k
        | _, _ => s)

/-! ## LAUNCH (R313) -/

/-- A role word. -/
def roleOf (w : BitVec 32) : Role :=
  { teams := (w.extractLsb' 0 7).toNat, lanes := (w.extractLsb' 7 10).toNat + 1
    vregs := 8 * ((w.extractLsb' 17 3).toNat + 1), sregs := 8 * ((w.extractLsb' 20 3).toNat + 1) }

/-- The role words of a LAUNCH. -/
def launchRoles (bs : List Byte) : List (BitVec 32) := (List.range 4).map fun i => BitVec.ofNat 32 (fieldOf bs (24 + 4 * i) 4)

/-- The launch a packet describes. -/
def launchOf (q : Queue) (bs : List Byte) : Launch :=
  let a := packetWord bs 40
  let b := packetWord bs 48
  { queue := q.num, packet := q.rd, entry := packetWord bs 8, args := packetWord bs 16
    roles := (launchRoles bs).map roleOf, gbase := a.extractLsb' 32 30, nest := (a.extractLsb' 21 4).toNat
    spw := 32 * ((a.extractLsb' 16 5).toNat + 1), acc := (a.extractLsb' 10 6).toNat
    part := 4096 * (a.extractLsb' 0 10).toNat, gtotal := (b.extractLsb' 32 32).toNat, mdev := b.getLsbD 25
    grp := b.getLsbD 24, gangs := (b.extractLsb' 0 24).toNat, tick := packetWord bs 56
    tag := (packetWord bs 0).extractLsb' 32 32, level := q.level, checked := q.checked || q.level == 3, sys := q.sys
    tenant := q.tenant, check := q.check, placed := 0, dissolved := 0, domain := none }

/-- Whether a LAUNCH has a non-zero reserved field. -/
def launchReserved (bs : List Byte) : Bool :=
  let a := packetWord bs 40
  (launchRoles bs).any (fun w => w.extractLsb' 23 9 != 0) || a.extractLsb' 62 2 != 0 || a.extractLsb' 25 7 != 0 ||
    (packetWord bs 48).extractLsb' 26 6 != 0

/-- Whether a launch breaks R33, R34 or R313. -/
def State.launchBad (s : State) (l : Launch) : Bool :=
  let teams := sumOf (l.roles.map fun r => r.teams)
  l.roles.any (fun r => decide (64 < r.teams)) || decide (8 < l.nest) || decide (32 < l.acc) ||
    decide (768 * 4096 < l.part) || teams == 0 || decide (64 < teams + l.nest) || l.gangs == 0 ||
    !(s.tenant l.tenant).entries.contains l.entry || (l.mdev && !l.grp) || (l.grp && decide (192 < l.gangs)) ||
    (!l.mdev && (l.gtotal != l.gangs || l.tick != 0))

/-- Cores that can hold gangs at all. -/
def State.usableCores (s : State) : Nat := ((List.range coreCount).filter fun n => (s.core n).inService).length

/-- Whether a gang group cannot fit even on an empty device (R314). -/
def State.groupImpossible (s : State) (l : Launch) : Bool :=
  l.grp && (!l.need.possible ||
    decide (s.usableCores < l.gangs + ((List.range l.gangs).filter l.paired).length))

/-- What an open job of the queue learns of a launch (R352). -/
def Job.launched (j : Job) (l : Launch) : Job :=
  if j.queue == l.queue then
    { j with chk := j.chk || l.checked
             level := some (match j.level with
               | none => l.level
               | some k => if l.level.toNat < k.toNat then l.level else k) }
  else j

/-- LAUNCH: it has started once its first gang is offered for placement (R314). -/
def startLaunch (s : State) (q : Queue) (bs : List Byte) : Except (BitVec 9) Bool × State :=
  let l := launchOf q bs
  if launchReserved bs then (.error 0x1A0, s)
  else if s.launchBad l then (.error 0x1A1, s)
  else if s.groupImpossible l then (.error 0x1A2, s)
  else (.ok false, { s with launches := s.launches ++ [l], jobs := s.jobs.map fun j => j.launched l })

/-! ## Completion (R312) -/

/-- Whether a started packet's condition holds, with the state after its test; none when a WAIT's word cannot be
read. -/
def State.packetDone (s : State) (q : Queue) (p : Started) : Option Bool × State :=
  match p.kind.toNat with
  | 1 => (some (s.launches.any fun l => l.queue == q.num && l.packet == p.index && decide (l.gangs ≤ l.dissolved)), s)
  | 2 =>
    match s.waitValue q p.bytes with
    | (none, s) => (none, s)
    | (some v, s) => (some (waitHolds p.bytes v), s)
  | 3 => (some (q.done == p.index), s)
  | 4 =>
    let num := ((packetWord p.bytes 8).extractLsb' 0 14).toNat
    (some (!(s.queue? num).any (fun r => r.held) || !s.gangs.any fun g => g.queue == some num && g.core.isSome), s)
  | _ => (some true, s)

/-- What follows a packet's completion: the staged reductions of a LAUNCH's own teams are applied and the launch is
forgotten; a WAIT acquires (R312, R323). -/
def State.afterPacket (s : State) (q : Queue) (p : Started) : State :=
  match p.kind.toNat with
  | 1 =>
    let s := (s.forceBelow s.pubSeq).settleLaunch (q.num, p.index.toNat)
    { s with launches := s.launches.filter fun l => !(l.queue == q.num && l.packet == p.index) }
  | 2 => s.forceBelow s.pubSeq
  | _ => s

/-- Completes the first of some started packets whose condition holds; a WAIT whose word cannot be read halts the
queue (R434). -/
def completeFirst (q : Queue) : List Started → State → Option State
  | [], _ => none
  | p :: ps, s =>
    if p.complete then completeFirst q ps s
    else
      match s.packetDone q p with
      | (none, s) => if q.halt then completeFirst q ps s else some (s.haltQueue q.num 0x1A7)
      | (some true, s) => some ((s.afterPacket q p).finishPacket q.num p.index)
      | (some false, s) => completeFirst q ps s

/-- A packet of a queue completes (R312). -/
def completionEvent (num : Nat) : M Unit := do
  let s ← get
  match s.queue? num with
  | none => M.idle
  | some q =>
    match completeFirst q q.started s with
    | none => M.idle
    | some s => set s

/-! ## Doorbells (R311) -/

/-- A queue with work that has no slot waits from now on (R317). -/
def Queue.beginWait (q : Queue) (tick : Nat) : Queue :=
  if q.slot.isNone && q.rd == q.db && q.started.isEmpty then { q with waitFrom := tick, raised := 0 } else q

/-- The HQS sees a doorbell value. -/
def State.seeDoorbell (s : State) (q : Queue) (db : Word) : State :=
  if q.db.toNat < db.toNat then s.putQueue { q.beginWait s.tick.toNat with db := db } else s

/-- The HQS reads DB of a queue's descriptor at its home: a raised one is seen, and a translation fault halts the queue
(R311, R434). -/
def pollEvent (num : Nat) : M Unit := do
  let s ← get
  match s.queue? num with
  | none => M.idle
  | some q =>
    if q.halt then M.idle
    match s.hqsWord q.tenant (q.desc + 0x20) with
    | (none, s) => set (s.haltQueue num 0x1A7)
    | (some db, s) =>
      if db.toNat ≤ q.db.toNat then M.idle
      set (s.seeDoorbell q db)

/-- A doorbell: a producer raises DB at its home, and the HQS may read the packets behind it. -/
def doorbellEvent (num : Nat) (db : Word) : M Unit := do
  let s ← get
  match s.queue? num with
  | none => M.idle
  | some q =>
    if db.toNat ≤ q.db.toNat then M.idle
    match s.descWrite q 0x20 db with
    | (false, s) => set (s.haltQueue num 0x1A7)
    | (true, s) => set (s.seeDoorbell q db)

/-! ## Hardware slots (R317) -/

/-- Whether a queue has work: packets to read or in progress, or gangs. -/
def State.hasWork (s : State) (q : Queue) : Bool :=
  (!q.halt && decide (q.rd.toNat < q.db.toNat)) || !q.started.isEmpty || s.gangs.any fun g => g.queue == some q.num

/-- Whether a bound queue must stay bound: it has gangs resident or packets pending. -/
def State.staysBound (s : State) (q : Queue) : Bool :=
  (!q.halt && decide (q.rd.toNat < q.db.toNat)) || !q.started.isEmpty ||
    s.gangs.any fun g => g.queue == some q.num && g.core.isSome

/-- Effective priority. -/
def Queue.effective (q : Queue) : Nat := min 3 (q.prio.toNat + q.raised)

/-- The bound queue of lowest effective priority, the longest bound of equals. -/
def lowestBound (qs : List Queue) : Option Queue :=
  qs.foldl (fun (m : Option Queue) q =>
    match m with
    | none => some q
    | some b =>
      if q.effective < b.effective || (q.effective == b.effective && decide (q.boundAt < b.boundAt)) then some q
      else m) none

/-- The bound queue whose slot a waiting queue takes (R317). -/
def State.displaced (s : State) (q : Queue) : Option Queue :=
  let bound := s.queues.filter fun r => r.slot.isSome
  match lowestBound bound with
  | none => none
  | some b =>
    if b.effective < q.effective then some b
    else lowestBound (bound.filter fun r => r.effective == q.effective && r.sliceOver)

/-- Takes a queue's slot. -/
def Queue.unbind (q : Queue) (tick : Nat) : Queue := { q with slot := none, sliceOver := false, waitFrom := tick, raised := 0 }

/-- Gives a queue a slot. -/
def Queue.bindTo (q : Queue) (k tick : Nat) : Queue := { q with slot := some k, boundAt := tick, sliceOver := false }

/-- A queue with work binds to a slot: a free one, or that of the queue it displaces, whose gangs are pre-empted
(R302, R317). -/
def bindEvent (num : Nat) : M Unit := do
  let s ← get
  match s.queue? num with
  | none => M.idle
  | some q =>
    let now := s.tick.toNat
    if q.slot.isSome || !s.hasWork q then M.idle
    let s := { s with queues := s.queues.map fun (r : Queue) =>
      if r.slot.isSome && !s.staysBound r then r.unbind now else r }
    let used := s.queues.filterMap fun r => r.slot
    match (List.range 64).find? fun k => !used.contains k with
    | some k => set (s.putQueue (q.bindTo k now))
    | none =>
      match s.displaced q with
      | none => M.idle
      | some v =>
        match v.slot with
        | none => M.idle
        | some k => set ((s.putQueue (v.unbind now)).putQueue (q.bindTo k now))

/-- A queue's time slice in ticks. -/
def Queue.sliceTicks (q : Queue) : Nat := q.slice.toNat * 1000

/-- A bound queue's time slice expires (R317). -/
def sliceEvent (num : Nat) : M Unit := do
  let s ← get
  match s.queue? num with
  | none => M.idle
  | some q =>
    if q.slot.isNone || q.sliceOver || s.tick.toNat < q.boundAt + q.sliceTicks then M.idle
    set (s.putQueue { q with sliceOver := true })

/-- A waiting queue's effective priority rises by 1 for each 8 slices it has waited (R317). -/
def ageingEvent (num : Nat) : M Unit := do
  let s ← get
  match s.queue? num with
  | none => M.idle
  | some q =>
    if q.slot.isSome || !s.hasWork q || 3 ≤ q.prio.toNat + q.raised ||
        s.tick.toNat < q.waitFrom + 8 * q.sliceTicks * (q.raised + 1) then M.idle
    set (s.putQueue { q with raised := q.raised + 1 })

/-! ## Placement (R314, R317, R319) -/

/-- The launch of a queue whose gangs are placed next: its oldest one with gangs to place. -/
def State.nextLaunch (s : State) (num : Nat) : Option Launch :=
  (s.launches.filter fun l => l.queue == num).find? fun l => !l.isPlaced

/-- The bound queues that place gangs, highest PRIO first and in rotating slot order within one priority. -/
def State.placingQueues (s : State) : List Queue :=
  let turn (q : Queue) : Nat := (q.slot.getD 0 + 127 - s.lastQueueSlot) % 64
  sortBy (fun a b : Queue => decide (b.prio.toNat < a.prio.toNat) || (a.prio == b.prio && decide (turn a < turn b)))
    (s.queues.filter fun q => q.slot.isSome && !q.held && !s.owesGangs q.num)

/-- Whether an MDEV launch is past the tick by which its members must be placed (R315). -/
def State.tooLate (s : State) (l : Launch) : Bool := l.mdev && decide (l.tick.toNat ≤ s.tick.toNat + 1000)

/-- Places the next gang that fits of some queues. -/
def placeFirst : List Queue → State → Option State
  | [], _ => none
  | q :: qs, s =>
    match (s.nextLaunch q.num).bind fun l => if s.tooLate l then none else s.placeLaunch l with
    | some s => some { s with lastQueueSlot := q.slot.getD s.lastQueueSlot }
    | none => placeFirst qs s

/-- The work distributor places a waiting gang (R319). -/
def placementEvent : M Unit := do
  let s ← get
  if s.thermal.stopped then M.idle
  match placeFirst s.placingQueues s with
  | none => M.idle
  | some s => set s

/-! ## Multi-device groups (R315) -/

/-- Dissolves a launch's gangs before they have started, and lets it place no more. -/
def State.withdraw (s : State) (l : Launch) : State :=
  let gs := (s.gangs.filter fun g => g.queue == some l.queue && g.packet == some l.packet.toNat).map fun g => g.uid
  (gs.foldl State.retireGang s).setLaunch { l with placed := l.gangs, dissolved := l.gangs }

/-- Whether a launch is of a multi-device group that has not started. -/
def State.unstarted (s : State) (l : Launch) : Bool :=
  l.mdev && (!l.isPlaced || s.gangs.any fun g => g.queue == some l.queue && g.packet == some l.packet.toNat && s.heldBack g.uid)

/-- At TICK the members of a placed group start, on a device within the Meridian bound (R315, R418). -/
def groupStartEvent (group : Nat) : M Unit := do
  let s ← get
  match s.group? group with
  | none => M.idle
  | some gr =>
    match gr.startAt with
    | none => M.idle
    | some at_ =>
      if s.tick.toNat < at_.toNat || !s.inBound then M.idle
      let s := s.putGroup { gr with startAt := none }
      set { s with teams := s.teams.map fun (t : Team) =>
        if gr.members.contains t.gang then { t with retireAt := s.tick.toNat, starveAt := s.tick.toNat } else t }

/-- Whether another device has placed members of a launch's group at another level or checked mode (R403). -/
def State.misleveled (s : State) (l : Launch) : Bool :=
  s.startReports.any fun r => r.1 == l.tag && r.2.1 == l.tick && (r.2.2.1 != l.level || r.2.2.2 != l.checked)

/-- A queue's multi-device launch that misses its start: not placed by TICK − 1,000, the device out of bound, or placed
at another level or checked mode than on another device (R315, R403, R418). -/
def State.missing (s : State) (num : Nat) : Option Launch :=
  s.launches.find? fun l =>
    l.queue == num && s.unstarted l &&
      ((s.tooLate l && (!l.isPlaced || !s.inBound)) || (l.isPlaced && s.misleveled l))

/-- A missed start: no member issues, the queue halts, and every device of the group is told (R315). -/
def missedStartEvent (num : Nat) : M Unit := do
  let s ← get
  match s.missing num with
  | none => M.idle
  | some l => set (((s.withdraw l).haltQueue num 0x1A3).tellAll (.missedStart l.tag l.tick))

/-- The launch of this device that another device's report of a missed start names (R315). -/
def State.reportedLaunch (s : State) (tag : BitVec 32) (tick : Word) : Option Launch :=
  s.launches.find? fun l => s.unstarted l && l.tag == tag && l.tick == tick

/-- Another device's report of a missed start: this device's members dissolve unstarted (R315), and where the levels or
checked modes differ the queue halts on this device too (R403). -/
def State.hearMissed (s : State) (tag : BitVec 32) (tick : Word) : State :=
  match s.reportedLaunch tag tick with
  | none => s
  | some l => if s.misleveled l then (s.withdraw l).haltQueue l.queue 0x1A3 else s.withdraw l

/-- Another device's start report, kept until its TICK (R315, R403). -/
def State.hearPlaced (s : State) (tag : BitVec 32) (tick : Word) (level : BitVec 2) (checked : Bool) : State :=
  { s with startReports := (tag, tick, level, checked) ::
      s.startReports.filter fun r => decide (s.tick.toNat ≤ r.2.1.toNat) }

/-- A report of a missed start arrives. -/
def missedReportEvent (tag : BitVec 32) (tick : Word) : M Unit := do
  let s ← get
  if (s.reportedLaunch tag tick).isNone then M.idle
  set (s.hearMissed tag tick)

/-! ## The events -/

/-- A producer raises DB (R311). -/
def execQueueDoorbell (queue : Nat) (db : BitVec 64) (s : State) : Host.Outcome State Fault Refusal :=
  event (doorbellEvent queue db) s

/-- NOP (R312). -/
def execNopPacket (queue : Nat) (s : State) : Host.Outcome State Fault Refusal := event (startPacket queue 0 startNop) s

/-- LAUNCH (R313). -/
def execLaunchPacket (queue : Nat) (s : State) : Host.Outcome State Fault Refusal :=
  event (startPacket queue 1 startLaunch) s

/-- WAIT (R316). -/
def execWaitPacket (queue : Nat) (s : State) : Host.Outcome State Fault Refusal := event (startPacket queue 2 startWait) s

/-- LEVEL (R316). -/
def execLevelPacket (queue : Nat) (s : State) : Host.Outcome State Fault Refusal :=
  event (startPacket queue 3 startLevel) s

/-- HOLD (R316). -/
def execHoldPacket (queue : Nat) (s : State) : Host.Outcome State Fault Refusal := event (startPacket queue 4 startHold) s

/-- SIGNAL (R316). -/
def execSignalPacket (queue : Nat) (s : State) : Host.Outcome State Fault Refusal :=
  event (startPacket queue 5 startSignal) s

/-- A packet completes (R312). -/
def execPacketCompletion (queue : Nat) (s : State) : Host.Outcome State Fault Refusal := event (completionEvent queue) s

/-- A queue binds to a hardware slot (R317). -/
def execQueueBind (queue : Nat) (s : State) : Host.Outcome State Fault Refusal := event (bindEvent queue) s

/-- A time slice expires (R317). -/
def execSliceExpiry (queue : Nat) (s : State) : Host.Outcome State Fault Refusal := event (sliceEvent queue) s

/-- A waiting queue ages (R317). -/
def execPriorityAgeing (queue : Nat) (s : State) : Host.Outcome State Fault Refusal := event (ageingEvent queue) s

/-- A waiting gang is placed (R319). -/
def execGangPlacement (s : State) : Host.Outcome State Fault Refusal := event placementEvent s

/-- A multi-device group starts (R315). -/
def execGroupStart (group : Nat) (s : State) : Host.Outcome State Fault Refusal := event (groupStartEvent group) s

/-- A multi-device launch misses its start (R315). -/
def execGroupMissedStart (queue : Nat) (s : State) : Host.Outcome State Fault Refusal := event (missedStartEvent queue) s

/-- Another device reports a missed start (R315). -/
def execMissedStartReport (tag : BitVec 32) (tick : BitVec 64) (s : State) : Host.Outcome State Fault Refusal :=
  event (missedReportEvent tag tick) s

end Sys2Proof.Machine
end

