-- ==== Sys2Proof/Machine/System.lean ====
section
/-!
DEFINITION. Register growth, control registers, traps and returns, translation maintenance: majors 54 and 55
(03_registers.md R61 to R63; 15_system_traps.md R293 to R301).
-/

namespace Sys2Proof.Machine

/-! ## vgrow and vshrink (R61, R62) -/

/-- The target count of a G field. -/
def growTarget (g : BitVec 3) : Nat := 8 * (g.toNat + 1)

/-- Whether another team of the core with a smaller key waits to grow (R62). -/
def State.growerBefore (s : State) (t : Team) : Bool :=
  (s.teamsOn t.core).any fun u => u.id != t.id && decide (u.key.toNat < t.key.toNat) &&
    (match u.arm.wait with
      | some (.grow _) => true
      | _ => false)

/-- Whether a growth to n registers is granted now (R62, R63). -/
def State.mayGrow (s : State) (t : Team) (n : Nat) : Bool :=
  !s.growerBefore t && !s.owesRestore t.core &&
    decide (teamCharge (n - t.vcnt) t.size ≤ s.freeRf t.core)

/-- `vgrow` (R62). -/
def growRegs (g : BitVec 3) (t : Team) : M Done := do
  M.emptyStack t
  let n := growTarget g
  M.gate t
  if n ≤ t.vcnt then return .next
  else
    M.stopIf (!(← get).mayGrow t n) (.wait (.grow n))
    M.modTeam t.id fun u => { u with vcnt := n }
    return .next

/-- Registers from n on hold uniform 0 with tag b32, as a growth finds them (R62). -/
def Team.shrinkTo (t : Team) (n : Nat) : Team :=
  { t with vcnt := n, v := Vector.ofFn fun i : Fin 64 => if i.val < n then t.v[i.val] else VReg.zero }

/-- Whether an outstanding instruction still has to write a register from n on (R62). -/
def Team.loadsInto (t : Team) (n : Nat) : Bool :=
  t.pend.any fun p =>
    match p.target with
    | some (.v r) => decide (n ≤ r + (if p.pair then 1 else 0))
    | _ => false

/-- `vshrink` (R62). -/
def shrinkRegs (g : BitVec 3) (t : Team) : M Done := do
  M.emptyStack t
  let n := growTarget g
  M.gate t
  if t.vcnt ≤ n then return .next
  else
    M.stopIf (t.loadsInto n) (.wait .register)
    M.modTeam t.id fun u => u.shrinkTo n
    modify fun s => s.seatCore t.core
    return .next

/-! ## Control registers (R294, R295) -/

/-- Whether a register is at system level for a read, or for a write (R294). -/
def systemReg (r : CtlReg) (write : Bool) : Bool :=
  match r with
  | .pathq | .xfill | .vacant | .mxs | .logt | .om => false
  | .tstat => write
  | _ => true

/-- A user-level team may not use a system instruction or register: the class 0 trap with the instruction word
(R161, R293, R370). -/
def M.system (t : Team) (word : BitVec 32) : M Unit :=
  M.stopIf (!t.isSystem) (trapWith 0x006 (word.setWidth 64))

/-- A word of a mask register: a leaf word, or the summary (R23). -/
def ctlMaskWord (m : Mask) (k : Nat) : Word := if k < 32 then (leafWord m k).setWidth 64 else (summaryWord m).setWidth 64

/-- A word of a control register (R294). -/
def State.ctlRead (s : State) (t : Team) (r : CtlReg) (k : Nat) : Word :=
  let c := s.core t.core
  match r with
  | .pathq => t.pathq
  | .xfill => t.xfill
  | .vacant => ctlMaskWord t.vacant k
  | .mxs => t.mxs
  | .logt => t.logt
  | .om => t.om.getD k 0
  | .tstat => t.tstat
  | .dbgctl => t.dbgctl
  | .tvec => c.tvec
  | .cause => c.cause
  | .epc => c.epc
  | .eaddr => c.eaddr
  | .emask => ctlMaskWord c.emask k
  | .ttbase => ((s.gangOf? t).map fun g => g.ttbase).getD 0

/-- The RW bits of a one-word register; KSW is writable only while INH = 1 (R293). -/
def rwBits (t : Team) (r : CtlReg) : Word :=
  match r with
  | .pathq => 0xFFFF
  | .xfill => 0xFFFFFFFF
  | .mxs => 8
  | .tstat => if t.inh then 0x80 else 0
  | .dbgctl => 6
  | .tvec => 0x01FFFFFFFFFFFFFF
  | .epc | .eaddr => 0xFFFFFFFFFFFFFFFF
  | .ttbase => 0x0000FFFFFFFFFF01
  | .vacant | .logt | .om | .cause | .emask => 0

/-- The bits of a one-word register that a 1 clears, and those that a 1 sets (R251, R300). -/
def w1cBits (r : CtlReg) : Word := if r == .mxs then 7 else 0
def rsBits (r : CtlReg) : Word := if r == .dbgctl then 1 else 0

/-- Replaces a one-word register. -/
def State.ctlSet (s : State) (t : Team) (r : CtlReg) (x : Word) : State :=
  match r with
  | .pathq => s.modTeam t.id fun u => { u with pathq := x }
  | .xfill => s.modTeam t.id fun u => { u with xfill := x }
  | .mxs => s.modTeam t.id fun u => { u with mxs := x }
  | .tstat => s.modTeam t.id fun u => { u with tstat := x }
  | .dbgctl => s.modTeam t.id fun u => { u with dbgctl := x }
  | .tvec => s.modCore t.core fun c => { c with tvec := x }
  | .epc => s.modCore t.core fun c => { c with epc := x }
  | .eaddr => s.modCore t.core fun c => { c with eaddr := x }
  | .ttbase => { s with gangs := s.gangs.map fun (g : Gang) => if g.uid == t.gang then { g with ttbase := x } else g }
  | .vacant | .logt | .om | .cause | .emask => s

/-- The new value of a one-word register that is written with a value, field by field (R3). -/
def fieldWrite (t : Team) (r : CtlReg) (old a : Word) : Word :=
  let rw := rwBits t r
  ((((old &&& ~~~rw) ||| (a &&& rw)) &&& ~~~(a &&& w1cBits r)) ||| (a &&& rsBits r))

/-- Writes a word of a control register under its access codes (R3, R295). The summary word of EMASK follows from its
leaf words (R23), so a write to it changes nothing (log 64). -/
def State.ctlWrite (s : State) (t : Team) (r : CtlReg) (k : Nat) (a : Word) : State :=
  match r with
  | .vacant =>
    if k < 32 then
      s.modTeam t.id fun u => { u with vacant := setLeaf u.vacant k (leafWord u.vacant k &&& ~~~(a.setWidth 32)) }
    else s
  | .emask => if k < 32 then s.modCore t.core fun c => { c with emask := setLeaf c.emask k (a.setWidth 32) } else s
  | .om => s
  | _ => s.ctlSet t r (fieldWrite t r (s.ctlRead t r 0) a)

/-- The word index of a register of several words; one beyond it is a class 1 trap (R294, R371). -/
def M.wordIndex (r : CtlReg) (a : Word) : M Nat := do
  M.stopIf (decide (r.words ≤ a.toNat)) (trapWith 0x048 0)
  return a.toNat

/-- `crr` (R295). -/
def readControl (r : CtlReg) (sa : SSrc) (sd : BitVec 6) (t : Team) : M Done := do
  if systemReg r false then M.system t (encodeWord (.crr r sa sd))
  let a ← M.read t fun v => do
    let a ← if r.words = 1 then pure 0 else v.readS posSA sa
    v.checkS posD sd
    return a
  let k ← M.wordIndex r a
  if r == .mxs then M.afterPasses t
  let s ← get
  match s.team? t.id with
  | none => throw (.wait .other)
  | some u => M.regs t fun v => .ok (v.setS sd (s.ctlRead u r k))
  return .next

/-- `crw` (R295). -/
def writeControl (r : CtlReg) (sa : SSrc) (sd : BitVec 6) (t : Team) : M Done := do
  if systemReg r true then M.system t (encodeWord (.crw r sa sd))
  let (a, x) : Word × Word ← M.read t fun v => do
    let a ← v.readS posSA sa
    if r.words = 1 then return (a, 0)
    else
      v.checkS posD sd
      return (a, v.scalar sd)
  let k ← M.wordIndex r x
  if r == .mxs then M.afterPasses t
  modify fun s => s.ctlWrite t r k a
  return .next

/-- `crs` and `crc` (R295); `f` gives the RW fields' new value from the old value and the mask. -/
def changeControl (word : BitVec 32) (f : Word → Word → Word) (r : CtlReg) (sa : SSrc) (sd : BitVec 6) (t : Team) :
    M Done := do
  M.stopIf (r.words != 1) (trapWith 0x008 (word.setWidth 64))
  if systemReg r true then M.system t word
  let a ← M.read t fun v => do
    let a ← v.readS posSA sa
    v.checkS posD sd
    return a
  if r == .mxs then M.afterPasses t
  let old := (← get).ctlRead t r 0
  M.regs t fun v => .ok (v.setS sd old)
  let rw := rwBits t r
  modify fun s => s.ctlSet t r ((old &&& ~~~rw) ||| (f old a &&& rw))
  return .next

/-! ## Traps and returns (R299, R300) -/

/-- `rte` (R299): system level, then a handler, then the four counters. -/
def returnFromTrap (t : Team) : M Done := do
  M.system t (asmE 0 0 0 4 55)
  M.stopIf (!t.inh) (trapWith 0x009 ((asmE 0 0 0 4 55).setWidth 64))
  M.stopIf (t.ld != 0 || t.ap != 0 || t.en != 0 || t.xl != 0) (.wait .other)
  modify fun s => s.returnTrap t.id
  return .moved

/-- `brk` (R300): a debug stop with a debugger attached, otherwise as `trap`. -/
def breakPoint (n : BitVec 7) (t : Team) : M Done :=
  return if t.dbgctl.getLsbD 1 then .stopAfter 0x0BE (n.setWidth 64) else .trapAfter 0x0BE (n.setWidth 64)

/-! ## Translation maintenance (R301) -/

/-- The release of `tcinv` and `tcinva`: what the team has appended is applied at its homes (R301). -/
def M.publishAll (t : Team) : M Unit := do
  M.stopIf (t.ap != 0) (.wait .sync)
  M.bind t
  modify fun s => s.recordPending t.id
  if 1 ≤ (← get).levelOf t then M.flush t .logFull fun e => e.team == t.id
  modify fun s => s.publishAndWait t.id .device

/-- Removes the cached translations that satisfy `p` from the cores of a team's instance of a scope (R301). -/
def State.dropCached (s : State) (t : Team) (sc : Scope) (p : CachedTr → Bool) : State :=
  { s with cores := s.cores.map fun c =>
      if scopeShares sc c.n 0 t.core 1 then { c with tc := c.tc.filter fun d => !p d } else c }

/-- `tcinv` (R301). -/
def invalidatePage (sc : Scope) (sa : SSrc) (t : Team) : M Done := do
  M.system t (asmE (0#4 ++ sc.code : BitVec 7) sa.bits 0 7 55)
  let a ← M.read t fun v => v.readS posSA sa
  M.publishAll t
  let tenant := (((← get).gangOf? t).map fun g => g.ttbase.extractLsb' 8 8).getD 0
  modify fun s => s.dropCached t sc fun d => d.covers tenant (devOf a) (localOf a)
  return .next

/-- `tcinva` (R301). -/
def invalidateTenant (sc : Scope) (sa : SSrc) (t : Team) : M Done := do
  M.system t (asmE (0#4 ++ sc.code : BitVec 7) sa.bits 0 8 55)
  let a ← M.read t fun v => v.readS posSA sa
  M.stopIf (a.extractLsb' 9 55 != 0) (trapWith 0x0C9 a)
  M.publishAll t
  modify fun s => s.dropCached t sc fun d => a.getLsbD 8 || d.tenant == a.extractLsb' 0 8
  return .next

/-! ## The instructions -/

/-- `vgrow` (R62). -/
def execVgrow (g : BitVec 3) (s : State) : Host.Outcome State Fault Refusal := issue 4 (growRegs g) s

/-- `vshrink` (R62). -/
def execVshrink (g : BitVec 3) (s : State) : Host.Outcome State Fault Refusal := issue 4 (shrinkRegs g) s

/-- `crr` (R295). -/
def execCrr (cr : CtlReg) (sa : SSrc) (sd : BitVec 6) (s : State) : Host.Outcome State Fault Refusal :=
  issue 4 (readControl cr sa sd) s

/-- `crw` (R295). -/
def execCrw (cr : CtlReg) (sa : SSrc) (sd : BitVec 6) (s : State) : Host.Outcome State Fault Refusal :=
  issue 4 (writeControl cr sa sd) s

/-- `crs` (R295). -/
def execCrs (cr : CtlReg) (sa : SSrc) (sd : BitVec 6) (s : State) : Host.Outcome State Fault Refusal :=
  issue 4 (changeControl (encodeWord (.crs cr sa sd)) (fun old a => old ||| a) cr sa sd) s

/-- `crc` (R295). -/
def execCrc (cr : CtlReg) (sa : SSrc) (sd : BitVec 6) (s : State) : Host.Outcome State Fault Refusal :=
  issue 4 (changeControl (encodeWord (.crc cr sa sd)) (fun old a => old &&& ~~~a) cr sa sd) s

/-- `rte` (R299). -/
def execRte (s : State) : Host.Outcome State Fault Refusal := issue 4 returnFromTrap s

/-- `trap` (R299). -/
def execTrap (n : BitVec 7) (s : State) : Host.Outcome State Fault Refusal :=
  issue 4 (fun _ => return .trapAfter 0x0BF (n.setWidth 64)) s

/-- `brk` (R300). -/
def execBrk (n : BitVec 7) (s : State) : Host.Outcome State Fault Refusal := issue 4 (breakPoint n) s

/-- `tcinv` (R301). -/
def execTcinv (sc : Scope) (sa : SSrc) (s : State) : Host.Outcome State Fault Refusal := issue 4 (invalidatePage sc sa) s

/-- `tcinva` (R301). -/
def execTcinva (sc : Scope) (sa : SSrc) (s : State) : Host.Outcome State Fault Refusal :=
  issue 4 (invalidateTenant sc sa) s

end Sys2Proof.Machine
end

