-- ==== Sys2Proof/Machine/Management.lean ====
section
/-!
DEFINITION. The management path: registrations, tenants, debugging, jobs, the answers to parked teams, writes of
registers by software and the debug port, and the translation service (04_numbers.md R3; 05_memory_hierarchy.md R95,
R96; 15_system_traps.md R300; 16_scheduling.md R310; 17_determinism.md R331; 18_platform.md R341, R351 to R354;
23_faults_execution.md R374; 24_faults_memory.md R382, R385, R394; 25_faults_engines_scheduling.md R402;
28_grammar.md R428).
-/

namespace Sys2Proof.Machine

/-! ## Requests (R341) -/

/-- A request on the runtime's ring completes with a status; 0 means done. -/
def State.complete (s : State) (status : BitVec 32) : State := { s with mailbox := status :: s.mailbox }

/-- A request on Lodestar's ring completes with a status. -/
def State.sealed (s : State) (status : BitVec 32) : State := { s with lodestarBox := status :: s.lodestarBox }

/-- A request to the runtime that is refused changes nothing else; and one to Lodestar. -/
def M.refuse : M Unit := modify fun s => s.complete 1
def M.unsealed : M Unit := modify fun s => s.sealed 1

/-- A request that is done. -/
def M.done : M Unit := modify fun s => s.complete 0

/-- The steps of bring-up after which the runtime serves requests, the host endpoint and root ports have trained, the
link ports have, and the HQS accepts registrations (R359). -/
def runtimeUp : Nat := 4
def hostUp : Nat := 5
def linksUp : Nat := 6
def broughtUp : Nat := 7

/-- Nothing answers before a step of bring-up has succeeded (R349, R359). -/
def M.up (step : Nat) : M Unit := do if (← get).bringup < step then M.idle

/-- A request that the runtime or, by way of it, Lodestar serves. -/
def request (m : M Unit) : M Unit := do
  M.up runtimeUp
  m

/-- Reads an 8-byte field of a record. -/
def recordWord (bs : List Byte) (off : Nat) : Word := BitVec.ofNat 64 (fieldOf bs off 8)

/-- Whether a ring base is 4 KiB aligned and on this device (R310, R382). -/
def State.ringBase (s : State) (a : Word) : Bool :=
  a.extractLsb' 0 12 == 0 && validAddr a && devOf a == s.dev.toNat

/-! ## Queues (R310, R331, R402) -/

/-- Queue numbers of the HQS queue table (R310). -/
def queueNumbers : Nat := 16384

/-- Whether a descriptor has a flaw for which registration fails (R310). -/
def State.queueFlaw (s : State) (tenant : BitVec 8) (bs : List Byte) : Bool :=
  let w := recordWord bs 8
  let n := (w.extractLsb' 0 5).toNat
  !s.ringBase (recordWord bs 0) || decide (n < 6) || decide (20 < n) || w.extractLsb' 32 32 == 0 ||
    w.extractLsb' 19 13 != 0 || (recordWord bs 0x28).extractLsb' 9 54 != 0 || fieldOf bs 0x30 16 != 0 ||
    w.extractLsb' 8 8 != tenant || !(s.tenant tenant).created

/-- The queue a descriptor describes, with RD, DONE, HALT and CODE at 0. -/
def queueOf (num : Nat) (desc : Word) (bs : List Byte) : Queue :=
  let w := recordWord bs 8
  { num := num, desc := desc, ring := recordWord bs 0, slice := w.extractLsb' 32 32, tenant := w.extractLsb' 8 8
    sys := w.getLsbD 7, prio := w.extractLsb' 5 2, log2sz := (w.extractLsb' 0 5).toNat, level := w.extractLsb' 16 2
    checked := w.getLsbD 18, rd := 0, done := 0, db := recordWord bs 0x20, halt := false, code := 0, started := []
    held := false, slot := none, boundAt := 0, waitFrom := 0, raised := 0, sliceOver := false, check := CheckRec.zero
    badCheck := false }

/-- Registers a queue: RD, DONE and the HALT word of its descriptor become 0, and at level 3 its check record is
read (R310, R331). -/
def State.addQueue (s : State) (q : Queue) : State :=
  let s := { s with queues := s.queues ++ [{ q with waitFrom := s.tick.toNat }] }
  let s := ((s.descSet q 0x10 0).descSet q 0x18 0).descSet q 0x28 0
  match s.queue? q.num with
  | some r => if r.level == 3 then s.loadCheck r else s
  | none => s

/-- A user queue is registered; the request names the tenant whose tables reach the descriptor (R310, R434). -/
def registerQueue (num : Nat) (tenant : BitVec 8) (desc : Word) : M Unit := do
  let s ← get
  if s.bringup < broughtUp || queueNumbers ≤ num || (s.queue? num).isSome then M.refuse
  else
    match s.hqsRead tenant desc 64 with
    | (some (bs, false), s) =>
      if s.queueFlaw tenant bs then M.refuse else set ((s.addQueue (queueOf num desc bs)).complete 0)
    | _ => M.refuse

/-- Whether a queue has unread packets or packets in progress. -/
def Queue.pending (q : Queue) : Bool := decide (q.rd.toNat < q.db.toNat) || !q.started.isEmpty

/-- A queue is deregistered: a halted one discards its unread packets; one that runs must have none. Its resident
gangs run on (R401, R402). -/
def deregisterQueue (num : Nat) : M Unit := do
  let s ← get
  match s.queue? num with
  | none => M.refuse
  | some q =>
    if !q.halt && q.pending then M.refuse
    else
      set ({ s with
        queues := s.queues.filter fun r => r.num != num
        launches := s.launches.filter fun l => l.queue != num
        gangs := s.gangs.map fun (g : Gang) =>
          if g.queue == some num then { g with queue := none, packet := none } else g }.complete 0)

/-- A halted queue is recovered: HALT and CODE are cleared, and the packet at RD is read again (R402). -/
def recoverQueue (num : Nat) : M Unit := do
  let s ← get
  match s.queue? num with
  | none => M.refuse
  | some q =>
    let q := { q with halt := false, code := 0 }
    set (((s.putQueue q).complete 0).descSet q 0x28 0)

/-- A queue's check record is registered; a queue of level 3 reads it now (R331). -/
def registerCheck (num : Nat) (addr : Word) : M Unit := do
  let s ← get
  if queueNumbers ≤ num then M.refuse
  else
    let s := { s with checkRecords := (num, addr) :: s.checkRecords.filter fun p => p.1 != num }.complete 0
    set (match s.queue? num with
      | some q => if q.level == 3 then s.loadCheck q else s
      | none => s)

/-! ## Tenants (R95, R351, R374, R394, R428) -/

/-- The pages a table maps: base and size of each valid leaf's page (R93). -/
def State.mappedBy (s : State) : Nat → Nat → List (Nat × Nat)
  | level, table =>
    let entry (i : Nat) : BitVec 64 :=
      BitVec.ofNat 64 (natOfBytes (Memory.readBytes s.mem (memKey s.dev.toNat (table + 8 * i)) 8))
    ((List.range (levelEntries level)).map entry).flatMap fun e =>
      let next := (e.extractLsb' 16 32).toNat * 2 ^ 16
      if !e.getLsbD 0 then []
      else if e.getLsbD 3 then [(next, 2 ^ levelShift level)]
      else
        match level with
        | 0 => []
        | level + 1 => s.mappedBy level next
termination_by structural level => level

/-- A deleted tenant's memory reads as undecryptable data: what its key holds on this device, and the other granules
of the pages its tables map, whatever they hold (R351, log 55). -/
def State.scramble (s : State) (tenant : BitVec 8) (pages : List (Nat × Nat)) : State :=
  let mine (h : Nat × Holder) : Bool := h.2 == .tenant tenant && h.1 / 2 ^ 47 == s.dev.toNat
  { s with
    held := s.held.map fun (h : Nat × Holder) => if mine h then (h.1, .lost) else h
    lostPages := s.lostPages ++ pages.map fun (p : Nat × Nat) => (memKey s.dev.toNat p.1, p.2) }

/-- Lodestar creates a tenant. -/
def createTenant (tenant : BitVec 8) : M Unit := do
  let s ← get
  if (s.tenant tenant).created then M.unsealed
  else set ((s.putTenant { s.tenant tenant with created := true }).sealed 0)

/-- Lodestar deletes a tenant: its key is destroyed (R351, R394). -/
def deleteTenant (tenant : BitVec 8) : M Unit := do
  let s ← get
  let t := s.tenant tenant
  if !t.created then M.unsealed
  else
    let pages := match t.root with
      | some r => s.mappedBy 3 ((r.extractLsb' 16 32).toNat * 2 ^ 16)
      | none => []
    set (((s.scramble tenant pages).putTenant { t with created := false, debug := false }).sealed 0)

/-- A tenant's root is registered (R95). -/
def registerRoot (tenant : BitVec 8) (root : Word) : M Unit :=
  modify fun s => (s.putTenant { s.tenant tenant with root := some root }).complete 0

/-- An image's list of entries is registered (R428). -/
def registerEntries (tenant : BitVec 8) (entries : List Word) : M Unit :=
  modify fun s =>
    let t := s.tenant tenant
    (s.putTenant { t with entries := t.entries ++ entries.filter fun e => !t.entries.contains e }).complete 0

/-- A tenant's watchdog exponent is set (R374). -/
def setWatchdog (tenant : BitVec 8) (wde : Nat) : M Unit := do
  if wde == 0 || (24 ≤ wde && wde ≤ 40) then
    modify fun s => (s.putTenant { s.tenant tenant with wde := wde }).complete 0
  else M.refuse

/-! ## The tenant fault queue (R382, R385, R434) -/

/-- Whether a fault queue descriptor is outside what R382 allows. -/
def State.faultQueueFlaw (s : State) (tenant : BitVec 8) (bs : List Byte) : Bool :=
  let w := recordWord bs 8
  !s.ringBase (recordWord bs 0) || !s.ringBase (recordWord bs 0x20) || w.extractLsb' 5 59 != 0 ||
    decide ((w.extractLsb' 0 5).toNat < 6) || decide (16 < (w.extractLsb' 0 5).toNat) || !(s.tenant tenant).created

/-- The fault queue a descriptor describes; one registered again keeps its counts and what is outstanding. -/
def faultQueueOf (desc : Word) (bs : List Byte) (old : Option FaultQueue) : FaultQueue :=
  { desc := desc, ring := recordWord bs 0, log2sz := ((recordWord bs 8).extractLsb' 0 5).toNat
    wr := (old.map fun q => q.wr).getD 0, rd := recordWord bs 0x18, ackRing := recordWord bs 0x20
    ackDb := recordWord bs 0x28, ackRd := (old.map fun q => q.ackRd).getD 0, badAck := false, ovf := false
    broken := false, outstanding := (old.map fun q => q.outstanding).getD [] }

/-- A tenant's fault queue is registered; what waits is written. -/
def registerFaultQueue (tenant : BitVec 8) (desc : Word) : M Unit := do
  let s ← get
  match s.hqsRead tenant desc 64 with
  | (some (bs, false), s) =>
    if s.faultQueueFlaw tenant bs then M.refuse
    else
      let q := faultQueueOf desc bs (s.tenant tenant).queue
      let s := s.flagFaultQueue tenant q
      let s := (s.hqsWrite tenant (desc + 0x10) (bytesOf 8 q.wr.toNat)).2
      let s := (s.hqsWrite tenant (desc + 0x30) (bytesOf 8 q.ackRd.toNat)).2
      set ((s.complete 0).flushFaults tenant)
  | _ => M.refuse

/-- Software raises RD of a fault queue; entries that wait are written. -/
def consumeFaults (tenant : BitVec 8) (rd : Word) : M Unit := do
  let s ← get
  match (s.tenant tenant).queue with
  | none => M.idle
  | some q =>
    match s.hqsWrite tenant (q.desc + 0x18) (bytesOf 8 rd.toNat) with
    | (false, s) => set (s.setFaultQueue tenant { q with broken := true })
    | (true, s) => set ((s.setFaultQueue tenant { q with rd := rd }).flushFaults tenant)

/-- Answers the team of an outstanding entry: at once, or at the restore of a saved gang (R385). -/
def State.ackTeam (s : State) (team : Nat) (act : BitVec 2) : State :=
  match s.team? team with
  | none => s
  | some t =>
    if s.gangResident t.gang then s.answerPark team act
    else
      let (n, s) := s.fresh
      s.modTeam team fun u => { u with acked := some (n, act) }

/-- Processes an ack word of a fault queue: whether it names an outstanding entry with a legal ACT (R385). -/
def State.processAck (s : State) (tenant : BitVec 8) (q : FaultQueue) (word : Word) : State :=
  let i := word &&& 0x0000FFFFFFFFFFFF
  let act := word.extractLsb' 62 2
  let q := { q with ackRd := q.ackRd + 1 }
  let bad : Bool := word.extractLsb' 48 14 != 0 || act == 3
  match q.outstanding.find? fun p => p.1 == i with
  | some (_, team) =>
    if bad then s.flagFaultQueue tenant { q with badAck := true }
    else (s.setFaultQueue tenant { q with outstanding := q.outstanding.filter fun p => p.1 != i }).ackTeam team act
  | none => s.flagFaultQueue tenant { q with badAck := true }

/-- Whether the ack ring of a tenant has a word to process, with ACKDB read at its home; none on a translation
fault. -/
def State.acksDue (s : State) (tenant : BitVec 8) : Option Bool × State :=
  match (s.tenant tenant).queue with
  | none => (some false, s)
  | some q =>
    if q.broken then (some false, s)
    else
      match s.hqsWord tenant (q.desc + 0x28) with
      | (none, s) => (none, s)
      | (some db, s) => (some (decide (q.ackRd.toNat < db.toNat)), s)

/-- The fault service processes the next ack word, with the writes its doorbell covers applied (R311, R385). -/
def ackEvent (tenant : BitVec 8) : M Unit := do
  let s ← get
  match (s.tenant tenant).queue with
  | none => M.idle
  | some q =>
    match (s.forceBelow s.pubSeq).acksDue tenant with
    | (none, s) => set (s.setFaultQueue tenant { q with broken := true })
    | (some false, _) => M.idle
    | (some true, s) =>
      match s.hqsWord tenant (q.ackRing + BitVec.ofNat 64 (8 * (q.ackRd.toNat % 2 ^ q.log2sz))) with
      | (none, s) => set (s.setFaultQueue tenant { q with broken := true })
      | (some w, s) =>
        let s := s.processAck tenant q w
        set (s.hqsWrite tenant (q.desc + 0x30) (bytesOf 8 (q.ackRd + 1).toNat)).2

/-! ## Debugging (R300, R354) -/

/-- A tenant is admitted to debugging, on a request signed with its debug key; its open jobs note it. -/
def admitDebug (tenant : BitVec 8) (signed : Bool) : M Unit := do
  let s ← get
  if !signed || !(s.tenant tenant).created then M.unsealed
  else
    let mine (j : Job) : Bool := (s.queue? j.queue).any fun q => q.tenant == tenant
    set (({ s with jobs := s.jobs.map fun (j : Job) => if mine j then { j with debug := true } else j }.putTenant
      { s.tenant tenant with debug := true }).sealed 0)

/-- The admission ends. -/
def endDebug (tenant : BitVec 8) : M Unit :=
  modify fun s => (s.putTenant { s.tenant tenant with debug := false }).sealed 0

/-- A team of a tenant that is admitted to debugging. -/
def M.debugged (team : Nat) : M Team := do
  let s ← get
  match s.team? team with
  | none => M.idle
  | some t => if (s.tenant (s.tenantOf t)).debug && !t.gone then return t else M.idle

/-- A team in a debug stop, with nothing of it outstanding. -/
def M.stopped (team : Nat) : M Team := do
  let t ← M.debugged team
  if t.status != .debugStop || t.ld != 0 || t.ap != 0 || t.en != 0 || t.xl != 0 then M.idle
  return t

/-- The port sets STOP. -/
def requestStop (team : Nat) : M Unit := do
  let t ← M.debugged team
  M.modTeam t.id fun u => { u with dbgctl := u.dbgctl ||| 1 }

/-- The port's continue command acts as `rte`. -/
def continueTeam (team : Nat) : M Unit := do
  let t ← M.stopped team
  modify fun s => s.returnTrap t.id

/-- The port's step command: `rte`, and a stop after one instruction. -/
def stepTeam (team : Nat) : M Unit := do
  let t ← M.stopped team
  modify fun s => (s.returnTrap t.id).modTeam t.id fun u => { u with stopNext := true }

/-! ## Writes of registers by software and the debug port (R3, R300, R382) -/

/-- Replaces one element of a vector register, which becomes general. -/
def VReg.write (r : VReg) (size l : Nat) (x : Elem) : VReg :=
  { r with shape := .general ((List.range size).map fun k => if k = l then x else r.read k)
           poison := r.poison &&& ~~~(maskOf [l]) }

/-- Whether a downstream function exists: function k of root port p has number 4p + k, and the port's setting says how
many it has (R339, log 75). -/
def State.functionExists (s : State) (n : Nat) : Bool :=
  match s.rootPorts[n / 4]? with
  | some (.x16, _) => decide (n % 4 < 1)
  | some (.x8, _) => decide (n % 4 < 2)
  | some (.x4, _) => true
  | none => false

/-- A write to a register with no row of its own: the debug port's, to a register of a stopped team or of the bank;
the runtime's, to an aperture (base and tenant) or a downstream function's tenant (R337, R339); the runtime of another
device of the domain's, to its TTBASE of a tenant (R93); or software's, to the flags of a fault queue. -/
def writeRegister (target : RegTarget) (value : Word) : M Unit := do
  match target with
  | .teamCr team r k =>
    let t ← M.debugged team
    if t.status != .debugStop || r.words ≤ k then M.idle
    modify fun s => s.ctlWrite t r k value
  | .teamScalar team r =>
    let t ← M.debugged team
    if t.status != .debugStop || t.scnt ≤ r.toNat then M.idle
    M.modTeam t.id fun u => { u with s := u.s.set r.toNat value }
  | .teamVector team r l =>
    let t ← M.debugged team
    if t.status != .debugStop || t.vcnt ≤ r.toNat || t.size ≤ l then M.idle
    M.modTeam t.id fun u => { u with v := u.v.set r.toNat ((u.v[r.toNat]).write u.size l (value.setWidth 32)) }
  | .teamMask team r k =>
    let t ← M.debugged team
    if t.status != .debugStop || 32 ≤ k then M.idle
    M.modTeam t.id fun u =>
      { u with m := u.m.set r.toNat (setLeaf u.m[r.toNat] k (value.setWidth 32) &&& maskBelow u.size) }
  | .teamOffset team r =>
    let t ← M.debugged team
    if t.status != .debugStop then M.idle
    M.modTeam t.id fun u =>
      { u with o := u.o.set r.toNat { u.o[r.toNat] with shape := .uniform (value.setWidth 32) } }
  | .teamNarrow team r =>
    let t ← M.debugged team
    if t.status != .debugStop then M.idle
    M.modTeam t.id fun u => { u with nf := u.nf.set r.toNat (value.setWidth 32 &&& nfFields) }
  | .teamMatrix team r =>
    let t ← M.debugged team
    if t.status != .debugStop then M.idle
    M.modTeam t.id fun u => { u with om := u.om.set r.toNat value }
  | .bankScalar team r =>
    let t ← M.debugged team
    if t.status != .debugStop then M.idle
    modify fun s => s.modCore t.core fun c => { c with k := c.k.set r.toNat value }
  | .bankVector team r l =>
    let t ← M.debugged team
    if t.status != .debugStop || 32 ≤ l then M.idle
    modify fun s => s.modCore t.core fun c =>
      { c with kv := c.kv.set r.toNat ((c.kv[r.toNat]).write 32 l (value.setWidth 32)) }
  | .aperture k =>
    M.up runtimeUp
    let base := value &&& ~~~0x3FFFFFFF
    if !validAddr base || devOf base != (← get).dev.toNat then M.refuse
    else modify fun s =>
      { s with apertures := (k, value.setWidth 8, base) :: s.apertures.filter fun a => a.1 != k }.complete 0
  | .functionTenant port =>
    M.up runtimeUp
    if !(← get).functionExists port then M.refuse
    else modify fun s =>
      { s with functions := (port, value.setWidth 8) :: s.functions.filter fun f => f.1 != port }.complete 0
  | .faultQueueFlags tenant =>
    match ((← get).tenant tenant).queue with
    | none => M.idle
    | some q =>
      modify fun s => s.flagFaultQueue tenant
        { q with ovf := q.ovf && !value.getLsbD 0, badAck := q.badAck && !value.getLsbD 1 }
  | .remoteRoot dev tenant =>
    M.up runtimeUp
    if dev == (← get).dev || 576 ≤ dev.toNat then M.refuse
    else modify fun s =>
      { s with remoteRoots := (dev, tenant, value &&& 0x0000FFFFFFFF0001) ::
          s.remoteRoots.filter fun r => !(r.1 == dev && r.2.1 == tenant) }.complete 0

/-! ## Jobs (R352, R353) -/

/-- A job is opened on a queue. -/
def openJob (num : Nat) : M Unit := do
  let s ← get
  match s.queue? num with
  | none => M.unsealed
  | some q =>
    if s.jobs.any fun j => j.queue == num then M.unsealed
    else
      let j : Job := { queue := num, debug := (s.tenant q.tenant).debug, upd := false, chk := false, level := none
                       openAt := s.tick }
      set ({ s with jobs := s.jobs ++ [j] }.sealed 0)

/-- The one-time indices of the signing key (R353), and the bytes of a signature (R352). -/
def signIndices : Nat := 2 ^ 40
def signatureBytes : Nat := 9893

/-- Word 0x008 of a job record. -/
def Job.flags (j : Job) (q : Queue) (level : BitVec 2) : Word :=
  BitVec.ofNat 64 ((if j.upd then 2 ^ 27 else 0) + (if j.debug then 2 ^ 26 else 0) + (if j.chk then 2 ^ 25 else 0) +
    level.toNat * 2 ^ 23 + q.num % 2 ^ 15 * 2 ^ 8 + q.tenant.toNat)

/-- The 320 bytes of a job record (R352). -/
def Job.record (j : Job) (q : Queue) (level : BitVec 2) (close : Word) (result : BitVec 256)
    (measures : List (BitVec 256)) : List Byte :=
  bytesOf 8 1 ++ bytesOf 8 (j.flags q level).toNat ++ bytesOf 8 j.openAt.toNat ++ bytesOf 8 close.toNat ++
    bytesOf 32 result.toNat ++ measures.flatMap fun m => bytesOf 32 m.toNat

/-- LEVEL of a job record; a free value without a launch. -/
def State.jobLevel (s : State) (j : Job) : BitVec 2 × State :=
  match j.level with
  | some l => (l, s)
  | none =>
    let (w, s) := s.draw
    (w.setWidth 2, s)

/-- A job is closed, once DONE covers every packet that DB counts at its home: the result region is digested at home, and
the record and its signature are written (R352); without an index left nothing is signed (R353). -/
def closeJob (num base len dest : Nat) : M Unit := do
  let s ← get
  match s.queue? num, s.jobs.find? fun j => j.queue == num with
  | some q, some j =>
    let (db, s) := s.hqsWord q.tenant (q.desc + 0x20)
    if q.done.toNat < max q.db.toNat (db.getD 0).toNat then M.idle
    let s := { s with jobs := s.jobs.filter fun k => k.queue != num }
    if signIndices ≤ s.signIndex then set (s.sealed 1)
    else
      match s.hqsRead q.tenant (BitVec.ofNat 64 base) len with
      | (none, s) => set (s.sealed 1)
      | (some (bs, _), s) =>
        let index := s.signIndex
        let (level, s) := { s with signIndex := index + 1 }.jobLevel j
        let rec_ := j.record q level s.tick (shake256 bs) s.measures
        let sig := (List.range signatureBytes).map (Config.signByte index (shake256 rec_))
        match s.hqsWrite q.tenant (BitVec.ofNat 64 dest) (rec_ ++ sig) with
        | (true, s) => set (s.sealed 0)
        | (false, s) => set (s.sealed 1)
  | _, _ => M.unsealed

/-! ## The translation service (R96) -/

/-- A resident gang of a tenant on a core, with translation on. -/
def State.walker (s : State) (core : Nat) (tenant : BitVec 8) : Option Gang :=
  s.gangs.find? fun g => g.core == some core && g.ttbase.getLsbD 0 && g.ttbase.extractLsb' 8 8 == tenant

/-- A walk for a core that holds no translation of the page ends: the translation is cached. On a fault nothing is,
and each waiting team takes it when it issues. -/
def walkEvent (core : Nat) (tenant : BitVec 8) (va : Word) (acc : AccKind) (sys : Bool) : M Unit := do
  let s ← get
  match s.walker core tenant with
  | none => M.idle
  | some g =>
    if ((s.core core).tc.any fun c => c.covers tenant (devOf va) (localOf va)) then M.idle
    let ctx : TrCtx := { core := some core, tenant := tenant, root := (g.ttbase.extractLsb' 16 32).toNat, en := true, sys := sys }
    set (s.translate ctx acc va).2

/-! ## The events -/

/-- A user queue is registered (R310). -/
def execQueueRegistration (queue : Nat) (tenant : BitVec 8) (desc : BitVec 64) (s : State) :
    Host.Outcome State Fault Refusal := event (request (registerQueue queue tenant desc)) s

/-- A queue is deregistered (R402). -/
def execQueueDeregistration (queue : Nat) (s : State) : Host.Outcome State Fault Refusal := event (request (deregisterQueue queue)) s

/-- A halted queue is recovered (R402). -/
def execQueueRecovery (queue : Nat) (s : State) : Host.Outcome State Fault Refusal := event (request (recoverQueue queue)) s

/-- A check record is registered (R331). -/
def execCheckRecordRegistration (queue : Nat) (addr : BitVec 64) (s : State) : Host.Outcome State Fault Refusal :=
  event (request (registerCheck queue addr)) s

/-- A tenant's root is registered (R95). -/
def execTenantRootRegistration (tenant : BitVec 8) (root : BitVec 64) (s : State) : Host.Outcome State Fault Refusal :=
  event (request (registerRoot tenant root)) s

/-- A list of entries is registered (R428). -/
def execEntryListRegistration (tenant : BitVec 8) (entries : List (BitVec 64)) (s : State) :
    Host.Outcome State Fault Refusal := event (request (registerEntries tenant entries)) s

/-- A watchdog exponent is set (R374). -/
def execWatchdogExponent (tenant : BitVec 8) (wde : Nat) (s : State) : Host.Outcome State Fault Refusal :=
  event (request (setWatchdog tenant wde)) s

/-- A fault queue is registered (R382). -/
def execFaultQueueRegistration (tenant : BitVec 8) (desc : BitVec 64) (s : State) : Host.Outcome State Fault Refusal :=
  event (request (registerFaultQueue tenant desc)) s

/-- Software raises RD of a fault queue (R382). -/
def execFaultQueueConsume (tenant : BitVec 8) (rd : BitVec 64) (s : State) : Host.Outcome State Fault Refusal :=
  event (consumeFaults tenant rd) s

/-- An ack word is processed (R385). -/
def execAckWord (tenant : BitVec 8) (s : State) : Host.Outcome State Fault Refusal := event (ackEvent tenant) s

/-- A tenant is created (R351). -/
def execTenantCreate (tenant : BitVec 8) (s : State) : Host.Outcome State Fault Refusal := event (request (createTenant tenant)) s

/-- A tenant is deleted (R351). -/
def execTenantDelete (tenant : BitVec 8) (s : State) : Host.Outcome State Fault Refusal := event (request (deleteTenant tenant)) s

/-- A tenant is admitted to debugging (R354). -/
def execDebugAdmission (tenant : BitVec 8) (signed : Bool) (s : State) : Host.Outcome State Fault Refusal :=
  event (request (admitDebug tenant signed)) s

/-- An admission to debugging ends (R354). -/
def execDebugAdmissionEnd (tenant : BitVec 8) (s : State) : Host.Outcome State Fault Refusal := event (request (endDebug tenant)) s

/-- A job is opened (R352). -/
def execJobOpen (queue : Nat) (s : State) : Host.Outcome State Fault Refusal := event (request (openJob queue)) s

/-- A job is closed (R352). -/
def execJobClose (queue base len dest : Nat) (s : State) : Host.Outcome State Fault Refusal :=
  event (request (closeJob queue base len dest)) s

/-- The debug port sets STOP (R300). -/
def execDebugStopRequest (team : Nat) (s : State) : Host.Outcome State Fault Refusal := event (requestStop team) s

/-- The debug port's continue command (R300). -/
def execDebugContinue (team : Nat) (s : State) : Host.Outcome State Fault Refusal := event (continueTeam team) s

/-- The debug port's step command (R300). -/
def execDebugStep (team : Nat) (s : State) : Host.Outcome State Fault Refusal := event (stepTeam team) s

/-- A register is written under its access codes (R3). -/
def execRegisterWrite (target : RegTarget) (value : BitVec 64) (s : State) : Host.Outcome State Fault Refusal :=
  event (writeRegister target value) s

/-- The translation service ends a walk (R96). -/
def execTranslationWalk (core : Nat) (tenant : BitVec 8) (va : BitVec 64) (acc : AccKind) (sys : Bool) (s : State) :
    Host.Outcome State Fault Refusal := event (walkEvent core tenant va acc sys) s

end Sys2Proof.Machine
end

