-- ==== Sys2Proof/Machine/Links.lean ====
section
/-!
DEFINITION. What reaches the device from outside: the host and root ports, the links, device IDs and routes, and the
Meridian time base (18_platform.md R337 to R348; 26_faults_reliability_links.md R411 to R414, R418).
-/

namespace Sys2Proof.Machine

/-! ## The host (R337, R338, R340) -/

/-- The keys of a range of physical addresses of this device, which CXL.mem offers under CXL 3.1 alone (R338); an address
no HBM holds stops (log 11). -/
def M.physical (pa n : Nat) : M Nat := do
  let s ← get
  if s.hostMode != .cxl3 then M.idle
  if hbmBytes < pa + n then throw (.absent pa)
  return memKey s.dev.toNat pa

/-- A host that reads by CXL.mem may hold the granules cached from then on (R338). -/
def State.cachedBy (s : State) (key n : Nat) : State :=
  { s with hostCached := (granulesOf key n).foldl (fun l g => insertNat g l) s.hostCached }

/-- Bytes of the two mailbox rings of BAR 0, 256 requests of 128 B each, Lodestar's after the runtime's (R341, log 75);
and of BAR 0 and BAR 4 (R337). -/
def ringBytes : Nat := 2 * 256 * 128
def bar0Bytes : Nat := 64 * 2 ^ 20
def bar4Bytes : Nat := 2 ^ 20

/-- The tenant and address an aperture maps an offset to; none for one that is not assigned, or beyond its 1 GiB. -/
def State.through (s : State) (k : BitVec 6) (off n : Nat) : Option (BitVec 8 × Word) :=
  if 2 ^ 30 < off + n then none
  else (s.apertures.find? fun a => a.1 == k).map fun a => (a.2.1, a.2.2 + BitVec.ofNat 64 off)

/-- The host endpoint has trained (R337). -/
def M.hostLinked : M Unit := do
  M.up hostUp
  if (← get).hostLink.isNone then M.idle

/-- A host write is applied at its home; its completion releases. One that an aperture cannot translate, or beyond a
BAR, is dropped; of BAR 0 the rings alone hold what is written, the requests themselves being the management events, in
order (log 75). -/
def hostWriteEvent (path : HostPath) (bs : List Byte) : M Unit := do
  M.hostLinked
  match path with
  | .management off =>
    if ringBytes < off + bs.length then return
    modify fun s => { s with mailRings := Memory.writeBytes s.mailRings off bs }
  | .vectors off =>
    if bar4Bytes < off + bs.length then return
    modify fun s => { s with vectorTable := Memory.writeBytes s.vectorTable off bs }
  | .physical pa =>
    let key ← M.physical pa bs.length
    modify fun s => s.homeWrite key bs
  | .aperture k off =>
    match (← get).through k off bs.length with
    | none => return
    | some (tenant, va) => modify fun s => (s.hqsWrite tenant va bs).2

/-- A host read is served at the home; one that an aperture cannot translate, of a management register, or beyond a BAR
reads free values. -/
def hostReadEvent (path : HostPath) (n : Nat) : M Unit := do
  M.hostLinked
  let note (bs : List Byte) (s : State) : State := { s with hostReads := (path, bs) :: s.hostReads }
  let free : M Unit := modify fun s =>
    let (bs, s) := s.freeBytes n
    note bs s
  match path with
  | .management off =>
    if ringBytes < off + n then free else modify fun s => note (Memory.readBytes s.mailRings off n) s
  | .vectors off =>
    if bar4Bytes < off + n then free else modify fun s => note (Memory.readBytes s.vectorTable off n) s
  | .physical pa =>
    let key ← M.physical pa n
    let (bs, _, s) := (← get).homeRead key n
    set (note bs (s.cachedBy key n))
  | .aperture k off =>
    let s ← get
    let (r, s) := match s.through k off n with
      | some p => s.hqsRead p.1 p.2 n
      | none => (none, s)
    match r with
    | some (bs, _) => set (note bs s)
    | none =>
      set s
      free

/-- A downstream function's DMA, under its tenant's tables at user level; a fault, or no tenant, refuses it (R339). -/
def dmaEvent (port : Nat) (va : Word) (write : Bool) (bs : List Byte) : M Unit := do
  M.up hostUp
  let s ← get
  if !s.functionExists port || !(s.rootPorts[port / 4]?).any (fun p => p.2.isSome) then M.idle
  let refused : State := { s with dmaRefused := s.dmaRefused + 1 }
  match s.functions.find? fun f => f.1 == port with
  | none => set refused
  | some (_, tenant) =>
    let ctx : TrCtx := { s.hqsCtx tenant with sys := false }
    match s.translateRange ctx (if write then .store else .load) va bs.length with
    | (.error _, _) => set refused
    | (.ok parts, s) =>
      if write then set (s.writeParts parts bs)
      else
        let (out, s) := parts.foldl (fun (acc : List Byte × State) p =>
          let (b, _, s) := acc.2.homeRead p.1 p.2
          (acc.1 ++ b, s)) ([], s)
        set { s with dmaReads := (port, va, out) :: s.dmaReads }

/-! ## Meridian (R348, R418) -/

/-- The bound of R16 and R418 in ticks, and the ticks without a message after which the device is out of bound. -/
def meridianBound : Nat := 5
def messageLimit : Nat := 100000

/-- Leaves or re-enters the Meridian bound (EVENT 19, 20). -/
def State.setInBound (s : State) (ok : Bool) : State :=
  if s.inBound == ok then s else { s with inBound := ok }.event 7 (if ok then 20 else 19) 0 0

/-- A timing message: the count follows the reference by its rate, standing still or running at twice it, and the measured
offset says whether the device is in bound (log 15). -/
def State.timing (s : State) (reference : Word) : State :=
  let a := s.tick.toNat
  let r := reference.toNat
  let ok := decide (a ≤ r + meridianBound) && decide (r ≤ a + meridianBound)
  { s with holdBack := a - r, catchUp := r - a, lastTiming := s.tick }.setInBound ok

/-- Ticks between the timing messages a device sends (R348). -/
def timingPeriod : Nat := 10000

/-- A device of a domain sends its count across its links every 10 µs (R348). -/
def timingEvent : M Unit := do
  let s ← get
  if !s.inDomain || s.tick.toNat < s.lastSent + timingPeriod then M.idle
  set ({ s with lastSent := s.tick.toNat }.tellAll (.timing s.tick))

/-- No message for 100 µs in a domain. -/
def State.silent (s : State) : Bool :=
  s.inDomain && s.inBound && decide (s.lastTiming.toNat + messageLimit ≤ s.tick.toNat)

/-- The device is out of bound (R418). -/
def outOfBoundEvent : M Unit := do
  let s ← get
  if !s.silent then M.idle
  set (s.setInBound false)

/-! ## Device IDs and routes (R346) -/

/-- Whether nothing of the device is in use by an address. -/
def State.unused (s : State) : Bool :=
  s.gangs.isEmpty && s.queues.isEmpty && s.flights.isEmpty && s.cores.all fun c => c.log.isEmpty && c.abuf.isEmpty

/-- The key of a byte of memory after two device IDs change places. -/
def swapDevice (a b key : Nat) : Nat :=
  if key / 2 ^ 47 = a then memKey b (key % 2 ^ 47) else if key / 2 ^ 47 = b then memKey a (key % 2 ^ 47) else key

/-- The device takes an ID, with its memory and no translation cached. -/
def State.takeId (s : State) (dev : BitVec 10) : State :=
  let move := swapDevice s.dev.toNat dev.toNat
  { s with
    dev := dev
    mem := s.mem.foldl (fun (m : Memory) c => Memory.write m (move c.1) c.2) []
    poison := s.poison.foldl (fun l k => insertNat (move k) l) []
    held := s.held.foldl (fun l h => setHeld (move h.1) h.2 l) []
    lostPages := s.lostPages.map fun (p : Nat × Nat) => (move p.1, p.2)
    staged := s.staged.map fun (e : Staged) => { e with addr := move e.addr }
    cores := s.cores.map fun (c : Core) => { c with tc := [] } }

/-- The pair keys are established, and no request of an earlier domain is left (R345). -/
def State.newKeys (s : State) : State := { s with linkKeys := [], flows := [] }

/-- The fabric manager assigns the device ID at domain formation, where the device takes the reference's count and the
pair keys are established; the ID stays fixed until the domain is dissolved (R345, R346, R348). -/
def assignId (dev : BitVec 10) (count : Word) : M Unit := do
  M.up linksUp
  let s ← get
  if s.inDomain || 576 ≤ dev.toNat || !s.unused then M.refuse
  else
    set ({ (s.takeId dev).newKeys with
      inDomain := true, tick := count, lastTiming := count, lastSent := count.toNat, holdBack := 0, catchUp := 0
      inBound := true }.complete 0)

/-- A route mask is written. -/
def writeRoute (dev : BitVec 10) (mask : BitVec 36) : M Unit := do
  M.up linksUp
  if 576 ≤ dev.toNat then M.refuse
  else modify fun s => { s with routes := (dev, mask) :: s.routes.filter fun r => r.1 != dev }.complete 0

/-- The domain is dissolved: the device ID is no longer fixed, and the pair keys are gone. -/
def dissolveDomain : M Unit := do
  M.up linksUp
  modify fun s => { s.newKeys with inDomain := false, inBound := true, holdBack := 0, catchUp := 0 }.complete 0

/-! ## Ports and lanes (R342, R412, R414) -/

/-- A port nothing has happened to. -/
def Port.fresh (n : Nat) : Port :=
  { num := n, trained := none, down := false, narrowed := false, spareUsed := false, retiredLanes := [], drops := []
    arrivals := [] }

/-- Ports of a device, and lanes of a port with its spare (R342, R414). -/
def portCount : Nat := 36
def portLanes : Nat := 5

/-- The record of a port. -/
def State.port (s : State) (n : Nat) : Port := (s.ports.find? fun p => p.num == n).getD (Port.fresh n)

/-- Puts a port back. -/
def State.putPort (s : State) (p : Port) : State := { s with ports := p :: s.ports.filter fun q => q.num != p.num }

/-- Drops of a lane. -/
def Port.dropsOf (p : Port) (lane : Nat) : Nat := ((p.drops.find? fun d => d.1 == lane).map fun d => d.2).getD 0

/-- Ticks over which the dropped flits of a lane are weighed (R414). -/
def laneWindow : Nat := 2 ^ 30

/-- A flit comes in over a lane of a port; one that is dropped counts against them (R412). -/
def State.noteFlit (s : State) (port lane : Nat) (dropped : Bool) : State :=
  let p := s.port port
  let now := s.tick.toNat
  s.putPort { p with
    arrivals := (lane, now, dropped) :: p.arrivals.filter fun a => decide (now < a.2.1 + laneWindow)
    drops := if dropped then (lane, p.dropsOf lane + 1) :: p.drops.filter fun d => d.1 != lane else p.drops }

/-- A lane's dropped flits exceed 1 in 2^20 of those that came in over it in the window (R414). -/
def Port.worn (p : Port) (lane now : Nat) : Bool :=
  let mine := p.arrivals.filter fun a => a.1 == lane && decide (now < a.2.1 + laneWindow)
  decide (mine.length < (mine.filter fun a => a.2.2).length * 2 ^ 20)

/-- A worn lane is retired: the spare takes its place, then the port narrows, then it leaves every route mask (R414). -/
def retireLane (port lane : Nat) : M Unit := do
  let s ← get
  let p := s.port port
  if p.down || portCount ≤ port || portLanes ≤ lane || p.retiredLanes.contains lane ||
    !p.worn lane s.tick.toNat then M.idle
  let p := { p with retiredLanes := p.retiredLanes ++ [lane] }
  let drops := p.dropsOf lane
  if !p.spareUsed then set ((s.putPort { p with spareUsed := true }).event 4 6 port drops)
  else if !p.narrowed then set ((s.putPort { p with narrowed := true }).event 4 7 port drops)
  else
    let off : BitVec 36 := ~~~(BitVec.ofNat 36 (2 ^ port))
    set ({ s.putPort { p with down := true } with
      routes := s.routes.map fun (r : BitVec 10 × BitVec 36) => (r.1, r.2 &&& off) }.event 4 8 port drops)

/-- A pair key is replaced once 2^32 flits have used it (R345). -/
def replaceKey (dev : BitVec 10) (cls : BitVec 2) : M Unit := do
  let s ← get
  match s.linkKeys.find? fun k => k.1 == dev && k.2.1 == cls with
  | none => M.idle
  | some k =>
    if k.2.2.2.toNat < 2 ^ 32 then M.idle
    set { s with linkKeys := (dev, cls, k.2.2.1 + 1, 0) :: s.linkKeys.filter fun q => !(q.1 == dev && q.2.1 == cls) }

/-! ## Flits (R343, R344, R412, R413) -/

/-- The bytes of a flit and of its payload (R343). -/
def flitBytes : Nat := 256
def payloadBytes : Nat := 224

/-- The 12 bytes of a header. -/
def flitHeader (id : FlowId) (num : BitVec 32) (subtype : BitVec 2) : List Byte :=
  bytesOf 8 (id.dst.toNat + id.src.toNat * 2 ^ 10 + num.toNat * 2 ^ 26 + subtype.toNat * 2 ^ 58 + id.cls.toNat * 2 ^ 60) ++
    bytesOf 4 0

/-- A flit laid out: header, payload, tag, CRC. -/
def flitOf (id : FlowId) (num : BitVec 32) (subtype : BitVec 2) (payload : List Byte) (tag : BitVec 128) : List Byte :=
  let body := flitHeader id num subtype ++ payload ++ List.replicate (payloadBytes - payload.length) 0 ++
    bytesOf 16 tag.toNat
  body ++ bytesOf 4 (Config.crc32 body).toNat

end Sys2Proof.Machine

namespace Sys2Proof

open Sys2Proof.Machine

/-- The header's fields, its flow, the request's number and the subtype. -/
def Flit.header (x : Flit) : BitVec 64 := BitVec.ofNat 64 (fieldOf x.bytes 0 8)
def Flit.flow (x : Flit) : FlowId :=
  { dev := x.sender, src := x.header.extractLsb' 10 16, dst := x.header.extractLsb' 0 10, cls := x.header.extractLsb' 60 2 }
def Flit.num (x : Flit) : BitVec 32 := x.header.extractLsb' 26 32
def Flit.subtype (x : Flit) : BitVec 2 := x.header.extractLsb' 58 2

/-- Whether a flit's CRC and tag hold (R345). -/
def Flit.good (x : Flit) : Bool :=
  x.authentic && fieldOf x.bytes 252 4 == (Config.crc32 (x.bytes.take 252)).toNat

/-- Whether a class carries a request (R344), and whether a flit's payload holds its data (R343). -/
def FlitOp.ofClass (op : FlitOp) (cls : BitVec 2) : Bool :=
  match op with
  | .write _ _ | .reduce _ _ _ _ => cls == 0 || cls == 2
  | .read _ _ => cls == 1 || cls == 2
  | .atomic _ _ _ _ _ => cls == 1
  | .timing _ | .groupArrival _ _ _ _ _ | .groupLeft _ _ _ _ | .missedStart _ _ | .placed _ _ _ _ | .away _ _ | .back _ _ =>
    cls == 3
def FlitOp.fits (op : FlitOp) : Bool :=
  match op with
  | .write _ bs => decide (bs.length ≤ payloadBytes)
  | .read _ n => decide (n ≤ payloadBytes)
  | _ => true

end Sys2Proof

namespace Sys2Proof.Machine

/-- Performs a request at this device's homes, with the bytes of its response. -/
def State.perform (s : State) (op : FlitOp) : Option (List Byte) × State :=
  let key (pa : Nat) : Nat := memKey s.dev.toNat pa
  match op with
  | .write pa bs => (none, s.homeWrite (key pa) bs)
  | .reduce pa o f v => (none, (s.settle (granule (key pa))).applyReduce (key pa) o f v false)
  | .read pa n =>
    let (bs, _, s) := s.homeRead (key pa) n
    (some bs, s)
  | .atomic pa o f a b =>
    let (x, _, s) := s.atomicAt (key pa) o f a b
    (some (bytesOf f.bytes x), s)
  | .timing count => (none, s.timing count)
  | .groupArrival tag tick gen n abandoned => (none, s.remoteArrival tag tick gen n abandoned)
  | .groupLeft tag tick n abandoned => (none, s.remoteLeave tag tick n abandoned)
  | .missedStart tag tick => (none, s.hearMissed tag tick)
  | .placed tag tick level checked => (none, s.hearPlaced tag tick level checked)
  | .away tag tick => (none, s.hearAway tag tick fun n => n + 1)
  | .back tag tick => (none, s.hearAway tag tick fun n => n - 1)

/-- The highest address a request touches; a request beyond the installed HBM is not performed (log 11). -/
def flitWithin (op : FlitOp) : Bool :=
  match op with
  | .write pa bs => decide (pa + bs.length ≤ hbmBytes)
  | .reduce pa _ f _ => decide (pa + f.bytes ≤ hbmBytes)
  | .read pa n => decide (pa + n ≤ hbmBytes)
  | .atomic pa _ f _ _ => decide (pa + f.bytes ≤ hbmBytes)
  | _ => true

/-- Sends an acknowledgement, with the response's bytes if there is one. -/
def State.answer (s : State) (id : FlowId) (num : BitVec 32) (bs : List Byte) : State :=
  { s with linkSent := (id, num, bs) :: s.linkSent }.countFlit id.dev id.cls

/-- Whether a request is a duplicate, and whether it lies in the window (R413). -/
def duplicate (h n : BitVec 32) : Bool := decide ((h - n).toNat < 2 ^ 31)
def inWindow (h n : BitVec 32) : Bool := decide (1 ≤ (n - h).toNat) && decide ((n - h).toNat ≤ 1024)

/-- Performs the held requests of a flow in request-number order, as far as they go. -/
def State.performHeld : Nat → FlowId → State → State
  | 0, _, s => s
  | k + 1, id, s =>
    let f := s.flow id
    match f.window.find? fun x => x.1 == f.high + 1 with
    | none => s
    | some x =>
      let (r, s) := if flitWithin x.2 then s.perform x.2 else (none, s)
      let f := { f with high := x.1, window := f.window.filter fun y => y.1 != x.1
                        responses := match r with
                          | some bs => f.responses ++ [(x.1, bs)]
                          | none => f.responses }
      State.performHeld k id ((s.putFlow f).answer id x.1 (r.getD []))

/-- Whether a flit can come in: 256 bytes, over a lane in service of a port that has trained, with a request its class and
its payload carry (R342 to R344, R414). -/
def State.admits (s : State) (x : Flit) : Bool :=
  decide (x.port < portCount) && decide (x.lane < portLanes) && (s.port x.port).trained.isSome && !(s.port x.port).down &&
    !(s.port x.port).retiredLanes.contains x.lane && x.bytes.length == flitBytes && x.flow.dst == s.dev && x.op.ofClass x.flow.cls && x.op.fits

/-- A flit arrives: a bad one is dropped and counted; a duplicate is acknowledged again, with its kept response; one in
the window is held and performed in order; another does nothing (R344, R412, R413). -/
def receiveFlit (x : Flit) : M Unit := do
  let s ← get
  if !s.admits x then M.idle
  let s := s.noteFlit x.port x.lane !x.good
  if !x.good then set s
  else
    let f := s.flow x.flow
    if duplicate f.high x.num then
      set (s.answer x.flow x.num (((f.responses.find? fun r => r.1 == x.num).map fun r => r.2).getD []))
    else if inWindow f.high x.num then
      let f := if f.window.any fun y => y.1 == x.num then f else { f with window := f.window ++ [(x.num, x.op)] }
      set (State.performHeld f.window.length x.flow (s.putFlow f))
    else set s

/-- Whether a is not later than b, by the 32-bit difference. -/
def numLe (a b : BitVec 32) : Bool := decide ((b - a).toNat < 2 ^ 31)

/-- A cumulative acknowledgement of a flow: a source forgets its requests up to the number, a destination its kept
responses (R413). -/
def flowAckEvent (id : FlowId) (num : BitVec 32) : M Unit :=
  modify fun s =>
    let f := s.flow id
    (s.putFlow { f with pending := f.pending.filter fun r => !numLe r.num num
                        responses := f.responses.filter fun r => !numLe r.1 num }).sendQueued id

/-- Ticks without an acknowledgement after which a request is resent (R344), and the resends after which a class 1
flow gives up and any flow writes EVENT 22 (R413). -/
def resendAfter : Nat := 4000
def resendLimit : Nat := 16

/-- A request without an acknowledgement is resent over the next port of its route mask; on a class 1 flow, after 16
resends, its instruction is to take 0x1C5 (R412, R413). -/
def resendEvent (id : FlowId) : M Unit := do
  let s ← get
  let f := s.flow id
  match f.pending.find? fun r => !r.dead && decide (r.since + resendAfter ≤ s.tick.toNat) with
  | none => M.idle
  | some r =>
    let put (q : Request) : List Request := f.pending.map fun p => if p.num == r.num then q else p
    if id.cls == 1 && resendLimit ≤ r.resends then set (s.putFlow { f with pending := put { r with dead := true } })
    else
      let (port, s) := s.leaveBy id r.port
      let n := r.resends + 1
      let q := { r with port := port, resends := n, since := s.tick.toNat }
      let tell := n == resendLimit && !f.told
      let s := s.putFlow { f with pending := put q, told := f.told || tell }
      set (if tell then s.event 4 22 port n else s)

/-! ## The events -/

/-- A host write (R340). -/
def execHostWrite (path : HostPath) (bytes : List (BitVec 8)) (s : State) : Host.Outcome State Fault Refusal :=
  event (hostWriteEvent path bytes) s

/-- A host read (R340). -/
def execHostRead (path : HostPath) (len : Nat) (s : State) : Host.Outcome State Fault Refusal :=
  event (hostReadEvent path len) s

/-- A downstream function's DMA (R339). -/
def execRootPortDma (port : Nat) (va : BitVec 64) (write : Bool) (bytes : List (BitVec 8)) (s : State) :
    Host.Outcome State Fault Refusal := event (dmaEvent port va write bytes) s

/-- A flit arrives (R344). -/
def execFlitReceive (flit : Flit) (s : State) : Host.Outcome State Fault Refusal := event (receiveFlit flit) s

/-- A cumulative acknowledgement (R413). -/
def execFlowAck (flow : FlowId) (num : BitVec 32) (s : State) : Host.Outcome State Fault Refusal :=
  event (flowAckEvent flow num) s

/-- A resend (R412). -/
def execResendTimeout (flow : FlowId) (s : State) : Host.Outcome State Fault Refusal := event (resendEvent flow) s

/-- A lane is retired (R414). -/
def execLinkLaneRetire (port lane : Nat) (s : State) : Host.Outcome State Fault Refusal := event (retireLane port lane) s

/-- A pair key is replaced (R345). -/
def execLinkKeyReplace (dev : BitVec 10) (cls : BitVec 2) (s : State) : Host.Outcome State Fault Refusal :=
  event (replaceKey dev cls) s

/-- The device ID is assigned (R346). -/
def execDeviceIdAssignment (dev : BitVec 10) (count : BitVec 64) (s : State) : Host.Outcome State Fault Refusal :=
  event (assignId dev count) s

/-- A route mask is written (R346). -/
def execRouteTableWrite (dev : BitVec 10) (mask : BitVec 36) (s : State) : Host.Outcome State Fault Refusal :=
  event (writeRoute dev mask) s

/-- The domain is dissolved (R346). -/
def execDomainDissolution (s : State) : Host.Outcome State Fault Refusal := event dissolveDomain s

/-- A timing message (R348). -/
def execMeridianTimingMessage (reference : BitVec 64) (s : State) : Host.Outcome State Fault Refusal :=
  .next (s.timing reference)

/-- The device falls out of bound (R418). -/
def execMeridianOutOfBound (s : State) : Host.Outcome State Fault Refusal := event outOfBoundEvent s

end Sys2Proof.Machine
end

