-- ==== Sys2Proof/Machine/Masks.lean ====
section
/-!
DEFINITION. Mask instructions, major 27 (09_isa_scalar_control.md R166). They act on the whole register, whatever
lanes are active.
-/

namespace Sys2Proof.Machine

/-- md := f(ma, mb). -/
def maskTwo (f : Mask → Mask → Mask) (mb ma md : BitVec 3) (v : View) : Except Stop View :=
  .ok (v.setMask md (f (v.mask ma) (v.mask mb)))

/-- The lowest set bit of a mask; all ones for 0 (R166). -/
def maskFirst (m : Mask) : Word :=
  match (List.range 1024).find? fun l => m.getLsbD l with
  | some l => BitVec.ofNat 64 l
  | none => -1

/-- Leaf word w of a mask, or its summary for w = 32 (R166). -/
def maskWord (m : Mask) (w : Nat) : Word := (if w < 32 then leafWord m w else summaryWord m).setWidth 64

/-- `mand md, ma, mb`. -/
def execMand (mb ma md : BitVec 3) (s : State) : Host.Outcome State Fault Refusal :=
  regOp 4 (maskTwo (fun a b => a &&& b) mb ma md) s

/-- `mor md, ma, mb`. -/
def execMor (mb ma md : BitVec 3) (s : State) : Host.Outcome State Fault Refusal :=
  regOp 4 (maskTwo (fun a b => a ||| b) mb ma md) s

/-- `mxor md, ma, mb`. -/
def execMxor (mb ma md : BitVec 3) (s : State) : Host.Outcome State Fault Refusal :=
  regOp 4 (maskTwo (fun a b => a ^^^ b) mb ma md) s

/-- `mandn md, ma, mb`. -/
def execMandn (mb ma md : BitVec 3) (s : State) : Host.Outcome State Fault Refusal :=
  regOp 4 (maskTwo (fun a b => a &&& ~~~b) mb ma md) s

/-- `mnot md, ma`: bits at or above the team size stay 0. -/
def execMnot (ma md : BitVec 3) (s : State) : Host.Outcome State Fault Refusal :=
  regOp 4 (fun v => .ok (v.setMask md (~~~(v.mask ma)))) s

/-- `mmov md, ma`. -/
def execMmov (ma md : BitVec 3) (s : State) : Host.Outcome State Fault Refusal :=
  regOp 4 (fun v => .ok (v.setMask md (v.mask ma))) s

/-- `mcnt sd, ma`. -/
def execMcnt (ma : BitVec 3) (sd : BitVec 6) (s : State) : Host.Outcome State Fault Refusal :=
  regOp 4 (fun v => v.writeS sd (BitVec.ofNat 64 (countBits 1024 (v.mask ma).toNat))) s

/-- `mfirst sd, ma`. -/
def execMfirst (ma : BitVec 3) (sd : BitVec 6) (s : State) : Host.Outcome State Fault Refusal :=
  regOp 4 (fun v => v.writeS sd (maskFirst (v.mask ma))) s

/-- `mact md`: Active(t). -/
def execMact (md : BitVec 3) (s : State) : Host.Outcome State Fault Refusal :=
  regOp 4 (fun v => .ok (v.setMask md v.active)) s

/-- `mget sd, ma, w`. -/
def execMget (w : BitVec 7) (ma : BitVec 3) (sd : BitVec 6) (s : State) : Host.Outcome State Fault Refusal :=
  regOp 4 (fun v => v.writeS sd (maskWord (v.mask ma) w.toNat)) s

/-- `mput md, sa, w`. -/
def execMput (w : BitVec 7) (sa : SSrc) (md : BitVec 3) (s : State) : Host.Outcome State Fault Refusal :=
  regOp 4 (fun v => do
    let a ← v.readS posSA sa
    return v.setMask md (setLeaf (v.mask md) w.toNat (a.setWidth 32))) s

end Sys2Proof.Machine
end

