-- ==== Sys2Proof/Machine/Platform.lean ====
section
/-!
DEFINITION. Power, monitors, bring-up, the third-run vote and repair in service (18_platform.md R349, R350, R353,
R355, R357 to R359; 26_faults_reliability_links.md R409 to R411, R415 to R417).
-/

namespace Sys2Proof.Machine

/-! ## Power and heat (R357, R358, R417) -/

/-- The step of bring-up after which Lodestar runs (R359). -/
def lodestarUp : Nat := 1

/-- Package power at which the governor throttles, in W (R357). -/
def powerLimit : Nat := 3000

/-- A power sample. -/
def powerEvent (watts : Nat) : M Unit :=
  modify fun s => { s with thermal := { s.thermal with watts := watts, overPower := decide (powerLimit ≤ watts) } }

/-- The thresholds of R417 in tenths of a degree. -/
def warmBelow : Nat := 900
def warnAt : Nat := 950
def tripAt : Nat := 1050
def stopAt : Nat := 1150

/-- Whether a sensor exists (R358). -/
def sensorExists : Sensor → Bool
  | .core n | .ring n => decide (n < coreCount)
  | .die n k => decide (n < 4) && decide (k < 8)

/-- UNIT and INDEX of a sensor's events (R411). -/
def sensorPlace : Sensor → Nat × Nat
  | .core n | .ring n => (0, n)
  | .die n _ => (7, n)

/-- A reading is noted, and the sensor enters or leaves the warning (EVENT 16). -/
def State.warn (s : State) (x : Sensor) (t : Nat) : State :=
  let h := s.thermal
  let h := { h with temps := (x, t) :: h.temps.filter fun p => p.1 != x }
  if decide (warnAt ≤ t) && !h.warned.contains x then
    let h := { h with warned := x :: h.warned, hot := true }
    { s with thermal := h }.event (sensorPlace x).1 16 (sensorPlace x).2 t
  else if t < warmBelow then
    let w := h.warned.filter fun y => y != x
    { s with thermal := { h with warned := w, hot := !w.isEmpty } }
  else { s with thermal := h }

/-- A core's sensor closes the core to placement, or reopens it (EVENT 17). -/
def State.trip (s : State) (x : Sensor) (t : Nat) : State :=
  match x with
  | .die _ _ | .ring _ => s
  | .core n =>
    let closed := (s.core n).closed
    if decide (tripAt ≤ t) && !closed then (s.modCore n fun c => { c with closed := true }).event 0 17 n t
    else if decide (t < warmBelow) && closed then s.modCore n fun c => { c with closed := false }
    else s

/-- Lodestar stops the device, or the runtime resumes it once every sensor reads below 90 °C (EVENT 18). -/
def State.critical (s : State) (x : Sensor) (t : Nat) : State :=
  let h := s.thermal
  if decide (stopAt ≤ t) && !h.stopped then
    { s with thermal := { h with stopped := true } }.event 7 18 (sensorPlace x).2 t
  else if h.stopped && h.temps.all fun p => decide (p.2 < warmBelow) then
    { s with thermal := { h with stopped := false } }
  else s

/-- A monitor sample: a temperature in tenths of a degree, or a ring oscillator's frequency per mille, which is noted. -/
def monitorEvent (x : Sensor) (t : Nat) : M Unit := do
  M.up lodestarUp
  if !sensorExists x then M.idle
  modify fun s =>
    match x with
    | .ring n => s.modCore n fun c => { c with ring := t }
    | .core _ | .die _ _ => ((s.warn x t).trip x t).critical x t

/-- A voltage droop is counted (R417). -/
def droopEvent (core : Nat) : M Unit := do
  if coreCount ≤ core then M.idle
  modify fun s => s.modCore core fun c => { c with droops := c.droops + 1 }

/-! ## Bring-up and power loss (R349, R350, R353, R359) -/

/-- A digest of an image that the spec does not give (log 5). -/
def State.drawDigest (s : State) : BitVec 256 × State :=
  let (a, s) := s.draw
  let (b, s) := s.draw
  let (c, s) := s.draw
  let (d, s) := s.draw
  ((a ++ b ++ c ++ d : BitVec 256), s)

/-- Measures the images in some slots (R350). -/
def State.measure (s : State) (images : Option (List (List Byte))) : List Nat → State
  | [] => s
  | k :: ks =>
    let (d, s) := match images with
      | some xs => (shake256 (xs.getD k []), s)
      | none => s.drawDigest
    { s with measures := s.measures.set k d }.measure images ks

/-- The slots a step of bring-up measures (R349, R359). -/
def measuredAt (step : Nat) : List Nat :=
  match step with
  | 1 => [0]
  | 2 => [6, 7]
  | 3 => [1, 2, 3, 4, 5]
  | _ => []

/-- The generation a link trains to: the highest that both ends support; none that they share, and it does not train. -/
def trainTo (least most other : Nat) : Option Nat := if other < least then none else some (min most other)

/-- The frequency, per mille, below which a ring oscillator takes its core out of service (R415). -/
def ringLimit : Nat := 950

/-- Step 4: the first core starts now, and every core's ring oscillator is read (R355, R415). -/
def State.startCores (s : State) (rings : List (Nat × Nat)) : State :=
  (rings.filter fun r => decide (r.1 < coreCount)).foldl (fun (s : State) r =>
    s.modCore r.1 fun c => { c with ring := r.2, slow := decide (r.2 < ringLimit) }) { s with nextStart := s.tick.toNat }

/-- Step 5: the host endpoint and the root ports train to PCIe 5, 6 or 7 (R337, R339). -/
def State.trainHost (s : State) (cfg : BringUp) : State :=
  { s with hostMode := cfg.hostMode, hostLink := trainTo 5 7 cfg.hostGen
           rootPorts := (List.range 8).map fun k =>
             let p := cfg.rootPorts.getD k (.x16, 0)
             (p.1, trainTo 5 7 p.2) }

/-- Step 6: each link port trains to generation 2 or 3 (R342). -/
def State.trainLinks (s : State) (gens : List Nat) : State :=
  (List.range portCount).foldl (fun (s : State) k =>
    s.putPort { s.port k with trained := trainTo 2 3 (gens.getD k 0) }) s

/-- What a step of bring-up does (R359). -/
def State.bringUpStep (s : State) (cfg : BringUp) (k : Nat) : State :=
  let s := s.measure cfg.images (measuredAt k)
  let s := match k with
    | 4 => s.startCores cfg.rings
    | 5 => s.trainHost cfg
    | 6 => s.trainLinks cfg.linkGens
    | _ => s
  { s with bringup := k }

/-- The steps of bring-up from one on; the one that fails stops it and is reported on the Lodestar mailbox. -/
def State.bringUpFrom (s : State) (cfg : BringUp) : List Nat → State
  | [] => s
  | k :: ks =>
    if cfg.failAt == some k then { s with bringupFailed := true }.sealed (BitVec.ofNat 32 k)
    else (s.bringUpStep cfg k).bringUpFrom cfg ks

/-- The device is brought up (R359). -/
def bringUpEvent (cfg : BringUp) : M Unit := do
  let s ← get
  if s.bringup != 0 || s.bringupFailed then M.idle
  set (s.bringUpFrom cfg [1, 2, 3, 4, 5, 6, 7])

/-- Bring-up as the machine's own move makes it: every step succeeds, no image is given, and every link partner supports
all that the device does (log 75). -/
def plainBringUp : BringUp :=
  { failAt := none, images := none, hostMode := .cxl3, hostGen := 7, rootPorts := List.replicate 8 (.x16, 7)
    linkGens := List.replicate portCount 3, rings := [] }

/-- The ticks between the starts of two cores, and the cores that bring-up starts (R355). -/
def startSpacing : Nat := 50

/-- The next core starts: die by die, in ascending physical number, which is the order of their logical numbers, as no
spare has taken over before. -/
def startCoreEvent : M Unit := do
  let s ← get
  if s.bringup < runtimeUp || coreCount ≤ s.coresStarted || s.tick.toNat < s.nextStart then M.idle
  set { s with coresStarted := s.coresStarted + 1, nextStart := s.nextStart + startSpacing }

/-- Power is lost: only the counter of the signing index keeps its value (R353); the events, errors
and choices to come and the next free value are the model's own. -/
def State.powerLost (s : State) : State :=
  { State.reset with agenda := s.agenda, defer := s.defer, free := s.free, signIndex := s.signIndex,
                     upsets := s.upsets }

/-- A verified firmware image replaces its slot (R349, R350, R416); one that fails is not run. -/
def updateFirmware (slot : BitVec 3) (image : List Byte) (verified : Bool) : M Unit := do
  M.up runtimeUp
  if !verified then M.unsealed
  else modify fun s =>
    ({ s with
      measures := s.measures.set slot.toNat (shake256 image)
      jobs := s.jobs.map fun (j : Job) => { j with upd := true } }.event 7 21 0 slot.toNat).sealed 0

/-! ## The halt of a family (R404, R406) -/

/-- Changes the teams of a family. -/
def State.mapTeamsIn (s : State) (family : Nat) (f : Team → Team) : State :=
  { s with teams := s.teams.map fun (t : Team) =>
      if (s.familyOf? t).any (fun (h : Family) => h.uid == family) then f t else t }

/-- A commit point's clock: the greatest LCLK of the family's teams. -/
def State.commitClock (s : State) (family : Nat) : Word :=
  (s.teamsIn family).foldl (fun m t => if m.toNat < t.lclk.toNat then t.lclk else m) 0

/-- Halts every team of a family and removes its gangs from their group's barriers (R404, R406). -/
def State.haltFamily (s : State) (family : Nat) (code : BitVec 9) : State :=
  let clock := s.commitClock family
  let gs := (s.gangsOf family).map fun g => g.uid
  let s := { s with copies := s.copies.filter (fun (c : Copy) => c.family.uid != family)
                    epochs := s.epochs.filter fun (e : Epoch) => e.family != family }
  let s := ((s.teamsIn family).filter fun t => !t.gone).foldl (fun (s : State) t =>
    s.haltTeam t.id (t.trapInfo code clock t.active t.arm.pc false) false true) s
  { s with groups := s.groups.map fun (gr : Group) =>
      let kept := gr.members.filter fun u => !gs.contains u
      { gr with members := kept, total := gr.total - (gr.members.length - kept.length) } }

/-! ## Repair in service (R415, R416) -/

/-- Physical cores of a die (R10). -/
def diePhysical : Nat := 52

/-- The lowest spare of a die that no core uses and that has not been taken out of service. -/
def State.spareFor (s : State) (die : Nat) : Option Nat :=
  (List.range diePhysical).find? fun p =>
    decide (48 ≤ p) && !s.coresRetired.contains (die, p) &&
      !((List.range 48).any fun k => (s.core (48 * die + k)).phys == p)

/-- Whether a core holds a family or a shadow. -/
def State.occupied (s : State) (core : Nat) : Bool :=
  s.families.any fun f => f.resident && (f.core == core || f.shadowCore == some core)

/-- Whether what a core has shown takes it out of service (R415). -/
def Core.worn (c : Core) : Bool :=
  c.inService && (decide (2 ≤ c.halts.length) || decide (16 ≤ c.corrected.length) || decide (2 ≤ c.lostVotes.length) ||
    c.slow)

/-- A core that one of R415's reasons takes out of service: its gangs are pre-empted, and once it is empty a spare of its
die takes over its number (EVENT 9), or, with none left, it stays closed (EVENT 10). DETAIL is the number of the die's
cores taken out so far, which log 59 marks as the model's choice. -/
def outOfServiceEvent (core : Nat) : M Unit := do
  let s ← get
  let c := s.core core
  if coreCount ≤ core || !(c.leaving || c.worn) then M.idle
  if !c.leaving then set (s.putCore { c with leaving := true })
  else
    if s.occupied core then M.idle
    let die := dieOf core
    let s := { s with coresRetired := s.coresRetired ++ [(die, c.phys)] }
    let n := (s.coresRetired.filter fun r => r.1 == die).length
    match s.spareFor die with
    | some p =>
      set ((s.putCore { c with phys := p, leaving := false, slow := false, corrected := [], halts := [], lostVotes := [] }).event
        0 9 core n)
    | none => set ((s.putCore { c with leaving := false, inService := false }).event 0 10 core n)

/-- HBM channels of the device: 8 per stack, 3 stacks per die (R14, R411). -/
def hbmChannels : Nat := 96

/-- Whether errors noted at these ticks reach a number within the 2^40 ticks that end now (R416). -/
def crowded (now n : Nat) (ts : List Nat) : Bool := decide (n ≤ (ts.filter fun a => decide (now < a + 2 ^ 40)).length)

/-- Whether a row or a way wears out: 4 corrected errors of a row, 8 of a way (R416). -/
def State.rowWorn (s : State) (chan row : Nat) : Bool :=
  crowded s.tick.toNat 4 ((s.rowErrors.filter fun e => e.1 == chan && e.2.1 == row).map fun e => e.2.2)

def State.wayWorn (s : State) (die way : Nat) : Bool :=
  crowded s.tick.toNat 8 ((s.wayErrors.filter fun e => e.1 == die && e.2.1 == way).map fun e => e.2.2)

/-- The rows of a channel spared so far. -/
def State.sparedIn (s : State) (chan : Nat) : Nat := (s.rowsSpared.filter fun r => r.1 == chan).length

/-- A row with 4 corrected errors is spared (EVENT 11). DETAIL is the number of the channel's rows spared so far, which
log 59 marks as the model's choice. -/
def spareRow (chan row : Nat) : M Unit := do
  let s ← get
  if hbmChannels ≤ chan || !s.rowWorn chan row then M.idle
  let s := { s with rowsSpared := s.rowsSpared ++ [(chan, row)]
                    rowErrors := s.rowErrors.filter fun e => !(e.1 == chan && e.2.1 == row) }
  set (s.event 5 11 chan (s.sparedIn chan))

/-- The retirement of a channel is requested (EVENT 12); DETAIL as EVENT 11's (log 59). The number of spare rows of a bank
is not the spec's: the event comes from outside. -/
def askRetire (chan : Nat) : M Unit := do
  let s ← get
  if hbmChannels ≤ chan || s.channelsAsked.contains chan || s.channelsRetired.contains chan then M.idle
  set ({ s with channelsAsked := s.channelsAsked ++ [chan] }.event 5 12 chan (s.sparedIn chan))

/-- On the runtime's answer a channel is retired (EVENT 13). -/
def retireChannel (chan : Nat) : M Unit := do
  let s ← get
  if !s.channelsAsked.contains chan then M.unsealed
  else
    set (({ s with channelsAsked := s.channelsAsked.filter (fun c => c != chan)
                   channelsRetired := s.channelsRetired ++ [chan] }.event 5 13 chan
                     (s.sparedIn chan)).sealed 0)

/-- A way of a die cache with 8 corrected errors is retired (EVENT 14). DETAIL is the number of the die's ways retired so
far (log 59). -/
def retireWay (die way : Nat) : M Unit := do
  let s ← get
  if 4 ≤ die || s.waysRetired.contains (die, way) || !s.wayWorn die way then M.idle
  let s := { s with waysRetired := s.waysRetired ++ [(die, way)]
                    wayErrors := s.wayErrors.filter fun e => !(e.1 == die && e.2.1 == way) }
  set (s.event 6 14 die (s.waysRetired.filter fun w => w.1 == die).length)

/-- A corrected error of a row or of a way is counted (R115, R416). -/
def State.rowCorrected (s : State) (chan row : Nat) : State :=
  { s with corrections := s.corrections + 1, rowErrors := (chan, row, s.tick.toNat) :: s.rowErrors }

def State.wayCorrected (s : State) (die way : Nat) : State :=
  { s with corrections := s.corrections + 1, wayErrors := (die, way, s.tick.toNat) :: s.wayErrors }

/-- Repeats of the solve an engine is at. -/
def State.repeatsOf (s : State) (k : BitVec 5) : Nat :=
  ((s.engineRepeats.find? fun x => x.1 == k).map fun x => x.2).getD 0

/-- An uncorrectable error in an engine's local store makes it repeat its solve (R400). -/
def State.engineError (s : State) (k : BitVec 5) : State :=
  { s with engineRepeats := (k, s.repeatsOf k + 1) :: s.engineRepeats.filter fun x => x.1 != k }

/-- A solver engine is retired after 3 repeats of one solve, which DETAIL says; its channels are served by the next
engine of its die, which keeps a factorisation of its own (EVENT 15, R142). -/
def retireEngine (k : BitVec 5) : M Unit := do
  let s ← get
  if s.enginesRetired.contains k || s.repeatsOf k < 3 then M.idle
  set ({ s with enginesRetired := s.enginesRetired ++ [k],
                engineRepeats := s.engineRepeats.filter fun x => x.1 != k, factors := s.factors.filter fun f => f.1 != k }.event 3 15
    (8 + k.toNat) 3)

/-! ## The events -/

/-- A power sample (R357). -/
def execPowerSample (watts : Nat) (s : State) : Host.Outcome State Fault Refusal := event (powerEvent watts) s

/-- A monitor sample (R358). -/
def execMonitorSample (sensor : Sensor) (reading : Nat) (s : State) : Host.Outcome State Fault Refusal :=
  event (monitorEvent sensor reading) s

/-- A voltage droop (R358). -/
def execVoltageDroop (core : Nat) (s : State) : Host.Outcome State Fault Refusal := event (droopEvent core) s

/-- Bring-up (R359). -/
def execBringUp (cfg : BringUp) (s : State) : Host.Outcome State Fault Refusal := event (bringUpEvent cfg) s

/-- Power is lost (R353). -/
def execPowerLoss (s : State) : Host.Outcome State Fault Refusal := .next s.powerLost

/-- A core is taken out of service (R415). -/
def execCoreOutOfService (core : Nat) (s : State) : Host.Outcome State Fault Refusal := event (outOfServiceEvent core) s

/-- An HBM row is spared (R416). -/
def execHbmRowSpare (chan row : Nat) (s : State) : Host.Outcome State Fault Refusal := event (spareRow chan row) s

/-- A channel's retirement is requested (R416). -/
def execHbmChannelRetireRequest (chan : Nat) (s : State) : Host.Outcome State Fault Refusal := event (askRetire chan) s

/-- A channel is retired (R416). -/
def execHbmChannelRetire (chan : Nat) (s : State) : Host.Outcome State Fault Refusal := event (retireChannel chan) s

/-- A way is retired (R416). -/
def execDieCacheWayRetire (die way : Nat) (s : State) : Host.Outcome State Fault Refusal := event (retireWay die way) s

/-- A solver engine is retired (R416). -/
def execSolverEngineRetire (engine : BitVec 5) (s : State) : Host.Outcome State Fault Refusal :=
  event (retireEngine engine) s

/-- A firmware image is replaced (R416). -/
def execFirmwareUpdate (slot : BitVec 3) (image : List (BitVec 8)) (verified : Bool) (s : State) :
    Host.Outcome State Fault Refusal := event (updateFirmware slot image verified) s

end Sys2Proof.Machine
end

