-- ==== Sys2Proof/Machine/Scalar.lean ====
section
/-!
DEFINITION. Scalar instructions, majors 20 to 26 (09_isa_scalar_control.md R162 to R165).
-/

namespace Sys2Proof.Machine

/-! ## Values -/

/-- 1 or 0. -/
def truth (b : Bool) : Word := if b then 1 else 0

/-- Bits [127:64] of the exact signed product (R163). -/
def smulhSigned (a b : Word) : Word := BitVec.ofInt 64 (a.toInt * b.toInt / (2 : Int) ^ 64)

/-- Bits [127:64] of the exact unsigned product (R163). -/
def smulhUnsigned (a b : Word) : Word := BitVec.ofNat 64 (a.toNat * b.toNat / 2 ^ 64)

/-- The signed quotient toward zero; all ones for b = 0 (R163). -/
def sdivSigned (a b : Word) : Word := if b == 0 then -1 else BitVec.ofInt 64 (a.toInt.tdiv b.toInt)

/-- The unsigned quotient; all ones for b = 0 (R163). -/
def sdivUnsigned (a b : Word) : Word := if b == 0 then -1 else BitVec.ofNat 64 (a.toNat / b.toNat)

/-- a − b × quotient, with the sign of a; a for b = 0 (R163). -/
def sremSigned (a b : Word) : Word := if b == 0 then a else BitVec.ofInt 64 (a.toInt.tmod b.toInt)

/-- a − b × quotient; a for b = 0 (R163). -/
def sremUnsigned (a b : Word) : Word := if b == 0 then a else BitVec.ofNat 64 (a.toNat % b.toNat)

/-- Shift left by n mod 64 (R163). -/
def sshlBy (a : Word) (n : Nat) : Word := a <<< (n % 64)

/-- Logical shift right by n mod 64 (R163). -/
def sshrBy (a : Word) (n : Nat) : Word := a >>> (n % 64)

/-- Arithmetic shift right by n mod 64 (R163). -/
def ssarBy (a : Word) (n : Nat) : Word := a.sshiftRight (n % 64)

/-- Rotation left by n mod 64 (R163). -/
def srotlBy (a : Word) (n : Nat) : Word := a.rotateLeft (n % 64)

/-! ## Shapes of instruction -/

/-- sd := f(a, b), SA checked before SB before the destination (R161, R163). -/
def scalarTwo (f : Word → Word → Word) (sb sa : SSrc) (sd : BitVec 6) (v : View) : Except Stop View := do
  let a ← v.readS posSA sa
  let b ← v.readS posSB sb
  v.writeS sd (f a b)

/-- sd := f(a) (R163, R164). -/
def scalarOne (f : Word → Word) (sa : SSrc) (sd : BitVec 6) (v : View) : Except Stop View := do
  let a ← v.readS posSA sa
  v.writeS sd (f a)

/-- Replaces quarter q of a word (R165). -/
def setQuarter (x : Word) (q : BitVec 2) (imm : BitVec 16) : Word :=
  (x &&& ~~~(0xFFFF#64 <<< (16 * q.toNat))) ||| (imm.setWidth 64 <<< (16 * q.toNat))

/-- `slk` reads and writes its destination (R165). -/
def scalarKeep (imm : BitVec 16) (q : BitVec 2) (sd : BitVec 6) (v : View) : Except Stop View := do
  v.checkS posD sd
  return v.setS sd (setQuarter (v.scalar sd) q imm)

/-! ## Meanings -/

/-- `sadd: (a + b) mod 2^64`. -/
def execSadd (sb sa : SSrc) (sd : BitVec 6) (s : State) : Host.Outcome State Fault Refusal :=
  regOp 4 (scalarTwo (fun a b => a + b) sb sa sd) s

/-- `ssub: (a − b) mod 2^64`. -/
def execSsub (sb sa : SSrc) (sd : BitVec 6) (s : State) : Host.Outcome State Fault Refusal :=
  regOp 4 (scalarTwo (fun a b => a - b) sb sa sd) s

/-- `smul: (a × b) mod 2^64`. -/
def execSmul (sb sa : SSrc) (sd : BitVec 6) (s : State) : Host.Outcome State Fault Refusal :=
  regOp 4 (scalarTwo (fun a b => a * b) sb sa sd) s

/-- `smulh.s: bits [127:64] of the signed product`. -/
def execSmulhS (sb sa : SSrc) (sd : BitVec 6) (s : State) : Host.Outcome State Fault Refusal :=
  regOp 4 (scalarTwo smulhSigned sb sa sd) s

/-- `smulh.n: bits [127:64] of the unsigned product`. -/
def execSmulhN (sb sa : SSrc) (sd : BitVec 6) (s : State) : Host.Outcome State Fault Refusal :=
  regOp 4 (scalarTwo smulhUnsigned sb sa sd) s

/-- `sdiv.s`. -/
def execSdivS (sb sa : SSrc) (sd : BitVec 6) (s : State) : Host.Outcome State Fault Refusal :=
  regOp 4 (scalarTwo sdivSigned sb sa sd) s

/-- `sdiv.n`. -/
def execSdivN (sb sa : SSrc) (sd : BitVec 6) (s : State) : Host.Outcome State Fault Refusal :=
  regOp 4 (scalarTwo sdivUnsigned sb sa sd) s

/-- `srem.s`. -/
def execSremS (sb sa : SSrc) (sd : BitVec 6) (s : State) : Host.Outcome State Fault Refusal :=
  regOp 4 (scalarTwo sremSigned sb sa sd) s

/-- `srem.n`. -/
def execSremN (sb sa : SSrc) (sd : BitVec 6) (s : State) : Host.Outcome State Fault Refusal :=
  regOp 4 (scalarTwo sremUnsigned sb sa sd) s

/-- `sand`. -/
def execSand (sb sa : SSrc) (sd : BitVec 6) (s : State) : Host.Outcome State Fault Refusal :=
  regOp 4 (scalarTwo (fun a b => a &&& b) sb sa sd) s

/-- `sor`. -/
def execSor (sb sa : SSrc) (sd : BitVec 6) (s : State) : Host.Outcome State Fault Refusal :=
  regOp 4 (scalarTwo (fun a b => a ||| b) sb sa sd) s

/-- `sxor`. -/
def execSxor (sb sa : SSrc) (sd : BitVec 6) (s : State) : Host.Outcome State Fault Refusal :=
  regOp 4 (scalarTwo (fun a b => a ^^^ b) sb sa sd) s

/-- `sandn: a AND NOT b`. -/
def execSandn (sb sa : SSrc) (sd : BitVec 6) (s : State) : Host.Outcome State Fault Refusal :=
  regOp 4 (scalarTwo (fun a b => a &&& ~~~b) sb sa sd) s

/-- `sshl: by b mod 64`. -/
def execSshl (sb sa : SSrc) (sd : BitVec 6) (s : State) : Host.Outcome State Fault Refusal :=
  regOp 4 (scalarTwo (fun a b => sshlBy a b.toNat) sb sa sd) s

/-- `sshr.n: by b mod 64`. -/
def execSshrN (sb sa : SSrc) (sd : BitVec 6) (s : State) : Host.Outcome State Fault Refusal :=
  regOp 4 (scalarTwo (fun a b => sshrBy a b.toNat) sb sa sd) s

/-- `sshr.s: by b mod 64`. -/
def execSshrS (sb sa : SSrc) (sd : BitVec 6) (s : State) : Host.Outcome State Fault Refusal :=
  regOp 4 (scalarTwo (fun a b => ssarBy a b.toNat) sb sa sd) s

/-- `srotl: by b mod 64`. -/
def execSrotl (sb sa : SSrc) (sd : BitVec 6) (s : State) : Host.Outcome State Fault Refusal :=
  regOp 4 (scalarTwo (fun a b => srotlBy a b.toNat) sb sa sd) s

/-- `smin.s`. -/
def execSminS (sb sa : SSrc) (sd : BitVec 6) (s : State) : Host.Outcome State Fault Refusal :=
  regOp 4 (scalarTwo (fun a b => if a.slt b then a else b) sb sa sd) s

/-- `smin.n`. -/
def execSminN (sb sa : SSrc) (sd : BitVec 6) (s : State) : Host.Outcome State Fault Refusal :=
  regOp 4 (scalarTwo (fun a b => if a.ult b then a else b) sb sa sd) s

/-- `smax.s`. -/
def execSmaxS (sb sa : SSrc) (sd : BitVec 6) (s : State) : Host.Outcome State Fault Refusal :=
  regOp 4 (scalarTwo (fun a b => if a.slt b then b else a) sb sa sd) s

/-- `smax.n`. -/
def execSmaxN (sb sa : SSrc) (sd : BitVec 6) (s : State) : Host.Outcome State Fault Refusal :=
  regOp 4 (scalarTwo (fun a b => if a.ult b then b else a) sb sa sd) s

/-- `sslt.s`. -/
def execSsltS (sb sa : SSrc) (sd : BitVec 6) (s : State) : Host.Outcome State Fault Refusal :=
  regOp 4 (scalarTwo (fun a b => truth (a.slt b)) sb sa sd) s

/-- `sslt.n`. -/
def execSsltN (sb sa : SSrc) (sd : BitVec 6) (s : State) : Host.Outcome State Fault Refusal :=
  regOp 4 (scalarTwo (fun a b => truth (a.ult b)) sb sa sd) s

/-- `sseq`. -/
def execSseq (sb sa : SSrc) (sd : BitVec 6) (s : State) : Host.Outcome State Fault Refusal :=
  regOp 4 (scalarTwo (fun a b => truth (a == b)) sb sa sd) s

/-- `spopc: number of 1 bits`. -/
def execSpopc (sa : SSrc) (sd : BitVec 6) (s : State) : Host.Outcome State Fault Refusal :=
  regOp 4 (scalarOne (fun a => BitVec.ofNat 64 (popcBits 64 a.toNat)) sa sd) s

/-- `sclz: leading zeros, 64 for 0`. -/
def execSclz (sa : SSrc) (sd : BitVec 6) (s : State) : Host.Outcome State Fault Refusal :=
  regOp 4 (scalarOne (fun a => BitVec.ofNat 64 (clzBits 64 a.toNat)) sa sd) s

/-- `sctz: trailing zeros, 64 for 0`. -/
def execSctz (sa : SSrc) (sd : BitVec 6) (s : State) : Host.Outcome State Fault Refusal :=
  regOp 4 (scalarOne (fun a => BitVec.ofNat 64 (ctzBits 64 a.toNat)) sa sd) s

/-- `smov`. -/
def execSmov (sa : SSrc) (sd : BitVec 6) (s : State) : Host.Outcome State Fault Refusal :=
  regOp 4 (scalarOne (fun a => a) sa sd) s

/-- `saddi: sign-extended immediate`. -/
def execSaddi (imm : BitVec 12) (sa : SSrc) (sd : BitVec 6) (s : State) : Host.Outcome State Fault Refusal :=
  regOp 4 (scalarOne (fun a => a + imm.signExtend 64) sa sd) s

/-- `sandi: zero-extended immediate`. -/
def execSandi (imm : BitVec 12) (sa : SSrc) (sd : BitVec 6) (s : State) : Host.Outcome State Fault Refusal :=
  regOp 4 (scalarOne (fun a => a &&& imm.setWidth 64) sa sd) s

/-- `sori: zero-extended immediate`. -/
def execSori (imm : BitVec 12) (sa : SSrc) (sd : BitVec 6) (s : State) : Host.Outcome State Fault Refusal :=
  regOp 4 (scalarOne (fun a => a ||| imm.setWidth 64) sa sd) s

/-- `sxori: zero-extended immediate`. -/
def execSxori (imm : BitVec 12) (sa : SSrc) (sd : BitVec 6) (s : State) : Host.Outcome State Fault Refusal :=
  regOp 4 (scalarOne (fun a => a ^^^ imm.setWidth 64) sa sd) s

/-- `sshli`. -/
def execSshli (amt : BitVec 6) (sa : SSrc) (sd : BitVec 6) (s : State) : Host.Outcome State Fault Refusal :=
  regOp 4 (scalarOne (fun a => sshlBy a amt.toNat) sa sd) s

/-- `sshri.n`. -/
def execSshriN (amt : BitVec 6) (sa : SSrc) (sd : BitVec 6) (s : State) : Host.Outcome State Fault Refusal :=
  regOp 4 (scalarOne (fun a => sshrBy a amt.toNat) sa sd) s

/-- `sshri.s`. -/
def execSshriS (amt : BitVec 6) (sa : SSrc) (sd : BitVec 6) (s : State) : Host.Outcome State Fault Refusal :=
  regOp 4 (scalarOne (fun a => ssarBy a amt.toNat) sa sd) s

/-- `srotli`. -/
def execSrotli (amt : BitVec 6) (sa : SSrc) (sd : BitVec 6) (s : State) : Host.Outcome State Fault Refusal :=
  regOp 4 (scalarOne (fun a => srotlBy a amt.toNat) sa sd) s

/-- `sli`: IMM << 16q (R165). -/
def execSli (imm : BitVec 16) (q : BitVec 2) (sd : BitVec 6) (s : State) : Host.Outcome State Fault Refusal :=
  regOp 4 (fun v => v.writeS sd (setQuarter 0 q imm)) s

/-- `slk`: quarter q replaced (R165). -/
def execSlk (imm : BitVec 16) (q : BitVec 2) (sd : BitVec 6) (s : State) : Host.Outcome State Fault Refusal :=
  regOp 4 (scalarKeep imm q sd) s

end Sys2Proof.Machine
end

