-- ==== Sys2Proof/Machine/Shadow.lean ====
section
/-!
DEFINITION. Paired families: the copies of a family, what commits, the digests of primary and shadow, epochs, and the
third-run vote (17_determinism.md R333, R334; 26_faults_reliability_links.md R409, R410). A copy is run by making the
primary's move on a state in which the copy stands in the primary's place, of which only the copy's own part is kept: no
effect leaves it (log 24).
-/

namespace Sys2Proof

/-! ## Commit points (R334) -/

/-- Whether an instruction is a commit point of a paired family (R334). -/
def wordCommits (d : Decoded) : Bool :=
  match d with
  | .instr i =>
    match i with
    | .rel sc | .fence sc | .bar sc _ => sc != .team && sc != .gang
    | .gbar _ _ | .cbwait _ => true
    | .atomAdd _ _ _ _ | .atomMin _ _ _ _ | .atomMax _ _ _ _ | .atomAnd _ _ _ _ | .atomOr _ _ _ _
    | .atomXor _ _ _ _ | .atomXchg _ _ _ _ | .atomCas _ _ _ _ | .ldfe _ _ _ _ | .stfe _ _ _ _ | .ldf _ _ _ _ => true
    | .mm _ _ _ _ _ | .mmSp _ _ _ _ _ | .mmo _ _ _ _ _ | .mmoSp _ _ _ _ _ | .enq _ _ _ | .eseq _ _ | .ewait _ _ _ => true
    | .cscene _ _ | .cclose _ | .ckind _ _ _ | .clink _ _ _ | .cunlink _ _ _ | .cstep _ _ | .cwake _ _
    | .cquery _ _ _ | .csleep => true
    | _ => false
  | .tcinv _ _ _ => true
  | .hint _ _ => false

/-- The operands of a commit point: matrix views, scalars, and the registers whose active lanes are read (log 24). -/
structure CommitSources where
  maps : List (BitVec 4)
  scalars : List SSrc
  vectors : List VSrc

/-- The sources of a commit point, in the order of its record's operand values. -/
def Instr.commitSources : Instr → CommitSources
  | .cbwait sa | .cscene sa _ | .cclose sa | .cstep sa _ | .enq _ sa _ | .ewait _ sa _ => { maps := [], scalars := [sa], vectors := [] }
  | .atomAdd b ix vd _ | .atomMin b ix vd _ | .atomMax b ix vd _ | .atomAnd b ix vd _ | .atomOr b ix vd _
  | .atomXor b ix vd _ | .atomXchg b ix vd _ | .atomCas b ix vd _ | .stfe b ix vd _ =>
    { maps := [], scalars := [.s (b.setWidth 6)], vectors := [ix, .v vd] }
  | .ldfe b ix _ _ | .ldf b ix _ _ => { maps := [], scalars := [.s (b.setWidth 6)], vectors := [ix] }
  | .mm _ _ a b _ | .mmSp _ _ a b _ => { maps := [a, b], scalars := [], vectors := [] }
  | .mmo _ vd va b _ | .mmoSp _ vd va b _ => { maps := [b], scalars := [], vectors := [.v va, .v vd] }
  | .ckind _ sa vb | .clink _ sa vb | .cunlink _ sa vb | .cwake sa vb | .cquery _ sa vb =>
    { maps := [], scalars := [sa], vectors := [.v vb] }
  | _ => { maps := [], scalars := [], vectors := [] }

/-- The sources of a decoded commit point. -/
def Decoded.commitSources : Decoded → CommitSources
  | .instr i => i.commitSources
  | .tcinv _ _ sa => { maps := [], scalars := [sa], vectors := [] }
  | .hint _ _ => { maps := [], scalars := [], vectors := [] }

/-- Where an instruction writes what it receives from outside its family: vector registers, with whether each is a pair,
and scalar registers (R333). -/
def Instr.receives : Instr → List (BitVec 6 × Bool) × List (BitVec 6)
  | .ld _ _ vd f _ | .atomAdd _ _ vd f | .atomMin _ _ vd f | .atomMax _ _ vd f | .atomAnd _ _ vd f | .atomOr _ _ vd f
  | .atomXor _ _ vd f | .atomXchg _ _ vd f | .atomCas _ _ vd f => ([(vd, f.isPair)], [])
  | .cquery _ _ vb => ([(vb + 1, false)], [])
  | .bar _ sd | .gbar _ sd | .eseq _ sd | .ewait _ _ sd | .enq _ _ sd | .cscene _ sd | .cstep _ sd | .rdclk _ sd
  | .rdid _ sd => ([], [sd])
  | _ => ([], [])

/-- Where a decoded word writes what it receives. -/
def Decoded.receives : Decoded → List (BitVec 6 × Bool) × List (BitVec 6)
  | .instr i => i.receives
  | .tcinv _ _ _ | .hint _ _ => ([], [])

end Sys2Proof

namespace Sys2Proof.Machine

/-! ## What is a family's own -/

/-- What belongs to a family on its core: its partition, gangs, gang slots and teams. -/
structure Share where
  family : Nat
  base : Nat
  size : Nat
  gangs : List Nat
  slots : List (BitVec 5)
  teams : List Nat

/-- The share of a family. -/
def State.shareOf (s : State) (f : Family) : Share :=
  let gs := s.gangsOf f.uid
  { family := f.uid, base := f.partBase, size := f.partSize, gangs := gs.map fun (g : Gang) => g.uid
    slots := (gs.filter fun (g : Gang) => g.core.isSome).map fun (g : Gang) => g.gslot
    teams := (s.teamsIn f.uid).map fun (t : Team) => t.id }

/-- The part of a core that is a family's own, or the rest of it. -/
def Core.part (c : Core) (x : Share) (own : Bool) : Core :=
  let inside (a : Nat) : Bool := decide (x.base ≤ a) && decide (a < x.base + x.size)
  let team (t : Nat) : Bool := x.teams.contains t == own
  { c with
    scratch := c.scratch.filter fun p => inside p.1 == own
    full := c.full.filter fun w => inside (8 * w) == own
    arrivals := c.arrivals.filter fun a => team a.2.1
    tiles := c.tiles.filter fun p => x.slots.contains p.2.gslot == own
    log := c.log.filter fun e => team e.team
    abuf := c.abuf.filter fun e => team e.team
    spawnq := c.spawnq.filter fun k => x.gangs.contains k.gang == own
    weight := c.weight.bind fun w => if (w.family == x.family) == own then some w else none
    passes := c.passes.filter fun p => (p.family == x.family) == own
    owner := c.owner.bind fun t => if team t then some t else none }

/-- Merges two lists that rise under `le`. -/
def mergeRising (le : α → α → Bool) : List α → List α → List α
  | [], ys => ys
  | x :: xs, ys => (ys.takeWhile fun y => !le x y) ++ x :: mergeRising le xs (ys.dropWhile fun y => !le x y)

/-- A list that rises in a key with the part inside a range replaced. -/
def spliceRange (key : α → Nat) (base size : Nat) (xs own : List α) : List α :=
  (xs.filter fun a => decide (key a < base)) ++
    (own.filter fun a => decide (base ≤ key a) && decide (key a < base + size)) ++
      xs.filter fun a => decide (base + size ≤ key a)

/-- A core with a family's own part put back; the latches are the family's while its team has the turn. -/
def Core.join (c own : Core) (x : Share) (turn : Bool) : Core :=
  let c := { c with
    scratch := spliceRange (fun p : Nat × BitVec 8 => p.1) x.base x.size c.scratch own.scratch
    full := spliceRange (fun w : Nat => 8 * w) x.base x.size c.full own.full
    arrivals := c.arrivals ++ own.arrivals
    tiles := mergeRising (fun a b : BitVec 8 × Tile => decide (a.1.toNat ≤ b.1.toNat)) c.tiles own.tiles
    log := mergeRising (fun a b : LogEntry => decide (a.lsn.toNat ≤ b.lsn.toNat)) c.log own.log
    abuf := c.abuf ++ own.abuf
    spawnq := c.spawnq ++ own.spawnq
    weight := own.weight.or c.weight
    passes := c.passes ++ own.passes
    latches := if turn then own.latches else c.latches }
  if own.owner.isSome then
    { c with owner := own.owner, k := own.k, kv := own.kv, cause := own.cause, epc := own.epc, eaddr := own.eaddr
             emask := own.emask }
  else c

/-- A family as it stands, as a copy of it. -/
def State.copyOf (s : State) (f : Family) (third : Bool) (inputs : List Forward) : Copy :=
  { third := third, family := f, gangs := s.gangsOf f.uid, teams := s.teamsIn f.uid
    core := (s.core f.core).part (s.shareOf f) true, inputs := inputs }

/-- Whether the turn is a family's. -/
def State.turnIn (s : State) (x : Share) : Bool := s.cur.any fun t => x.teams.contains t

/-- The state with a copy in its family's place, and without copies: its primary's core, resources and votes are those of
the state. -/
def State.enter (s : State) (c : Copy) : State :=
  match s.family? c.family.uid with
  | none => s
  | some f =>
    let x := s.shareOf f
    let s := { s with
      copies := [], epochs := []
      upsets := s.upsets.filter fun u => match u with
        | .digest _ => false
        | _ => true
      teams := (s.teams.filterMap fun (t : Team) =>
        if x.teams.contains t.id then c.teams.find? fun (u : Team) => u.id == t.id else some t) ++
          c.teams.filter fun (u : Team) => !x.teams.contains u.id
      gangs := (s.gangs.filterMap fun (g : Gang) =>
        if x.gangs.contains g.uid then c.gangs.find? fun (h : Gang) => h.uid == g.uid else some g) ++
          c.gangs.filter fun (h : Gang) => !x.gangs.contains h.uid
      families := setWhere (fun h => h.uid == f.uid)
        { c.family with core := f.core, shadowCore := f.shadowCore, shadowBase := f.shadowBase, mismatch := f.mismatch } s.families }
    if f.resident then s.modCore f.core fun k => (k.part x false).join c.core x (s.turnIn x) else s

/-! ## Digests (R334) -/

/-- The instruction a team issues next, when it can be fetched and decoded. -/
def State.nextWord (s : State) (t : Team) : Option (BitVec 32 × Decoded) :=
  match M.fetch t s with
  | .ok (w, _) _ =>
    (decodeFetched (w.extractLsb' 0 16) (w.extractLsb' 16 16)).toOption.map fun d => (w, d)
  | .error _ _ => none

/-- What a team issues next, when it can be fetched and decoded. -/
def State.upcoming (s : State) (t : Team) : Option Decoded := (s.nextWord t).map Prod.snd

/-- The operand values of a commit point: its matrix maps, its scalar sources, then the active lanes of its vector sources
in ascending index. The spec does not say which values they are (log 24). -/
def View.commitValues (v : View) (x : CommitSources) : List Nat :=
  (x.maps.map fun k => (v.team.om.getD k.toNat 0).toNat) ++
    (x.scalars.map fun a =>
      match v.readS posSA a with
      | .ok w => w.toNat
      | .error _ => 0) ++
    x.vectors.flatMap fun a =>
      match v.fetch posIX a Tag.isPair with
      | .ok r => v.team.lanes.map fun l => (r.lo.read l).toNat + (if r.pair then (r.hi.read l).toNat * 2 ^ 32 else 0)
      | .error _ => []

/-- The 64-byte record of a commit point (R334). -/
def State.commitRecord (s : State) (t : Team) (w : BitVec 32) (d : Decoded) : List Byte :=
  let xs := (View.of t (s.core t.core)).commitValues d.commitSources
  bytesOf 4 w.toNat ++ bytesOf 4 0 ++ ((List.range 5).flatMap fun i => bytesOf 8 (xs.getD i 0)) ++ bytesOf 8 1 ++
    bytesOf 8 t.lclk.toNat

/-- The digest of a team at the commit point it stands at. -/
def State.commitDigest (s : State) (t : Team) (w : BitVec 32) (d : Decoded) : BitVec 256 :=
  shake256 (t.records ++ s.commitRecord t w d)

/-- Whether a team may issue: it may, it waits, or its copies differ, with the digests of primary and shadow. -/
inductive Agreement where
  | go
  | hold
  | differ (p q : BitVec 256)
  deriving DecidableEq, Repr

/-- What primary and shadow say at a commit point: the shadow is held to the same instruction, LCLK and digest, waited for
while it stands before a commit point, and differs from then on (R334). -/
def State.compare (s : State) (t : Team) (p : BitVec 256) (c : Copy) : Agreement :=
  let v := s.enter c
  match v.team? t.id with
  | none => .differ p 0
  | some u =>
    match v.nextWord u with
    | none => if u.gone then .differ p (shake256 u.records) else .hold
    | some (w, d) =>
      if u.gone then .differ p (shake256 u.records)
      else if !wordCommits d then .hold
      else
        let q := v.commitDigest u w d
        if u.arm.pc == t.arm.pc && u.lclk == t.lclk && p == q then .go else .differ p q

/-- Forwarded bytes of a team that its shadow has not taken (R333). -/
def State.unconsumed (s : State) (t : Team) : Nat :=
  sumOf ((s.copies.filter fun c => !c.third).flatMap fun c =>
    (c.inputs.filter fun i => i.team == t.id).map fun i => i.bytes)

/-- Forwarded bytes at which a team stalls (R333). -/
def forwardLimit : Nat := 65536

/-- Whether a team may issue its next instruction, as far as its family's copies are concerned (R333, R334). -/
def State.agreement (s : State) (t : Team) : Agreement :=
  if s.copies.isEmpty && s.upsets.isEmpty then .go
  else
    match s.familyOf? t with
    | none => .go
    | some f =>
      if !f.paired then .go
      else if forwardLimit ≤ s.unconsumed t then .hold
      else
        match s.nextWord t with
        | none => .go
        | some (w, d) =>
          if !wordCommits d then .go
          else
            let p := s.commitDigest t w d
            match s.upsets, s.copies.find? fun c => c.family.uid == f.uid && !c.third with
            | .digest q :: _, _ => if p == q then .go else .differ p q
            | _, none => .go
            | _, some c => s.compare t p c

/-- Digests that differ stop both copies before the instruction at the commit point (R334, R410). -/
def State.mismatchAt (s : State) (t : Team) (p q : BitVec 256) : State :=
  match s.familyOf? t with
  | none => s
  | some f =>
    ({ s with
        upsets := match s.upsets with
          | .digest _ :: es => es
          | es => es }.putFamily { f with mismatch := some (t.id, p, q) }).mapTeamsIn f.uid fun u =>
      u.pauseTimers s.tick.toNat

/-- Flips bits of a register's lane in a team's primary or in its shadow. -/
def Team.flip (t : Team) (reg : BitVec 6) (lane : Nat) (bits : Elem) : Team :=
  let r := t.v[reg.toNat]
  { t with v := t.v.set reg.toNat { r with
      shape := .general ((List.range t.size).map fun l => if l = lane then r.read l ^^^ bits else r.read l) } }

/-- An error that nothing has seen yet, in one copy of a team (R334). -/
def State.flip (s : State) (shadow : Bool) (team : Nat) (reg : BitVec 6) (lane : Nat) (bits : Elem) : State :=
  if shadow then
    { s with copies := s.copies.map fun (c : Copy) =>
        if c.third then c
        else { c with teams := c.teams.map fun (t : Team) => if t.id == team then t.flip reg lane bits else t } }
  else s.modTeam team fun t => t.flip reg lane bits

/-! ## The third-run vote (R410) -/

/-- The digest of the third copy at the commit point that a team stands at. -/
def State.thirdDigest (s : State) (family team : Nat) : Option (BitVec 256) :=
  (s.copies.find? fun c => c.family.uid == family && c.third).map fun c =>
    let v := s.enter c
    match v.team? team with
    | none => 0
    | some u =>
      match v.nextWord u with
      | some (w, d) => if wordCommits d then v.commitDigest u w d else shake256 u.records
      | none => shake256 u.records

/-- Whether the epoch of a family lets a third run be made: its record has not overflowed, and the third copy has met
every committed digest. -/
def State.votable (s : State) (family : Nat) : Bool :=
  (s.epochs.filter fun e => e.family == family).all fun e => e.votable && e.faithful

/-- Counts a lost vote against a core (R410, R415). -/
def State.loseVote (s : State) (core : Nat) : State := s.modCore core fun c =>
  { c with lostVotes := recent s.tick.toNat c.lostVotes }

/-- The third copy becomes the shadow, on a core other than the two copies'. -/
def State.thirdForShadow (s : State) (f : Family) (shadow : Nat) : State :=
  let next := s.chooseCore (s.needOf f) [f.core, shadow]
  let third := (s.copies.find? fun c => c.family.uid == f.uid && c.third).toList.map fun (c : Copy) => { c with third := false }
  { s.putFamily { f with mismatch := none, shadowCore := some (next.getD shadow) } with
    copies := third ++ s.copies.filter fun c => !(c.family.uid == f.uid && !c.third) }

/-- Moves a resident family to another core as it stands, with its shadow's core kept: its matrix passes, waiting accesses
and trap bank go with it. -/
def State.moveFamily (s : State) (f : Family) (core : Nat) : State :=
  let part := (s.core f.core).part (s.shareOf f) true
  let (logs, s) := s.takeAllLogs ((s.teamsIn f.uid).filter fun t => !t.gone)
  let saved := s.savedFamily f logs
  let s := (s.modCore f.core fun c => c.part (s.shareOf f) false).leaveCore f
  let s := (s.putFamily saved).restoreFamily saved core f.shadowCore []
  let base := ((s.family? f.uid).map fun h => h.partBase).getD 0
  let shift (v : MatView) : MatView := if v.tile.isSome then { v with base := v.base - f.partBase + base } else v
  s.modCore core fun c =>
    let c := { c with
      arrivals := c.arrivals ++ part.arrivals.map fun (a : Nat × Nat × Nat) => (a.1 - f.partBase / 8 + base / 8, a.2)
      passes := c.passes ++ part.passes.map fun (p : Pass) => { p with a := shift p.a, b := shift p.b } }
    if part.owner.isSome then
      { c with owner := part.owner, k := part.k, kv := part.kv, cause := part.cause, epc := part.epc, eaddr := part.eaddr
               emask := part.emask }
    else c

/-- The third copy becomes the primary, on a core other than the two copies' if one is free: its entries since its last
commit are its unpublished entries. The copies follow it. -/
def State.thirdForPrimary (s : State) (f : Family) (shadow : Nat) : State :=
  let next := s.chooseCore (s.needOf f) [f.core, shadow]
  let move (v : State) : State :=
    match next, v.family? f.uid with
    | some k, some h => v.moveFamily h k
    | _, _ => v
  let moved (c : Copy) : Copy :=
    let w := move (s.enter c)
    match w.family? f.uid with
    | none => c
    | some h => w.copyOf h c.third c.inputs
  match s.copies.find? fun c => c.family.uid == f.uid && c.third with
  | none => s.putFamily { f with mismatch := none }
  | some c =>
    let log := c.core.log.map fun (e : LogEntry) => { e with state := .logged }
    let v := move (s.enter { c with core := { c.core with log := log } })
    { v with
      copies := s.copies.map fun d => if d.family.uid == f.uid then moved d else d
      epochs := s.epochs, upsets := s.upsets
      families := v.families.map fun (h : Family) => if h.uid == f.uid then { h with mismatch := none } else h }

/-- The vote of the third run, whose digest is that of the family's third copy unless the run itself gives another
(R410). -/
def voteEvent (family : Nat) (third : Option (BitVec 256)) : M Unit := do
  let s ← get
  match s.family? family with
  | none => M.idle
  | some f =>
    match f.mismatch with
    | none => M.idle
    | some (team, p, q) =>
      let detail := f.logical.toNat
      let resume (s : State) : State := (s.teamsIn family).foldl (fun (s : State) t => s.resumeTeam t.id) s
      let shadow := f.shadowCore.getD f.core
      let settled := resume (s.putFamily { f with mismatch := none })
      match if s.votable family then third.or (s.thirdDigest family team) else none with
      | none => set ((settled.haltFamily family 0x1C4).event 0 5 f.core detail)
      | some d =>
        if d == p then set (resume (((s.loseVote shadow).thirdForShadow f shadow).event 0 3 shadow detail))
        else if d == q then set (resume (((s.loseVote f.core).thirdForPrimary f shadow).event 0 4 f.core detail))
        else set ((settled.haltFamily family 0x1C3).event 0 5 f.core detail)

/-- The third-run vote (R410). -/
def execThirdRunVote (family : Nat) (third : Option (BitVec 256)) (s : State) : Host.Outcome State Fault Refusal :=
  event (voteEvent family third) s

/-! ## Forwarded values (R333) -/

/-- The value of a vector result's place. -/
def State.valueAt (s : State) (t : Team) : VTarget → VReg
  | .v n => t.v.getD n VReg.zero
  | .kv n => (s.core t.core).kv.getD n VReg.zero

/-- The registers of a result: one, or a pair. -/
def VTarget.spread (r : VTarget) (pair : Bool) : List VTarget :=
  if !pair then [r]
  else
    match r with
    | .v n => [.v n, .v (n + 1)]
    | .kv n => [.kv n, .kv (n + 1)]

/-- Whether an issued instruction receives its result from outside the family: a global or window load, or a returning
atomic. -/
def Pending.fromOutside (p : Pending) : Bool :=
  match p.work with
  | .load _ _ | .atomic _ _ _ _ => true
  | .result _ _ _ _ | .append _ _ => false

/-- What a team has received by a move from `s` to `u`: the results of issued instructions that it had outstanding, and
those of the instruction `d` it has executed. -/
def State.received (s u : State) (team : Nat) (d : Option Decoded) : List Forward :=
  match s.team? team, u.team? team with
  | some a, some b =>
    let late := (a.pend.filter fun p => p.fromOutside && !b.pend.any fun q => q.id == p.id).filterMap fun p =>
      p.target.map fun r =>
        let rs := r.spread p.pair
        { team := team, regs := rs.map fun x => (x, u.valueAt b x), words := []
          bytes := 4 * rs.length * (lanesOf p.mask a.size).length : Forward }
    let now :=
      match d with
      | none => []
      | some d =>
        if a.issued == b.issued then []
        else
          let v := View.of a (s.core a.core)
          let rs := (d.receives.1.flatMap fun x => (v.targetOf x.1).spread x.2).filter fun x =>
            !b.pend.any fun q => q.writes x
          let ws := d.receives.2
          if rs.isEmpty && ws.isEmpty then []
          else
            [{ team := team, regs := rs.map fun x => (x, u.valueAt b x)
               words := ws.map fun r => (r, (View.of b (u.core b.core)).scalar r)
               bytes := 4 * rs.length * a.lanes.length + 8 * ws.length : Forward }]
    late ++ now
  | _, _ => []

/-- Writes a forwarded value. -/
def State.take (s : State) (i : Forward) : State :=
  match s.team? i.team with
  | none => s
  | some t =>
    let v := View.of t (s.core t.core)
    let v := i.words.foldl (fun (v : View) p => v.setS p.1 p.2) v
    s.putView (i.regs.foldl (fun (v : View) p =>
      match p.1 with
      | .v n => { v with team := { v.team with v := v.team.v.setIfInBounds n p.2 } }
      | .kv n => { v with kv := v.kv.setIfInBounds n p.2 }) v)

/-- For each value a copy's team has received by its own move, the oldest one forwarded to it takes its place. -/
def State.takeInputs (s : State) : List Forward → List Forward → State × List Forward
  | [], inputs => (s, inputs)
  | g :: gs, inputs =>
    match inputs.find? fun i => i.team == g.team with
    | none => s.takeInputs gs inputs
    | some i => (s.take i).takeInputs gs (inputs.erase i)

/-! ## Epochs (R409) -/

/-- Bytes recorded per epoch, and for each digest or 32 bytes of values (R409). -/
def epochLimit : Nat := 2 ^ 26
def epochCell : Nat := 32

/-- Bytes of an epoch's record. -/
def Epoch.bytes (e : Epoch) : Nat :=
  epochCell * (e.digests.length + sumOf (e.values.map fun i => (i.bytes + epochCell - 1) / epochCell))

/-- Records values and a digest; the first beyond the limit marks the epoch unvotable. -/
def Epoch.record (e : Epoch) (values : List Forward) (digest : Option (BitVec 256)) : Epoch :=
  if !e.votable then e
  else
    let n := { e with values := e.values ++ values, digests := e.digests ++ digest.toList }
    if epochLimit < n.bytes then { e with votable := false } else n

/-- The images of a copy's gangs (R303, R409). -/
def State.imagesOf (s : State) (c : Copy) : List (List Byte) :=
  let v := (s.enter c).saveFamily c.family.uid
  (v.gangsOf c.family.uid).map fun (g : Gang) => g.image

/-- Adds a copy. -/
def State.addCopy (s : State) (c : Copy) : State := { s with copies := c :: s.copies }

/-- An epoch begins: the shadow writes its images, and the third copy starts from them. -/
def State.beginEpoch (s : State) (shadow : Copy) : State :=
  let u := shadow.family.uid
  { s with
    copies := (s.copies.filter fun c => !(c.family.uid == u && c.third)) ++ [{ shadow with third := true }]
    epochs := { family := u, images := s.imagesOf shadow, values := [], digests := [], votable := true, faithful := true } ::
      s.epochs.filter fun e => e.family != u }

/-- Whether a move from `s` to `u` begins an epoch of a family: a gang barrier of it has completed, or the step boundary
has restarted its island gang from ENTRY. -/
def State.epochBegins (s u : State) (family : Nat) : Bool :=
  (u.gangsOf family).any fun g =>
    ((s.gang? g.uid).any fun h => h.barGen != g.barGen) ||
      (g.island.any fun i =>
        ((s.scene? i.scene.toNat).map fun c => c.step) != ((u.scene? i.scene.toNat).map fun c => c.step))

end Sys2Proof.Machine
end

