-- ==== Sys2Proof/Machine/Short.lean ====
section
/-!
DEFINITION. The 16-bit forms: each is its 32-bit equivalent with SA = VD, two bytes long (08_encoding.md R152).
-/

namespace Sys2Proof.Machine

/-- The 16-bit `mov` (R152, R193). -/
def execMovShort (ss : BitVec 5) (vd : BitVec 6) (s : State) : Host.Outcome State Fault Refusal :=
  regOp 2 (moveReg (shortSrc ss) vd false) s

/-- The 16-bit `add.f32` (R152). -/
def execAddF32Short (ss : BitVec 5) (vd : BitVec 6) (s : State) : Host.Outcome State Fault Refusal :=
  regOp 2 (floatTwo .add .f32 (shortSrc ss) (.v vd) vd false 0) s

/-- The 16-bit `sub.f32` (R152). -/
def execSubF32Short (ss : BitVec 5) (vd : BitVec 6) (s : State) : Host.Outcome State Fault Refusal :=
  regOp 2 (floatTwo .sub .f32 (shortSrc ss) (.v vd) vd false 0) s

/-- The 16-bit `mul.f32` (R152). -/
def execMulF32Short (ss : BitVec 5) (vd : BitVec 6) (s : State) : Host.Outcome State Fault Refusal :=
  regOp 2 (floatTwo .mul .f32 (shortSrc ss) (.v vd) vd false 0) s

/-- The 16-bit `min.f32` (R152). -/
def execMinF32Short (ss : BitVec 5) (vd : BitVec 6) (s : State) : Host.Outcome State Fault Refusal :=
  regOp 2 (laneTwo .f32 .f32 (floatMinMax fmtF32 false) (shortSrc ss) (.v vd) vd false) s

/-- The 16-bit `max.f32` (R152). -/
def execMaxF32Short (ss : BitVec 5) (vd : BitVec 6) (s : State) : Host.Outcome State Fault Refusal :=
  regOp 2 (laneTwo .f32 .f32 (floatMinMax fmtF32 true) (shortSrc ss) (.v vd) vd false) s

/-- The 16-bit `add.s32` (R152). -/
def execAddS32Short (ss : BitVec 5) (vd : BitVec 6) (s : State) : Host.Outcome State Fault Refusal :=
  regOp 2 (intShaped .add (shortSrc ss) (.v vd) vd false .s32) s

/-- The 16-bit `sub.s32` (R152). -/
def execSubS32Short (ss : BitVec 5) (vd : BitVec 6) (s : State) : Host.Outcome State Fault Refusal :=
  regOp 2 (intShaped .sub (shortSrc ss) (.v vd) vd false .s32) s

/-- The 16-bit `mul.s32` (R152). -/
def execMulS32Short (ss : BitVec 5) (vd : BitVec 6) (s : State) : Host.Outcome State Fault Refusal :=
  regOp 2 (intShaped .mul (shortSrc ss) (.v vd) vd false .s32) s

/-- The 16-bit `add.n32` (R152). -/
def execAddN32Short (ss : BitVec 5) (vd : BitVec 6) (s : State) : Host.Outcome State Fault Refusal :=
  regOp 2 (intShaped .add (shortSrc ss) (.v vd) vd false .n32) s

/-- The 16-bit `sub.n32` (R152). -/
def execSubN32Short (ss : BitVec 5) (vd : BitVec 6) (s : State) : Host.Outcome State Fault Refusal :=
  regOp 2 (intShaped .sub (shortSrc ss) (.v vd) vd false .n32) s

/-- The 16-bit `and.b32` (R152). -/
def execAndB32Short (ss : BitVec 5) (vd : BitVec 6) (s : State) : Host.Outcome State Fault Refusal :=
  regOp 2 (bitTwo (fun a b => a &&& b) (shortSrc ss) (.v vd) vd false) s

/-- The 16-bit `or.b32` (R152). -/
def execOrB32Short (ss : BitVec 5) (vd : BitVec 6) (s : State) : Host.Outcome State Fault Refusal :=
  regOp 2 (bitTwo (fun a b => a ||| b) (shortSrc ss) (.v vd) vd false) s

/-- The 16-bit `xor.b32` (R152). -/
def execXorB32Short (ss : BitVec 5) (vd : BitVec 6) (s : State) : Host.Outcome State Fault Refusal :=
  regOp 2 (bitTwo (fun a b => a ^^^ b) (shortSrc ss) (.v vd) vd false) s

/-- The 16-bit `shl.n32` (R152). -/
def execShlN32Short (ss : BitVec 5) (vd : BitVec 6) (s : State) : Host.Outcome State Fault Refusal :=
  regOp 2 (intShaped .shl (shortSrc ss) (.v vd) vd false .n32) s

/-- The 16-bit `shr.n32` (R152). -/
def execShrN32Short (ss : BitVec 5) (vd : BitVec 6) (s : State) : Host.Outcome State Fault Refusal :=
  regOp 2 (laneTwo .n32 .n32 (intArith .shr false 32) (shortSrc ss) (.v vd) vd false) s

end Sys2Proof.Machine
end

