-- ==== Sys2Proof/Machine/Solver.lean ====
section
/-!
DEFINITION. Solver engines: templates, assembly, the factorisation, the iteration, the result record and warm starts
(07_solver.md R136 to R148; 14_isa_islands_engines.md R290; 25_faults_engines_scheduling.md R400).
-/

namespace Sys2Proof.Machine

/-! ## Numbers

Values are bits of the iteration's format, f64 or f32. -/

/-- acc + a · b, rounded once (R141). -/
def qFma (f : FloatFmt) (a b acc : Nat) : Nat := floatFma f .rne a b acc

/-- a + b, a − b and a · b. -/
def qAdd (f : FloatFmt) (a b : Nat) : Nat := floatArith .add f .rne a b
def qSub (f : FloatFmt) (a b : Nat) : Nat := floatArith .sub f .rne a b
def qMul (f : FloatFmt) (a b : Nat) : Nat := floatArith .mul f .rne a b

/-- acc − a · b. -/
def qFms (f : FloatFmt) (a b acc : Nat) : Nat := floatFma f .rne (floatNeg f a) b acc

/-- acc − a · b · c, rounded once (R141, log 32). -/
def qFms3 (f : FloatFmt) (a b c acc : Nat) : Nat :=
  f.round ((((f.value a).mul (f.value b)).mul (f.value c)).neg.add .rne (f.value acc)) .rne 0

/-- 1.0. -/
def qOne (f : FloatFmt) : Nat := f.round (XVal.ofInt 1) .rne 0

/-- The bits of one format in another. -/
def qConv (f g : FloatFmt) (a : Nat) : Nat := g.round (f.value a) .rne 0

/-- Whether a value is finite. -/
def qFinite (f : FloatFmt) (a : Nat) : Bool :=
  match f.value a with
  | .fin _ _ _ => true
  | _ => false

/-- Whether a value is infinite. -/
def qInf (f : FloatFmt) (a : Nat) : Bool :=
  match f.value a with
  | .inf _ => true
  | _ => false

/-- a ≤ b; false with a NaN. -/
def qLe (f : FloatFmt) (a b : Nat) : Bool :=
  !(f.value a).isNan && !(f.value b).isNan && decide ((f.value a).cmp (f.value b) ≤ 0)

/-- a < b; false with a NaN. -/
def qLt (f : FloatFmt) (a b : Nat) : Bool :=
  !(f.value a).isNan && !(f.value b).isNan && decide ((f.value a).cmp (f.value b) < 0)

/-- Whether a value is above zero, or below it. -/
def qPos (f : FloatFmt) (a : Nat) : Bool := qLt f 0 a
def qNegative (f : FloatFmt) (a : Nat) : Bool := qLt f a 0

/-- The ∞-norm (R144). -/
def qNorm (f : FloatFmt) (xs : List Nat) : Nat := xs.foldl (fun m x => floatMinMax f true m (floatAbs f x)) 0

/-- A dot product in order. -/
def qDot (f : FloatFmt) (xs ys : List Nat) : Nat := (xs.zip ys).foldl (fun acc p => qFma f p.1 p.2 acc) 0

/-! ## Templates (R138) -/

/-- A template header. -/
structure Template where
  n : Nat
  m : Nat
  nnzp : Nat
  nnza : Nat
  lnnz : Nat
  nterm : Nat
  ntheta : Nat
  nmeas : Nat
  single : Bool
  chk : Nat
  maxit : Nat
  rho : Nat
  sigma : Nat
  alpha : Nat
  eps : List Nat
  pstr : Word
  astr : Word
  perm : Word
  base : Word
  terms : Word
  vtag : Word
  ctag : Word
  deriving DecidableEq, Repr

/-- A header from its bytes. -/
def Template.of (bs : List Byte) : Template :=
  let a (off : Nat) : Word := BitVec.ofNat 64 (fieldOf bs off 8)
  { n := fieldOf bs 0 4, m := fieldOf bs 4 4, nnzp := fieldOf bs 8 4, nnza := fieldOf bs 12 4
    lnnz := fieldOf bs 0x10 4, nterm := fieldOf bs 0x14 4, ntheta := fieldOf bs 0x18 4, nmeas := fieldOf bs 0x1C 4
    single := fieldOf bs 0x20 1 % 2 == 1, chk := fieldOf bs 0x24 4, maxit := fieldOf bs 0x28 4
    rho := fieldOf bs 0x30 8, sigma := fieldOf bs 0x38 8, alpha := fieldOf bs 0x40 8
    eps := (List.range 4).map fun i => fieldOf bs (0x48 + 8 * i) 8
    pstr := a 0x68, astr := a 0x70, perm := a 0x78, base := a 0x80, terms := a 0x88, vtag := a 0x90, ctag := a 0x98 }

/-- Whether a header keeps the limits of R136 to R138. -/
def Template.formed (bs : List Byte) : Bool :=
  let t := Template.of bs
  let f := fmtF64
  decide (1 ≤ t.n ∧ t.n ≤ 8192) && decide (t.m ≤ 16384) && decide (t.nnzp + t.nnza ≤ 1048576) &&
    decide (t.ntheta ≤ 4096) && decide (t.nmeas ≤ 4096) && decide (fieldOf bs 0x20 4 ≤ 1) &&
    decide (1 ≤ t.chk ∧ t.chk ≤ 65535) && decide (1 ≤ t.maxit) && fieldOf bs 0x2C 4 == 0 &&
    qFinite f t.rho && qPos f t.rho && qFinite f t.sigma && qPos f t.sigma && qPos f t.alpha &&
    qLt f t.alpha (2 ^ 62) && t.eps.all (fun e => qFinite f e && qLe f 0 e) && fieldOf bs 0xA0 96 == 0 &&
    decide ((if t.single then 4 else 8) * (t.nnzp + t.nnza + t.lnnz + 8 * t.n + 8 * t.m) ≤ 8388608)

/-- A sparse matrix by columns: in each, row and index of the stored value, ascending. -/
abbrev Columns := List (List (Nat × Nat))

/-- Columns from pointers and row indices. -/
def columnsOf (ptrs rows : List Nat) : Columns :=
  (ptrs.zip (ptrs.drop 1)).map fun p => (List.range (p.2 - p.1)).map fun i => (rows.getD (p.1 + i) 0, p.1 + i)

/-- Whether pointers start at 0, do not fall and end at the count. -/
def pointersFormed (ptrs : List Nat) (nnz : Nat) : Bool :=
  ptrs.headD 0 == 0 && ptrs.getLastD 0 == nnz && (ptrs.zip (ptrs.drop 1)).all fun p => decide (p.1 ≤ p.2)

/-- Whether numbers rise strictly. -/
def rising (xs : List Nat) : Bool := (xs.zip (xs.drop 1)).all fun p => decide (p.1 < p.2)

/-- Whether the structures are formed (R138): rows rise strictly, P is an upper triangle with its diagonal, A stays
below m rows, PERM is a permutation. -/
def structureFormed (t : Template) (p a : Columns) (perm : List Nat) : Bool :=
  p.all (fun c => rising (c.map Prod.fst)) && a.all (fun c => rising (c.map Prod.fst)) &&
    ((p.zipIdx 0).all fun c => (c.1.map Prod.fst).contains c.2 && c.1.all fun e => decide (e.1 ≤ c.2)) &&
    (a.all fun c => c.all fun e => decide (e.1 < t.m)) &&
    ((List.range (t.n + t.m)).all fun k => perm.contains k)

/-! ## Symbolic elimination (R138, R141) -/

/-- Positions under PERM: entry k is the KKT index eliminated k-th. -/
def positionOf (perm : List Nat) (k : Nat) : Nat := (indexOf? (fun x => x == k) perm).getD 0

/-- The off-diagonal entries of the permuted KKT matrix, below the diagonal: column, row and value, from the values of
P and A. -/
def kktBelow (n : Nat) (p a : Columns) (pv av : Nat → Nat) (pos : Nat → Nat) : List (Nat × Nat × Nat) :=
  let place (i j v : Nat) : Nat × Nat × Nat := (min (pos i) (pos j), max (pos i) (pos j), v)
  ((p.zipIdx 0).flatMap fun c => (c.1.filter fun e => e.1 != c.2).map fun e => place e.1 c.2 (pv e.2)) ++
    ((a.zipIdx 0).flatMap fun c => c.1.map fun e => place (n + e.1) c.2 (av e.2))

/-- Merges ascending lists without repeats. -/
def mergeRows (xs ys : List Nat) : List Nat := ys.foldl (fun l y => insertNat y l) xs

/-- The rows below the diagonal of each column of L, in order: those of K and those that earlier columns hand on. -/
def symbolic (below : List (Nat × Nat × Nat)) : Nat → List (List Nat)
  | 0 => []
  | j + 1 =>
    let before := symbolic below j
    let own := ((below.filter fun e => e.1 == j).map fun e => e.2.1).foldl (fun l i => insertNat i l) []
    before ++ [(before.filter fun c => c.headD 0 == j).foldl (fun l c => mergeRows l (c.drop 1)) own]

/-! ## Assembly (R139, R140) -/

/-- A term of the assembly program. -/
structure Term where
  coef : Nat
  dst : Nat
  idx : Nat
  src : Nat
  sidx : Nat
  deriving DecidableEq, Repr

/-- A term from its 16 bytes. -/
def Term.of (bs : List Byte) : Term :=
  let w := fieldOf bs 8 4
  let x := fieldOf bs 12 4
  { coef := fieldOf bs 0 8, dst := w / 2 ^ 29, idx := w % 2 ^ 20, src := x / 2 ^ 30, sidx := x % 2 ^ 12 }

/-- Whether a term is formed, against the sizes of the destinations and sources (R139). -/
def Term.formed (t : Template) (bs : List Byte) : Bool :=
  let x := Term.of bs
  fieldOf bs 8 4 / 2 ^ 20 % 2 ^ 9 == 0 && fieldOf bs 12 4 / 2 ^ 12 % 2 ^ 18 == 0 &&
    (match x.dst with
      | 0 => decide (x.idx < t.nnzp)
      | 1 => decide (x.idx < t.n)
      | 2 => decide (x.idx < t.nnza)
      | 3 | 4 => decide (x.idx < t.m)
      | _ => false) &&
    (match x.src with
      | 0 => true
      | 1 => decide (x.sidx < t.ntheta)
      | 2 => decide (x.sidx < t.nmeas)
      | _ => false)

/-- The assembled program: the stored values of P and A, and q, l, u. -/
structure Assembled where
  p : List Nat
  a : List Nat
  q : List Nat
  l : List Nat
  u : List Nat
  deriving DecidableEq, Repr

/-- Changes an element of a list. -/
def modNth (i : Nat) (f : Nat → Nat) (xs : List Nat) : List Nat := (xs.zipIdx 0).map fun x => if x.2 = i then f x.1 else x.1

/-- One term (R139). -/
def Assembled.add (x : Assembled) (theta meas : List Nat) (t : Term) : Assembled :=
  let v := match t.src with
    | 0 => qOne fmtF64
    | 1 => theta.getD t.sidx 0
    | _ => meas.getD t.sidx 0
  let f (d : Nat) : Nat := qFma fmtF64 t.coef v d
  match t.dst with
  | 0 => { x with p := modNth t.idx f x.p }
  | 1 => { x with q := modNth t.idx f x.q }
  | 2 => { x with a := modNth t.idx f x.a }
  | 3 => { x with l := modNth t.idx f x.l }
  | _ => { x with u := modNth t.idx f x.u }

/-- The base values, in their order. -/
def Assembled.base (t : Template) (xs : List Nat) : Assembled :=
  let q := xs.drop (t.nnzp + t.nnza)
  { p := xs.take t.nnzp, a := (xs.drop t.nnzp).take t.nnza, q := q.take t.n, l := (q.drop t.n).take t.m
    u := (q.drop (t.n + t.m)).take t.m }

/-- Every value, converted. -/
def Assembled.map (f : Nat → Nat) (x : Assembled) : Assembled :=
  { p := x.p.map f, a := x.a.map f, q := x.q.map f, l := x.l.map f, u := x.u.map f }

/-! ## Factorisation and solve (R141) -/

/-- The columns of L so far, each with its rows and values, and the entries of d. -/
structure Factors where
  cols : List (List (Nat × Nat))
  d : List Nat
  deriving DecidableEq, Repr

/-- The entries L[i][k] of a row, ascending k. -/
def Factors.row (x : Factors) (i : Nat) : List (Nat × Nat) :=
  (x.cols.zipIdx 0).filterMap fun c => (c.1.find? fun e => e.1 == i).map fun e => (c.2, e.2)

/-- Column j of the factorisation; none where its pivot fails. `k` gives an entry of K, `variable` says which sign d
must have. -/
def Factors.step (f : FloatFmt) (rows : List Nat) (k : Nat → Nat → Nat) (variable_ : Bool) (j : Nat) (x : Factors) :
    Option Factors :=
  let row := x.row j
  let d := row.foldl (fun acc e => qFms3 f e.2 e.2 (x.d.getD e.1 0) acc) (k j j)
  if !qFinite f d || !(if variable_ then qPos f d else qNegative f d) then none
  else
    let entry (i : Nat) : Nat :=
      let ri := x.row i
      let s := row.foldl (fun acc e =>
        match ri.find? fun g => g.1 == e.1 with
        | some g => qFms3 f g.2 e.2 (x.d.getD e.1 0) acc
        | none => acc) (k i j)
      floatDiv f .rne s d
    some { cols := x.cols ++ [rows.map fun i => (i, entry i)], d := x.d ++ [d] }

/-- The factorisation of the columns from j on. -/
def factorFrom (f : FloatFmt) (k : Nat → Nat → Nat) (isVar : Nat → Bool) : List (List Nat) → Nat → Factors → Option Factors
  | [], _, x => some x
  | rows :: rest, j, x =>
    match x.step f rows k (isVar j) j with
    | none => none
    | some x => factorFrom f k isVar rest (j + 1) x

/-- Forward over L, ascending. -/
def forwardSolve (f : FloatFmt) (x : Factors) (b : List Nat) : List Nat :=
  (b.zipIdx 0).foldl (fun (y : List Nat) p =>
    y ++ [(x.row p.2).foldl (fun acc e => qFms f e.2 (y.getD e.1 0) acc) p.1]) []

/-- Backward over L, descending. -/
def backwardSolve (f : FloatFmt) (x : Factors) (b : List Nat) : List Nat :=
  ((b.zip x.cols).zipIdx 0).foldr (fun p (y : List Nat) =>
    (p.1.2.reverse.foldl (fun acc e => qFms f e.2 (y.getD (e.1 - p.2 - 1) 0) acc) p.1.1) :: y) []

/-- The triangular solve of R141 in positions. -/
def Factors.solve (f : FloatFmt) (x : Factors) (b : List Nat) : List Nat :=
  backwardSolve f x (((forwardSolve f x b).zip x.d).map fun p => floatDiv f .rne p.1 p.2)

/-! ## The problem and the iteration (R143, R144) -/

/-- Rows of a matrix: column and value, ascending column. -/
abbrev Rows := List (List (Nat × Nat))

/-- The rows of A. -/
def rowsOfA (m : Nat) (a : Columns) (v : List Nat) : Rows :=
  (List.range m).map fun i => (a.zipIdx 0).filterMap fun c => (c.1.find? fun e => e.1 == i).map fun e => (c.2, v.getD e.2 0)

/-- The rows of Aᵀ. -/
def rowsOfAt (a : Columns) (v : List Nat) : Rows := a.map fun c => c.map fun e => (e.1, v.getD e.2 0)

/-- The rows of the symmetric P. -/
def rowsOfP (p : Columns) (v : List Nat) : Rows :=
  (p.zipIdx 0).map fun c =>
    (c.1.filter fun e => e.1 != c.2).map (fun e => (e.1, v.getD e.2 0)) ++
      (p.zipIdx 0).filterMap fun d =>
        if c.2 ≤ d.2 then (d.1.find? fun e => e.1 == c.2).map fun e => (d.2, v.getD e.2 0) else none

/-- A product of a matrix and a vector (R143). -/
def Rows.mul (f : FloatFmt) (r : Rows) (x : List Nat) : List Nat :=
  r.map fun es => es.foldl (fun acc e => qFma f e.2 (x.getD e.1 0) acc) 0

/-- What the iteration goes by. -/
structure Problem where
  f : FloatFmt
  n : Nat
  m : Nat
  p : Rows
  a : Rows
  at_ : Rows
  q : List Nat
  l : List Nat
  u : List Nat
  rho : Nat
  rhoInv : Nat
  sigma : Nat
  alpha : Nat
  beta : Nat
  perm : List Nat
  deriving DecidableEq

/-- The iterate. -/
structure Iterate where
  x : List Nat
  z : List Nat
  y : List Nat
  dx : List Nat
  dy : List Nat
  deriving DecidableEq, Repr

/-- Element-wise combination of two vectors. -/
def zipMap (g : Nat → Nat → Nat) (xs ys : List Nat) : List Nat := (xs.zip ys).map fun p => g p.1 p.2

/-- α · a + (1 − α) · b (R143). -/
def Problem.relax (p : Problem) (a b : Nat) : Nat := qFma p.f p.beta b (qMul p.f p.alpha a)

/-- One iteration (R143). -/
def Problem.iterate (p : Problem) (k : Factors) (s : Iterate) : Iterate :=
  let f := p.f
  let rhs := zipMap (fun x q => qFma f p.sigma x (floatNeg f q)) s.x p.q ++
    zipMap (fun z y => qFms f p.rhoInv y z) s.z s.y
  let sol := k.solve f (p.perm.map fun i => rhs.getD i 0)
  let back := (List.range (p.n + p.m)).map fun i => sol.getD (positionOf p.perm i) 0
  let xt := back.take p.n
  let nu := back.drop p.n
  let zt := zipMap (fun z t => qFma f p.rhoInv t z) s.z (zipMap (qSub f) nu s.y)
  let xn := zipMap p.relax xt s.x
  let zr := zipMap p.relax zt s.z
  let free := zipMap (fun z y => qFma f p.rhoInv y z) zr s.y
  let zn := zipMap (floatMinMax f false) (zipMap (floatMinMax f true) free p.l) p.u
  let yn := zipMap (fun y d => qFma f p.rho d y) s.y (zipMap (qSub f) zr zn)
  { x := xn, z := zn, y := yn, dx := zipMap (qSub f) xn s.x, dy := zipMap (qSub f) yn s.y }

/-- STATUS of a result record (R146). -/
inductive SolveStatus where
  | solved | maxIter | primalInfeasible | dualInfeasible | numeric
  deriving DecidableEq, Repr

/-- The code of a status. -/
def SolveStatus.code : SolveStatus → Nat
  | .solved => 0
  | .maxIter => 1
  | .primalInfeasible => 2
  | .dualInfeasible => 3
  | .numeric => 4

/-- A problem or iterate in FP64, for the tests (R144). -/
def Rows.map64 (f : FloatFmt) (r : Rows) : Rows := r.map fun es => es.map fun e => (e.1, qConv f fmtF64 e.2)

/-- The residuals and objective (R144, R146): primal, dual, ½xᵀPx + qᵀx. -/
structure Residuals where
  primal : Nat
  dual : Nat
  objective : Nat
  deriving DecidableEq, Repr

/-- ½, in FP64. -/
def qHalf : Nat := 0x3FE0000000000000

/-- The tests of R144 in order, on the current iterate, with the residuals they compute. -/
def Problem.check (p : Problem) (eps : List Nat) (s : Iterate) (last : Bool) : Option SolveStatus × Residuals :=
  let w (xs : List Nat) : List Nat := xs.map (qConv p.f fmtF64)
  let f := fmtF64
  let (x, z, y, dx, dy) := (w s.x, w s.z, w s.y, w s.dx, w s.dy)
  let (q, l, u) := (w p.q, w p.l, w p.u)
  let (pr, ar, tr) := (p.p.map64 p.f, p.a.map64 p.f, p.at_.map64 p.f)
  let e (i : Nat) : Nat := eps.getD i 0
  let ax := ar.mul f x
  let px := pr.mul f x
  let aty := tr.mul f y
  let primal := qNorm f (zipMap (qSub f) ax z)
  let dual := qNorm f (zipMap (qAdd f) (zipMap (qAdd f) px q) aty)
  let most (xs : List Nat) : Nat := xs.foldl (floatMinMax f true) 0
  let res : Residuals :=
    { primal := primal, dual := dual, objective := qFma f qHalf (qDot f x px) (qDot f q x) }
  let finite := (x ++ z ++ y).all (qFinite f)
  let solved := qLe f primal (qFma f (e 1) (most [qNorm f ax, qNorm f z]) (e 0)) &&
    qLe f dual (qFma f (e 1) (most [qNorm f px, qNorm f aty, qNorm f q]) (e 0))
  let ndy := qNorm f dy
  let bounds := (dy.zip (l.zip u)).filter fun t => !(f.value t.1).isZero
  let reach := bounds.foldl (fun acc t => qFma f (if qPos f t.1 then t.2.2 else t.2.1) t.1 acc) 0
  let boundsFinite := bounds.all fun t => qFinite f (if qPos f t.1 then t.2.2 else t.2.1)
  let primalInf := !bounds.isEmpty && boundsFinite && qLe f (qNorm f (tr.mul f dy)) (qMul f (e 2) ndy) &&
    qLe f reach (floatNeg f (qMul f (e 2) ndy))
  let ndx := qNorm f dx
  let lim := qMul f (e 3) ndx
  let inside := ((ar.mul f dx).zip (l.zip u)).all fun t =>
    (qLe f t.1 lim || (qInf f t.2.2 && qPos f t.2.2)) && (qLe f (floatNeg f lim) t.1 || (qInf f t.2.1 && qNegative f t.2.1)) &&
      !(f.value t.1).isNan
  let dualInf := dx.any (fun d => !(f.value d).isZero) && qLe f (qNorm f (pr.mul f dx)) lim &&
    qLe f (qDot f q dx) (floatNeg f lim) && inside
  (if !finite then some .numeric
   else if solved then some .solved
   else if primalInf then some .primalInfeasible
   else if dualInf then some .dualInfeasible
   else if last then some .maxIter
   else none, res)

/-- How a solve ended. -/
structure Solved where
  status : SolveStatus
  iter : Nat
  res : Residuals
  s : Iterate
  refact : Bool
  deriving DecidableEq, Repr

/-- The iterations from k on, with the residuals of the last check; `fuel` is MAXIT − k + 1. -/
def Problem.run (p : Problem) (t : Template) (k : Factors) (refact : Bool) : Nat → Nat → Iterate → Solved
  | 0, n, s => { status := .maxIter, iter := n - 1, res := { primal := 0, dual := 0, objective := 0 }, s := s, refact := refact }
  | fuel + 1, n, s =>
    let s := p.iterate k s
    if n % t.chk = 0 ∨ n = t.maxit then
      match p.check t.eps s (decide (n = t.maxit)) with
      | (some st, r) => { status := st, iter := n, res := r, s := s, refact := refact }
      | (none, _) => p.run t k refact fuel (n + 1) s
    else p.run t k refact fuel (n + 1) s

/-! ## A whole solve -/

/-- All that an engine reads for a solve (R147). -/
structure SolveInput where
  t : Template
  pcols : Columns
  acols : Columns
  perm : List Nat
  base : List Nat
  terms : List Term
  theta : List Nat
  meas : List Nat
  vtag : List Nat
  ctag : List Nat
  /-- X, Z, Y, VT and CT of a warm-start record (R148). -/
  warm : Option (List Nat × List Nat × List Nat × List Nat × List Nat)
  deriving DecidableEq, Repr

/-- The value of the least index whose tag matches (R148). -/
def warmValue (tags vals : List Nat) (tag : Nat) : Option Nat :=
  if tag = 0xFFFFFFFF then none else (indexOf? (fun x => x == tag) tags).map fun j => vals.getD j 0

/-- The starting iterate in the iteration's format, and WARM_PARTIAL (R148). A record's f64 values are rounded rne to
the format of a solve with PREC 1 (log 71). -/
def SolveInput.start (i : SolveInput) (f : FloatFmt) : Iterate × Bool :=
  match i.warm with
  | none =>
    ({ x := List.replicate i.t.n 0, z := List.replicate i.t.m 0, y := List.replicate i.t.m 0
       dx := List.replicate i.t.n 0, dy := List.replicate i.t.m 0 }, false)
  | some (xs, zs, ys, vt, ct) =>
    let get (tags vals : List Nat) (want : List Nat) : List Nat :=
      want.map fun w => qConv fmtF64 f ((warmValue tags vals w).getD 0)
    ({ x := get vt xs i.vtag, z := get ct zs i.ctag, y := get ct ys i.ctag
       dx := List.replicate i.t.n 0, dy := List.replicate i.t.m 0 },
     i.vtag.any (fun w => (warmValue vt xs w).isNone) || i.ctag.any fun w => (warmValue ct zs w).isNone)

/-- The assembled values in the iteration's format (R139). -/
def SolveInput.assembled (i : SolveInput) (f : FloatFmt) : Assembled :=
  (i.terms.foldl (fun x t => x.add i.theta i.meas t) (Assembled.base i.t i.base)).map (qConv fmtF64 f)

/-- What a kept factorisation answers to, besides the template address (R142): ρ, σ, PREC and the matrices P and A, each
with its size and its columns, so that equal keys are equal matrices. -/
def SolveInput.key (i : SolveInput) (x : Assembled) : List Nat :=
  let matrix (cols : Columns) (vals : List Nat) : List Nat :=
    cols.flatMap fun col => col.length :: col.flatMap fun e => [e.1, vals.getD e.2 0]
  [i.t.rho, i.t.sigma, if i.t.single then 1 else 0, i.t.n, i.t.m] ++ matrix i.pcols x.p ++ matrix i.acols x.a

/-- The solve (R140 to R145). `kept` says whether the engine's factorisation is reused; the answer says whether one was
made. With PREC 1 the template's ρ, σ and α are rounded once, rne, to the iteration's format, and a solve that stops at
iteration 0 leaves the starting iterate as X, Z and Y (log 71). -/
def SolveInput.solve (i : SolveInput) (kept : Bool) : Solved :=
  let t := i.t
  let f := if t.single then fmtF32 else fmtF64
  let x := i.assembled f
  let s0 := (i.start f).1
  let zero : Residuals := { primal := 0, dual := 0, objective := 0 }
  if (x.p ++ x.a ++ x.q ++ x.l ++ x.u).any (fun v => (f.value v).isNan) || (x.p ++ x.a ++ x.q).any (qInf f) then
    { status := .numeric, iter := 0, res := zero, s := s0, refact := false }
  else
    match indexOf? (fun (p : Nat × Nat) => qLt f p.2 p.1) (x.l.zip x.u) with
    | some k =>
      { status := .primalInfeasible, iter := 0, res := zero, refact := false
        s := { s0 with dy := (List.range t.m).map fun j => if j = k then qOne f else 0 } }
    | none =>
      let rho := qConv fmtF64 f t.rho
      let rhoInv := floatDiv f .rne (qOne f) rho
      let sigma := qConv fmtF64 f t.sigma
      let alpha := qConv fmtF64 f t.alpha
      let pos := positionOf i.perm
      let below := kktBelow t.n i.pcols i.acols (fun k => x.p.getD k 0) (fun k => x.a.getD k 0) pos
      let diag (k : Nat) : Nat :=
        let kkt := i.perm.getD k 0
        if kkt < t.n then
          qAdd f ((((i.pcols.getD kkt []).find? fun e => e.1 == kkt).map fun e => x.p.getD e.2 0).getD 0) sigma
        else floatNeg f rhoInv
      let entry (r c : Nat) : Nat :=
        if r = c then diag r else ((below.find? fun e => e.1 == c && e.2.1 == r).map fun e => e.2.2).getD 0
      match factorFrom f entry (fun k => decide (i.perm.getD k 0 < t.n)) (symbolic below (t.n + t.m)) 0
          { cols := [], d := [] } with
      | none => { status := .numeric, iter := 0, res := zero, s := s0, refact := false }
      | some k =>
        let p : Problem :=
          { f := f, n := t.n, m := t.m, p := rowsOfP i.pcols x.p, a := rowsOfA t.m i.acols x.a
            at_ := rowsOfAt i.acols x.a, q := x.q, l := x.l, u := x.u, rho := rho, rhoInv := rhoInv, sigma := sigma
            alpha := alpha, beta := qSub f (qOne f) alpha, perm := i.perm }
        p.run t k (!kept) t.maxit 1 s0

/-- The bytes of a result record (R146). -/
def SolveInput.record (i : SolveInput) (r : Solved) (partial_ : Bool) : List Byte :=
  let f := if i.t.single then fmtF32 else fmtF64
  let wide (xs : List Nat) : List Byte := xs.flatMap fun v => bytesOf 8 (qConv f fmtF64 v)
  let x := if r.status = .dualInfeasible then r.s.dx else r.s.x
  let y := if r.status = .primalInfeasible then r.s.dy else r.s.y
  let tags (xs : List Nat) : List Byte := xs.flatMap (bytesOf 4)
  bytesOf 4 (r.status.code + (if partial_ then 2 ^ 8 else 0) + (if r.refact then 2 ^ 9 else 0)) ++ bytesOf 4 r.iter ++
    bytesOf 4 i.t.n ++ bytesOf 4 i.t.m ++ bytesOf 8 r.res.primal ++ bytesOf 8 r.res.dual ++ bytesOf 8 r.res.objective ++
    List.replicate 24 0 ++ wide x ++ wide r.s.z ++ wide y ++ tags i.vtag ++ tags i.ctag

/-! ## The SOLVE entry (R290) -/

/-- Why an entry ends before it writes: a refusal, or a translation fault (R281, R400). -/
inductive SolveStop where
  | refused
  | fault (code : BitVec 9) (addr : Word)
  deriving DecidableEq, Repr

/-- Reads n bytes for a solve, and whether one is poisoned. -/
def M.solveBytes (c : Chan) (r : Run) (va : Word) (n : Nat) : M (Except SolveStop (List Byte × Bool)) := do
  let (bs, fault) ← M.engineRead c r va n
  match fault with
  | some (code, addr) => return .error (.fault code addr)
  | none => return .ok (bs.map Prod.fst, bs.any Prod.snd)

/-- The numbers of w bytes in a byte list. -/
def numbersOf (w : Nat) (bs : List Byte) : List Nat := (List.range (bs.length / w)).map fun i => fieldOf bs (w * i) w

/-- Reads one array after another: numbers of w bytes, that many, from an address. -/
def M.solveArrays (c : Chan) (r : Run) : List (Word × Nat × Nat) → M (Except SolveStop (List (List Nat) × Bool))
  | [] => return .ok ([], false)
  | (va, w, n) :: rest => do
    match ← M.solveBytes c r va (w * n) with
    | .error e => return .error e
    | .ok (bs, bad) =>
      match ← M.solveArrays c r rest with
      | .error e => return .error e
      | .ok (xs, more) => return .ok (numbersOf w bs :: xs, bad || more)

/-- The addresses of a SOLVE entry. -/
structure SolveEntry where
  template : Word
  theta : Word
  meas : Word
  warm : Word
  result : Word
  ws : Bool
  deriving DecidableEq, Repr

/-- The fields of a SOLVE entry. -/
def SolveEntry.of (bs : List Byte) : SolveEntry :=
  let a (off : Nat) : Word := BitVec.ofNat 64 (fieldOf bs off 8)
  { template := a 0x10, theta := a 0x18, meas := a 0x20, warm := a 0x28, result := a 0x30
    ws := fieldOf bs 0x38 1 % 2 == 1 }

/-- A reserved bit set, or a misaligned address: status 5 (R281, R290). -/
def SolveEntry.bad (e : SolveEntry) (bs : List Byte) : Bool :=
  decide (2 ≤ fieldOf bs 0x38 4) || fieldOf bs 0x3C 4 != 0 || e.template.toNat % 256 != 0 || e.theta.toNat % 8 != 0 ||
    e.meas.toNat % 8 != 0 || (e.ws && e.warm.toNat % 64 != 0) || e.result.toNat % 64 != 0

/-- The warm-start record (R146, R148). -/
def M.solveWarm (c : Chan) (r : Run) (e : SolveEntry) :
    M (Except SolveStop (Option (List Nat × List Nat × List Nat × List Nat × List Nat) × Bool)) := do
  if !e.ws then return .ok (none, false)
  else
    match ← M.solveBytes c r e.warm 64 with
    | .error x => return .error x
    | .ok (h, bad) =>
      let n := fieldOf h 8 4 % 2 ^ 14
      let m := fieldOf h 12 4 % 2 ^ 15
      let at_ (k : Nat) : Word := e.warm + BitVec.ofNat 64 k
      match ← M.solveArrays c r [(at_ 0x40, 8, n), (at_ (0x40 + 8 * n), 8, m), (at_ (0x40 + 8 * n + 8 * m), 8, m),
          (at_ (0x40 + 8 * n + 16 * m), 4, n), (at_ (0x40 + 12 * n + 16 * m), 4, m)] with
      | .error x => return .error x
      | .ok ([xs, zs, ys, vt, ct], more) => return .ok (some (xs, zs, ys, vt, ct), bad || more)
      | .ok _ => return .error .refused

/-- Everything an engine reads, checked (R138, R139, R147), and whether a byte of it was poisoned. -/
def M.solveInput (c : Chan) (r : Run) (e : SolveEntry) : M (Except SolveStop (SolveInput × Bool)) := do
  match ← M.solveBytes c r e.template 256 with
  | .error x => return .error x
  | .ok (h, bad0) =>
    if !Template.formed h then return .error .refused
    else
      let t := Template.of h
      let after (a : Word) (n : Nat) : Word := a + BitVec.ofNat 64 (4 * (n + 1))
      match ← M.solveArrays c r [(t.pstr, 4, t.n + 1), (after t.pstr t.n, 4, t.nnzp), (t.astr, 4, t.n + 1),
          (after t.astr t.n, 4, t.nnza), (t.perm, 4, t.n + t.m),
          (t.base, 8, t.nnzp + t.nnza + t.n + 2 * t.m), (t.vtag, 4, t.n), (t.ctag, 4, t.m), (e.theta, 8, t.ntheta),
          (e.meas, 8, t.nmeas)] with
      | .error x => return .error x
      | .ok ([pp, pr, ap, ar, perm, base, vtag, ctag, theta, meas], bad1) =>
        match ← M.solveBytes c r t.terms (16 * t.nterm) with
        | .error x => return .error x
        | .ok (tb, bad2) =>
          match ← M.solveWarm c r e with
          | .error x => return .error x
          | .ok (warm, bad3) =>
            let p := columnsOf pp pr
            let a := columnsOf ap ar
            let parts := (List.range t.nterm).map fun i => (tb.drop (16 * i)).take 16
            let below := kktBelow t.n p a (fun _ => 0) (fun _ => 0) (positionOf perm)
            if pointersFormed pp t.nnzp && pointersFormed ap t.nnza && structureFormed t p a perm &&
                parts.all (Term.formed t) &&
                sumOf ((symbolic below (t.n + t.m)).map List.length) == t.lnnz then
              return .ok ({ t := t, pcols := p, acols := a, perm := perm, base := base, terms := parts.map Term.of
                            theta := theta, meas := meas, vtag := vtag, ctag := ctag, warm := warm },
                          bad0 || bad1 || bad2 || bad3)
            else return .error .refused
      | .ok _ => return .error .refused

/-- Writes the result record at its home; poisoned inputs leave it poisoned (log 32). -/
def M.writeResult (c : Chan) (r : Run) (va : Word) (bs : List Byte) (bad : Bool) : M (Option (BitVec 9 × Word)) := do
  let (parts, e, s) := (← get).translateUpTo (r.ctx c) .store (cutRange (bs.length / 32 + 2) va bs.length)
  set (s.writeStream parts (bs.map fun b => (b, bad)))
  match e with
  | none => return none
  | some (e, at_) => return some (← M.engineFault e at_)

/-- A SOLVE entry (R143, R146, R290). -/
def solveEntry (c : Chan) (r : Run) (bs : List Byte) : M CurEntry := do
  let e := SolveEntry.of bs
  if e.bad bs then return endsWith bs 5
  else
    match ← M.solveInput c r e with
    | .error .refused => return endsWith bs 7
    | .error (.fault code addr) =>
      modify fun s => s.setRunFault c.id r (some (code, addr))
      return endsWith bs 3
    | .ok (i, bad) =>
      let s ← get
      let engine := s.servingEngine (match c.engine with
        | .se k => k
        | _ => 0)
      let f := if i.t.single then fmtF32 else fmtF64
      let key := i.key (i.assembled f)
      let kept := s.factors.any fun x => x.1 == engine && x.2.1 == e.template && x.2.2 == key
      let out := i.solve kept
      modify fun s => { s with engineRepeats := s.engineRepeats.filter fun x => x.1 != engine }
      if out.refact then
        modify fun s => { s with factors := (engine, e.template, key) :: s.factors.filter fun x => x.1 != engine }
      match ← M.writeResult c r e.result (i.record out (i.start f).2) bad with
      | none => return endsWith bs 0
      | some x =>
        modify fun s => s.setRunFault c.id r (some x)
        return endsWith bs 3

/-- A SOLVE entry (R143). -/
def execSolve (chan run : Nat) (s : State) : Host.Outcome State Fault Refusal := event (M.entry 5 chan run solveEntry) s

end Sys2Proof.Machine
end

