-- ==== Sys2Proof/Machine/Streams.lean ====
section
/-!
DEFINITION. Stream registers and their instructions, major 47 (13_isa_matrix_stream.md R266 to R269).
-/

namespace Sys2Proof.Machine

/-- The capacity of a stream register (R266). -/
def streamPairs : Nat := 4096

/-- A stream register of a team. -/
def Team.stream (t : Team) (q : BitVec 3) : Stream := t.q.getD q.toNat Stream.empty

/-- Replaces a stream register if the reservation has room for it: its units replace those of the old content (R266,
R395). -/
def M.setStream (t : Team) (f : Family) (qd : BitVec 3) (x : Stream) : M Unit := do
  M.stopIf (decide ((← get).unitsFree f + (t.stream qd).units < x.units)) (trapWith 0x192 0)
  M.modTeam t.id fun u => { u with q := u.q.setIfInBounds qd.toNat x }

/-- Cuts bytes into pairs of a key at +0 and a value at +4. -/
def pairsOf (n : Nat) (bs : List Byte) : List (BitVec 32 × BitVec 32) :=
  (List.range n).map fun i => (BitVec.ofNat 32 (fieldOf bs (8 * i) 4), BitVec.ofNat 32 (fieldOf bs (8 * i + 4) 4))

/-- A partition offset of n bytes, 8-aligned and inside the partition (R267). -/
def M.streamRange (f : Family) (off n : Nat) : M Unit :=
  M.stopIf (off % 8 != 0 || decide (f.partSize < off + n)) (trapWith 0x107 (BitVec.ofNat 64 off))

/-- `sqld` (R267). -/
def streamLoad (s32 : Bool) (qd : BitVec 3) (sa : SSrc) (t : Team) : M Done := do
  let a ← M.read t fun v => v.readS posSA sa
  let (_, f) ← M.family t
  let off := (a.extractLsb' 0 22).toNat
  let n := (a.extractLsb' 32 13).toNat
  M.streamRange f off (8 * n)
  M.stopIf (decide (streamPairs < n) || a.extractLsb' 22 10 != 0 || a.extractLsb' 45 19 != 0) (trapWith 0x192 0)
  let ps := pairsOf n ((← get).scratchRead t.core (f.partBase + off) (8 * n))
  M.stopIf (!risesStrictly (ps.map fun p => p.1.toNat)) (trapWith 0x192 0)
  M.setStream t f qd { s32 := s32, ovf := false, pairs := ps }
  return .next

/-- `sqst` (R267). -/
def streamStore (qa : BitVec 3) (sa : SSrc) (t : Team) : M Done := do
  let a ← M.read t fun v => v.readS posSA sa
  let (_, f) ← M.family t
  let off := (a.extractLsb' 0 22).toNat
  let ps := (t.stream qa).pairs
  M.streamRange f off (8 * ps.length)
  M.stopIf (a.extractLsb' 22 42 != 0) (trapWith 0x192 0)
  M.afterPasses t
  M.inOrder t [{ lane := 1023, space := some t.core, addr := f.partBase + off, len := 8 * ps.length }]
  modify fun s => s.scratchWrite t.core (f.partBase + off)
    (ps.flatMap fun p => bytesOf 4 p.1.toNat ++ bytesOf 4 p.2.toNat)
  return .next

/-! ## Merging (R268) -/

/-- The four merges. -/
inductive StreamOp where
  | int | uni | sub | madd
  deriving DecidableEq, Repr

/-- The value of a key in both registers. -/
def StreamOp.both (op : StreamOp) (s32 : Bool) (x y : BitVec 32) : Option (BitVec 32) :=
  let a := fmtF32.value x.toNat
  let b := fmtF32.value y.toNat
  match op with
  | .int => some (if s32 then x * y else BitVec.ofNat 32 (fmtF32.round (a.mul b) .rne 0))
  | .uni => some x
  | .sub => none
  | .madd => some (if s32 then x + y else BitVec.ofNat 32 (fmtF32.round (a.add .rne b) .rne 0))

/-- Whether a key of one register alone stays: of a, of b. -/
def StreamOp.keepsA (op : StreamOp) : Bool := op != .int
def StreamOp.keepsB (op : StreamOp) : Bool := op == .uni || op == .madd

/-- The pairs of the result, in ascending keys. -/
def mergePairs (op : StreamOp) (s32 : Bool) : Nat → List (BitVec 32 × BitVec 32) → List (BitVec 32 × BitVec 32) →
    List (BitVec 32 × BitVec 32)
  | 0, _, _ => []
  | _ + 1, [], ys => if op.keepsB then ys else []
  | _ + 1, xs, [] => if op.keepsA then xs else []
  | n + 1, x :: xs, y :: ys =>
    if x.1 == y.1 then
      match op.both s32 x.2 y.2 with
      | some v => (x.1, v) :: mergePairs op s32 n xs ys
      | none => mergePairs op s32 n xs ys
    else if x.1.toNat < y.1.toNat then
      let rest := mergePairs op s32 n xs (y :: ys)
      if op.keepsA then x :: rest else rest
    else
      let rest := mergePairs op s32 n (x :: xs) ys
      if op.keepsB then y :: rest else rest

/-- `sqint`, `squni`, `sqsub`, `sqmadd` (R268). -/
def streamMerge (op : StreamOp) (qa qd qb : BitVec 3) (t : Team) : M Done := do
  let (_, f) ← M.family t
  let a := t.stream qa
  let b := t.stream qb
  M.stopIf (a.s32 != b.s32) (trapWith 0x192 0)
  let ps := mergePairs op a.s32 (a.pairs.length + b.pairs.length + 1) a.pairs b.pairs
  M.setStream t f qd
    { s32 := a.s32, ovf := decide (streamPairs < ps.length) || a.ovf || b.ovf, pairs := ps.take streamPairs }
  return .next

/-- `sqext` (R269). -/
def streamExtract (qa : BitVec 3) (sa : SSrc) (vd : BitVec 6) (v : View) : Except Stop View := do
  let x ← v.readS posSA sa
  v.checkV posD vd false
  stopIf (vd.toNat == 63) (regTrap 0x040 posD 64)
  v.checkV posD (vd + 1) false
  let q := v.team.stream qa
  let pair (l : Nat) : Option (BitVec 32 × BitVec 32) := q.pairs[x.toNat + l]?
  let keys := v.lanewise (.fmt .n32) false fun l => ((pair l).map fun p => p.1.toNat).getD 0xFFFFFFFF
  let values := v.lanewise (.fmt (if q.s32 then .s32 else .f32)) false fun l => ((pair l).map fun p => p.2.toNat).getD 0
  return (v.put vd false keys).put (vd + 1) false values

/-! ## The instructions -/

/-- `sqld` (R267). -/
def execSqld (s32 : Bool) (qd : BitVec 3) (sa : SSrc) (s : State) : Host.Outcome State Fault Refusal :=
  issue 4 (streamLoad s32 qd sa) s

/-- `sqst` (R267). -/
def execSqst (qa : BitVec 3) (sa : SSrc) (s : State) : Host.Outcome State Fault Refusal := issue 4 (streamStore qa sa) s

/-- `sqint` (R268). -/
def execSqint (qa qd qb : BitVec 3) (s : State) : Host.Outcome State Fault Refusal :=
  issue 4 (streamMerge .int qa qd qb) s

/-- `squni` (R268). -/
def execSquni (qa qd qb : BitVec 3) (s : State) : Host.Outcome State Fault Refusal :=
  issue 4 (streamMerge .uni qa qd qb) s

/-- `sqsub` (R268). -/
def execSqsub (qa qd qb : BitVec 3) (s : State) : Host.Outcome State Fault Refusal :=
  issue 4 (streamMerge .sub qa qd qb) s

/-- `sqmadd` (R268). -/
def execSqmadd (qa qd qb : BitVec 3) (s : State) : Host.Outcome State Fault Refusal :=
  issue 4 (streamMerge .madd qa qd qb) s

/-- `sqcnt` (R269). -/
def execSqcnt (qa : BitVec 3) (sd : BitVec 6) (s : State) : Host.Outcome State Fault Refusal :=
  regOp 4 (fun v =>
    let q := v.team.stream qa
    v.writeS sd (BitVec.ofNat 64 (q.pairs.length + if q.ovf then 2 ^ 63 else 0))) s

/-- `sqext` (R269). -/
def execSqext (qa : BitVec 3) (sa : SSrc) (vd : BitVec 6) (s : State) : Host.Outcome State Fault Refusal :=
  regOp 4 (streamExtract qa sa vd) s

end Sys2Proof.Machine
end

