-- ==== Sys2Proof/Machine/Dispatch.lean ====
section
/-!
DEFINITION. One arm per row of the opcode table: its meaning, by name.
-/

namespace Sys2Proof.Machine

/-- What an instruction or event does (R162; 95_what_each_step_holds.md). -/
def exec (i : Instr) (s : State) : Host.Outcome State Fault Refusal :=
  match i with
  | .movShort ss vd => Sys2Proof.Machine.execMovShort ss vd s
  | .addF32Short ss vd => Sys2Proof.Machine.execAddF32Short ss vd s
  | .subF32Short ss vd => Sys2Proof.Machine.execSubF32Short ss vd s
  | .mulF32Short ss vd => Sys2Proof.Machine.execMulF32Short ss vd s
  | .minF32Short ss vd => Sys2Proof.Machine.execMinF32Short ss vd s
  | .maxF32Short ss vd => Sys2Proof.Machine.execMaxF32Short ss vd s
  | .addS32Short ss vd => Sys2Proof.Machine.execAddS32Short ss vd s
  | .subS32Short ss vd => Sys2Proof.Machine.execSubS32Short ss vd s
  | .mulS32Short ss vd => Sys2Proof.Machine.execMulS32Short ss vd s
  | .addN32Short ss vd => Sys2Proof.Machine.execAddN32Short ss vd s
  | .subN32Short ss vd => Sys2Proof.Machine.execSubN32Short ss vd s
  | .andB32Short ss vd => Sys2Proof.Machine.execAndB32Short ss vd s
  | .orB32Short ss vd => Sys2Proof.Machine.execOrB32Short ss vd s
  | .xorB32Short ss vd => Sys2Proof.Machine.execXorB32Short ss vd s
  | .shlN32Short ss vd => Sys2Proof.Machine.execShlN32Short ss vd s
  | .shrN32Short ss vd => Sys2Proof.Machine.execShrN32Short ss vd s
  | .addF32 vb va vd nw rm => Sys2Proof.Machine.execAddF32 vb va vd nw rm s
  | .subF32 vb va vd nw rm => Sys2Proof.Machine.execSubF32 vb va vd nw rm s
  | .mulF32 vb va vd nw rm => Sys2Proof.Machine.execMulF32 vb va vd nw rm s
  | .fmaF32 vb va vd nw rm => Sys2Proof.Machine.execFmaF32 vb va vd nw rm s
  | .addF64 vb va vd nw rm => Sys2Proof.Machine.execAddF64 vb va vd nw rm s
  | .subF64 vb va vd nw rm => Sys2Proof.Machine.execSubF64 vb va vd nw rm s
  | .mulF64 vb va vd nw rm => Sys2Proof.Machine.execMulF64 vb va vd nw rm s
  | .fmaF64 vb va vd nw rm => Sys2Proof.Machine.execFmaF64 vb va vd nw rm s
  | .addF16 vb va vd nw rm => Sys2Proof.Machine.execAddF16 vb va vd nw rm s
  | .subF16 vb va vd nw rm => Sys2Proof.Machine.execSubF16 vb va vd nw rm s
  | .mulF16 vb va vd nw rm => Sys2Proof.Machine.execMulF16 vb va vd nw rm s
  | .fmaF16 vb va vd nw rm => Sys2Proof.Machine.execFmaF16 vb va vd nw rm s
  | .addBf16 vb va vd nw rm => Sys2Proof.Machine.execAddBf16 vb va vd nw rm s
  | .subBf16 vb va vd nw rm => Sys2Proof.Machine.execSubBf16 vb va vd nw rm s
  | .mulBf16 vb va vd nw rm => Sys2Proof.Machine.execMulBf16 vb va vd nw rm s
  | .fmaBf16 vb va vd nw rm => Sys2Proof.Machine.execFmaBf16 vb va vd nw rm s
  | .div vb va vd nw ft rm => Sys2Proof.Machine.execDiv vb va vd nw ft rm s
  | .fmin vb va vd nw ft => Sys2Proof.Machine.execFmin vb va vd nw ft s
  | .fmax vb va vd nw ft => Sys2Proof.Machine.execFmax vb va vd nw ft s
  | .copysign vb va vd nw ft => Sys2Proof.Machine.execCopysign vb va vd nw ft s
  | .sqrt va vd nw ft rm => Sys2Proof.Machine.execSqrt va vd nw ft rm s
  | .rcp va vd nw ft rm => Sys2Proof.Machine.execRcp va vd nw ft rm s
  | .rsqrt va vd nw ft rm => Sys2Proof.Machine.execRsqrt va vd nw ft rm s
  | .exp2 va vd nw ft rm => Sys2Proof.Machine.execExp2 va vd nw ft rm s
  | .log2 va vd nw ft rm => Sys2Proof.Machine.execLog2 va vd nw ft rm s
  | .sin va vd nw ft rm => Sys2Proof.Machine.execSin va vd nw ft rm s
  | .cos va vd nw ft rm => Sys2Proof.Machine.execCos va vd nw ft rm s
  | .tanh va vd nw ft rm => Sys2Proof.Machine.execTanh va vd nw ft rm s
  | .rint va vd nw ft rm => Sys2Proof.Machine.execRint va vd nw ft rm s
  | .fneg va vd nw ft => Sys2Proof.Machine.execFneg va vd nw ft s
  | .fabs va vd nw ft => Sys2Proof.Machine.execFabs va vd nw ft s
  | .fclass va vd nw ft => Sys2Proof.Machine.execFclass va vd nw ft s
  | .intAdd vb va vd nw it => Sys2Proof.Machine.execIntAdd vb va vd nw it s
  | .intSub vb va vd nw it => Sys2Proof.Machine.execIntSub vb va vd nw it s
  | .intMul vb va vd nw it => Sys2Proof.Machine.execIntMul vb va vd nw it s
  | .intMulh vb va vd nw it => Sys2Proof.Machine.execIntMulh vb va vd nw it s
  | .intMin vb va vd nw it => Sys2Proof.Machine.execIntMin vb va vd nw it s
  | .intMax vb va vd nw it => Sys2Proof.Machine.execIntMax vb va vd nw it s
  | .intAdds vb va vd nw it => Sys2Proof.Machine.execIntAdds vb va vd nw it s
  | .intSubs vb va vd nw it => Sys2Proof.Machine.execIntSubs vb va vd nw it s
  | .intShl vb va vd nw it => Sys2Proof.Machine.execIntShl vb va vd nw it s
  | .intShr vb va vd nw it => Sys2Proof.Machine.execIntShr vb va vd nw it s
  | .intAbs va vd nw wide => Sys2Proof.Machine.execIntAbs va vd nw wide s
  | .intNeg va vd nw wide => Sys2Proof.Machine.execIntNeg va vd nw wide s
  | .intMad vb va vd nw it => Sys2Proof.Machine.execIntMad vb va vd nw it s
  | .intDiv vb va vd nw it => Sys2Proof.Machine.execIntDiv vb va vd nw it s
  | .intRem vb va vd nw it => Sys2Proof.Machine.execIntRem vb va vd nw it s
  | .bitAnd vb va vd nw => Sys2Proof.Machine.execBitAnd vb va vd nw s
  | .bitOr vb va vd nw => Sys2Proof.Machine.execBitOr vb va vd nw s
  | .bitXor vb va vd nw => Sys2Proof.Machine.execBitXor vb va vd nw s
  | .bitAndn vb va vd nw => Sys2Proof.Machine.execBitAndn vb va vd nw s
  | .bitNot va vd nw => Sys2Proof.Machine.execBitNot va vd nw s
  | .bitPopc va vd nw => Sys2Proof.Machine.execBitPopc va vd nw s
  | .bitClz va vd nw => Sys2Proof.Machine.execBitClz va vd nw s
  | .bitCtz va vd nw => Sys2Proof.Machine.execBitCtz va vd nw s
  | .bitRotl vb va vd nw => Sys2Proof.Machine.execBitRotl vb va vd nw s
  | .bitBrev va vd nw => Sys2Proof.Machine.execBitBrev va vd nw s
  | .cmp vb va ty md cc => Sys2Proof.Machine.execCmp vb va ty md cc s
  | .cvt df sat va vd nw rm => Sys2Proof.Machine.execCvt df sat va vd nw rm s
  | .vaddi imm va vd nw => Sys2Proof.Machine.execVaddi imm va vd nw s
  | .shli amt va vd nw => Sys2Proof.Machine.execShli amt va vd nw s
  | .shriN amt va vd nw => Sys2Proof.Machine.execShriN amt va vd nw s
  | .shriS amt va vd nw => Sys2Proof.Machine.execShriS amt va vd nw s
  | .rotli amt va vd nw => Sys2Proof.Machine.execRotli amt va vd nw s
  | .xperm vb va vd nw => Sys2Proof.Machine.execXperm vb va vd nw s
  | .shfl vb va vd nw => Sys2Proof.Machine.execShfl vb va vd nw s
  | .shflXor sb va vd nw => Sys2Proof.Machine.execShflXor sb va vd nw s
  | .shflUp sb va vd nw => Sys2Proof.Machine.execShflUp sb va vd nw s
  | .shflDn sb va vd nw => Sys2Proof.Machine.execShflDn sb va vd nw s
  | .voteAny sb va vd nw => Sys2Proof.Machine.execVoteAny sb va vd nw s
  | .voteAll sb va vd nw => Sys2Proof.Machine.execVoteAll sb va vd nw s
  | .voteEq sb va vd nw => Sys2Proof.Machine.execVoteEq sb va vd nw s
  | .ballot sb va vd nw => Sys2Proof.Machine.execBallot sb va vd nw s
  | .csamp sb va vd nw => Sys2Proof.Machine.execCsamp sb va vd nw s
  | .rngN32 vc sk vd nw => Sys2Proof.Machine.execRngN32 vc sk vd nw s
  | .mov va vd nw => Sys2Proof.Machine.execMov va vd nw s
  | .movtag tag va vd nw => Sys2Proof.Machine.execMovtag tag va vd nw s
  | .lane vd nw => Sys2Proof.Machine.execLane vd nw s
  | .bcast sb va vd nw => Sys2Proof.Machine.execBcast sb va vd nw s
  | .sel vb va vd nw => Sys2Proof.Machine.execSel vb va vd nw s
  | .vmoviGet tag va vd nw => Sys2Proof.Machine.execVmoviGet tag va vd nw s
  | .vmoviPut vb va => Sys2Proof.Machine.execVmoviPut vb va s
  | .affine sb sa vd nw => Sys2Proof.Machine.execAffine sb sa vd nw s
  | .omov va od nw => Sys2Proof.Machine.execOmov va od nw s
  | .dotF32Bf16 vb va vd nw => Sys2Proof.Machine.execDotF32Bf16 vb va vd nw s
  | .dotF32F16 vb va vd nw => Sys2Proof.Machine.execDotF32F16 vb va vd nw s
  | .dotS32S8 vb va vd nw => Sys2Proof.Machine.execDotS32S8 vb va vd nw s
  | .dotF32Nf vb va vd nw => Sys2Proof.Machine.execDotF32Nf vb va vd nw s
  | .sadd sb sa sd => Sys2Proof.Machine.execSadd sb sa sd s
  | .ssub sb sa sd => Sys2Proof.Machine.execSsub sb sa sd s
  | .smul sb sa sd => Sys2Proof.Machine.execSmul sb sa sd s
  | .smulhS sb sa sd => Sys2Proof.Machine.execSmulhS sb sa sd s
  | .smulhN sb sa sd => Sys2Proof.Machine.execSmulhN sb sa sd s
  | .sdivS sb sa sd => Sys2Proof.Machine.execSdivS sb sa sd s
  | .sdivN sb sa sd => Sys2Proof.Machine.execSdivN sb sa sd s
  | .sremS sb sa sd => Sys2Proof.Machine.execSremS sb sa sd s
  | .sremN sb sa sd => Sys2Proof.Machine.execSremN sb sa sd s
  | .sand sb sa sd => Sys2Proof.Machine.execSand sb sa sd s
  | .sor sb sa sd => Sys2Proof.Machine.execSor sb sa sd s
  | .sxor sb sa sd => Sys2Proof.Machine.execSxor sb sa sd s
  | .sandn sb sa sd => Sys2Proof.Machine.execSandn sb sa sd s
  | .sshl sb sa sd => Sys2Proof.Machine.execSshl sb sa sd s
  | .sshrN sb sa sd => Sys2Proof.Machine.execSshrN sb sa sd s
  | .sshrS sb sa sd => Sys2Proof.Machine.execSshrS sb sa sd s
  | .srotl sb sa sd => Sys2Proof.Machine.execSrotl sb sa sd s
  | .sminS sb sa sd => Sys2Proof.Machine.execSminS sb sa sd s
  | .sminN sb sa sd => Sys2Proof.Machine.execSminN sb sa sd s
  | .smaxS sb sa sd => Sys2Proof.Machine.execSmaxS sb sa sd s
  | .smaxN sb sa sd => Sys2Proof.Machine.execSmaxN sb sa sd s
  | .ssltS sb sa sd => Sys2Proof.Machine.execSsltS sb sa sd s
  | .ssltN sb sa sd => Sys2Proof.Machine.execSsltN sb sa sd s
  | .sseq sb sa sd => Sys2Proof.Machine.execSseq sb sa sd s
  | .spopc sa sd => Sys2Proof.Machine.execSpopc sa sd s
  | .sclz sa sd => Sys2Proof.Machine.execSclz sa sd s
  | .sctz sa sd => Sys2Proof.Machine.execSctz sa sd s
  | .smov sa sd => Sys2Proof.Machine.execSmov sa sd s
  | .saddi imm sa sd => Sys2Proof.Machine.execSaddi imm sa sd s
  | .sandi imm sa sd => Sys2Proof.Machine.execSandi imm sa sd s
  | .sori imm sa sd => Sys2Proof.Machine.execSori imm sa sd s
  | .sxori imm sa sd => Sys2Proof.Machine.execSxori imm sa sd s
  | .sshli amt sa sd => Sys2Proof.Machine.execSshli amt sa sd s
  | .sshriN amt sa sd => Sys2Proof.Machine.execSshriN amt sa sd s
  | .sshriS amt sa sd => Sys2Proof.Machine.execSshriS amt sa sd s
  | .srotli amt sa sd => Sys2Proof.Machine.execSrotli amt sa sd s
  | .sli imm q sd => Sys2Proof.Machine.execSli imm q sd s
  | .slk imm q sd => Sys2Proof.Machine.execSlk imm q sd s
  | .mand mb ma md => Sys2Proof.Machine.execMand mb ma md s
  | .mor mb ma md => Sys2Proof.Machine.execMor mb ma md s
  | .mxor mb ma md => Sys2Proof.Machine.execMxor mb ma md s
  | .mandn mb ma md => Sys2Proof.Machine.execMandn mb ma md s
  | .mnot ma md => Sys2Proof.Machine.execMnot ma md s
  | .mmov ma md => Sys2Proof.Machine.execMmov ma md s
  | .mcnt ma sd => Sys2Proof.Machine.execMcnt ma sd s
  | .mfirst ma sd => Sys2Proof.Machine.execMfirst ma sd s
  | .mact md => Sys2Proof.Machine.execMact md s
  | .mget w ma sd => Sys2Proof.Machine.execMget w ma sd s
  | .mput w sa md => Sys2Proof.Machine.execMput w sa md s
  | .bz off sa => Sys2Proof.Machine.execBz off sa s
  | .bnz off sa => Sys2Proof.Machine.execBnz off sa s
  | .bltz off sa => Sys2Proof.Machine.execBltz off sa s
  | .bgez off sa => Sys2Proof.Machine.execBgez off sa s
  | .bdiv off joff ms => Sys2Proof.Machine.execBdiv off joff ms s
  | .jmp off => Sys2Proof.Machine.execJmp off s
  | .call off => Sys2Proof.Machine.execCall off s
  | .jr sa => Sys2Proof.Machine.execJr sa s
  | .callr sa => Sys2Proof.Machine.execCallr sa s
  | .brtab va => Sys2Proof.Machine.execBrtab va s
  | .wcnt c n => Sys2Proof.Machine.execWcnt c n s
  | .rdclk ret sd => Sys2Proof.Machine.execRdclk ret sd s
  | .rdid k sd => Sys2Proof.Machine.execRdid k sd s
  | .ld base ix vd fmt off => Sys2Proof.Machine.execLd base ix vd fmt off s
  | .st base ix vd fmt off => Sys2Proof.Machine.execSt base ix vd fmt off s
  | .sld base ix vd fmt off => Sys2Proof.Machine.execSld base ix vd fmt off s
  | .sst base ix vd fmt off => Sys2Proof.Machine.execSst base ix vd fmt off s
  | .redAdd base ix vd fmt => Sys2Proof.Machine.execRedAdd base ix vd fmt s
  | .redMin base ix vd fmt => Sys2Proof.Machine.execRedMin base ix vd fmt s
  | .redMax base ix vd fmt => Sys2Proof.Machine.execRedMax base ix vd fmt s
  | .redAnd base ix vd fmt => Sys2Proof.Machine.execRedAnd base ix vd fmt s
  | .redOr base ix vd fmt => Sys2Proof.Machine.execRedOr base ix vd fmt s
  | .redXor base ix vd fmt => Sys2Proof.Machine.execRedXor base ix vd fmt s
  | .atomAdd base ix vd fmt => Sys2Proof.Machine.execAtomAdd base ix vd fmt s
  | .atomMin base ix vd fmt => Sys2Proof.Machine.execAtomMin base ix vd fmt s
  | .atomMax base ix vd fmt => Sys2Proof.Machine.execAtomMax base ix vd fmt s
  | .atomAnd base ix vd fmt => Sys2Proof.Machine.execAtomAnd base ix vd fmt s
  | .atomOr base ix vd fmt => Sys2Proof.Machine.execAtomOr base ix vd fmt s
  | .atomXor base ix vd fmt => Sys2Proof.Machine.execAtomXor base ix vd fmt s
  | .atomXchg base ix vd fmt => Sys2Proof.Machine.execAtomXchg base ix vd fmt s
  | .atomCas base ix vd fmt => Sys2Proof.Machine.execAtomCas base ix vd fmt s
  | .ldfe base ix vd fmt => Sys2Proof.Machine.execLdfe base ix vd fmt s
  | .stfe base ix vd fmt => Sys2Proof.Machine.execStfe base ix vd fmt s
  | .ldf base ix vd fmt => Sys2Proof.Machine.execLdf base ix vd fmt s
  | .rel sc => Sys2Proof.Machine.execRel sc s
  | .acq sc => Sys2Proof.Machine.execAcq sc s
  | .acqset sc sa => Sys2Proof.Machine.execAcqset sc sa s
  | .fence sc => Sys2Proof.Machine.execFence sc s
  | .bar sc sd => Sys2Proof.Machine.execBar sc sd s
  | .gbar sc sd => Sys2Proof.Machine.execGbar sc sd s
  | .gjoin sa => Sys2Proof.Machine.execGjoin sa s
  | .spawn p np sa sd => Sys2Proof.Machine.execSpawn p np sa sd s
  | .jwait sa => Sys2Proof.Machine.execJwait sa s
  | .copy sn sa sd => Sys2Proof.Machine.execCopy sn sa sd s
  | .cbseal sd => Sys2Proof.Machine.execCbseal sd s
  | .cbwait sa => Sys2Proof.Machine.execCbwait sa s
  | .talloc sa sd => Sys2Proof.Machine.execTalloc sa sd s
  | .tready sa => Sys2Proof.Machine.execTready sa s
  | .trel sa => Sys2Proof.Machine.execTrel sa s
  | .tstat sa sd => Sys2Proof.Machine.execTstat sa sd s
  | .mm fmt acc oma omb sd => Sys2Proof.Machine.execMm fmt acc oma omb sd s
  | .mmSp fmt acc oma omb sd => Sys2Proof.Machine.execMmSp fmt acc oma omb sd s
  | .mmo fmt vd va omb sd => Sys2Proof.Machine.execMmo fmt vd va omb sd s
  | .mmoSp fmt vd va omb sd => Sys2Proof.Machine.execMmoSp fmt vd va omb sd s
  | .aalloc sa sd => Sys2Proof.Machine.execAalloc sa sd s
  | .afree n => Sys2Proof.Machine.execAfree n s
  | .azero n => Sys2Proof.Machine.execAzero n s
  | .adrain addMode h sa sd => Sys2Proof.Machine.execAdrain addMode h sa sd s
  | .adrainT addMode sa sd => Sys2Proof.Machine.execAdrainT addMode sa sd s
  | .wbld sa sd => Sys2Proof.Machine.execWbld sa sd s
  | .omset k sa => Sys2Proof.Machine.execOmset k sa s
  | .nfset k sa => Sys2Proof.Machine.execNfset k sa s
  | .nfget k sd => Sys2Proof.Machine.execNfget k sd s
  | .dmset side sa => Sys2Proof.Machine.execDmset side sa s
  | .sqld s32 qd sa => Sys2Proof.Machine.execSqld s32 qd sa s
  | .sqst qa sa => Sys2Proof.Machine.execSqst qa sa s
  | .sqint qa qd qb => Sys2Proof.Machine.execSqint qa qd qb s
  | .squni qa qd qb => Sys2Proof.Machine.execSquni qa qd qb s
  | .sqsub qa qd qb => Sys2Proof.Machine.execSqsub qa qd qb s
  | .sqmadd qa qd qb => Sys2Proof.Machine.execSqmadd qa qd qb s
  | .sqcnt qa sd => Sys2Proof.Machine.execSqcnt qa sd s
  | .sqext qa sa vd => Sys2Proof.Machine.execSqext qa sa vd s
  | .cscene sa sd => Sys2Proof.Machine.execCscene sa sd s
  | .cclose sa => Sys2Proof.Machine.execCclose sa s
  | .ckind k sa vb => Sys2Proof.Machine.execCkind k sa vb s
  | .clink joint sa vb => Sys2Proof.Machine.execClink joint sa vb s
  | .cunlink joint sa vb => Sys2Proof.Machine.execCunlink joint sa vb s
  | .cstep sa sd => Sys2Proof.Machine.execCstep sa sd s
  | .cwake sa vb => Sys2Proof.Machine.execCwake sa vb s
  | .cquery f sa vb => Sys2Proof.Machine.execCquery f sa vb s
  | .enq e sa sd => Sys2Proof.Machine.execEnq e sa sd s
  | .eseq e sd => Sys2Proof.Machine.execEseq e sd s
  | .ewait e sa sd => Sys2Proof.Machine.execEwait e sa sd s
  | .vgrow g => Sys2Proof.Machine.execVgrow g s
  | .vshrink g => Sys2Proof.Machine.execVshrink g s
  | .crr cr sa sd => Sys2Proof.Machine.execCrr cr sa sd s
  | .crw cr sa sd => Sys2Proof.Machine.execCrw cr sa sd s
  | .crs cr sa sd => Sys2Proof.Machine.execCrs cr sa sd s
  | .crc cr sa sd => Sys2Proof.Machine.execCrc cr sa sd s
  | .trap n => Sys2Proof.Machine.execTrap n s
  | .brk n => Sys2Proof.Machine.execBrk n s
  | .ret => Sys2Proof.Machine.execRet s
  | .rcv => Sys2Proof.Machine.execRcv s
  | .pause => Sys2Proof.Machine.execPause s
  | .exit => Sys2Proof.Machine.execExit s
  | .gleave => Sys2Proof.Machine.execGleave s
  | .ifence => Sys2Proof.Machine.execIfence s
  | .wbldRel => Sys2Proof.Machine.execWbldRel s
  | .csleep => Sys2Proof.Machine.execCsleep s
  | .rte => Sys2Proof.Machine.execRte s
  | .nop => Sys2Proof.Machine.execNop s
  | .tcinv sc sa => Sys2Proof.Machine.execTcinv sc sa s
  | .tcinva sc sa => Sys2Proof.Machine.execTcinva sc sa s
  | .targetEntry payload => Sys2Proof.Machine.execTargetEntry payload s
  | .targetListHeader payload => Sys2Proof.Machine.execTargetListHeader payload s
  | .hint hk payload => Sys2Proof.Machine.execHint hk payload s
  | .quantumExpiry team => Sys2Proof.Machine.execQuantumExpiry team s
  | .issueTurn core prefetch => Sys2Proof.Machine.execIssueTurn core prefetch s
  | .spawnGroupTimeout gang entry => Sys2Proof.Machine.execSpawnGroupTimeout gang entry s
  | .familyResourceReturn family => Sys2Proof.Machine.execFamilyResourceReturn family s
  | .teamSwapOut core => Sys2Proof.Machine.execTeamSwapOut core s
  | .swappedTeamRestore team => Sys2Proof.Machine.execSwappedTeamRestore team s
  | .logicalClockGrant team => Sys2Proof.Machine.execLogicalClockGrant team s
  | .publicationRecord team => Sys2Proof.Machine.execPublicationRecord team s
  | .acquireComplete team => Sys2Proof.Machine.execAcquireComplete team s
  | .loadReturn team => Sys2Proof.Machine.execLoadReturn team s
  | .homeAtomic team => Sys2Proof.Machine.execHomeAtomic team s
  | .logDrain core => Sys2Proof.Machine.execLogDrain core s
  | .homeApply index => Sys2Proof.Machine.execHomeApply index s
  | .logAck core => Sys2Proof.Machine.execLogAck core s
  | .logSpill core => Sys2Proof.Machine.execLogSpill core s
  | .logFullPreemption team => Sys2Proof.Machine.execLogFullPreemption team s
  | .trapEntry team => Sys2Proof.Machine.execTrapEntry team s
  | .watchdogRetireTimeout team => Sys2Proof.Machine.execWatchdogRetireTimeout team s
  | .watchdogStarveTimeout team => Sys2Proof.Machine.execWatchdogStarveTimeout team s
  | .handlerHang team => Sys2Proof.Machine.execHandlerHang team s
  | .gangPreemption gang => Sys2Proof.Machine.execGangPreemption gang s
  | .gangRestore gang damaged => Sys2Proof.Machine.execGangRestore gang damaged s
  | .cstepRegroup scene => Sys2Proof.Machine.execCstepRegroup scene s
  | .bodyRecordWriteback scene body => Sys2Proof.Machine.execBodyRecordWriteback scene body s
  | .runAccept chan => Sys2Proof.Machine.execRunAccept chan s
  | .bceCopyCommand chan run => Sys2Proof.Machine.execBceCopyCommand chan run s
  | .bceDrainCommand chan run => Sys2Proof.Machine.execBceDrainCommand chan run s
  | .chainNop chan run => Sys2Proof.Machine.execChainNop chan run s
  | .copyEntry chan run => Sys2Proof.Machine.execCopyEntry chan run s
  | .gather chan run => Sys2Proof.Machine.execGather chan run s
  | .scatter chan run => Sys2Proof.Machine.execScatter chan run s
  | .drainEntry chan run => Sys2Proof.Machine.execDrainEntry chan run s
  | .solve chan run => Sys2Proof.Machine.execSolve chan run s
  | .loopEntry chan run => Sys2Proof.Machine.execLoopEntry chan run s
  | .condEntry chan run => Sys2Proof.Machine.execCondEntry chan run s
  | .condRetest chan run => Sys2Proof.Machine.execCondRetest chan run s
  | .entryCompletion chan run => Sys2Proof.Machine.execEntryCompletion chan run s
  | .mxePass core => Sys2Proof.Machine.execMxePass core s
  | .mxeIdle core => Sys2Proof.Machine.execMxeIdle core s
  | .mxeAdmission => Sys2Proof.Machine.execMxeAdmission s
  | .queueDoorbell queue db => Sys2Proof.Machine.execQueueDoorbell queue db s
  | .nopPacket queue => Sys2Proof.Machine.execNopPacket queue s
  | .launchPacket queue => Sys2Proof.Machine.execLaunchPacket queue s
  | .waitPacket queue => Sys2Proof.Machine.execWaitPacket queue s
  | .levelPacket queue => Sys2Proof.Machine.execLevelPacket queue s
  | .holdPacket queue => Sys2Proof.Machine.execHoldPacket queue s
  | .signalPacket queue => Sys2Proof.Machine.execSignalPacket queue s
  | .packetCompletion queue => Sys2Proof.Machine.execPacketCompletion queue s
  | .queueBind queue => Sys2Proof.Machine.execQueueBind queue s
  | .sliceExpiry queue => Sys2Proof.Machine.execSliceExpiry queue s
  | .priorityAgeing queue => Sys2Proof.Machine.execPriorityAgeing queue s
  | .gangPlacement => Sys2Proof.Machine.execGangPlacement s
  | .groupStart group => Sys2Proof.Machine.execGroupStart group s
  | .groupMissedStart queue => Sys2Proof.Machine.execGroupMissedStart queue s
  | .missedStartReport tag tick => Sys2Proof.Machine.execMissedStartReport tag tick s
  | .queueRegistration queue tenant desc => Sys2Proof.Machine.execQueueRegistration queue tenant desc s
  | .queueDeregistration queue => Sys2Proof.Machine.execQueueDeregistration queue s
  | .queueRecovery queue => Sys2Proof.Machine.execQueueRecovery queue s
  | .checkRecordRegistration queue addr => Sys2Proof.Machine.execCheckRecordRegistration queue addr s
  | .tenantRootRegistration tenant root => Sys2Proof.Machine.execTenantRootRegistration tenant root s
  | .entryListRegistration tenant entries => Sys2Proof.Machine.execEntryListRegistration tenant entries s
  | .watchdogExponent tenant wde => Sys2Proof.Machine.execWatchdogExponent tenant wde s
  | .faultQueueRegistration tenant desc => Sys2Proof.Machine.execFaultQueueRegistration tenant desc s
  | .faultQueueConsume tenant rd => Sys2Proof.Machine.execFaultQueueConsume tenant rd s
  | .ackWord tenant => Sys2Proof.Machine.execAckWord tenant s
  | .hostWrite path bytes => Sys2Proof.Machine.execHostWrite path bytes s
  | .hostRead path len => Sys2Proof.Machine.execHostRead path len s
  | .rootPortDma port va write bytes => Sys2Proof.Machine.execRootPortDma port va write bytes s
  | .flitReceive flit => Sys2Proof.Machine.execFlitReceive flit s
  | .flowAck flow num => Sys2Proof.Machine.execFlowAck flow num s
  | .resendTimeout flow => Sys2Proof.Machine.execResendTimeout flow s
  | .linkLaneRetire port lane => Sys2Proof.Machine.execLinkLaneRetire port lane s
  | .linkKeyReplace dev cls => Sys2Proof.Machine.execLinkKeyReplace dev cls s
  | .deviceIdAssignment dev count => Sys2Proof.Machine.execDeviceIdAssignment dev count s
  | .routeTableWrite dev mask => Sys2Proof.Machine.execRouteTableWrite dev mask s
  | .meridianTimingMessage reference => Sys2Proof.Machine.execMeridianTimingMessage reference s
  | .meridianOutOfBound => Sys2Proof.Machine.execMeridianOutOfBound s
  | .powerSample watts => Sys2Proof.Machine.execPowerSample watts s
  | .monitorSample sensor reading => Sys2Proof.Machine.execMonitorSample sensor reading s
  | .voltageDroop core => Sys2Proof.Machine.execVoltageDroop core s
  | .bringUp cfg => Sys2Proof.Machine.execBringUp cfg s
  | .thirdRunVote family third => Sys2Proof.Machine.execThirdRunVote family third s
  | .coreOutOfService core => Sys2Proof.Machine.execCoreOutOfService core s
  | .hbmRowSpare chan row => Sys2Proof.Machine.execHbmRowSpare chan row s
  | .hbmChannelRetireRequest chan => Sys2Proof.Machine.execHbmChannelRetireRequest chan s
  | .hbmChannelRetire chan => Sys2Proof.Machine.execHbmChannelRetire chan s
  | .dieCacheWayRetire die way => Sys2Proof.Machine.execDieCacheWayRetire die way s
  | .solverEngineRetire engine => Sys2Proof.Machine.execSolverEngineRetire engine s
  | .firmwareUpdate slot image verified => Sys2Proof.Machine.execFirmwareUpdate slot image verified s
  | .tenantCreate tenant => Sys2Proof.Machine.execTenantCreate tenant s
  | .tenantDelete tenant => Sys2Proof.Machine.execTenantDelete tenant s
  | .debugAdmission tenant signed => Sys2Proof.Machine.execDebugAdmission tenant signed s
  | .jobOpen queue => Sys2Proof.Machine.execJobOpen queue s
  | .jobClose queue base len dest => Sys2Proof.Machine.execJobClose queue base len dest s
  | .debugStopRequest team => Sys2Proof.Machine.execDebugStopRequest team s
  | .debugContinue team => Sys2Proof.Machine.execDebugContinue team s
  | .debugStep team => Sys2Proof.Machine.execDebugStep team s
  | .registerWrite target value => Sys2Proof.Machine.execRegisterWrite target value s
  | .translationWalk core tenant va acc sys => Sys2Proof.Machine.execTranslationWalk core tenant va acc sys s
  | .powerLoss => Sys2Proof.Machine.execPowerLoss s
  | .domainDissolution => Sys2Proof.Machine.execDomainDissolution s
  | .debugAdmissionEnd tenant => Sys2Proof.Machine.execDebugAdmissionEnd tenant s

end Sys2Proof.Machine
end

