-- ==== Sys2Proof/Machine/Errors.lean ====
section
/-!
DEFINITION. Errors of the hardware itself and what follows from each (05_memory_hierarchy.md R115; 17_determinism.md
R335; 24_faults_memory.md R390, R391; 25_faults_engines_scheduling.md R397, R398; 26_faults_reliability_links.md R405,
R408, R410, R415). Which error comes, and when, is plain data of the state (log 63).
-/

namespace Sys2Proof

/-- The vector-class specifier of an operand (R152). -/
def VSrc.spec : VSrc → Nat
  | .v r => r.toNat
  | .o r => 64 + r.toNat
  | .x r => 72 + r.toNat
  | .imm i => 96 + i.toNat

/-- Whether an instruction reads the register or the operand-file entry with a specifier. -/
def Instr.readsSpec (i : Instr) (n : Nat) : Bool := decide (n < 72) && i.vsources.any fun a => a.spec == n

/-- The mask registers an instruction names as sources (R166, R173). -/
def Instr.maskSources : Instr → List (BitVec 3)
  | .mand mb ma _ | .mor mb ma _ | .mxor mb ma _ | .mandn mb ma _ => [mb, ma]
  | .mnot ma _ | .mmov ma _ | .mcnt ma _ | .mfirst ma _ | .mget _ ma _ => [ma]
  | .bdiv _ _ ms => [ms]
  | _ => []

/-- Whether an instruction reads a mask register. -/
def Instr.readsMask (i : Instr) (m : BitVec 3) : Bool := i.maskSources.contains m

/-- Whether an instruction's lanes read scratchpad. -/
def Instr.readsScratch : Instr → Bool
  | .sld _ _ _ _ _ | .ldfe _ _ _ _ | .ldf _ _ _ _ => true
  | _ => false

/-- Whether a decoded word is an instruction that satisfies `p`; a hint and a `tcinv` read none of these operands. -/
def Decoded.any (d : Decoded) (p : Instr → Bool) : Bool :=
  match d with
  | .instr i => p i
  | .hint _ _ | .tcinv _ _ _ => false

end Sys2Proof

namespace Sys2Proof.Machine

/-! ## Memory, log and atomic buffer (R115, R390) -/

/-- Halts a team that still runs. -/
def State.haltIfThere (s : State) (team : Nat) (code : BitVec 9) (eaddr : Word) : State :=
  match s.team? team with
  | none => s
  | some t => if t.gone then s else s.haltTeam team (t.trapInfo code eaddr t.active t.arm.pc false) false true

/-- A published entry as it is applied once its check bits fail: poison over its whole granules, with bytes that the
spec does not give (R390). -/
def LogEntry.lost (e : LogEntry) (data : BitVec 256) : LogEntry :=
  match e.kind with
  | .segment => { e with heldPoison := List.range e.len }
  | _ => { e with kind := .plain, data := data, mask := -1, poison := true }

/-- Puts the lost form of an entry in the log, and in the flight that carries it. -/
def State.loseEntry (s : State) (core : Nat) (e : LogEntry) : State :=
  let (data, s) := s.drawDigest
  let s := s.modCore core fun c => { c with log := c.log.map fun x => if x.lsn == e.lsn then x.lost data else x }
  { s with flights := s.flights.map fun f =>
      if f.core == core && f.lsns.contains e.lsn then { f with entry := f.entry.lost data } else f }

/-- An uncorrectable entry of the ring or of the spill log (R390). -/
def State.entryError (s : State) (core : Nat) (lsn : BitVec 48) : State :=
  match (s.core core).log.find? fun e => e.lsn == lsn with
  | none => s
  | some e =>
    if e.unpublished then
      (s.haltIfThere e.team 0x142 0).modCore core fun c =>
        { c with log := c.log.filter fun x => !(x.lsn == lsn && x.unpublished) }
    else if e.undrained then s.loseEntry core e
    else s

/-- An uncorrectable entry of the atomic buffer (R390). -/
def State.bufferError (s : State) (core k : Nat) : State :=
  match (s.core core).abuf[k]? with
  | none => s
  | some e =>
    (s.modCore core fun c => { c with abuf := c.abuf.eraseIdx k }).haltIfThere e.team 0x142 0

/-! ## Spawn queue, scenes and chains (R391, R397, R398) -/

/-- An uncorrectable child entry: the child is lost, and its gang's every team halts; the spec's ring entry address is
a free value (R397, log 5). -/
def State.childError (s : State) (core k : Nat) : State :=
  match (s.core core).spawnq[k]? with
  | none => s
  | some c =>
    let s := s.modCore core fun d => { d with spawnq := d.spawnq.eraseIdx k }
    let s := match s.gang? c.gang with
      | none => s
      | some g => s.putGang { g with ring := g.ring.filter fun u => u != c.uid }
    let (a, s) := s.draw
    ((s.teamsOf c.gang).filter fun t => !t.gone).foldl (fun (s : State) t => s.haltIfThere t.id 0x197 a) s

/-- An uncorrectable scratchpad word under a run that has not started: its team halts, and it completes with status 10
(R391). -/
def State.chainError (s : State) (chan run : Nat) : State :=
  match (s.chan? chan).bind fun c => c.open.find? fun r => r.num.toNat == run && !r.started with
  | none => s
  | some r =>
    let s := s.haltRunTeam r 0x108
    match (s.chan? chan).bind fun c => c.open.find? fun q => q.num == r.num with
    | none => s
    | some q => s.cancelRun chan q

/-- What an error that strikes between instructions does. -/
def State.strike (s : State) : Upset → State
  | .granule key => s.setPoison (granule key) true
  | .corrected chan row => s.rowCorrected chan row
  | .cacheCorrected die way => s.wayCorrected die way
  | .wordCorrected => { s with corrections := s.corrections + 1 }
  | .engine k => s.engineError k
  | .entry core lsn => s.entryError core lsn
  | .buffered core k => s.bufferError core k
  | .child core k => s.childError core k
  | .table scene =>
    match s.scene? scene with
    | none => s
    | some c => s.failScene c
  | .chainRead chan run => s.chainError chan run
  | .flip shadow team reg lane bits => s.flip shadow team reg lane bits
  | .register _ | .mask _ | .word | .pair _ | .digest _ => s

/-! ## Paired issue (R408) -/

/-- Whether a team's gang runs in checked mode (R335). -/
def State.checkedMode (s : State) (t : Team) : Bool := (s.gangOf? t).any fun g => g.checked

/-- The logical ID of a team's gang, as an event's detail. -/
def State.gangDetail (s : State) (t : Team) : Nat := ((s.gangOf? t).map fun g => g.logical.toNat).getD 0

/-- A mismatch that the reissued pair corrects is counted against the core (EVENT 1). -/
def State.pairCorrected (s : State) (t : Team) : State :=
  let ts := recent s.tick.toNat (s.core t.core).corrected
  (s.modCore t.core fun c => { c with corrected := ts }).event 0 1 t.core ts.length

/-- A mismatch that repeats has halted the team (EVENT 2). -/
def State.pairHalted (s : State) (t : Team) : State := s.event 0 2 t.core (s.gangDetail t)

end Sys2Proof.Machine
end

