-- ==== Sys2Proof/Machine/Turn.lean ====
section
/-!
DEFINITION. What happens next: a turn's next instruction with what follows it, or the machine's next own move
(02_execution_model.md R38, R46; 03_registers.md R58, R63; 15_system_traps.md R296, R300; 16_scheduling.md R321;
17_determinism.md R327, R329, R334; 23_faults_execution.md R370; 26_faults_reliability_links.md R405, R408, R410, R415).
The order of moves is the model's choice (log 1).
-/

namespace Sys2Proof.Machine

/-! ## Executing a decoded word -/

/-- Runs a decoded word: its instruction's meaning. -/
def runDecoded (d : Decoded) (s : State) : Host.Outcome State Fault Refusal :=
  match d with
  | .instr i => exec i s
  | .hint hk payload =>
    if hk == 0 && payload == 0 then execNop s
    else if hk == 1 then execTargetEntry payload s
    else if hk == 2 then execTargetListHeader payload s
    else execHint hk payload s
  | .tcinv all sc sa => if all then execTcinva sc sa s else execTcinv sc sa s

/-- Whether a decoded word stands in no latch run (R58, R159). -/
def wordEndsRun (d : Decoded) : Bool :=
  match d with
  | .instr i => i.endsRun
  | .hint _ _ => false
  | .tcinv _ _ _ => true

/-- Whether a decoded word ends its turn by itself: a branch or `pause` (R38, R321). -/
def wordYields (d : Decoded) : Bool :=
  match d with
  | .instr .pause => true
  | .instr i => i.isBranch
  | _ => false

/-! ## What follows an instruction of a turn -/

/-- The arm that issued, as it stands now: in a handler its path, otherwise the same arm of the same entry. -/
def Team.issuedArm (t : Team) (now : Team) : Option Arm :=
  if t.handling then (if now.handling then some now.hpath else none)
  else
    match t.stack with
    | [] => if now.stack.isEmpty then some now.path else none
    | e :: _ =>
      if t.stack.length ≤ now.stack.length then
        (now.stack[now.stack.length - t.stack.length]?).map fun f => if e.sel then f.arm1 else f.arm0
      else none

/-- Whether the instruction that a team issued waits. -/
def Team.waited (t : Team) (now : Team) : Bool := (t.issuedArm now).any fun a => a.wait.isSome

/-- Counts an issued instruction against the quantum of its arm (R38). -/
def Team.spend (t : Team) (now : Team) : Team :=
  if t.handling || t.stack.isEmpty || now.stack.length < t.stack.length then now
  else
    let at_ := now.stack.length - t.stack.length
    let sel := (t.stack.head?).any fun e => e.sel
    let less (a : Arm) : Arm := { a with quantum := a.quantum - 1 }
    { now with stack := (now.stack.zipIdx 0).map fun (p : Entry × Nat) =>
        if p.2 = at_ then (if sel then { p.1 with arm1 := less p.1.arm1 } else { p.1 with arm0 := less p.1.arm0 })
        else p.1 }

/-- A debug stop of a running team at an instruction boundary (R300). -/
def State.debugStop (s : State) (team : Nat) (code : BitVec 9) : State :=
  match s.team? team with
  | none => s
  | some t => s.takeTrap team (t.trapInfo code 0 t.active t.arm.pc true)

/-- The stop that follows a retired instruction, when one is due; inside a latch run it is held (R300). -/
def State.stopAfter (s : State) (before : Team) : State :=
  match s.team? before.id with
  | none => s
  | some t =>
    if before.status != .running || t.status != .running ||
        !((before.dbgctl.getLsbD 2 && !before.isSystem) || before.stopNext) then s
    else if s.runOpen t then s.modTeam t.id fun u => { u with stopNext := true }
    else s.debugStop t.id 0x0BD

/-- A commit of a paired family (R334). -/
def State.commitAt (s : State) (t : Team) (d : Decoded) : State :=
  match s.familyOf? t with
  | none => s
  | some f =>
    if f.paired && wordCommits d then
      let lsn := (s.core t.core).lsn
      (s.putFamily { f with commits := f.commits + 1 }).modTeam t.id fun u => { u with records := [], committed := lsn }
    else s

/-- The latch run after an instruction that did not wait: at most 8 instructions (R58). -/
def State.advanceRun (s : State) (team core : Nat) (ends : Bool) : State :=
  match s.team? team with
  | none => s
  | some t =>
    if ends || 7 ≤ t.run then (s.modTeam team fun u => { u with run := 0 }).dropLatches core
    else s.modTeam team fun u => { u with run := u.run + 1 }

/-- Whether the turn goes on: the same path of the same team, not waiting, within its 8 instructions or a latch run
(R321). -/
def State.goesOn (s : State) (before : Team) (d : Decoded) : Bool :=
  match s.team? before.id with
  | none => false
  | some t =>
    s.cur == some t.id && t.status == before.status && s.mayIssue t && !wordYields d && !t.switchDue &&
      t.stack.length == before.stack.length &&
      (t.stack.head?).map (fun e => e.sel) == (before.stack.head?).map (fun e => e.sel) &&
      (t.arm.wait.isNone || t.arm.wait == some .register) && (decide (1 < s.turnLeft) || s.runOpen t)

/-- What follows an instruction that team `t` issued. -/
def State.account (t : Team) (d : Decoded) (s : State) : State :=
  match s.team? t.id with
  | none => s.endTurn
  | some now =>
    let s :=
      if t.waited now && t.arm.wait.isSome then s
      else s.modCore t.core fun c => { c with lastIssue := s.tick.toNat }
    let s :=
      if t.waited now then s
      else
        let s := s.advanceRun t.id t.core (wordEndsRun d)
        if now.issued == t.issued then s
        else
          let s := if d == .instr .pause then s else s.modTeam t.id fun u => t.spend u
          (s.commitAt t d).stopAfter t
    if s.goesOn t d then { s with turnLeft := s.turnLeft - 1 } else s.endTurn

/-! ## A turn -/

/-- Whether a STOP request stops a team at this boundary (R300). -/
def Team.stopAsked (t : Team) : Bool := t.dbgctl.getLsbD 0 && t.status == .running

/-- Latches are no operands of an instruction that stands in no run (R58). -/
def State.beforeWord (s : State) (t : Team) (d : Decoded) : State :=
  if wordEndsRun d then (s.modTeam t.id fun u => { u with run := 0 }).dropLatches t.core else s

/-- Forgets the parcels fetched ahead that an instruction has used. -/
def State.useFetched (s : State) (t : Team) : State :=
  if t.prefetched.isEmpty then s
  else s.modTeam t.id fun u =>
    { u with prefetched := u.prefetched.filter fun p => p.1 != t.arm.pc && p.1 != t.arm.pc + 2 }

/-- The class 0 trap of a word that is no instruction, with the word in EADDR (R160, R370). -/
def rejectStop (r : Reject) (w : BitVec 32) : Stop := trapWith r.detail (w.setWidth 64)

/-- Fetches, decodes and executes the next instruction of the team whose turn it is. -/
def State.runNext (s : State) (t : Team) : Host.Outcome State Fault Refusal :=
  match M.fetch t s with
  | .error (.absent pa) _ => .fault (.absent pa)
  | .error e s => .next (s.stop t e).endTurn
  | .ok (w, _) s =>
    let s := s.useFetched t
    match decodeFetched (w.extractLsb' 0 16) (w.extractLsb' 16 16) with
    | .error r => .next (s.stop t (rejectStop r w)).endTurn
    | .ok d =>
      match runDecoded d (s.beforeWord t d) with
      | .next s => .next (s.account t d)
      | o => o

/-- Whether what a team issued in `s` was carried out, and neither stopped nor waits in `u`. -/
def State.carriedOut (t : Team) (u : State) : Bool :=
  match u.team? t.id with
  | none => true
  | some now => now.status == t.status && !t.waited now

/-- A halt in place of the next instruction, which has no effect. -/
def State.haltedInstead (s : State) (t : Team) (code : BitVec 9) (eaddr : Word) : State :=
  ((s.useFetched t).stop t (.halt code eaddr)).endTurn

/-- The next instruction, with an error that strikes it; one that it does not meet waits for a later one (log 63). -/
def State.struckNext (s : State) (t : Team) (e : Upset) (es : List Upset) (d : Decoded) :
    Host.Outcome State Fault Refusal :=
  let past : State := { s with upsets := es }
  match e with
  | .register n =>
    if d.any (fun i => i.readsSpec n) then .next (past.haltedInstead t 0x1C1 (BitVec.ofNat 64 n)) else s.runNext t
  | .mask m =>
    if d.any (fun i => i.readsMask m) then .next (past.haltedInstead t 0x1C1 (m.setWidth 64)) else s.runNext t
  | .word =>
    match s.runNext t with
    | .next u =>
      if d.any (fun i => i.readsScratch) && State.carriedOut t u then .next (past.haltedInstead t 0x108 0) else .next u
    | o => o
  | .pair again =>
    match s.runNext t with
    | .next u =>
      if !(s.checkedMode t && State.carriedOut t u) then .next u
      else if again then .next ((past.haltedInstead t 0x1C2 0).pairHalted t)
      else .next ({ u with upsets := es }.pairCorrected t)
    | o => o
  | _ => s.runNext t

/-- The next instruction of a team whose copies agree that it may be issued. -/
def State.issueAgreed (s : State) (t : Team) : Host.Outcome State Fault Refusal :=
  match s.upsets with
  | [] => s.runNext t
  | e :: es =>
    match s.upcoming t with
    | none => s.runNext t
    | some d => s.struckNext t e es d

/-- The next instruction of the team whose turn it is. A paired family's team stalls while 65,536 forwarded bytes are
unconsumed, is held at a commit point until its shadow reaches it, and stops on digests that differ (R333, R334). -/
def State.issueNext (s : State) (t : Team) : Host.Outcome State Fault Refusal :=
  match s.agreement t with
  | .go => s.issueAgreed t
  | .hold => .next s.endTurn
  | .differ p q => .next (s.mismatchAt t p q).endTurn

/-! ## The machine's own moves (log 1) -/

/-- Makes the first of some moves that can be made. -/
def tryMoves (s : State) : List (M Unit) → Option (Host.Outcome State Fault Refusal)
  | [] => none
  | m :: ms =>
    match m s with
    | .ok _ s => some (.next s)
    | .error (.absent pa) _ => some (.fault (.absent pa))
    | .error _ _ => tryMoves s ms

/-- The watchdog of a team whose timer has expired at an instruction boundary: a trap, or in a handler a halt (R375,
R380). -/
def State.timedOut (s : State) (t : Team) : Option State :=
  match s.retireOut t, s.starveOut t, s.hangOut t with
  | some n, _, _ => some (s.bark t 0x089 n)
  | none, some n, _ => some (s.bark t 0x08A n)
  | none, none, some n => some (s.hang t n)
  | none, none, none => none

/-- The next step of a turn in progress: a watchdog, a due switch of arms or debug stop, or the next instruction; an
instruction that waits for a register goes on once the instructions its path has outstanding are complete. -/
def State.turn (s : State) : Host.Outcome State Fault Refusal :=
  match s.issuer? with
  | none => .next s.endTurn
  | some t =>
    if !s.mayIssue t then .next s.endTurn
    else if let some u := s.timedOut t then .next u.endTurn
    else if t.switchDue then .next (if s.clockLeast t then (s.switchArms t).endTurn else s.endTurn)
    else if s.quantumOut t then .next (s.switchArms t).endTurn
    else if t.stopAsked && !s.runOpen t then .next (s.debugStop t.id 0x0BE).endTurn
    else if t.arm.wait == some .register then
      let s := s.bindPath t.id
      match s.team? t.id with
      | none => .next s.endTurn
      | some t => s.issueNext t
    else s.issueNext t

/-- A change of state that can be made only under a condition. -/
def moveIf (b : State → Bool) (f : State → State) : M Unit := do
  let s ← get
  if b s then set (f s) else M.idle

/-- The moves of a queue. -/
def queueMoves (q : Queue) : List (M Unit) :=
  let n := q.num
  [pollEvent n, missedStartEvent n, completionEvent n, bindEvent n,
    startPacket n 0 startNop, startPacket n 1 startLaunch, startPacket n 2 startWait, startPacket n 3 startLevel,
    startPacket n 4 startHold, startPacket n 5 startSignal, sliceEvent n, ageingEvent n]

/-- The moves of a tenant: an ack word, and a waiting fault queue entry that finds room. -/
def tenantMoves (t : Tenant) : List (M Unit) :=
  [ackEvent t.num, moveIf (fun s => (s.writeFault t.num).1) fun s => (s.writeFault t.num).2]

/-- The moves of a team. -/
def teamMoves (t : Team) : List (M Unit) :=
  [recordEvent t.id, acquireEvent t.id, returnEvent t.id false, returnEvent t.id true, trapEntryEvent t.id,
    retireTimeoutEvent t.id, starveTimeoutEvent t.id, hangEvent t.id, swapInEvent t.id]

/-- The moves of a core. -/
def coreMoves (c : Core) : List (M Unit) :=
  [drainEvent c.n, moveIf (fun s => (s.core c.n).log.any fun e => !e.undrained) fun s => (s.ack c.n).prunePubs,
    passEvent c.n, idleEvent c.n, swapOutEvent c.n] ++
    if c.leaving || c.worn then [outOfServiceEvent c.n] else []

/-- The moves of a run. -/
def runMoves (c : Chan) (r : Run) : List (M Unit) :=
  let n := r.num.toNat
  [condRetest c.id n, completeEntry c.id n, copyRun c.id n, drainRun c.id n,
    M.entry 0 c.id n fun _ _ bs => pure (endsWith bs 0), M.entry 1 c.id n copyEntry,
    M.entry 2 c.id n (listEntry false), M.entry 3 c.id n (listEntry true), M.entry 4 c.id n drainEntry,
    M.entry 5 c.id n solveEntry, M.entry 6 c.id n loopEntry, M.entry 7 c.id n condEntry]

/-- The moves of a channel. -/
def chanMoves (c : Chan) : List (M Unit) :=
  moveIf (fun s => (s.chan? c.id).any fun d => !d.accept.isEmpty && decide (d.open.length < channelRuns))
    (fun s => s.acceptRun c.id) :: c.runs.flatMap (runMoves c)

/-- Whether something of a family can return (R31). -/
def State.mayReturn (s : State) (family : Nat) : Bool :=
  (s.gangsOf family).isEmpty &&
    ((s.chans.any fun c => c.family == family && c.done == c.issued) ||
      ((s.family? family).isSome && !s.chans.any fun c => c.family == family && c.engine == .bce))

/-- The moves of the families, dissolved ones among them. -/
def familyMoves (s : State) : List (M Unit) :=
  ((s.families.map fun f => f.uid) ++ s.chans.map fun c => c.family).eraseDups.map fun u =>
    moveIf (fun s => s.mayReturn u) fun s => s.familyReturn u

/-- The moves of a gang: a spawn group that leaves late, a pre-emption, a restore. -/
def gangMoves (s : State) (g : Gang) : List (M Unit) :=
  (match g.core with
    | none => [moveIf (fun s => ((s.restore g.uid []).gang? g.uid).all fun h => !h.saved) fun s => s.restore g.uid []]
    | some c =>
      moveIf (fun s => s.companyUnwanted g.uid && s.mayPreempt (s.companyOf g.uid)) (fun s => s.preempt g.uid) ::
        (((s.core c).spawnq.filter fun k => k.gang == g.uid).map fun k => k.entry).eraseDups.map
          (groupTimeoutEvent g.uid))

/-- The stalled teams, the longest-waiting first (R387). -/
def State.stalledTeams (s : State) : List Team :=
  sortBy (fun a b : Team => decide (a.arm.since < b.arm.since)) (s.teams.filter s.stalled)

/-- The moves that are not turns, in the order in which they are tried. -/
def State.moves (s : State) : List (M Unit) :=
  bringUpEvent plainBringUp :: startCoreEvent :: outOfBoundEvent :: timingEvent ::
    (s.queues.flatMap queueMoves ++ s.tenants.flatMap tenantMoves ++ s.groups.map (fun g => groupStartEvent g.uid) ++
      s.teams.flatMap teamMoves ++ s.cores.flatMap coreMoves ++ (List.range s.flights.length).map applyEvent ++
      s.chanOrder.flatMap chanMoves ++ s.scenes.map (fun c => regroupEvent c.num.toNat) ++ [evictEvent, admissionEvent] ++
      s.rowErrors.map (fun e => spareRow e.1 e.2.1) ++ s.wayErrors.map (fun e => retireWay e.1 e.2.1) ++
      s.engineRepeats.map (fun e => retireEngine e.1) ++
      s.stalledTeams.map (fun t => logFullEvent t.id) ++ s.groups.map (fun g => groupBackEvent g.uid) ++
      s.gangs.flatMap (gangMoves s) ++ familyMoves s ++
      s.families.map (fun f => voteEvent f.uid none) ++ [placementEvent] ++ s.flows.map (fun f => resendEvent f.id) ++
      s.ports.flatMap (fun p => (p.arrivals.map fun a => a.1).eraseDups.map (retireLane p.num)) ++
      s.linkKeys.map (fun k => replaceKey k.1 k.2.1) ++ s.teams.map fun t => clockGrantEvent t.id)

/-- The core whose turn it is to grant a turn: of those with a team to issue, the one granted longest ago. -/
def State.nextCore (s : State) : Option Nat :=
  let cs := ((s.teams.map fun t => t.core).eraseDups).filter fun n => (s.nextTeam n).isSome
  let before (a b : Nat) : Bool :=
    let x := (s.core a).lastGrant
    let y := (s.core b).lastGrant
    decide (x < y) || (x == y && decide (a < b))
  (sortBy before cs).head?

/-- The machine's next own move: one that is due, a turn, or nothing. -/
def State.ownMove (s : State) : Host.Outcome State Fault Refusal :=
  match tryMoves s s.moves with
  | some o => o
  | none =>
    match s.nextCore with
    | none => .next s
    | some c => Machine.event (issueTurnEvent c false) s

/-- What a step does: an event of the agenda, an error that strikes between instructions, the turn in progress, or a
move of the machine's own. -/
def State.act (s : State) : Host.Outcome State Fault Refusal :=
  match s.agenda with
  | e :: es => exec e { s with agenda := es }
  | [] =>
    match s.upsets with
    | [] => if s.cur.isSome then s.turn else s.ownMove
    | u :: us =>
      if u.atOnce then .next ({ s with upsets := us }.strike u) else if s.cur.isSome then s.turn else s.ownMove

/-- Meridian counts one tick, unless it stands still to fall back to the reference or runs at twice its rate to catch up
with it (R348, log 15). -/
def State.ticked (s : State) : State :=
  if s.holdBack ≠ 0 then { s with holdBack := s.holdBack - 1 }
  else if s.catchUp ≠ 0 then { s with tick := s.tick + 2, catchUp := s.catchUp - 1 }
  else { s with tick := s.tick + 1 }

end Sys2Proof.Machine
end

