-- ==== Sys2Proof/Machine/Loader.lean ====
section
/-!
DEFINITION. Placing one instruction where the next step fetches it: the load of a program from outside the machine
(log 9). A team of one lane on core 0, in a gang and family of its own, stands at the instruction with its turn begun;
its tenant has a key, and its core holds the translation of the code's page.
-/

namespace Sys2Proof.Machine

/-- Where the instruction stands: physical address, and LOCAL of its virtual address. -/
def codeAt : Nat := 0x10000

/-- Its global virtual address on a device (R88). -/
def codeAddr (dev : BitVec 10) : Word := BitVec.ofNat 64 (dev.toNat * 2 ^ 47 + codeAt)

/-- The cached translation of the code's page (R96). -/
def codePage (dev : BitVec 10) : CachedTr :=
  { tenant := 0, dev := dev, page := codeAt, bits := 16, pfn := 1, sys := false, rd := true, w := true, dirty := true
    leaf := 0 }

/-- The gang of the loaded team. -/
def loadedGang (uid family : Nat) : Gang :=
  { uid := uid, logical := 0x40000000, tenant := 0, level := 0, checked := false, sys := false, queue := none
    packet := none, origin := none, vcore := 0, core := some 0, gslot := 0, ttbase := 1, family := family, barGen := 0, abandoned := false
    barStatus := 0, group := none, roles := [], spawnWidth := 32, nest := 0, ring := [], released := [], island := none
    domain := none, check := CheckRec.zero, saved := false, image := [] }

/-- The family of the loaded team, with a partition of 64 KiB. -/
def loadedFamily (uid : Nat) : Family :=
  { uid := uid, logical := 0x40000000, tenant := 0, core := 0, resident := true, partBase := 0, partSize := 0x10000, accUnits := 32
    handles := List.replicate 32 Handle.empty, nest := 0, reserveCharge := 0, reserves := [], paired := false
    shadowCore := none, shadowBase := 0, commits := 0, mismatch := none, savedBytes := [], savedFull := []
    savedTiles := [], weight := none, savedChildren := [], savedLogs := [], savedSeen := 0, past := [] }

/-- The loaded team: one lane, all registers. -/
def loadedTeam (id gang family : Nat) (pc : Word) (tick : Nat) : Team :=
  Team.make id (loadedGang gang family) 0 0 0 .general 1 64 64 pc [launchedKey 0x40000000 0 0] 1 tick

/-- The bytes of an instruction whose bits are `w`, as memory holds them; two bytes of zeros follow a 16-bit one. -/
def codeBytes (nbits w : Nat) : List Byte := bytesOf 4 (w % 2 ^ nbits)

/-- The state with the instruction in place. -/
def State.placeWord (s : State) (nbits w : Nat) : State :=
  let fam := s.nextId
  let gang := fam + 1
  let team := fam + 2
  let key := memKey s.dev.toNat codeAt
  { s with
    agenda := [], upsets := [], cur := some team, turnLeft := 8, nextId := fam + 3, bringup := broughtUp, coresStarted := max s.coresStarted 1
    teams := loadedTeam team gang fam (codeAddr s.dev) s.tick.toNat :: s.teams
    gangs := loadedGang gang fam :: s.gangs
    families := loadedFamily fam :: s.families
    cores := putCoreIn { s.core 0 with
      inService := true, closed := false, leaving := false, latches := [], tc := codePage s.dev :: (s.core 0).tc } s.cores
    tenants := putTenantIn { s.tenant 0 with created := true } s.tenants
    mem := Memory.writeBytes s.mem key (codeBytes nbits w)
    poison := s.poison.filter fun g => g != granule key
    staged := s.staged.filter fun e => granule e.addr != granule key
    thermal := { s.thermal with stopped := false } }

end Sys2Proof.Machine
end

