-- ==== Sys2Proof/Machine/Pairing.lean ====
section
/-!
DEFINITION. The copies of paired families follow their primaries: each step's move is made on every copy, which takes the
values forwarded to it and keeps only what is its own (17_determinism.md R333, R334; 26_faults_reliability_links.md
R409; log 24).
-/

namespace Sys2Proof.Machine

/-- The next state of an outcome. -/
def nextOf : Host.Outcome State Fault Refusal → Option State
  | .next s => some s
  | _ => none

/-- The machine's own move that `State.ownMove` makes. -/
def State.chosenMove (s : State) : Option (M Unit) :=
  match s.moves.find? fun m =>
      match m s with
      | .ok _ _ => true
      | .error (.absent _) _ => true
      | .error _ _ => false with
  | some m => some m
  | none => s.nextCore.map fun c => issueTurnEvent c false

/-- Makes on `v` the move that a step makes on `s`; a flip strikes one copy only. -/
def State.alsoOn (s v : State) : Option State :=
  let turnOrMove (v : State) : Option State :=
    if s.cur.isSome then nextOf v.turn
    else
      match s.chosenMove with
      | none => none
      | some m =>
        match m v with
        | .ok _ u => some u
        | .error _ _ => none
  match s.agenda with
  | e :: es => nextOf (exec e { v with agenda := es })
  | [] =>
    match s.upsets with
    | [] => turnOrMove v
    | .flip _ _ _ _ _ :: _ => none
    | u :: us => if u.atOnce then some ({ v with upsets := us }.strike u) else turnOrMove v

/-- The team that a step lets issue. -/
def State.turnTeam (s : State) : Option Team :=
  match s.agenda, s.upsets with
  | [], [] => s.issuer?
  | [], u :: _ => if u.atOnce then none else s.issuer?
  | _ :: _, _ => none

/-- The commit that a step from `s` to `u` has made for a family: its digest. -/
def State.commitMade (s u : State) (f : Family) : Option (BitVec 256) :=
  match s.turnTeam, u.family? f.uid with
  | some t, some h =>
    if h.commits == f.commits then none else (s.nextWord t).map fun p => s.commitDigest t p.1 p.2
  | _, _ => none

/-- Whether a copy makes the move of a step: at a turn of its family, its log has room, the team passes a commit point
only with its primary, and a value from outside has been forwarded or is what its primary issues too (R333, R334). -/
def State.mayFollow (s : State) (c : Copy) (v : State) (f : Family) (committed : Bool) : Bool :=
  match s.turnTeam with
  | none => true
  | some t =>
    if (s.familyOf? t).all fun h => h.uid != f.uid then true
    else if !c.third && f.shadowCore.any fun k => s.appendRoom k == 0 then false
    else
      match v.team? t.id with
      | none => false
      | some u =>
        match v.upcoming u with
        | none => true
        | some d =>
          if wordCommits d then committed || ((s.agreement t) == .go && u.arm.pc == t.arm.pc)
          else
            d.receives == ([], []) || u.arm.pc == t.arm.pc || c.inputs.any fun i => i.team == t.id

/-- A copy after a step from `s` that leaves its primary as `f`: it is saved with its primary, with what its primary
received and, at a commit, without the team's entries. -/
def State.follow (s : State) (f : Family) (got : List Forward) (committed : Bool) (c : Copy) : Copy × Nat :=
  let c := { c with inputs := c.inputs ++ got }
  let v := s.enter c
  if !s.mayFollow c v f committed then (c, 0)
  else
    let saved := (s.family? f.uid).any (fun g => g.resident) && !f.resident
    match if saved then some (v.saveFamily f.uid) else s.alsoOn v with
    | none => (c, 0)
    | some w =>
      let d := s.turnTeam.bind fun t => (v.team? t.id).bind v.upcoming
      let own := c.teams.flatMap fun t => v.received w t.id (if s.cur == some t.id then d else none)
      let (w, inputs) := w.takeInputs own c.inputs
      match w.family? f.uid with
      | none => (c, w.nextId)
      | some h =>
        let n := w.copyOf h c.third inputs
        let gone (e : LogEntry) : Bool := committed && s.turnTeam.any fun t => t.id == e.team
        ({ n with core := { n.core with log := n.core.log.filter fun e => !gone e } }, w.nextId)

/-- The copies of one family after a step from `s`; `u` is what the step has made. -/
def State.shadowFamily (s u : State) (f : Family) : State :=
  let mine (c : Copy) : Bool := c.family.uid == f.uid
  match s.family? f.uid with
  | none => if f.resident then (u.beginEpoch (u.copyOf f false [])).addCopy (u.copyOf f false []) else u
  | some g =>
    if !u.copies.any mine then
      if f.resident && f.mismatch.isNone && g.mismatch.isNone then
        (u.beginEpoch (u.copyOf f false [])).addCopy (u.copyOf f false [])
      else u
    else if f.mismatch.isSome || g.mismatch.isSome then u
    else
      let digest := s.commitMade u g
      let got := (s.teamsIn f.uid).flatMap fun t =>
        s.received u t.id (if s.turnTeam.any fun x => x.id == t.id then s.upcoming t else none)
      let faithful := digest.all fun d =>
        s.turnTeam.all fun t => (s.thirdDigest f.uid t.id).all fun x => x == d
      let runs := (u.copies.filter mine).map (s.follow f got digest.isSome)
      let next := runs.foldl (fun n r => max n r.2) u.nextId
      let u := { u with
        nextId := next
        copies := (u.copies.filter fun c => !mine c) ++ runs.map Prod.fst
        epochs := u.epochs.map fun (e : Epoch) =>
          if e.family == f.uid then { e.record got digest with faithful := e.faithful && faithful } else e }
      if s.epochBegins u f.uid then
        match u.copies.find? fun c => mine c && !c.third with
        | some c => u.beginEpoch c
        | none => u
      else u

/-- The copies of all paired families after a step from `s` to `u` (R333, R409). -/
def State.shadowed (s u : State) : State :=
  let paired := u.families.filter fun f => f.paired
  if u.copies.isEmpty && paired.isEmpty then u
  else
    let still (uid : Nat) : Bool := (u.family? uid).any fun f => f.paired
    paired.foldl s.shadowFamily { u with
      copies := u.copies.filter fun c => still c.family.uid
      epochs := u.epochs.filter fun e => still e.family }

end Sys2Proof.Machine
end

