-- ==== Sys2Proof/Machine/Step.lean ====
section
/-!
DEFINITION. The step of the machine, and the placing of one instruction where the next step fetches it.
-/

namespace Sys2Proof.Machine

/-- One step: what is next is done, the copies of paired families follow, and Meridian counts (log 1, log 15, log 24). -/
def step (s : State) : Host.Outcome State Fault Refusal :=
  match s.act with
  | .next u => .next (s.shadowed u).ticked
  | o => o

/-- The state with an instruction stored where `step` fetches its next one (log 9). -/
def State.withFetchWord (s : State) (nbits w : Nat) : State := s.placeWord nbits w

end Sys2Proof.Machine
end

