-- ==== Sys2Proof/Safety.lean ====
section
/-!
DEFINITION. The terms in which claims about runs are stated: what an instruction that only touches registers leaves
as it was, which instructions those are, and the invariant of the machine's memories.
-/

namespace Sys2Proof.Machine

/-! ## Register steps -/

/-- From `s` to `s'`, team `t` has retired an instruction of `len` bytes whose only other effect is that the registers it
names became those of `w`: its own record, and the trap bank's registers and the latches of its core. Every other
team, every other core, every other field of its core, memory and everything else are as they were. -/
structure RegisterStep (s s' : State) (t : Team) (w : View) (len : Nat) : Prop where
  team : s'.team? t.id = some ((w.team.moveTo (t.arm.pc + BitVec.ofNat 64 len)).countRetired (!t.isSystem) s.tick.toNat)
  bank : (s'.core t.core).k = w.k ∧ (s'.core t.core).kv = w.kv ∧ (s'.core t.core).latches = w.latches
  core : { s'.core t.core with
    k := (s.core t.core).k, kv := (s.core t.core).kv, latches := (s.core t.core).latches } = s.core t.core
  teams : ∀ id, id ≠ t.id → s'.team? id = s.team? id
  cores : ∀ n, n ≠ t.core → s'.core n = s.core n
  rest : { s' with teams := s.teams, cores := s.cores } = s

/-- Instruction `i`, issued by `t`, completes, and its effect is that the registers become those of `w`. -/
def State.Registers (s : State) (t : Team) (i : Instr) (len : Nat) (w : View) : Prop :=
  ∃ s', exec i s = .next s' ∧ RegisterStep s s' t w len

/-- The registers a team sees. -/
def State.viewOf (s : State) (t : Team) : View := View.of t (s.core t.core)

/-- A result's element in lane l: 32 bits, or 64 for a pair. -/
def Res.val (r : Res) (l : Nat) : Nat :=
  (r.lo.read l).toNat + match r.hi with
    | some h => 2 ^ 32 * (h.read l).toNat
    | none => 0

/-- The tags of a result. -/
def Res.tagged (r : Res) (tag : Tag) : Prop := r.lo.tag = tag ∧ ∀ h, r.hi = some h → h.tag = tag

/-- Instruction `i` completes, and its effect is one vector result placed in `vd` (unless `nw`) and in x0 as R53 and R58
say: tagged `tag`, and in every active lane l the element `f l`, in its 32 bits or, for a pair, its 64. -/
def State.Computes (s : State) (t : Team) (i : Instr) (len : Nat) (vd : BitVec 6) (nw : Bool) (tag : Tag)
    (f : Nat → Nat) : Prop :=
  ∃ r : Res, s.Registers t i len ((s.viewOf t).put vd nw r) ∧ r.tagged tag ∧ r.hi.isSome = tag.isPair ∧
    ∀ l, l < t.size → t.active.getLsbD l = true → r.val l = f l % 2 ^ (if tag.isPair then 64 else 32)

/-! ## Other steps -/

/-- The team after an instruction that only moves its path to `pc` (R167, R180). -/
def Team.goesTo (t : Team) (pc : Word) (tick : Nat) : Team := (t.moveTo pc).countRetired (!t.isSystem) tick

/-- Instruction `i` completes, and nothing but the record of the issuing team changes, which becomes `u`. -/
def State.TeamStep (s : State) (t : Team) (i : Instr) (u : Team) : Prop :=
  ∃ s', exec i s = .next s' ∧ s'.team? t.id = some u ∧ (∀ id, id ≠ t.id → s'.team? id = s.team? id) ∧
    { s' with teams := s.teams } = s

/-- Instruction `i` of four bytes completes: its effect leaves the state `w`, and the path goes on behind it. -/
def State.Effect (s : State) (t : Team) (i : Instr) (w : State) : Prop := exec i s = .next (w.retire t 4 .next)

/-- Instruction `i` does not complete: the team takes a trap, as `State.stop` takes it. -/
def State.Traps (s : State) (t : Team) (i : Instr) (code : BitVec 9) (eaddr : Word) : Prop :=
  exec i s = .next (s.stop t (.trap code eaddr none))

/-! ## Memory accesses -/

/-- The address of lane l: BASE + (index + OFF) × Width (R156). -/
def laneAddress (base : Word) (x : Src) (off : BitVec 4) (f : Fmt) (l : Nat) : Word :=
  BitVec.ofInt 64 ((base.toNat : Int) +
    ((if x.tag = .fmt .s32 then (x.lo.read l).toInt else ((x.lo.read l).toNat : Int)) + off.toInt) * (f.bytes : Int))

/-- Every lane's address translates, to homes of this device alone: lane l's bytes lie in the parts `place l`. `w` is the
state with what the walks have cached and marked. -/
def State.Reaches (s : State) (t : Team) (acc : AccKind) (n : Nat) (as : List (Nat × Word))
    (place : Nat → List (Nat × Nat)) (w : State) : Prop :=
  s.resolveAll t acc n as = (as.map fun a => (a.1, a.2, .at (.home (place a.1))), w) ∧
    ∀ a ∈ as, ∀ p ∈ place a.1, (homeOf p.1).1 = s.dev.toNat

/-- Nothing is outstanding that an access would first complete: no load of the team, no reduction staged at a home, no
publication to be recorded, and no access to be left outstanding (log 7). -/
def State.Undelayed (s : State) (t : Team) : Prop := t.pend = [] ∧ s.staged = [] ∧ s.pendPubs = [] ∧ s.defer = []

/-- The logical clock lets a team's operation of R327 pass: always below level 2. -/
def State.Passes (s : State) (t : Team) : Prop := s.levelOf t < 2 ∨ s.clockLeast t = true

/-! ## The invariant of the memories -/

/-- Global memory, every scratchpad, those of the copies of paired families among them, and what the host's BARs hold are
in canonical form, so that equal contents are equal data (log 3). -/
structure State.Canonical (s : State) : Prop where
  mem : Memory.wf s.mem = true
  cores : ∀ c ∈ s.cores, Memory.wf c.scratch = true
  copies : ∀ c ∈ s.copies, Memory.wf c.core.scratch = true
  rings : Memory.wf s.mailRings = true
  vectors : Memory.wf s.vectorTable = true

end Sys2Proof.Machine
end

