-- ==== Sys2Proof/Certificates/Slice0/Obligations.lean ====
section
/-!
DEFINITION. The statements about the model. Each says what the spec says; where a clause rests on a choice of the model, its
docstring names the log entry.
-/

section

open Sys2Proof Sys2Proof.Machine

/-- R163, majors 20: with both sources readable and the destination nameable, each instruction of two scalar sources
completes, writes its result to SD and changes nothing else but the PC and the retired count. R163 and R164, majors 20
to 25: the instructions of one scalar source complete and write their result alone. -/
def Obligations.ScalarResults : Prop :=
  (∀ (s : State) (t : Team) (sb sa : SSrc) (sd : BitVec 6) (a b : Word),
     s.issuer? = some t → (s.viewOf t).readS posSA sa = .ok a → (s.viewOf t).readS posSB sb = .ok b →
     (s.viewOf t).checkS posD sd = .ok () →
     let gives (i : Instr) (x : Word) : Prop := s.Registers t i 4 ((s.viewOf t).setS sd x)
     gives (.sadd sb sa sd) (BitVec.ofNat 64 (a.toNat + b.toNat)) ∧
     gives (.ssub sb sa sd) (BitVec.ofInt 64 ((a.toNat : Int) - b.toNat)) ∧
     gives (.smul sb sa sd) (BitVec.ofNat 64 (a.toNat * b.toNat)) ∧
     gives (.smulhS sb sa sd) (BitVec.ofInt 64 (a.toInt * b.toInt / 2 ^ 64)) ∧
     gives (.smulhN sb sa sd) (BitVec.ofNat 64 (a.toNat * b.toNat / 2 ^ 64)) ∧
     gives (.sdivS sb sa sd) (if b = 0 then BitVec.allOnes 64 else BitVec.ofInt 64 (a.toInt.tdiv b.toInt)) ∧
     gives (.sdivN sb sa sd) (if b = 0 then BitVec.allOnes 64 else BitVec.ofNat 64 (a.toNat / b.toNat)) ∧
     gives (.sremS sb sa sd) (if b = 0 then a else BitVec.ofInt 64 (a.toInt - b.toInt * a.toInt.tdiv b.toInt)) ∧
     gives (.sremN sb sa sd) (if b = 0 then a else BitVec.ofNat 64 (a.toNat - b.toNat * (a.toNat / b.toNat))) ∧
     gives (.sand sb sa sd) (a &&& b) ∧
     gives (.sor sb sa sd) (a ||| b) ∧
     gives (.sxor sb sa sd) (a ^^^ b) ∧
     gives (.sandn sb sa sd) (a &&& ~~~b) ∧
     gives (.sshl sb sa sd) (BitVec.ofNat 64 (a.toNat * 2 ^ (b.toNat % 64))) ∧
     gives (.sshrN sb sa sd) (BitVec.ofNat 64 (a.toNat / 2 ^ (b.toNat % 64))) ∧
     gives (.sshrS sb sa sd) (BitVec.ofInt 64 (a.toInt / 2 ^ (b.toNat % 64))) ∧
     gives (.srotl sb sa sd) (a.rotateLeft (b.toNat % 64)) ∧
     gives (.sminS sb sa sd) (if a.toInt ≤ b.toInt then a else b) ∧
     gives (.sminN sb sa sd) (if a.toNat ≤ b.toNat then a else b) ∧
     gives (.smaxS sb sa sd) (if a.toInt ≤ b.toInt then b else a) ∧
     gives (.smaxN sb sa sd) (if a.toNat ≤ b.toNat then b else a) ∧
     gives (.ssltS sb sa sd) (if a.toInt < b.toInt then 1 else 0) ∧
     gives (.ssltN sb sa sd) (if a.toNat < b.toNat then 1 else 0) ∧
     gives (.sseq sb sa sd) (if a = b then 1 else 0)) ∧
  (∀ (s : State) (t : Team) (sa : SSrc) (sd : BitVec 6) (a : Word) (imm : BitVec 12) (amt : BitVec 6),
     s.issuer? = some t → (s.viewOf t).readS posSA sa = .ok a → (s.viewOf t).checkS posD sd = .ok () →
     let gives (i : Instr) (x : Word) : Prop := s.Registers t i 4 ((s.viewOf t).setS sd x)
     gives (.spopc sa sd) (BitVec.ofNat 64 ((List.range 64).filter fun i => a.getLsbD i).length) ∧
     gives (.sclz sa sd) (if a = 0 then 64 else BitVec.ofNat 64 (63 - a.toNat.log2)) ∧
     gives (.sctz sa sd) (BitVec.ofNat 64 (((List.range 64).find? fun i => a.getLsbD i).getD 64)) ∧
     gives (.smov sa sd) a ∧
     gives (.saddi imm sa sd) (BitVec.ofInt 64 ((a.toNat : Int) + imm.toInt)) ∧
     gives (.sandi imm sa sd) (a &&& BitVec.ofNat 64 imm.toNat) ∧
     gives (.sori imm sa sd) (a ||| BitVec.ofNat 64 imm.toNat) ∧
     gives (.sxori imm sa sd) (a ^^^ BitVec.ofNat 64 imm.toNat) ∧
     gives (.sshli amt sa sd) (BitVec.ofNat 64 (a.toNat * 2 ^ amt.toNat)) ∧
     gives (.sshriN amt sa sd) (BitVec.ofNat 64 (a.toNat / 2 ^ amt.toNat)) ∧
     gives (.sshriS amt sa sd) (BitVec.ofInt 64 (a.toInt / 2 ^ amt.toNat)) ∧
     gives (.srotli amt sa sd) (a.rotateLeft amt.toNat))

/-- R165: `sli` writes IMM << 16q to SD; `slk` writes IMM to bits [16q+15:16q] of SD and leaves the other bits; the words of
format SU with major 26 and each K decode to them, the rule's example among them. -/
def Obligations.WideConstantResults : Prop :=
  (∀ (s : State) (t : Team) (imm : BitVec 16) (q : BitVec 2) (sd : BitVec 6),
    s.issuer? = some t → (s.viewOf t).checkS posD sd = .ok () →
    s.Registers t (.sli imm q sd) 4 ((s.viewOf t).setS sd (BitVec.ofNat 64 (imm.toNat * 2 ^ (16 * q.toNat)))) ∧
    ∃ x : Word,
      s.Registers t (.slk imm q sd) 4 ((s.viewOf t).setS sd x) ∧
      ∀ i, i < 64 → x.getLsbD i =
        if i / 16 = q.toNat then imm.getLsbD (i % 16) else ((s.viewOf t).scalar sd).getLsbD i) ∧
  (∀ (imm : BitVec 16) (q : BitVec 2) (sd : BitVec 6) (k : Bool),
    decodeTableWord 32 (imm.toNat * 2 ^ 16 + q.toNat * 2 ^ 14 + sd.toNat * 2 ^ 8 + k.toNat * 2 ^ 7 + 26 * 2 + 1) =
      some (if k then .slk imm q sd else .sli imm q sd)) ∧
  decodeTableWord 32 0x00F00135 = some (.sli 0x00F0 0 1)

/-- R49 and R298: a scalar written under a number reads back under it; under every other number the old value is read;
no vector register, mask register or latch changes, nor the bank the number does not name. R166, major 27: the mask
instructions, each on the whole register; bits at or above the team size are cleared by every write. -/
def Obligations.ScalarFileAndMaskResults : Prop :=
  (∀ (v : View) (r : BitVec 6) (x : Word),
     (v.setS r x).scalar r = x ∧
     (∀ q, q ≠ r → (v.setS r x).scalar q = v.scalar q) ∧
     (∀ q, (v.setS r x).vreg q = v.vreg q) ∧ (∀ m, (v.setS r x).mask m = v.mask m) ∧
     (v.setS r x).latches = v.latches ∧
     (v.team.ksw = false → (v.setS r x).k = v.k) ∧
     (v.team.ksw = true → 48 ≤ r.toNat → (v.setS r x).team = v.team ∧ (v.setS r x).k[r.toNat - 48]? = some x)) ∧
  (∀ (s : State) (t : Team) (mb ma md : BitVec 3) (sa : SSrc) (sd : BitVec 6) (a : Word) (w : BitVec 7),
     s.issuer? = some t → (s.viewOf t).readS posSA sa = .ok a → (s.viewOf t).checkS posD sd = .ok () → w.toNat ≤ 32 →
     let v := s.viewOf t
     let A := v.mask ma
     let B := v.mask mb
     let mask (i : Instr) (f : Nat → Bool) : Prop :=
       ∃ x : Mask, (∀ l, x.getLsbD l = (decide (l < t.size ∧ l < 1024) && f l)) ∧
         s.Registers t i 4 { v with team := { t with m := t.m.setIfInBounds md.toNat x } }
     let scalar (i : Instr) (x : Word) : Prop := s.Registers t i 4 (v.setS sd x)
     mask (.mand mb ma md) (fun l => A.getLsbD l && B.getLsbD l) ∧
     mask (.mor mb ma md) (fun l => A.getLsbD l || B.getLsbD l) ∧
     mask (.mxor mb ma md) (fun l => A.getLsbD l != B.getLsbD l) ∧
     mask (.mandn mb ma md) (fun l => A.getLsbD l && !B.getLsbD l) ∧
     mask (.mnot ma md) (fun l => !A.getLsbD l) ∧
     mask (.mmov ma md) (fun l => A.getLsbD l) ∧
     mask (.mact md) (fun l => t.active.getLsbD l) ∧
     (w.toNat < 32 → mask (.mput w sa md) fun l =>
       if l / 32 = w.toNat then a.getLsbD (l % 32) else (v.mask md).getLsbD l) ∧
     scalar (.mcnt ma sd) (BitVec.ofNat 64 ((List.range 1024).filter fun l => A.getLsbD l).length) ∧
     scalar (.mfirst ma sd) (match (List.range 1024).find? fun l => A.getLsbD l with
       | some l => BitVec.ofNat 64 l
       | none => BitVec.allOnes 64) ∧
     (w.toNat < 32 → scalar (.mget w ma sd) ((A.extractLsb' (32 * w.toNat) 32).setWidth 64)) ∧
     ∃ x : Word, (w.toNat = 32 → scalar (.mget w ma sd) x) ∧
       ∀ k, x.getLsbD k = (decide (k < 32) && A.extractLsb' (32 * k) 32 != 0))

/-- R182 to R184: `add`, `sub`, `mul`, `div`, `min`, `max` and `copysign` of each format, lane by lane. R154 and R183:
`fma` rounds a × b + d once, d being the old destination. R185: the instructions of one floating-point source. -/
def Obligations.FloatArithmeticResults : Prop :=
  (∀ (s : State) (t : Team) (ft : FType) (vb va : VSrc) (vd : BitVec 6) (nw : Bool) (rm : BitVec 2) (x y : Src),
     let v := s.viewOf t
     let F := FloatFmt.ofFType ft
     let mode := rmodeOf rm
     s.issuer? = some t → v.readV posSA va ft.fmt = .ok x → v.readV posSB vb ft.fmt = .ok y →
     v.checkV posD vd (ft.fmt).isPair = .ok () → v.consume [x, y] = .ok () →
     let gives (i : Instr) (op : Nat → Nat → Nat) : Prop :=
       s.Computes t i 4 vd nw (.fmt ft.fmt) fun l => ft.fmt.place (op (x.bits ft.fmt l) (y.bits ft.fmt l))
     let pick (a b c d : Instr) : Instr := match ft with
       | .f32 => a
       | .f64 => b
       | .f16 => c
       | .bf16 => d
     gives (pick (.addF32 vb va vd nw rm) (.addF64 vb va vd nw rm) (.addF16 vb va vd nw rm) (.addBf16 vb va vd nw rm))
       (fun a b => F.round ((F.value a).add mode (F.value b)) mode 0) ∧
     gives (pick (.subF32 vb va vd nw rm) (.subF64 vb va vd nw rm) (.subF16 vb va vd nw rm) (.subBf16 vb va vd nw rm))
       (fun a b => F.round ((F.value a).add mode (F.value b).neg) mode 0) ∧
     gives (pick (.mulF32 vb va vd nw rm) (.mulF64 vb va vd nw rm) (.mulF16 vb va vd nw rm) (.mulBf16 vb va vd nw rm))
       (fun a b => F.round ((F.value a).mul (F.value b)) mode 0) ∧
     gives (.div vb va vd nw ft rm) (floatDiv F mode) ∧
     gives (.fmin vb va vd nw ft) (floatMinMax F false) ∧
     gives (.fmax vb va vd nw ft) (floatMinMax F true) ∧
     gives (.copysign vb va vd nw ft) (fun a b => a % 2 ^ (F.e + F.m) + b / 2 ^ (F.e + F.m) % 2 * 2 ^ (F.e + F.m))) ∧
  (∀ (s : State) (t : Team) (ft : FType) (vb va : VSrc) (vd : BitVec 6) (nw : Bool) (rm : BitVec 2) (x y d : Src),
     let v := s.viewOf t
     let F := FloatFmt.ofFType ft
     let mode := rmodeOf rm
     s.issuer? = some t → v.readV posSA va ft.fmt = .ok x → v.readV posSB vb ft.fmt = .ok y →
     v.readD vd ft.fmt = .ok d → v.consume [x, y, d] = .ok () →
     s.Computes t
       (match ft with
         | .f32 => .fmaF32 vb va vd nw rm
         | .f64 => .fmaF64 vb va vd nw rm
         | .f16 => .fmaF16 vb va vd nw rm
         | .bf16 => .fmaBf16 vb va vd nw rm) 4 vd nw (.fmt ft.fmt) fun l =>
         ft.fmt.place (F.round (((F.value (x.bits ft.fmt l)).mul (F.value (y.bits ft.fmt l))).add mode
           (F.value (d.bits ft.fmt l))) mode 0)) ∧
  (∀ (s : State) (t : Team) (ft : FType) (va : VSrc) (vd : BitVec 6) (nw : Bool) (rm : BitVec 2) (x : Src),
     let v := s.viewOf t
     let F := FloatFmt.ofFType ft
     let mode := rmodeOf rm
     let sign := 2 ^ (F.e + F.m)
     s.issuer? = some t → v.readV posSA va ft.fmt = .ok x → v.consume [x] = .ok () →
     let gives (i : Instr) (op : Nat → Nat) : Prop := v.checkV posD vd ft.fmt.isPair = .ok () →
       s.Computes t i 4 vd nw (.fmt ft.fmt) fun l => ft.fmt.place (op (x.bits ft.fmt l))
     gives (.sqrt va vd nw ft rm) (unaryBits .sqrt F mode) ∧
     gives (.rcp va vd nw ft rm) (unaryBits .rcp F mode) ∧
     gives (.rsqrt va vd nw ft rm) (unaryBits .rsqrt F mode) ∧
     gives (.exp2 va vd nw ft rm) (unaryBits .exp2 F mode) ∧
     gives (.log2 va vd nw ft rm) (unaryBits .log2 F mode) ∧
     gives (.sin va vd nw ft rm) (unaryBits .sin F mode) ∧
     gives (.cos va vd nw ft rm) (unaryBits .cos F mode) ∧
     gives (.tanh va vd nw ft rm) (unaryBits .tanh F mode) ∧
     gives (.rint va vd nw ft rm) (unaryBits .rint F mode) ∧
     gives (.fneg va vd nw ft) (fun a => if a / sign % 2 = 0 then a % sign + sign else a % sign) ∧
     gives (.fabs va vd nw ft) (fun a => a % sign) ∧
     (v.checkV posD vd false = .ok () →
       s.Computes t (.fclass va vd nw ft) 4 vd nw (.fmt .n32) fun l => floatClass F (x.bits ft.fmt l)))

/-- R186 with R52: every active lane of an integer result holds the exact result wrapped (or saturated), also where
the result is kept as a uniform or affine register. Division by zero gives all ones, its remainder the dividend. R186:
`abs`, `neg` (32 and 64 bits) and `mad`, whose addend is the old destination. -/
def Obligations.IntegerArithmeticResults : Prop :=
  (∀ (s : State) (t : Team) (it : IType) (vb va : VSrc) (vd : BitVec 6) (nw : Bool) (x y : Src),
     let v := s.viewOf t
     let f := it.fmt
     let signed := it.shape.1
     let w := it.shape.2
     s.issuer? = some t → v.readV posSA va f = .ok x → v.readV posSB vb f = .ok y →
     v.checkV posD vd (f).isPair = .ok () → v.consume [x, y] = .ok () →
     let gives (i : Instr) (op : Int → Int → Int) : Prop :=
       s.Computes t i 4 vd nw (.fmt f) fun l =>
         wrapBits w (op (intOf signed w (x.bits f l)) (intOf signed w (y.bits f l)))
     gives (.intAdd vb va vd nw it) (fun a b => a + b) ∧
     gives (.intSub vb va vd nw it) (fun a b => a - b) ∧
     gives (.intMul vb va vd nw it) (fun a b => a * b) ∧
     gives (.intMulh vb va vd nw it) (fun a b => a * b / 2 ^ w) ∧
     gives (.intMin vb va vd nw it) (fun a b => if a ≤ b then a else b) ∧
     gives (.intMax vb va vd nw it) (fun a b => if a ≤ b then b else a) ∧
     gives (.intAdds vb va vd nw it) (fun a b =>
       let least : Int := if signed then -(2 ^ (w - 1)) else 0
       let most : Int := if signed then 2 ^ (w - 1) - 1 else 2 ^ w - 1
       if a + b < least then least else if most < a + b then most else a + b) ∧
     gives (.intSubs vb va vd nw it) (fun a b =>
       let least : Int := if signed then -(2 ^ (w - 1)) else 0
       let most : Int := if signed then 2 ^ (w - 1) - 1 else 2 ^ w - 1
       if a - b < least then least else if most < a - b then most else a - b) ∧
     gives (.intShl vb va vd nw it) (fun a b => a * 2 ^ (b % w).toNat) ∧
     gives (.intShr vb va vd nw it) (fun a b => a / 2 ^ (b % w).toNat) ∧
     gives (.intDiv vb va vd nw it) (fun a b => if b = 0 then -1 else a.tdiv b) ∧
     gives (.intRem vb va vd nw it) (fun a b => if b = 0 then a else a - b * a.tdiv b)) ∧
  (∀ (s : State) (t : Team) (it : IType) (wide : Bool) (vb va : VSrc) (vd : BitVec 6) (nw : Bool) (x y d : Src),
     let v := s.viewOf t
     let f : Fmt := if wide then .s64 else .s32
     let w : Nat := if wide then 64 else 32
     s.issuer? = some t →
     (v.readV posSA va f = .ok x → v.checkV posD vd f.isPair = .ok () → v.consume [x] = .ok () →
       (s.Computes t (.intAbs va vd nw wide) 4 vd nw (.fmt f) fun l =>
         let a := intOf true w (x.bits f l)
         wrapBits w (if a < 0 then -a else a)) ∧
       s.Computes t (.intNeg va vd nw wide) 4 vd nw (.fmt f) fun l => wrapBits w (-(intOf true w (x.bits f l)))) ∧
     (v.readV posSA va it.fmt = .ok x → v.readV posSB vb it.fmt = .ok y → v.readD vd it.fmt = .ok d →
       v.consume [x, y, d] = .ok () →
       s.Computes t (.intMad vb va vd nw it) 4 vd nw (.fmt it.fmt) fun l =>
         (x.bits it.fmt l * y.bits it.fmt l + d.bits it.fmt l) % 2 ^ it.shape.2))

/-- R187 and R188: bitwise results per active lane, `popc`, `clz`, `ctz` as counts, and the immediate forms, which keep
the tag of their source. -/
def Obligations.BitResults : Prop :=
  ∀ (s : State) (t : Team) (vb va : VSrc) (vd : BitVec 6) (nw : Bool) (imm : BitVec 11) (amt : BitVec 5) (x y : Src),
    let v := s.viewOf t
    s.issuer? = some t → v.checkV posD vd false = .ok () → v.consume [x] = .ok () → v.consume [x, y] = .ok () →
    let a (l : Nat) : BitVec 32 := x.lo.read l
    let b (l : Nat) : BitVec 32 := y.lo.read l
    (v.readSingle posSA va .b32 = .ok x → v.readSingle posSB vb .b32 = .ok y →
      let gives (i : Instr) (f : Nat → BitVec 32) : Prop := s.Computes t i 4 vd nw (.fmt .b32) fun l => (f l).toNat
      gives (.bitAnd vb va vd nw) (fun l => a l &&& b l) ∧ gives (.bitOr vb va vd nw) (fun l => a l ||| b l) ∧
      gives (.bitXor vb va vd nw) (fun l => a l ^^^ b l) ∧ gives (.bitAndn vb va vd nw) (fun l => a l &&& ~~~b l) ∧
      gives (.bitRotl vb va vd nw) (fun l => (a l).rotateLeft ((b l).toNat % 32)) ∧
      gives (.bitNot va vd nw) (fun l => ~~~a l) ∧ gives (.bitBrev va vd nw) (fun l => (a l).reverse) ∧
      s.Computes t (.bitPopc va vd nw) 4 vd nw (.fmt .n32) (fun l => ((List.range 32).filter (a l).getLsbD).length) ∧
      s.Computes t (.bitClz va vd nw) 4 vd nw (.fmt .n32) (fun l => if a l = 0 then 32 else 31 - (a l).toNat.log2) ∧
      s.Computes t (.bitCtz va vd nw) 4 vd nw (.fmt .n32) fun l => ((List.range 32).find? (a l).getLsbD).getD 32) ∧
    (v.readOneOf posSA va [.s32, .n32] = .ok x →
      s.Computes t (.vaddi imm va vd nw) 4 vd nw x.tag fun l => (a l + imm.signExtend 32).toNat) ∧
    (v.readOneOf posSA va [.s32, .n32, .b32] = .ok x →
      s.Computes t (.shli amt va vd nw) 4 vd nw x.tag (fun l => (a l <<< amt.toNat).toNat) ∧
      s.Computes t (.rotli amt va vd nw) 4 vd nw x.tag fun l => ((a l).rotateLeft amt.toNat).toNat) ∧
    (v.readOneOf posSA va [.n32, .b32] = .ok x →
      s.Computes t (.shriN amt va vd nw) 4 vd nw x.tag fun l => (a l >>> amt.toNat).toNat) ∧
    (v.readOneOf posSA va [.s32] = .ok x →
      s.Computes t (.shriS amt va vd nw) 4 vd nw x.tag fun l => ((a l).sshiftRight amt.toNat).toNat)

/-- R189: the bit of an active lane becomes the truth of `a cc b`; bits of inactive lanes keep their value. -/
def Obligations.CompareWritesItsMask : Prop :=
  ∀ (s : State) (t : Team) (vb va : VSrc) (ty : CmpTy) (md : BitVec 3) (cc : CmpOp) (x y : Src),
    let v := s.viewOf t
    s.issuer? = some t → v.readV posSA va ty.fmt = .ok x → v.readV posSB vb ty.fmt = .ok y →
    v.consume [x, y] = .ok () → t.size ≤ 1024 →
    ∃ m : Mask,
      s.Registers t (.cmp vb va ty md cc) 4 { v with team := { t with m := t.m.setIfInBounds md.toNat m } } ∧
      ∀ l, l < t.size → m.getLsbD l =
        if t.active.getLsbD l then cmpLane cc ty (x.bits ty.fmt l) (y.bits ty.fmt l) else (v.mask md).getLsbD l

/-- R190 to R192: `cvt` without stochastic rounding, with it (the bits come from the old destination), and the packed
dot products. -/
def Obligations.ConversionAndDotResults : Prop :=
  ∀ (s : State) (t : Team) (df : Tag) (sat nw : Bool) (vb va : VSrc) (vd : BitVec 6) (rm : BitVec 3) (x y d : Src),
    let v := s.viewOf t
    let mode := cvtMode v df rm
    s.issuer? = some t →
    (v.fetch posSA va (fun _ => false) = .ok y → y.tag = x.tag → v.readAny posSA va = .ok x →
      cvtDisallowed x.tag df sat rm mode = false → x.tag.kind v.nf ≠ .raw →
      (mode ≠ .sr → v.checkV posD vd df.isPair = .ok () → v.consume [x] = .ok () →
        s.Computes t (.cvt df sat va vd nw rm) 4 vd nw df fun l =>
          df.place v.nf (cvtLane (x.tag.kind v.nf) (df.kind v.nf) sat mode 0 (x.val l))) ∧
      (mode = .sr → v.readD vd .n32 = .ok d → v.consume [x, d] = .ok () → df.isPair = false →
        s.Computes t (.cvt df sat va vd nw rm) 4 vd nw df fun l =>
          df.place v.nf (cvtLane (x.tag.kind v.nf) (df.kind v.nf) sat mode (d.val l % 2 ^ 16) (x.val l)))) ∧
    (v.readV posSA va .pk = .ok x → v.readV posSB vb .pk = .ok y → v.consume [x, y, d] = .ok () →
      let products (slot : Nat) (fa fb : Nat → XVal) (l : Nat) : List XVal :=
        slotProducts slot fa fb (x.lo.read l) (y.lo.read l)
      let sum (af : AccFmt) (ps : Nat → List XVal) (l : Nat) : Nat :=
        (chunkSum af (d.val l) { sat := false, ovf := false } [ps l]).1
      let byte (b : Nat) : XVal := XVal.ofInt (intOf true 8 b)
      (v.readD vd .f32 = .ok d →
        s.Computes t (.dotF32Bf16 vb va vd nw) 4 vd nw (.fmt .f32) (sum .f32 (products 16 fmtBf16.value fmtBf16.value)) ∧
        s.Computes t (.dotF32F16 vb va vd nw) 4 vd nw (.fmt .f32) (sum .f32 (products 16 fmtF16.value fmtF16.value)) ∧
        (slotWidth (narrowFmt (v.nf 0)).width = slotWidth (narrowFmt (v.nf 1)).width →
          s.Computes t (.dotF32Nf vb va vd nw) 4 vd nw (.fmt .f32)
            (sum .f32 (products (slotWidth (narrowFmt (v.nf 0)).width) (narrowFmt (v.nf 0)).value
              (narrowFmt (v.nf 1)).value)))) ∧
      (v.readD vd .s32 = .ok d →
        s.Computes t (.dotS32S8 vb va vd nw) 4 vd nw (.fmt .s32) (sum .s32 (products 8 byte byte))))

/-- R195 to R200: what each active lane receives. A lane is vacant when it is not active or beyond the team; reads of
vacant lanes deliver the fill and are noted in VACANT; the explicit fill of `xperm` is not. The counter `.xl` has room, and
the result is not left outstanding (log 7). -/
def Obligations.CrossLaneResults : Prop :=
  ∀ (s : State) (t : Team) (vb va : VSrc) (sb sk : SSrc) (vd : BitVec 6) (nw : Bool) (x y : Src) (b : Word),
    let v := s.viewOf t
    let vacant (p : Nat) : Bool := decide (t.size ≤ p) || !t.active.getLsbD p
    let fill : Elem × Elem := v.fill x.tag
    let leaf (l : Nat) (p : Int) : Option Nat := if 0 ≤ p ∧ p / 32 = l / 32 ∧ vacant p.toNat = false then some p.toNat else none
    s.issuer? = some t → s.defer = [] → t.xl < 63 →
    let moves (i : Instr) (from_ : Nat → Option Nat) (noted : Nat → Bool) : Prop :=
      ∃ (r : Res) (m : Mask), s.Registers t i 4
          (({ v with team := { t with vacant := t.vacant ||| m } } : View).put vd nw r) ∧
        (∀ l, l < t.size → t.active.getLsbD l = true → m.getLsbD l = noted l ∧
          (r.lo.read l, (r.hi.map fun h => h.read l).getD 0) = match from_ l with
            | some p => (x.lo.read p, if x.tag.isPair then x.hi.read p else 0)
            | none => (fill.1, if x.tag.isPair then fill.2 else 0))
    (v.readAny posSA va = .ok x → v.checkV posD vd x.pair = .ok () → x.pair = x.tag.isPair →
      (v.readOneOf posSB vb [.s32, .n32, .b32] = .ok y → v.consume [y] = .ok () →
        let w (l : Nat) : BitVec 32 := y.lo.read l
        moves (.xperm vb va vd nw)
          (fun l => if (w l).msb || vacant ((w l).toNat % 2 ^ 31) then none else some ((w l).toNat % 2 ^ 31))
          (fun l => !(w l).msb && vacant ((w l).toNat % 2 ^ 31)) ∧
        moves (.shfl vb va vd nw)
          (fun l => if (w l).toNat < 32 ∧ vacant (l / 32 * 32 + (w l).toNat) = false then some (l / 32 * 32 + (w l).toNat)
            else none)
          (fun l => !(decide ((w l).toNat < 32) && !vacant (l / 32 * 32 + (w l).toNat)))) ∧
      (v.readS posSB sb = .ok b →
        let up (l : Nat) : Int := (l : Int) - b.toNat
        let dn (l : Nat) : Int := (l : Int) + b.toNat
        let xr (l : Nat) : Int := ((l ^^^ b.toNat : Nat) : Int)
        moves (.shflXor sb va vd nw) (fun l => leaf l (xr l)) (fun l => (leaf l (xr l)).isNone) ∧
        moves (.shflUp sb va vd nw) (fun l => leaf l (up l)) (fun l => (leaf l (up l)).isNone) ∧
        moves (.shflDn sb va vd nw) (fun l => leaf l (dn l)) (fun l => (leaf l (dn l)).isNone))) ∧
    (v.readSingle posSA va .s32 = .ok x → v.readS posSB sb = .ok b → v.checkV posD vd false = .ok () →
      v.consume [x] = .ok () →
      let group (l : Nat) : List Nat := (List.range (2 ^ b.toNat)).map fun j => l / 2 ^ b.toNat * 2 ^ b.toNat + j
      let votes (i : Instr) (f : Nat → Nat) : Prop :=
        ∃ (r : Res) (m : Mask), s.Registers t i 4
            (({ v with team := { t with vacant := t.vacant ||| m } } : View).put vd nw r) ∧ r.tagged (.fmt .n32) ∧
          ∀ l, l < t.size → t.active.getLsbD l = true →
            m.getLsbD l = ((group l).any vacant) ∧ (r.lo.read l).toNat = f l % 2 ^ 32
      let on (l : Nat) : List Nat := (group l).filter fun p => !vacant p && x.lo.read p != 0
      (b.toNat ≤ 10 →
        votes (.voteAny sb va vd nw) (fun l => if (on l).isEmpty then 0 else 1) ∧
        votes (.voteAll sb va vd nw) (fun l => if (on l).length = 2 ^ b.toNat then 1 else 0) ∧
        votes (.voteEq sb va vd nw) (fun l =>
          if (group l).all fun p => !vacant p && x.lo.read p == x.lo.read ((group l).headD 0) then 1 else 0)) ∧
      (b.toNat ≤ 5 → votes (.ballot sb va vd nw) fun l =>
        ((on l).map fun p => 2 ^ (p - l / 2 ^ b.toNat * 2 ^ b.toNat)).sum)) ∧
    (v.readOneOf posSA va [.f32, .f16, .bf16, .n32] = .ok x → v.readS posSB sb = .ok b →
      v.checkV posD vd false = .ok () → v.consume [x] = .ok () →
      s.Computes t (.csamp sb va vd nw) 4 vd nw (.fmt .n32) fun _ =>
        (cSample (t.lanes.map fun l => (l, v.weight x l)) (b.setWidth 32)).toNat) ∧
    (v.readS posSA sk = .ok b → v.readOneOf posSB va [.n32, .s32, .b32] = .ok x → v.checkV posD vd false = .ok () →
      v.consume [x] = .ok () →
      s.Computes t (.rngN32 va sk vd nw) 4 vd nw (.fmt .n32) fun l => (rng b (x.lo.read l)).toNat)

/-- R193, R194 and R57: moves keep shape, tag and poison; `lane` is affine (0, 1); `affine` takes base and stride from
scalars; `bcast` is uniform; `sel` tests the old destination; `vmovi.get` reads the register each lane names and
`vmovi.put` writes it; `omov` takes uniform and affine results alone. -/
def Obligations.MoveResults : Prop :=
  ∀ (s : State) (t : Team) (tag : Tag) (vb va : VSrc) (sb sa : SSrc) (vd : BitVec 6) (od : BitVec 3) (nw : Bool)
      (x y : Src) (a b : Word),
    let v := s.viewOf t
    let one (r : VReg) : Res := { lo := r, hi := none }
    let writes (i : Instr) (r : Res) : Prop := s.Registers t i 4 (v.put vd nw r)
    s.issuer? = some t →
    (v.readAny posSA va = .ok x →
      (v.checkV posD vd x.pair = .ok () →
        writes (.mov va vd nw) { lo := x.lo, hi := if x.pair then some x.hi else none }) ∧
      (x.pair = true → tag.isPair = true → v.checkV posD vd true = .ok () →
        writes (.movtag tag va vd nw) { lo := { x.lo with tag := tag }, hi := some { x.hi with tag := tag } }) ∧
      (x.pair = false → tag.isPair = false → v.checkV posD vd false = .ok () →
        s.Computes t (.movtag tag va vd nw) 4 vd nw tag fun l => (tag.place v.nf ((x.lo.read l).toNat % 2 ^ tag.bits v.nf))) ∧
      (v.readS posSB sb = .ok b → v.checkV posD vd x.pair = .ok () → x.pair = x.tag.isPair →
        let vacant : Bool := decide (t.size ≤ b.toNat) || !t.active.getLsbD b.toNat
        s.Registers t (.bcast sb va vd nw) 4
          (({ v with team := { t with vacant := if vacant then t.vacant ||| t.active else t.vacant } } : View).put vd nw
            (Res.uniformOf x.tag (if vacant then v.fill x.tag else (x.lo.read b.toNat, x.hi.read b.toNat))
              (!vacant && x.poison.getLsbD b.toNat)))) ∧
      (x.pair = false → x.lo.shape.affine?.isSome = true → t.act &&& ~~~t.active = 0 →
        let w : View := if nw then v else { v with team := { t with o := t.o.setIfInBounds od.toNat x.lo } }
        s.Registers t (.omov va od nw) 4 (w.latch (.held { lo := x.lo, hi := none })))) ∧
    (v.checkV posD vd false = .ok () →
      writes (.lane vd nw) (one { tag := .fmt .s32, shape := .affine 0 1, poison := 0 }) ∧
      (v.readS posSA sa = .ok a → v.readS posSB sb = .ok b →
        writes (.affine sb sa vd nw)
          (one { tag := .fmt .s32, shape := .affine (a.extractLsb' 0 32) (b.extractLsb' 0 32), poison := 0 }))) ∧
    (v.selTag va vb = .ok tag → v.readAs posSA va tag = .ok x → v.readAs posSB vb tag = .ok y →
      v.checkV posD vd tag.isPair = .ok () → (v.vreg vd).tag.isPair = false → (v.vreg vd).poison &&& t.active = 0 →
      ∃ r : Res, writes (.sel vb va vd nw) r ∧ ∀ l, l < t.size → t.active.getLsbD l = true →
        (r.lo.read l, (r.hi.map fun h => h.read l).getD 0) =
          let z := if (v.vreg vd).read l == 0 then y else x
          (z.lo.read l, if tag.isPair then z.hi.read l else 0)) ∧
    (v.readOneOf posSA va [.s32, .n32] = .ok x → v.consume [x] = .ok () → t.pend = [] → t.size ≤ 1024 →
      let names (l : Nat) : Nat := (x.lo.read l).toNat
      let at_ (l : Nat) : VReg := t.v.getD (names l) VReg.zero
      (tag.isPair = false → v.checkV posD vd false = .ok () →
        (∀ l, l < t.size → t.active.getLsbD l = true → names l < t.vcnt ∧ (at_ l).tag = tag) →
        s.Computes t (.vmoviGet tag va vd nw) 4 vd nw tag fun l => ((at_ l).read l).toNat) ∧
      (v.readSingle posSB vb .s32 = .ok y → t.vcnt ≤ 64 →
        (∀ l, l < t.size → t.active.getLsbD l = true → names l < t.vcnt ∧ (at_ l).tag = y.tag) →
        ∃ w : View, s.Registers t (.vmoviPut vb va) 4 w ∧ { w.team with v := t.v } = t ∧ w.k = v.k ∧ w.kv = v.kv ∧
          w.latches = v.latches ∧
          ∀ n l, n < 64 → l < t.size → (w.team.v.getD n VReg.zero).read l =
            if t.active.getLsbD l && names l == n then y.lo.read l else (t.v.getD n VReg.zero).read l))

/-- R152: the 16-bit forms, with SA = VD; they retire two bytes further on. -/
def Obligations.ShortFormResults : Prop :=
  ∀ (s : State) (t : Team) (ss : BitVec 5) (vd : BitVec 6) (x y : Src),
    let v := s.viewOf t
    let sb := shortSrc ss
    s.issuer? = some t →
    (v.readAny posSA sb = .ok y → v.checkV posD vd y.pair = .ok () →
      s.Registers t (.movShort ss vd) 2 (v.put vd false { lo := y.lo, hi := if y.pair then some y.hi else none })) ∧
    (v.consume [x, y] = .ok () → v.checkV posD vd false = .ok () →
      let reads (f : Fmt) : Prop := v.readV posSA (.v vd) f = .ok x ∧ v.readV posSB sb f = .ok y
      let gives (i : Instr) (f : Fmt) (op : BitVec 32 → BitVec 32 → BitVec 32) : Prop :=
        s.Computes t i 2 vd false (.fmt f) fun l => (op (x.lo.read l) (y.lo.read l)).toNat
      let float (i : Instr) (op : Nat → Nat → Nat) : Prop :=
        s.Computes t i 2 vd false (.fmt .f32) fun l => op (x.bits .f32 l) (y.bits .f32 l)
      (reads .f32 →
        float (.addF32Short ss vd) (fun a b => fmtF32.round ((fmtF32.value a).add .rne (fmtF32.value b)) .rne 0) ∧
        float (.subF32Short ss vd) (fun a b => fmtF32.round ((fmtF32.value a).add .rne (fmtF32.value b).neg) .rne 0) ∧
        float (.mulF32Short ss vd) (fun a b => fmtF32.round ((fmtF32.value a).mul (fmtF32.value b)) .rne 0) ∧
        float (.minF32Short ss vd) (floatMinMax fmtF32 false) ∧ float (.maxF32Short ss vd) (floatMinMax fmtF32 true)) ∧
      (reads .s32 →
        gives (.addS32Short ss vd) .s32 (fun a b => a + b) ∧ gives (.subS32Short ss vd) .s32 (fun a b => a - b) ∧
        gives (.mulS32Short ss vd) .s32 (fun a b => a * b)) ∧
      (reads .n32 →
        gives (.addN32Short ss vd) .n32 (fun a b => a + b) ∧ gives (.subN32Short ss vd) .n32 (fun a b => a - b) ∧
        gives (.shlN32Short ss vd) .n32 (fun a b => a <<< (b.toNat % 32)) ∧
        gives (.shrN32Short ss vd) .n32 (fun a b => a >>> (b.toNat % 32))) ∧
      (v.readSingle posSA (.v vd) .b32 = .ok x ∧ v.readSingle posSB sb .b32 = .ok y →
        gives (.andB32Short ss vd) .b32 (fun a b => a &&& b) ∧ gives (.orB32Short ss vd) .b32 (fun a b => a ||| b) ∧
        gives (.xorB32Short ss vd) .b32 (fun a b => a ^^^ b)))

/-- R53 and R58: a result written to a vector register of the team. -/
def Obligations.VectorWriteRules : Prop :=
  ∀ (v : View) (vd : BitVec 6) (nw : Bool) (r : Res) (l : Nat),
    v.team.ksw = false → r.hi = none → v.team.size ≤ 1024 → l < v.team.size →
    let old := v.vreg vd
    let w := v.put vd nw r
    let kept : VReg := w.latches.head?.elim VReg.zero fun x =>
      match x with
      | .held h => h.lo
      | .due _ => VReg.zero
    let replaces : Bool := v.team.act &&& ~~~v.team.active == 0 && !r.lo.shape.isGeneral
    w.latches = (LatchSlot.held { lo := kept, hi := none } :: v.latches).take 4 ∧
    (replaces = true → kept = r.lo) ∧
    (nw = true → w.team = v.team) ∧
    (nw = false → w.vreg vd = kept ∧ ∀ q, q ≠ vd → w.vreg q = v.vreg q) ∧
    kept.tag = r.lo.tag ∧
    (v.team.active.getLsbD l = true → kept.read l = r.lo.read l) ∧
    (replaces = false → v.team.active.getLsbD l = false → kept.read l = old.read l) ∧
    w.k = v.k ∧ w.kv = v.kv ∧ { w.team with v := v.team.v } = v.team

/-- R168: `bz`, `bnz`, `bltz` and `bgez` read SA as a 64-bit value and move the issuing path alone, to PC + 2 × sext(OFF)
or to PC + 4; the words of format BS with major 28 and each CC decode to them, the rule's example among them. -/
def Obligations.BranchesGoWhereTheirConditionSays : Prop :=
  (∀ (s : State) (t : Team) (off : BitVec 16) (sa : SSrc) (a : Word),
    s.issuer? = some t → (s.viewOf t).readS posSA sa = .ok a →
    let goes (i : Instr) (taken : Bool) : Prop := s.TeamStep t i (t.goesTo
      (if taken then BitVec.ofInt 64 ((t.arm.pc.toNat : Int) + 2 * off.toInt) else t.arm.pc + 4) s.tick.toNat)
    goes (.bz off sa) (decide (a = 0)) ∧ goes (.bnz off sa) (decide (a ≠ 0)) ∧
    goes (.bltz off sa) (decide (a.toInt < 0)) ∧ goes (.bgez off sa) (decide (0 ≤ a.toInt))) ∧
  (∀ (off : BitVec 16) (sa : SSrc) (cc : Fin 4),
    decodeTableWord 32 (off.toNat * 2 ^ 16 + cc.val * 2 ^ 14 + sa.bits.toNat * 2 ^ 7 + 28 * 2 + 1) =
      some (match cc with
        | 0 => .bz off sa
        | 1 => .bnz off sa
        | 2 => .bltz off sa
        | 3 => .bgez off sa)) ∧
  decodeTableWord 32 0xFFFC42B9 = some (.bnz (-4) (.s 5))

/-- R169 and R170: `jmp`, `call`, `ret`, `jr` and `callr`; none of the three uses of the link register is checked
against the count. R174 to R176, where reading the list and asking for the targets' pages leaves the state as it is.
-/
def Obligations.JumpsLinksAndBranchTables : Prop :=
  (∀ (s : State) (t : Team) (off : BitVec 24) (sa : SSrc) (a : Word),
     s.issuer? = some t → (s.viewOf t).readS posSA sa = .ok a →
     let near : Word := BitVec.ofInt 64 ((t.arm.pc.toNat : Int) + 2 * off.toInt)
     let link : Word := if t.ksw then (s.core t.core).k.getD 15 0 else t.s.getD 63 0
     let linked : View := if t.ksw then { s.viewOf t with k := (s.core t.core).k.set 15 (t.arm.pc + 4) }
       else { s.viewOf t with team := { t with s := t.s.set 63 (t.arm.pc + 4) } }
     let goes (i : Instr) (pc : Word) : Prop := s.TeamStep t i (t.goesTo pc s.tick.toNat)
     let links (i : Instr) (pc : Word) : Prop := exec i s = .next ((s.putView linked).retire t 4 (.goto pc))
     goes (.jmp off) near ∧ links (.call off) near ∧
     (link.getLsbD 0 = false → goes .ret link) ∧ (link.getLsbD 0 = true → s.Traps t .ret 0x086 link) ∧
     (a.getLsbD 0 = false → goes (.jr sa) a ∧ links (.callr sa) a) ∧
     (a.getLsbD 0 = true → s.Traps t (.jr sa) 0x086 a ∧ s.Traps t (.callr sa) 0x086 a)) ∧
  (∀ (s : State) (t : Team) (va : VSrc) (x : Src) (targets : List Word),
     let v := s.viewOf t
     let off (l : Nat) : Word := (x.lo.read l).signExtend 64
     let tick := s.tick.toNat
     s.issuer? = some t → v.readV posSA va .s32 = .ok x → v.consume [x] = .ok () →
     (M.targets t s = .ok none s → s.Traps t (.brtab va) 0x085 0) ∧
     (M.targets t s = .ok (some targets) s →
       (∀ l ∈ t.lanes, (off l).getLsbD 0 = false ∧ off l ∈ targets ∧ M.mapped t (t.arm.pc + off l) s = .ok true s) →
       ∀ l₀ ls, t.lanes = l₀ :: ls →
         ((∀ l ∈ ls, off l = off l₀) → s.TeamStep t (.brtab va) (t.goesTo (t.arm.pc + off l₀) tick)) ∧
         ((∃ l ∈ ls, off l ≠ off l₀) → t.handling = false →
           t.stack.length + ((t.lanes.map off).eraseDups.length - 1) ≤ 32 →
           let mine := maskOf (t.lanes.filter fun l => off l == off l₀)
           s.TeamStep t (.brtab va) (({ t with
             stack :=
               { join := t.arm.pc + 8 + BitVec.ofNat 64 (4 * targets.length)
                 arm0 := Arm.start (t.arm.pc + off l₀) mine t.quant
                 arm1 := Arm.start t.arm.pc (t.active &&& ~~~mine) t.quant
                 sel := false, table := true } :: t.stack
             starveAt := if t.stack.length ≤ 1 then tick else t.starveAt } : Team).countRetired (!t.isSystem) tick))))

/-- R171 with R36 and R173. -/
def Obligations.DivergenceSplitsThePath : Prop :=
  ∀ (s : State) (t : Team) (off : BitVec 12) (joff : BitVec 10) (ms : BitVec 3),
    s.issuer? = some t →
    let taken := t.active &&& (s.viewOf t).mask ms
    let fall := t.active &&& ~~~(s.viewOf t).mask ms
    let target : Word := BitVec.ofInt 64 ((t.arm.pc.toNat : Int) + 2 * off.toInt)
    let i : Instr := .bdiv off joff ms
    let first : Nat := ((List.range 1024).find? t.active.getLsbD).getD 0
    let hot := Arm.start target taken t.quant
    let cold := Arm.start (t.arm.pc + 4) fall t.quant
    (fall = 0 → s.TeamStep t i (t.goesTo target s.tick.toNat)) ∧
    (fall ≠ 0 → taken = 0 → s.TeamStep t i (t.goesTo (t.arm.pc + 4) s.tick.toNat)) ∧
    (fall ≠ 0 → taken ≠ 0 → t.handling = false → 32 ≤ t.stack.length → s.Traps t i 0x080 32) ∧
    (fall ≠ 0 → taken ≠ 0 → t.handling = true → s.Traps t i 0x08C 0) ∧
    (fall ≠ 0 → taken ≠ 0 → t.handling = false → t.stack.length < 32 →
      s.TeamStep t i (({ t with
        stack :=
          { join := BitVec.ofNat 64 (t.arm.pc.toNat + 2 * joff.toNat)
            arm0 := if taken.getLsbD first then hot else cold
            arm1 := if taken.getLsbD first then cold else hot
            sel := false, table := false } :: t.stack
        starveAt := if t.stack.length ≤ 1 then s.tick.toNat else t.starveAt } : Team).countRetired (!t.isSystem)
          s.tick.toNat))

/-- R37, R38 and R172, at levels 0 and 1, for an entry that is the only one or whose other arm still runs. -/
def Obligations.ReconvergenceAndArmSwitches : Prop :=
  ∀ (s : State) (t : Team),
    s.issuer? = some t →
    let next := t.goesTo (t.arm.pc + 4) s.tick.toNat
    let counted (u : Team) : Team := u.countRetired (!t.isSystem) s.tick.toNat
    (t.handling = true ∨ t.stack = [] ∨ (∃ e es, t.stack = e :: es ∧ e.join ≠ t.arm.pc) → s.TeamStep t .rcv next) ∧
    (t.handling = true ∨ t.stack = [] → s.TeamStep t .pause next) ∧
    ∀ e es, t.stack = e :: es → t.handling = false → s.levelOf t < 2 →
      let turned (here : Arm) : Entry :=
        (({ e.setRunning here with sel := !e.sel } : Entry).setRunning { e.other with quantum := t.quant })
      let here (pc : Word) (arrived : Bool) : Arm :=
        { e.running with pc := pc, arrived := arrived, wait := none, prog := .none }
      (e.other.isArrived = false →
        s.TeamStep t .pause (counted { t with stack := turned (here (t.arm.pc + 4) e.running.arrived) :: es })) ∧
      (e.join = t.arm.pc → e.other.isArrived = false →
        s.TeamStep t .rcv (counted { t with stack := turned (here t.arm.pc true) :: es })) ∧
      (e.join = t.arm.pc → e.other.isArrived = true → es = [] →
        s.TeamStep t .rcv (counted { t with
          stack := [], starveAt := s.tick.toNat
          path := { t.path with
            pc := e.join + 4, mask := e.arm0.mask ||| e.arm1.mask, arrived := false, wait := none, prog := .none } }))

/-- R177, R179 and R159. R180 and R181. The key words of a launched team are those of R19. -/
def Obligations.ExitsWaitsHintsAndIdentity : Prop :=
  (∀ (s : State) (t : Team) (c : BitVec 2) (n : BitVec 6) (hk : BitVec 5) (p : BitVec 20),
     s.issuer? = some t →
     let next := t.goesTo (t.arm.pc + 4) s.tick.toNat
     let waiting : Nat := (t.arms.filter fun a => a.wait == some .fullEmpty).length
     let counter : Nat := if c = 0 then t.ld + waiting else if c = 1 then t.ap else if c = 2 then t.en else t.xl
     (counter ≤ n.toNat → s.TeamStep t (.wcnt c n) next) ∧
     (n.toNat < counter → exec (.wcnt c n) s = .next (s.setWait t .counter)) ∧
     s.TeamStep t .nop next ∧ s.TeamStep t (.targetEntry p) next ∧ s.TeamStep t (.targetListHeader p) next ∧
     s.TeamStep t (.hint hk p) next ∧
     (t.ld + waiting = 0 → t.ap = 0 → t.spawned = false →
       let gone := if t.handling then t.act else t.active
       t.act &&& ~~~gone ≠ 0 →
       ∃ s' u, exec .exit s = .next s' ∧ s'.team? t.id = some u ∧ u.act = t.act &&& ~~~gone ∧ u.v = t.v ∧ u.s = t.s ∧
         (∀ id, id ≠ t.id → s'.team? id = s.team? id) ∧ { s' with teams := s.teams } = s)) ∧
  (∀ (s : State) (t : Team) (g : Gang) (f : Family) (sd : BitVec 6),
     s.issuer? = some t → s.gangOf? t = some g → s.familyOf? t = some f →
     let v := s.viewOf t
     let gives (i : Instr) (x : Word) : Prop := s.Registers t i 4 (v.setS sd x)
     (v.checkS posD sd = .ok () →
       gives (.rdclk true sd) t.retired ∧
       gives (.rdclk false sd) (if g.level.toNat < 2 then s.tick else t.retired) ∧
       gives (.rdid 0 sd) (BitVec.ofNat 64 (t.key.toNat / 2 ^ 64)) ∧ gives (.rdid 1 sd) (BitVec.ofNat 64 t.key.toNat) ∧
       gives (.rdid 2 sd) (BitVec.ofNat 64 g.logical.toNat) ∧ gives (.rdid 3 sd) (BitVec.ofNat 64 t.size) ∧
       gives (.rdid 4 sd) (BitVec.ofNat 64 (if g.level.toNat < 2 then t.core else g.vcore)) ∧
       gives (.rdid 5 sd) (BitVec.ofNat 64 s.dev.toNat) ∧
       gives (.rdid 6 sd) (BitVec.ofNat 64 (g.level.toNat + if g.checked then 4 else 0)) ∧
       gives (.rdid 7 sd) (BitVec.ofNat 64 g.tenant.toNat) ∧ gives (.rdid 12 sd) (BitVec.ofNat 64 t.core) ∧
       gives (.rdid 13 sd) (BitVec.ofNat 64 f.partBase)) ∧
     (v.checkV posD sd false = .ok () →
       (t.spawned = true ∨ ∃ gang team, ∀ l, l < t.size → t.laneKey l = launchedKey gang team l ∧ team < 64) →
       t.size ≤ 1024 → 0 < t.size →
       ∀ i : Nat, i < 4 → s.Computes t (.rdid (BitVec.ofNat 4 (8 + i)) sd) 4 sd false (.fmt .n32) fun l =>
         (t.laneKey l).toNat / 2 ^ (32 * i)))

/-- R266 to R269. R268: keys and values of a merge of two ascending registers. -/
def Obligations.StreamInstructions : Prop :=
  (∀ (s : State) (t : Team) (g : Gang) (f : Family) (s32 : Bool) (qa qb qd : BitVec 3) (sa : SSrc) (sd vd : BitVec 6) (a : Word),
     s.issuer? = some t → s.gangOf? t = some g → s.familyOf? t = some f →
     let v := s.viewOf t
     let q (k : BitVec 3) : Stream := t.q.getD k.toNat Stream.empty
     let becomes (i : Instr) (x : Stream) : Prop :=
       x.units ≤ s.unitsFree f + (q qd).units →
       s.TeamStep t i ({ t with q := t.q.setIfInBounds qd.toNat x }.goesTo (t.arm.pc + 4) s.tick.toNat)
     (v.readS posSA sa = .ok a →
       let off := a.toNat % 2 ^ 22
       let n := a.toNat / 2 ^ 32 % 2 ^ 13
       let word (k : Nat) : BitVec 32 := BitVec.ofNat 32 (natOfBytes (s.scratchRead t.core (f.partBase + off + k) 4))
       let pairs := (List.range n).map fun i => (word (8 * i), word (8 * i + 4))
       (a.toNat / 2 ^ 22 % 2 ^ 10 = 0 → a.toNat / 2 ^ 45 = 0 → off % 8 = 0 → off + 8 * n ≤ f.partSize → n ≤ 4096 →
         (∀ i j, i < j → j < n → (word (8 * i)).toNat < (word (8 * j)).toNat) →
         becomes (.sqld s32 qd sa) { s32 := s32, ovf := false, pairs := pairs }) ∧
       (a.toNat / 2 ^ 22 = 0 → off % 8 = 0 → off + 8 * (q qa).pairs.length ≤ f.partSize →
         (∀ p ∈ (s.core t.core).passes, p.team ≠ t.id) → t.pend = [] → s.Canonical →
         ∃ w, s.Effect t (.sqst qa sa) w ∧ { w with cores := s.cores } = s ∧
           (∀ n, { w.core n with scratch := (s.core n).scratch } = s.core n) ∧
           (∀ n k, (n ≠ t.core ∨ k < f.partBase + off ∨ f.partBase + off + 8 * (q qa).pairs.length ≤ k) →
             Memory.read (w.core n).scratch k = Memory.read (s.core n).scratch k) ∧
           ∀ (k : Nat) (p : BitVec 32 × BitVec 32), (q qa).pairs[k]? = some p →
             natOfBytes (w.scratchRead t.core (f.partBase + off + 8 * k) 8) = p.1.toNat + 2 ^ 32 * p.2.toNat) ∧
       (v.checkV posD vd false = .ok () → v.checkV posD (vd + 1) false = .ok () → vd.toNat < 63 →
         let pair (l : Nat) : BitVec 32 × BitVec 32 := (q qa).pairs.getD (a.toNat + l) (0xFFFFFFFF, 0)
         ∃ ks vs : Res, s.Registers t (.sqext qa sa vd) 4 ((v.put vd false ks).put (vd + 1) false vs) ∧
           ks.tagged (.fmt .n32) ∧ vs.tagged (.fmt (if (q qa).s32 then .s32 else .f32)) ∧ ks.hi = none ∧ vs.hi = none ∧
           ∀ l, l < t.size → t.active.getLsbD l = true → ks.lo.read l = (pair l).1 ∧ vs.lo.read l = (pair l).2)) ∧
     (v.checkS posD sd = .ok () →
       s.Registers t (.sqcnt qa sd) 4
         (v.setS sd (BitVec.ofNat 64 ((q qa).pairs.length + if (q qa).ovf then 2 ^ 63 else 0)))) ∧
     ((q qa).s32 = (q qb).s32 →
       let merged (op : StreamOp) : Stream :=
         let ps := mergePairs op (q qa).s32 ((q qa).pairs.length + (q qb).pairs.length + 1) (q qa).pairs (q qb).pairs
         { s32 := (q qa).s32, ovf := decide (4096 < ps.length) || (q qa).ovf || (q qb).ovf, pairs := ps.take 4096 }
       becomes (.sqint qa qd qb) (merged .int) ∧ becomes (.squni qa qd qb) (merged .uni) ∧
       becomes (.sqsub qa qd qb) (merged .sub) ∧ becomes (.sqmadd qa qd qb) (merged .madd))) ∧
  (∀ (op : StreamOp) (s32 : Bool) (xs ys : List (BitVec 32 × BitVec 32)) (k v : BitVec 32),
     (xs.map fun p => p.1.toNat).Pairwise (· < ·) → (ys.map fun p => p.1.toNat).Pairwise (· < ·) →
     let zs := mergePairs op s32 (xs.length + ys.length + 1) xs ys
     let left := xs.lookup k
     let right := ys.lookup k
     (zs.map fun p => p.1.toNat).Pairwise (· < ·) ∧
     ((k, v) ∈ zs ↔ match left, right with
       | some a, some b => (match op with
         | .int => v = if s32 then a * b
             else BitVec.ofNat 32 (fmtF32.round ((fmtF32.value a.toNat).mul (fmtF32.value b.toNat)) .rne 0)
         | .uni => v = a
         | .sub => False
         | .madd => v = if s32 then a + b
             else BitVec.ofNat 32 (fmtF32.round ((fmtF32.value a.toNat).add .rne (fmtF32.value b.toNat)) .rne 0))
       | some a, none => op ≠ .int ∧ v = a
       | none, some b => (op = .uni ∨ op = .madd) ∧ v = b
       | none, none => False))

/-- R203 and R205, with nothing outstanding before them and nothing left outstanding by them (log 7). -/
def Obligations.ScratchpadAccesses : Prop :=
  ∀ (s : State) (t : Team) (fam : Family) (base : BitVec 4) (ix : VSrc) (vd : BitVec 6) (f : Fmt) (off : BitVec 4)
      (b : Word) (x d : Src),
    let v := s.viewOf t
    let addr (l : Nat) : Nat := (laneAddress b x off f l).toNat
    let at_ (l : Nat) : Nat := fam.partBase + addr l
    s.issuer? = some t → t.pend = [] → s.defer = [] → s.pendPubs = [] → t.counter 0 < 63 →
    s.familyOf? t = some fam → v.readBase base = .ok b → v.readOneOf posIX ix [.s32, .n32] = .ok x →
    v.consume [x] = .ok () → (∀ l ∈ t.lanes, addr l + f.bytes ≤ fam.partSize) →
    (v.checkV posD vd f.isPair = .ok () →
      s.Computes t (.sld base ix vd f off) 4 vd false (.fmt f) fun l =>
        f.place (natOfBytes (s.scratchRead t.core (at_ l) f.bytes))) ∧
    (v.readD vd f = .ok d → (∀ l ∈ t.lanes, d.isPoisoned l = false) → (∀ p ∈ (s.core t.core).passes, p.team ≠ t.id) →
      s.Canonical →
      ∃ w, s.Effect t (.sst base ix vd f off) w ∧ { w with cores := s.cores } = s ∧
        (∀ n, { w.core n with scratch := (s.core n).scratch } = s.core n) ∧
        (∀ n k, (n ≠ t.core ∨ ∀ l ∈ t.lanes, k < at_ l ∨ at_ l + f.bytes ≤ k) →
          Memory.read (w.core n).scratch k = Memory.read (s.core n).scratch k) ∧
        ∀ l ∈ t.lanes, ∀ i, i < f.bytes →
          (∀ l' ∈ t.lanes, l < l' → at_ l + i < at_ l' ∨ at_ l' + f.bytes ≤ at_ l + i) →
          Memory.read (w.core t.core).scratch (at_ l + i) = (bytesOf f.bytes (d.val l)).getD i 0)

/-- R203, with nothing outstanding before it, nothing left outstanding by it (log 7), and no byte it reads that waits for
a publication or that another key holds (R108, R114). -/
def Obligations.GlobalLoads : Prop :=
  ∀ (s w : State) (t : Team) (base : BitVec 4) (ix : VSrc) (vd : BitVec 6) (f : Fmt) (off : BitVec 4) (b : Word) (x : Src)
      (place : Nat → List (Nat × Nat)),
    let v := s.viewOf t
    s.issuer? = some t → s.Undelayed t → t.counter 0 < 63 → v.readBase base = .ok b →
    v.readOneOf posIX ix [.s32, .n32] = .ok x → v.checkV posD vd f.isPair = .ok () → v.consume [x] = .ok () →
    s.Reaches t .load f.bytes (t.lanes.map fun l => (l, laneAddress b x off f l)) place w →
    (∀ l ∈ t.lanes, ∀ p ∈ place l, (w.coreRead t.core p.1 p.2).2.2 = w) →
    ∃ r : Res, s.Effect t (.ld base ix vd f off) (w.putView ((w.viewOf t).put vd false r)) ∧ r.tagged (.fmt f) ∧
      r.hi.isSome = f.isPair ∧
      ∀ l ∈ t.lanes,
        r.val l = f.place (natOfBytes ((place l).flatMap fun p => (w.coreRead t.core p.1 p.2).1)) %
          2 ^ (if f.isPair then 64 else 32) ∧
        r.lo.poison.getLsbD l = (place l).any fun p => (w.coreRead t.core p.1 p.2).2.1

/-- R204 and R208, with R103, R110 and R388. -/
def Obligations.StoresAndReductionsAppend : Prop :=
  ∀ (s w : State) (t : Team) (base : BitVec 4) (ix : VSrc) (vd : BitVec 6) (f : Fmt) (off : BitVec 4) (b : Word)
      (x d : Src) (place : Nat → List (Nat × Nat)),
    let v := s.viewOf t
    let appended (es : List LogEntry) : State := es.foldl (fun s e => s.append t e) w
    let buffered (es : List LogEntry) : State := es.foldl (fun s e => s.buffer t e) w
    s.issuer? = some t → s.Undelayed t → t.ap < 63 → v.readBase base = .ok b → v.readOneOf posIX ix [.s32, .n32] = .ok x →
    v.readD vd f = .ok d → v.consume [x] = .ok () →
    (s.Reaches t .store f.bytes (t.lanes.map fun l => (l, laneAddress b x off f l)) place w →
      let es := t.lanes.flatMap fun l => partEntries (d.isPoisoned l) (place l) (bytesOf f.bytes (d.val l))
      es.length ≤ w.appendRoom t.core → (appended es).unpublishedOf t < 1062912 →
      s.Effect t (.st base ix vd f off) (appended es) ∧ (appended es).mem = w.mem ∧ (appended es).poison = w.poison) ∧
    (s.Reaches t .reduction f.bytes (t.lanes.map fun l => (l, laneAddress b x 0 f l)) place w →
      (∀ l ∈ t.lanes, (laneAddress b x 0 f l).toNat % f.bytes = 0) →
      let es (op : BitVec 4) : List LogEntry := t.lanes.filterMap fun l => (place l).head?.map fun p =>
        LogEntry.reduceAt p.1 op f (d.val l % 2 ^ f.bits) (d.isPoisoned l) (t.laneKey l) t.order
          (decide (1 ≤ s.levelOf t))
      let adds (i : Instr) (op : BitVec 4) : Prop :=
        (s.levelOf t = 0 → (es op).length ≤ w.appendRoom t.core → (appended (es op)).unpublishedOf t < 1062912 →
          s.Effect t i ((appended (es op)).modTeam t.id fun u => { u with order := u.order + 1 }) ∧
          (appended (es op)).mem = w.mem) ∧
        (1 ≤ s.levelOf t → (es op).length ≤ w.bufferRoom t.core →
          (buffered (es op)).unpublishedOf t < 1062912 →
          s.Effect t i ((buffered (es op)).modTeam t.id fun u => { u with order := u.order + 1 }) ∧
          (buffered (es op)).mem = w.mem)
      adds (.redAdd base ix vd f) 0 ∧ adds (.redMin base ix vd f) 1 ∧ adds (.redMax base ix vd f) 2 ∧
      adds (.redAnd base ix vd f) 3 ∧ adds (.redOr base ix vd f) 4 ∧ adds (.redXor base ix vd f) 5)

/-- R103, R105, R109 and R394, for the bytes of one granule, with no published entry waiting; the keys are log 73.
R104, R106, R108 and R109, the second part for a log of one entry. -/
def Obligations.StoresReachTheirHome : Prop :=
  (∀ (s : State) (core key : Nat) (bs : List Byte) (bad : Bool) (tenant : BitVec 8),
     0 < bs.length → key % 32 + bs.length ≤ 32 → key / 2 ^ 47 < 1024 →
     (∀ c ∈ s.cores, ∀ e ∈ c.log, e.under = none) →
     let e : LogEntry := { LogEntry.plainAt key bs bad with tenant := tenant }
     let w := s.appendEntry core e
     (w.coreRead core key bs.length).1 = bs ∧ (w.coreRead core key bs.length).2.1 = bad ∧
     (∀ other k n, other ≠ core → (w.coreRead other k n).1 = (s.coreRead other k n).1) ∧
     w.mem = s.mem ∧ w.poison = s.poison ∧
     (s.staged = [] →
       ((s.tenant tenant).created = true →
         ((s.holder (granule key)).opens (some tenant) = true → (s.applyEntry e).mem = Memory.writeBytes s.mem key bs) ∧
         (s.applyEntry e).holder (granule key) = .tenant tenant ∧
         (bad = true → (s.applyEntry e).poisoned (granule key) = true)) ∧
       ((s.tenant tenant).created = false → s.applyEntry e = { s with discarded := s.discarded + 1 }))) ∧
  ((∀ (s : State) (t : Team) (sc : Scope), s.team? t.id = some t → s.pendPubs = [] → sc ≠ .team →
     let w := s.publish t.id sc
     let covered := (s.core t.core).log.filter fun e => e.undrained && e.coveredBy t.id t.tail
     w.mem = s.mem ∧ w.pubSeq = s.pubSeq + 1 ∧ w.pubNum = s.pubNum + 1 ∧
     ((w.core t.core).log = (s.core t.core).log.map fun e =>
       if e.unpublished && e.coveredBy t.id t.tail then { e with state := .published s.pubSeq } else e) ∧
     (covered = [] → w.pubs = s.pubs) ∧
     (covered ≠ [] → ∃ p, w.pubs = s.pubs ++ [p] ∧ p.seq = s.pubSeq ∧ p.num = s.pubNum + 1 ∧ p.scope = sc ∧
       p.core = t.core ∧ p.gang = t.gang ∧ p.lsns = covered.map fun e => e.lsn)) ∧
   ∀ (s : State) (p : Pub) (key seq : Nat) (bs : List Byte) (tenant : BitVec 8) (lsn : BitVec 48),
     0 < bs.length → key % 32 + bs.length ≤ 32 → key / 2 ^ 47 < 1024 → (s.tenant tenant).created = true →
     (s.holder (granule key)).opens (some tenant) = true → p.seq ≤ seq →
     let e : LogEntry :=
       { LogEntry.plainAt key bs false with tenant := tenant, lsn := lsn, state := .published p.seq }
     s.pubs = [p] → s.flights = [] → s.staged = [] → (s.core p.core).log = [e] → s.mayLeave e = true →
     let w := s.forceTo seq
     w.mem = Memory.writeBytes s.mem key bs ∧ (w.core p.core).log = [] ∧
     ∀ c, c ≠ p.core → (s.core c).log = [] → (s.core c).seen = seq + 1 → s.Canonical →
       (s.coreRead c key bs.length).1 = bs)

/-- R206, R207 and R209, with nothing outstanding before it and nothing left outstanding by it (log 7). R207 and R209.
-/
def Obligations.AtomicsAtTheirHome : Prop :=
  (∀ (s w : State) (t : Team) (base : BitVec 4) (ix : VSrc) (vd : BitVec 6) (f : Fmt) (b : Word) (x c swap : Src)
       (place : Nat → List (Nat × Nat)) (cas : Bool),
     let v := s.viewOf t
     let keys := t.lanes.filterMap fun l => (place l).head?.map fun p => (l, p.1)
     s.issuer? = some t → s.Undelayed t → t.counter 0 < 63 → s.Passes t →
     v.readBase base = .ok b → v.readOneOf posIX ix [.s32, .n32] = .ok x → v.atomOperands cas vd f = .ok (c, swap) →
     v.consume [x, c, swap] = .ok () → (∀ l ∈ t.lanes, (laneAddress b x 0 f l).toNat % f.bytes = 0) →
     s.Reaches t .atomic f.bytes (t.lanes.map fun l => (l, laneAddress b x 0 f l)) place w →
     (∀ k ∈ keys, w.mustPublish t (granule (bareKey k.2)) = false) →
     let performs (i : Instr) (op : BitVec 4) : Prop :=
       let done := (w.showTo t.core (keyGranules keys)).performAtomic op f
         (t.lanes.map fun l => (l, BitVec.ofNat 64 (c.val l), BitVec.ofNat 64 (swap.val l))) keys
       ∃ r : Res, s.Effect t i (done.2.putView ((done.2.viewOf t).put vd false r)) ∧ r.tagged (.fmt f) ∧
         r.hi.isSome = f.isPair ∧
         ∀ o ∈ done.1, r.val o.1 = f.place o.2.1 % 2 ^ (if f.isPair then 64 else 32) ∧ r.lo.poison.getLsbD o.1 = o.2.2
     (cas = false →
       performs (.atomAdd base ix vd f) 8 ∧ performs (.atomMin base ix vd f) 9 ∧ performs (.atomMax base ix vd f) 10 ∧
       performs (.atomAnd base ix vd f) 11 ∧ performs (.atomOr base ix vd f) 12 ∧ performs (.atomXor base ix vd f) 13 ∧
       performs (.atomXchg base ix vd f) 14) ∧
     (cas = true → performs (.atomCas base ix vd f) 15)) ∧
  ((∀ (s : State) (key : Nat) (op : BitVec 4) (f : Fmt) (v w : BitVec 64),
     let k := bareKey key
     s.staged = [] → f.bytes = 4 ∨ f.bytes = 8 → k % f.bytes = 0 →
     (s.holder (granule k)).opens (tenantOfKey key) = true →
     let old := natOfBytes (Memory.readBytes s.mem k f.bytes)
     let r := s.atomicAt key op f v w
     r.1 = old ∧ r.2.1 = s.poisoned (granule k) ∧ r.2.2.poison = s.poison ∧
     r.2.2.mem = if s.poisoned (granule k) then s.mem
       else Memory.writeBytes s.mem k (bytesOf f.bytes (atomicOp op.toNat f old v.toNat w.toNat))) ∧
   (∀ (f : Fmt) (sg : Bool) (n o v w : Nat), f.intShape = some (sg, n) → n = 32 ∨ n = 64 →
     o < 2 ^ n → v < 2 ^ n → w < 2 ^ n →
     atomicOp 8 f o v w = (o + v) % 2 ^ n ∧
     atomicOp 9 f o v w = (if intOf sg n o ≤ intOf sg n v then o else v) ∧
     atomicOp 10 f o v w = (if intOf sg n v ≤ intOf sg n o then o else v) ∧
     atomicOp 11 f o v w = (o &&& v) ∧ atomicOp 12 f o v w = (o ||| v) ∧ atomicOp 13 f o v w = (o ^^^ v) ∧
     atomicOp 14 f o v w = v ∧ atomicOp 15 f o v w = if o = v then w else o) ∧
   (∀ (F : FloatFmt) (f : Fmt) (o v w : Nat), f = .f32 ∧ F = fmtF32 ∨ f = .f64 ∧ F = fmtF64 →
     atomicOp 8 f o v w = F.round ((F.value o).add .rne (F.value v)) .rne 0 ∧
     atomicOp 9 f o v w = floatMinMax F false o v ∧ atomicOp 10 f o v w = floatMinMax F true o v ∧
     (v < 2 ^ f.bits → atomicOp 14 f o v w = v)) ∧
   ∀ (k : Nat) (f : Fmt) (o v w : Nat), k < 6 → atomicOp (8 + k) f o v w = reduceOp k f o v)

/-- R98 and R211, with nothing outstanding and no publication to be recorded before it. -/
def Obligations.FullEmptyAccesses : Prop :=
  ∀ (s : State) (t : Team) (fam : Family) (base : BitVec 4) (ix : VSrc) (vd : BitVec 6) (f : Fmt) (b : Word) (x d : Src),
    let v := s.viewOf t
    let addr (l : Nat) : Nat := (laneAddress b x 0 f l).toNat
    let at_ (l : Nat) : Nat := fam.partBase + addr l
    let mine (k : Nat) : Bool := (t.lanes.map fun l => at_ l / 8).contains (k / 8)
    let n := match v.targetOf vd with
      | .kv _ => 32
      | .v _ => t.size
    s.issuer? = some t → s.familyOf? t = some fam → s.Passes t → t.gone = false →
    t.pend = [] → t.arm.prog = .none → (∀ a ∈ t.arms, ∀ y, a.prog = .access y → y.ticket ≠ s.nextId) →
    s.pendPubs = [] → t.counter 0 < 63 → v.readBase base = .ok b → v.readOneOf posIX ix [.s32, .n32] = .ok x →
    v.consume [x] = .ok () → (∀ l ∈ t.lanes, addr l % f.bytes = 0 ∧ addr l + f.bytes ≤ fam.partSize) →
    (t.lanes.map fun l => at_ l / 8).Nodup →
    (∀ a ∈ (s.core t.core).arrivals, ∀ l ∈ t.lanes, a.1 ≠ at_ l / 8) →
    let reads (i : Instr) (empties : Bool) : Prop :=
      v.checkV posD vd f.isPair = .ok () → (∀ l ∈ t.lanes, s.isFull t.core (at_ l) = true) →
      ∃ s' u, exec i s = .next s' ∧ s'.team? t.id = some u ∧ u.arm.pc = t.arm.pc + 4 ∧ u.s = t.s ∧ s'.mem = s.mem ∧
        (s'.core t.core).scratch = (s.core t.core).scratch ∧
        (∀ k, s'.isFull t.core k = (s.isFull t.core k && !(empties && mine k))) ∧
        let w := s'.viewOf u
        let val (l : Nat) : Nat :=
          ((w.vreg vd).read l).toNat + if f.isPair then 2 ^ 32 * ((w.vreg (vd + 1)).read l).toNat else 0
        (∀ l ∈ t.lanes, l < n →
          val l = f.place (natOfBytes (s.scratchRead t.core (at_ l) f.bytes)) % 2 ^ (if f.isPair then 64 else 32) ∧
          (w.vreg vd).tag = .fmt f ∧ (w.vreg vd).poison.getLsbD l = false) ∧
        (∀ l, l < n → l ∉ t.lanes → (w.vreg vd).read l = (v.vreg vd).read l) ∧
        ∀ r, r ≠ vd → (f.isPair = true → r ≠ vd + 1) → w.vreg r = v.vreg r
    reads (.ldfe base ix vd f) true ∧ reads (.ldf base ix vd f) false ∧
    (v.readD vd f = .ok d → (∀ l ∈ t.lanes, d.isPoisoned l = false ∧ s.isFull t.core (at_ l) = false) →
      (∀ p ∈ (s.core t.core).passes, p.team ≠ t.id) → s.Canonical →
      ∃ s' u, exec (.stfe base ix vd f) s = .next s' ∧ s'.team? t.id = some u ∧ u.v = t.v ∧ u.s = t.s ∧
        u.arm.pc = t.arm.pc + 4 ∧ s'.mem = s.mem ∧ s'.pubSeq = s.pubSeq + 1 ∧
        (∀ k, s'.isFull t.core k = (s.isFull t.core k || mine k)) ∧
        (∀ l ∈ t.lanes, s'.scratchRead t.core (at_ l) f.bytes = bytesOf f.bytes (d.val l)) ∧
        ∀ k, (∀ l ∈ t.lanes, k < at_ l ∨ at_ l + f.bytes ≤ k) →
          Memory.read (s'.core t.core).scratch k = Memory.read (s.core t.core).scratch k)

/-- R89, R94 to R96 and R346; the last conjunct of the first clause is log 11. -/
def Obligations.TranslationChecks : Prop :=
  ∀ (s s' : State) (c : TrCtx) (acc : AccKind) (va : Word) (key : Nat),
    (s.translate c acc va = (.ok key, s') →
      va.extractLsb' 57 7 = 0 ∧ devOf va < 576 ∧ s.reachable (devOf va) = true ∧ c.en = true ∧
      (s.rootOn c (devOf va)).isSome = true ∧
      (s.tenant c.tenant).created = true ∧ installed key = true) ∧
    ∀ tr : CachedTr, validAddr va = true → s.reachable (devOf va) = true →
      (s.rootOn c (devOf va)).isSome = true → (s.tenant c.tenant).created = true →
      ((s.cachedOf c.core).find? fun r => r.covers c.tenant (devOf va) (localOf va)) = some tr →
      (tr.sys = true → c.sys = false → (s.translate c acc va).1 = .error (.fault 0x0C4 (levelOfBits tr.bits))) ∧
      (¬(tr.sys = true ∧ c.sys = false) → accReads acc = true → tr.rd = false →
        (s.translate c acc va).1 = .error (.fault 0x0C2 (levelOfBits tr.bits))) ∧
      (¬(tr.sys = true ∧ c.sys = false) → (accReads acc = true → tr.rd = true) → accWrites acc = true → tr.w = false →
        (s.translate c acc va).1 = .error (.fault 0x0C3 (levelOfBits tr.bits))) ∧
      (permCheck tr.sys tr.rd tr.w acc c.sys = none →
        let pa := tr.pfn * 2 ^ 16 + (localOf va - tr.page)
        pa < hbmBytes →
        (s.translate c acc va).1 = .ok (s.keyFor c.tenant acc (memKey (devOf va) pa)) ∧
        bareKey (s.keyFor c.tenant acc (memKey (devOf va) pa)) = memKey (devOf va) pa ∧
        (s.Canonical → ∀ k, Memory.read (s.translate c acc va).2.mem k = Memory.read s.mem k ∨ k = tr.leaf))

/-- The laws of the memories (log 3). -/
def Obligations.MemoryReadsBackWrites : Prop :=
  ∀ (m : Memory) (a : Nat) (b : Byte) (bs : List Byte),
    Memory.wf m = true →
    Memory.wf (Memory.write m a b) = true ∧ Memory.wf (Memory.writeBytes m a bs) = true ∧
    (∀ k, Memory.read (Memory.write m a b) k = if k = a then b else Memory.read m k) ∧
    Memory.readBytes (Memory.writeBytes m a bs) a bs.length = bs ∧
    (∀ k, k < a ∨ a + bs.length ≤ k → Memory.read (Memory.writeBytes m a bs) k = Memory.read m k) ∧
    ∀ m', Memory.wf m' = true → (∀ k, Memory.read m k = Memory.read m' k) → m = m'

/-- R212 with R106 to R108 and R225, where nothing is outstanding (log 7). -/
def Obligations.ReleasesAndAcquires : Prop :=
  ∀ (s : State) (t : Team) (sc : Scope) (sa : SSrc) (a : Word),
    s.issuer? = some t → s.Undelayed t → s.Passes t → (sc = .domain → s.inBound = true) →
    let named (n : Nat) : Bool :=
      a.extractLsb' 54 10 == s.dev && decide (n / 48 = (a.extractLsb' 52 2).toNat) && a.getLsbD (n % 48)
    let mine (e : LogEntry) : Bool := e.team == t.id
    let wide := 1 ≤ s.levelOf t ∧ (sc = .device ∨ sc = .domain)
    let flushed := if wide then s.flush t mine else s
    let released := flushed.publish t.id sc
    let acquired (w : State) (cores : Nat → Bool) : State := w.see t.core (w.coverage t sc cores)
    (t.ap = 0 → (wide → s.flushes t mine = true) → s.Effect t (.rel sc) released) ∧
    (t.arm.prog = .none →
      s.Effect t (.acq sc) (acquired s allCores) ∧
      ((s.viewOf t).readS posSA sa = .ok a → s.Effect t (.acqset sc sa) (acquired s named)) ∧
      (t.ap = 0 → (wide → s.flushes t mine = true) → s.Effect t (.fence sc) (acquired released allCores)))

/-- R214, with the acquire at gang scope, or at the barrier's scope over the cores of the group's members. R214 with
R29 and R43. -/
def Obligations.BarrierArrivalsAndGenerations : Prop :=
  (∀ (s : State) (t : Team) (g : Gang) (sc : Scope) (sd : BitVec 6),
     s.issuer? = some t → s.gang? t.gang = some g → s.pendPubs = [] → (s.viewOf t).checkS posD sd = .ok () →
     t.handling = false → t.stack = [] →
     let word (gen : BitVec 32) (status : Word) : Word := (gen.setWidth 64 <<< 32) ||| status
     (t.spawned = true → s.Traps t (.bar sc sd) 0x182 0) ∧ (t.spawned = true → s.Traps t (.gbar sc sd) 0x182 0) ∧
     (g.group = none → s.Traps t (.gbar sc sd) 0x182 0) ∧
     (t.spawned = false → t.arrived = true → genLe g.barGen t.arrGen = false →
       let w := (s.modTeam t.id fun u => { u with arrived := false }).see t.core (s.coverage t .gang allCores)
       s.Effect t (.bar sc sd)
         (w.putView ((w.viewOf { t with arrived := false }).setS sd (word t.arrGen g.barStatus)))) ∧
     ∀ id gr, t.spawned = false → g.group = some id → s.group? id = some gr → t.groupArrived = true →
       genLe gr.gen t.groupGen = false →
       let w := (s.modTeam t.id fun u => { u with groupArrived := false }).see t.core
         (s.coverage t sc (s.memberCores gr))
       s.Effect t (.gbar sc sd)
         (w.putView ((w.viewOf { t with groupArrived := false }).setS sd (word t.groupGen gr.barStatus)))) ∧
  (∀ (s : State) (g : Gang) (clock : Option Word),
     s.gang? g.uid = some g →
     let live := (s.teamsOf g.uid).filter fun u => !u.gone
     let here (u : Team) : Bool := u.arrived && genLe g.barGen u.arrGen
     let expected := live.filter fun u => !u.spawned && genLe u.fromGen g.barGen
     ((∃ u ∈ expected, here u = false) → s.barStep g.uid clock = s) ∧
     ((∃ u ∈ live, here u = true) → (∀ u ∈ expected, here u = true) →
       ∃ h, (s.barStep g.uid clock).gang? g.uid = some h ∧ h.barGen = g.barGen + 1 ∧
         h.barStatus = (if g.abandoned then 1 else 0) ∧ h.abandoned = false))

/-- R215 with R20, R29, R30 and R327. -/
def Obligations.JoiningAndLeavingGangs : Prop :=
  ∀ (s : State) (t : Team) (g : Gang) (sa : SSrc) (a : Word),
    s.issuer? = some t → s.gangOf? t = some g → (s.viewOf t).readS posSA sa = .ok a → t.handling = false →
    t.stack = [] →
    let id : BitVec 32 := BitVec.ofNat 32 (2 ^ 31 + a.toNat % 2 ^ 30)
    let home := (s.gangsOf g.family).find? fun h => h.logical == t.home
    let elsewhere (h : Gang) : Prop := h.core ≠ g.core ∨ h.family ≠ g.family
    let ready := t.counter 0 = 0 ∧ t.ap = 0 ∧ s.Passes t
    let enters (i : Instr) (id : BitVec 32) (named : Option Gang) : Prop :=
      (∀ h, named = some h → ¬elsewhere h → h.uid = g.uid → s.Effect t i s) ∧
      (∀ h, named = some h → ¬elsewhere h → h.uid ≠ g.uid → s.Effect t i (s.moveTeam t h.uid (h.barGen + 1))) ∧
      (∀ core slot, named = none → g.core = some core → s.gangSlotFor core = some slot →
        s.Effect t i (({ s with nextId := s.nextId + 1, gangs := s.gangs ++ [g.child s.nextId id slot] } : State).moveTeam
          t s.nextId 0))
    (t.spawned = true → s.Traps t (.gjoin sa) 0x182 0) ∧
    (t.spawned = false → 2 ^ 30 ≤ a.toNat → s.Traps t (.gjoin sa) 0x183 a) ∧
    (t.spawned = false → a.toNat < 2 ^ 30 → ready →
      enters (.gjoin sa) id (s.namedGang g id) ∧
      ∀ h, s.namedGang g id = some h → elsewhere h → s.Traps t (.gjoin sa) 0x183 a) ∧
    (g.logical = t.home → s.Traps t .gleave 0x183 0) ∧
    (g.logical ≠ t.home → ready → enters .gleave t.home home)

/-- R216 and R217 with R21, R39, R40, R44 and R227. -/
def Obligations.SpawningAndJoining : Prop :=
  ∀ (s : State) (t : Team) (g : Gang) (f : Family) (p : BitVec 4) (np : BitVec 3) (sa : SSrc) (sd : BitVec 6) (a : Word),
    let v := s.viewOf t
    s.issuer? = some t → s.gangOf? t = some g → s.familyOf? t = some f → v.readS posSA sa = .ok a →
    (v.checkS posD sd = .ok () → v.checkPayload p np = .ok () → t.handling = false → t.arm.prog = .none →
      let off := v.scalar sd
      let n := t.lanes.length
      let inside := off.toNat % 8 = 0 ∧ off.toNat + 8 ≤ f.partSize
      let bad := t.lanes.filter fun l => decide (g.nest ≤ keyDepth (t.laneKey l)) || t.ords.getD l 0 == 1023
      let counted := (s.publish t.id .gang).counterAdd f off.toNat (BitVec.ofNat 64 n) (some t.lclk)
      let u := (counted.team? t.id).getD t
      let reg (j : Nat) : VReg := u.v.getD (4 * p.toNat + j) VReg.zero
      let child (i l : Nat) : Child :=
        let key := childKey (u.laneKey l) ((u.ords.getD l 0).toNat + 1)
        { uid := counted.nextId + i, gang := g.uid, entry := a, key := key, counter := BitVec.ofNat 22 off.toNat
          payload := (List.range np.toNat).map fun j => (reg j).read l
          poison := BitVec.ofNat 4 (sumOf ((List.range np.toNat).map fun j =>
            if (reg j).poison.getLsbD l then 2 ^ j else 0))
          depth := keyDepth key, clock := u.lclk, tick := s.tick.toNat, pubs := counted.pubSeq }
      let gathered := ({ counted with nextId := counted.nextId + n } : State).gather t.core g
        ((t.lanes.zipIdx 0).map fun q => child q.2 q.1)
      let ordered := gathered.modTeam t.id fun u => { u with
        ords := (List.range u.size).map fun l =>
          if t.active.getLsbD l then u.ords.getD l 0 + 1 else u.ords.getD l 0 }
      (g.nest = 0 → s.Traps t (.spawn p np sa sd) 0x180 0) ∧
      (g.nest ≠ 0 → a ∉ (s.tenant g.tenant).entries → s.Traps t (.spawn p np sa sd) 0x087 a) ∧
      (g.nest ≠ 0 → a ∈ (s.tenant g.tenant).entries → ¬inside → s.Traps t (.spawn p np sa sd) 0x107 off) ∧
      (g.nest ≠ 0 → a ∈ (s.tenant g.tenant).entries → inside → ∀ l ls, bad = l :: ls →
        exec (.spawn p np sa sd) s = .next (s.stop t (.trap 0x181 (BitVec.ofNat 64 l) (some (maskOf bad))))) ∧
      (g.nest ≠ 0 → a ∈ (s.tenant g.tenant).entries → inside → bad = [] → s.Passes t → t.pend = [] → t.ap = 0 →
        t.lanes ≠ [] → n ≤ s.spawnRoom t.core g →
        s.Effect t (.spawn p np sa sd) (State.releaseFulls (n + 1) g.uid a ordered))) ∧
    (let seen (w : State) : State := (w.see t.core (w.coverage t .gang allCores)).see t.core (w.endings f.uid)
      let begun := (s.modTeam t.id fun u => u.setArm { u.arm with prog := .done 0 }).releasePartials t.gang
      a.toNat % 8 = 0 → a.toNat + 8 ≤ f.partSize → natOfBytes (s.scratchRead f.core (f.partBase + a.toNat) 8) = 0 →
      s.Passes t → t.pend = [] → s.pendPubs = [] →
      (t.arm.prog = .none → s.Effect t (.jwait sa) (seen begun)) ∧
      ∀ w, t.arm.prog = .done w → s.Effect t (.jwait sa) (seen s)) ∧
    (a.toNat % 8 ≠ 0 ∨ f.partSize < a.toNat + 8 → s.Traps t (.jwait sa) 0x107 a)

/-- R221 with R99, R100 and R327. -/
def Obligations.TileInstructions : Prop :=
  ∀ (s : State) (t : Team) (g : Gang) (f : Family) (sa : SSrc) (sd : BitVec 6) (a : Word) (fmt : Tag) (k : Nat),
    let v := s.viewOf t
    let tile (k : Nat) : Tile := (s.core t.core).tile (BitVec.ofNat 8 k)
    let mine (k : Nat) : Bool := (tile k).gslot == g.gslot
    let becomes (i : Instr) (state : TileState) : Prop :=
      s.Effect t i (s.modCore t.core fun c => c.setTile (BitVec.ofNat 8 k) { tile k with state := state })
    s.issuer? = some t → s.gangOf? t = some g → s.familyOf? t = some f → v.readS posSA sa = .ok a → s.Passes t →
    (v.checkS posD sd = .ok () → a.toNat < 2 ^ 29 → tagOf (a.extractLsb' 24 5) = .ok fmt →
      ((a.extractLsb' 0 12).toNat + (a.extractLsb' 12 12).toNat + 1) * 1024 ≤ f.partSize →
      ((∀ j, j < 256 → (tile j).state ≠ .empty) → s.Registers t (.talloc sa sd) 4 (v.setS sd (BitVec.allOnes 64))) ∧
      (k < 256 → (tile k).state = .empty → (∀ j, j < k → (tile j).state ≠ .empty) →
        let w := s.modCore t.core fun c => c.setTile (BitVec.ofNat 8 k)
          { state := .filling, fmt := fmt, gslot := g.gslot, base := a.extractLsb' 0 12, sizeM1 := a.extractLsb' 12 12 }
        s.Effect t (.talloc sa sd) (w.putView ((w.viewOf t).setS sd (BitVec.ofNat 64 k))))) ∧
    (v.checkS posD sd = .ok () → a = BitVec.ofNat 64 k → k < 256 →
      s.Registers t (.tstat sa sd) 4 (v.setS sd
        (if (tile k).state = .empty ∨ mine k then
          BitVec.ofNat 64 ((tile k).base.toNat + 2 ^ 12 * (tile k).sizeM1.toNat + 2 ^ 28 * (tile k).gslot.toNat +
            2 ^ 33 * (tile k).fmt.code.toNat +
            2 ^ 38 * (match (tile k).state with
              | .empty => 0
              | .filling => 1
              | .ready => 2
              | .draining => 3))
        else 0))) ∧
    (a = BitVec.ofNat 64 k → k < 256 →
      (mine k = true → (tile k).state = .filling → becomes (.tready sa) .ready) ∧
      (mine k = true → (tile k).state = .ready → (s.core t.core).readsTile (BitVec.ofNat 8 k) = false →
        becomes (.trel sa) .empty) ∧
      (mine k = false → (tile k).state ≠ .empty → s.Traps t (.tready sa) 0x103 0 ∧ s.Traps t (.trel sa) 0x103 0) ∧
      (mine k = true → (tile k).state ≠ .filling → s.Traps t (.tready sa) 0x105 0) ∧
      (mine k = true → (tile k).state ≠ .ready → s.Traps t (.trel sa) 0x105 0))

/-- R245 to R247. R243, R258 and R259. -/
def Obligations.AccumulatorsAndMatrixState : Prop :=
  (∀ (s : State) (t : Team) (f : Family) (sa : SSrc) (sd : BitVec 6) (a : Word) (n : BitVec 5),
     s.issuer? = some t → s.familyOf? t = some f → s.Passes t →
     let held := f.handle n.toNat
     (∀ h x i, i < 32 → (f.setHandle h x).handle i = if i = h then x else f.handle i) ∧
     ((s.viewOf t).readS posSA sa = .ok a → (s.viewOf t).checkS posD sd = .ok () →
       let rows := (a.extractLsb' 0 16).toNat
       let cols := (a.extractLsb' 16 16).toNat
       (rows = 0 ∨ cols = 0 ∨ a.extractLsb' 37 27 ≠ 0 ∨ accFmtOf (a.extractLsb' 32 5) = none →
         s.Traps t (.aalloc sa sd) 0x18E a) ∧
       ∀ af, accFmtOf (a.extractLsb' 32 5) = some af →
         let units := (rows * cols * accBytes af + 16383) / 16384
         (32 < units → s.Traps t (.aalloc sa sd) 0x18E a) ∧
         (rows ≠ 0 → cols ≠ 0 → a.extractLsb' 37 27 = 0 → units ≤ 32 →
           ((∀ h, h < 32 → (f.handle h).state ≠ .free) ∨ s.unitsFree f < units →
             s.Registers t (.aalloc sa sd) 4 ((s.viewOf t).setS sd (BitVec.allOnes 64))) ∧
           ∀ h, h < 32 → (f.handle h).state = .free → (∀ j, j < h → (f.handle j).state ≠ .free) → units ≤ s.unitsFree f →
             let x : Handle :=
               { state := .held, rows := rows, cols := cols, af := af, elems := List.replicate (rows * cols) 0 }
             s.Effect t (.aalloc sa sd)
               ((s.putFamily (f.setHandle h x)).putView ((s.viewOf t).setS sd (BitVec.ofNat 64 h))))) ∧
     (held.state = .free → s.Traps t (.afree n) 0x18A (n.setWidth 64) ∧ s.Traps t (.azero n) 0x18A (n.setWidth 64)) ∧
     (held.state = .held → (∀ p ∈ (s.core t.core).passes, p.family ≠ f.uid ∨ p.handle ≠ n) →
       s.Effect t (.afree n) (s.putFamily (f.setHandle n.toNat Handle.empty)) ∧
       s.Effect t (.azero n) (s.putFamily
         (f.setHandle n.toNat { held with elems := List.replicate (held.rows * held.cols) 0 })))) ∧
  (∀ (s : State) (t : Team) (f : Family) (k : BitVec 4) (sa : SSrc) (sd : BitVec 6) (a : Word) (side : Bool),
     s.issuer? = some t → s.familyOf? t = some f →
     let behind (u : Team) : Team := u.goesTo (t.arm.pc + 4) s.tick.toNat
     let off := (a.extractLsb' 0 22).toNat
     let count := (a.extractLsb' 32 16).toNat
     ((s.viewOf t).checkS posD sd = .ok () →
       s.Registers t (.nfget k sd) 4 ((s.viewOf t).setS sd ((t.nf.getD k.toNat 0).setWidth 64))) ∧
     ((s.viewOf t).readS posSA sa = .ok a →
       (if a.getLsbD 23 = true ∧ (a.extractLsb' 56 8 ≠ 0 ∨ a.extractLsb' 21 2 ≠ 0) then
         s.Traps t (.omset k sa) 0x18B a
       else s.TeamStep t (.omset k sa) (behind { t with om := t.om.setIfInBounds k.toNat a })) ∧
       (if a.extractLsb' 32 32 ≠ 0 ∨ narrowValid (a.extractLsb' 0 32) = false then s.Traps t (.nfset k sa) 0x046 0
       else s.TeamStep t (.nfset k sa) (behind { t with nf := t.nf.setIfInBounds k.toNat (a.extractLsb' 0 32 &&& 0x1FFFFF) })) ∧
       (if a.extractLsb' 22 10 ≠ 0 ∨ 16384 < count then s.Traps t (.dmset side sa) 0x18F a
       else if off % 4 ≠ 0 ∨ f.partSize < off + 4 * count then
         s.Traps t (.dmset side sa) 0x107 (BitVec.ofNat 64 off)
       else s.TeamStep t (.dmset side sa) (behind { t with dm := a, dmSide := side }))))

/-- R248, R249 and R254, with R83. R249, R252 and R254. -/
def Obligations.MatrixMultiplies : Prop :=
  (∀ (s : State) (t : Team) (g : Gang) (f : Family) (fmt : Tag) (acc : BitVec 5) (oma omb : BitVec 4) (sd : BitVec 6)
       (x : Word) (sp : Bool) (i : Instr),
     s.issuer? = some t → s.gangOf? t = some g → s.familyOf? t = some f → s.Passes t →
     (s.viewOf t).readS posD (.s sd) = .ok x →
     i = (if sp then .mmSp fmt acc oma omb sd else .mm fmt acc oma omb sd) →
     let h := f.handle acc.toNat
     (sizeBad sp x = true → s.Traps t i 0x189 x) ∧
     (sizeBad sp x = false → h.state = .free → s.Traps t i 0x18A (acc.setWidth 64)) ∧
     ∀ p, sizeBad sp x = false → s.preparePass t g f sp fmt acc oma omb x sd = .ok p →
       (s.core t.core).mxeAdmitted = true → (s.core t.core).passes = [] → s.defer = [] →
       h.elems.length = h.rows * h.cols →
       (p.m = sizeM x ∧ p.n = sizeN x ∧ p.k = sizeK x ∧ p.a.tag = fmt) ∧
       ∃ w f', s.Effect t i w ∧ w.mem = s.mem ∧ w.poison = s.poison ∧
         (∀ n, (w.core n).scratch = (s.core n).scratch ∧ (w.core n).log = (s.core n).log) ∧
         w.family? f.uid = some f' ∧ (∀ j, j < 32 → j ≠ acc.toNat → f'.handle j = f.handle j) ∧
         let h' := f'.handle acc.toNat
         { h' with elems := h.elems } = h ∧ h'.elems.length = h.elems.length ∧
         ∀ r c, r < h.rows → c < h.cols →
           let old := h.elems.getD (r * h.cols + c) 0
           h'.elems.getD (r * h.cols + c) 0 =
             if r < p.m ∧ c < p.n then
               BitVec.ofNat 64 (chunkSum h.af old.toNat { sat := false, ovf := false }
                 (chunksOf ((chunkLength p.a.tag p.b.tag h.af).getD 1) (p.k + 1) (s.products t.core p r c))).1
             else old) ∧
  (∀ (s : State) (core : Nat) (p : Pass) (i j k : Nat), k < p.k →
     let a (q : Nat) : XVal := tagValue p.nfOf p.a.tag (s.elemAt core p.free p.slotA p.a i q).1
     let b (q : Nat) : XVal := tagValue p.nfOf p.b.tag (s.elemAt core p.free p.slotB p.b q j).1
     let m (side : Bool) : Nat := if p.side = side ∧ p.k0 ≤ k ∧ k - p.k0 < p.dup.length then p.dup.getD (k - p.k0) 0 else k
     (s.products core p i j).length = p.k ∧
     (p.kept = none → (s.products core p i j).getD k (.fin false 0 0) = (a (m true)).mul (b (m false))) ∧
     ∀ rows, p.kept = some rows →
       let row := rows.getD i []
       (some (m true) ∉ row → (s.products core p i j).getD k (.fin true 0 0) = .fin false 0 0) ∧
       ∀ q, q < row.length → row.getD q none = some (m true) → (∀ q', q' < q → row.getD q' none ≠ some (m true)) →
         (s.products core p i j).getD k (.fin false 0 0) = (a q).mul (b (m false)))

/-- R255 and R256. -/
def Obligations.OctetProducts : Prop :=
  ∀ (s : State) (t : Team) (g : Gang) (f : Family) (fmt : Tag) (vd va : BitVec 6) (omb sd : BitVec 4) (x : Word)
      (sp : Bool) (i : Instr) (r : OctetRegs) (b : MatView),
    let v := s.viewOf t
    let nf (k : BitVec 4) : BitVec 32 := t.nf.getD k.toNat 0
    let lanes := t.lanes.filter fun l => decide (l % 8 < sizeM x)
    s.issuer? = some t → s.gangOf? t = some g → s.familyOf? t = some f → s.Passes t → t.size ≤ 1024 →
    t.ksw = false → v.readS posSB (.s (sd.setWidth 6)) = .ok x →
    i = (if sp then .mmoSp fmt vd va omb sd else .mmo fmt vd va omb sd) →
    (octetBad sp x = true → (v.octetReg posSA va.toNat [.n32, .b32]).isOk = true →
      (v.octetReg posD vd.toNat [accFmt (octetAcc fmt)]).isOk = true → s.Traps t i 0x189 x) ∧
    (octetBad sp x = false → v.octetRegs fmt vd va x = .ok r → viewB (s.core t.core) g f (t.om.getD omb.toNat 0) = .ok b →
      (chunkLength fmt b.tag (octetAcc fmt)).isSome = true → (sp = true → tagHalf fmt = true ∨ tagByte fmt = true) →
      (∀ e ∈ r.readsB sp x lanes, b.inside (tagSlot nf b.tag) e.1 e.2 = true) → (∀ l ∈ lanes, none ∉ r.keeps sp x l) →
      (∀ q ∈ r.ctl :: r.a ++ r.d, q.poison &&& maskOf lanes = 0) →
      s.readsPoison t.core s.free (tagSlot nf b.tag) b (r.readsB sp x lanes) = false →
      (s.core t.core).mxeAdmitted = true →
      ∃ w u, s.Effect t i w ∧ w.team? t.id = some u ∧ w.mem = s.mem ∧
        (∀ n, (w.core n).scratch = (s.core n).scratch) ∧
        (∀ n, n < sizeN x → ∀ l, l < t.size → t.act.getLsbD l = true →
          ((w.viewOf u).vreg (vd + BitVec.ofNat 6 n)).read l =
            if l ∈ lanes then BitVec.ofNat 32 (s.octetCell t sp fmt b x r lanes l n).1
            else (v.vreg (vd + BitVec.ofNat 6 n)).read l) ∧
        ∀ q, (∀ n, n < sizeN x → q ≠ vd + BitVec.ofNat 6 n) → (w.viewOf u).vreg q = v.vreg q)

/-- R260 and R261. -/
def Obligations.WeightImages : Prop :=
  ∀ (s w1 w2 : State) (t : Team) (f : Family) (sa : SSrc) (sd : BitVec 6) (a : Word) (header bs : List Byte)
      (bad : List Nat),
    let c := s.core t.core
    s.issuer? = some t → s.familyOf? t = some f → s.Passes t → t.pend = [] →
    let others : Prop := ∃ x, c.weight = some x ∧ x.family ≠ f.uid
    ((∀ p ∈ c.passes, p.family ≠ f.uid ∨ p.b.tile ≠ none) → others →
      s.Effect t .wbldRel (s.modCore t.core fun c => c)) ∧
    ((∀ p ∈ c.passes, p.family ≠ f.uid ∨ p.b.tile ≠ none) → (∀ x, c.weight = some x → x.family = f.uid) →
      s.Effect t .wbldRel (s.modCore t.core fun c => { c with weight := none })) ∧
    ((s.viewOf t).readS posSA sa = .ok a → (s.viewOf t).checkS posD sd = .ok () →
      (others → s.Registers t (.wbld sa sd) 4 ((s.viewOf t).setS sd 1)) ∧
      ((∀ p ∈ c.passes, p.family ≠ f.uid ∨ p.b.tile ≠ none) → (∀ x, c.weight = some x → x.family = f.uid) →
        (a.toNat % 32 ≠ 0 → s.Traps t (.wbld sa sd) 0x190 a) ∧
        (a.toNat % 32 = 0 → M.bulkRead t .bulkLoad a 32 s = .ok (header, []) w1 →
          (headerFormed (fun k => t.nf.getD k.toNat 0) header = false →
            exec (.wbld sa sd) s = .next (w1.stop t (.trap 0x190 a none))) ∧
          (headerFormed (fun k => t.nf.getD k.toNat 0) header = true →
            M.bulkRead t .bulkLoad a (imageBytes header) w1 = .ok (bs, bad) w2 → structurePoisoned bs bad = false →
            linesFormed bs = true →
            let held := w2.modCore t.core fun c =>
              { c with weight := some { family := f.uid, addr := a, bytes := bs, bad := bad } }
            s.Effect t (.wbld sa sd) (held.putView ((held.viewOf t).setS sd 0))))))

/-- R218 to R220 with R112 and R279, the run accepted at once and nothing outstanding (log 7). -/
def Obligations.CopiesAndBatches : Prop :=
  ∀ (s : State) (t : Team) (g : Gang) (f : Family) (sn : BitVec 6) (sa : SSrc) (sd : BitVec 6) (a x d : Word),
    let v := s.viewOf t
    s.issuer? = some t → s.gangOf? t = some g → s.familyOf? t = some f → s.Passes t → s.defer = [] →
    s.pendPubs = [] → t.pend = [] →
    (∀ (c : Chan) (w1 : State) (es : List LogEntry) (limit : Nat) (fault : Option (BitVec 9 × Word)),
      v.readS posSA sa = .ok a → v.readS posSB (.s sn) = .ok x → v.readS posD (.s sd) = .ok d →
      copyCheck (s.core t.core) g f d a x = .ok () → t.en < 63 → s.chanOf? f.uid .bce = some c → s.chan? c.id = some c →
      c.accept = [] → c.open.length < 64 →
      let r := Run.make s t s.nextId (.copy d a x (copyLen x)) 0
      let w0 := { s with nextId := s.nextId + 1 }
      (if toScratch (copyDir x) = true ∨ copyLen x = 0 then es = [] ∧ limit = copyLen x ∧ fault = none ∧ w1 = w0
        else M.segments c r d (copyLen x) (if fromScratch (copyDir x) then BitVec.ofNat 64 (f.partBase + a.toNat) else a)
          (if fromScratch (copyDir x) then 1 else 0) false true w0 = .ok (es, limit, fault) w1) →
      let appended := es.foldl (fun s e => s.append t e) w1
      let copied : CopyRec :=
        { run := s.nextId, batch := none, glob := !toScratch (copyDir x) && copyLen x != 0
          done := copyLen x == 0, fault := false }
      es.length ≤ w1.appendRoom t.core → appended.unpublishedOf t < 1062912 →
      let accepted := { r with num := c.issued + 1, kind := .copy d a x limit, fault := fault }
      ∃ w u, s.Effect t (.copy sn sa sd) w ∧ w.team? t.id = some u ∧ u.openCopies = t.openCopies + 1 ∧
        u.copies = t.copies ++ [copied] ∧
        w.chan? c.id = some { c with issued := c.issued + 1, runs := c.runs ++ [accepted] } ∧
        (∀ id, id ≠ c.id → w.chan? id = s.chan? id) ∧ w.mem = w1.mem ∧ w.poison = w1.poison ∧
        (∀ n, (w.core n).scratch = (s.core n).scratch) ∧
        (copyLen x = 0 → copyTv x = true → ((w.core f.core).tile (copyTile x)).state = .ready) ∧
        (w.core c.core).log = (appended.core c.core).log.map fun e =>
          if e.runId = some s.nextId then { e with run := c.issued + 1 } else e) ∧
    (v.checkS posD sd = .ok () →
      let closing (u : Team) : Team := { u with
        sealed := t.sealed + 1, openCopies := 0
        copies := u.copies.map fun c => { c with batch := some (c.batch.getD (t.sealed + 1)) } }
      let w := s.modTeam t.id closing
      s.Effect t (.cbseal sd) (w.putView ((w.viewOf (closing t)).setS sd ((t.sealed + 1).setWidth 64)))) ∧
    (v.readS posSA sa = .ok a →
      let n := if genLe (a.extractLsb' 0 32) t.sealed then a.extractLsb' 0 32 else t.sealed
      let due := t.copies.filter fun c => c.upTo n
      let ids := due.map fun c => c.run
      let mine (e : LogEntry) : Bool := e.copy && e.unpublished && e.runId.any fun i => ids.contains i
      let published := if (s.core t.core).log.any mine then
          let w := s.recordPub t .core fun e => e.coveredBy t.id t.tail || mine e
          w.forceBelow w.pubSeq
        else s
      (∀ c ∈ due, c.done = true) →
      (∀ c, due.find? (fun c => c.fault) = some c → exec (.cbwait sa) s = .next
        ((s.modTeam t.id fun u => { u with
          copies := u.copies.map fun d => if d.upTo n then { d with fault := false } else d }).stop t
            (.trap 0x194 ((c.batch.getD 0).setWidth 64) none))) ∧
      ((∀ c ∈ due, c.fault = false) →
        s.Effect t (.cbwait sa)
          (published.modTeam t.id fun u => { u with copies := u.copies.filter fun c => !c.upTo n })))

/-- R279, R283 to R285, R263 and R264, the runs accepted at once and nothing outstanding (log 7). -/
def Obligations.EngineCommands : Prop :=
  ∀ (s : State) (t : Team) (g : Gang) (f : Family) (e : EngineId) (sa : SSrc) (sd : BitVec 6) (a : Word),
    let v := s.viewOf t
    s.issuer? = some t → s.gangOf? t = some g → s.familyOf? t = some f → s.Passes t → s.Undelayed t →
    v.readS posSA sa = .ok a → v.checkS posD sd = .ok () → t.en < 63 → t.arm.prog = .none →
    (∀ x ∈ t.arms, ∀ n, x.prog ≠ .command n none) →
    let chan := s.chanOf? f.uid e
    let done := (chan.map fun c => c.done).getD 0
    let issued := (chan.map fun c => c.issued).getD 0
    let takes (w : State) (c : Chan) (r : Run) : State :=
      let n := c.issued + 1
      let w := (w.putChan { c with issued := n, runs := c.runs ++ [{ r with num := n }] }).modCore c.core
        fun (d : Core) => { d with
          log := d.log.map fun (x : LogEntry) => if x.runId == some r.id then { x with run := n } else x }
      w.putView ((w.viewOf t).setS sd n)
    let scratch := a.getLsbD 63
    (a.extractLsb' 0 6 ≠ 0 ∨ scratch = true ∧ (e ≠ .bce ∨ a.extractLsb' 22 41 ≠ 0) → s.Traps t (.enq e sa sd) 0x195 a) ∧
    (a.extractLsb' 0 6 = 0 → (scratch = true → e = .bce ∧ a.extractLsb' 22 41 = 0) →
      (scratch = true → f.partSize < (a.extractLsb' 0 22).toNat + 64 →
        s.Traps t (.enq e sa sd) 0x107 (a &&& 0x3FFFFF)) ∧
      ((scratch = true → (a.extractLsb' 0 22).toNat + 64 ≤ f.partSize) →
        (∀ c, chan = some c → s.chan? c.id = some c → c.accept = [] → c.open.length < 64 →
          s.Effect t (.enq e sa sd)
            (takes { s with nextId := s.nextId + 1 } c (Run.make s t s.nextId .chain a))) ∧
        (chan = none → (e ≠ .bce ∧ channelLimit e ≤ (s.chans.filter fun c => c.engine == e).length) →
          s.Effect t (.enq e sa sd) (({ s with nextId := s.nextId + 1 } : State).putView (v.setS sd 0))) ∧
        (chan = none → (e = .bce ∨ (s.chans.filter fun c => c.engine == e).length < channelLimit e) →
          (∀ c ∈ s.chans, c.id ≠ s.nextId) →
          let c := Chan.fresh s.nextId e f.core f.uid g.tenant
          s.Effect t (.enq e sa sd) (takes { s with nextId := s.nextId + 2, chans := s.chans ++ [c] } c
            (Run.make s t (s.nextId + 1) .chain a))))) ∧
    (s.levelOf t < 2 → s.Registers t (.eseq e sd) 4 (v.setS sd done)) ∧
    (2 ≤ s.levelOf t → issued.toNat ≤ done.toNat → s.Registers t (.eseq e sd) 4 (v.setS sd issued)) ∧
    (issued.toNat < a.toNat → s.Traps t (.ewait e sa sd) 0x196 a) ∧
    (a.toNat ≤ issued.toNat → a.toNat ≤ done.toNat →
      let w := s.see t.core (s.coverage t .core allCores)
      s.Effect t (.ewait e sa sd)
        (w.putView ((w.viewOf t).setS sd (((chan.map fun (c : Chan) => c.statusOf a).getD 0).setWidth 64)))) ∧
    ∀ (add tile : Bool) (h : BitVec 5) (c : Chan) (bs : List Byte) (w1 w3 : State) (es : List LogEntry)
        (fault : Option (BitVec 9 × Word)) (i : Instr),
      i = (if tile then .adrainT add sa sd else .adrain add h sa sd) →
      let record := a &&& ~~~(0xFF : Word)
      let index := if tile then (a.extractLsb' 0 8).toNat else h.toNat
      let p := Shape64.of bs
      (tile = false → a.extractLsb' 0 8 = 0 → (f.handle index).state = .free → s.Traps t i 0x191 record) ∧
      ((tile = false → a.extractLsb' 0 8 = 0 ∧ (f.handle index).state ≠ .free) →
        M.bulkRead t .load record 64 s = .ok (bs, []) w1 → s.chanOf? f.uid .bce = some c → s.chan? c.id = some c →
        c.accept = [] → c.open.length < 64 →
        let w2 := { w1 with nextId := w1.nextId + 1 }
        let r := Run.make s t w1.nextId (.drain add tile index record bs) 0
        let src := w2.drainSource c r tile index p
        w2.drainFlaw c r (some g.gslot) tile index p add = none →
        (if add = true ∨ p.comp = true then es = [] ∧ fault = none ∧ w3 = w2
          else M.drainSegments c r p (p.slot r.nfOf) (p.runs src.rows src.cols) w2 = .ok (es, fault) w3) →
        es.length ≤ (w3.core c.core).room →
        let appended := es.foldl (fun (s : State) (e : LogEntry) => s.appendEntry c.core { e with
          slot := t.slot, tenant := (r.ctx c).tenant, team := t.id, gang := t.gang, origin := s.originOf t.gang }) w3
        s.Effect t i (takes (appended.drainBegin c tile index) c { r with fault := fault }))

/-- R270, R272, R273, R276 and R277 with R116, R122 and R327. -/
def Obligations.ScenesOpenAndClose : Prop :=
  ∀ (s : State) (t : Team) (g : Gang) (sa : SSrc) (sd : BitVec 6) (a : Word),
    let v := s.viewOf t
    s.issuer? = some t → s.gangOf? t = some g → s.Passes t → v.readS posSA sa = .ok a →
    (g.island = none → s.Traps t .csleep 0x188 0) ∧
    (∀ r, g.island = some r → s.Effect t .csleep { s with gangs := s.gangs.map fun (h : Gang) =>
      if h.uid == g.uid then { h with island := some { r with sleep := true } } else h }) ∧
    (s.scene? a.toNat = none → s.Traps t (.cclose sa) 0x184 a) ∧
    (∀ c, a.toNat < 64 → s.scene? a.toNat = some c → c.tenant = g.tenant →
      let rest := s.islandGangs c.num
      (rest ≠ [] ∨ s.liveDrivers c ≠ [] → s.Traps t (.cclose sa) 0x187 a) ∧
      (rest = [] → s.liveDrivers c = [] →
        let w := s.writeBack c
        s.Effect t (.cclose sa) { w with scenes := w.scenes.filter fun d => d.num != c.num })) ∧
    (v.checkS posD sd = .ok () →
      (a.toNat % 64 ≠ 0 → s.Traps t (.cscene sa sd) 0x199 a) ∧
      (∀ bs bad w1, a.toNat % 64 = 0 → t.pend = [] → M.bulkRead t .load a 64 s = .ok (bs, bad) w1 →
        let answers (w : State) (x : Word) : Prop := s.Effect t (.cscene sa sd) (w.putView ((w.viewOf t).setS sd x))
        let formed := bad = [] ∧ descFormed (s.tenant g.tenant).entries bs = true
        (¬ formed → answers w1 (-2)) ∧
        (formed → (∀ n, n < 64 → s.scene? n ≠ none) → answers w1 (-1)) ∧
        ∀ n w2, formed → n < 64 → s.scene? n = none → (∀ m, m < n → s.scene? m ≠ none) →
          let c := sceneOf (BitVec.ofNat 6 n) g.tenant g.ttbase t.isSystem bs
          M.initTables t c (descWord bs 0x10 8) w1 = .ok () w2 →
          answers { w2 with scenes := w2.scenes ++ [c] } (BitVec.ofNat 64 n)) ∧
      ∀ c u, a.toNat < 64 → s.scene? a.toNat = some c → c.tenant = g.tenant → c.failed = false → g.island = none →
        t.gone = false → t.handling = false → t.stack = [] → t.spawned = false →
        (∀ w1 c2 r, c.result = none → c.drivers = [] → s.stepOver c = true →
          let raised (u : Team) : Team :=
            u.wakeIf (fun w => w == .step) (if 2 ≤ s.levelOf t then some c.lastEnd else none)
          M.regroup a.toNat (raised t) ((s.putScene { c with drivers := [t.id] }).modTeam t.id raised) = .ok () w1 →
          w1.scene? a.toNat = some c2 → c2.failed = false → c2.result = some r →
          let w := (w1.dropDriver t.id).replay t.id .device allCores
          w.team? t.id = some u → s.Effect t (.cstep sa sd) (w.putView ((w.viewOf u).setS sd r))) ∧
        ∀ r, c.result = some r → c.drivers = [t.id] →
          let w := ((s.putScene c).dropDriver t.id).replay t.id .device allCores
          s.Effect t (.cstep sa sd) (w.putView ((w.viewOf t).setS sd r)))

/-- R270, R271, R274 and R275, for bodies whose records the unit holds (log 67). R118 and R119, on a scene whose edge
list is in order. -/
def Obligations.BodiesEdgesAndReports : Prop :=
  (∀ (s : State) (t : Team) (c : Scene) (k : BodyKind) (joint : Bool) (f : QueryField) (sa : SSrc) (vb : BitVec 6)
       (a : Word) (x y u : Src),
     let v := s.viewOf t
     let below (r : Src) : Prop := ∀ l ∈ t.lanes, r.val l < c.nbody
     let names (b : BitVec 24) : Prop := ∃ l ∈ t.lanes, x.bodyId l = b
     let cached (r : Src) : Prop := ∀ l ∈ t.lanes, r.bodyId l ∉ c.evicted
     s.issuer? = some t → s.Passes t → v.readS posSA sa = .ok a → a.toNat < 64 → s.scene? a.toNat = some c →
     (∀ d ∈ s.scenes, d.num = c.num → d = c) → c.tenant = s.tenantOf t → v.readIds vb 0 = .ok x →
     (c.failed = true → s.Traps t (.ckind k sa vb) 0x198 a) ∧
     (c.failed = false →
       (∀ l, l ∈ t.lanes → c.nbody ≤ x.val l → (∀ m ∈ t.lanes, m < l → x.val m < c.nbody) →
         let stopped := s.stop t (.trap 0x185 (BitVec.ofNat 64 (x.val l))
           (some (maskOf (t.lanes.filter fun m => decide (c.nbody ≤ x.val m)))))
         exec (.ckind k sa vb) s = .next stopped ∧ exec (.cwake sa vb) s = .next stopped) ∧
       (below x → cached x → v.runReg vb 1 = .ok (vb + 1) →
         s.Computes t (.cquery f sa vb) 4 (vb + 1) false (.fmt .n32) fun l => c.queryValue f (x.bodyId l)) ∧
       (below x → cached x → c.result = none →
         let changes (i : Instr) (change : Body → Body) : Prop :=
           ∃ c', s.Effect t i (s.putScene c') ∧ { c' with bodies := c.bodies } = c ∧
             ∀ b, (names b → c'.body b = change (c.body b)) ∧ (¬ names b → c'.body b = c.body b)
         changes (.ckind k sa vb) (fun b => { b with nextKind := k, reported := true }) ∧
         changes (.cwake sa vb) (fun b => { b with wake := b.wake || b.sleep, reported := true }) ∧
         (v.readIds vb 1 = .ok y → below y → cached y →
           let edge (l : Nat) (user : BitVec 32) : Edge := Edge.of (x.bodyId l) (y.bodyId l) joint user
           (∃ c', s.Effect t (.cunlink joint sa vb) (s.putScene c') ∧
             { c' with bodies := c.bodies, edges := c.edges } = c ∧
             ∀ e, e ∈ c'.edges ↔ e ∈ c.edges ∧ ∀ l ∈ t.lanes, e.same (edge l 0) = false) ∧
           (v.readUser vb 2 = .ok u → ∀ left w,
             s.linkLanes a.toNat (fun l => edge l (BitVec.ofNat 32 (u.val l))) t.lanes = (left, w) →
             (left = [] → s.Effect t (.clink joint sa vb) w) ∧
             (left ≠ [] → exec (.clink joint sa vb) s =
               .next (w.stop t (.trap 0x186 (BitVec.ofNat 64 c.ecap) (some (maskOf left)))))))))) ∧
  (∀ (s : State) (num : Nat) (c : Scene) (e : Edge),
     s.scene? num = some c → c.edges.Pairwise (fun a b => a.before b = true) →
     let known := ∃ f ∈ c.edges, f.same e = true
     (e.lo = e.hi → s.linkLane num e = (true, s)) ∧
     (e.lo ≠ e.hi → ¬ known → c.ecap ≤ c.edges.length → s.linkLane num e = (false, s)) ∧
     (e.lo.toNat < e.hi.toNat → known ∨ c.edges.length < c.ecap →
       ∃ c', (s.linkLane num e).1 = true ∧ (s.linkLane num e).2.scene? num = some c' ∧
         c'.edges.Pairwise (fun a b => a.before b = true) ∧
         (∀ f, f ∈ c'.edges ↔ f = e ∨ (f ∈ c.edges ∧ f.same e = false)) ∧
         (c'.body e.lo).reported = true ∧ (c'.body e.hi).reported = true ∧
         (∀ b, (c'.body b).kind = (c.body b).kind ∧ (c'.body b).nextKind = (c.body b).nextKind) ∧
         if (c.body e.lo).kind = .dynamic ∧ (c.body e.hi).kind = .dynamic then
           let ra := (c.body e.lo).parent
           let rb := (c.body e.hi).parent
           let root := if ra.toNat < rb.toNat then ra else rb
           (c'.body e.lo).parent = root ∧ (c'.body e.hi).parent = root
         else ∀ b, (c'.body b).parent = (c.body b).parent))

/-- R61 and R62. -/
def Obligations.RegisterCounts : Prop :=
  ∀ (s : State) (t : Team) (g : BitVec 3),
    s.issuer? = some t → s.Passes t →
    let n := 8 * (g.toNat + 1)
    let next (u : Team) : Team := u.goesTo (t.arm.pc + 4) s.tick.toNat
    (t.stack ≠ [] → s.Traps t (.vgrow g) 0x088 (BitVec.ofNat 64 t.stack.length) ∧
      s.Traps t (.vshrink g) 0x088 (BitVec.ofNat 64 t.stack.length)) ∧
    (t.stack = [] →
      (n ≤ t.vcnt → s.TeamStep t (.vgrow g) (next t)) ∧
      (t.vcnt < n → s.mayGrow t n = true → s.TeamStep t (.vgrow g) (next { t with vcnt := n })) ∧
      (t.vcnt < n → s.mayGrow t n = false → exec (.vgrow g) s = .next (s.setWait t (.grow n))) ∧
      (t.vcnt ≤ n → s.TeamStep t (.vshrink g) (next t)) ∧
      (n < t.vcnt → t.pend = [] →
        ∃ kept : Vector VReg 64,
          (∀ k, k < n → kept.getD k VReg.zero = t.v.getD k VReg.zero) ∧
          (∀ k, n ≤ k → kept.getD k VReg.zero = VReg.zero) ∧
          ∃ w : State, s.Effect t (.vshrink g) (w.seatCore t.core) ∧
            w.team? t.id = some { t with vcnt := n, v := kept } ∧ (∀ id, id ≠ t.id → w.team? id = s.team? id) ∧
            { w with teams := s.teams } = s))

/-- R293 to R295, the words of a mask register being those of R23. R3 and R293 to R295, for a team at system level;
the masks are those of R293, R294, R251 and R300. That a write to EMASK's summary word changes nothing is log 64. -/
def Obligations.ControlRegisterAccesses : Prop :=
  (∀ (s : State) (t : Team) (g : Gang) (sa : SSrc) (sd : BitVec 6) (a : Word),
     let v := s.viewOf t
     let c := s.core t.core
     let word (m : Mask) (k : Nat) : Word :=
       BitVec.ofNat 64 (if k < 32 then m.toNat / 2 ^ (32 * k) % 2 ^ 32
         else ((List.range 32).map fun i => if m.toNat / 2 ^ (32 * i) % 2 ^ 32 = 0 then 0 else 2 ^ i).sum)
     s.issuer? = some t → s.gangOf? t = some g → v.checkS posD sd = .ok () → v.readS posSA sa = .ok a →
     let reads (r : CtlReg) (x : Word) : Prop := s.Registers t (.crr r sa sd) 4 (v.setS sd x)
     reads .pathq t.pathq ∧ reads .xfill t.xfill ∧ reads .logt t.logt ∧ reads .tstat t.tstat ∧
     ((∀ p ∈ c.passes, p.team ≠ t.id) → reads .mxs t.mxs) ∧
     (a.toNat < 33 → reads .vacant (word t.vacant a.toNat)) ∧ (a.toNat < 16 → reads .om (t.om.getD a.toNat 0)) ∧
     (33 ≤ a.toNat → s.Traps t (.crr .vacant sa sd) 0x048 0) ∧ (16 ≤ a.toNat → s.Traps t (.crr .om sa sd) 0x048 0) ∧
     (t.isSystem = true →
       reads .dbgctl t.dbgctl ∧ reads .tvec c.tvec ∧ reads .cause c.cause ∧ reads .epc c.epc ∧ reads .eaddr c.eaddr ∧
       reads .ttbase g.ttbase ∧ (a.toNat < 33 → reads .emask (word c.emask a.toNat)))) ∧
  (∀ (s : State) (t : Team) (g : Gang) (r : CtlReg) (sa : SSrc) (sd : BitVec 6) (a : Word),
     let v := s.viewOf t
     let rw : Word := match r with
       | .pathq => 0xFFFF
       | .xfill => 0xFFFFFFFF
       | .mxs => 8
       | .tstat => if t.inh then 0x80 else 0
       | .dbgctl => 6
       | .tvec => 0x01FFFFFFFFFFFFFF
       | .epc | .eaddr => BitVec.allOnes 64
       | .ttbase => 0x0000FFFFFFFFFF01
       | .vacant | .logt | .om | .cause | .emask => 0
     let old := s.ctlRead t r 0
     let writes (i : Instr) (from_ : State) (x : Word) : Prop :=
       ∃ w u, s.Effect t i w ∧ w.team? t.id = some u ∧ w.ctlRead u r 0 = x ∧
         (∀ r' k, r' ≠ r → w.ctlRead u r' k = s.ctlRead t r' k) ∧ u.v = t.v ∧ w.mem = s.mem ∧
         (w.core t.core).k = (from_.core t.core).k ∧ from_.team? t.id = some { u with
           pathq := t.pathq, xfill := t.xfill, mxs := t.mxs, tstat := t.tstat, dbgctl := t.dbgctl }
     s.issuer? = some t → s.gangOf? t = some g → t.isSystem = true → v.readS posSA sa = .ok a →
     (r.words = 1 → (r = .mxs → ∀ p ∈ (s.core t.core).passes, p.team ≠ t.id) →
       let plain := (old &&& ~~~rw) ||| (a &&& rw)
       writes (.crw r sa sd) s
         (if r = .mxs then plain &&& ~~~(a &&& 7) else if r = .dbgctl then plain ||| (a &&& 1) else plain) ∧
       (v.checkS posD sd = .ok () →
         writes (.crs r sa sd) (s.putView (v.setS sd old)) (old ||| (a &&& rw)) ∧
         writes (.crc r sa sd) (s.putView (v.setS sd old)) (old &&& ~~~(a &&& rw)))) ∧
     (v.checkS posD sd = .ok () →
       let k := (v.scalar sd).toNat
       let bits (m : Mask) : BitVec 32 := m.extractLsb' (32 * k) 32
       (k < 32 →
         s.TeamStep t (.crw .vacant sa sd) ({ t with
           vacant := setLeaf t.vacant k (bits t.vacant &&& ~~~a.extractLsb' 0 32) }.goesTo (t.arm.pc + 4) s.tick.toNat) ∧
         s.Effect t (.crw .emask sa sd) (s.modCore t.core fun c => { c with
           emask := setLeaf c.emask k (a.extractLsb' 0 32) })) ∧
       (k = 32 → s.Effect t (.crw .vacant sa sd) s ∧ s.Effect t (.crw .emask sa sd) s) ∧
       (k < 16 → s.Effect t (.crw .om sa sd) s) ∧
       (33 ≤ k → s.Traps t (.crw .vacant sa sd) 0x048 0 ∧ s.Traps t (.crw .emask sa sd) 0x048 0) ∧
       (16 ≤ k → s.Traps t (.crw .om sa sd) 0x048 0)))

/-- R293, R294 and R370: detail code 0x006, EADDR the instruction word. -/
def Obligations.SystemInstructionsNeedSystemLevel : Prop :=
  ∀ (s : State) (t : Team) (sa : SSrc) (sd : BitVec 6) (sc : Scope) (r : CtlReg),
    s.issuer? = some t → t.isSystem = false →
    let traps (i : Instr) : Prop := s.Traps t i 0x006 ((encodeWord i).setWidth 64)
    traps .rte ∧ traps (.tcinv sc sa) ∧ traps (.tcinva sc sa) ∧
    ((r = .dbgctl ∨ r = .tvec ∨ r = .cause ∨ r = .epc ∨ r = .eaddr ∨ r = .emask ∨ r = .ttbase) →
      traps (.crr r sa sd) ∧ traps (.crw r sa sd)) ∧
    traps (.crw .tstat sa sd) ∧ traps (.crs .tstat sa sd) ∧ traps (.crc .tstat sa sd) ∧
    ((r = .dbgctl ∨ r = .tvec ∨ r = .cause ∨ r = .epc ∨ r = .eaddr ∨ r = .ttbase) →
      traps (.crs r sa sd) ∧ traps (.crc r sa sd))

/-- R296 and R297 with R64 and R293. R296, R297, R64 and R406, in states that number their teams as the model does. -/
def Obligations.TrapEntries : Prop :=
  (∀ (s : State) (t : Team) (i : TrapInfo),
     s.team? t.id = some t → t.inh = false → i.dbg = false → (s.core t.core).tvec.getLsbD 0 = true →
     (s.core t.core).owner = none → (s.core t.core).waiting = [] →
     ∃ s' u, s' = s.takeTrap t.id i ∧ s'.team? t.id = some u ∧
       (let c := s'.core t.core
        c.cause.toNat = i.code.toNat + (if i.arm then 0x200 else 0) + (if i.div then 0x400 else 0) ∧
        c.epc = i.epc ∧ c.eaddr = i.eaddr ∧ c.emask = i.emask ∧ c.owner = some t.id ∧ c.latches = [] ∧
        { c with cause := (s.core t.core).cause, epc := (s.core t.core).epc, eaddr := (s.core t.core).eaddr
                 emask := (s.core t.core).emask, owner := none, latches := (s.core t.core).latches } = s.core t.core) ∧
       u.isSystem = true ∧ u.inh = true ∧ u.ksw = true ∧ u.tstat.getLsbD 4 = t.isSystem ∧ u.tstat.getLsbD 5 = false ∧
       u.handling = true ∧ u.arm.pc.toNat = (s.core t.core).tvec.toNat % 2 ^ 57 / 2 * 2 ∧
       (∀ l, u.active.getLsbD l = decide (l < min 32 t.size)) ∧
       u.path = t.path ∧ u.stack = t.stack ∧ u.v = t.v ∧ u.s = t.s ∧ u.m = t.m ∧ u.act = t.act ∧ u.retired = t.retired ∧
       (∀ id, id ≠ t.id → s'.team? id = s.team? id) ∧ (∀ n, n ≠ t.core → s'.core n = s.core n) ∧
       { s' with teams := s.teams, cores := s.cores } = s) ∧
  (∀ (s : State) (t : Team) (i : TrapInfo),
     s.team? t.id = some t → (∀ u ∈ s.teams, u.id < s.nextId) →
     (t.inh = true ∨ i.dbg = false ∧ (s.core t.core).tvec.getLsbD 0 = false →
       ∀ u, (s.takeTrap t.id i).team? t.id = some u → u.status = .halted ∧ u.act = 0) ∧
     (t.inh = false → (i.dbg = true ∨ (s.core t.core).tvec.getLsbD 0 = true) →
       ((s.core t.core).owner ≠ none ∨ (s.core t.core).waiting ≠ []) →
       ∃ u, (s.takeTrap t.id i).team? t.id = some u ∧ u.status = .waitingBank i ∧
         ((s.takeTrap t.id i).core t.core).waiting = (s.core t.core).waiting ++ [t.id] ∧
         ((s.takeTrap t.id i).core t.core).owner = (s.core t.core).owner))

/-- R299 and R300. -/
def Obligations.TrapBreakAndReturn : Prop :=
  ∀ (s : State) (t : Team) (n : BitVec 7),
    s.issuer? = some t →
    let after := t.arm.pc + 4
    let info (code : BitVec 9) (dbg : Bool) : TrapInfo :=
      { code := code, eaddr := BitVec.ofNat 64 n.toNat, emask := t.active, epc := after, dbg := dbg
        div := !t.stack.isEmpty, arm := t.stack.head?.any fun e => e.sel }
    let takes (i : Instr) (info : TrapInfo) : Prop :=
      exec i s = .next ((s.modTeam t.id fun u => u.goesTo after s.tick.toNat).takeTrap t.id info)
    let c := s.core t.core
    takes (.trap n) (info 0x0BF false) ∧
    (t.dbgctl.getLsbD 1 = false → takes (.brk n) (info 0x0BE false)) ∧
    (t.dbgctl.getLsbD 1 = true → takes (.brk n) (info 0x0BE true)) ∧
    (t.isSystem = true → t.inh = false → s.Traps t .rte 0x009 ((encodeWord .rte).setWidth 64)) ∧
    (t.isSystem = true → t.inh = true → t.ld = 0 → t.ap = 0 → t.en = 0 → t.xl = 0 →
      ∃ s' u, exec .rte s = .next s' ∧ s'.team? t.id = some u ∧
        u.isSystem = t.tstat.getLsbD 4 ∧ u.inh = false ∧ u.ksw = false ∧ u.tstat.getLsbD 5 = false ∧
        u.status = .running ∧ u.v = t.v ∧ u.s = t.s ∧ s'.mem = s.mem ∧
        (s'.core t.core).owner = none ∧ (s'.core t.core).latches = [] ∧ (s'.core t.core).cause = c.cause ∧
        (c.cause.getLsbD 10 = false → u.path = { t.path with pc := c.epc } ∧ u.stack = t.stack) ∧
        ∀ e es, c.cause.getLsbD 10 = true → t.stack = e :: es →
          u.arm.pc = c.epc ∧ u.path = t.path ∧ u.stack.length = t.stack.length ∧
          u.arm.mask = (if c.cause.getLsbD 9 then e.arm1 else e.arm0).mask)

/-- R151, R213 and R301; the flush before the release is that of R110. -/
def Obligations.InstructionAndTranslationFences : Prop :=
  ∀ (s : State) (t : Team) (g : Gang) (sc : Scope) (sa : SSrc) (a : Word),
    s.issuer? = some t → s.gangOf? t = some g → (s.viewOf t).readS posSA sa = .ok a → t.pend = [] → s.pendPubs = [] →
    let mine (e : LogEntry) : Bool := e.team == t.id
    let published := (if 1 ≤ s.levelOf t then s.flush t mine else s).publishAndWait t.id .device
    let dropped (p : CachedTr → Bool) : State := { published with
      cores := published.cores.map fun c =>
        if scopeShares sc c.n 0 t.core 1 then { c with tc := c.tc.filter fun d => !p d } else c }
    s.TeamStep t .ifence ({ t with prefetched := [] }.goesTo (t.arm.pc + 4) s.tick.toNat) ∧
    (t.isSystem = true → t.ap = 0 → (1 ≤ s.levelOf t → s.flushes t mine = true) →
      s.Effect t (.tcinv sc sa) (dropped fun d => d.covers (g.ttbase.extractLsb' 8 8) (devOf a) (localOf a)) ∧
      (a.toNat < 2 ^ 9 →
        s.Effect t (.tcinva sc sa) (dropped fun d => decide (2 ^ 8 ≤ a.toNat) || d.tenant.toNat == a.toNat)) ∧
      (2 ^ 9 ≤ a.toNat → s.Traps t (.tcinva sc sa) 0x0C9 a))

/-- R321, R38, R40, R31, R327, R63 and R379. -/
def Obligations.TurnsArmsAndGroups : Prop :=
  ∀ (s : State) (t : Team) (core : Nat),
    (s.cur = none → s.nextTeam core = some t →
      exec (.issueTurn core false) s = .next (s.grant t) ∧
      exec (.issueTurn core true) s = .next (State.fetchAhead 16 t.arm.pc t (s.grant t)) ∧
      (s.grant t).cur = some t.id ∧ (s.grant t).turnLeft = 8 ∧ ((s.grant t).core t.core).latches = [] ∧
      ((s.grant t).core t.core).lastSlot = t.slot ∧ (s.grant t).mem = s.mem ∧
      (t ∈ s.teamsOn core ∧ s.mayIssue t = true) ∧
      ((∀ u ∈ s.teamsOn core, s.mayIssue u = true → s.domainOf u = none) →
        ∀ u ∈ s.teamsOn core, s.mayIssue u = true →
          slotDistance (s.core core).lastSlot t.slot ≤ slotDistance (s.core core).lastSlot u.slot)) ∧
    (∀ e es, s.team? t.id = some t → t.status = .running → t.stack = e :: es → t.arm.quantum = 0 →
      s.runOpen t = false → s.Passes t →
      let other := if e.other.isArrived then e else { e with sel := !e.sel }
      ∃ w u, exec (.quantumExpiry t.id) s = .next w ∧ w.team? t.id = some u ∧
        u = { t with stack := other.setRunning { other.running with quantum := t.quant } :: es, switchDue := false } ∧
        { w with teams := s.teams } = s) ∧
    (∀ g entry, s.gang? g.uid = some g → g.core = some core → g.level = 0 → s.childrenOf core g.uid entry ≠ [] →
      (∀ c ∈ s.childrenOf core g.uid entry, c.tick + 256 ≤ s.tick.toNat) →
      exec (.spawnGroupTimeout g.uid entry) s = .next (s.release g core
        (chunksOf g.spawnWidth ((s.childrenOf core g.uid entry).length + 1) (s.childrenOf core g.uid entry)))) ∧
    (∀ u, s.gangsOf u = [] →
      let left := s.chans.filter fun c => !(c.family == u && c.done == c.issued)
      ∃ w, exec (.familyResourceReturn u) s = .next w ∧ w.chans = left ∧ w.mem = s.mem ∧
        ((∀ c ∈ left, c.family = u → c.engine ≠ .bce) → ∀ h ∈ w.families, h.uid ≠ u)) ∧
    (s.team? t.id = some t → t.arm.wait = some .clock → s.clockLeast t = true → s.mayIssue t = true →
      exec (.logicalClockGrant t.id) s = .next (s.modTeam t.id fun u => u.setArm { u.arm with wait := none })) ∧
    (∀ f n, (s.core core).lastIssue + 4096 ≤ s.tick.toNat → greatestGrower (s.growers core) = some (t, n) →
      s.familyOf? t = some f →
      let rest := sumOf (((s.teamsIn f.uid).filter fun u => u.id != t.id && u.resident).map fun u =>
        f.chargeOf u u.vcnt) + f.nest * f.reserveCharge
      let seen := s.modCore core fun c => { c with lastIssue := s.tick.toNat }
      (registerFile < f.chargeOf t n + rest →
        exec (.teamSwapOut core) s = .next (seen.stop t (.trap 0x04C (BitVec.ofNat 64 n) none))) ∧
      (f.chargeOf t n + rest ≤ registerFile →
        exec (.teamSwapOut core) s = .next
          (((seen.modTeam t.id fun u => { u.pauseTimers s.tick.toNat with
            status := .swappedOut, prefetched := [] }).modCore core fun c =>
              { c with swapOuts := c.swapOuts + 1 }).seatCore core))) ∧
    (∀ f, s.team? t.id = some t → s.familyOf? t = some f → t.status = .swappedOut → s.gangResident t.gang = true →
      f.chargeOf t t.restoredCount ≤ s.freeRf t.core →
      ∃ w u, exec (.swappedTeamRestore t.id) s = .next w ∧ w.team? t.id = some u ∧ u.status = .running ∧
        u.vcnt = t.restoredCount ∧ u.core = t.core ∧ u.slot = t.slot ∧ u.v = t.v ∧ u.s = t.s ∧
        u.arm.pc = t.arm.pc + 4 ∧ { w with teams := s.teams } = s)

/-- R225, R108, R109, R111, R203, R209, R250, R356 and R93. -/
def Obligations.MemorySystemEvents : Prop :=
  ∀ (s : State) (t : Team) (core : Nat),
    let c := s.core core
    (s.team? t.id = some t →
      (∀ sc tail rest, s.pendPubs = (t.id, sc, tail) :: rest → exec (.publicationRecord t.id) s = .next
        (({ s with pendPubs := rest } : State).publishTail t sc tail)) ∧
      (∀ n, t.status ≠ .handler → t.stack = [] → t.hpath.prog = .none → t.path.prog = .acquire n false →
        ∃ w u, exec (.acquireComplete t.id) s = .next w ∧ w.mem = s.mem ∧ w.pubs = s.pubs ∧
          (w.core t.core).seen = max n (s.core t.core).seen ∧ w.team? t.id = some u ∧ u.path.prog = .acquire n true) ∧
      (∀ p, t.completable false = [p] → exec (.loadReturn t.id) s = .next (s.finish t p)) ∧
      (∀ p, t.completable true = [p] → exec (.homeAtomic t.id) s = .next (s.finish t p)) ∧
      (∀ atomic, t.completable atomic ≠ [] → ∃ p w, p ∈ t.completable atomic ∧
        exec (if atomic then .homeAtomic t.id else .loadReturn t.id) s = .next (w.finish t p) ∧
        ∃ d, w = { s with defer := d })) ∧
    (∀ p, s.nextUnsent core = some p → exec (.logDrain core) s = .next (s.sendPub core p)) ∧
    (∀ i f, s.flights[i]? = some f → s.mayApply i f = true →
      ∃ w, exec (.homeApply i) s = .next w ∧ w.mem = (s.applyEntry f.entry).mem ∧
        w.poison = (s.applyEntry f.entry).poison ∧ w.flights = s.flights.eraseIdx i) ∧
    (∃ w, exec (.logAck core) s = .next w ∧ (w.core core).log = c.log.filter (fun e => e.state != .applied) ∧
      w.mem = s.mem ∧ ∀ n, n ≠ core → w.core n = s.core n) ∧
    (let n := min (c.ringCount - spillAbove) (spillEntries - c.spillCount)
     exec (.logSpill core) s = .next (s.putCore (if n = 0 then c else { c with log := spillOldest n c.log }))) ∧
    (∀ p rest, c.mxeAdmitted = true → c.passes = p :: rest → exec (.mxePass core) s = .next
      ((s.putCore { c with passes := rest, mxeLast := s.tick.toNat }).applyPass core p)) ∧
    (c.mxeAdmitted = true → c.passes = [] → c.mxeLast + 2048 ≤ s.tick.toNat →
      exec (.mxeIdle core) s = .next (s.putCore { c with mxeAdmitted := false })) ∧
    (s.mxeWaiting = [core] → s.rampAt = [] → s.thermal.throttled = false →
      ∃ w, exec .mxeAdmission s = .next w ∧ (w.core core).mxeAdmitted = true ∧ (w.core core).mxeAsked = false ∧
        w.rampAt = [s.tick.toNat] ∧ w.mem = s.mem) ∧
    ∀ (g : Gang) (tenant : BitVec 8) (va : Word) (acc : AccKind) (sys : Bool),
      s.walker core tenant = some g → (∀ x ∈ c.tc, x.covers tenant (devOf va) (localOf va) = false) →
      let ctx : TrCtx :=
        { core := some core, tenant := tenant, root := (g.ttbase.extractLsb' 16 32).toNat, en := true, sys := sys }
      exec (.translationWalk core tenant va acc sys) s = .next (s.translate ctx acc va).2

/-- R64, R297, R302, R308, R374, R375, R380 and R387. -/
def Obligations.TrapsTimersAndPreemption : Prop :=
  ∀ (s : State) (t : Team) (gang : Nat),
    let now := s.tick.toNat
    let company := s.companyOf gang
    (s.team? t.id = some t →
      (∀ i rest, t.status = .waitingBank i → (s.core t.core).owner = none → (s.core t.core).waiting = t.id :: rest →
        s.gangResident t.gang = true →
        ∃ w u, exec (.trapEntry t.id) s = .next w ∧ w.team? t.id = some u ∧ (w.core t.core).waiting = rest ∧
          (w.core t.core).owner = some t.id ∧ (w.core t.core).epc = i.epc ∧ (w.core t.core).eaddr = i.eaddr ∧
          (w.core t.core).emask = i.emask ∧ (w.core t.core).cause = i.cause.setWidth 64 ∧ w.mem = s.mem ∧
          u.tstat = tstatEnter t.tstat i.dbg ∧
          (i.dbg = false → u.status = .handler ∧ u.arm.pc = handlerAddr (s.core t.core).tvec ∧
            u.arm.mask = maskBelow (min 32 t.size))) ∧
      (let barks (code : BitVec 9) (n : Nat) : State :=
        let u := { t.longestArm with retireAt := now, starveAt := now }
        (s.putTeam u).stop u (.trap code (BitVec.ofNat 64 n) none)
       (∀ p, s.timed t = true → s.period t = some p →
        (p ≤ now - t.retireAt → exec (.watchdogRetireTimeout t.id) s = .next (barks 0x089 (now - t.retireAt))) ∧
        (now - t.retireAt < p → t.starving = true → p ≤ now - t.starveAt →
          exec (.watchdogStarveTimeout t.id) s = .next (barks 0x08A (now - t.starveAt))))) ∧
      (∀ p, t.status = .handler → s.period t = some p → p ≤ now - t.hangAt →
        exec (.handlerHang t.id) s = .next
          (s.haltTeam t.id (t.trapInfo 0x08B (BitVec.ofNat 64 (now - t.hangAt)) t.active t.arm.pc false) true true)) ∧
      (s.stalled t = true → s.mayPreempt (s.companyOf t.gang) = true →
        exec (.logFullPreemption t.id) s = .next
          ((s.modCore t.core fun c => { c with logPreempts := c.logPreempts + 1 }).preempt t.gang))) ∧
    (company ≠ [] → s.mayPreempt company = true →
      exec (.gangPreemption gang) s = .next ((company.foldl State.saveFamily s).tellAway company) ∧
      ∀ g ∈ ((company.foldl State.saveFamily s).tellAway company).gangs, g.family ∈ company → g.saved = true ∧ g.core = none) ∧
    ∀ places, let fams := company.filterMap s.family?
      fams ≠ [] →
      (∀ g ∈ s.gangs, (∃ f ∈ fams, f.uid = g.family) →
        g.saved = true ∧ s.gangAllowed g = true ∧ damagedIn g.image [] = []) →
      s.coresForSaved fams [] = some places →
      exec (.gangRestore gang []) s = .next (places.foldl (fun w p => w.restoreFamily p.1 p.2.1 p.2.2 []) s)

/-- R279, R280, R286 to R292, R218, R264, R117 and R123. -/
def Obligations.EngineAndSceneEvents : Prop :=
  ∀ (s : State) (c : Chan) (r : Run) (chan num : Nat),
    let begun := { r with started := true }
    let executes (i : Instr) (kind : Nat) (body : Chan → Run → List Byte → M CurEntry) : Prop :=
      ∀ bs w1 w2 cur q, s.mayStart c r = true → M.readEntry c r s = .ok (.ok bs) w1 →
        entryFormedFor c.engine bs = true → entryKind bs = kind →
        body c begun bs ((w1.serveChan c).putRun chan begun) = .ok cur w2 →
        ((w2.chan? chan).bind fun d => d.run? r.num) = some q →
        exec i s = .next (w2.putRun chan { q with cur := some cur })
    (s.chan? chan = some c →
      (∀ q rest, c.accept = q :: rest → c.open.length < 64 → q.status = none →
        ∃ w, exec (.runAccept chan) s = .next w ∧ w.mem = s.mem ∧
          w.chan? chan = some { c with issued := c.issued + 1, accept := rest, runs := c.runs ++
            [{ q with num := c.issued + 1, status := none }] } ∧
          ∀ t, s.team? q.team = some t → ∃ u, w.team? q.team = some u ∧ u.en = t.en - 1) ∧
      (c.run? (BitVec.ofNat 64 num) = some r →
        executes (.chainNop chan num) 0 (fun _ _ bs => pure (endsWith bs 0)) ∧
        executes (.copyEntry chan num) 1 copyEntry ∧ executes (.gather chan num) 2 (listEntry false) ∧
        executes (.scatter chan num) 3 (listEntry true) ∧ executes (.drainEntry chan num) 4 drainEntry ∧
        executes (.solve chan num) 5 solveEntry ∧ executes (.loopEntry chan num) 6 loopEntry ∧
        executes (.condEntry chan num) 7 condEntry ∧
        ((s.family? c.family).any (fun f => f.resident) = true → r.cur = none → r.status = none →
          (∀ dst src x limit bs w1, r.kind = .copy dst src x limit → copyDir x = 1 → copyTv x = false → r.fault = none →
            copyLen x ≠ 0 → M.bulkFrom c begun src limit ((s.serveChan c).putChan (c.setRun begun)) = .ok (bs, none) w1 →
            (∀ b ∈ bs, b.2 = false) →
            exec (.bceCopyCommand chan num) s = .next ((w1.scratchWrite (s.partitionOf c).1
              ((s.partitionOf c).2.1 + dst.toNat) (bs.map Prod.fst)).completeRun chan { begun with fault := none } 0)) ∧
          (∀ dst src x limit w, r.kind = .copy dst src x limit → M.performCopy c r dst src x limit (s.serveChan c) = .ok () w →
            exec (.bceCopyCommand chan num) s = .next w) ∧
          (∀ add tile index addr record d w c', r.kind = .drain add tile index addr record →
            let p := Shape64.of record
            M.drainWrite c begun p (s.drainSource c begun tile index p) add r.fault
              ((s.serveChan c).putRun chan begun) = .ok d w →
            (w.drainDone c tile index d.status).chan? chan = some c' →
            exec (.bceDrainCommand chan num) s = .next
              ((w.drainDone c tile index d.status).endCommand c' { begun with fault := d.fault } d.status))) ∧
        (∀ cur, r.cur = some cur →
          (∀ bs, cur.waiting = some bs → s.condHolds c bs = true → exec (.condRetest chan num) s = .next
            (s.putRun chan { r with cur := some { cur with waiting := none } })) ∧
          (∀ bs, cur.waiting = some bs → s.condHolds c bs = false → fieldOf bs 0x10 1 / 2 % 2 = 0 →
            s.familyLives c.family = false → exec (.condRetest chan num) s = .next
              (s.putRun chan { r with cur := some { cur with waiting := none, status := 10 } })) ∧
          (cur.waiting = none → cur.status.toNat < 3 → cur.ends = false → exec (.entryCompletion chan num) s = .next
            ((s.putRun chan { r with cur := none, next := cur.next }).endPieces r.id)) ∧
          (cur.waiting = none → 3 ≤ cur.status.toNat ∨ cur.ends = true → s.mayComplete c r = true →
            exec (.entryCompletion chan num) s = .next (s.completeRun chan r cur.status))))) ∧
    (∀ bs, let target := BitVec.ofNat 64 (fieldOf bs 0x10 8)
      (fieldOf bs 0x24 28 ≠ 0 ∨ fieldOf bs 0x18 4 = 0 ∨ c.chainAddr target = false → loopEntry c r bs s = .ok (endsWith bs 5) s) ∧
      (fieldOf bs 0x24 28 = 0 → fieldOf bs 0x18 4 ≠ 0 → c.chainAddr target = true → s.chan? c.id = some c →
      let count := fieldOf bs 0x18 4
      let strides := (BitVec.ofNat 32 (fieldOf bs 0x1C 4), BitVec.ofNat 32 (fieldOf bs 0x20 4))
      let round := { status := 0, next := target, ends := false, waiting := none }
      (r.loops = [] → 1 < count →
        loopEntry c r bs s = .ok round (s.putRun c.id { r with loops := [(r.next, 1, strides)] })) ∧
      (r.loops = [] → count = 1 → loopEntry c r bs s = .ok (endsWith bs 0) (s.putRun c.id { r with loops := [] })) ∧
      (∀ j st below, r.loops = (r.next, j, st) :: below →
        (j + 1 < count →
          loopEntry c r bs s = .ok round (s.putRun c.id { r with loops := (r.next, j + 1, strides) :: below })) ∧
        (count ≤ j + 1 → loopEntry c r bs s = .ok (endsWith bs 0) (s.putRun c.id { r with loops := below }))) ∧
      ∀ l below, r.loops = l :: below → l.1 ≠ r.next →
        ((∃ x ∈ below, x.1 = r.next) → loopEntry c r bs s = .ok (endsWith bs 5) s) ∧
        ((∀ x ∈ below, x.1 ≠ r.next) → 4 ≤ r.loops.length → loopEntry c r bs s = .ok (endsWith bs 8) s) ∧
        ((∀ x ∈ below, x.1 ≠ r.next) → r.loops.length < 4 → 1 < count →
          loopEntry c r bs s = .ok round (s.putRun c.id { r with loops := (r.next, 1, strides) :: r.loops })))) ∧
    ∀ (scene : Scene) (t : Team), let n := scene.num.toNat
      s.scene? n = some scene → scene.failed = false →
      (∀ b w, b < scene.nbody → s.writeRecord scene.ctx scene (BitVec.ofNat 24 b) = (none, w) →
        exec (.bodyRecordWriteback n b) s = .next w) ∧
      (∀ b w code level at_, b < scene.nbody →
        s.writeRecord scene.ctx scene (BitVec.ofNat 24 b) = (some (.fault code level, at_), w) →
        exec (.bodyRecordWriteback n b) s = .next (w.putScene { scene with failed := true })) ∧
      (∀ rest, s.team? t.id = some t → s.liveDrivers scene = t.id :: rest → scene.result = none →
        s.stepOver scene = true → t.arm.wait = some .step → s.gangResident t.gang = true →
        let clock := if 2 ≤ s.levelOf t then some scene.lastEnd else none
        (∀ w, M.regroup n (t.wakeIf (fun x => x == .step) clock) ((s.putScene { scene with
            drivers := t.id :: rest }).modTeam t.id fun u => u.wakeIf (fun x => x == .step) clock) = .ok () w →
          exec (.cstepRegroup n) s = .next w) ∧
        (scene.evicted = [] → (∀ b, b < scene.nbody → (scene.body (BitVec.ofNat 24 b)).nextKind ≠ .dynamic) →
          ∃ w c', exec (.cstepRegroup n) s = .next w ∧ w.scene? n = some c' ∧ c'.result = some 0 ∧
            c'.step = scene.step + 1 ∧ c'.failed = false))

/-- R311 to R319, R401 and R403. -/
def Obligations.PacketAndQueueEvents : Prop :=
  ∀ (s : State) (q : Queue),
    let n := q.num
    let now := s.tick.toNat
    let starts (i : Instr) (kind : BitVec 8)
        (go : State → Queue → List Byte → Except (BitVec 9) Bool × State) : Prop :=
      ∀ bs w1 w2 r, q.mayRead = true → s.thermal.stopped = false → s.owesGangs n = false →
        let at_ := q.ring + BitVec.ofNat 64 (64 * (q.rd.toNat % 2 ^ q.log2sz))
        (s.showHqs q.tenant at_ 64).hqsRead q.tenant at_ 64 = (some (bs, false), w1) →
        q.badCheck = false →
        let header := BitVec.ofNat 64 (fieldOf bs 0 8)
        header.extractLsb' 0 8 = kind → header.extractLsb' 9 23 = 0 → (header.getLsbD 8 = true ∨ kind = 5 → q.done = q.rd) →
        go w1 q bs = (r, w2) →
        exec i s = .next (match r with
          | .error code => w2.haltQueue n code
          | .ok complete => w2.noteStarted n kind bs complete)
    s.queue? n = some q →
    (∀ db, q.db.toNat < db.toNat → ∀ w, s.descWrite q 0x20 db = (true, w) →
      exec (.queueDoorbell n db) s = .next (w.putQueue { q.beginWait w.tick.toNat with db := db })) ∧
    starts (.nopPacket n) 0 startNop ∧ starts (.launchPacket n) 1 startLaunch ∧ starts (.waitPacket n) 2 startWait ∧
    starts (.levelPacket n) 3 startLevel ∧ starts (.holdPacket n) 4 startHold ∧ starts (.signalPacket n) 5 startSignal ∧
    (∀ (w : State) r kind bs complete, w.queue? n = some r →
      ∃ u, (w.noteStarted n kind bs complete).queue? n = some u ∧ u.rd = r.rd + 1) ∧
    (∀ bs, fieldOf bs 8 56 = 0 → startNop s q bs = (.ok true, s)) ∧
    (∀ bs, launchReserved bs = false → s.launchBad (launchOf q bs) = false → s.groupImpossible (launchOf q bs) = false →
      startLaunch s q bs = (.ok false, { s with
        launches := s.launches ++ [launchOf q bs], jobs := s.jobs.map fun j => j.launched (launchOf q bs) })) ∧
    (∀ p w, q.started = [p] → p.complete = false → s.packetDone q p = (some true, w) →
      exec (.packetCompletion n) s = .next ((w.afterPacket q p).finishPacket n p.index)) ∧
    (q.slot = none → s.hasWork q = true → (∀ r ∈ s.queues, r.slot ≠ none → s.staysBound r = true) →
      (∀ k, k < 64 → (∀ r ∈ s.queues, r.slot ≠ some k) → (∀ j, j < k → ∃ r ∈ s.queues, r.slot = some j) →
        exec (.queueBind n) s = .next (s.putQueue (q.bindTo k now))) ∧
      ((∀ k, k < 64 → ∃ r ∈ s.queues, r.slot = some k) → ∀ v k, s.displaced q = some v → v.slot = some k →
        exec (.queueBind n) s = .next ((s.putQueue (v.unbind now)).putQueue (q.bindTo k now)))) ∧
    (q.slot ≠ none → q.sliceOver = false → q.boundAt + q.slice.toNat * 1000 ≤ now →
      exec (.sliceExpiry n) s = .next (s.putQueue { q with sliceOver := true })) ∧
    (q.slot = none → s.hasWork q = true → q.prio.toNat + q.raised < 3 →
      q.waitFrom + 8 * (q.slice.toNat * 1000) * (q.raised + 1) ≤ now →
      exec (.priorityAgeing n) s = .next (s.putQueue { q with raised := q.raised + 1 })) ∧
    (∀ l w, s.thermal.stopped = false → s.placingQueues = [q] → s.nextLaunch n = some l → s.tooLate l = false →
      s.placeLaunch l = some w →
      exec .gangPlacement s = .next { w with lastQueueSlot := q.slot.getD w.lastQueueSlot }) ∧
    (∀ gr at_, s.group? gr.uid = some gr → gr.startAt = some at_ → at_.toNat ≤ now → s.inBound = true →
      let restart (t : Team) : Team :=
        if gr.members.contains t.gang then { t with retireAt := now, starveAt := now } else t
      let w := s.putGroup { gr with startAt := none }
      exec (.groupStart gr.uid) s = .next { w with teams := w.teams.map restart }) ∧
    (∀ l, s.missing n = some l → exec (.groupMissedStart n) s =
      .next (((s.withdraw l).haltQueue n 0x1A3).tellAll (.missedStart l.tag l.tick))) ∧
    (∀ l, l.queue = n → l ∈ s.launches → s.unstarted l = true → l.isPlaced = true → s.misleveled l = true →
      ∃ r, s.missing n = some r ∧ exec (.groupMissedStart n) s =
        .next (((s.withdraw r).haltQueue n 0x1A3).tellAll (.missedStart r.tag r.tick))) ∧
    ∀ l tag tick, (s.launches.find? fun m => s.unstarted m && m.tag == tag && m.tick == tick) = some l →
      exec (.missedStartReport tag tick) s =
        .next (if s.misleveled l then (s.withdraw l).haltQueue l.queue 0x1A3 else s.withdraw l)

/-- R95, R300, R310, R331, R351, R352, R354, R374, R382, R385, R402 and R428. -/
def Obligations.ManagementRequests : Prop :=
  ∀ (s : State) (num : Nat) (tenant : BitVec 8) (a : Word),
    let ten := s.tenant tenant
    let gives (i : Instr) (w : State) : Prop := exec i s = .next (w.complete 0)
    let grants (i : Instr) (w : State) : Prop := exec i s = .next (w.sealed 0)
    4 ≤ s.bringup →
    (7 ≤ s.bringup → num < 16384 → s.queue? num = none → ∀ bs w, s.hqsRead tenant a 64 = (some (bs, false), w) →
      (w.queueFlaw tenant bs = false → gives (.queueRegistration num tenant a) (w.addQueue (queueOf num a bs))) ∧
      (w.queueFlaw tenant bs = true → ∃ u, exec (.queueRegistration num tenant a) s = .next u ∧ u.queues = s.queues ∧
        u.mailbox = 1 :: s.mailbox)) ∧
    (∀ q, s.queue? num = some q →
      (q.halt = true ∨ (q.db.toNat ≤ q.rd.toNat ∧ q.started = []) →
        let freed (g : Gang) : Gang := if g.queue == some num then { g with queue := none, packet := none } else g
        gives (.queueDeregistration num) { s with
          queues := s.queues.filter fun r => r.num != num, launches := s.launches.filter fun l => l.queue != num
          gangs := s.gangs.map freed }) ∧
      (exec (.queueRecovery num) s =
        .next (((s.putQueue { q with halt := false, code := 0 }).complete 0).descSet { q with halt := false, code := 0 }
          0x28 0)) ∧
      ((∀ j ∈ s.jobs, j.queue ≠ num) → grants (.jobOpen num) { s with jobs := s.jobs ++
        [{ queue := num, debug := (s.tenant q.tenant).debug, upd := false, chk := false, level := none, openAt := s.tick }] }) ∧
      ∀ j base len dest db w0 bs bad w1 w2 level, (s.jobs.find? fun j => j.queue == num) = some j →
        s.hqsWord q.tenant (q.desc + 0x20) = (some db, w0) → max q.db.toNat db.toNat ≤ q.done.toNat →
        w0.signIndex < 2 ^ 40 → j.level = some level →
        ({ w0 with jobs := w0.jobs.filter fun k => k.queue != num } : State).hqsRead q.tenant (BitVec.ofNat 64 base) len =
          (some (bs, bad), w1) →
        let record := j.record q level w1.tick (shake256 bs) w1.measures
        let sign := (List.range 9893).map (Config.signByte w1.signIndex (shake256 record))
        ({ w1 with signIndex := w1.signIndex + 1 } : State).hqsWrite q.tenant (BitVec.ofNat 64 dest) (record ++ sign) =
          (true, w2) →
        grants (.jobClose num base len dest) w2) ∧
    (num < 16384 → s.queue? num = none → gives (.checkRecordRegistration num a)
      { s with checkRecords := (num, a) :: s.checkRecords.filter fun p => p.1 != num }) ∧
    gives (.tenantRootRegistration tenant a) (s.putTenant { ten with root := some a }) ∧
    (∀ es, gives (.entryListRegistration tenant es)
      (s.putTenant { ten with entries := ten.entries ++ es.filter fun e => !ten.entries.contains e })) ∧
    (num = 0 ∨ (24 ≤ num ∧ num ≤ 40) → gives (.watchdogExponent tenant num) (s.putTenant { ten with wde := num })) ∧
    (¬ (num = 0 ∨ (24 ≤ num ∧ num ≤ 40)) → exec (.watchdogExponent tenant num) s = .next (s.complete 1)) ∧
    (∀ bs w, s.hqsRead tenant a 64 = (some (bs, false), w) → w.faultQueueFlaw tenant bs = false →
      let q := faultQueueOf a bs (w.tenant tenant).queue
      let w1 := w.flagFaultQueue tenant q
      let w2 := (w1.hqsWrite tenant (a + 0x10) (bytesOf 8 q.wr.toNat)).2
      let w3 := (w2.hqsWrite tenant (a + 0x30) (bytesOf 8 q.ackRd.toNat)).2
      exec (.faultQueueRegistration tenant a) s = .next ((w3.complete 0).flushFaults tenant)) ∧
    (∀ q w, ten.queue = some q → s.hqsWrite tenant (q.desc + 0x18) (bytesOf 8 a.toNat) = (true, w) →
      exec (.faultQueueConsume tenant a) s = .next ((w.setFaultQueue tenant { q with rd := a }).flushFaults tenant)) ∧
    (∀ q w1 w2 word, ten.queue = some q → (s.forceBelow s.pubSeq).acksDue tenant = (some true, w1) →
      w1.hqsWord tenant (q.ackRing + BitVec.ofNat 64 (8 * (q.ackRd.toNat % 2 ^ q.log2sz))) = (some word, w2) →
      exec (.ackWord tenant) s = .next
        ((w2.processAck tenant q word).hqsWrite tenant (q.desc + 0x30) (bytesOf 8 (q.ackRd + 1).toNat)).2) ∧
    (ten.created = false → grants (.tenantCreate tenant) (s.putTenant { ten with created := true })) ∧
    (ten.created = true → ∃ w, exec (.tenantDelete tenant) s = .next w ∧ (w.tenant tenant).created = false ∧
      (w.tenant tenant).debug = false ∧ w.teams = s.teams ∧ w.mem = s.mem ∧ w.lodestarBox = 0 :: s.lodestarBox ∧
      ∀ h ∈ w.held, h.2 = .tenant tenant → h.1 / 2 ^ 47 ≠ s.dev.toNat) ∧
    (ten.created = true → ∃ w, exec (.debugAdmission tenant true) s = .next w ∧ (w.tenant tenant).debug = true ∧
      w.mem = s.mem ∧ w.lodestarBox = 0 :: s.lodestarBox) ∧
    grants (.debugAdmissionEnd tenant) (s.putTenant { ten with debug := false }) ∧
    (s.functionExists num = true → gives (.registerWrite (.functionTenant num) a)
      { s with functions := (num, a.setWidth 8) :: s.functions.filter fun f => f.1 != num }) ∧
    (∀ dev : BitVec 10, dev ≠ s.dev → dev.toNat < 576 → gives (.registerWrite (.remoteRoot dev tenant) a) { s with
      remoteRoots := (dev, tenant, a &&& 0x0000FFFFFFFF0001) ::
        s.remoteRoots.filter fun r => !(r.1 == dev && r.2.1 == tenant) }) ∧
    ∀ t, s.team? t.id = some t → t.gone = false → (s.tenant (s.tenantOf t)).debug = true →
      exec (.debugStopRequest t.id) s = .next (s.modTeam t.id fun u => { u with dbgctl := u.dbgctl ||| 1 }) ∧
      (t.status = .debugStop →
        (t.ld = 0 → t.ap = 0 → t.en = 0 → t.xl = 0 → exec (.debugContinue t.id) s = .next (s.returnTrap t.id) ∧
          exec (.debugStep t.id) s =
            .next ((s.returnTrap t.id).modTeam t.id fun u => { u with stopNext := true })) ∧
        (∀ r : BitVec 6, r.toNat < t.scnt → exec (.registerWrite (.teamScalar t.id r) a) s =
          .next (s.modTeam t.id fun u => { u with s := u.s.set r.toNat a })) ∧
        ∀ r : BitVec 4, exec (.registerWrite (.bankScalar t.id r) a) s =
            .next (s.modCore t.core fun c => { c with k := c.k.set r.toNat a }) ∧
          exec (.registerWrite (.teamMatrix t.id r) a) s =
            .next (s.modTeam t.id fun u => { u with om := u.om.set r.toNat a }) ∧
          exec (.registerWrite (.teamNarrow t.id r) a) s =
            .next (s.modTeam t.id fun u => { u with nf := u.nf.set r.toNat (a.setWidth 32 &&& nfFields) }))

/-- R337 to R348, R412 to R414 and R418. -/
def Obligations.HostAndLinkEvents : Prop :=
  ∀ (s : State),
    let now := s.tick.toNat
    (5 ≤ s.bringup → s.hostLink.isSome = true →
     (s.hostMode = .cxl3 →
      (∀ pa bs, pa + bs.length ≤ hbmBytes →
        exec (.hostWrite (.physical pa) bs) s = .next (s.homeWrite (memKey s.dev.toNat pa) bs)) ∧
      ∀ pa n, pa + n ≤ hbmBytes →
        let key := memKey s.dev.toNat pa
        let out := s.homeRead key n
        exec (.hostRead (.physical pa) n) s =
          .next { out.2.2.cachedBy key n with hostReads := (.physical pa, out.1) :: out.2.2.hostReads }) ∧
    (∀ off bs, off + bs.length ≤ ringBytes → exec (.hostWrite (.management off) bs) s = .next
      { s with mailRings := Memory.writeBytes s.mailRings off bs }) ∧
    (∀ off n, off + n ≤ ringBytes → exec (.hostRead (.management off) n) s = .next
      { s with hostReads := (.management off, Memory.readBytes s.mailRings off n) :: s.hostReads }) ∧
    (∀ off bs, off + bs.length ≤ bar4Bytes → exec (.hostWrite (.vectors off) bs) s = .next
      { s with vectorTable := Memory.writeBytes s.vectorTable off bs }) ∧
    (∀ off n, off + n ≤ bar4Bytes → exec (.hostRead (.vectors off) n) s = .next
      { s with hostReads := (.vectors off, Memory.readBytes s.vectorTable off n) :: s.hostReads }) ∧
    (∀ k off bs tenant va, s.through k off bs.length = some (tenant, va) →
      exec (.hostWrite (.aperture k off) bs) s = .next (s.hqsWrite tenant va bs).2) ∧
    (∀ k off n tenant va bs bad w, s.through k off n = some (tenant, va) → s.hqsRead tenant va n = (some (bs, bad), w) →
      exec (.hostRead (.aperture k off) n) s = .next { w with hostReads := (.aperture k off, bs) :: w.hostReads })) ∧
    (5 ≤ s.bringup → ∀ port, s.functionExists port = true → (s.rootPorts[port / 4]?).any (fun p => p.2.isSome) = true →
     (∀ va write bs, (∀ f ∈ s.functions, f.1 ≠ port) →
      exec (.rootPortDma port va write bs) s = .next { s with dmaRefused := s.dmaRefused + 1 }) ∧
     ∀ tenant va bs parts w, (s.functions.find? fun f => f.1 == port) = some (port, tenant) →
      s.translateRange { s.hqsCtx tenant with sys := false } .store va bs.length = (.ok parts, w) →
      exec (.rootPortDma port va true bs) s = .next (w.writeParts parts bs)) ∧
    (∀ x : Flit, s.admits x = true →
      let f := s.flow x.flow
      let w := s.noteFlit x.port x.lane (!x.good)
      (x.good = false → exec (.flitReceive x) s = .next w) ∧
      (x.good = true →
        ((f.high - x.num).toNat < 2 ^ 31 → exec (.flitReceive x) s = .next (w.answer x.flow x.num
          (((f.responses.find? fun r => r.1 == x.num).map fun r => r.2).getD []))) ∧
        (x.num = f.high + 1 → f.window = [] → exec (.flitReceive x) s = .next
          (State.performHeld 1 x.flow (w.putFlow { f with window := [(x.num, x.op)] }))) ∧
        (1024 < (x.num - f.high).toNat → (x.num - f.high).toNat ≤ 2 ^ 31 →
          exec (.flitReceive x) s = .next w))) ∧
    (∀ id num, let f := s.flow id
      let kept := { f with
        pending := f.pending.filter fun r => !numLe r.num num, responses := f.responses.filter fun r => !numLe r.1 num }
      exec (.flowAck id num) s = .next ((s.putFlow kept).sendQueued id) ∧
      (f.queued = [] → exec (.flowAck id num) s = .next (s.putFlow kept))) ∧
    (∀ id r, ((s.flow id).pending.find? fun r => !r.dead && decide (r.since + 4000 ≤ now)) = some r →
      ∃ w, exec (.resendTimeout id) s = .next w ∧ w.mem = s.mem ∧ w.teams = s.teams ∧
        (id.cls = 1 → 16 ≤ r.resends → w = s.putFlow { s.flow id with
          pending := (s.flow id).pending.map fun p => if p.num == r.num then { r with dead := true } else p })) ∧
    (∀ port lane, (s.port port).down = false → port < 36 → lane < 5 → lane ∉ (s.port port).retiredLanes →
      (s.port port).worn lane now = true →
      let p := { s.port port with retiredLanes := (s.port port).retiredLanes ++ [lane] }
      (p.spareUsed = false → exec (.linkLaneRetire port lane) s =
        .next ((s.putPort { p with spareUsed := true }).event 4 6 port (p.dropsOf lane))) ∧
      (p.spareUsed = true → p.narrowed = false → exec (.linkLaneRetire port lane) s =
        .next ((s.putPort { p with narrowed := true }).event 4 7 port (p.dropsOf lane))) ∧
      (p.spareUsed = true → p.narrowed = true → ∃ w, exec (.linkLaneRetire port lane) s = .next w ∧
        (w.port port).down = true ∧
        w.routes = s.routes.map fun r => (r.1, r.2 &&& ~~~(BitVec.ofNat 36 (2 ^ port))))) ∧
    (∀ dev cls version used, (s.linkKeys.find? fun k => k.1 == dev && k.2.1 == cls) = some (dev, cls, version, used) →
      2 ^ 32 ≤ used.toNat → exec (.linkKeyReplace dev cls) s = .next { s with
        linkKeys := (dev, cls, version + 1, 0) :: s.linkKeys.filter fun q => !(q.1 == dev && q.2.1 == cls) }) ∧
    (∀ dev count, 6 ≤ s.bringup → s.inDomain = false → dev.toNat < 576 → s.unused = true →
      ∃ w, exec (.deviceIdAssignment dev count) s = .next w ∧ w.dev = dev ∧ w.inDomain = true ∧ w.tick = count ∧
        w.linkKeys = [] ∧ w.flows = [] ∧ (∀ n, (w.core n).tc = []) ∧ w.mailbox = 0 :: s.mailbox) ∧
    (∀ dev mask, 6 ≤ s.bringup → dev.toNat < 576 → exec (.routeTableWrite dev mask) s = .next
      (({ s with routes := (dev, mask) :: s.routes.filter fun r => r.1 != dev } : State).complete 0)) ∧
    (∀ count, ∃ w, exec (.meridianTimingMessage count) s = .next w ∧ w.mem = s.mem ∧
      w.tick = s.tick ∧ w.holdBack = now - count.toNat ∧ w.catchUp = count.toNat - now ∧
      (w.inBound = true ↔ now ≤ count.toNat + 5 ∧ count.toNat ≤ now + 5)) ∧
    (s.inDomain = true → s.inBound = true → s.lastTiming.toNat + 100000 ≤ now →
      exec .meridianOutOfBound s = .next (({ s with inBound := false } : State).event 7 19 0 0)) ∧
    (6 ≤ s.bringup → exec .domainDissolution s =
      .next (({ s.newKeys with inDomain := false, inBound := true, holdBack := 0, catchUp := 0 } : State).complete 0)) ∧
    (now + 2 < 2 ^ 64 → now ≤ s.ticked.tick.toNat ∧ (s.holdBack = 0 → now < s.ticked.tick.toNat))

/-- R349, R353, R357 to R359, R409 to R411 and R415 to R417. -/
def Obligations.PlatformEvents : Prop :=
  ∀ (s : State) (n : Nat),
    let h := s.thermal
    let c := s.core n
    (exec (.powerSample n) s = .next { s with thermal := { h with watts := n, overPower := decide (3000 ≤ n) } }) ∧
    (1 ≤ s.bringup → n < 192 → ∀ f, exec (.monitorSample (.ring n) f) s = .next (s.modCore n fun c => { c with ring := f })) ∧
    (∀ x deciC, 1 ≤ s.bringup → sensorExists x = true → (∀ k, x ≠ .ring k) →
      ∃ w, exec (.monitorSample x deciC) s = .next w ∧ w.mem = s.mem ∧
      w.teams = s.teams ∧ (1150 ≤ deciC → w.thermal.stopped = true) ∧ (950 ≤ deciC → x ∈ w.thermal.warned) ∧
      (deciC < 900 → x ∉ w.thermal.warned) ∧
      ∀ core, x = .core core → (1050 ≤ deciC → (w.core core).closed = true) ∧
        (deciC < 900 → (w.core core).closed = false)) ∧
    (n < 192 → exec (.voltageDroop n) s = .next (s.modCore n fun c => { c with droops := c.droops + 1 })) ∧
    (s.bringup = 0 → s.bringupFailed = false →
      ∀ cfg : BringUp,
      (cfg.failAt = none → ∃ w, exec (.bringUp cfg) s = .next w ∧ w.bringup = 7 ∧ w.bringupFailed = false ∧ w.mem = s.mem ∧
        w.hostMode = cfg.hostMode ∧ w.hostLink = trainTo 5 7 cfg.hostGen ∧ w.nextStart = s.tick.toNat ∧
        (∀ k, k < 36 → (w.port k).trained = trainTo 2 3 (cfg.linkGens.getD k 0)) ∧
        ∀ xs, cfg.images = some xs → s.measures.length = 8 →
          ∀ k, k < 8 → w.measures[k]? = some (shake256 (xs.getD k []))) ∧
      ∀ k, 1 ≤ k → k ≤ 7 → cfg.failAt = some k → ∃ w, exec (.bringUp cfg) s = .next w ∧ w.bringup = k - 1 ∧
        w.bringupFailed = true ∧ w.lodestarBox = BitVec.ofNat 32 k :: s.lodestarBox) ∧
    (exec .powerLoss s = .next { State.reset with
      agenda := s.agenda, defer := s.defer, free := s.free, signIndex := s.signIndex, upsets := s.upsets }) ∧
    (∀ f team p q, s.family? f.uid = some f → f.mismatch = some (team, p, q) →
      let resume (w : State) : State := (w.teamsIn f.uid).foldl (fun w t => w.resumeTeam t.id) w
      let settled := resume (s.putFamily { f with mismatch := none })
      let detail := f.logical.toNat
      let shadow := f.shadowCore.getD f.core
      let lost (code : BitVec 9) : State := (settled.haltFamily f.uid code).event 0 5 f.core detail
      (∀ third, s.votable f.uid = false → exec (.thirdRunVote f.uid third) s = .next (lost 0x1C4)) ∧
      (s.votable f.uid = true →
        (∀ d, s.thirdDigest f.uid team = some d →
          exec (.thirdRunVote f.uid none) s = exec (.thirdRunVote f.uid (some d)) s) ∧
        (s.thirdDigest f.uid team = none → exec (.thirdRunVote f.uid none) s = .next (lost 0x1C4)) ∧
        exec (.thirdRunVote f.uid (some p)) s =
          .next (resume (((s.loseVote shadow).thirdForShadow f shadow).event 0 3 shadow detail)) ∧
        (p ≠ q → exec (.thirdRunVote f.uid (some q)) s =
          .next (resume (((s.loseVote f.core).thirdForPrimary f shadow).event 0 4 f.core detail))) ∧
        ∀ x, x ≠ p → x ≠ q → exec (.thirdRunVote f.uid (some x)) s = .next (lost 0x1C3))) ∧
    (n < 192 →
      (c.leaving = false → c.worn = true → exec (.coreOutOfService n) s = .next (s.putCore { c with leaving := true })) ∧
      (c.leaving = true → s.occupied n = false →
        let marked := { s with coresRetired := s.coresRetired ++ [(n / 48, c.phys)] }
        let count := (marked.coresRetired.filter fun r => r.1 == n / 48).length
        (∀ p, marked.spareFor (n / 48) = some p → exec (.coreOutOfService n) s = .next
          ((marked.putCore { c with
            phys := p, leaving := false, slow := false, corrected := [], halts := [], lostVotes := [] }).event 0 9 n count)) ∧
        (marked.spareFor (n / 48) = none → exec (.coreOutOfService n) s = .next
          ((marked.putCore { c with leaving := false, inService := false }).event 0 10 n count)))) ∧
    (∀ row, n < 96 → s.rowWorn n row = true →
      let w := { s with rowsSpared := s.rowsSpared ++ [(n, row)]
                        rowErrors := s.rowErrors.filter fun e => !(e.1 == n && e.2.1 == row) }
      exec (.hbmRowSpare n row) s = .next (w.event 5 11 n (w.sparedIn n))) ∧
    (n < 96 → n ∉ s.channelsAsked → n ∉ s.channelsRetired → exec (.hbmChannelRetireRequest n) s =
      .next (({ s with channelsAsked := s.channelsAsked ++ [n] } : State).event 5 12 n (s.sparedIn n))) ∧
    (n ∈ s.channelsAsked → ∃ w, exec (.hbmChannelRetire n) s = .next w ∧ w.channelsRetired = s.channelsRetired ++ [n] ∧
      n ∉ w.channelsAsked ∧ w.lodestarBox = 0 :: s.lodestarBox ∧ w.mem = s.mem) ∧
    (∀ way, n < 4 → (n, way) ∉ s.waysRetired → s.wayWorn n way = true →
      let w := { s with waysRetired := s.waysRetired ++ [(n, way)]
                        wayErrors := s.wayErrors.filter fun e => !(e.1 == n && e.2.1 == way) }
      exec (.dieCacheWayRetire n way) s = .next (w.event 6 14 n (w.waysRetired.filter fun x => x.1 == n).length)) ∧
    (∀ k : BitVec 5, k ∉ s.enginesRetired → 3 ≤ s.repeatsOf k → ∃ w, exec (.solverEngineRetire k) s = .next w ∧
      w.enginesRetired = s.enginesRetired ++ [k] ∧ (∀ f ∈ w.factors, f.1 ≠ k) ∧ w.repeatsOf k = 0 ∧ w.mem = s.mem) ∧
    (4 ≤ s.bringup → ∀ (slot : BitVec 3) image,
      (exec (.firmwareUpdate slot image false) s = .next (s.sealed 1)) ∧
      ∃ w, exec (.firmwareUpdate slot image true) s = .next w ∧ w.measures = s.measures.set slot.toNat (shake256 image) ∧
        (∀ j ∈ w.jobs, j.upd = true) ∧ w.lodestarBox = 0 :: s.lodestarBox ∧ w.mem = s.mem)

/-- R173, for pushes by `bdiv` and by `brtab`. -/
def Obligations.PushedEntriesStartWithArmZero : Prop :=
  ∀ (s s' : State) (t u : Team) (i : Instr),
    s.issuer? = some t → ((∃ off joff ms, i = .bdiv off joff ms) ∨ ∃ va, i = .brtab va) →
    exec i s = .next s' → s'.team? t.id = some u → t.stack.length < u.stack.length →
    ∃ e : Entry, u.stack = e :: t.stack ∧ e.sel = false ∧ u.arm = e.arm0

/-- The encodings of R150 to R160: `decodeBytes` and `encode` are inverse to each other on well-formed instructions. -/
def Obligations.DecodingAnEncodingGivesItBack : Prop :=
  (∀ (i : Instr) (bs rest : List Byte),
    i.WellFormed → encode i = some bs → decodeBytes (bs ++ rest) = .ok (i, rest)) ∧
  (∀ (i : Instr) (bs rest : List Byte),
    decodeBytes bs = .ok (i, rest) → i.WellFormed ∧ ∃ b, encode i = some b ∧ bs = b ++ rest)

/-- The form of memory is the model's (log 3): equal contents are equal data after every step, whatever it does. -/
def Obligations.EveryStepKeepsTheMemoriesCanonical : Prop :=
  ∀ s s' : State, s.Canonical → step s = .next s' → s'.Canonical

/-- The invariant holds at reset. That an unlisted byte reads 0 is the model's choice (log 3). -/
def Obligations.ResetMemoriesAreCanonical : Prop :=
  State.reset.Canonical ∧ (∀ a, Memory.read State.reset.mem a = 0) ∧
    ∀ n a, Memory.read (State.reset.core n).scratch a = 0

/-- R38, R50, R51, R74, R98, R102, R266, R294, R296 and R297: the values that the spec gives for the start. -/
def Obligations.WhatStartsHoldsItsStartingValues : Prop :=
  let r := State.reset
  r.bringup = 0 ∧ r.teams = [] ∧ r.gangs = [] ∧ r.queues = [] ∧ r.chans = [] ∧ r.scenes = [] ∧ r.cur = none ∧
  (∀ n, let c := r.core n
    c.tvec = 0 ∧ c.cause = 0 ∧ c.owner = none ∧ c.waiting = [] ∧ c.latches = [] ∧ c.full = [] ∧ c.log = [] ∧ c.lsn = 0 ∧
      c.spawnq = [] ∧ c.tc = []) ∧
  ∀ id g core slot index role size vcnt scnt pc keys act tick,
    let t := Team.make id g core slot index role size vcnt scnt pc keys act tick
    let zero : VReg := { tag := .fmt .b32, shape := .uniform 0, poison := 0 }
    (∀ q : Nat, q < 64 → t.v[q]? = some zero) ∧ (∀ q : Nat, q < 8 → t.o[q]? = some zero) ∧
    (∀ q : Nat, q < 64 → t.s[q]? = some 0) ∧ (∀ q : Nat, q < 8 → t.m[q]? = some 0) ∧
    (∀ q : Nat, q < 16 → t.nf[q]? = some 0x000107B4) ∧ (∀ q : Nat, q < 16 → t.om[q]? = some 0) ∧
    (∀ q : Nat, q < 8 → t.q[q]? = some Stream.empty) ∧
    t.pathq = 0x40 ∧ t.xfill = 0 ∧ t.vacant = 0 ∧ t.mxs = 0 ∧ t.logt = 0 ∧ t.dbgctl = 0 ∧ t.stack = [] ∧ t.ld = 0 ∧
    t.ap = 0 ∧ t.en = 0 ∧ t.xl = 0 ∧ t.arm.pc = pc ∧ t.arm.mask = act ∧ t.retired = 0

/-- R150, R161, R321 and R370: what a step adds around `exec` is named: the parcels fetched ahead are used, latches are
dropped before a word that stands in no run, the turn is accounted for after it, the copies of paired families follow,
and Meridian ticks. The agenda and the errors to come are the model's own (log 1, log 63). -/
def Obligations.StepRunsTheInstructionAtThePc : Prop :=
  ∀ (s : State),
    (∀ e es, s.agenda = e :: es → step s = match exec e { s with agenda := es } with
      | .next s' => .next (s.shadowed s').ticked
      | o => o) ∧
    ∀ t : Team, s.agenda = [] → s.upsets = [] → s.copies = [] → s.cur.isSome → s.issuer? = some t → s.mayIssue t = true →
      s.timedOut t = none → t.switchDue = false → s.quantumOut t = false → (t.stopAsked = false ∨ s.runOpen t = true) → t.arm.wait ≠ some .register →
      (∀ w two u, M.fetch t s = .ok (w, two) u →
        (∀ d, decodeFetched (w.extractLsb' 0 16) (w.extractLsb' 16 16) = .ok d →
          step s = match exec d.toInstr ((u.useFetched t).beforeWord t d) with
            | .next s' => .next (s.shadowed (s'.account t d)).ticked
            | o => o) ∧
        (∀ r, decodeFetched (w.extractLsb' 0 16) (w.extractLsb' 16 16) = .error r →
          step s = .next (s.shadowed ((u.useFetched t).stop t (.trap r.detail (w.setWidth 64) none)).endTurn).ticked)) ∧
      (t.prefetched = [] → s.staged = [] → s.poison = [] →
        let holds (pc : Word) (b0 b1 : Byte) : Prop := ∃ k, s.translateRange (s.teamCtx t) .fetch pc 2 = (.ok [(k, 2)], s) ∧
          Memory.readBytes s.mem (bareKey k) 2 = [b0, b1] ∧ s.behind (s.core t.core).seen (granulesOf (bareKey k) 2) = false ∧
          ∀ g ∈ granulesOf (bareKey k) 2, (s.holder g).opens (tenantOfKey k) = true
        ∀ b0 b1 b2 b3, holds t.arm.pc b0 b1 →
          (b0.getLsbD 0 = false → M.fetch t s = .ok ((b1 ++ b0 : BitVec 16).setWidth 32, false) s) ∧
          (b0.getLsbD 0 = true → holds (t.arm.pc + 2) b2 b3 →
            M.fetch t s = .ok ((b3 ++ b2 ++ b1 ++ b0 : BitVec 32), true) s))

/-- The encoding examples of 08_encoding.md, 10_isa_vector.md, 11_isa_memory_sync.md, 13_isa_matrix_stream.md,
14_isa_islands_engines.md and 15_system_traps.md, and the traps of 08_encoding.md's table of outcomes. -/
def Obligations.WordsOfTheSpecDecode : Prop :=
  decodeTableWord 16 0x90E2 = some (.addF32Short 18 7) ∧
  decodeTableWord 32 0x04043603 = some (.fmaF32 (.v 2) (.v 1) 3 false 0) ∧
  decodeTableWord 32 0x841C7003 = some (.addF32 (.o 2) (.v 7) 7 false 0) ∧
  decodeTableWord 32 0x40428A41 = some (.ld 4 (.v 2) 5 .f32 4) ∧
  decodeTableWord 32 0x1008541D = some (.cvt (.fmt .bf16) false (.v 2) 5 false 4) ∧
  decodeTableWord 32 0xE80C3119 = some (.bitXor (.imm 20) (.v 3) 3 false) ∧
  decodeTableWord 32 0x0404111B = some (.cmp (.v 2) (.v 1) .f32 1 .lt) ∧
  decodeTableWord 32 0x02184523 = some (.rngN32 (.v 1) (.s 6) 4 false) ∧
  decodeTableWord 32 0x100046D5 = some (.mmSp (.fmt .bf16) 0 0 1 6) ∧
  decodeTableWord 32 0x020441E1 = some (.clink true (.s 1) 4) ∧
  decodeTableWord 32 0x2A083063 = some (.enq (.se 13) (.s 2) 3) ∧
  decodeTableWord 32 0x100400EF = some (.crw .tvec (.s 1) 0) ∧
  decodeTableWord 32 0xFFFFFFFF = some (.hint 31 0xFFFFF) ∧
  decodeTableWord 32 0x1008561D = none ∧ decodeTableWord 32 0x6008541D = none ∧ decodeTableWord 32 0x01400003 = none

end
end

