-- ==== Sys2Proof/Laws/Bytes.lean ====
section
/-!
SUPPORT. Byte lists: numbers and the bytes they are stored as, fields of laid-out records, and what a flit laid out as
R343 says reads as.
-/

namespace Sys2Proof.Machine

@[simp] theorem bytesOf_length (n w : Nat) : (bytesOf n w).length = n := by
  induction n generalizing w with
  | zero => rfl
  | succ n ih => simp [bytesOf, ih]

/-- A number stored in n bytes reads back modulo 2^(8n). -/
@[simp] theorem natOfBytes_bytesOf (n w : Nat) : natOfBytes (bytesOf n w) = w % 2 ^ (8 * n) := by
  induction n generalizing w with
  | zero => simp [bytesOf, natOfBytes, Nat.mod_one]
  | succ n ih =>
    have h : 2 ^ (8 * (n + 1)) = 256 * 2 ^ (8 * n) := by rw [Nat.mul_succ, Nat.pow_add, Nat.mul_comm]
    simp only [bytesOf, natOfBytes, ih, BitVec.toNat_ofNat, h, Nat.mod_mul]

/-- A field that stands behind a record's first bytes. -/
theorem fieldOf_append (a b : List Byte) (off n : Nat) (h : off = a.length) (hb : b.length = n) :
    fieldOf (a ++ b) off n = natOfBytes b := by
  subst h hb
  simp [fieldOf]

/-- A flit laid out with its tag's bytes has 256 bytes, when its payload fits. -/
theorem flitOf_length (id : FlowId) (num : BitVec 32) (subtype : BitVec 2) (payload : List Byte) (tag : BitVec 128)
    (h : payload.length ≤ payloadBytes) : (flitOf id num subtype payload tag).length = flitBytes := by
  simp only [flitOf, flitHeader, flitBytes, payloadBytes, List.length_append, bytesOf_length, List.length_replicate] at h ⊢
  omega

/-- An authentic flit laid out so is good: its CRC holds (R345). -/
theorem good_of_layout (id : FlowId) (num : BitVec 32) (subtype : BitVec 2) (payload : List Byte) (tag : BitVec 128)
    (h : payload.length ≤ payloadBytes) (x : Flit) (hx : x.bytes = flitOf id num subtype payload tag)
    (ha : x.authentic = true) : x.good = true := by
  have hl := flitOf_length id num subtype payload tag h
  simp only [flitBytes] at hl
  simp only [Flit.good, ha, Bool.true_and, beq_iff_eq, hx]
  unfold flitOf at hl ⊢
  simp only [List.length_append, bytesOf_length] at hl
  generalize hbody : flitHeader id num subtype ++ payload ++ List.replicate (payloadBytes - payload.length) 0 ++
    bytesOf 16 tag.toNat = body at hl ⊢
  have hb : body.length = 252 := by
    rw [← hbody]; simp only [List.length_append, bytesOf_length]; omega
  rw [fieldOf_append _ _ _ _ hb.symm (bytesOf_length _ _), List.take_left' hb, natOfBytes_bytesOf]
  exact Nat.mod_eq_of_lt (Config.crc32 body).isLt

end Sys2Proof.Machine
end

