-- ==== Sys2Proof/Laws/Memory.lean ====
section
/-!
SUPPORT. The canonical form of memory: every operation on bytes keeps it, and every operation on homes and scratchpads
keeps the memories of the state canonical (log 3).
-/

namespace Sys2Proof.Machine

/-! ## Bytes -/

@[simp] theorem Memory.read_nil (a : Nat) : Memory.read [] a = 0 := rfl

@[simp] theorem Memory.wf_nil : Memory.wf [] = true := rfl

/-- What a canonical list with a first entry is. -/
theorem Memory.wf_cons {k : Nat} {b : Byte} {m : Memory} :
    Memory.wf ((k, b) :: m) = true ↔ b ≠ 0 ∧ Memory.above k m = true ∧ Memory.wf m = true := by
  simp [Memory.wf, and_assoc]

/-- A bound below a list stays one for every smaller number. -/
theorem Memory.above_mono {a b : Nat} {m : Memory} (h : a ≤ b) (hm : Memory.above b m = true) :
    Memory.above a m = true := by
  cases m with
  | nil => rfl
  | cons c m => simp only [Memory.above, decide_eq_true_eq] at hm ⊢; omega

/-- Writing above a bound keeps it. -/
theorem Memory.above_write {lo a : Nat} {m : Memory} (b : Byte) (h : lo < a) (hm : Memory.above lo m = true)
    (hw : Memory.wf m = true) : Memory.above lo (Memory.write m a b) = true := by
  cases m with
  | nil => unfold Memory.write; split <;> simp [Memory.above, h]
  | cons c m =>
    obtain ⟨k, c⟩ := c
    obtain ⟨_, hk, _⟩ := Memory.wf_cons.mp hw
    have hlo : lo < k := by simpa [Memory.above] using hm
    unfold Memory.write
    split
    · simpa [Memory.above] using hlo
    · split
      · split
        · exact Memory.above_mono (Nat.le_of_lt hlo) hk
        · simpa [Memory.above] using h
      · split <;> simp [Memory.above, h, hlo]

/-- A write keeps the canonical form. -/
theorem Memory.wf_write {m : Memory} (a : Nat) (b : Byte) (h : Memory.wf m = true) :
    Memory.wf (Memory.write m a b) = true := by
  induction m with
  | nil => unfold Memory.write; split <;> simp_all [Memory.wf, Memory.above]
  | cons c m ih =>
    obtain ⟨k, c⟩ := c
    obtain ⟨hc, hk, hm⟩ := Memory.wf_cons.mp h
    unfold Memory.write
    split
    · rename_i hlt
      exact Memory.wf_cons.mpr ⟨hc, Memory.above_write b hlt hk hm, ih hm⟩
    · split
      · rename_i he
        split
        · exact hm
        · rename_i hb
          exact Memory.wf_cons.mpr ⟨hb, he ▸ hk, hm⟩
      · split
        · exact h
        · rename_i hn he hb
          exact Memory.wf_cons.mpr ⟨hb, by simp only [Memory.above, decide_eq_true_eq]; omega, h⟩

/-- Writing a run of bytes keeps the canonical form. -/
theorem Memory.wf_writeBytes {m : Memory} (a : Nat) (bs : List Byte) (h : Memory.wf m = true) :
    Memory.wf (Memory.writeBytes m a bs) = true := by
  induction bs generalizing m a with
  | nil => exact h
  | cons b bs ih => exact ih (a + 1) (Memory.wf_write a b h)

/-- Writing one after another keeps the canonical form. -/
theorem Memory.wf_foldl_write {α : Type} (key : α → Nat) (val : α → Byte) (xs : List α) {m : Memory}
    (h : Memory.wf m = true) : Memory.wf (xs.foldl (fun m x => Memory.write m (key x) (val x)) m) = true := by
  induction xs generalizing m with
  | nil => exact h
  | cons x xs ih => exact ih (Memory.wf_write _ _ h)

/-- Dropping entries keeps a bound below the list. -/
theorem Memory.above_filter {lo : Nat} {m : Memory} (p : Host.Cell → Bool) (h : Memory.above lo m = true)
    (hw : Memory.wf m = true) : Memory.above lo (m.filter p) = true := by
  induction m with
  | nil => rfl
  | cons c m ih =>
    obtain ⟨k, c⟩ := c
    obtain ⟨_, hk, hm⟩ := Memory.wf_cons.mp hw
    have hlo : lo < k := by simpa [Memory.above] using h
    simp only [List.filter_cons]
    split
    · simpa [Memory.above] using hlo
    · exact ih (Memory.above_mono (Nat.le_of_lt hlo) hk) hm

/-- Dropping entries keeps the canonical form. -/
theorem Memory.wf_filter {m : Memory} (p : Host.Cell → Bool) (h : Memory.wf m = true) :
    Memory.wf (m.filter p) = true := by
  induction m with
  | nil => rfl
  | cons c m ih =>
    obtain ⟨k, c⟩ := c
    obtain ⟨hc, hk, hm⟩ := Memory.wf_cons.mp h
    simp only [List.filter_cons]
    split
    · exact Memory.wf_cons.mpr ⟨hc, Memory.above_filter p hk hm, ih hm⟩
    · exact ih hm

/-- Clearing a range keeps the canonical form. -/
theorem Memory.wf_clear {m : Memory} (a n : Nat) (h : Memory.wf m = true) : Memory.wf (Memory.clear m a n) = true :=
  Memory.wf_filter _ h

/-! ## The memories of the state -/

/-- What a step of a fold keeps, the fold keeps. -/
theorem State.Canonical.foldl {α : Type} (f : State → α → State) (xs : List α) {s : State} (hs : s.Canonical)
    (hf : ∀ (s : State) (x : α), s.Canonical → (f s x).Canonical) : (xs.foldl f s).Canonical := by
  induction xs generalizing s with
  | nil => exact hs
  | cons x xs ih => exact ih (hf s x hs)

/-- The canonical form is a matter of the memories alone. -/
theorem State.Canonical.of_eq {s s' : State} (h : s.Canonical) (hm : s'.mem = s.mem) (hc : s'.cores = s.cores)
    (hs : s'.copies = s.copies) (hr : s'.mailRings = s.mailRings) (hv : s'.vectorTable = s.vectorTable) :
    s'.Canonical :=
  ⟨hm ▸ h.mem, hc ▸ h.cores, hs ▸ h.copies, hr ▸ h.rings, hv ▸ h.vectors⟩

/-- A canonical memory in the place of the memory. -/
theorem State.Canonical.setMem {s : State} (h : s.Canonical) {m : Memory} (hm : Memory.wf m = true) :
    State.Canonical { s with mem := m } := ⟨hm, h.cores, h.copies, h.rings, h.vectors⟩

/-- Poison is no part of the memories' bytes. -/
theorem State.Canonical.setPoison {s : State} (h : s.Canonical) (g : Nat) (on : Bool) : (s.setPoison g on).Canonical :=
  h.of_eq rfl rfl rfl rfl rfl

/-- A back-invalidate changes no memory. -/
theorem State.Canonical.backInvalidate {s : State} (h : s.Canonical) (g : Nat) : (s.backInvalidate g).Canonical := by
  unfold State.backInvalidate
  split
  · exact h.of_eq rfl rfl rfl rfl rfl
  · exact h

/-- Drawing free bytes changes no memory. -/
theorem State.Canonical.freeBytes {s : State} (h : s.Canonical) (n : Nat) : (s.freeBytes n).2.Canonical :=
  h.of_eq rfl rfl rfl rfl rfl

/-- Taking a granule over keeps the memories canonical. -/
theorem State.Canonical.takeOver {s : State} (h : s.Canonical) (t : Option (BitVec 8)) (g : Nat) :
    (s.takeOver t g).Canonical := by
  have h' : State.Canonical (if (s.holder g).opens t then s
      else { (s.freeBytes 32).2 with mem := Memory.writeBytes (s.freeBytes 32).2.mem g (s.freeBytes 32).1 }) := by
    split
    · exact h
    · exact (h.freeBytes 32).setMem (Memory.wf_writeBytes _ _ (h.freeBytes 32).mem)
  unfold State.takeOver
  dsimp only
  split
  · split
    · exact h'
    · exact h'.of_eq rfl rfl rfl rfl rfl
  · exact h'.of_eq rfl rfl rfl rfl rfl
  · exact h'

/-- A reduction at its home keeps the memories canonical. -/
theorem State.Canonical.applyReduce {s : State} (h : s.Canonical) (key : Nat) (op : BitVec 4) (f : Fmt) (v : BitVec 64)
    (p : Bool) : (s.applyReduce key op f v p).Canonical := by
  have h' := (h.backInvalidate (granule key)).setMem (Memory.wf_writeBytes key (bytesOf f.bytes (reduceOp op.toNat f
    (natOfBytes (Memory.readBytes (s.backInvalidate (granule key)).mem key f.bytes)) v.toNat))
      (h.backInvalidate (granule key)).mem)
  unfold State.applyReduce
  dsimp only
  split
  · exact h'.setPoison _ _
  · exact h'

/-- Settling a granule keeps the memories canonical. -/
theorem State.Canonical.settle {s : State} (h : s.Canonical) (g : Nat) : (s.settle g).Canonical := by
  unfold State.settle
  split
  · exact h
  · exact State.Canonical.foldl _ _ (h.of_eq rfl rfl rfl rfl rfl) fun s e hs => hs.applyReduce _ _ _ _ _

/-- A read at the homes keeps the memories canonical. -/
theorem State.Canonical.homeRead {s : State} (h : s.Canonical) (key n : Nat) : (s.homeRead key n).2.2.Canonical := by
  have h' : (s.settleAll (granulesOf (bareKey key) n)).Canonical :=
    State.Canonical.foldl _ _ h fun _ g hs => hs.settle g
  unfold State.homeRead
  dsimp only
  split
  · exact h'
  · exact h'.freeBytes n

/-- A write to a granule keeps the memories canonical. -/
theorem State.Canonical.granWrite {s : State} (h : s.Canonical) (g : Nat) (data : List Byte) (mask : BitVec 32) (p : Bool) :
    (s.granWrite g data mask p).Canonical := by
  have h0 := (h.settle g).backInvalidate g
  have h' := h0.setMem (Memory.wf_foldl_write (fun p : Byte × Nat => g + p.2) Prod.fst
    ((data.zipIdx 0).filter fun p => mask.getLsbD p.2) h0.mem)
  unfold State.granWrite
  dsimp only
  split
  · exact h'.setPoison _ _
  · split
    · exact h'.setPoison _ _
    · exact h'

/-- A write at the homes keeps the memories canonical. -/
theorem State.Canonical.streamWrite {s : State} (h : s.Canonical) (key : Nat) (bs : List Byte) (p : Bool) :
    (s.streamWrite key bs p).Canonical :=
  State.Canonical.foldl _ _ h fun _ _ hs => (hs.takeOver _ _).granWrite _ _ _ _

/-- A write at the homes keeps the memories canonical. -/
theorem State.Canonical.homeWrite {s : State} (h : s.Canonical) (key : Nat) (bs : List Byte) :
    (s.homeWrite key bs).Canonical := h.streamWrite key bs false

/-- A core put in stands among cores that were there. -/
theorem mem_putCoreIn {c d : Core} {cs : List Core} (h : d ∈ putCoreIn c cs) : d = c ∨ d ∈ cs := by
  induction cs with
  | nil => simpa [putCoreIn] using h
  | cons e es ih =>
    unfold putCoreIn at h
    split at h
    · exact (List.mem_cons.mp h).imp id (List.mem_cons_of_mem _)
    · rcases List.mem_cons.mp h with h | h
      · exact .inr (h ▸ List.mem_cons_self)
      · exact (ih h).imp id (List.mem_cons_of_mem _)

/-- A core's scratchpad is canonical, whether the core has run anything or not. -/
theorem State.Canonical.core {s : State} (h : s.Canonical) (n : Nat) : Memory.wf (s.core n).scratch = true := by
  unfold State.core
  cases hf : s.cores.find? fun c => c.n == n with
  | none => rfl
  | some c => exact h.cores c (List.mem_of_find?_eq_some hf)

/-- Replacing a core by one whose scratchpad is canonical keeps the memories canonical. -/
theorem State.Canonical.putCore {s : State} (h : s.Canonical) (c : Core) (hc : Memory.wf c.scratch = true) :
    (s.putCore c).Canonical :=
  ⟨h.mem, fun d hd => (mem_putCoreIn hd).elim (fun e => e ▸ hc) (h.cores d), h.copies, h.rings, h.vectors⟩

/-- Changing a core keeps the memories canonical if it keeps the scratchpad's form. -/
theorem State.Canonical.modCore {s : State} (h : s.Canonical) (n : Nat) (f : Core → Core)
    (hf : Memory.wf (f (s.core n)).scratch = true) : (s.modCore n f).Canonical := h.putCore _ hf

/-- A scratchpad write keeps the memories canonical. -/
theorem State.Canonical.scratchWrite {s : State} (h : s.Canonical) (core off : Nat) (bs : List Byte) :
    (s.scratchWrite core off bs).Canonical := h.modCore _ _ (Memory.wf_writeBytes _ _ (h.core core))

/-- A full/empty bit is no part of the memories' bytes. -/
theorem State.Canonical.setFull {s : State} (h : s.Canonical) (core off : Nat) (on : Bool) :
    (s.setFull core off on).Canonical := h.modCore _ _ (h.core core)

/-- Clearing a partition keeps the memories canonical. -/
theorem State.Canonical.clearPartition {s : State} (h : s.Canonical) (core base size : Nat) :
    (s.clearPartition core base size).Canonical := h.modCore _ _ (Memory.wf_clear _ _ (h.core core))

/-- Applying an entry at its home keeps the memories canonical. -/
theorem State.Canonical.applyEntry {s : State} (h : s.Canonical) (e : LogEntry) : (s.applyEntry e).Canonical := by
  unfold State.applyEntry
  split
  · exact h.of_eq rfl rfl rfl rfl rfl
  · have h' : (e.grans.foldl (fun (s : State) g => s.takeOver (some e.tenant) g) s).Canonical :=
      State.Canonical.foldl _ _ h fun _ _ hs => hs.takeOver _ _
    dsimp only
    split
    · exact h'.granWrite _ _ _ _
    · refine State.Canonical.foldl _ _ h' fun s k hs => ?_
      split
      · exact hs.of_eq rfl rfl rfl rfl rfl
      · exact (hs.settle _).applyReduce _ _ _ _ _
    · exact State.Canonical.foldl _ _ h' fun s i hs => hs.granWrite _ _ _ _

/-! ## The copies of paired families -/

/-- Two canonical lists, all of the first below all of the second, make one. -/
theorem Memory.wf_append {a b : Memory} (ha : Memory.wf a = true) (hb : Memory.wf b = true)
    (h : ∀ x ∈ a, ∀ y ∈ b, x.1 < y.1) : Memory.wf (a ++ b) = true := by
  induction a with
  | nil => exact hb
  | cons c a ih =>
    obtain ⟨k, c⟩ := c
    obtain ⟨hc, hk, hm⟩ := Memory.wf_cons.mp ha
    refine Memory.wf_cons.mpr ⟨hc, ?_, ih hm fun x hx => h x (List.mem_cons_of_mem _ hx)⟩
    cases a with
    | nil =>
      cases b with
      | nil => rfl
      | cons d b =>
        have := h (k, c) List.mem_cons_self d List.mem_cons_self
        simpa [Memory.above] using this
    | cons d a => simpa [Memory.above] using hk

/-- A canonical list with the part inside a range replaced by that of another is canonical. -/
theorem Memory.wf_splice {m own : Memory} (base size : Nat) (hm : Memory.wf m = true) (ho : Memory.wf own = true) :
    Memory.wf (spliceRange (fun p : Host.Cell => p.1) base size m own) = true := by
  refine Memory.wf_append (Memory.wf_append (Memory.wf_filter _ hm) (Memory.wf_filter _ ho) ?_) (Memory.wf_filter _ hm) ?_
  · intro x hx y hy
    simp only [List.mem_filter, decide_eq_true_eq, Bool.and_eq_true] at hx hy
    omega
  · intro x hx y hy
    simp only [List.mem_append, List.mem_filter, decide_eq_true_eq, Bool.and_eq_true] at hx hy
    omega

/-- The part of a core that is a family's own, or the rest of it, is canonical. -/
theorem Core.wf_part {c : Core} (x : Share) (own : Bool) (h : Memory.wf c.scratch = true) :
    Memory.wf (c.part x own).scratch = true := Memory.wf_filter _ h

/-- A core with a family's own part put back is canonical. -/
theorem Core.wf_join {c own : Core} (x : Share) (turn : Bool) (hc : Memory.wf c.scratch = true)
    (ho : Memory.wf own.scratch = true) : Memory.wf (c.join own x turn).scratch = true := by
  unfold Core.join
  dsimp only
  split <;> exact Memory.wf_splice _ _ hc ho

end Sys2Proof.Machine
end

