-- ==== Sys2Proof/Laws/PerInstr.lean ====
section
/-!
SUPPORT. One lemma per instruction for each statement about instructions as syntax. The family `Parcels`: an encoding's
first bit tells its length (R150), and no instruction has both a 16-bit and a 32-bit encoding.
-/

namespace Sys2Proof.Laws.Parcels

/-- Bit 0 of the first parcel is 0 for a 16-bit instruction and 1 for a 32-bit one (R150). -/
def Statement (i : Instr) : Prop :=
  (∀ p, encode16 i = some p → encode32 i = none ∧ p.getLsbD 0 = false) ∧
    ∀ w, encode32 i = some w → w.getLsbD 0 = true

/-- Whatever stands above bit 0, an appended bit is bit 0. -/
theorem bit0_append {n : Nat} (x : BitVec n) (b : BitVec 1) : (x ++ b).getLsbD 0 = b.getLsbD 0 := by
  rw [BitVec.getLsbD_append]
  simp

/-- A 16-bit form has bit 0 clear. -/
theorem short {i : Instr} {ss : BitVec 5} {vd : BitVec 6} {op : BitVec 4} (h : encode16 i = some (asmShort ss vd op))
    (h' : encode32 i = none) : Statement i := by
  refine ⟨fun p hp => ⟨h', ?_⟩, fun w hw => absurd (h'.symm.trans hw) (by simp)⟩
  rw [h] at hp
  cases hp
  exact bit0_append _ _

/-- A 32-bit form has bit 0 set. -/
theorem long {i : Instr} {x : BitVec 31} (h' : encode16 i = none) (h : encode32 i = some (x ++ 1#1 : BitVec 32)) :
    Statement i := by
  refine ⟨fun p hp => absurd (h'.symm.trans hp) (by simp), fun w hw => ?_⟩
  rw [h] at hw
  cases hw
  exact bit0_append x 1#1

/-- An event has no encoding. -/
theorem event {i : Instr} (h : encode16 i = none) (h' : encode32 i = none) : Statement i :=
  ⟨fun p hp => absurd (h.symm.trans hp) (by simp), fun w hw => absurd (h'.symm.trans hw) (by simp)⟩

theorem movShort (ss : BitVec 5) (vd : BitVec 6) : Statement (.movShort ss vd) := short rfl rfl
theorem addF32Short (ss : BitVec 5) (vd : BitVec 6) : Statement (.addF32Short ss vd) := short rfl rfl
theorem subF32Short (ss : BitVec 5) (vd : BitVec 6) : Statement (.subF32Short ss vd) := short rfl rfl
theorem mulF32Short (ss : BitVec 5) (vd : BitVec 6) : Statement (.mulF32Short ss vd) := short rfl rfl
theorem minF32Short (ss : BitVec 5) (vd : BitVec 6) : Statement (.minF32Short ss vd) := short rfl rfl
theorem maxF32Short (ss : BitVec 5) (vd : BitVec 6) : Statement (.maxF32Short ss vd) := short rfl rfl
theorem addS32Short (ss : BitVec 5) (vd : BitVec 6) : Statement (.addS32Short ss vd) := short rfl rfl
theorem subS32Short (ss : BitVec 5) (vd : BitVec 6) : Statement (.subS32Short ss vd) := short rfl rfl
theorem mulS32Short (ss : BitVec 5) (vd : BitVec 6) : Statement (.mulS32Short ss vd) := short rfl rfl
theorem addN32Short (ss : BitVec 5) (vd : BitVec 6) : Statement (.addN32Short ss vd) := short rfl rfl
theorem subN32Short (ss : BitVec 5) (vd : BitVec 6) : Statement (.subN32Short ss vd) := short rfl rfl
theorem andB32Short (ss : BitVec 5) (vd : BitVec 6) : Statement (.andB32Short ss vd) := short rfl rfl
theorem orB32Short (ss : BitVec 5) (vd : BitVec 6) : Statement (.orB32Short ss vd) := short rfl rfl
theorem xorB32Short (ss : BitVec 5) (vd : BitVec 6) : Statement (.xorB32Short ss vd) := short rfl rfl
theorem shlN32Short (ss : BitVec 5) (vd : BitVec 6) : Statement (.shlN32Short ss vd) := short rfl rfl
theorem shrN32Short (ss : BitVec 5) (vd : BitVec 6) : Statement (.shrN32Short ss vd) := short rfl rfl
theorem addF32 (vb va : VSrc) (vd : BitVec 6) (nw : Bool) (rm : BitVec 2) :
    Statement (.addF32 vb va vd nw rm) := long rfl rfl
theorem subF32 (vb va : VSrc) (vd : BitVec 6) (nw : Bool) (rm : BitVec 2) :
    Statement (.subF32 vb va vd nw rm) := long rfl rfl
theorem mulF32 (vb va : VSrc) (vd : BitVec 6) (nw : Bool) (rm : BitVec 2) :
    Statement (.mulF32 vb va vd nw rm) := long rfl rfl
theorem fmaF32 (vb va : VSrc) (vd : BitVec 6) (nw : Bool) (rm : BitVec 2) :
    Statement (.fmaF32 vb va vd nw rm) := long rfl rfl
theorem addF64 (vb va : VSrc) (vd : BitVec 6) (nw : Bool) (rm : BitVec 2) :
    Statement (.addF64 vb va vd nw rm) := long rfl rfl
theorem subF64 (vb va : VSrc) (vd : BitVec 6) (nw : Bool) (rm : BitVec 2) :
    Statement (.subF64 vb va vd nw rm) := long rfl rfl
theorem mulF64 (vb va : VSrc) (vd : BitVec 6) (nw : Bool) (rm : BitVec 2) :
    Statement (.mulF64 vb va vd nw rm) := long rfl rfl
theorem fmaF64 (vb va : VSrc) (vd : BitVec 6) (nw : Bool) (rm : BitVec 2) :
    Statement (.fmaF64 vb va vd nw rm) := long rfl rfl
theorem addF16 (vb va : VSrc) (vd : BitVec 6) (nw : Bool) (rm : BitVec 2) :
    Statement (.addF16 vb va vd nw rm) := long rfl rfl
theorem subF16 (vb va : VSrc) (vd : BitVec 6) (nw : Bool) (rm : BitVec 2) :
    Statement (.subF16 vb va vd nw rm) := long rfl rfl
theorem mulF16 (vb va : VSrc) (vd : BitVec 6) (nw : Bool) (rm : BitVec 2) :
    Statement (.mulF16 vb va vd nw rm) := long rfl rfl
theorem fmaF16 (vb va : VSrc) (vd : BitVec 6) (nw : Bool) (rm : BitVec 2) :
    Statement (.fmaF16 vb va vd nw rm) := long rfl rfl
theorem addBf16 (vb va : VSrc) (vd : BitVec 6) (nw : Bool) (rm : BitVec 2) :
    Statement (.addBf16 vb va vd nw rm) := long rfl rfl
theorem subBf16 (vb va : VSrc) (vd : BitVec 6) (nw : Bool) (rm : BitVec 2) :
    Statement (.subBf16 vb va vd nw rm) := long rfl rfl
theorem mulBf16 (vb va : VSrc) (vd : BitVec 6) (nw : Bool) (rm : BitVec 2) :
    Statement (.mulBf16 vb va vd nw rm) := long rfl rfl
theorem fmaBf16 (vb va : VSrc) (vd : BitVec 6) (nw : Bool) (rm : BitVec 2) :
    Statement (.fmaBf16 vb va vd nw rm) := long rfl rfl
theorem div (vb va : VSrc) (vd : BitVec 6) (nw : Bool) (ft : FType) (rm : BitVec 2) :
    Statement (.div vb va vd nw ft rm) := long rfl rfl
theorem fmin (vb va : VSrc) (vd : BitVec 6) (nw : Bool) (ft : FType) :
    Statement (.fmin vb va vd nw ft) := long rfl rfl
theorem fmax (vb va : VSrc) (vd : BitVec 6) (nw : Bool) (ft : FType) :
    Statement (.fmax vb va vd nw ft) := long rfl rfl
theorem copysign (vb va : VSrc) (vd : BitVec 6) (nw : Bool) (ft : FType) :
    Statement (.copysign vb va vd nw ft) := long rfl rfl
theorem sqrt (va : VSrc) (vd : BitVec 6) (nw : Bool) (ft : FType) (rm : BitVec 2) :
    Statement (.sqrt va vd nw ft rm) := long rfl rfl
theorem rcp (va : VSrc) (vd : BitVec 6) (nw : Bool) (ft : FType) (rm : BitVec 2) :
    Statement (.rcp va vd nw ft rm) := long rfl rfl
theorem rsqrt (va : VSrc) (vd : BitVec 6) (nw : Bool) (ft : FType) (rm : BitVec 2) :
    Statement (.rsqrt va vd nw ft rm) := long rfl rfl
theorem exp2 (va : VSrc) (vd : BitVec 6) (nw : Bool) (ft : FType) (rm : BitVec 2) :
    Statement (.exp2 va vd nw ft rm) := long rfl rfl
theorem log2 (va : VSrc) (vd : BitVec 6) (nw : Bool) (ft : FType) (rm : BitVec 2) :
    Statement (.log2 va vd nw ft rm) := long rfl rfl
theorem sin (va : VSrc) (vd : BitVec 6) (nw : Bool) (ft : FType) (rm : BitVec 2) :
    Statement (.sin va vd nw ft rm) := long rfl rfl
theorem cos (va : VSrc) (vd : BitVec 6) (nw : Bool) (ft : FType) (rm : BitVec 2) :
    Statement (.cos va vd nw ft rm) := long rfl rfl
theorem tanh (va : VSrc) (vd : BitVec 6) (nw : Bool) (ft : FType) (rm : BitVec 2) :
    Statement (.tanh va vd nw ft rm) := long rfl rfl
theorem rint (va : VSrc) (vd : BitVec 6) (nw : Bool) (ft : FType) (rm : BitVec 2) :
    Statement (.rint va vd nw ft rm) := long rfl rfl
theorem fneg (va : VSrc) (vd : BitVec 6) (nw : Bool) (ft : FType) : Statement (.fneg va vd nw ft) := long rfl rfl
theorem fabs (va : VSrc) (vd : BitVec 6) (nw : Bool) (ft : FType) : Statement (.fabs va vd nw ft) := long rfl rfl
theorem fclass (va : VSrc) (vd : BitVec 6) (nw : Bool) (ft : FType) : Statement (.fclass va vd nw ft) := long rfl rfl
theorem intAdd (vb va : VSrc) (vd : BitVec 6) (nw : Bool) (it : IType) :
    Statement (.intAdd vb va vd nw it) := long rfl rfl
theorem intSub (vb va : VSrc) (vd : BitVec 6) (nw : Bool) (it : IType) :
    Statement (.intSub vb va vd nw it) := long rfl rfl
theorem intMul (vb va : VSrc) (vd : BitVec 6) (nw : Bool) (it : IType) :
    Statement (.intMul vb va vd nw it) := long rfl rfl
theorem intMulh (vb va : VSrc) (vd : BitVec 6) (nw : Bool) (it : IType) :
    Statement (.intMulh vb va vd nw it) := long rfl rfl
theorem intMin (vb va : VSrc) (vd : BitVec 6) (nw : Bool) (it : IType) :
    Statement (.intMin vb va vd nw it) := long rfl rfl
theorem intMax (vb va : VSrc) (vd : BitVec 6) (nw : Bool) (it : IType) :
    Statement (.intMax vb va vd nw it) := long rfl rfl
theorem intAdds (vb va : VSrc) (vd : BitVec 6) (nw : Bool) (it : IType) :
    Statement (.intAdds vb va vd nw it) := long rfl rfl
theorem intSubs (vb va : VSrc) (vd : BitVec 6) (nw : Bool) (it : IType) :
    Statement (.intSubs vb va vd nw it) := long rfl rfl
theorem intShl (vb va : VSrc) (vd : BitVec 6) (nw : Bool) (it : IType) :
    Statement (.intShl vb va vd nw it) := long rfl rfl
theorem intShr (vb va : VSrc) (vd : BitVec 6) (nw : Bool) (it : IType) :
    Statement (.intShr vb va vd nw it) := long rfl rfl
theorem intAbs (va : VSrc) (vd : BitVec 6) (nw : Bool) (wide : Bool) :
    Statement (.intAbs va vd nw wide) := long rfl rfl
theorem intNeg (va : VSrc) (vd : BitVec 6) (nw : Bool) (wide : Bool) :
    Statement (.intNeg va vd nw wide) := long rfl rfl
theorem intMad (vb va : VSrc) (vd : BitVec 6) (nw : Bool) (it : IType) :
    Statement (.intMad vb va vd nw it) := long rfl rfl
theorem intDiv (vb va : VSrc) (vd : BitVec 6) (nw : Bool) (it : IType) :
    Statement (.intDiv vb va vd nw it) := long rfl rfl
theorem intRem (vb va : VSrc) (vd : BitVec 6) (nw : Bool) (it : IType) :
    Statement (.intRem vb va vd nw it) := long rfl rfl
theorem bitAnd (vb va : VSrc) (vd : BitVec 6) (nw : Bool) : Statement (.bitAnd vb va vd nw) := long rfl rfl
theorem bitOr (vb va : VSrc) (vd : BitVec 6) (nw : Bool) : Statement (.bitOr vb va vd nw) := long rfl rfl
theorem bitXor (vb va : VSrc) (vd : BitVec 6) (nw : Bool) : Statement (.bitXor vb va vd nw) := long rfl rfl
theorem bitAndn (vb va : VSrc) (vd : BitVec 6) (nw : Bool) : Statement (.bitAndn vb va vd nw) := long rfl rfl
theorem bitNot (va : VSrc) (vd : BitVec 6) (nw : Bool) : Statement (.bitNot va vd nw) := long rfl rfl
theorem bitPopc (va : VSrc) (vd : BitVec 6) (nw : Bool) : Statement (.bitPopc va vd nw) := long rfl rfl
theorem bitClz (va : VSrc) (vd : BitVec 6) (nw : Bool) : Statement (.bitClz va vd nw) := long rfl rfl
theorem bitCtz (va : VSrc) (vd : BitVec 6) (nw : Bool) : Statement (.bitCtz va vd nw) := long rfl rfl
theorem bitRotl (vb va : VSrc) (vd : BitVec 6) (nw : Bool) : Statement (.bitRotl vb va vd nw) := long rfl rfl
theorem bitBrev (va : VSrc) (vd : BitVec 6) (nw : Bool) : Statement (.bitBrev va vd nw) := long rfl rfl
theorem cmp (vb va : VSrc) (ty : CmpTy) (md : BitVec 3) (cc : CmpOp) : Statement (.cmp vb va ty md cc) := long rfl rfl
theorem cvt (df : Tag) (sat : Bool) (va : VSrc) (vd : BitVec 6) (nw : Bool) (rm : BitVec 3) :
    Statement (.cvt df sat va vd nw rm) := long rfl rfl
theorem vaddi (imm : BitVec 11) (va : VSrc) (vd : BitVec 6) (nw : Bool) :
    Statement (.vaddi imm va vd nw) := long rfl rfl
theorem shli (amt : BitVec 5) (va : VSrc) (vd : BitVec 6) (nw : Bool) : Statement (.shli amt va vd nw) := long rfl rfl
theorem shriN (amt : BitVec 5) (va : VSrc) (vd : BitVec 6) (nw : Bool) :
    Statement (.shriN amt va vd nw) := long rfl rfl
theorem shriS (amt : BitVec 5) (va : VSrc) (vd : BitVec 6) (nw : Bool) :
    Statement (.shriS amt va vd nw) := long rfl rfl
theorem rotli (amt : BitVec 5) (va : VSrc) (vd : BitVec 6) (nw : Bool) :
    Statement (.rotli amt va vd nw) := long rfl rfl
theorem xperm (vb va : VSrc) (vd : BitVec 6) (nw : Bool) : Statement (.xperm vb va vd nw) := long rfl rfl
theorem shfl (vb va : VSrc) (vd : BitVec 6) (nw : Bool) : Statement (.shfl vb va vd nw) := long rfl rfl
theorem shflXor (sb : SSrc) (va : VSrc) (vd : BitVec 6) (nw : Bool) : Statement (.shflXor sb va vd nw) := long rfl rfl
theorem shflUp (sb : SSrc) (va : VSrc) (vd : BitVec 6) (nw : Bool) : Statement (.shflUp sb va vd nw) := long rfl rfl
theorem shflDn (sb : SSrc) (va : VSrc) (vd : BitVec 6) (nw : Bool) : Statement (.shflDn sb va vd nw) := long rfl rfl
theorem voteAny (sb : SSrc) (va : VSrc) (vd : BitVec 6) (nw : Bool) : Statement (.voteAny sb va vd nw) := long rfl rfl
theorem voteAll (sb : SSrc) (va : VSrc) (vd : BitVec 6) (nw : Bool) : Statement (.voteAll sb va vd nw) := long rfl rfl
theorem voteEq (sb : SSrc) (va : VSrc) (vd : BitVec 6) (nw : Bool) : Statement (.voteEq sb va vd nw) := long rfl rfl
theorem ballot (sb : SSrc) (va : VSrc) (vd : BitVec 6) (nw : Bool) : Statement (.ballot sb va vd nw) := long rfl rfl
theorem csamp (sb : SSrc) (va : VSrc) (vd : BitVec 6) (nw : Bool) : Statement (.csamp sb va vd nw) := long rfl rfl
theorem rngN32 (vc : VSrc) (sk : SSrc) (vd : BitVec 6) (nw : Bool) : Statement (.rngN32 vc sk vd nw) := long rfl rfl
theorem mov (va : VSrc) (vd : BitVec 6) (nw : Bool) : Statement (.mov va vd nw) := long rfl rfl
theorem movtag (tag : Tag) (va : VSrc) (vd : BitVec 6) (nw : Bool) : Statement (.movtag tag va vd nw) := long rfl rfl
theorem lane (vd : BitVec 6) (nw : Bool) : Statement (.lane vd nw) := long rfl rfl
theorem bcast (sb : SSrc) (va : VSrc) (vd : BitVec 6) (nw : Bool) : Statement (.bcast sb va vd nw) := long rfl rfl
theorem sel (vb va : VSrc) (vd : BitVec 6) (nw : Bool) : Statement (.sel vb va vd nw) := long rfl rfl
theorem vmoviGet (tag : Tag) (va : VSrc) (vd : BitVec 6) (nw : Bool) :
    Statement (.vmoviGet tag va vd nw) := long rfl rfl
theorem vmoviPut (vb va : VSrc) : Statement (.vmoviPut vb va) := long rfl rfl
theorem affine (sb sa : SSrc) (vd : BitVec 6) (nw : Bool) : Statement (.affine sb sa vd nw) := long rfl rfl
theorem omov (va : VSrc) (od : BitVec 3) (nw : Bool) : Statement (.omov va od nw) := long rfl rfl
theorem dotF32Bf16 (vb va : VSrc) (vd : BitVec 6) (nw : Bool) : Statement (.dotF32Bf16 vb va vd nw) := long rfl rfl
theorem dotF32F16 (vb va : VSrc) (vd : BitVec 6) (nw : Bool) : Statement (.dotF32F16 vb va vd nw) := long rfl rfl
theorem dotS32S8 (vb va : VSrc) (vd : BitVec 6) (nw : Bool) : Statement (.dotS32S8 vb va vd nw) := long rfl rfl
theorem dotF32Nf (vb va : VSrc) (vd : BitVec 6) (nw : Bool) : Statement (.dotF32Nf vb va vd nw) := long rfl rfl
theorem sadd (sb sa : SSrc) (sd : BitVec 6) : Statement (.sadd sb sa sd) := long rfl rfl
theorem ssub (sb sa : SSrc) (sd : BitVec 6) : Statement (.ssub sb sa sd) := long rfl rfl
theorem smul (sb sa : SSrc) (sd : BitVec 6) : Statement (.smul sb sa sd) := long rfl rfl
theorem smulhS (sb sa : SSrc) (sd : BitVec 6) : Statement (.smulhS sb sa sd) := long rfl rfl
theorem smulhN (sb sa : SSrc) (sd : BitVec 6) : Statement (.smulhN sb sa sd) := long rfl rfl
theorem sdivS (sb sa : SSrc) (sd : BitVec 6) : Statement (.sdivS sb sa sd) := long rfl rfl
theorem sdivN (sb sa : SSrc) (sd : BitVec 6) : Statement (.sdivN sb sa sd) := long rfl rfl
theorem sremS (sb sa : SSrc) (sd : BitVec 6) : Statement (.sremS sb sa sd) := long rfl rfl
theorem sremN (sb sa : SSrc) (sd : BitVec 6) : Statement (.sremN sb sa sd) := long rfl rfl
theorem sand (sb sa : SSrc) (sd : BitVec 6) : Statement (.sand sb sa sd) := long rfl rfl
theorem sor (sb sa : SSrc) (sd : BitVec 6) : Statement (.sor sb sa sd) := long rfl rfl
theorem sxor (sb sa : SSrc) (sd : BitVec 6) : Statement (.sxor sb sa sd) := long rfl rfl
theorem sandn (sb sa : SSrc) (sd : BitVec 6) : Statement (.sandn sb sa sd) := long rfl rfl
theorem sshl (sb sa : SSrc) (sd : BitVec 6) : Statement (.sshl sb sa sd) := long rfl rfl
theorem sshrN (sb sa : SSrc) (sd : BitVec 6) : Statement (.sshrN sb sa sd) := long rfl rfl
theorem sshrS (sb sa : SSrc) (sd : BitVec 6) : Statement (.sshrS sb sa sd) := long rfl rfl
theorem srotl (sb sa : SSrc) (sd : BitVec 6) : Statement (.srotl sb sa sd) := long rfl rfl
theorem sminS (sb sa : SSrc) (sd : BitVec 6) : Statement (.sminS sb sa sd) := long rfl rfl
theorem sminN (sb sa : SSrc) (sd : BitVec 6) : Statement (.sminN sb sa sd) := long rfl rfl
theorem smaxS (sb sa : SSrc) (sd : BitVec 6) : Statement (.smaxS sb sa sd) := long rfl rfl
theorem smaxN (sb sa : SSrc) (sd : BitVec 6) : Statement (.smaxN sb sa sd) := long rfl rfl
theorem ssltS (sb sa : SSrc) (sd : BitVec 6) : Statement (.ssltS sb sa sd) := long rfl rfl
theorem ssltN (sb sa : SSrc) (sd : BitVec 6) : Statement (.ssltN sb sa sd) := long rfl rfl
theorem sseq (sb sa : SSrc) (sd : BitVec 6) : Statement (.sseq sb sa sd) := long rfl rfl
theorem spopc (sa : SSrc) (sd : BitVec 6) : Statement (.spopc sa sd) := long rfl rfl
theorem sclz (sa : SSrc) (sd : BitVec 6) : Statement (.sclz sa sd) := long rfl rfl
theorem sctz (sa : SSrc) (sd : BitVec 6) : Statement (.sctz sa sd) := long rfl rfl
theorem smov (sa : SSrc) (sd : BitVec 6) : Statement (.smov sa sd) := long rfl rfl
theorem saddi (imm : BitVec 12) (sa : SSrc) (sd : BitVec 6) : Statement (.saddi imm sa sd) := long rfl rfl
theorem sandi (imm : BitVec 12) (sa : SSrc) (sd : BitVec 6) : Statement (.sandi imm sa sd) := long rfl rfl
theorem sori (imm : BitVec 12) (sa : SSrc) (sd : BitVec 6) : Statement (.sori imm sa sd) := long rfl rfl
theorem sxori (imm : BitVec 12) (sa : SSrc) (sd : BitVec 6) : Statement (.sxori imm sa sd) := long rfl rfl
theorem sshli (amt : BitVec 6) (sa : SSrc) (sd : BitVec 6) : Statement (.sshli amt sa sd) := long rfl rfl
theorem sshriN (amt : BitVec 6) (sa : SSrc) (sd : BitVec 6) : Statement (.sshriN amt sa sd) := long rfl rfl
theorem sshriS (amt : BitVec 6) (sa : SSrc) (sd : BitVec 6) : Statement (.sshriS amt sa sd) := long rfl rfl
theorem srotli (amt : BitVec 6) (sa : SSrc) (sd : BitVec 6) : Statement (.srotli amt sa sd) := long rfl rfl
theorem sli (imm : BitVec 16) (q : BitVec 2) (sd : BitVec 6) : Statement (.sli imm q sd) := long rfl rfl
theorem slk (imm : BitVec 16) (q : BitVec 2) (sd : BitVec 6) : Statement (.slk imm q sd) := long rfl rfl
theorem mand (mb ma md : BitVec 3) : Statement (.mand mb ma md) := long rfl rfl
theorem mor (mb ma md : BitVec 3) : Statement (.mor mb ma md) := long rfl rfl
theorem mxor (mb ma md : BitVec 3) : Statement (.mxor mb ma md) := long rfl rfl
theorem mandn (mb ma md : BitVec 3) : Statement (.mandn mb ma md) := long rfl rfl
theorem mnot (ma md : BitVec 3) : Statement (.mnot ma md) := long rfl rfl
theorem mmov (ma md : BitVec 3) : Statement (.mmov ma md) := long rfl rfl
theorem mcnt (ma : BitVec 3) (sd : BitVec 6) : Statement (.mcnt ma sd) := long rfl rfl
theorem mfirst (ma : BitVec 3) (sd : BitVec 6) : Statement (.mfirst ma sd) := long rfl rfl
theorem mact (md : BitVec 3) : Statement (.mact md) := long rfl rfl
theorem mget (w : BitVec 7) (ma : BitVec 3) (sd : BitVec 6) : Statement (.mget w ma sd) := long rfl rfl
theorem mput (w : BitVec 7) (sa : SSrc) (md : BitVec 3) : Statement (.mput w sa md) := long rfl rfl
theorem bz (off : BitVec 16) (sa : SSrc) : Statement (.bz off sa) := long rfl rfl
theorem bnz (off : BitVec 16) (sa : SSrc) : Statement (.bnz off sa) := long rfl rfl
theorem bltz (off : BitVec 16) (sa : SSrc) : Statement (.bltz off sa) := long rfl rfl
theorem bgez (off : BitVec 16) (sa : SSrc) : Statement (.bgez off sa) := long rfl rfl
theorem bdiv (off : BitVec 12) (joff : BitVec 10) (ms : BitVec 3) : Statement (.bdiv off joff ms) := long rfl rfl
theorem jmp (off : BitVec 24) : Statement (.jmp off) := long rfl rfl
theorem call (off : BitVec 24) : Statement (.call off) := long rfl rfl
theorem jr (sa : SSrc) : Statement (.jr sa) := long rfl rfl
theorem callr (sa : SSrc) : Statement (.callr sa) := long rfl rfl
theorem brtab (va : VSrc) : Statement (.brtab va) := long rfl rfl
theorem wcnt (c : BitVec 2) (n : BitVec 6) : Statement (.wcnt c n) := long rfl rfl
theorem rdclk (ret : Bool) (sd : BitVec 6) : Statement (.rdclk ret sd) := long rfl rfl
theorem rdid (sel : BitVec 4) (sd : BitVec 6) : Statement (.rdid sel sd) := long rfl rfl
theorem ld (base : BitVec 4) (ix : VSrc) (vd : BitVec 6) (fmt : Fmt) (off : BitVec 4) :
    Statement (.ld base ix vd fmt off) := long rfl rfl
theorem st (base : BitVec 4) (ix : VSrc) (vd : BitVec 6) (fmt : Fmt) (off : BitVec 4) :
    Statement (.st base ix vd fmt off) := long rfl rfl
theorem sld (base : BitVec 4) (ix : VSrc) (vd : BitVec 6) (fmt : Fmt) (off : BitVec 4) :
    Statement (.sld base ix vd fmt off) := long rfl rfl
theorem sst (base : BitVec 4) (ix : VSrc) (vd : BitVec 6) (fmt : Fmt) (off : BitVec 4) :
    Statement (.sst base ix vd fmt off) := long rfl rfl
theorem redAdd (base : BitVec 4) (ix : VSrc) (vd : BitVec 6) (fmt : Fmt) :
    Statement (.redAdd base ix vd fmt) := long rfl rfl
theorem redMin (base : BitVec 4) (ix : VSrc) (vd : BitVec 6) (fmt : Fmt) :
    Statement (.redMin base ix vd fmt) := long rfl rfl
theorem redMax (base : BitVec 4) (ix : VSrc) (vd : BitVec 6) (fmt : Fmt) :
    Statement (.redMax base ix vd fmt) := long rfl rfl
theorem redAnd (base : BitVec 4) (ix : VSrc) (vd : BitVec 6) (fmt : Fmt) :
    Statement (.redAnd base ix vd fmt) := long rfl rfl
theorem redOr (base : BitVec 4) (ix : VSrc) (vd : BitVec 6) (fmt : Fmt) :
    Statement (.redOr base ix vd fmt) := long rfl rfl
theorem redXor (base : BitVec 4) (ix : VSrc) (vd : BitVec 6) (fmt : Fmt) :
    Statement (.redXor base ix vd fmt) := long rfl rfl
theorem atomAdd (base : BitVec 4) (ix : VSrc) (vd : BitVec 6) (fmt : Fmt) :
    Statement (.atomAdd base ix vd fmt) := long rfl rfl
theorem atomMin (base : BitVec 4) (ix : VSrc) (vd : BitVec 6) (fmt : Fmt) :
    Statement (.atomMin base ix vd fmt) := long rfl rfl
theorem atomMax (base : BitVec 4) (ix : VSrc) (vd : BitVec 6) (fmt : Fmt) :
    Statement (.atomMax base ix vd fmt) := long rfl rfl
theorem atomAnd (base : BitVec 4) (ix : VSrc) (vd : BitVec 6) (fmt : Fmt) :
    Statement (.atomAnd base ix vd fmt) := long rfl rfl
theorem atomOr (base : BitVec 4) (ix : VSrc) (vd : BitVec 6) (fmt : Fmt) :
    Statement (.atomOr base ix vd fmt) := long rfl rfl
theorem atomXor (base : BitVec 4) (ix : VSrc) (vd : BitVec 6) (fmt : Fmt) :
    Statement (.atomXor base ix vd fmt) := long rfl rfl
theorem atomXchg (base : BitVec 4) (ix : VSrc) (vd : BitVec 6) (fmt : Fmt) :
    Statement (.atomXchg base ix vd fmt) := long rfl rfl
theorem atomCas (base : BitVec 4) (ix : VSrc) (vd : BitVec 6) (fmt : Fmt) :
    Statement (.atomCas base ix vd fmt) := long rfl rfl
theorem ldfe (base : BitVec 4) (ix : VSrc) (vd : BitVec 6) (fmt : Fmt) :
    Statement (.ldfe base ix vd fmt) := long rfl rfl
theorem stfe (base : BitVec 4) (ix : VSrc) (vd : BitVec 6) (fmt : Fmt) :
    Statement (.stfe base ix vd fmt) := long rfl rfl
theorem ldf (base : BitVec 4) (ix : VSrc) (vd : BitVec 6) (fmt : Fmt) :
    Statement (.ldf base ix vd fmt) := long rfl rfl
theorem rel (sc : Scope) : Statement (.rel sc) := long rfl rfl
theorem acq (sc : Scope) : Statement (.acq sc) := long rfl rfl
theorem acqset (sc : Scope) (sa : SSrc) : Statement (.acqset sc sa) := long rfl rfl
theorem fence (sc : Scope) : Statement (.fence sc) := long rfl rfl
theorem bar (sc : Scope) (sd : BitVec 6) : Statement (.bar sc sd) := long rfl rfl
theorem gbar (sc : Scope) (sd : BitVec 6) : Statement (.gbar sc sd) := long rfl rfl
theorem gjoin (sa : SSrc) : Statement (.gjoin sa) := long rfl rfl
theorem spawn (p : BitVec 4) (np : BitVec 3) (sa : SSrc) (sd : BitVec 6) :
    Statement (.spawn p np sa sd) := long rfl rfl
theorem jwait (sa : SSrc) : Statement (.jwait sa) := long rfl rfl
theorem copy (sn : BitVec 6) (sa : SSrc) (sd : BitVec 6) : Statement (.copy sn sa sd) := long rfl rfl
theorem cbseal (sd : BitVec 6) : Statement (.cbseal sd) := long rfl rfl
theorem cbwait (sa : SSrc) : Statement (.cbwait sa) := long rfl rfl
theorem talloc (sa : SSrc) (sd : BitVec 6) : Statement (.talloc sa sd) := long rfl rfl
theorem tready (sa : SSrc) : Statement (.tready sa) := long rfl rfl
theorem trel (sa : SSrc) : Statement (.trel sa) := long rfl rfl
theorem tstat (sa : SSrc) (sd : BitVec 6) : Statement (.tstat sa sd) := long rfl rfl
theorem mm (fmt : Tag) (acc : BitVec 5) (oma omb : BitVec 4) (sd : BitVec 6) :
    Statement (.mm fmt acc oma omb sd) := long rfl rfl
theorem mmSp (fmt : Tag) (acc : BitVec 5) (oma omb : BitVec 4) (sd : BitVec 6) :
    Statement (.mmSp fmt acc oma omb sd) := long rfl rfl
theorem mmo (fmt : Tag) (vd va : BitVec 6) (omb sd : BitVec 4) : Statement (.mmo fmt vd va omb sd) := long rfl rfl
theorem mmoSp (fmt : Tag) (vd va : BitVec 6) (omb sd : BitVec 4) : Statement (.mmoSp fmt vd va omb sd) := long rfl rfl
theorem aalloc (sa : SSrc) (sd : BitVec 6) : Statement (.aalloc sa sd) := long rfl rfl
theorem afree (n : BitVec 5) : Statement (.afree n) := long rfl rfl
theorem azero (n : BitVec 5) : Statement (.azero n) := long rfl rfl
theorem adrain (addMode : Bool) (h : BitVec 5) (sa : SSrc) (sd : BitVec 6) :
    Statement (.adrain addMode h sa sd) := long rfl rfl
theorem adrainT (addMode : Bool) (sa : SSrc) (sd : BitVec 6) : Statement (.adrainT addMode sa sd) := long rfl rfl
theorem wbld (sa : SSrc) (sd : BitVec 6) : Statement (.wbld sa sd) := long rfl rfl
theorem omset (k : BitVec 4) (sa : SSrc) : Statement (.omset k sa) := long rfl rfl
theorem nfset (k : BitVec 4) (sa : SSrc) : Statement (.nfset k sa) := long rfl rfl
theorem nfget (k : BitVec 4) (sd : BitVec 6) : Statement (.nfget k sd) := long rfl rfl
theorem dmset (side : Bool) (sa : SSrc) : Statement (.dmset side sa) := long rfl rfl
theorem sqld (s32 : Bool) (qd : BitVec 3) (sa : SSrc) : Statement (.sqld s32 qd sa) := long rfl rfl
theorem sqst (qa : BitVec 3) (sa : SSrc) : Statement (.sqst qa sa) := long rfl rfl
theorem sqint (qa qd qb : BitVec 3) : Statement (.sqint qa qd qb) := long rfl rfl
theorem squni (qa qd qb : BitVec 3) : Statement (.squni qa qd qb) := long rfl rfl
theorem sqsub (qa qd qb : BitVec 3) : Statement (.sqsub qa qd qb) := long rfl rfl
theorem sqmadd (qa qd qb : BitVec 3) : Statement (.sqmadd qa qd qb) := long rfl rfl
theorem sqcnt (qa : BitVec 3) (sd : BitVec 6) : Statement (.sqcnt qa sd) := long rfl rfl
theorem sqext (qa : BitVec 3) (sa : SSrc) (vd : BitVec 6) : Statement (.sqext qa sa vd) := long rfl rfl
theorem cscene (sa : SSrc) (sd : BitVec 6) : Statement (.cscene sa sd) := long rfl rfl
theorem cclose (sa : SSrc) : Statement (.cclose sa) := long rfl rfl
theorem ckind (k : BodyKind) (sa : SSrc) (vb : BitVec 6) : Statement (.ckind k sa vb) := long rfl rfl
theorem clink (joint : Bool) (sa : SSrc) (vb : BitVec 6) : Statement (.clink joint sa vb) := long rfl rfl
theorem cunlink (joint : Bool) (sa : SSrc) (vb : BitVec 6) : Statement (.cunlink joint sa vb) := long rfl rfl
theorem cstep (sa : SSrc) (sd : BitVec 6) : Statement (.cstep sa sd) := long rfl rfl
theorem cwake (sa : SSrc) (vb : BitVec 6) : Statement (.cwake sa vb) := long rfl rfl
theorem cquery (f : QueryField) (sa : SSrc) (vb : BitVec 6) : Statement (.cquery f sa vb) := long rfl rfl
theorem enq (e : EngineId) (sa : SSrc) (sd : BitVec 6) : Statement (.enq e sa sd) := long rfl rfl
theorem eseq (e : EngineId) (sd : BitVec 6) : Statement (.eseq e sd) := long rfl rfl
theorem ewait (e : EngineId) (sa : SSrc) (sd : BitVec 6) : Statement (.ewait e sa sd) := long rfl rfl
theorem vgrow (g : BitVec 3) : Statement (.vgrow g) := long rfl rfl
theorem vshrink (g : BitVec 3) : Statement (.vshrink g) := long rfl rfl
theorem crr (cr : CtlReg) (sa : SSrc) (sd : BitVec 6) : Statement (.crr cr sa sd) := long rfl rfl
theorem crw (cr : CtlReg) (sa : SSrc) (sd : BitVec 6) : Statement (.crw cr sa sd) := long rfl rfl
theorem crs (cr : CtlReg) (sa : SSrc) (sd : BitVec 6) : Statement (.crs cr sa sd) := long rfl rfl
theorem crc (cr : CtlReg) (sa : SSrc) (sd : BitVec 6) : Statement (.crc cr sa sd) := long rfl rfl
theorem trap (n : BitVec 7) : Statement (.trap n) := long rfl rfl
theorem brk (n : BitVec 7) : Statement (.brk n) := long rfl rfl
theorem ret : Statement (.ret) := long rfl rfl
theorem rcv : Statement (.rcv) := long rfl rfl
theorem pause : Statement (.pause) := long rfl rfl
theorem exit : Statement (.exit) := long rfl rfl
theorem gleave : Statement (.gleave) := long rfl rfl
theorem ifence : Statement (.ifence) := long rfl rfl
theorem wbldRel : Statement (.wbldRel) := long rfl rfl
theorem csleep : Statement (.csleep) := long rfl rfl
theorem rte : Statement (.rte) := long rfl rfl
theorem nop : Statement (.nop) := long rfl rfl
theorem tcinv (sc : Scope) (sa : SSrc) : Statement (.tcinv sc sa) := long rfl rfl
theorem tcinva (sc : Scope) (sa : SSrc) : Statement (.tcinva sc sa) := long rfl rfl
theorem targetEntry (payload : BitVec 20) : Statement (.targetEntry payload) := long rfl rfl
theorem targetListHeader (payload : BitVec 20) : Statement (.targetListHeader payload) := long rfl rfl
theorem hint (hk : BitVec 5) (payload : BitVec 20) : Statement (.hint hk payload) := long rfl rfl
theorem quantumExpiry (team : Nat) : Statement (.quantumExpiry team) := event rfl rfl
theorem issueTurn (core : Nat) (prefetch : Bool) : Statement (.issueTurn core prefetch) := event rfl rfl
theorem spawnGroupTimeout (gang : Nat) (entry : BitVec 64) :
    Statement (.spawnGroupTimeout gang entry) := event rfl rfl
theorem familyResourceReturn (family : Nat) : Statement (.familyResourceReturn family) := event rfl rfl
theorem teamSwapOut (core : Nat) : Statement (.teamSwapOut core) := event rfl rfl
theorem swappedTeamRestore (team : Nat) : Statement (.swappedTeamRestore team) := event rfl rfl
theorem logicalClockGrant (team : Nat) : Statement (.logicalClockGrant team) := event rfl rfl
theorem publicationRecord (team : Nat) : Statement (.publicationRecord team) := event rfl rfl
theorem acquireComplete (team : Nat) : Statement (.acquireComplete team) := event rfl rfl
theorem loadReturn (team : Nat) : Statement (.loadReturn team) := event rfl rfl
theorem homeAtomic (team : Nat) : Statement (.homeAtomic team) := event rfl rfl
theorem logDrain (core : Nat) : Statement (.logDrain core) := event rfl rfl
theorem homeApply (index : Nat) : Statement (.homeApply index) := event rfl rfl
theorem logAck (core : Nat) : Statement (.logAck core) := event rfl rfl
theorem logSpill (core : Nat) : Statement (.logSpill core) := event rfl rfl
theorem logFullPreemption (team : Nat) : Statement (.logFullPreemption team) := event rfl rfl
theorem trapEntry (team : Nat) : Statement (.trapEntry team) := event rfl rfl
theorem watchdogRetireTimeout (team : Nat) : Statement (.watchdogRetireTimeout team) := event rfl rfl
theorem watchdogStarveTimeout (team : Nat) : Statement (.watchdogStarveTimeout team) := event rfl rfl
theorem handlerHang (team : Nat) : Statement (.handlerHang team) := event rfl rfl
theorem gangPreemption (gang : Nat) : Statement (.gangPreemption gang) := event rfl rfl
theorem gangRestore (gang : Nat) (damaged : List Nat) : Statement (.gangRestore gang damaged) := event rfl rfl
theorem cstepRegroup (scene : Nat) : Statement (.cstepRegroup scene) := event rfl rfl
theorem bodyRecordWriteback (scene body : Nat) : Statement (.bodyRecordWriteback scene body) := event rfl rfl
theorem runAccept (chan : Nat) : Statement (.runAccept chan) := event rfl rfl
theorem bceCopyCommand (chan run : Nat) : Statement (.bceCopyCommand chan run) := event rfl rfl
theorem bceDrainCommand (chan run : Nat) : Statement (.bceDrainCommand chan run) := event rfl rfl
theorem chainNop (chan run : Nat) : Statement (.chainNop chan run) := event rfl rfl
theorem copyEntry (chan run : Nat) : Statement (.copyEntry chan run) := event rfl rfl
theorem gather (chan run : Nat) : Statement (.gather chan run) := event rfl rfl
theorem scatter (chan run : Nat) : Statement (.scatter chan run) := event rfl rfl
theorem drainEntry (chan run : Nat) : Statement (.drainEntry chan run) := event rfl rfl
theorem solve (chan run : Nat) : Statement (.solve chan run) := event rfl rfl
theorem loopEntry (chan run : Nat) : Statement (.loopEntry chan run) := event rfl rfl
theorem condEntry (chan run : Nat) : Statement (.condEntry chan run) := event rfl rfl
theorem condRetest (chan run : Nat) : Statement (.condRetest chan run) := event rfl rfl
theorem entryCompletion (chan run : Nat) : Statement (.entryCompletion chan run) := event rfl rfl
theorem mxePass (core : Nat) : Statement (.mxePass core) := event rfl rfl
theorem mxeIdle (core : Nat) : Statement (.mxeIdle core) := event rfl rfl
theorem mxeAdmission : Statement (.mxeAdmission) := event rfl rfl
theorem queueDoorbell (queue : Nat) (db : BitVec 64) : Statement (.queueDoorbell queue db) := event rfl rfl
theorem nopPacket (queue : Nat) : Statement (.nopPacket queue) := event rfl rfl
theorem launchPacket (queue : Nat) : Statement (.launchPacket queue) := event rfl rfl
theorem waitPacket (queue : Nat) : Statement (.waitPacket queue) := event rfl rfl
theorem levelPacket (queue : Nat) : Statement (.levelPacket queue) := event rfl rfl
theorem holdPacket (queue : Nat) : Statement (.holdPacket queue) := event rfl rfl
theorem signalPacket (queue : Nat) : Statement (.signalPacket queue) := event rfl rfl
theorem packetCompletion (queue : Nat) : Statement (.packetCompletion queue) := event rfl rfl
theorem queueBind (queue : Nat) : Statement (.queueBind queue) := event rfl rfl
theorem sliceExpiry (queue : Nat) : Statement (.sliceExpiry queue) := event rfl rfl
theorem priorityAgeing (queue : Nat) : Statement (.priorityAgeing queue) := event rfl rfl
theorem gangPlacement : Statement (.gangPlacement) := event rfl rfl
theorem groupStart (group : Nat) : Statement (.groupStart group) := event rfl rfl
theorem groupMissedStart (queue : Nat) : Statement (.groupMissedStart queue) := event rfl rfl
theorem missedStartReport (tag : BitVec 32) (tick : BitVec 64) :
    Statement (.missedStartReport tag tick) := event rfl rfl
theorem queueRegistration (queue : Nat) (tenant : BitVec 8) (desc : BitVec 64) :
    Statement (.queueRegistration queue tenant desc) := event rfl rfl
theorem queueDeregistration (queue : Nat) : Statement (.queueDeregistration queue) := event rfl rfl
theorem queueRecovery (queue : Nat) : Statement (.queueRecovery queue) := event rfl rfl
theorem checkRecordRegistration (queue : Nat) (addr : BitVec 64) :
    Statement (.checkRecordRegistration queue addr) := event rfl rfl
theorem tenantRootRegistration (tenant : BitVec 8) (root : BitVec 64) :
    Statement (.tenantRootRegistration tenant root) := event rfl rfl
theorem entryListRegistration (tenant : BitVec 8) (entries : List (BitVec 64)) :
    Statement (.entryListRegistration tenant entries) := event rfl rfl
theorem watchdogExponent (tenant : BitVec 8) (wde : Nat) : Statement (.watchdogExponent tenant wde) := event rfl rfl
theorem faultQueueRegistration (tenant : BitVec 8) (desc : BitVec 64) :
    Statement (.faultQueueRegistration tenant desc) := event rfl rfl
theorem faultQueueConsume (tenant : BitVec 8) (rd : BitVec 64) :
    Statement (.faultQueueConsume tenant rd) := event rfl rfl
theorem ackWord (tenant : BitVec 8) : Statement (.ackWord tenant) := event rfl rfl
theorem hostWrite (path : HostPath) (bytes : List (BitVec 8)) : Statement (.hostWrite path bytes) := event rfl rfl
theorem hostRead (path : HostPath) (len : Nat) : Statement (.hostRead path len) := event rfl rfl
theorem rootPortDma (port : Nat) (va : BitVec 64) (write : Bool) (bytes : List (BitVec 8)) :
    Statement (.rootPortDma port va write bytes) := event rfl rfl
theorem flitReceive (flit : Flit) : Statement (.flitReceive flit) := event rfl rfl
theorem flowAck (flow : FlowId) (num : BitVec 32) : Statement (.flowAck flow num) := event rfl rfl
theorem resendTimeout (flow : FlowId) : Statement (.resendTimeout flow) := event rfl rfl
theorem linkLaneRetire (port : Nat) (lane : Nat) : Statement (.linkLaneRetire port lane) := event rfl rfl
theorem linkKeyReplace (dev : BitVec 10) (cls : BitVec 2) : Statement (.linkKeyReplace dev cls) := event rfl rfl
theorem deviceIdAssignment (dev : BitVec 10) (count : BitVec 64) :
    Statement (.deviceIdAssignment dev count) := event rfl rfl
theorem routeTableWrite (dev : BitVec 10) (mask : BitVec 36) : Statement (.routeTableWrite dev mask) := event rfl rfl
theorem meridianTimingMessage (reference : BitVec 64) : Statement (.meridianTimingMessage reference) := event rfl rfl
theorem meridianOutOfBound : Statement (.meridianOutOfBound) := event rfl rfl
theorem powerSample (watts : Nat) : Statement (.powerSample watts) := event rfl rfl
theorem monitorSample (sensor : Sensor) (reading : Nat) : Statement (.monitorSample sensor reading) := event rfl rfl
theorem voltageDroop (core : Nat) : Statement (.voltageDroop core) := event rfl rfl
theorem bringUp (cfg : BringUp) : Statement (.bringUp cfg) := event rfl rfl
theorem thirdRunVote (family : Nat) (third : Option (BitVec 256)) :
    Statement (.thirdRunVote family third) := event rfl rfl
theorem coreOutOfService (core : Nat) : Statement (.coreOutOfService core) := event rfl rfl
theorem hbmRowSpare (chan row : Nat) : Statement (.hbmRowSpare chan row) := event rfl rfl
theorem hbmChannelRetireRequest (chan : Nat) : Statement (.hbmChannelRetireRequest chan) := event rfl rfl
theorem hbmChannelRetire (chan : Nat) : Statement (.hbmChannelRetire chan) := event rfl rfl
theorem dieCacheWayRetire (die way : Nat) : Statement (.dieCacheWayRetire die way) := event rfl rfl
theorem solverEngineRetire (engine : BitVec 5) : Statement (.solverEngineRetire engine) := event rfl rfl
theorem firmwareUpdate (slot : BitVec 3) (image : List (BitVec 8)) (verified : Bool) :
    Statement (.firmwareUpdate slot image verified) := event rfl rfl
theorem tenantCreate (tenant : BitVec 8) : Statement (.tenantCreate tenant) := event rfl rfl
theorem tenantDelete (tenant : BitVec 8) : Statement (.tenantDelete tenant) := event rfl rfl
theorem debugAdmission (tenant : BitVec 8) (signed : Bool) :
    Statement (.debugAdmission tenant signed) := event rfl rfl
theorem jobOpen (queue : Nat) : Statement (.jobOpen queue) := event rfl rfl
theorem jobClose (queue base len dest : Nat) : Statement (.jobClose queue base len dest) := event rfl rfl
theorem debugStopRequest (team : Nat) : Statement (.debugStopRequest team) := event rfl rfl
theorem debugContinue (team : Nat) : Statement (.debugContinue team) := event rfl rfl
theorem debugStep (team : Nat) : Statement (.debugStep team) := event rfl rfl
theorem registerWrite (target : RegTarget) (value : BitVec 64) :
    Statement (.registerWrite target value) := event rfl rfl
theorem translationWalk (core : Nat) (tenant : BitVec 8) (va : BitVec 64) (acc : AccKind) (sys : Bool) :
    Statement (.translationWalk core tenant va acc sys) := event rfl rfl
theorem powerLoss : Statement (.powerLoss) := event rfl rfl
theorem domainDissolution : Statement (.domainDissolution) := event rfl rfl
theorem debugAdmissionEnd (tenant : BitVec 8) : Statement (.debugAdmissionEnd tenant) := event rfl rfl

end Sys2Proof.Laws.Parcels
end

