-- ==== Sys2Proof/Laws/State.lean ====
section
/-!
SUPPORT. What replacing one record of the state leaves of every other field, and what is found after it.
-/

namespace Sys2Proof.Machine

/-! ### `putTeam` -/

@[simp] theorem State.putTeam_agenda (s : State) (t : Team) : (s.putTeam t).agenda = s.agenda := rfl
@[simp] theorem State.putTeam_defer (s : State) (t : Team) : (s.putTeam t).defer = s.defer := rfl
@[simp] theorem State.putTeam_free (s : State) (t : Team) : (s.putTeam t).free = s.free := rfl
@[simp] theorem State.putTeam_cur (s : State) (t : Team) : (s.putTeam t).cur = s.cur := rfl
@[simp] theorem State.putTeam_turnLeft (s : State) (t : Team) : (s.putTeam t).turnLeft = s.turnLeft := rfl
@[simp] theorem State.putTeam_nextId (s : State) (t : Team) : (s.putTeam t).nextId = s.nextId := rfl
@[simp] theorem State.putTeam_gangs (s : State) (t : Team) : (s.putTeam t).gangs = s.gangs := rfl
@[simp] theorem State.putTeam_families (s : State) (t : Team) : (s.putTeam t).families = s.families := rfl
@[simp] theorem State.putTeam_copies (s : State) (t : Team) : (s.putTeam t).copies = s.copies := rfl
@[simp] theorem State.putTeam_epochs (s : State) (t : Team) : (s.putTeam t).epochs = s.epochs := rfl
@[simp] theorem State.putTeam_groups (s : State) (t : Team) : (s.putTeam t).groups = s.groups := rfl
@[simp] theorem State.putTeam_cores (s : State) (t : Team) : (s.putTeam t).cores = s.cores := rfl
@[simp] theorem State.putTeam_mem (s : State) (t : Team) : (s.putTeam t).mem = s.mem := rfl
@[simp] theorem State.putTeam_poison (s : State) (t : Team) : (s.putTeam t).poison = s.poison := rfl
@[simp] theorem State.putTeam_held (s : State) (t : Team) : (s.putTeam t).held = s.held := rfl
@[simp] theorem State.putTeam_lostPages (s : State) (t : Team) : (s.putTeam t).lostPages = s.lostPages := rfl
@[simp] theorem State.putTeam_staged (s : State) (t : Team) : (s.putTeam t).staged = s.staged := rfl
@[simp] theorem State.putTeam_flights (s : State) (t : Team) : (s.putTeam t).flights = s.flights := rfl
@[simp] theorem State.putTeam_pubs (s : State) (t : Team) : (s.putTeam t).pubs = s.pubs := rfl
@[simp] theorem State.putTeam_pubNum (s : State) (t : Team) : (s.putTeam t).pubNum = s.pubNum := rfl
@[simp] theorem State.putTeam_pubSeq (s : State) (t : Team) : (s.putTeam t).pubSeq = s.pubSeq := rfl
@[simp] theorem State.putTeam_pendPubs (s : State) (t : Team) : (s.putTeam t).pendPubs = s.pendPubs := rfl
@[simp] theorem State.putTeam_tick (s : State) (t : Team) : (s.putTeam t).tick = s.tick := rfl
@[simp] theorem State.putTeam_inBound (s : State) (t : Team) : (s.putTeam t).inBound = s.inBound := rfl
@[simp] theorem State.putTeam_lastTiming (s : State) (t : Team) : (s.putTeam t).lastTiming = s.lastTiming := rfl
@[simp] theorem State.putTeam_holdBack (s : State) (t : Team) : (s.putTeam t).holdBack = s.holdBack := rfl
@[simp] theorem State.putTeam_catchUp (s : State) (t : Team) : (s.putTeam t).catchUp = s.catchUp := rfl
@[simp] theorem State.putTeam_lastSent (s : State) (t : Team) : (s.putTeam t).lastSent = s.lastSent := rfl
@[simp] theorem State.putTeam_inDomain (s : State) (t : Team) : (s.putTeam t).inDomain = s.inDomain := rfl
@[simp] theorem State.putTeam_dev (s : State) (t : Team) : (s.putTeam t).dev = s.dev := rfl
@[simp] theorem State.putTeam_bringup (s : State) (t : Team) : (s.putTeam t).bringup = s.bringup := rfl
@[simp] theorem State.putTeam_bringupFailed (s : State) (t : Team) : (s.putTeam t).bringupFailed = s.bringupFailed := rfl
@[simp] theorem State.putTeam_coresStarted (s : State) (t : Team) : (s.putTeam t).coresStarted = s.coresStarted := rfl
@[simp] theorem State.putTeam_nextStart (s : State) (t : Team) : (s.putTeam t).nextStart = s.nextStart := rfl
@[simp] theorem State.putTeam_hostMode (s : State) (t : Team) : (s.putTeam t).hostMode = s.hostMode := rfl
@[simp] theorem State.putTeam_hostLink (s : State) (t : Team) : (s.putTeam t).hostLink = s.hostLink := rfl
@[simp] theorem State.putTeam_rootPorts (s : State) (t : Team) : (s.putTeam t).rootPorts = s.rootPorts := rfl
@[simp] theorem State.putTeam_mailRings (s : State) (t : Team) : (s.putTeam t).mailRings = s.mailRings := rfl
@[simp] theorem State.putTeam_vectorTable (s : State) (t : Team) : (s.putTeam t).vectorTable = s.vectorTable := rfl
@[simp] theorem State.putTeam_hostCached (s : State) (t : Team) : (s.putTeam t).hostCached = s.hostCached := rfl
@[simp] theorem State.putTeam_backInvalidates (s : State) (t : Team) : (s.putTeam t).backInvalidates = s.backInvalidates := rfl
@[simp] theorem State.putTeam_queues (s : State) (t : Team) : (s.putTeam t).queues = s.queues := rfl
@[simp] theorem State.putTeam_checkRecords (s : State) (t : Team) : (s.putTeam t).checkRecords = s.checkRecords := rfl
@[simp] theorem State.putTeam_lastQueueSlot (s : State) (t : Team) : (s.putTeam t).lastQueueSlot = s.lastQueueSlot := rfl
@[simp] theorem State.putTeam_launches (s : State) (t : Team) : (s.putTeam t).launches = s.launches := rfl
@[simp] theorem State.putTeam_tenants (s : State) (t : Team) : (s.putTeam t).tenants = s.tenants := rfl
@[simp] theorem State.putTeam_remoteRoots (s : State) (t : Team) : (s.putTeam t).remoteRoots = s.remoteRoots := rfl
@[simp] theorem State.putTeam_chans (s : State) (t : Team) : (s.putTeam t).chans = s.chans := rfl
@[simp] theorem State.putTeam_served (s : State) (t : Team) : (s.putTeam t).served = s.served := rfl
@[simp] theorem State.putTeam_factors (s : State) (t : Team) : (s.putTeam t).factors = s.factors := rfl
@[simp] theorem State.putTeam_scenes (s : State) (t : Team) : (s.putTeam t).scenes = s.scenes := rfl
@[simp] theorem State.putTeam_msix (s : State) (t : Team) : (s.putTeam t).msix = s.msix := rfl
@[simp] theorem State.putTeam_hostReads (s : State) (t : Team) : (s.putTeam t).hostReads = s.hostReads := rfl
@[simp] theorem State.putTeam_apertures (s : State) (t : Team) : (s.putTeam t).apertures = s.apertures := rfl
@[simp] theorem State.putTeam_functions (s : State) (t : Team) : (s.putTeam t).functions = s.functions := rfl
@[simp] theorem State.putTeam_linkSent (s : State) (t : Team) : (s.putTeam t).linkSent = s.linkSent := rfl
@[simp] theorem State.putTeam_messages (s : State) (t : Team) : (s.putTeam t).messages = s.messages := rfl
@[simp] theorem State.putTeam_startReports (s : State) (t : Team) : (s.putTeam t).startReports = s.startReports := rfl
@[simp] theorem State.putTeam_dmaReads (s : State) (t : Team) : (s.putTeam t).dmaReads = s.dmaReads := rfl
@[simp] theorem State.putTeam_dmaRefused (s : State) (t : Team) : (s.putTeam t).dmaRefused = s.dmaRefused := rfl
@[simp] theorem State.putTeam_mailbox (s : State) (t : Team) : (s.putTeam t).mailbox = s.mailbox := rfl
@[simp] theorem State.putTeam_lodestarBox (s : State) (t : Team) : (s.putTeam t).lodestarBox = s.lodestarBox := rfl
@[simp] theorem State.putTeam_machineEvents (s : State) (t : Team) : (s.putTeam t).machineEvents = s.machineEvents := rfl
@[simp] theorem State.putTeam_lostEvents (s : State) (t : Team) : (s.putTeam t).lostEvents = s.lostEvents := rfl
@[simp] theorem State.putTeam_routes (s : State) (t : Team) : (s.putTeam t).routes = s.routes := rfl
@[simp] theorem State.putTeam_ports (s : State) (t : Team) : (s.putTeam t).ports = s.ports := rfl
@[simp] theorem State.putTeam_flows (s : State) (t : Team) : (s.putTeam t).flows = s.flows := rfl
@[simp] theorem State.putTeam_linkKeys (s : State) (t : Team) : (s.putTeam t).linkKeys = s.linkKeys := rfl
@[simp] theorem State.putTeam_measures (s : State) (t : Team) : (s.putTeam t).measures = s.measures := rfl
@[simp] theorem State.putTeam_jobs (s : State) (t : Team) : (s.putTeam t).jobs = s.jobs := rfl
@[simp] theorem State.putTeam_signIndex (s : State) (t : Team) : (s.putTeam t).signIndex = s.signIndex := rfl
@[simp] theorem State.putTeam_thermal (s : State) (t : Team) : (s.putTeam t).thermal = s.thermal := rfl
@[simp] theorem State.putTeam_rampAt (s : State) (t : Team) : (s.putTeam t).rampAt = s.rampAt := rfl
@[simp] theorem State.putTeam_coresRetired (s : State) (t : Team) : (s.putTeam t).coresRetired = s.coresRetired := rfl
@[simp] theorem State.putTeam_rowsSpared (s : State) (t : Team) : (s.putTeam t).rowsSpared = s.rowsSpared := rfl
@[simp] theorem State.putTeam_corrections (s : State) (t : Team) : (s.putTeam t).corrections = s.corrections := rfl
@[simp] theorem State.putTeam_rowErrors (s : State) (t : Team) : (s.putTeam t).rowErrors = s.rowErrors := rfl
@[simp] theorem State.putTeam_wayErrors (s : State) (t : Team) : (s.putTeam t).wayErrors = s.wayErrors := rfl
@[simp] theorem State.putTeam_channelsAsked (s : State) (t : Team) : (s.putTeam t).channelsAsked = s.channelsAsked := rfl
@[simp] theorem State.putTeam_channelsRetired (s : State) (t : Team) : (s.putTeam t).channelsRetired = s.channelsRetired := rfl
@[simp] theorem State.putTeam_waysRetired (s : State) (t : Team) : (s.putTeam t).waysRetired = s.waysRetired := rfl
@[simp] theorem State.putTeam_enginesRetired (s : State) (t : Team) : (s.putTeam t).enginesRetired = s.enginesRetired := rfl
@[simp] theorem State.putTeam_engineRepeats (s : State) (t : Team) : (s.putTeam t).engineRepeats = s.engineRepeats := rfl
@[simp] theorem State.putTeam_discarded (s : State) (t : Team) : (s.putTeam t).discarded = s.discarded := rfl
@[simp] theorem State.putTeam_upsets (s : State) (t : Team) : (s.putTeam t).upsets = s.upsets := rfl

/-! ### `modTeam` -/

@[simp] theorem State.modTeam_agenda (s : State) (id : Nat) (f : Team → Team) : (s.modTeam id f).agenda = s.agenda := rfl
@[simp] theorem State.modTeam_defer (s : State) (id : Nat) (f : Team → Team) : (s.modTeam id f).defer = s.defer := rfl
@[simp] theorem State.modTeam_free (s : State) (id : Nat) (f : Team → Team) : (s.modTeam id f).free = s.free := rfl
@[simp] theorem State.modTeam_cur (s : State) (id : Nat) (f : Team → Team) : (s.modTeam id f).cur = s.cur := rfl
@[simp] theorem State.modTeam_turnLeft (s : State) (id : Nat) (f : Team → Team) : (s.modTeam id f).turnLeft = s.turnLeft := rfl
@[simp] theorem State.modTeam_nextId (s : State) (id : Nat) (f : Team → Team) : (s.modTeam id f).nextId = s.nextId := rfl
@[simp] theorem State.modTeam_gangs (s : State) (id : Nat) (f : Team → Team) : (s.modTeam id f).gangs = s.gangs := rfl
@[simp] theorem State.modTeam_families (s : State) (id : Nat) (f : Team → Team) : (s.modTeam id f).families = s.families := rfl
@[simp] theorem State.modTeam_copies (s : State) (id : Nat) (f : Team → Team) : (s.modTeam id f).copies = s.copies := rfl
@[simp] theorem State.modTeam_epochs (s : State) (id : Nat) (f : Team → Team) : (s.modTeam id f).epochs = s.epochs := rfl
@[simp] theorem State.modTeam_groups (s : State) (id : Nat) (f : Team → Team) : (s.modTeam id f).groups = s.groups := rfl
@[simp] theorem State.modTeam_cores (s : State) (id : Nat) (f : Team → Team) : (s.modTeam id f).cores = s.cores := rfl
@[simp] theorem State.modTeam_mem (s : State) (id : Nat) (f : Team → Team) : (s.modTeam id f).mem = s.mem := rfl
@[simp] theorem State.modTeam_poison (s : State) (id : Nat) (f : Team → Team) : (s.modTeam id f).poison = s.poison := rfl
@[simp] theorem State.modTeam_held (s : State) (id : Nat) (f : Team → Team) : (s.modTeam id f).held = s.held := rfl
@[simp] theorem State.modTeam_lostPages (s : State) (id : Nat) (f : Team → Team) : (s.modTeam id f).lostPages = s.lostPages := rfl
@[simp] theorem State.modTeam_staged (s : State) (id : Nat) (f : Team → Team) : (s.modTeam id f).staged = s.staged := rfl
@[simp] theorem State.modTeam_flights (s : State) (id : Nat) (f : Team → Team) : (s.modTeam id f).flights = s.flights := rfl
@[simp] theorem State.modTeam_pubs (s : State) (id : Nat) (f : Team → Team) : (s.modTeam id f).pubs = s.pubs := rfl
@[simp] theorem State.modTeam_pubNum (s : State) (id : Nat) (f : Team → Team) : (s.modTeam id f).pubNum = s.pubNum := rfl
@[simp] theorem State.modTeam_pubSeq (s : State) (id : Nat) (f : Team → Team) : (s.modTeam id f).pubSeq = s.pubSeq := rfl
@[simp] theorem State.modTeam_pendPubs (s : State) (id : Nat) (f : Team → Team) : (s.modTeam id f).pendPubs = s.pendPubs := rfl
@[simp] theorem State.modTeam_tick (s : State) (id : Nat) (f : Team → Team) : (s.modTeam id f).tick = s.tick := rfl
@[simp] theorem State.modTeam_inBound (s : State) (id : Nat) (f : Team → Team) : (s.modTeam id f).inBound = s.inBound := rfl
@[simp] theorem State.modTeam_lastTiming (s : State) (id : Nat) (f : Team → Team) : (s.modTeam id f).lastTiming = s.lastTiming := rfl
@[simp] theorem State.modTeam_holdBack (s : State) (id : Nat) (f : Team → Team) : (s.modTeam id f).holdBack = s.holdBack := rfl
@[simp] theorem State.modTeam_catchUp (s : State) (id : Nat) (f : Team → Team) : (s.modTeam id f).catchUp = s.catchUp := rfl
@[simp] theorem State.modTeam_lastSent (s : State) (id : Nat) (f : Team → Team) : (s.modTeam id f).lastSent = s.lastSent := rfl
@[simp] theorem State.modTeam_inDomain (s : State) (id : Nat) (f : Team → Team) : (s.modTeam id f).inDomain = s.inDomain := rfl
@[simp] theorem State.modTeam_dev (s : State) (id : Nat) (f : Team → Team) : (s.modTeam id f).dev = s.dev := rfl
@[simp] theorem State.modTeam_bringup (s : State) (id : Nat) (f : Team → Team) : (s.modTeam id f).bringup = s.bringup := rfl
@[simp] theorem State.modTeam_bringupFailed (s : State) (id : Nat) (f : Team → Team) : (s.modTeam id f).bringupFailed = s.bringupFailed := rfl
@[simp] theorem State.modTeam_coresStarted (s : State) (id : Nat) (f : Team → Team) : (s.modTeam id f).coresStarted = s.coresStarted := rfl
@[simp] theorem State.modTeam_nextStart (s : State) (id : Nat) (f : Team → Team) : (s.modTeam id f).nextStart = s.nextStart := rfl
@[simp] theorem State.modTeam_hostMode (s : State) (id : Nat) (f : Team → Team) : (s.modTeam id f).hostMode = s.hostMode := rfl
@[simp] theorem State.modTeam_hostLink (s : State) (id : Nat) (f : Team → Team) : (s.modTeam id f).hostLink = s.hostLink := rfl
@[simp] theorem State.modTeam_rootPorts (s : State) (id : Nat) (f : Team → Team) : (s.modTeam id f).rootPorts = s.rootPorts := rfl
@[simp] theorem State.modTeam_mailRings (s : State) (id : Nat) (f : Team → Team) : (s.modTeam id f).mailRings = s.mailRings := rfl
@[simp] theorem State.modTeam_vectorTable (s : State) (id : Nat) (f : Team → Team) : (s.modTeam id f).vectorTable = s.vectorTable := rfl
@[simp] theorem State.modTeam_hostCached (s : State) (id : Nat) (f : Team → Team) : (s.modTeam id f).hostCached = s.hostCached := rfl
@[simp] theorem State.modTeam_backInvalidates (s : State) (id : Nat) (f : Team → Team) : (s.modTeam id f).backInvalidates = s.backInvalidates := rfl
@[simp] theorem State.modTeam_queues (s : State) (id : Nat) (f : Team → Team) : (s.modTeam id f).queues = s.queues := rfl
@[simp] theorem State.modTeam_checkRecords (s : State) (id : Nat) (f : Team → Team) : (s.modTeam id f).checkRecords = s.checkRecords := rfl
@[simp] theorem State.modTeam_lastQueueSlot (s : State) (id : Nat) (f : Team → Team) : (s.modTeam id f).lastQueueSlot = s.lastQueueSlot := rfl
@[simp] theorem State.modTeam_launches (s : State) (id : Nat) (f : Team → Team) : (s.modTeam id f).launches = s.launches := rfl
@[simp] theorem State.modTeam_tenants (s : State) (id : Nat) (f : Team → Team) : (s.modTeam id f).tenants = s.tenants := rfl
@[simp] theorem State.modTeam_remoteRoots (s : State) (id : Nat) (f : Team → Team) : (s.modTeam id f).remoteRoots = s.remoteRoots := rfl
@[simp] theorem State.modTeam_chans (s : State) (id : Nat) (f : Team → Team) : (s.modTeam id f).chans = s.chans := rfl
@[simp] theorem State.modTeam_served (s : State) (id : Nat) (f : Team → Team) : (s.modTeam id f).served = s.served := rfl
@[simp] theorem State.modTeam_factors (s : State) (id : Nat) (f : Team → Team) : (s.modTeam id f).factors = s.factors := rfl
@[simp] theorem State.modTeam_scenes (s : State) (id : Nat) (f : Team → Team) : (s.modTeam id f).scenes = s.scenes := rfl
@[simp] theorem State.modTeam_msix (s : State) (id : Nat) (f : Team → Team) : (s.modTeam id f).msix = s.msix := rfl
@[simp] theorem State.modTeam_hostReads (s : State) (id : Nat) (f : Team → Team) : (s.modTeam id f).hostReads = s.hostReads := rfl
@[simp] theorem State.modTeam_apertures (s : State) (id : Nat) (f : Team → Team) : (s.modTeam id f).apertures = s.apertures := rfl
@[simp] theorem State.modTeam_functions (s : State) (id : Nat) (f : Team → Team) : (s.modTeam id f).functions = s.functions := rfl
@[simp] theorem State.modTeam_linkSent (s : State) (id : Nat) (f : Team → Team) : (s.modTeam id f).linkSent = s.linkSent := rfl
@[simp] theorem State.modTeam_messages (s : State) (id : Nat) (f : Team → Team) : (s.modTeam id f).messages = s.messages := rfl
@[simp] theorem State.modTeam_startReports (s : State) (id : Nat) (f : Team → Team) : (s.modTeam id f).startReports = s.startReports := rfl
@[simp] theorem State.modTeam_dmaReads (s : State) (id : Nat) (f : Team → Team) : (s.modTeam id f).dmaReads = s.dmaReads := rfl
@[simp] theorem State.modTeam_dmaRefused (s : State) (id : Nat) (f : Team → Team) : (s.modTeam id f).dmaRefused = s.dmaRefused := rfl
@[simp] theorem State.modTeam_mailbox (s : State) (id : Nat) (f : Team → Team) : (s.modTeam id f).mailbox = s.mailbox := rfl
@[simp] theorem State.modTeam_lodestarBox (s : State) (id : Nat) (f : Team → Team) : (s.modTeam id f).lodestarBox = s.lodestarBox := rfl
@[simp] theorem State.modTeam_machineEvents (s : State) (id : Nat) (f : Team → Team) : (s.modTeam id f).machineEvents = s.machineEvents := rfl
@[simp] theorem State.modTeam_lostEvents (s : State) (id : Nat) (f : Team → Team) : (s.modTeam id f).lostEvents = s.lostEvents := rfl
@[simp] theorem State.modTeam_routes (s : State) (id : Nat) (f : Team → Team) : (s.modTeam id f).routes = s.routes := rfl
@[simp] theorem State.modTeam_ports (s : State) (id : Nat) (f : Team → Team) : (s.modTeam id f).ports = s.ports := rfl
@[simp] theorem State.modTeam_flows (s : State) (id : Nat) (f : Team → Team) : (s.modTeam id f).flows = s.flows := rfl
@[simp] theorem State.modTeam_linkKeys (s : State) (id : Nat) (f : Team → Team) : (s.modTeam id f).linkKeys = s.linkKeys := rfl
@[simp] theorem State.modTeam_measures (s : State) (id : Nat) (f : Team → Team) : (s.modTeam id f).measures = s.measures := rfl
@[simp] theorem State.modTeam_jobs (s : State) (id : Nat) (f : Team → Team) : (s.modTeam id f).jobs = s.jobs := rfl
@[simp] theorem State.modTeam_signIndex (s : State) (id : Nat) (f : Team → Team) : (s.modTeam id f).signIndex = s.signIndex := rfl
@[simp] theorem State.modTeam_thermal (s : State) (id : Nat) (f : Team → Team) : (s.modTeam id f).thermal = s.thermal := rfl
@[simp] theorem State.modTeam_rampAt (s : State) (id : Nat) (f : Team → Team) : (s.modTeam id f).rampAt = s.rampAt := rfl
@[simp] theorem State.modTeam_coresRetired (s : State) (id : Nat) (f : Team → Team) : (s.modTeam id f).coresRetired = s.coresRetired := rfl
@[simp] theorem State.modTeam_rowsSpared (s : State) (id : Nat) (f : Team → Team) : (s.modTeam id f).rowsSpared = s.rowsSpared := rfl
@[simp] theorem State.modTeam_corrections (s : State) (id : Nat) (f : Team → Team) : (s.modTeam id f).corrections = s.corrections := rfl
@[simp] theorem State.modTeam_rowErrors (s : State) (id : Nat) (f : Team → Team) : (s.modTeam id f).rowErrors = s.rowErrors := rfl
@[simp] theorem State.modTeam_wayErrors (s : State) (id : Nat) (f : Team → Team) : (s.modTeam id f).wayErrors = s.wayErrors := rfl
@[simp] theorem State.modTeam_channelsAsked (s : State) (id : Nat) (f : Team → Team) : (s.modTeam id f).channelsAsked = s.channelsAsked := rfl
@[simp] theorem State.modTeam_channelsRetired (s : State) (id : Nat) (f : Team → Team) : (s.modTeam id f).channelsRetired = s.channelsRetired := rfl
@[simp] theorem State.modTeam_waysRetired (s : State) (id : Nat) (f : Team → Team) : (s.modTeam id f).waysRetired = s.waysRetired := rfl
@[simp] theorem State.modTeam_enginesRetired (s : State) (id : Nat) (f : Team → Team) : (s.modTeam id f).enginesRetired = s.enginesRetired := rfl
@[simp] theorem State.modTeam_engineRepeats (s : State) (id : Nat) (f : Team → Team) : (s.modTeam id f).engineRepeats = s.engineRepeats := rfl
@[simp] theorem State.modTeam_discarded (s : State) (id : Nat) (f : Team → Team) : (s.modTeam id f).discarded = s.discarded := rfl
@[simp] theorem State.modTeam_upsets (s : State) (id : Nat) (f : Team → Team) : (s.modTeam id f).upsets = s.upsets := rfl

/-! ### `putGang` -/

@[simp] theorem State.putGang_agenda (s : State) (g : Gang) : (s.putGang g).agenda = s.agenda := rfl
@[simp] theorem State.putGang_defer (s : State) (g : Gang) : (s.putGang g).defer = s.defer := rfl
@[simp] theorem State.putGang_free (s : State) (g : Gang) : (s.putGang g).free = s.free := rfl
@[simp] theorem State.putGang_cur (s : State) (g : Gang) : (s.putGang g).cur = s.cur := rfl
@[simp] theorem State.putGang_turnLeft (s : State) (g : Gang) : (s.putGang g).turnLeft = s.turnLeft := rfl
@[simp] theorem State.putGang_nextId (s : State) (g : Gang) : (s.putGang g).nextId = s.nextId := rfl
@[simp] theorem State.putGang_teams (s : State) (g : Gang) : (s.putGang g).teams = s.teams := rfl
@[simp] theorem State.putGang_families (s : State) (g : Gang) : (s.putGang g).families = s.families := rfl
@[simp] theorem State.putGang_copies (s : State) (g : Gang) : (s.putGang g).copies = s.copies := rfl
@[simp] theorem State.putGang_epochs (s : State) (g : Gang) : (s.putGang g).epochs = s.epochs := rfl
@[simp] theorem State.putGang_groups (s : State) (g : Gang) : (s.putGang g).groups = s.groups := rfl
@[simp] theorem State.putGang_cores (s : State) (g : Gang) : (s.putGang g).cores = s.cores := rfl
@[simp] theorem State.putGang_mem (s : State) (g : Gang) : (s.putGang g).mem = s.mem := rfl
@[simp] theorem State.putGang_poison (s : State) (g : Gang) : (s.putGang g).poison = s.poison := rfl
@[simp] theorem State.putGang_held (s : State) (g : Gang) : (s.putGang g).held = s.held := rfl
@[simp] theorem State.putGang_lostPages (s : State) (g : Gang) : (s.putGang g).lostPages = s.lostPages := rfl
@[simp] theorem State.putGang_staged (s : State) (g : Gang) : (s.putGang g).staged = s.staged := rfl
@[simp] theorem State.putGang_flights (s : State) (g : Gang) : (s.putGang g).flights = s.flights := rfl
@[simp] theorem State.putGang_pubs (s : State) (g : Gang) : (s.putGang g).pubs = s.pubs := rfl
@[simp] theorem State.putGang_pubNum (s : State) (g : Gang) : (s.putGang g).pubNum = s.pubNum := rfl
@[simp] theorem State.putGang_pubSeq (s : State) (g : Gang) : (s.putGang g).pubSeq = s.pubSeq := rfl
@[simp] theorem State.putGang_pendPubs (s : State) (g : Gang) : (s.putGang g).pendPubs = s.pendPubs := rfl
@[simp] theorem State.putGang_tick (s : State) (g : Gang) : (s.putGang g).tick = s.tick := rfl
@[simp] theorem State.putGang_inBound (s : State) (g : Gang) : (s.putGang g).inBound = s.inBound := rfl
@[simp] theorem State.putGang_lastTiming (s : State) (g : Gang) : (s.putGang g).lastTiming = s.lastTiming := rfl
@[simp] theorem State.putGang_holdBack (s : State) (g : Gang) : (s.putGang g).holdBack = s.holdBack := rfl
@[simp] theorem State.putGang_catchUp (s : State) (g : Gang) : (s.putGang g).catchUp = s.catchUp := rfl
@[simp] theorem State.putGang_lastSent (s : State) (g : Gang) : (s.putGang g).lastSent = s.lastSent := rfl
@[simp] theorem State.putGang_inDomain (s : State) (g : Gang) : (s.putGang g).inDomain = s.inDomain := rfl
@[simp] theorem State.putGang_dev (s : State) (g : Gang) : (s.putGang g).dev = s.dev := rfl
@[simp] theorem State.putGang_bringup (s : State) (g : Gang) : (s.putGang g).bringup = s.bringup := rfl
@[simp] theorem State.putGang_bringupFailed (s : State) (g : Gang) : (s.putGang g).bringupFailed = s.bringupFailed := rfl
@[simp] theorem State.putGang_coresStarted (s : State) (g : Gang) : (s.putGang g).coresStarted = s.coresStarted := rfl
@[simp] theorem State.putGang_nextStart (s : State) (g : Gang) : (s.putGang g).nextStart = s.nextStart := rfl
@[simp] theorem State.putGang_hostMode (s : State) (g : Gang) : (s.putGang g).hostMode = s.hostMode := rfl
@[simp] theorem State.putGang_hostLink (s : State) (g : Gang) : (s.putGang g).hostLink = s.hostLink := rfl
@[simp] theorem State.putGang_rootPorts (s : State) (g : Gang) : (s.putGang g).rootPorts = s.rootPorts := rfl
@[simp] theorem State.putGang_mailRings (s : State) (g : Gang) : (s.putGang g).mailRings = s.mailRings := rfl
@[simp] theorem State.putGang_vectorTable (s : State) (g : Gang) : (s.putGang g).vectorTable = s.vectorTable := rfl
@[simp] theorem State.putGang_hostCached (s : State) (g : Gang) : (s.putGang g).hostCached = s.hostCached := rfl
@[simp] theorem State.putGang_backInvalidates (s : State) (g : Gang) : (s.putGang g).backInvalidates = s.backInvalidates := rfl
@[simp] theorem State.putGang_queues (s : State) (g : Gang) : (s.putGang g).queues = s.queues := rfl
@[simp] theorem State.putGang_checkRecords (s : State) (g : Gang) : (s.putGang g).checkRecords = s.checkRecords := rfl
@[simp] theorem State.putGang_lastQueueSlot (s : State) (g : Gang) : (s.putGang g).lastQueueSlot = s.lastQueueSlot := rfl
@[simp] theorem State.putGang_launches (s : State) (g : Gang) : (s.putGang g).launches = s.launches := rfl
@[simp] theorem State.putGang_tenants (s : State) (g : Gang) : (s.putGang g).tenants = s.tenants := rfl
@[simp] theorem State.putGang_remoteRoots (s : State) (g : Gang) : (s.putGang g).remoteRoots = s.remoteRoots := rfl
@[simp] theorem State.putGang_chans (s : State) (g : Gang) : (s.putGang g).chans = s.chans := rfl
@[simp] theorem State.putGang_served (s : State) (g : Gang) : (s.putGang g).served = s.served := rfl
@[simp] theorem State.putGang_factors (s : State) (g : Gang) : (s.putGang g).factors = s.factors := rfl
@[simp] theorem State.putGang_scenes (s : State) (g : Gang) : (s.putGang g).scenes = s.scenes := rfl
@[simp] theorem State.putGang_msix (s : State) (g : Gang) : (s.putGang g).msix = s.msix := rfl
@[simp] theorem State.putGang_hostReads (s : State) (g : Gang) : (s.putGang g).hostReads = s.hostReads := rfl
@[simp] theorem State.putGang_apertures (s : State) (g : Gang) : (s.putGang g).apertures = s.apertures := rfl
@[simp] theorem State.putGang_functions (s : State) (g : Gang) : (s.putGang g).functions = s.functions := rfl
@[simp] theorem State.putGang_linkSent (s : State) (g : Gang) : (s.putGang g).linkSent = s.linkSent := rfl
@[simp] theorem State.putGang_messages (s : State) (g : Gang) : (s.putGang g).messages = s.messages := rfl
@[simp] theorem State.putGang_startReports (s : State) (g : Gang) : (s.putGang g).startReports = s.startReports := rfl
@[simp] theorem State.putGang_dmaReads (s : State) (g : Gang) : (s.putGang g).dmaReads = s.dmaReads := rfl
@[simp] theorem State.putGang_dmaRefused (s : State) (g : Gang) : (s.putGang g).dmaRefused = s.dmaRefused := rfl
@[simp] theorem State.putGang_mailbox (s : State) (g : Gang) : (s.putGang g).mailbox = s.mailbox := rfl
@[simp] theorem State.putGang_lodestarBox (s : State) (g : Gang) : (s.putGang g).lodestarBox = s.lodestarBox := rfl
@[simp] theorem State.putGang_machineEvents (s : State) (g : Gang) : (s.putGang g).machineEvents = s.machineEvents := rfl
@[simp] theorem State.putGang_lostEvents (s : State) (g : Gang) : (s.putGang g).lostEvents = s.lostEvents := rfl
@[simp] theorem State.putGang_routes (s : State) (g : Gang) : (s.putGang g).routes = s.routes := rfl
@[simp] theorem State.putGang_ports (s : State) (g : Gang) : (s.putGang g).ports = s.ports := rfl
@[simp] theorem State.putGang_flows (s : State) (g : Gang) : (s.putGang g).flows = s.flows := rfl
@[simp] theorem State.putGang_linkKeys (s : State) (g : Gang) : (s.putGang g).linkKeys = s.linkKeys := rfl
@[simp] theorem State.putGang_measures (s : State) (g : Gang) : (s.putGang g).measures = s.measures := rfl
@[simp] theorem State.putGang_jobs (s : State) (g : Gang) : (s.putGang g).jobs = s.jobs := rfl
@[simp] theorem State.putGang_signIndex (s : State) (g : Gang) : (s.putGang g).signIndex = s.signIndex := rfl
@[simp] theorem State.putGang_thermal (s : State) (g : Gang) : (s.putGang g).thermal = s.thermal := rfl
@[simp] theorem State.putGang_rampAt (s : State) (g : Gang) : (s.putGang g).rampAt = s.rampAt := rfl
@[simp] theorem State.putGang_coresRetired (s : State) (g : Gang) : (s.putGang g).coresRetired = s.coresRetired := rfl
@[simp] theorem State.putGang_rowsSpared (s : State) (g : Gang) : (s.putGang g).rowsSpared = s.rowsSpared := rfl
@[simp] theorem State.putGang_corrections (s : State) (g : Gang) : (s.putGang g).corrections = s.corrections := rfl
@[simp] theorem State.putGang_rowErrors (s : State) (g : Gang) : (s.putGang g).rowErrors = s.rowErrors := rfl
@[simp] theorem State.putGang_wayErrors (s : State) (g : Gang) : (s.putGang g).wayErrors = s.wayErrors := rfl
@[simp] theorem State.putGang_channelsAsked (s : State) (g : Gang) : (s.putGang g).channelsAsked = s.channelsAsked := rfl
@[simp] theorem State.putGang_channelsRetired (s : State) (g : Gang) : (s.putGang g).channelsRetired = s.channelsRetired := rfl
@[simp] theorem State.putGang_waysRetired (s : State) (g : Gang) : (s.putGang g).waysRetired = s.waysRetired := rfl
@[simp] theorem State.putGang_enginesRetired (s : State) (g : Gang) : (s.putGang g).enginesRetired = s.enginesRetired := rfl
@[simp] theorem State.putGang_engineRepeats (s : State) (g : Gang) : (s.putGang g).engineRepeats = s.engineRepeats := rfl
@[simp] theorem State.putGang_discarded (s : State) (g : Gang) : (s.putGang g).discarded = s.discarded := rfl
@[simp] theorem State.putGang_upsets (s : State) (g : Gang) : (s.putGang g).upsets = s.upsets := rfl

/-! ### `putFamily` -/

@[simp] theorem State.putFamily_agenda (s : State) (f : Family) : (s.putFamily f).agenda = s.agenda := rfl
@[simp] theorem State.putFamily_defer (s : State) (f : Family) : (s.putFamily f).defer = s.defer := rfl
@[simp] theorem State.putFamily_free (s : State) (f : Family) : (s.putFamily f).free = s.free := rfl
@[simp] theorem State.putFamily_cur (s : State) (f : Family) : (s.putFamily f).cur = s.cur := rfl
@[simp] theorem State.putFamily_turnLeft (s : State) (f : Family) : (s.putFamily f).turnLeft = s.turnLeft := rfl
@[simp] theorem State.putFamily_nextId (s : State) (f : Family) : (s.putFamily f).nextId = s.nextId := rfl
@[simp] theorem State.putFamily_teams (s : State) (f : Family) : (s.putFamily f).teams = s.teams := rfl
@[simp] theorem State.putFamily_gangs (s : State) (f : Family) : (s.putFamily f).gangs = s.gangs := rfl
@[simp] theorem State.putFamily_copies (s : State) (f : Family) : (s.putFamily f).copies = s.copies := rfl
@[simp] theorem State.putFamily_epochs (s : State) (f : Family) : (s.putFamily f).epochs = s.epochs := rfl
@[simp] theorem State.putFamily_groups (s : State) (f : Family) : (s.putFamily f).groups = s.groups := rfl
@[simp] theorem State.putFamily_cores (s : State) (f : Family) : (s.putFamily f).cores = s.cores := rfl
@[simp] theorem State.putFamily_mem (s : State) (f : Family) : (s.putFamily f).mem = s.mem := rfl
@[simp] theorem State.putFamily_poison (s : State) (f : Family) : (s.putFamily f).poison = s.poison := rfl
@[simp] theorem State.putFamily_held (s : State) (f : Family) : (s.putFamily f).held = s.held := rfl
@[simp] theorem State.putFamily_lostPages (s : State) (f : Family) : (s.putFamily f).lostPages = s.lostPages := rfl
@[simp] theorem State.putFamily_staged (s : State) (f : Family) : (s.putFamily f).staged = s.staged := rfl
@[simp] theorem State.putFamily_flights (s : State) (f : Family) : (s.putFamily f).flights = s.flights := rfl
@[simp] theorem State.putFamily_pubs (s : State) (f : Family) : (s.putFamily f).pubs = s.pubs := rfl
@[simp] theorem State.putFamily_pubNum (s : State) (f : Family) : (s.putFamily f).pubNum = s.pubNum := rfl
@[simp] theorem State.putFamily_pubSeq (s : State) (f : Family) : (s.putFamily f).pubSeq = s.pubSeq := rfl
@[simp] theorem State.putFamily_pendPubs (s : State) (f : Family) : (s.putFamily f).pendPubs = s.pendPubs := rfl
@[simp] theorem State.putFamily_tick (s : State) (f : Family) : (s.putFamily f).tick = s.tick := rfl
@[simp] theorem State.putFamily_inBound (s : State) (f : Family) : (s.putFamily f).inBound = s.inBound := rfl
@[simp] theorem State.putFamily_lastTiming (s : State) (f : Family) : (s.putFamily f).lastTiming = s.lastTiming := rfl
@[simp] theorem State.putFamily_holdBack (s : State) (f : Family) : (s.putFamily f).holdBack = s.holdBack := rfl
@[simp] theorem State.putFamily_catchUp (s : State) (f : Family) : (s.putFamily f).catchUp = s.catchUp := rfl
@[simp] theorem State.putFamily_lastSent (s : State) (f : Family) : (s.putFamily f).lastSent = s.lastSent := rfl
@[simp] theorem State.putFamily_inDomain (s : State) (f : Family) : (s.putFamily f).inDomain = s.inDomain := rfl
@[simp] theorem State.putFamily_dev (s : State) (f : Family) : (s.putFamily f).dev = s.dev := rfl
@[simp] theorem State.putFamily_bringup (s : State) (f : Family) : (s.putFamily f).bringup = s.bringup := rfl
@[simp] theorem State.putFamily_bringupFailed (s : State) (f : Family) : (s.putFamily f).bringupFailed = s.bringupFailed := rfl
@[simp] theorem State.putFamily_coresStarted (s : State) (f : Family) : (s.putFamily f).coresStarted = s.coresStarted := rfl
@[simp] theorem State.putFamily_nextStart (s : State) (f : Family) : (s.putFamily f).nextStart = s.nextStart := rfl
@[simp] theorem State.putFamily_hostMode (s : State) (f : Family) : (s.putFamily f).hostMode = s.hostMode := rfl
@[simp] theorem State.putFamily_hostLink (s : State) (f : Family) : (s.putFamily f).hostLink = s.hostLink := rfl
@[simp] theorem State.putFamily_rootPorts (s : State) (f : Family) : (s.putFamily f).rootPorts = s.rootPorts := rfl
@[simp] theorem State.putFamily_mailRings (s : State) (f : Family) : (s.putFamily f).mailRings = s.mailRings := rfl
@[simp] theorem State.putFamily_vectorTable (s : State) (f : Family) : (s.putFamily f).vectorTable = s.vectorTable := rfl
@[simp] theorem State.putFamily_hostCached (s : State) (f : Family) : (s.putFamily f).hostCached = s.hostCached := rfl
@[simp] theorem State.putFamily_backInvalidates (s : State) (f : Family) : (s.putFamily f).backInvalidates = s.backInvalidates := rfl
@[simp] theorem State.putFamily_queues (s : State) (f : Family) : (s.putFamily f).queues = s.queues := rfl
@[simp] theorem State.putFamily_checkRecords (s : State) (f : Family) : (s.putFamily f).checkRecords = s.checkRecords := rfl
@[simp] theorem State.putFamily_lastQueueSlot (s : State) (f : Family) : (s.putFamily f).lastQueueSlot = s.lastQueueSlot := rfl
@[simp] theorem State.putFamily_launches (s : State) (f : Family) : (s.putFamily f).launches = s.launches := rfl
@[simp] theorem State.putFamily_tenants (s : State) (f : Family) : (s.putFamily f).tenants = s.tenants := rfl
@[simp] theorem State.putFamily_remoteRoots (s : State) (f : Family) : (s.putFamily f).remoteRoots = s.remoteRoots := rfl
@[simp] theorem State.putFamily_chans (s : State) (f : Family) : (s.putFamily f).chans = s.chans := rfl
@[simp] theorem State.putFamily_served (s : State) (f : Family) : (s.putFamily f).served = s.served := rfl
@[simp] theorem State.putFamily_factors (s : State) (f : Family) : (s.putFamily f).factors = s.factors := rfl
@[simp] theorem State.putFamily_scenes (s : State) (f : Family) : (s.putFamily f).scenes = s.scenes := rfl
@[simp] theorem State.putFamily_msix (s : State) (f : Family) : (s.putFamily f).msix = s.msix := rfl
@[simp] theorem State.putFamily_hostReads (s : State) (f : Family) : (s.putFamily f).hostReads = s.hostReads := rfl
@[simp] theorem State.putFamily_apertures (s : State) (f : Family) : (s.putFamily f).apertures = s.apertures := rfl
@[simp] theorem State.putFamily_functions (s : State) (f : Family) : (s.putFamily f).functions = s.functions := rfl
@[simp] theorem State.putFamily_linkSent (s : State) (f : Family) : (s.putFamily f).linkSent = s.linkSent := rfl
@[simp] theorem State.putFamily_messages (s : State) (f : Family) : (s.putFamily f).messages = s.messages := rfl
@[simp] theorem State.putFamily_startReports (s : State) (f : Family) : (s.putFamily f).startReports = s.startReports := rfl
@[simp] theorem State.putFamily_dmaReads (s : State) (f : Family) : (s.putFamily f).dmaReads = s.dmaReads := rfl
@[simp] theorem State.putFamily_dmaRefused (s : State) (f : Family) : (s.putFamily f).dmaRefused = s.dmaRefused := rfl
@[simp] theorem State.putFamily_mailbox (s : State) (f : Family) : (s.putFamily f).mailbox = s.mailbox := rfl
@[simp] theorem State.putFamily_lodestarBox (s : State) (f : Family) : (s.putFamily f).lodestarBox = s.lodestarBox := rfl
@[simp] theorem State.putFamily_machineEvents (s : State) (f : Family) : (s.putFamily f).machineEvents = s.machineEvents := rfl
@[simp] theorem State.putFamily_lostEvents (s : State) (f : Family) : (s.putFamily f).lostEvents = s.lostEvents := rfl
@[simp] theorem State.putFamily_routes (s : State) (f : Family) : (s.putFamily f).routes = s.routes := rfl
@[simp] theorem State.putFamily_ports (s : State) (f : Family) : (s.putFamily f).ports = s.ports := rfl
@[simp] theorem State.putFamily_flows (s : State) (f : Family) : (s.putFamily f).flows = s.flows := rfl
@[simp] theorem State.putFamily_linkKeys (s : State) (f : Family) : (s.putFamily f).linkKeys = s.linkKeys := rfl
@[simp] theorem State.putFamily_measures (s : State) (f : Family) : (s.putFamily f).measures = s.measures := rfl
@[simp] theorem State.putFamily_jobs (s : State) (f : Family) : (s.putFamily f).jobs = s.jobs := rfl
@[simp] theorem State.putFamily_signIndex (s : State) (f : Family) : (s.putFamily f).signIndex = s.signIndex := rfl
@[simp] theorem State.putFamily_thermal (s : State) (f : Family) : (s.putFamily f).thermal = s.thermal := rfl
@[simp] theorem State.putFamily_rampAt (s : State) (f : Family) : (s.putFamily f).rampAt = s.rampAt := rfl
@[simp] theorem State.putFamily_coresRetired (s : State) (f : Family) : (s.putFamily f).coresRetired = s.coresRetired := rfl
@[simp] theorem State.putFamily_rowsSpared (s : State) (f : Family) : (s.putFamily f).rowsSpared = s.rowsSpared := rfl
@[simp] theorem State.putFamily_corrections (s : State) (f : Family) : (s.putFamily f).corrections = s.corrections := rfl
@[simp] theorem State.putFamily_rowErrors (s : State) (f : Family) : (s.putFamily f).rowErrors = s.rowErrors := rfl
@[simp] theorem State.putFamily_wayErrors (s : State) (f : Family) : (s.putFamily f).wayErrors = s.wayErrors := rfl
@[simp] theorem State.putFamily_channelsAsked (s : State) (f : Family) : (s.putFamily f).channelsAsked = s.channelsAsked := rfl
@[simp] theorem State.putFamily_channelsRetired (s : State) (f : Family) : (s.putFamily f).channelsRetired = s.channelsRetired := rfl
@[simp] theorem State.putFamily_waysRetired (s : State) (f : Family) : (s.putFamily f).waysRetired = s.waysRetired := rfl
@[simp] theorem State.putFamily_enginesRetired (s : State) (f : Family) : (s.putFamily f).enginesRetired = s.enginesRetired := rfl
@[simp] theorem State.putFamily_engineRepeats (s : State) (f : Family) : (s.putFamily f).engineRepeats = s.engineRepeats := rfl
@[simp] theorem State.putFamily_discarded (s : State) (f : Family) : (s.putFamily f).discarded = s.discarded := rfl
@[simp] theorem State.putFamily_upsets (s : State) (f : Family) : (s.putFamily f).upsets = s.upsets := rfl

/-! ### `putGroup` -/

@[simp] theorem State.putGroup_agenda (s : State) (g : Group) : (s.putGroup g).agenda = s.agenda := rfl
@[simp] theorem State.putGroup_defer (s : State) (g : Group) : (s.putGroup g).defer = s.defer := rfl
@[simp] theorem State.putGroup_free (s : State) (g : Group) : (s.putGroup g).free = s.free := rfl
@[simp] theorem State.putGroup_cur (s : State) (g : Group) : (s.putGroup g).cur = s.cur := rfl
@[simp] theorem State.putGroup_turnLeft (s : State) (g : Group) : (s.putGroup g).turnLeft = s.turnLeft := rfl
@[simp] theorem State.putGroup_nextId (s : State) (g : Group) : (s.putGroup g).nextId = s.nextId := rfl
@[simp] theorem State.putGroup_teams (s : State) (g : Group) : (s.putGroup g).teams = s.teams := rfl
@[simp] theorem State.putGroup_gangs (s : State) (g : Group) : (s.putGroup g).gangs = s.gangs := rfl
@[simp] theorem State.putGroup_families (s : State) (g : Group) : (s.putGroup g).families = s.families := rfl
@[simp] theorem State.putGroup_copies (s : State) (g : Group) : (s.putGroup g).copies = s.copies := rfl
@[simp] theorem State.putGroup_epochs (s : State) (g : Group) : (s.putGroup g).epochs = s.epochs := rfl
@[simp] theorem State.putGroup_cores (s : State) (g : Group) : (s.putGroup g).cores = s.cores := rfl
@[simp] theorem State.putGroup_mem (s : State) (g : Group) : (s.putGroup g).mem = s.mem := rfl
@[simp] theorem State.putGroup_poison (s : State) (g : Group) : (s.putGroup g).poison = s.poison := rfl
@[simp] theorem State.putGroup_held (s : State) (g : Group) : (s.putGroup g).held = s.held := rfl
@[simp] theorem State.putGroup_lostPages (s : State) (g : Group) : (s.putGroup g).lostPages = s.lostPages := rfl
@[simp] theorem State.putGroup_staged (s : State) (g : Group) : (s.putGroup g).staged = s.staged := rfl
@[simp] theorem State.putGroup_flights (s : State) (g : Group) : (s.putGroup g).flights = s.flights := rfl
@[simp] theorem State.putGroup_pubs (s : State) (g : Group) : (s.putGroup g).pubs = s.pubs := rfl
@[simp] theorem State.putGroup_pubNum (s : State) (g : Group) : (s.putGroup g).pubNum = s.pubNum := rfl
@[simp] theorem State.putGroup_pubSeq (s : State) (g : Group) : (s.putGroup g).pubSeq = s.pubSeq := rfl
@[simp] theorem State.putGroup_pendPubs (s : State) (g : Group) : (s.putGroup g).pendPubs = s.pendPubs := rfl
@[simp] theorem State.putGroup_tick (s : State) (g : Group) : (s.putGroup g).tick = s.tick := rfl
@[simp] theorem State.putGroup_inBound (s : State) (g : Group) : (s.putGroup g).inBound = s.inBound := rfl
@[simp] theorem State.putGroup_lastTiming (s : State) (g : Group) : (s.putGroup g).lastTiming = s.lastTiming := rfl
@[simp] theorem State.putGroup_holdBack (s : State) (g : Group) : (s.putGroup g).holdBack = s.holdBack := rfl
@[simp] theorem State.putGroup_catchUp (s : State) (g : Group) : (s.putGroup g).catchUp = s.catchUp := rfl
@[simp] theorem State.putGroup_lastSent (s : State) (g : Group) : (s.putGroup g).lastSent = s.lastSent := rfl
@[simp] theorem State.putGroup_inDomain (s : State) (g : Group) : (s.putGroup g).inDomain = s.inDomain := rfl
@[simp] theorem State.putGroup_dev (s : State) (g : Group) : (s.putGroup g).dev = s.dev := rfl
@[simp] theorem State.putGroup_bringup (s : State) (g : Group) : (s.putGroup g).bringup = s.bringup := rfl
@[simp] theorem State.putGroup_bringupFailed (s : State) (g : Group) : (s.putGroup g).bringupFailed = s.bringupFailed := rfl
@[simp] theorem State.putGroup_coresStarted (s : State) (g : Group) : (s.putGroup g).coresStarted = s.coresStarted := rfl
@[simp] theorem State.putGroup_nextStart (s : State) (g : Group) : (s.putGroup g).nextStart = s.nextStart := rfl
@[simp] theorem State.putGroup_hostMode (s : State) (g : Group) : (s.putGroup g).hostMode = s.hostMode := rfl
@[simp] theorem State.putGroup_hostLink (s : State) (g : Group) : (s.putGroup g).hostLink = s.hostLink := rfl
@[simp] theorem State.putGroup_rootPorts (s : State) (g : Group) : (s.putGroup g).rootPorts = s.rootPorts := rfl
@[simp] theorem State.putGroup_mailRings (s : State) (g : Group) : (s.putGroup g).mailRings = s.mailRings := rfl
@[simp] theorem State.putGroup_vectorTable (s : State) (g : Group) : (s.putGroup g).vectorTable = s.vectorTable := rfl
@[simp] theorem State.putGroup_hostCached (s : State) (g : Group) : (s.putGroup g).hostCached = s.hostCached := rfl
@[simp] theorem State.putGroup_backInvalidates (s : State) (g : Group) : (s.putGroup g).backInvalidates = s.backInvalidates := rfl
@[simp] theorem State.putGroup_queues (s : State) (g : Group) : (s.putGroup g).queues = s.queues := rfl
@[simp] theorem State.putGroup_checkRecords (s : State) (g : Group) : (s.putGroup g).checkRecords = s.checkRecords := rfl
@[simp] theorem State.putGroup_lastQueueSlot (s : State) (g : Group) : (s.putGroup g).lastQueueSlot = s.lastQueueSlot := rfl
@[simp] theorem State.putGroup_launches (s : State) (g : Group) : (s.putGroup g).launches = s.launches := rfl
@[simp] theorem State.putGroup_tenants (s : State) (g : Group) : (s.putGroup g).tenants = s.tenants := rfl
@[simp] theorem State.putGroup_remoteRoots (s : State) (g : Group) : (s.putGroup g).remoteRoots = s.remoteRoots := rfl
@[simp] theorem State.putGroup_chans (s : State) (g : Group) : (s.putGroup g).chans = s.chans := rfl
@[simp] theorem State.putGroup_served (s : State) (g : Group) : (s.putGroup g).served = s.served := rfl
@[simp] theorem State.putGroup_factors (s : State) (g : Group) : (s.putGroup g).factors = s.factors := rfl
@[simp] theorem State.putGroup_scenes (s : State) (g : Group) : (s.putGroup g).scenes = s.scenes := rfl
@[simp] theorem State.putGroup_msix (s : State) (g : Group) : (s.putGroup g).msix = s.msix := rfl
@[simp] theorem State.putGroup_hostReads (s : State) (g : Group) : (s.putGroup g).hostReads = s.hostReads := rfl
@[simp] theorem State.putGroup_apertures (s : State) (g : Group) : (s.putGroup g).apertures = s.apertures := rfl
@[simp] theorem State.putGroup_functions (s : State) (g : Group) : (s.putGroup g).functions = s.functions := rfl
@[simp] theorem State.putGroup_linkSent (s : State) (g : Group) : (s.putGroup g).linkSent = s.linkSent := rfl
@[simp] theorem State.putGroup_messages (s : State) (g : Group) : (s.putGroup g).messages = s.messages := rfl
@[simp] theorem State.putGroup_startReports (s : State) (g : Group) : (s.putGroup g).startReports = s.startReports := rfl
@[simp] theorem State.putGroup_dmaReads (s : State) (g : Group) : (s.putGroup g).dmaReads = s.dmaReads := rfl
@[simp] theorem State.putGroup_dmaRefused (s : State) (g : Group) : (s.putGroup g).dmaRefused = s.dmaRefused := rfl
@[simp] theorem State.putGroup_mailbox (s : State) (g : Group) : (s.putGroup g).mailbox = s.mailbox := rfl
@[simp] theorem State.putGroup_lodestarBox (s : State) (g : Group) : (s.putGroup g).lodestarBox = s.lodestarBox := rfl
@[simp] theorem State.putGroup_machineEvents (s : State) (g : Group) : (s.putGroup g).machineEvents = s.machineEvents := rfl
@[simp] theorem State.putGroup_lostEvents (s : State) (g : Group) : (s.putGroup g).lostEvents = s.lostEvents := rfl
@[simp] theorem State.putGroup_routes (s : State) (g : Group) : (s.putGroup g).routes = s.routes := rfl
@[simp] theorem State.putGroup_ports (s : State) (g : Group) : (s.putGroup g).ports = s.ports := rfl
@[simp] theorem State.putGroup_flows (s : State) (g : Group) : (s.putGroup g).flows = s.flows := rfl
@[simp] theorem State.putGroup_linkKeys (s : State) (g : Group) : (s.putGroup g).linkKeys = s.linkKeys := rfl
@[simp] theorem State.putGroup_measures (s : State) (g : Group) : (s.putGroup g).measures = s.measures := rfl
@[simp] theorem State.putGroup_jobs (s : State) (g : Group) : (s.putGroup g).jobs = s.jobs := rfl
@[simp] theorem State.putGroup_signIndex (s : State) (g : Group) : (s.putGroup g).signIndex = s.signIndex := rfl
@[simp] theorem State.putGroup_thermal (s : State) (g : Group) : (s.putGroup g).thermal = s.thermal := rfl
@[simp] theorem State.putGroup_rampAt (s : State) (g : Group) : (s.putGroup g).rampAt = s.rampAt := rfl
@[simp] theorem State.putGroup_coresRetired (s : State) (g : Group) : (s.putGroup g).coresRetired = s.coresRetired := rfl
@[simp] theorem State.putGroup_rowsSpared (s : State) (g : Group) : (s.putGroup g).rowsSpared = s.rowsSpared := rfl
@[simp] theorem State.putGroup_corrections (s : State) (g : Group) : (s.putGroup g).corrections = s.corrections := rfl
@[simp] theorem State.putGroup_rowErrors (s : State) (g : Group) : (s.putGroup g).rowErrors = s.rowErrors := rfl
@[simp] theorem State.putGroup_wayErrors (s : State) (g : Group) : (s.putGroup g).wayErrors = s.wayErrors := rfl
@[simp] theorem State.putGroup_channelsAsked (s : State) (g : Group) : (s.putGroup g).channelsAsked = s.channelsAsked := rfl
@[simp] theorem State.putGroup_channelsRetired (s : State) (g : Group) : (s.putGroup g).channelsRetired = s.channelsRetired := rfl
@[simp] theorem State.putGroup_waysRetired (s : State) (g : Group) : (s.putGroup g).waysRetired = s.waysRetired := rfl
@[simp] theorem State.putGroup_enginesRetired (s : State) (g : Group) : (s.putGroup g).enginesRetired = s.enginesRetired := rfl
@[simp] theorem State.putGroup_engineRepeats (s : State) (g : Group) : (s.putGroup g).engineRepeats = s.engineRepeats := rfl
@[simp] theorem State.putGroup_discarded (s : State) (g : Group) : (s.putGroup g).discarded = s.discarded := rfl
@[simp] theorem State.putGroup_upsets (s : State) (g : Group) : (s.putGroup g).upsets = s.upsets := rfl

/-! ### `putCore` -/

@[simp] theorem State.putCore_agenda (s : State) (c : Core) : (s.putCore c).agenda = s.agenda := rfl
@[simp] theorem State.putCore_defer (s : State) (c : Core) : (s.putCore c).defer = s.defer := rfl
@[simp] theorem State.putCore_free (s : State) (c : Core) : (s.putCore c).free = s.free := rfl
@[simp] theorem State.putCore_cur (s : State) (c : Core) : (s.putCore c).cur = s.cur := rfl
@[simp] theorem State.putCore_turnLeft (s : State) (c : Core) : (s.putCore c).turnLeft = s.turnLeft := rfl
@[simp] theorem State.putCore_nextId (s : State) (c : Core) : (s.putCore c).nextId = s.nextId := rfl
@[simp] theorem State.putCore_teams (s : State) (c : Core) : (s.putCore c).teams = s.teams := rfl
@[simp] theorem State.putCore_gangs (s : State) (c : Core) : (s.putCore c).gangs = s.gangs := rfl
@[simp] theorem State.putCore_families (s : State) (c : Core) : (s.putCore c).families = s.families := rfl
@[simp] theorem State.putCore_copies (s : State) (c : Core) : (s.putCore c).copies = s.copies := rfl
@[simp] theorem State.putCore_epochs (s : State) (c : Core) : (s.putCore c).epochs = s.epochs := rfl
@[simp] theorem State.putCore_groups (s : State) (c : Core) : (s.putCore c).groups = s.groups := rfl
@[simp] theorem State.putCore_mem (s : State) (c : Core) : (s.putCore c).mem = s.mem := rfl
@[simp] theorem State.putCore_poison (s : State) (c : Core) : (s.putCore c).poison = s.poison := rfl
@[simp] theorem State.putCore_held (s : State) (c : Core) : (s.putCore c).held = s.held := rfl
@[simp] theorem State.putCore_lostPages (s : State) (c : Core) : (s.putCore c).lostPages = s.lostPages := rfl
@[simp] theorem State.putCore_staged (s : State) (c : Core) : (s.putCore c).staged = s.staged := rfl
@[simp] theorem State.putCore_flights (s : State) (c : Core) : (s.putCore c).flights = s.flights := rfl
@[simp] theorem State.putCore_pubs (s : State) (c : Core) : (s.putCore c).pubs = s.pubs := rfl
@[simp] theorem State.putCore_pubNum (s : State) (c : Core) : (s.putCore c).pubNum = s.pubNum := rfl
@[simp] theorem State.putCore_pubSeq (s : State) (c : Core) : (s.putCore c).pubSeq = s.pubSeq := rfl
@[simp] theorem State.putCore_pendPubs (s : State) (c : Core) : (s.putCore c).pendPubs = s.pendPubs := rfl
@[simp] theorem State.putCore_tick (s : State) (c : Core) : (s.putCore c).tick = s.tick := rfl
@[simp] theorem State.putCore_inBound (s : State) (c : Core) : (s.putCore c).inBound = s.inBound := rfl
@[simp] theorem State.putCore_lastTiming (s : State) (c : Core) : (s.putCore c).lastTiming = s.lastTiming := rfl
@[simp] theorem State.putCore_holdBack (s : State) (c : Core) : (s.putCore c).holdBack = s.holdBack := rfl
@[simp] theorem State.putCore_catchUp (s : State) (c : Core) : (s.putCore c).catchUp = s.catchUp := rfl
@[simp] theorem State.putCore_lastSent (s : State) (c : Core) : (s.putCore c).lastSent = s.lastSent := rfl
@[simp] theorem State.putCore_inDomain (s : State) (c : Core) : (s.putCore c).inDomain = s.inDomain := rfl
@[simp] theorem State.putCore_dev (s : State) (c : Core) : (s.putCore c).dev = s.dev := rfl
@[simp] theorem State.putCore_bringup (s : State) (c : Core) : (s.putCore c).bringup = s.bringup := rfl
@[simp] theorem State.putCore_bringupFailed (s : State) (c : Core) : (s.putCore c).bringupFailed = s.bringupFailed := rfl
@[simp] theorem State.putCore_coresStarted (s : State) (c : Core) : (s.putCore c).coresStarted = s.coresStarted := rfl
@[simp] theorem State.putCore_nextStart (s : State) (c : Core) : (s.putCore c).nextStart = s.nextStart := rfl
@[simp] theorem State.putCore_hostMode (s : State) (c : Core) : (s.putCore c).hostMode = s.hostMode := rfl
@[simp] theorem State.putCore_hostLink (s : State) (c : Core) : (s.putCore c).hostLink = s.hostLink := rfl
@[simp] theorem State.putCore_rootPorts (s : State) (c : Core) : (s.putCore c).rootPorts = s.rootPorts := rfl
@[simp] theorem State.putCore_mailRings (s : State) (c : Core) : (s.putCore c).mailRings = s.mailRings := rfl
@[simp] theorem State.putCore_vectorTable (s : State) (c : Core) : (s.putCore c).vectorTable = s.vectorTable := rfl
@[simp] theorem State.putCore_hostCached (s : State) (c : Core) : (s.putCore c).hostCached = s.hostCached := rfl
@[simp] theorem State.putCore_backInvalidates (s : State) (c : Core) : (s.putCore c).backInvalidates = s.backInvalidates := rfl
@[simp] theorem State.putCore_queues (s : State) (c : Core) : (s.putCore c).queues = s.queues := rfl
@[simp] theorem State.putCore_checkRecords (s : State) (c : Core) : (s.putCore c).checkRecords = s.checkRecords := rfl
@[simp] theorem State.putCore_lastQueueSlot (s : State) (c : Core) : (s.putCore c).lastQueueSlot = s.lastQueueSlot := rfl
@[simp] theorem State.putCore_launches (s : State) (c : Core) : (s.putCore c).launches = s.launches := rfl
@[simp] theorem State.putCore_tenants (s : State) (c : Core) : (s.putCore c).tenants = s.tenants := rfl
@[simp] theorem State.putCore_remoteRoots (s : State) (c : Core) : (s.putCore c).remoteRoots = s.remoteRoots := rfl
@[simp] theorem State.putCore_chans (s : State) (c : Core) : (s.putCore c).chans = s.chans := rfl
@[simp] theorem State.putCore_served (s : State) (c : Core) : (s.putCore c).served = s.served := rfl
@[simp] theorem State.putCore_factors (s : State) (c : Core) : (s.putCore c).factors = s.factors := rfl
@[simp] theorem State.putCore_scenes (s : State) (c : Core) : (s.putCore c).scenes = s.scenes := rfl
@[simp] theorem State.putCore_msix (s : State) (c : Core) : (s.putCore c).msix = s.msix := rfl
@[simp] theorem State.putCore_hostReads (s : State) (c : Core) : (s.putCore c).hostReads = s.hostReads := rfl
@[simp] theorem State.putCore_apertures (s : State) (c : Core) : (s.putCore c).apertures = s.apertures := rfl
@[simp] theorem State.putCore_functions (s : State) (c : Core) : (s.putCore c).functions = s.functions := rfl
@[simp] theorem State.putCore_linkSent (s : State) (c : Core) : (s.putCore c).linkSent = s.linkSent := rfl
@[simp] theorem State.putCore_messages (s : State) (c : Core) : (s.putCore c).messages = s.messages := rfl
@[simp] theorem State.putCore_startReports (s : State) (c : Core) : (s.putCore c).startReports = s.startReports := rfl
@[simp] theorem State.putCore_dmaReads (s : State) (c : Core) : (s.putCore c).dmaReads = s.dmaReads := rfl
@[simp] theorem State.putCore_dmaRefused (s : State) (c : Core) : (s.putCore c).dmaRefused = s.dmaRefused := rfl
@[simp] theorem State.putCore_mailbox (s : State) (c : Core) : (s.putCore c).mailbox = s.mailbox := rfl
@[simp] theorem State.putCore_lodestarBox (s : State) (c : Core) : (s.putCore c).lodestarBox = s.lodestarBox := rfl
@[simp] theorem State.putCore_machineEvents (s : State) (c : Core) : (s.putCore c).machineEvents = s.machineEvents := rfl
@[simp] theorem State.putCore_lostEvents (s : State) (c : Core) : (s.putCore c).lostEvents = s.lostEvents := rfl
@[simp] theorem State.putCore_routes (s : State) (c : Core) : (s.putCore c).routes = s.routes := rfl
@[simp] theorem State.putCore_ports (s : State) (c : Core) : (s.putCore c).ports = s.ports := rfl
@[simp] theorem State.putCore_flows (s : State) (c : Core) : (s.putCore c).flows = s.flows := rfl
@[simp] theorem State.putCore_linkKeys (s : State) (c : Core) : (s.putCore c).linkKeys = s.linkKeys := rfl
@[simp] theorem State.putCore_measures (s : State) (c : Core) : (s.putCore c).measures = s.measures := rfl
@[simp] theorem State.putCore_jobs (s : State) (c : Core) : (s.putCore c).jobs = s.jobs := rfl
@[simp] theorem State.putCore_signIndex (s : State) (c : Core) : (s.putCore c).signIndex = s.signIndex := rfl
@[simp] theorem State.putCore_thermal (s : State) (c : Core) : (s.putCore c).thermal = s.thermal := rfl
@[simp] theorem State.putCore_rampAt (s : State) (c : Core) : (s.putCore c).rampAt = s.rampAt := rfl
@[simp] theorem State.putCore_coresRetired (s : State) (c : Core) : (s.putCore c).coresRetired = s.coresRetired := rfl
@[simp] theorem State.putCore_rowsSpared (s : State) (c : Core) : (s.putCore c).rowsSpared = s.rowsSpared := rfl
@[simp] theorem State.putCore_corrections (s : State) (c : Core) : (s.putCore c).corrections = s.corrections := rfl
@[simp] theorem State.putCore_rowErrors (s : State) (c : Core) : (s.putCore c).rowErrors = s.rowErrors := rfl
@[simp] theorem State.putCore_wayErrors (s : State) (c : Core) : (s.putCore c).wayErrors = s.wayErrors := rfl
@[simp] theorem State.putCore_channelsAsked (s : State) (c : Core) : (s.putCore c).channelsAsked = s.channelsAsked := rfl
@[simp] theorem State.putCore_channelsRetired (s : State) (c : Core) : (s.putCore c).channelsRetired = s.channelsRetired := rfl
@[simp] theorem State.putCore_waysRetired (s : State) (c : Core) : (s.putCore c).waysRetired = s.waysRetired := rfl
@[simp] theorem State.putCore_enginesRetired (s : State) (c : Core) : (s.putCore c).enginesRetired = s.enginesRetired := rfl
@[simp] theorem State.putCore_engineRepeats (s : State) (c : Core) : (s.putCore c).engineRepeats = s.engineRepeats := rfl
@[simp] theorem State.putCore_discarded (s : State) (c : Core) : (s.putCore c).discarded = s.discarded := rfl
@[simp] theorem State.putCore_upsets (s : State) (c : Core) : (s.putCore c).upsets = s.upsets := rfl

/-! ### `modCore` -/

@[simp] theorem State.modCore_agenda (s : State) (n : Nat) (f : Core → Core) : (s.modCore n f).agenda = s.agenda := rfl
@[simp] theorem State.modCore_defer (s : State) (n : Nat) (f : Core → Core) : (s.modCore n f).defer = s.defer := rfl
@[simp] theorem State.modCore_free (s : State) (n : Nat) (f : Core → Core) : (s.modCore n f).free = s.free := rfl
@[simp] theorem State.modCore_cur (s : State) (n : Nat) (f : Core → Core) : (s.modCore n f).cur = s.cur := rfl
@[simp] theorem State.modCore_turnLeft (s : State) (n : Nat) (f : Core → Core) : (s.modCore n f).turnLeft = s.turnLeft := rfl
@[simp] theorem State.modCore_nextId (s : State) (n : Nat) (f : Core → Core) : (s.modCore n f).nextId = s.nextId := rfl
@[simp] theorem State.modCore_teams (s : State) (n : Nat) (f : Core → Core) : (s.modCore n f).teams = s.teams := rfl
@[simp] theorem State.modCore_gangs (s : State) (n : Nat) (f : Core → Core) : (s.modCore n f).gangs = s.gangs := rfl
@[simp] theorem State.modCore_families (s : State) (n : Nat) (f : Core → Core) : (s.modCore n f).families = s.families := rfl
@[simp] theorem State.modCore_copies (s : State) (n : Nat) (f : Core → Core) : (s.modCore n f).copies = s.copies := rfl
@[simp] theorem State.modCore_epochs (s : State) (n : Nat) (f : Core → Core) : (s.modCore n f).epochs = s.epochs := rfl
@[simp] theorem State.modCore_groups (s : State) (n : Nat) (f : Core → Core) : (s.modCore n f).groups = s.groups := rfl
@[simp] theorem State.modCore_mem (s : State) (n : Nat) (f : Core → Core) : (s.modCore n f).mem = s.mem := rfl
@[simp] theorem State.modCore_poison (s : State) (n : Nat) (f : Core → Core) : (s.modCore n f).poison = s.poison := rfl
@[simp] theorem State.modCore_held (s : State) (n : Nat) (f : Core → Core) : (s.modCore n f).held = s.held := rfl
@[simp] theorem State.modCore_lostPages (s : State) (n : Nat) (f : Core → Core) : (s.modCore n f).lostPages = s.lostPages := rfl
@[simp] theorem State.modCore_staged (s : State) (n : Nat) (f : Core → Core) : (s.modCore n f).staged = s.staged := rfl
@[simp] theorem State.modCore_flights (s : State) (n : Nat) (f : Core → Core) : (s.modCore n f).flights = s.flights := rfl
@[simp] theorem State.modCore_pubs (s : State) (n : Nat) (f : Core → Core) : (s.modCore n f).pubs = s.pubs := rfl
@[simp] theorem State.modCore_pubNum (s : State) (n : Nat) (f : Core → Core) : (s.modCore n f).pubNum = s.pubNum := rfl
@[simp] theorem State.modCore_pubSeq (s : State) (n : Nat) (f : Core → Core) : (s.modCore n f).pubSeq = s.pubSeq := rfl
@[simp] theorem State.modCore_pendPubs (s : State) (n : Nat) (f : Core → Core) : (s.modCore n f).pendPubs = s.pendPubs := rfl
@[simp] theorem State.modCore_tick (s : State) (n : Nat) (f : Core → Core) : (s.modCore n f).tick = s.tick := rfl
@[simp] theorem State.modCore_inBound (s : State) (n : Nat) (f : Core → Core) : (s.modCore n f).inBound = s.inBound := rfl
@[simp] theorem State.modCore_lastTiming (s : State) (n : Nat) (f : Core → Core) : (s.modCore n f).lastTiming = s.lastTiming := rfl
@[simp] theorem State.modCore_holdBack (s : State) (n : Nat) (f : Core → Core) : (s.modCore n f).holdBack = s.holdBack := rfl
@[simp] theorem State.modCore_catchUp (s : State) (n : Nat) (f : Core → Core) : (s.modCore n f).catchUp = s.catchUp := rfl
@[simp] theorem State.modCore_lastSent (s : State) (n : Nat) (f : Core → Core) : (s.modCore n f).lastSent = s.lastSent := rfl
@[simp] theorem State.modCore_inDomain (s : State) (n : Nat) (f : Core → Core) : (s.modCore n f).inDomain = s.inDomain := rfl
@[simp] theorem State.modCore_dev (s : State) (n : Nat) (f : Core → Core) : (s.modCore n f).dev = s.dev := rfl
@[simp] theorem State.modCore_bringup (s : State) (n : Nat) (f : Core → Core) : (s.modCore n f).bringup = s.bringup := rfl
@[simp] theorem State.modCore_bringupFailed (s : State) (n : Nat) (f : Core → Core) : (s.modCore n f).bringupFailed = s.bringupFailed := rfl
@[simp] theorem State.modCore_coresStarted (s : State) (n : Nat) (f : Core → Core) : (s.modCore n f).coresStarted = s.coresStarted := rfl
@[simp] theorem State.modCore_nextStart (s : State) (n : Nat) (f : Core → Core) : (s.modCore n f).nextStart = s.nextStart := rfl
@[simp] theorem State.modCore_hostMode (s : State) (n : Nat) (f : Core → Core) : (s.modCore n f).hostMode = s.hostMode := rfl
@[simp] theorem State.modCore_hostLink (s : State) (n : Nat) (f : Core → Core) : (s.modCore n f).hostLink = s.hostLink := rfl
@[simp] theorem State.modCore_rootPorts (s : State) (n : Nat) (f : Core → Core) : (s.modCore n f).rootPorts = s.rootPorts := rfl
@[simp] theorem State.modCore_mailRings (s : State) (n : Nat) (f : Core → Core) : (s.modCore n f).mailRings = s.mailRings := rfl
@[simp] theorem State.modCore_vectorTable (s : State) (n : Nat) (f : Core → Core) : (s.modCore n f).vectorTable = s.vectorTable := rfl
@[simp] theorem State.modCore_hostCached (s : State) (n : Nat) (f : Core → Core) : (s.modCore n f).hostCached = s.hostCached := rfl
@[simp] theorem State.modCore_backInvalidates (s : State) (n : Nat) (f : Core → Core) : (s.modCore n f).backInvalidates = s.backInvalidates := rfl
@[simp] theorem State.modCore_queues (s : State) (n : Nat) (f : Core → Core) : (s.modCore n f).queues = s.queues := rfl
@[simp] theorem State.modCore_checkRecords (s : State) (n : Nat) (f : Core → Core) : (s.modCore n f).checkRecords = s.checkRecords := rfl
@[simp] theorem State.modCore_lastQueueSlot (s : State) (n : Nat) (f : Core → Core) : (s.modCore n f).lastQueueSlot = s.lastQueueSlot := rfl
@[simp] theorem State.modCore_launches (s : State) (n : Nat) (f : Core → Core) : (s.modCore n f).launches = s.launches := rfl
@[simp] theorem State.modCore_tenants (s : State) (n : Nat) (f : Core → Core) : (s.modCore n f).tenants = s.tenants := rfl
@[simp] theorem State.modCore_remoteRoots (s : State) (n : Nat) (f : Core → Core) : (s.modCore n f).remoteRoots = s.remoteRoots := rfl
@[simp] theorem State.modCore_chans (s : State) (n : Nat) (f : Core → Core) : (s.modCore n f).chans = s.chans := rfl
@[simp] theorem State.modCore_served (s : State) (n : Nat) (f : Core → Core) : (s.modCore n f).served = s.served := rfl
@[simp] theorem State.modCore_factors (s : State) (n : Nat) (f : Core → Core) : (s.modCore n f).factors = s.factors := rfl
@[simp] theorem State.modCore_scenes (s : State) (n : Nat) (f : Core → Core) : (s.modCore n f).scenes = s.scenes := rfl
@[simp] theorem State.modCore_msix (s : State) (n : Nat) (f : Core → Core) : (s.modCore n f).msix = s.msix := rfl
@[simp] theorem State.modCore_hostReads (s : State) (n : Nat) (f : Core → Core) : (s.modCore n f).hostReads = s.hostReads := rfl
@[simp] theorem State.modCore_apertures (s : State) (n : Nat) (f : Core → Core) : (s.modCore n f).apertures = s.apertures := rfl
@[simp] theorem State.modCore_functions (s : State) (n : Nat) (f : Core → Core) : (s.modCore n f).functions = s.functions := rfl
@[simp] theorem State.modCore_linkSent (s : State) (n : Nat) (f : Core → Core) : (s.modCore n f).linkSent = s.linkSent := rfl
@[simp] theorem State.modCore_messages (s : State) (n : Nat) (f : Core → Core) : (s.modCore n f).messages = s.messages := rfl
@[simp] theorem State.modCore_startReports (s : State) (n : Nat) (f : Core → Core) : (s.modCore n f).startReports = s.startReports := rfl
@[simp] theorem State.modCore_dmaReads (s : State) (n : Nat) (f : Core → Core) : (s.modCore n f).dmaReads = s.dmaReads := rfl
@[simp] theorem State.modCore_dmaRefused (s : State) (n : Nat) (f : Core → Core) : (s.modCore n f).dmaRefused = s.dmaRefused := rfl
@[simp] theorem State.modCore_mailbox (s : State) (n : Nat) (f : Core → Core) : (s.modCore n f).mailbox = s.mailbox := rfl
@[simp] theorem State.modCore_lodestarBox (s : State) (n : Nat) (f : Core → Core) : (s.modCore n f).lodestarBox = s.lodestarBox := rfl
@[simp] theorem State.modCore_machineEvents (s : State) (n : Nat) (f : Core → Core) : (s.modCore n f).machineEvents = s.machineEvents := rfl
@[simp] theorem State.modCore_lostEvents (s : State) (n : Nat) (f : Core → Core) : (s.modCore n f).lostEvents = s.lostEvents := rfl
@[simp] theorem State.modCore_routes (s : State) (n : Nat) (f : Core → Core) : (s.modCore n f).routes = s.routes := rfl
@[simp] theorem State.modCore_ports (s : State) (n : Nat) (f : Core → Core) : (s.modCore n f).ports = s.ports := rfl
@[simp] theorem State.modCore_flows (s : State) (n : Nat) (f : Core → Core) : (s.modCore n f).flows = s.flows := rfl
@[simp] theorem State.modCore_linkKeys (s : State) (n : Nat) (f : Core → Core) : (s.modCore n f).linkKeys = s.linkKeys := rfl
@[simp] theorem State.modCore_measures (s : State) (n : Nat) (f : Core → Core) : (s.modCore n f).measures = s.measures := rfl
@[simp] theorem State.modCore_jobs (s : State) (n : Nat) (f : Core → Core) : (s.modCore n f).jobs = s.jobs := rfl
@[simp] theorem State.modCore_signIndex (s : State) (n : Nat) (f : Core → Core) : (s.modCore n f).signIndex = s.signIndex := rfl
@[simp] theorem State.modCore_thermal (s : State) (n : Nat) (f : Core → Core) : (s.modCore n f).thermal = s.thermal := rfl
@[simp] theorem State.modCore_rampAt (s : State) (n : Nat) (f : Core → Core) : (s.modCore n f).rampAt = s.rampAt := rfl
@[simp] theorem State.modCore_coresRetired (s : State) (n : Nat) (f : Core → Core) : (s.modCore n f).coresRetired = s.coresRetired := rfl
@[simp] theorem State.modCore_rowsSpared (s : State) (n : Nat) (f : Core → Core) : (s.modCore n f).rowsSpared = s.rowsSpared := rfl
@[simp] theorem State.modCore_corrections (s : State) (n : Nat) (f : Core → Core) : (s.modCore n f).corrections = s.corrections := rfl
@[simp] theorem State.modCore_rowErrors (s : State) (n : Nat) (f : Core → Core) : (s.modCore n f).rowErrors = s.rowErrors := rfl
@[simp] theorem State.modCore_wayErrors (s : State) (n : Nat) (f : Core → Core) : (s.modCore n f).wayErrors = s.wayErrors := rfl
@[simp] theorem State.modCore_channelsAsked (s : State) (n : Nat) (f : Core → Core) : (s.modCore n f).channelsAsked = s.channelsAsked := rfl
@[simp] theorem State.modCore_channelsRetired (s : State) (n : Nat) (f : Core → Core) : (s.modCore n f).channelsRetired = s.channelsRetired := rfl
@[simp] theorem State.modCore_waysRetired (s : State) (n : Nat) (f : Core → Core) : (s.modCore n f).waysRetired = s.waysRetired := rfl
@[simp] theorem State.modCore_enginesRetired (s : State) (n : Nat) (f : Core → Core) : (s.modCore n f).enginesRetired = s.enginesRetired := rfl
@[simp] theorem State.modCore_engineRepeats (s : State) (n : Nat) (f : Core → Core) : (s.modCore n f).engineRepeats = s.engineRepeats := rfl
@[simp] theorem State.modCore_discarded (s : State) (n : Nat) (f : Core → Core) : (s.modCore n f).discarded = s.discarded := rfl
@[simp] theorem State.modCore_upsets (s : State) (n : Nat) (f : Core → Core) : (s.modCore n f).upsets = s.upsets := rfl

/-! ### `putTenant` -/

@[simp] theorem State.putTenant_agenda (s : State) (t : Tenant) : (s.putTenant t).agenda = s.agenda := rfl
@[simp] theorem State.putTenant_defer (s : State) (t : Tenant) : (s.putTenant t).defer = s.defer := rfl
@[simp] theorem State.putTenant_free (s : State) (t : Tenant) : (s.putTenant t).free = s.free := rfl
@[simp] theorem State.putTenant_cur (s : State) (t : Tenant) : (s.putTenant t).cur = s.cur := rfl
@[simp] theorem State.putTenant_turnLeft (s : State) (t : Tenant) : (s.putTenant t).turnLeft = s.turnLeft := rfl
@[simp] theorem State.putTenant_nextId (s : State) (t : Tenant) : (s.putTenant t).nextId = s.nextId := rfl
@[simp] theorem State.putTenant_teams (s : State) (t : Tenant) : (s.putTenant t).teams = s.teams := rfl
@[simp] theorem State.putTenant_gangs (s : State) (t : Tenant) : (s.putTenant t).gangs = s.gangs := rfl
@[simp] theorem State.putTenant_families (s : State) (t : Tenant) : (s.putTenant t).families = s.families := rfl
@[simp] theorem State.putTenant_copies (s : State) (t : Tenant) : (s.putTenant t).copies = s.copies := rfl
@[simp] theorem State.putTenant_epochs (s : State) (t : Tenant) : (s.putTenant t).epochs = s.epochs := rfl
@[simp] theorem State.putTenant_groups (s : State) (t : Tenant) : (s.putTenant t).groups = s.groups := rfl
@[simp] theorem State.putTenant_cores (s : State) (t : Tenant) : (s.putTenant t).cores = s.cores := rfl
@[simp] theorem State.putTenant_mem (s : State) (t : Tenant) : (s.putTenant t).mem = s.mem := rfl
@[simp] theorem State.putTenant_poison (s : State) (t : Tenant) : (s.putTenant t).poison = s.poison := rfl
@[simp] theorem State.putTenant_held (s : State) (t : Tenant) : (s.putTenant t).held = s.held := rfl
@[simp] theorem State.putTenant_lostPages (s : State) (t : Tenant) : (s.putTenant t).lostPages = s.lostPages := rfl
@[simp] theorem State.putTenant_staged (s : State) (t : Tenant) : (s.putTenant t).staged = s.staged := rfl
@[simp] theorem State.putTenant_flights (s : State) (t : Tenant) : (s.putTenant t).flights = s.flights := rfl
@[simp] theorem State.putTenant_pubs (s : State) (t : Tenant) : (s.putTenant t).pubs = s.pubs := rfl
@[simp] theorem State.putTenant_pubNum (s : State) (t : Tenant) : (s.putTenant t).pubNum = s.pubNum := rfl
@[simp] theorem State.putTenant_pubSeq (s : State) (t : Tenant) : (s.putTenant t).pubSeq = s.pubSeq := rfl
@[simp] theorem State.putTenant_pendPubs (s : State) (t : Tenant) : (s.putTenant t).pendPubs = s.pendPubs := rfl
@[simp] theorem State.putTenant_tick (s : State) (t : Tenant) : (s.putTenant t).tick = s.tick := rfl
@[simp] theorem State.putTenant_inBound (s : State) (t : Tenant) : (s.putTenant t).inBound = s.inBound := rfl
@[simp] theorem State.putTenant_lastTiming (s : State) (t : Tenant) : (s.putTenant t).lastTiming = s.lastTiming := rfl
@[simp] theorem State.putTenant_holdBack (s : State) (t : Tenant) : (s.putTenant t).holdBack = s.holdBack := rfl
@[simp] theorem State.putTenant_catchUp (s : State) (t : Tenant) : (s.putTenant t).catchUp = s.catchUp := rfl
@[simp] theorem State.putTenant_lastSent (s : State) (t : Tenant) : (s.putTenant t).lastSent = s.lastSent := rfl
@[simp] theorem State.putTenant_inDomain (s : State) (t : Tenant) : (s.putTenant t).inDomain = s.inDomain := rfl
@[simp] theorem State.putTenant_dev (s : State) (t : Tenant) : (s.putTenant t).dev = s.dev := rfl
@[simp] theorem State.putTenant_bringup (s : State) (t : Tenant) : (s.putTenant t).bringup = s.bringup := rfl
@[simp] theorem State.putTenant_bringupFailed (s : State) (t : Tenant) : (s.putTenant t).bringupFailed = s.bringupFailed := rfl
@[simp] theorem State.putTenant_coresStarted (s : State) (t : Tenant) : (s.putTenant t).coresStarted = s.coresStarted := rfl
@[simp] theorem State.putTenant_nextStart (s : State) (t : Tenant) : (s.putTenant t).nextStart = s.nextStart := rfl
@[simp] theorem State.putTenant_hostMode (s : State) (t : Tenant) : (s.putTenant t).hostMode = s.hostMode := rfl
@[simp] theorem State.putTenant_hostLink (s : State) (t : Tenant) : (s.putTenant t).hostLink = s.hostLink := rfl
@[simp] theorem State.putTenant_rootPorts (s : State) (t : Tenant) : (s.putTenant t).rootPorts = s.rootPorts := rfl
@[simp] theorem State.putTenant_mailRings (s : State) (t : Tenant) : (s.putTenant t).mailRings = s.mailRings := rfl
@[simp] theorem State.putTenant_vectorTable (s : State) (t : Tenant) : (s.putTenant t).vectorTable = s.vectorTable := rfl
@[simp] theorem State.putTenant_hostCached (s : State) (t : Tenant) : (s.putTenant t).hostCached = s.hostCached := rfl
@[simp] theorem State.putTenant_backInvalidates (s : State) (t : Tenant) : (s.putTenant t).backInvalidates = s.backInvalidates := rfl
@[simp] theorem State.putTenant_queues (s : State) (t : Tenant) : (s.putTenant t).queues = s.queues := rfl
@[simp] theorem State.putTenant_checkRecords (s : State) (t : Tenant) : (s.putTenant t).checkRecords = s.checkRecords := rfl
@[simp] theorem State.putTenant_lastQueueSlot (s : State) (t : Tenant) : (s.putTenant t).lastQueueSlot = s.lastQueueSlot := rfl
@[simp] theorem State.putTenant_launches (s : State) (t : Tenant) : (s.putTenant t).launches = s.launches := rfl
@[simp] theorem State.putTenant_remoteRoots (s : State) (t : Tenant) : (s.putTenant t).remoteRoots = s.remoteRoots := rfl
@[simp] theorem State.putTenant_chans (s : State) (t : Tenant) : (s.putTenant t).chans = s.chans := rfl
@[simp] theorem State.putTenant_served (s : State) (t : Tenant) : (s.putTenant t).served = s.served := rfl
@[simp] theorem State.putTenant_factors (s : State) (t : Tenant) : (s.putTenant t).factors = s.factors := rfl
@[simp] theorem State.putTenant_scenes (s : State) (t : Tenant) : (s.putTenant t).scenes = s.scenes := rfl
@[simp] theorem State.putTenant_msix (s : State) (t : Tenant) : (s.putTenant t).msix = s.msix := rfl
@[simp] theorem State.putTenant_hostReads (s : State) (t : Tenant) : (s.putTenant t).hostReads = s.hostReads := rfl
@[simp] theorem State.putTenant_apertures (s : State) (t : Tenant) : (s.putTenant t).apertures = s.apertures := rfl
@[simp] theorem State.putTenant_functions (s : State) (t : Tenant) : (s.putTenant t).functions = s.functions := rfl
@[simp] theorem State.putTenant_linkSent (s : State) (t : Tenant) : (s.putTenant t).linkSent = s.linkSent := rfl
@[simp] theorem State.putTenant_messages (s : State) (t : Tenant) : (s.putTenant t).messages = s.messages := rfl
@[simp] theorem State.putTenant_startReports (s : State) (t : Tenant) : (s.putTenant t).startReports = s.startReports := rfl
@[simp] theorem State.putTenant_dmaReads (s : State) (t : Tenant) : (s.putTenant t).dmaReads = s.dmaReads := rfl
@[simp] theorem State.putTenant_dmaRefused (s : State) (t : Tenant) : (s.putTenant t).dmaRefused = s.dmaRefused := rfl
@[simp] theorem State.putTenant_mailbox (s : State) (t : Tenant) : (s.putTenant t).mailbox = s.mailbox := rfl
@[simp] theorem State.putTenant_lodestarBox (s : State) (t : Tenant) : (s.putTenant t).lodestarBox = s.lodestarBox := rfl
@[simp] theorem State.putTenant_machineEvents (s : State) (t : Tenant) : (s.putTenant t).machineEvents = s.machineEvents := rfl
@[simp] theorem State.putTenant_lostEvents (s : State) (t : Tenant) : (s.putTenant t).lostEvents = s.lostEvents := rfl
@[simp] theorem State.putTenant_routes (s : State) (t : Tenant) : (s.putTenant t).routes = s.routes := rfl
@[simp] theorem State.putTenant_ports (s : State) (t : Tenant) : (s.putTenant t).ports = s.ports := rfl
@[simp] theorem State.putTenant_flows (s : State) (t : Tenant) : (s.putTenant t).flows = s.flows := rfl
@[simp] theorem State.putTenant_linkKeys (s : State) (t : Tenant) : (s.putTenant t).linkKeys = s.linkKeys := rfl
@[simp] theorem State.putTenant_measures (s : State) (t : Tenant) : (s.putTenant t).measures = s.measures := rfl
@[simp] theorem State.putTenant_jobs (s : State) (t : Tenant) : (s.putTenant t).jobs = s.jobs := rfl
@[simp] theorem State.putTenant_signIndex (s : State) (t : Tenant) : (s.putTenant t).signIndex = s.signIndex := rfl
@[simp] theorem State.putTenant_thermal (s : State) (t : Tenant) : (s.putTenant t).thermal = s.thermal := rfl
@[simp] theorem State.putTenant_rampAt (s : State) (t : Tenant) : (s.putTenant t).rampAt = s.rampAt := rfl
@[simp] theorem State.putTenant_coresRetired (s : State) (t : Tenant) : (s.putTenant t).coresRetired = s.coresRetired := rfl
@[simp] theorem State.putTenant_rowsSpared (s : State) (t : Tenant) : (s.putTenant t).rowsSpared = s.rowsSpared := rfl
@[simp] theorem State.putTenant_corrections (s : State) (t : Tenant) : (s.putTenant t).corrections = s.corrections := rfl
@[simp] theorem State.putTenant_rowErrors (s : State) (t : Tenant) : (s.putTenant t).rowErrors = s.rowErrors := rfl
@[simp] theorem State.putTenant_wayErrors (s : State) (t : Tenant) : (s.putTenant t).wayErrors = s.wayErrors := rfl
@[simp] theorem State.putTenant_channelsAsked (s : State) (t : Tenant) : (s.putTenant t).channelsAsked = s.channelsAsked := rfl
@[simp] theorem State.putTenant_channelsRetired (s : State) (t : Tenant) : (s.putTenant t).channelsRetired = s.channelsRetired := rfl
@[simp] theorem State.putTenant_waysRetired (s : State) (t : Tenant) : (s.putTenant t).waysRetired = s.waysRetired := rfl
@[simp] theorem State.putTenant_enginesRetired (s : State) (t : Tenant) : (s.putTenant t).enginesRetired = s.enginesRetired := rfl
@[simp] theorem State.putTenant_engineRepeats (s : State) (t : Tenant) : (s.putTenant t).engineRepeats = s.engineRepeats := rfl
@[simp] theorem State.putTenant_discarded (s : State) (t : Tenant) : (s.putTenant t).discarded = s.discarded := rfl
@[simp] theorem State.putTenant_upsets (s : State) (t : Tenant) : (s.putTenant t).upsets = s.upsets := rfl

/-! ### `putQueue` -/

@[simp] theorem State.putQueue_agenda (s : State) (q : Queue) : (s.putQueue q).agenda = s.agenda := rfl
@[simp] theorem State.putQueue_defer (s : State) (q : Queue) : (s.putQueue q).defer = s.defer := rfl
@[simp] theorem State.putQueue_free (s : State) (q : Queue) : (s.putQueue q).free = s.free := rfl
@[simp] theorem State.putQueue_cur (s : State) (q : Queue) : (s.putQueue q).cur = s.cur := rfl
@[simp] theorem State.putQueue_turnLeft (s : State) (q : Queue) : (s.putQueue q).turnLeft = s.turnLeft := rfl
@[simp] theorem State.putQueue_nextId (s : State) (q : Queue) : (s.putQueue q).nextId = s.nextId := rfl
@[simp] theorem State.putQueue_teams (s : State) (q : Queue) : (s.putQueue q).teams = s.teams := rfl
@[simp] theorem State.putQueue_gangs (s : State) (q : Queue) : (s.putQueue q).gangs = s.gangs := rfl
@[simp] theorem State.putQueue_families (s : State) (q : Queue) : (s.putQueue q).families = s.families := rfl
@[simp] theorem State.putQueue_copies (s : State) (q : Queue) : (s.putQueue q).copies = s.copies := rfl
@[simp] theorem State.putQueue_epochs (s : State) (q : Queue) : (s.putQueue q).epochs = s.epochs := rfl
@[simp] theorem State.putQueue_groups (s : State) (q : Queue) : (s.putQueue q).groups = s.groups := rfl
@[simp] theorem State.putQueue_cores (s : State) (q : Queue) : (s.putQueue q).cores = s.cores := rfl
@[simp] theorem State.putQueue_mem (s : State) (q : Queue) : (s.putQueue q).mem = s.mem := rfl
@[simp] theorem State.putQueue_poison (s : State) (q : Queue) : (s.putQueue q).poison = s.poison := rfl
@[simp] theorem State.putQueue_held (s : State) (q : Queue) : (s.putQueue q).held = s.held := rfl
@[simp] theorem State.putQueue_lostPages (s : State) (q : Queue) : (s.putQueue q).lostPages = s.lostPages := rfl
@[simp] theorem State.putQueue_staged (s : State) (q : Queue) : (s.putQueue q).staged = s.staged := rfl
@[simp] theorem State.putQueue_flights (s : State) (q : Queue) : (s.putQueue q).flights = s.flights := rfl
@[simp] theorem State.putQueue_pubs (s : State) (q : Queue) : (s.putQueue q).pubs = s.pubs := rfl
@[simp] theorem State.putQueue_pubNum (s : State) (q : Queue) : (s.putQueue q).pubNum = s.pubNum := rfl
@[simp] theorem State.putQueue_pubSeq (s : State) (q : Queue) : (s.putQueue q).pubSeq = s.pubSeq := rfl
@[simp] theorem State.putQueue_pendPubs (s : State) (q : Queue) : (s.putQueue q).pendPubs = s.pendPubs := rfl
@[simp] theorem State.putQueue_tick (s : State) (q : Queue) : (s.putQueue q).tick = s.tick := rfl
@[simp] theorem State.putQueue_inBound (s : State) (q : Queue) : (s.putQueue q).inBound = s.inBound := rfl
@[simp] theorem State.putQueue_lastTiming (s : State) (q : Queue) : (s.putQueue q).lastTiming = s.lastTiming := rfl
@[simp] theorem State.putQueue_holdBack (s : State) (q : Queue) : (s.putQueue q).holdBack = s.holdBack := rfl
@[simp] theorem State.putQueue_catchUp (s : State) (q : Queue) : (s.putQueue q).catchUp = s.catchUp := rfl
@[simp] theorem State.putQueue_lastSent (s : State) (q : Queue) : (s.putQueue q).lastSent = s.lastSent := rfl
@[simp] theorem State.putQueue_inDomain (s : State) (q : Queue) : (s.putQueue q).inDomain = s.inDomain := rfl
@[simp] theorem State.putQueue_dev (s : State) (q : Queue) : (s.putQueue q).dev = s.dev := rfl
@[simp] theorem State.putQueue_bringup (s : State) (q : Queue) : (s.putQueue q).bringup = s.bringup := rfl
@[simp] theorem State.putQueue_bringupFailed (s : State) (q : Queue) : (s.putQueue q).bringupFailed = s.bringupFailed := rfl
@[simp] theorem State.putQueue_coresStarted (s : State) (q : Queue) : (s.putQueue q).coresStarted = s.coresStarted := rfl
@[simp] theorem State.putQueue_nextStart (s : State) (q : Queue) : (s.putQueue q).nextStart = s.nextStart := rfl
@[simp] theorem State.putQueue_hostMode (s : State) (q : Queue) : (s.putQueue q).hostMode = s.hostMode := rfl
@[simp] theorem State.putQueue_hostLink (s : State) (q : Queue) : (s.putQueue q).hostLink = s.hostLink := rfl
@[simp] theorem State.putQueue_rootPorts (s : State) (q : Queue) : (s.putQueue q).rootPorts = s.rootPorts := rfl
@[simp] theorem State.putQueue_mailRings (s : State) (q : Queue) : (s.putQueue q).mailRings = s.mailRings := rfl
@[simp] theorem State.putQueue_vectorTable (s : State) (q : Queue) : (s.putQueue q).vectorTable = s.vectorTable := rfl
@[simp] theorem State.putQueue_hostCached (s : State) (q : Queue) : (s.putQueue q).hostCached = s.hostCached := rfl
@[simp] theorem State.putQueue_backInvalidates (s : State) (q : Queue) : (s.putQueue q).backInvalidates = s.backInvalidates := rfl
@[simp] theorem State.putQueue_checkRecords (s : State) (q : Queue) : (s.putQueue q).checkRecords = s.checkRecords := rfl
@[simp] theorem State.putQueue_lastQueueSlot (s : State) (q : Queue) : (s.putQueue q).lastQueueSlot = s.lastQueueSlot := rfl
@[simp] theorem State.putQueue_launches (s : State) (q : Queue) : (s.putQueue q).launches = s.launches := rfl
@[simp] theorem State.putQueue_tenants (s : State) (q : Queue) : (s.putQueue q).tenants = s.tenants := rfl
@[simp] theorem State.putQueue_remoteRoots (s : State) (q : Queue) : (s.putQueue q).remoteRoots = s.remoteRoots := rfl
@[simp] theorem State.putQueue_chans (s : State) (q : Queue) : (s.putQueue q).chans = s.chans := rfl
@[simp] theorem State.putQueue_served (s : State) (q : Queue) : (s.putQueue q).served = s.served := rfl
@[simp] theorem State.putQueue_factors (s : State) (q : Queue) : (s.putQueue q).factors = s.factors := rfl
@[simp] theorem State.putQueue_scenes (s : State) (q : Queue) : (s.putQueue q).scenes = s.scenes := rfl
@[simp] theorem State.putQueue_msix (s : State) (q : Queue) : (s.putQueue q).msix = s.msix := rfl
@[simp] theorem State.putQueue_hostReads (s : State) (q : Queue) : (s.putQueue q).hostReads = s.hostReads := rfl
@[simp] theorem State.putQueue_apertures (s : State) (q : Queue) : (s.putQueue q).apertures = s.apertures := rfl
@[simp] theorem State.putQueue_functions (s : State) (q : Queue) : (s.putQueue q).functions = s.functions := rfl
@[simp] theorem State.putQueue_linkSent (s : State) (q : Queue) : (s.putQueue q).linkSent = s.linkSent := rfl
@[simp] theorem State.putQueue_messages (s : State) (q : Queue) : (s.putQueue q).messages = s.messages := rfl
@[simp] theorem State.putQueue_startReports (s : State) (q : Queue) : (s.putQueue q).startReports = s.startReports := rfl
@[simp] theorem State.putQueue_dmaReads (s : State) (q : Queue) : (s.putQueue q).dmaReads = s.dmaReads := rfl
@[simp] theorem State.putQueue_dmaRefused (s : State) (q : Queue) : (s.putQueue q).dmaRefused = s.dmaRefused := rfl
@[simp] theorem State.putQueue_mailbox (s : State) (q : Queue) : (s.putQueue q).mailbox = s.mailbox := rfl
@[simp] theorem State.putQueue_lodestarBox (s : State) (q : Queue) : (s.putQueue q).lodestarBox = s.lodestarBox := rfl
@[simp] theorem State.putQueue_machineEvents (s : State) (q : Queue) : (s.putQueue q).machineEvents = s.machineEvents := rfl
@[simp] theorem State.putQueue_lostEvents (s : State) (q : Queue) : (s.putQueue q).lostEvents = s.lostEvents := rfl
@[simp] theorem State.putQueue_routes (s : State) (q : Queue) : (s.putQueue q).routes = s.routes := rfl
@[simp] theorem State.putQueue_ports (s : State) (q : Queue) : (s.putQueue q).ports = s.ports := rfl
@[simp] theorem State.putQueue_flows (s : State) (q : Queue) : (s.putQueue q).flows = s.flows := rfl
@[simp] theorem State.putQueue_linkKeys (s : State) (q : Queue) : (s.putQueue q).linkKeys = s.linkKeys := rfl
@[simp] theorem State.putQueue_measures (s : State) (q : Queue) : (s.putQueue q).measures = s.measures := rfl
@[simp] theorem State.putQueue_jobs (s : State) (q : Queue) : (s.putQueue q).jobs = s.jobs := rfl
@[simp] theorem State.putQueue_signIndex (s : State) (q : Queue) : (s.putQueue q).signIndex = s.signIndex := rfl
@[simp] theorem State.putQueue_thermal (s : State) (q : Queue) : (s.putQueue q).thermal = s.thermal := rfl
@[simp] theorem State.putQueue_rampAt (s : State) (q : Queue) : (s.putQueue q).rampAt = s.rampAt := rfl
@[simp] theorem State.putQueue_coresRetired (s : State) (q : Queue) : (s.putQueue q).coresRetired = s.coresRetired := rfl
@[simp] theorem State.putQueue_rowsSpared (s : State) (q : Queue) : (s.putQueue q).rowsSpared = s.rowsSpared := rfl
@[simp] theorem State.putQueue_corrections (s : State) (q : Queue) : (s.putQueue q).corrections = s.corrections := rfl
@[simp] theorem State.putQueue_rowErrors (s : State) (q : Queue) : (s.putQueue q).rowErrors = s.rowErrors := rfl
@[simp] theorem State.putQueue_wayErrors (s : State) (q : Queue) : (s.putQueue q).wayErrors = s.wayErrors := rfl
@[simp] theorem State.putQueue_channelsAsked (s : State) (q : Queue) : (s.putQueue q).channelsAsked = s.channelsAsked := rfl
@[simp] theorem State.putQueue_channelsRetired (s : State) (q : Queue) : (s.putQueue q).channelsRetired = s.channelsRetired := rfl
@[simp] theorem State.putQueue_waysRetired (s : State) (q : Queue) : (s.putQueue q).waysRetired = s.waysRetired := rfl
@[simp] theorem State.putQueue_enginesRetired (s : State) (q : Queue) : (s.putQueue q).enginesRetired = s.enginesRetired := rfl
@[simp] theorem State.putQueue_engineRepeats (s : State) (q : Queue) : (s.putQueue q).engineRepeats = s.engineRepeats := rfl
@[simp] theorem State.putQueue_discarded (s : State) (q : Queue) : (s.putQueue q).discarded = s.discarded := rfl
@[simp] theorem State.putQueue_upsets (s : State) (q : Queue) : (s.putQueue q).upsets = s.upsets := rfl

/-! ### `putChan` -/

@[simp] theorem State.putChan_agenda (s : State) (c : Chan) : (s.putChan c).agenda = s.agenda := rfl
@[simp] theorem State.putChan_defer (s : State) (c : Chan) : (s.putChan c).defer = s.defer := rfl
@[simp] theorem State.putChan_free (s : State) (c : Chan) : (s.putChan c).free = s.free := rfl
@[simp] theorem State.putChan_cur (s : State) (c : Chan) : (s.putChan c).cur = s.cur := rfl
@[simp] theorem State.putChan_turnLeft (s : State) (c : Chan) : (s.putChan c).turnLeft = s.turnLeft := rfl
@[simp] theorem State.putChan_nextId (s : State) (c : Chan) : (s.putChan c).nextId = s.nextId := rfl
@[simp] theorem State.putChan_teams (s : State) (c : Chan) : (s.putChan c).teams = s.teams := rfl
@[simp] theorem State.putChan_gangs (s : State) (c : Chan) : (s.putChan c).gangs = s.gangs := rfl
@[simp] theorem State.putChan_families (s : State) (c : Chan) : (s.putChan c).families = s.families := rfl
@[simp] theorem State.putChan_copies (s : State) (c : Chan) : (s.putChan c).copies = s.copies := rfl
@[simp] theorem State.putChan_epochs (s : State) (c : Chan) : (s.putChan c).epochs = s.epochs := rfl
@[simp] theorem State.putChan_groups (s : State) (c : Chan) : (s.putChan c).groups = s.groups := rfl
@[simp] theorem State.putChan_cores (s : State) (c : Chan) : (s.putChan c).cores = s.cores := rfl
@[simp] theorem State.putChan_mem (s : State) (c : Chan) : (s.putChan c).mem = s.mem := rfl
@[simp] theorem State.putChan_poison (s : State) (c : Chan) : (s.putChan c).poison = s.poison := rfl
@[simp] theorem State.putChan_held (s : State) (c : Chan) : (s.putChan c).held = s.held := rfl
@[simp] theorem State.putChan_lostPages (s : State) (c : Chan) : (s.putChan c).lostPages = s.lostPages := rfl
@[simp] theorem State.putChan_staged (s : State) (c : Chan) : (s.putChan c).staged = s.staged := rfl
@[simp] theorem State.putChan_flights (s : State) (c : Chan) : (s.putChan c).flights = s.flights := rfl
@[simp] theorem State.putChan_pubs (s : State) (c : Chan) : (s.putChan c).pubs = s.pubs := rfl
@[simp] theorem State.putChan_pubNum (s : State) (c : Chan) : (s.putChan c).pubNum = s.pubNum := rfl
@[simp] theorem State.putChan_pubSeq (s : State) (c : Chan) : (s.putChan c).pubSeq = s.pubSeq := rfl
@[simp] theorem State.putChan_pendPubs (s : State) (c : Chan) : (s.putChan c).pendPubs = s.pendPubs := rfl
@[simp] theorem State.putChan_tick (s : State) (c : Chan) : (s.putChan c).tick = s.tick := rfl
@[simp] theorem State.putChan_inBound (s : State) (c : Chan) : (s.putChan c).inBound = s.inBound := rfl
@[simp] theorem State.putChan_lastTiming (s : State) (c : Chan) : (s.putChan c).lastTiming = s.lastTiming := rfl
@[simp] theorem State.putChan_holdBack (s : State) (c : Chan) : (s.putChan c).holdBack = s.holdBack := rfl
@[simp] theorem State.putChan_catchUp (s : State) (c : Chan) : (s.putChan c).catchUp = s.catchUp := rfl
@[simp] theorem State.putChan_lastSent (s : State) (c : Chan) : (s.putChan c).lastSent = s.lastSent := rfl
@[simp] theorem State.putChan_inDomain (s : State) (c : Chan) : (s.putChan c).inDomain = s.inDomain := rfl
@[simp] theorem State.putChan_dev (s : State) (c : Chan) : (s.putChan c).dev = s.dev := rfl
@[simp] theorem State.putChan_bringup (s : State) (c : Chan) : (s.putChan c).bringup = s.bringup := rfl
@[simp] theorem State.putChan_bringupFailed (s : State) (c : Chan) : (s.putChan c).bringupFailed = s.bringupFailed := rfl
@[simp] theorem State.putChan_coresStarted (s : State) (c : Chan) : (s.putChan c).coresStarted = s.coresStarted := rfl
@[simp] theorem State.putChan_nextStart (s : State) (c : Chan) : (s.putChan c).nextStart = s.nextStart := rfl
@[simp] theorem State.putChan_hostMode (s : State) (c : Chan) : (s.putChan c).hostMode = s.hostMode := rfl
@[simp] theorem State.putChan_hostLink (s : State) (c : Chan) : (s.putChan c).hostLink = s.hostLink := rfl
@[simp] theorem State.putChan_rootPorts (s : State) (c : Chan) : (s.putChan c).rootPorts = s.rootPorts := rfl
@[simp] theorem State.putChan_mailRings (s : State) (c : Chan) : (s.putChan c).mailRings = s.mailRings := rfl
@[simp] theorem State.putChan_vectorTable (s : State) (c : Chan) : (s.putChan c).vectorTable = s.vectorTable := rfl
@[simp] theorem State.putChan_hostCached (s : State) (c : Chan) : (s.putChan c).hostCached = s.hostCached := rfl
@[simp] theorem State.putChan_backInvalidates (s : State) (c : Chan) : (s.putChan c).backInvalidates = s.backInvalidates := rfl
@[simp] theorem State.putChan_queues (s : State) (c : Chan) : (s.putChan c).queues = s.queues := rfl
@[simp] theorem State.putChan_checkRecords (s : State) (c : Chan) : (s.putChan c).checkRecords = s.checkRecords := rfl
@[simp] theorem State.putChan_lastQueueSlot (s : State) (c : Chan) : (s.putChan c).lastQueueSlot = s.lastQueueSlot := rfl
@[simp] theorem State.putChan_launches (s : State) (c : Chan) : (s.putChan c).launches = s.launches := rfl
@[simp] theorem State.putChan_tenants (s : State) (c : Chan) : (s.putChan c).tenants = s.tenants := rfl
@[simp] theorem State.putChan_remoteRoots (s : State) (c : Chan) : (s.putChan c).remoteRoots = s.remoteRoots := rfl
@[simp] theorem State.putChan_served (s : State) (c : Chan) : (s.putChan c).served = s.served := rfl
@[simp] theorem State.putChan_factors (s : State) (c : Chan) : (s.putChan c).factors = s.factors := rfl
@[simp] theorem State.putChan_scenes (s : State) (c : Chan) : (s.putChan c).scenes = s.scenes := rfl
@[simp] theorem State.putChan_msix (s : State) (c : Chan) : (s.putChan c).msix = s.msix := rfl
@[simp] theorem State.putChan_hostReads (s : State) (c : Chan) : (s.putChan c).hostReads = s.hostReads := rfl
@[simp] theorem State.putChan_apertures (s : State) (c : Chan) : (s.putChan c).apertures = s.apertures := rfl
@[simp] theorem State.putChan_functions (s : State) (c : Chan) : (s.putChan c).functions = s.functions := rfl
@[simp] theorem State.putChan_linkSent (s : State) (c : Chan) : (s.putChan c).linkSent = s.linkSent := rfl
@[simp] theorem State.putChan_messages (s : State) (c : Chan) : (s.putChan c).messages = s.messages := rfl
@[simp] theorem State.putChan_startReports (s : State) (c : Chan) : (s.putChan c).startReports = s.startReports := rfl
@[simp] theorem State.putChan_dmaReads (s : State) (c : Chan) : (s.putChan c).dmaReads = s.dmaReads := rfl
@[simp] theorem State.putChan_dmaRefused (s : State) (c : Chan) : (s.putChan c).dmaRefused = s.dmaRefused := rfl
@[simp] theorem State.putChan_mailbox (s : State) (c : Chan) : (s.putChan c).mailbox = s.mailbox := rfl
@[simp] theorem State.putChan_lodestarBox (s : State) (c : Chan) : (s.putChan c).lodestarBox = s.lodestarBox := rfl
@[simp] theorem State.putChan_machineEvents (s : State) (c : Chan) : (s.putChan c).machineEvents = s.machineEvents := rfl
@[simp] theorem State.putChan_lostEvents (s : State) (c : Chan) : (s.putChan c).lostEvents = s.lostEvents := rfl
@[simp] theorem State.putChan_routes (s : State) (c : Chan) : (s.putChan c).routes = s.routes := rfl
@[simp] theorem State.putChan_ports (s : State) (c : Chan) : (s.putChan c).ports = s.ports := rfl
@[simp] theorem State.putChan_flows (s : State) (c : Chan) : (s.putChan c).flows = s.flows := rfl
@[simp] theorem State.putChan_linkKeys (s : State) (c : Chan) : (s.putChan c).linkKeys = s.linkKeys := rfl
@[simp] theorem State.putChan_measures (s : State) (c : Chan) : (s.putChan c).measures = s.measures := rfl
@[simp] theorem State.putChan_jobs (s : State) (c : Chan) : (s.putChan c).jobs = s.jobs := rfl
@[simp] theorem State.putChan_signIndex (s : State) (c : Chan) : (s.putChan c).signIndex = s.signIndex := rfl
@[simp] theorem State.putChan_thermal (s : State) (c : Chan) : (s.putChan c).thermal = s.thermal := rfl
@[simp] theorem State.putChan_rampAt (s : State) (c : Chan) : (s.putChan c).rampAt = s.rampAt := rfl
@[simp] theorem State.putChan_coresRetired (s : State) (c : Chan) : (s.putChan c).coresRetired = s.coresRetired := rfl
@[simp] theorem State.putChan_rowsSpared (s : State) (c : Chan) : (s.putChan c).rowsSpared = s.rowsSpared := rfl
@[simp] theorem State.putChan_corrections (s : State) (c : Chan) : (s.putChan c).corrections = s.corrections := rfl
@[simp] theorem State.putChan_rowErrors (s : State) (c : Chan) : (s.putChan c).rowErrors = s.rowErrors := rfl
@[simp] theorem State.putChan_wayErrors (s : State) (c : Chan) : (s.putChan c).wayErrors = s.wayErrors := rfl
@[simp] theorem State.putChan_channelsAsked (s : State) (c : Chan) : (s.putChan c).channelsAsked = s.channelsAsked := rfl
@[simp] theorem State.putChan_channelsRetired (s : State) (c : Chan) : (s.putChan c).channelsRetired = s.channelsRetired := rfl
@[simp] theorem State.putChan_waysRetired (s : State) (c : Chan) : (s.putChan c).waysRetired = s.waysRetired := rfl
@[simp] theorem State.putChan_enginesRetired (s : State) (c : Chan) : (s.putChan c).enginesRetired = s.enginesRetired := rfl
@[simp] theorem State.putChan_engineRepeats (s : State) (c : Chan) : (s.putChan c).engineRepeats = s.engineRepeats := rfl
@[simp] theorem State.putChan_discarded (s : State) (c : Chan) : (s.putChan c).discarded = s.discarded := rfl
@[simp] theorem State.putChan_upsets (s : State) (c : Chan) : (s.putChan c).upsets = s.upsets := rfl

/-! ### `putScene` -/

@[simp] theorem State.putScene_agenda (s : State) (c : Scene) : (s.putScene c).agenda = s.agenda := rfl
@[simp] theorem State.putScene_defer (s : State) (c : Scene) : (s.putScene c).defer = s.defer := rfl
@[simp] theorem State.putScene_free (s : State) (c : Scene) : (s.putScene c).free = s.free := rfl
@[simp] theorem State.putScene_cur (s : State) (c : Scene) : (s.putScene c).cur = s.cur := rfl
@[simp] theorem State.putScene_turnLeft (s : State) (c : Scene) : (s.putScene c).turnLeft = s.turnLeft := rfl
@[simp] theorem State.putScene_nextId (s : State) (c : Scene) : (s.putScene c).nextId = s.nextId := rfl
@[simp] theorem State.putScene_teams (s : State) (c : Scene) : (s.putScene c).teams = s.teams := rfl
@[simp] theorem State.putScene_gangs (s : State) (c : Scene) : (s.putScene c).gangs = s.gangs := rfl
@[simp] theorem State.putScene_families (s : State) (c : Scene) : (s.putScene c).families = s.families := rfl
@[simp] theorem State.putScene_copies (s : State) (c : Scene) : (s.putScene c).copies = s.copies := rfl
@[simp] theorem State.putScene_epochs (s : State) (c : Scene) : (s.putScene c).epochs = s.epochs := rfl
@[simp] theorem State.putScene_groups (s : State) (c : Scene) : (s.putScene c).groups = s.groups := rfl
@[simp] theorem State.putScene_cores (s : State) (c : Scene) : (s.putScene c).cores = s.cores := rfl
@[simp] theorem State.putScene_mem (s : State) (c : Scene) : (s.putScene c).mem = s.mem := rfl
@[simp] theorem State.putScene_poison (s : State) (c : Scene) : (s.putScene c).poison = s.poison := rfl
@[simp] theorem State.putScene_held (s : State) (c : Scene) : (s.putScene c).held = s.held := rfl
@[simp] theorem State.putScene_lostPages (s : State) (c : Scene) : (s.putScene c).lostPages = s.lostPages := rfl
@[simp] theorem State.putScene_staged (s : State) (c : Scene) : (s.putScene c).staged = s.staged := rfl
@[simp] theorem State.putScene_flights (s : State) (c : Scene) : (s.putScene c).flights = s.flights := rfl
@[simp] theorem State.putScene_pubs (s : State) (c : Scene) : (s.putScene c).pubs = s.pubs := rfl
@[simp] theorem State.putScene_pubNum (s : State) (c : Scene) : (s.putScene c).pubNum = s.pubNum := rfl
@[simp] theorem State.putScene_pubSeq (s : State) (c : Scene) : (s.putScene c).pubSeq = s.pubSeq := rfl
@[simp] theorem State.putScene_pendPubs (s : State) (c : Scene) : (s.putScene c).pendPubs = s.pendPubs := rfl
@[simp] theorem State.putScene_tick (s : State) (c : Scene) : (s.putScene c).tick = s.tick := rfl
@[simp] theorem State.putScene_inBound (s : State) (c : Scene) : (s.putScene c).inBound = s.inBound := rfl
@[simp] theorem State.putScene_lastTiming (s : State) (c : Scene) : (s.putScene c).lastTiming = s.lastTiming := rfl
@[simp] theorem State.putScene_holdBack (s : State) (c : Scene) : (s.putScene c).holdBack = s.holdBack := rfl
@[simp] theorem State.putScene_catchUp (s : State) (c : Scene) : (s.putScene c).catchUp = s.catchUp := rfl
@[simp] theorem State.putScene_lastSent (s : State) (c : Scene) : (s.putScene c).lastSent = s.lastSent := rfl
@[simp] theorem State.putScene_inDomain (s : State) (c : Scene) : (s.putScene c).inDomain = s.inDomain := rfl
@[simp] theorem State.putScene_dev (s : State) (c : Scene) : (s.putScene c).dev = s.dev := rfl
@[simp] theorem State.putScene_bringup (s : State) (c : Scene) : (s.putScene c).bringup = s.bringup := rfl
@[simp] theorem State.putScene_bringupFailed (s : State) (c : Scene) : (s.putScene c).bringupFailed = s.bringupFailed := rfl
@[simp] theorem State.putScene_coresStarted (s : State) (c : Scene) : (s.putScene c).coresStarted = s.coresStarted := rfl
@[simp] theorem State.putScene_nextStart (s : State) (c : Scene) : (s.putScene c).nextStart = s.nextStart := rfl
@[simp] theorem State.putScene_hostMode (s : State) (c : Scene) : (s.putScene c).hostMode = s.hostMode := rfl
@[simp] theorem State.putScene_hostLink (s : State) (c : Scene) : (s.putScene c).hostLink = s.hostLink := rfl
@[simp] theorem State.putScene_rootPorts (s : State) (c : Scene) : (s.putScene c).rootPorts = s.rootPorts := rfl
@[simp] theorem State.putScene_mailRings (s : State) (c : Scene) : (s.putScene c).mailRings = s.mailRings := rfl
@[simp] theorem State.putScene_vectorTable (s : State) (c : Scene) : (s.putScene c).vectorTable = s.vectorTable := rfl
@[simp] theorem State.putScene_hostCached (s : State) (c : Scene) : (s.putScene c).hostCached = s.hostCached := rfl
@[simp] theorem State.putScene_backInvalidates (s : State) (c : Scene) : (s.putScene c).backInvalidates = s.backInvalidates := rfl
@[simp] theorem State.putScene_queues (s : State) (c : Scene) : (s.putScene c).queues = s.queues := rfl
@[simp] theorem State.putScene_checkRecords (s : State) (c : Scene) : (s.putScene c).checkRecords = s.checkRecords := rfl
@[simp] theorem State.putScene_lastQueueSlot (s : State) (c : Scene) : (s.putScene c).lastQueueSlot = s.lastQueueSlot := rfl
@[simp] theorem State.putScene_launches (s : State) (c : Scene) : (s.putScene c).launches = s.launches := rfl
@[simp] theorem State.putScene_tenants (s : State) (c : Scene) : (s.putScene c).tenants = s.tenants := rfl
@[simp] theorem State.putScene_remoteRoots (s : State) (c : Scene) : (s.putScene c).remoteRoots = s.remoteRoots := rfl
@[simp] theorem State.putScene_chans (s : State) (c : Scene) : (s.putScene c).chans = s.chans := rfl
@[simp] theorem State.putScene_served (s : State) (c : Scene) : (s.putScene c).served = s.served := rfl
@[simp] theorem State.putScene_factors (s : State) (c : Scene) : (s.putScene c).factors = s.factors := rfl
@[simp] theorem State.putScene_msix (s : State) (c : Scene) : (s.putScene c).msix = s.msix := rfl
@[simp] theorem State.putScene_hostReads (s : State) (c : Scene) : (s.putScene c).hostReads = s.hostReads := rfl
@[simp] theorem State.putScene_apertures (s : State) (c : Scene) : (s.putScene c).apertures = s.apertures := rfl
@[simp] theorem State.putScene_functions (s : State) (c : Scene) : (s.putScene c).functions = s.functions := rfl
@[simp] theorem State.putScene_linkSent (s : State) (c : Scene) : (s.putScene c).linkSent = s.linkSent := rfl
@[simp] theorem State.putScene_messages (s : State) (c : Scene) : (s.putScene c).messages = s.messages := rfl
@[simp] theorem State.putScene_startReports (s : State) (c : Scene) : (s.putScene c).startReports = s.startReports := rfl
@[simp] theorem State.putScene_dmaReads (s : State) (c : Scene) : (s.putScene c).dmaReads = s.dmaReads := rfl
@[simp] theorem State.putScene_dmaRefused (s : State) (c : Scene) : (s.putScene c).dmaRefused = s.dmaRefused := rfl
@[simp] theorem State.putScene_mailbox (s : State) (c : Scene) : (s.putScene c).mailbox = s.mailbox := rfl
@[simp] theorem State.putScene_lodestarBox (s : State) (c : Scene) : (s.putScene c).lodestarBox = s.lodestarBox := rfl
@[simp] theorem State.putScene_machineEvents (s : State) (c : Scene) : (s.putScene c).machineEvents = s.machineEvents := rfl
@[simp] theorem State.putScene_lostEvents (s : State) (c : Scene) : (s.putScene c).lostEvents = s.lostEvents := rfl
@[simp] theorem State.putScene_routes (s : State) (c : Scene) : (s.putScene c).routes = s.routes := rfl
@[simp] theorem State.putScene_ports (s : State) (c : Scene) : (s.putScene c).ports = s.ports := rfl
@[simp] theorem State.putScene_flows (s : State) (c : Scene) : (s.putScene c).flows = s.flows := rfl
@[simp] theorem State.putScene_linkKeys (s : State) (c : Scene) : (s.putScene c).linkKeys = s.linkKeys := rfl
@[simp] theorem State.putScene_measures (s : State) (c : Scene) : (s.putScene c).measures = s.measures := rfl
@[simp] theorem State.putScene_jobs (s : State) (c : Scene) : (s.putScene c).jobs = s.jobs := rfl
@[simp] theorem State.putScene_signIndex (s : State) (c : Scene) : (s.putScene c).signIndex = s.signIndex := rfl
@[simp] theorem State.putScene_thermal (s : State) (c : Scene) : (s.putScene c).thermal = s.thermal := rfl
@[simp] theorem State.putScene_rampAt (s : State) (c : Scene) : (s.putScene c).rampAt = s.rampAt := rfl
@[simp] theorem State.putScene_coresRetired (s : State) (c : Scene) : (s.putScene c).coresRetired = s.coresRetired := rfl
@[simp] theorem State.putScene_rowsSpared (s : State) (c : Scene) : (s.putScene c).rowsSpared = s.rowsSpared := rfl
@[simp] theorem State.putScene_corrections (s : State) (c : Scene) : (s.putScene c).corrections = s.corrections := rfl
@[simp] theorem State.putScene_rowErrors (s : State) (c : Scene) : (s.putScene c).rowErrors = s.rowErrors := rfl
@[simp] theorem State.putScene_wayErrors (s : State) (c : Scene) : (s.putScene c).wayErrors = s.wayErrors := rfl
@[simp] theorem State.putScene_channelsAsked (s : State) (c : Scene) : (s.putScene c).channelsAsked = s.channelsAsked := rfl
@[simp] theorem State.putScene_channelsRetired (s : State) (c : Scene) : (s.putScene c).channelsRetired = s.channelsRetired := rfl
@[simp] theorem State.putScene_waysRetired (s : State) (c : Scene) : (s.putScene c).waysRetired = s.waysRetired := rfl
@[simp] theorem State.putScene_enginesRetired (s : State) (c : Scene) : (s.putScene c).enginesRetired = s.enginesRetired := rfl
@[simp] theorem State.putScene_engineRepeats (s : State) (c : Scene) : (s.putScene c).engineRepeats = s.engineRepeats := rfl
@[simp] theorem State.putScene_discarded (s : State) (c : Scene) : (s.putScene c).discarded = s.discarded := rfl
@[simp] theorem State.putScene_upsets (s : State) (c : Scene) : (s.putScene c).upsets = s.upsets := rfl

/-! ### Finding after replacing -/

/-- A team with another id is found as before. -/
theorem State.team?_modTeam_ne (s : State) (id k : Nat) (f : Team → Team) (hf : ∀ u, (f u).id = u.id) (h : k ≠ id) :
    (s.modTeam id f).team? k = s.team? k := by
  simp only [State.team?, State.modTeam]
  induction s.teams with
  | nil => rfl
  | cons u us ih =>
    rw [List.map_cons, List.find?_cons, List.find?_cons, ih]
    by_cases hu : u.id = id
    · have e : (u.id == k) = false := beq_eq_false_iff_ne.mpr fun e => h (e ▸ hu)
      rw [if_pos (beq_iff_eq.mpr hu), hf, e]
    · rw [if_neg (fun e => hu (beq_iff_eq.mp e))]

/-- The changed team is found. -/
theorem State.team?_modTeam (s : State) (id : Nat) (f : Team → Team) (hf : ∀ u, (f u).id = u.id) :
    (s.modTeam id f).team? id = (s.team? id).map f := by
  simp only [State.team?, State.modTeam]
  induction s.teams with
  | nil => rfl
  | cons u us ih =>
    rw [List.map_cons, List.find?_cons, List.find?_cons]
    by_cases hu : u.id = id
    · rw [if_pos (beq_iff_eq.mpr hu), hf, beq_iff_eq.mpr hu]
      rfl
    · rw [if_neg (fun e => hu (beq_iff_eq.mp e)), beq_eq_false_iff_ne.mpr hu]
      exact ih

/-- A team that was there is found once its record has been put back. -/
theorem State.team?_putTeam (s : State) (t u : Team) (h : s.team? t.id = some u) : (s.putTeam t).team? t.id = some t := by
  simp only [State.team?, State.putTeam, setWhere] at h ⊢
  revert h
  induction s.teams with
  | nil => intro h; cases h
  | cons x xs ih =>
    intro h
    rw [List.map_cons, List.find?_cons]
    rw [List.find?_cons] at h
    by_cases hx : x.id = t.id
    · rw [if_pos (beq_iff_eq.mpr hx), beq_self_eq_true]
    · rw [beq_eq_false_iff_ne.mpr hx] at h
      rw [if_neg (fun e => hx (beq_iff_eq.mp e)), beq_eq_false_iff_ne.mpr hx]
      exact ih h

/-- Another team is found as before. -/
theorem State.team?_putTeam_ne (s : State) (t : Team) (k : Nat) (h : k ≠ t.id) : (s.putTeam t).team? k = s.team? k := by
  simp only [State.team?, State.putTeam, setWhere]
  induction s.teams with
  | nil => rfl
  | cons x xs ih =>
    rw [List.map_cons, List.find?_cons, List.find?_cons, ih]
    by_cases hx : x.id = t.id
    · have e : (x.id == k) = false := beq_eq_false_iff_ne.mpr fun e => h (e ▸ hx)
      rw [if_pos (beq_iff_eq.mpr hx), e, beq_eq_false_iff_ne.mpr (Ne.symm h)]
    · rw [if_neg (fun e => hx (beq_iff_eq.mp e))]

/-- A found team has the id it was looked for by. -/
theorem State.team?_id (s : State) (id : Nat) (t : Team) (h : s.team? id = some t) : t.id = id := by
  have := List.find?_some h
  simpa using this

/-- The issuing team is found under its own id. -/
theorem State.team?_of_issuer (s : State) (t : Team) (h : s.issuer? = some t) : s.team? t.id = some t := by
  unfold State.issuer? at h
  split at h
  · cases h
  · rename_i id _
    have := s.team?_id id t h
    rw [this]
    exact h

/-- The core put back is found. -/
@[simp] theorem State.core_putCore (s : State) (c : Core) : (s.putCore c).core c.n = c := by
  simp only [State.core, State.putCore]
  induction s.cores with
  | nil => simp [putCoreIn]
  | cons d ds ih =>
    by_cases h : d.n = c.n
    · simp [putCoreIn, h]
    · simpa [putCoreIn, h] using ih

/-- Another core is found as before. -/
theorem State.core_putCore_ne (s : State) (c : Core) (k : Nat) (h : k ≠ c.n) : (s.putCore c).core k = s.core k := by
  simp only [State.core, State.putCore]
  induction s.cores with
  | nil => simp [putCoreIn, Ne.symm h]
  | cons d ds ih =>
    by_cases hd : d.n = c.n
    · simp [putCoreIn, hd, Ne.symm h]
    · by_cases hk : d.n = k
      · simp [putCoreIn, hk, h]
      · simpa [putCoreIn, hd, hk] using ih

/-- A core's record has its number. -/
@[simp] theorem State.core_n (s : State) (n : Nat) : (s.core n).n = n := by
  simp only [State.core]
  cases h : s.cores.find? fun c => c.n == n with
  | none => rfl
  | some c => simpa using List.find?_some h

/-- The changed core is found. -/
@[simp] theorem State.core_modCore (s : State) (n : Nat) (f : Core → Core) :
    (s.modCore n f).core n = { f (s.core n) with n := n } := s.core_putCore { f (s.core n) with n := n }

/-- Another core is found as before. -/
theorem State.core_modCore_ne (s : State) (n k : Nat) (f : Core → Core) (h : k ≠ n) :
    (s.modCore n f).core k = s.core k := s.core_putCore_ne _ k h

end Sys2Proof.Machine
end

