-- ==== Sys2Proof/Laws/Registers.lean ====
section
/-!
SUPPORT. What an instruction on registers does, once and for all: it completes when its body does, and everything
outside the registers stays; and the small lemmas of the record updates it is made of.
-/

namespace Sys2Proof.Machine

@[simp] theorem Team.moveTo_id (t : Team) (pc : Word) : (t.moveTo pc).id = t.id := by
  unfold Team.moveTo Team.setArm
  split
  · rfl
  · split <;> rfl

@[simp] theorem Team.moveTo_core (t : Team) (pc : Word) : (t.moveTo pc).core = t.core := by
  unfold Team.moveTo Team.setArm
  split
  · rfl
  · split <;> rfl

@[simp] theorem Team.countRetired_id (t : Team) (user : Bool) (tick : Nat) : (t.countRetired user tick).id = t.id := by
  unfold Team.countRetired Team.restartRetire
  cases t.handling <;> rfl

@[simp] theorem Team.countRetired_core (t : Team) (user : Bool) (tick : Nat) : (t.countRetired user tick).core = t.core := by
  unfold Team.countRetired Team.restartRetire
  cases t.handling <;> rfl

/-- Putting a view back replaces the team's record and, if they differ, three fields of the core's. -/
theorem State.putView_cases (s : State) (v : View) :
    (s.putView v = s.putTeam v.team ∧ (s.core v.team.core).k = v.k ∧ (s.core v.team.core).kv = v.kv ∧
      (s.core v.team.core).latches = v.latches) ∨
    s.putView v =
      (s.putTeam v.team).putCore { s.core v.team.core with k := v.k, kv := v.kv, latches := v.latches } := by
  have hc : (s.putTeam v.team).core v.team.core = s.core v.team.core := rfl
  by_cases h : (s.core v.team.core).k = v.k ∧ (s.core v.team.core).kv = v.kv ∧ (s.core v.team.core).latches = v.latches
  · exact .inl ⟨by simp only [State.putView, hc, if_pos h], h⟩
  · exact .inr (by simp only [State.putView, hc, if_neg h])

/-- Putting a view back keeps everything but teams and cores. -/
theorem State.putView_rest (s : State) (v : View) : { s.putView v with teams := s.teams, cores := s.cores } = s := by
  rcases s.putView_cases v with ⟨h, _⟩ | h <;> rw [h] <;> rfl

@[simp] theorem State.putView_tick (s : State) (v : View) : (s.putView v).tick = s.tick := by
  rcases s.putView_cases v with ⟨h, _⟩ | h <;> rw [h] <;> rfl

@[simp] theorem State.putView_mem (s : State) (v : View) : (s.putView v).mem = s.mem := by
  rcases s.putView_cases v with ⟨h, _⟩ | h <;> rw [h] <;> rfl

/-- The team of a view is found once the view has been put back. -/
theorem State.team?_putView (s : State) (v : View) (u : Team) (h : s.team? v.team.id = some u) :
    (s.putView v).team? v.team.id = some v.team := by
  have := s.team?_putTeam v.team u h
  rcases s.putView_cases v with ⟨h, _⟩ | h <;> rw [h] <;> simpa [State.team?] using this

/-- Another team is found as before. -/
theorem State.team?_putView_ne (s : State) (v : View) (k : Nat) (h : k ≠ v.team.id) :
    (s.putView v).team? k = s.team? k := by
  have := s.team?_putTeam_ne v.team k h
  rcases s.putView_cases v with ⟨h, _⟩ | h <;> rw [h] <;> simpa [State.team?] using this

/-- Another core is found as before. -/
theorem State.core_putView_ne (s : State) (v : View) (k : Nat) (h : k ≠ v.team.core) : (s.putView v).core k = s.core k := by
  rcases s.putView_cases v with ⟨e, _⟩ | e
  · rw [e]
    rfl
  · rw [e, State.core_putCore_ne]
    · rfl
    · simpa using h

/-- The core of a view holds the view's registers, and nothing else of it has changed. -/
theorem State.core_putView (s : State) (v : View) :
    (s.putView v).core v.team.core = { s.core v.team.core with k := v.k, kv := v.kv, latches := v.latches } := by
  rcases s.putView_cases v with ⟨e, h1, h2, h3⟩ | e
  · rw [e, ← h1, ← h2, ← h3]
    rfl
  · have := State.core_putCore (s.putTeam v.team)
      { s.core v.team.core with k := v.k, kv := v.kv, latches := v.latches }
    rw [e]
    simpa using this

/-- Retiring to the next instruction changes the record of the team alone. -/
theorem State.retire_next (s : State) (t : Team) (len : Nat) :
    s.retire t len .next =
      s.modTeam t.id fun u => (u.moveTo (t.arm.pc + BitVec.ofNat 64 len)).countRetired (!t.isSystem) s.tick.toNat := rfl

/-- An instruction on registers whose body gives the view `w` completes, and touches nothing but registers. -/
theorem regOp_completes (len : Nat) (f : View → Except Stop View) (s : State) (t : Team) (w : View)
    (hi : s.issuer? = some t) (hf : f (s.viewOf t) = .ok w) (hid : w.team.id = t.id) (hc : w.team.core = t.core) :
    ∃ s', regOp len f s = .next s' ∧ RegisterStep s s' t w len := by
  have ht := s.team?_of_issuer t hi
  have hf' : f (View.of t (s.core t.core)) = .ok w := hf
  refine ⟨(s.putView w).retire t len .next, ?_, ?_⟩
  · simp only [regOp, issue, hi, hf']
  · rw [State.retire_next]
    have hg : ∀ u : Team,
        ((u.moveTo (t.arm.pc + BitVec.ofNat 64 len)).countRetired (!t.isSystem) (s.putView w).tick.toNat).id = u.id := by simp
    have hfound := s.team?_putView w t (hid ▸ ht)
    have hcore := s.core_putView w
    have hk : ∀ k, ((s.putView w).modTeam t.id fun u =>
        (u.moveTo (t.arm.pc + BitVec.ofNat 64 len)).countRetired (!t.isSystem) (s.putView w).tick.toNat).core k =
          (s.putView w).core k := fun k => rfl
    constructor
    · rw [State.team?_modTeam _ _ _ hg, ← hid, hfound]
      simp
    · rw [hk, ← hc, hcore]
      exact ⟨rfl, rfl, rfl⟩
    · rw [hk, ← hc, hcore]
    · intro k hne
      rw [State.team?_modTeam_ne _ _ _ _ hg hne, s.team?_putView_ne w k (hid ▸ hne)]
    · intro n hne
      rw [hk, s.core_putView_ne w n (hc ▸ hne)]
    · exact s.putView_rest w

end Sys2Proof.Machine
end

