-- ==== Sys2Proof/Laws/Step.lean ====
section
/-!
SUPPORT. What the shared operations of a step can do, said once: how an issued instruction ends, how an event ends, what
a trap and a stop come to, and that a decoded word runs its instruction.
-/

namespace Sys2Proof.Machine

/-! ## Bodies -/

/-- Where the first part of a body goes on, the body is the second part. -/
theorem M.bind_ok {α β : Type} {x : M α} {f : α → M β} {s u : State} {a : α} (h : x s = .ok a u) :
    (x >>= f) s = f a u := by
  show EStateM.bind x f s = _
  simp only [EStateM.bind, h]

/-- Where the first part of a body stops, the body stops. -/
theorem M.bind_error {α β : Type} {x : M α} {f : α → M β} {s u : State} {e : Stop} (h : x s = .error e u) :
    (x >>= f) s = .error e u := by
  show EStateM.bind x f s = _
  simp only [EStateM.bind, h]

/-- A body of two parts goes on where both do. -/
theorem M.bind_eq_ok {α β : Type} {x : M α} {f : α → M β} {s u : State} {b : β} :
    (x >>= f) s = .ok b u ↔ ∃ a v, x s = .ok a v ∧ f a v = .ok b u := by
  cases h : x s with
  | ok a v => simp [M.bind_ok h]
  | error e v => simp [M.bind_error h]

@[simp] theorem M.pure_run {α : Type} (a : α) (s : State) : (pure a : M α) s = .ok a s := rfl

@[simp] theorem M.get_run (s : State) : (get : M State) s = .ok s s := rfl

@[simp] theorem M.throw_run {α : Type} (e : Stop) (s : State) : (throw e : M α) s = .error e s := rfl

@[simp] theorem M.modify_run (f : State → State) (s : State) : (modify f : M Unit) s = .ok () (f s) := rfl

@[simp] theorem M.lift_ok {α : Type} (a : α) (s : State) : M.lift (.ok a) s = .ok a s := rfl

@[simp] theorem M.lift_error {α : Type} (e : Stop) (s : State) : (M.lift (.error e) : M α) s = .error e s := rfl

@[simp] theorem M.stopIf_false (e : Stop) (s : State) : M.stopIf false e s = .ok () s := rfl

@[simp] theorem M.stopIf_true (e : Stop) (s : State) : M.stopIf true e s = .error e s := rfl

/-- A read of registers leaves the state as it is. -/
theorem M.read_eq {α : Type} (t : Team) (f : View → Except Stop α) (s : State) (h : s.team? t.id = some t) :
    M.read t f s = match f (s.viewOf t) with
      | .ok a => .ok a s
      | .error e => .error e s := by
  have hv : M.view t.id s = .ok (s.viewOf t) s := by simp only [M.view, h]; rfl
  unfold M.read
  rw [M.bind_ok hv]
  cases f (s.viewOf t) <;> rfl

/-! ## An issued instruction -/

/-- How an instruction that a team issued ends: it retires after its body, the team stops, or an address no HBM holds was
accessed. -/
theorem issue_cases (len : Nat) (body : Team → M Done) (s : State) (t : Team) (h : s.issuer? = some t) :
    (∃ f u, body t s = .ok f u ∧ issue len body s = .next (u.retire t len f)) ∨
    (∃ e u, body t s = .error e u ∧ (∀ pa, e ≠ .absent pa) ∧ issue len body s = .next (u.stop t e)) ∨
    ∃ pa u, body t s = .error (.absent pa) u ∧ issue len body s = .fault (.absent pa) := by
  simp only [issue, h]
  cases hb : body t s with
  | ok f u => exact .inl ⟨f, u, rfl, rfl⟩
  | error e u =>
    cases e with
    | absent pa => exact .inr (.inr ⟨pa, u, rfl, rfl⟩)
    | trap _ _ _ => exact .inr (.inl ⟨_, u, rfl, by simp, rfl⟩)
    | park _ _ _ _ _ => exact .inr (.inl ⟨_, u, rfl, by simp, rfl⟩)
    | wait _ => exact .inr (.inl ⟨_, u, rfl, by simp, rfl⟩)
    | halt _ _ => exact .inr (.inl ⟨_, u, rfl, by simp, rfl⟩)

/-- An instruction whose body goes on retires. -/
theorem issue_ok {len : Nat} {body : Team → M Done} {s u : State} {t : Team} {f : Done} (h : s.issuer? = some t)
    (hb : body t s = .ok f u) : issue len body s = .next (u.retire t len f) := by simp only [issue, h, hb]

/-- An instruction whose body traps stops there. -/
theorem issue_trap {len : Nat} {body : Team → M Done} {s u : State} {t : Team} {code : BitVec 9} {a : Word}
    {m : Option Mask} (h : s.issuer? = some t) (hb : body t s = .error (.trap code a m) u) :
    issue len body s = .next (u.stop t (.trap code a m)) := by simp only [issue, h, hb]

/-! ## An event of the part -/

/-- How an event ends: it happens, or nothing does, or it met an address no HBM holds. -/
theorem event_cases (body : M Unit) (s : State) :
    (∃ u, body s = .ok () u ∧ Machine.event body s = .next u) ∨
    (∃ e u, body s = .error e u ∧ (∀ pa, e ≠ .absent pa) ∧ Machine.event body s = .next s) ∨
    ∃ pa u, body s = .error (.absent pa) u ∧ Machine.event body s = .fault (.absent pa) := by
  simp only [Machine.event]
  cases hb : body s with
  | ok f u => exact .inl ⟨u, rfl, rfl⟩
  | error e u =>
    cases e with
    | absent pa => exact .inr (.inr ⟨pa, u, rfl, rfl⟩)
    | trap _ _ _ => exact .inr (.inl ⟨_, u, rfl, by simp, rfl⟩)
    | park _ _ _ _ _ => exact .inr (.inl ⟨_, u, rfl, by simp, rfl⟩)
    | wait _ => exact .inr (.inl ⟨_, u, rfl, by simp, rfl⟩)
    | halt _ _ => exact .inr (.inl ⟨_, u, rfl, by simp, rfl⟩)

/-! ## Traps -/

/-- What a trap comes to: a halt of the team, nested or without a handler; the entry of the handler; or the wait for the
core's bank. -/
theorem State.takeTrap_cases (s : State) (id : Nat) (i : TrapInfo) (t : Team) (h : s.team? id = some t) :
    (t.inh = true ∧ s.takeTrap id i = s.haltTeam id i true true) ∨
    (t.inh = false ∧ i.dbg = false ∧ (s.core t.core).tvec.getLsbD 0 = false ∧
      s.takeTrap id i = s.haltTeam id i false true) ∨
    (t.inh = false ∧ (i.dbg = true ∨ (s.core t.core).tvec.getLsbD 0 = true) ∧ (s.core t.core).bankFree = true ∧
      s.takeTrap id i = s.enterTrap id i) ∨
    (t.inh = false ∧ (i.dbg = true ∨ (s.core t.core).tvec.getLsbD 0 = true) ∧ (s.core t.core).bankFree = false ∧
      s.takeTrap id i = (s.modTeam id fun t => { t.pauseTimers s.tick.toNat with status := .waitingBank i }).putCore
        { s.core t.core with waiting := (s.core t.core).waiting ++ [id], latches := [] }) := by
  unfold State.takeTrap
  simp only [h]
  cases hi : t.inh <;> cases hd : i.dbg <;> cases hv : (s.core t.core).tvec.getLsbD 0 <;>
    cases hb : (s.core t.core).bankFree <;> simp_all

/-! ## Decoded words -/

/-- Running a decoded word is running its instruction. -/
theorem runDecoded_eq (d : Decoded) (s : State) : runDecoded d s = exec d.toInstr s := by
  cases d with
  | instr i => rfl
  | hint hk p =>
    simp only [runDecoded, Decoded.toInstr]
    split
    · rfl
    · split
      · rfl
      · split <;> rfl
  | tcinv all sc sa => cases all <;> rfl

/-- A step is what is next, with the copies of paired families after it, and a tick. -/
theorem step_eq (s : State) : step s = match s.act with
    | .next u => .next (s.shadowed u).ticked
    | o => o := rfl

/-- Without paired families and copies, nothing follows a step. -/
theorem State.shadowed_unpaired (s u : State) (hc : u.copies = []) (hp : ∀ f ∈ u.families, f.paired = false) :
    s.shadowed u = u := by
  have : u.families.filter (fun f => f.paired) = [] := List.filter_eq_nil_iff.2 fun f hf => by simp [hp f hf]
  simp [State.shadowed, hc, this]

/-- With an event waiting, the step is that event. -/
theorem State.act_agenda (s : State) (e : Instr) (es : List Instr) (h : s.agenda = e :: es) :
    s.act = exec e { s with agenda := es } := by simp only [State.act, h]

/-- With no event waiting and no error to come, the step is the turn in progress or a move of the machine's own. -/
theorem State.act_quiet (s : State) (h : s.agenda = []) (hu : s.upsets = []) :
    s.act = if s.cur.isSome then s.turn else s.ownMove := by simp only [State.act, h, hu]

/-- An error that strikes between instructions does so before the turn in progress goes on. -/
theorem State.act_strike (s : State) (u : Upset) (us : List Upset) (h : s.agenda = []) (hu : s.upsets = u :: us)
    (ho : u.atOnce = true) : s.act = .next ({ s with upsets := us }.strike u) := by simp only [State.act, h, hu, ho, if_true]

/-- With no error to come and no copy, the next instruction of a turn is issued as it stands. -/
theorem State.issueNext_quiet (s : State) (t : Team) (h : s.upsets = []) (hc : s.copies = []) :
    s.issueNext t = s.runNext t := by
  simp [State.issueNext, State.agreement, State.issueAgreed, h, hc]

end Sys2Proof.Machine
end

