-- ==== Sys2Proof/Tests/Slice0.lean ====
section
/-!
SUPPORT. The model's own tests: ill-formed terms that each check refuses; words of the spec's examples; single steps whose
results the spec gives; and, for every obligation with premises, states and operands that meet them (`test_meets_…`).
-/

namespace Sys2Proof.Tests

set_option Elab.async false

open Sys2Proof.Machine

/-! ## States for the tests -/

/-- A team of `size` lanes in gang 1 of family 0 on core 0, at the code address. -/
def team (size : Nat) : Team :=
  Team.make 2 (loadedGang 1 0) 0 0 0 .general size 64 64 (codeAddr 0)
    ((List.range size).map fun l => launchedKey 0x40000000 0 l) (maskBelow size) 0

/-- A brought-up device on which that team's turn has begun, with the page of the code address mapped. -/
def world (t : Team) : State :=
  { State.reset with
    cur := some 2, turnLeft := 8, nextId := 3, bringup := 7, coresStarted := 192, teams := [t], gangs := [loadedGang 1 0]
    families := [loadedFamily 0], cores := [{ Core.fresh 0 with tc := [codePage 0] }]
    tenants := [{ State.reset.tenant 0 with created := true }] }

/-- The team with scalar register `r` set. -/
def sreg (r : Nat) (x : Word) (t : Team) : Team := { t with s := t.s.setIfInBounds r x }

/-- The team with vector register `r` uniform. -/
def vreg (r : Nat) (f : Fmt) (x : Elem) (t : Team) : Team :=
  { t with v := t.v.setIfInBounds r { tag := .fmt f, shape := .uniform x, poison := 0 } }

/-- The team with vector register `r` affine. -/
def vaff (r : Nat) (f : Fmt) (x y : Elem) (t : Team) : Team :=
  { t with v := t.v.setIfInBounds r { tag := .fmt f, shape := .affine x y, poison := 0 } }

/-- The team at system level, in its handler or not. -/
def system (t : Team) : Team := { t with tstat := 1 }

/-- The team in its handler. -/
def inHandler (t : Team) : Team := { t with tstat := 0xC1, status := .handler, hpath := Arm.start 0x8000 (maskBelow t.size) 64 }

/-- What a check gave. -/
def got {α : Type} (e : Except Stop α) (d : α) : α := match e with
  | .ok x => x
  | .error _ => d

/-- Whether a body goes on. -/
def goes {α : Type} (r : EStateM.Result Stop State α) : Bool := match r with
  | .ok _ _ => true
  | .error _ _ => false

/-- A body that goes on gives something and a state. -/
theorem of_goes {α : Type} {r : EStateM.Result Stop State α} (h : goes r = true) : ∃ a w, r = .ok a w := by
  cases r with
  | ok a w => exact ⟨a, w, rfl⟩
  | error e w => cases h

/-- Whether a body gives `a` and the state `s`. -/
def gives {α : Type} [DecidableEq α] (r : EStateM.Result Stop State α) (a : α) (s : State) : Bool := match r with
  | .ok b w => decide (b = a ∧ w = s)
  | .error _ _ => false

/-- That body does. -/
theorem of_gives {α : Type} [DecidableEq α] {r : EStateM.Result Stop State α} {a : α} {s : State}
    (h : gives r a s = true) : r = .ok a s := by
  cases r with
  | ok b w => simp only [gives, decide_eq_true_eq] at h; rw [h.1, h.2]
  | error e w => cases h

/-- The team whose turn it is. -/
theorem issuer_of {s : State} {t : Team} {ts : List Team} (hc : s.cur = some 2) (ht : s.teams = t :: ts) (hi : t.id = 2) :
    s.issuer? = some t := by simp [State.issuer?, State.team?, hc, ht, hi]

/-- A team of two lanes with f32, s32, n32, b32 and pk registers and pairs of f64 and s64. -/
def rich : Team :=
  [(1, Fmt.f32, 0x3F800000), (2, .f32, 0x40000000), (3, .s32, 5), (4, .s32, 7), (5, .n32, 9), (6, .b32, 3), (7, .b32, 6),
    (8, .f64, 0), (9, .f64, 0x3FF00000), (10, .s64, 1), (11, .s64, 0), (12, .pk, 0x3F803F80), (13, .pk, 0x40004000),
    (14, .n32, 1), (15, .f32, 0)].foldl (fun t p => vreg p.1 p.2.1 p.2.2 t) (team 2)

/-- Its registers. -/
def regs : View := (world rich).viewOf rich

/-- An operand as the registers give it. -/
def src (r : BitVec 6) (f : Fmt) : Src := got (regs.readV posSA (.v r) f) (Src.imm .s32 0)

/-- The memories of a state are canonical, as a check. -/
def tidy (s : State) : Bool :=
  Memory.wf s.mem && s.cores.all (fun c => Memory.wf c.scratch) && s.copies.all (fun c => Memory.wf c.core.scratch) &&
    Memory.wf s.mailRings && Memory.wf s.vectorTable

/-- The check is the property. -/
theorem of_tidy {s : State} (h : tidy s = true) : s.Canonical := by
  simp only [tidy, Bool.and_eq_true, List.all_eq_true] at h
  exact ⟨h.1.1.1.1, h.1.1.1.2, h.1.1.2, h.1.2, h.2⟩

/-- A state in which nothing is outstanding is undelayed. -/
theorem undelayed_world {t : Team} (h : t.pend = []) : (world t).Undelayed t := ⟨h, rfl, rfl, rfl⟩

/-- A team with an address in s4, a word in s5, an f32 in v1, b32 and n32 registers. -/
def accessor (a w : Word) : Team := sreg 4 a (sreg 5 w rich)

/-- One lane of it. -/
def lone (a w : Word) : Team := { accessor a w with size := 1, act := 1, path := Arm.start (codeAddr 0) 1 64 }

/-- The index 0. -/
def zeroIndex : Src := Src.imm .s32 16

/-- The world with the team's gang changed. -/
def inGang (f : Gang → Gang) (t : Team) : State := { world t with gangs := [f (loadedGang 1 0)] }

/-- A core with tiles. -/
def tiled (ts : List (BitVec 8 × Tile)) (t : Team) : State := { world t with cores := [{ Core.fresh 0 with tiles := ts }] }

/-- A tile of the tests' gang, or of another. -/
def tile (state : TileState) (gslot : BitVec 5) : Tile :=
  { state := state, fmt := .fmt .bf16, gslot := gslot, sizeM1 := 0, base := 0 }

/-- The gang of the tests at a level. -/
def level (n : Nat) (t : Team) : State := { world t with gangs := [{ loadedGang 1 0 with level := BitVec.ofNat 2 n }] }

/-- The family of the tests changed. -/
def inFamily (f : Family → Family) (t : Team) : State := { world t with families := [f (loadedFamily 0)] }

/-- A handle of two rows and two columns of f32. -/
def square (state : HandleState) : Handle := { state := state, rows := 2, cols := 2, af := .f32, elems := [0, 0, 0, 0] }

/-- A family whose handle 0 is in a state. -/
def holding (state : HandleState) (f : Family) : Family := f.setHandle 0 (square state)

/-- The team of the sparse product worked in 13_isa_matrix_stream.md: om0, om1 and s6. -/
def sparseTeam : Team :=
  sreg 6 0x0201000400020002 { team 1 with om := ((team 1).om.set 0 0x0000020001000000).set 1 0x0100020001000000 }

/-- Its state: three tiles of 1 KiB, handle 0, the matrix unit admitted. -/
def sparse : State :=
  let mem := Memory.writeBytes (Memory.writeBytes (Memory.writeBytes [] 0 (bytesOf 8 0x4080404040003F80)) 0x400
    (bytesOf 16 0x410040E040C040A04080404040003F80)) 0x800 (bytesOf 8 0x0000000700000008)
  { inFamily (holding .held) sparseTeam with
    cores := [{ Core.fresh 0 with
      scratch := mem, mxeAdmitted := true
      tiles := [(0, tile .ready 0), (1, { tile .ready 0 with base := 1 }), (2, { tile .ready 0 with base := 2, fmt := .fmt .b32 })] }] }

/-- What a body gave. -/
def given {α : Type} (r : EStateM.Result Stop State α) (d : α) : α := match r with
  | .ok x _ => x
  | .error _ _ => d

/-- The state a body left. -/
def left {α : Type} (r : EStateM.Result Stop State α) : State := match r with
  | .ok _ w => w
  | .error _ w => w

/-- They are its outcome, when it goes on. -/
theorem given_left {α : Type} {r : EStateM.Result Stop State α} (d : α) (h : goes r = true) : r = .ok (given r d) (left r) := by
  cases r with
  | ok x w => rfl
  | error e w => cases h

/-- A channel of the tests' family. -/
def channel (e : EngineId) : Chan := Chan.fresh 50 e 0 0 0

/-- The world with channels. -/
def withChans (cs : List Chan) (t : Team) : State := { world t with chans := cs, nextId := 60 }

/-- The same of a body that gives nothing. -/
theorem ran {r : EStateM.Result Stop State Unit} (h : goes r = true) : r = .ok () (left r) := by
  cases r with
  | ok x w => rfl
  | error e w => cases h

/-- The pass it issues. -/
def sparsePass : Pass :=
  got (sparse.preparePass sparseTeam (loadedGang 1 0) (holding .held (loadedFamily 0)) true (.fmt .bf16) 0 0 1
    0x0201000400020002 6)
    { team := 0, gang := 0, family := 0, handle := 0, m := 0, n := 0, k := 0
      a := { om := 0, tag := .fmt .b32, tile := none, base := 0, bytes := 0 }
      b := { om := 0, tag := .fmt .b32, tile := none, base := 0, bytes := 0 }
      nf := (team 1).nf, free := 0, side := false, k0 := 0, dup := [], kept := none, nmbad := false }

/-- A trap of the lowest lane. -/
def trapOf (dbg : Bool) : TrapInfo :=
  { code := 0x0BF, eaddr := 0, emask := 1, epc := 0x10008, arm := false, div := false, dbg := dbg }

/-- A scene of `n` bodies. -/
def sceneWith (n : Nat) (bodies : List Body) (edges : List Edge) : Scene :=
  { num := 63, tenant := 0, ttbase := 1, sys := false, btab := 0x10000, bstate := 0x10000, ecap := 2, nbody := n
    entry := 0x20000, extra := 0, crosscap := 0, sreg := 8, vreg := 8, scap := 32, step := 0, bodies := bodies
    edges := edges, evicted := [], failed := false, drivers := [], result := none, lastEnd := 0 }

/-- The world with a scene, and a team naming it in s1. -/
def inScene (c : Scene) (t : Team) : State := { world t with scenes := [c] }

/-- The team naming scene 63. -/
def member : Team := sreg 1 63 (team 1)

/-- The world between turns. -/
def idle (t : Team) : State := { world t with cur := none }

/-- The world at a tick. -/
def atTick (n : Word) (t : Team) : State := { idle t with tick := n }

/-- The team waiting. -/
def waiting (w : Wait) (t : Team) : Team := { t with path := { t.path with wait := some w } }

/-- The world with a core of its own. -/
def withCore (f : Core → Core) (t : Team) : State := { idle t with cores := [f (Core.fresh 0)] }

/-- A table set that maps the first GiB of device 0 onto itself, every page accessed and dirty. -/
def tables : List Host.Cell := Memory.writeBytes (Memory.writeBytes [] 0 (bytesOf 8 0x20021)) 0x20000 (bytesOf 8 0x6F)

/-- A shape record: two rows and two columns of f32 at 0x10400, rows 32 bytes apart. -/
def shapeRecord : List Byte :=
  bytesOf 8 0x10400 ++ [32, 2, 2, 0, 0, 0, 2, 0, 2].flatMap (bytesOf 4) ++ bytesOf 4 (2 ^ 27) ++ List.replicate 16 0

/-- A queue: descriptor at 0x10000, ring at 0x10400, in slot 5. -/
def queue : Queue :=
  { num := 16383, desc := 0x10000, ring := 0x10400, slice := 1, tenant := 0, sys := false, prio := 0, log2sz := 4, level := 0
    checked := false, rd := 0, done := 0, db := 1, halt := false, code := 0, started := [], held := false, slot := some 5
    boundAt := 0, waitFrom := 0, raised := 0, sliceOver := false, check := CheckRec.zero, badCheck := false }

/-- Its tenant, with a table set. -/
def client : Tenant := { State.reset.tenant 0 with created := true, root := some 1, entries := [0x20000] }

/-- A brought-up device with queues, where memory holds bytes at the ring. -/
def serving (qs : List Queue) (bs : List Byte) : State :=
  { State.reset with bringup := 7, coresStarted := 192, nextId := 1, queues := qs, tenants := [client], mem := Memory.writeBytes tables 0x10400 bs }

/-! ## Ill-formed terms, one for each check -/

theorem test_ill_formed : [
    .movShort 0 0, .cmp (.v 1) (.v 2) .s32 1 .uo, .cmp (.v 1) (.v 2) .n64 1 .ord, .cvt (.fmt .b32) false (.v 1) 2 false 0,
    .cvt (.fmt .pk) false (.v 1) 2 false 0, .cvt (.fmt .f32) false (.v 1) 2 false 6, .mget 33 1 2, .mput 32 (.s 1) 1,
    .bdiv 5 0 1, .rdid 14 1, .redAdd 1 (.v 1) 2 .b32, .redMin 1 (.v 1) 2 .f16, .redMax 1 (.v 1) 2 .s8, .redAnd 1 (.v 1) 2 .f32,
    .redOr 1 (.v 1) 2 .f64, .redXor 1 (.v 1) 2 .pk, .atomAdd 1 (.v 1) 2 .b32, .atomMin 1 (.v 1) 2 .bf16, .atomMax 1 (.v 1) 2 .n8,
    .atomAnd 1 (.v 1) 2 .f32, .atomOr 1 (.v 1) 2 .f64, .atomXor 1 (.v 1) 2 .s16, .atomXchg 1 (.v 1) 2 .f16,
    .atomCas 1 (.v 1) 2 .n16, .ldfe 1 (.v 1) 2 .f16, .stfe 1 (.v 1) 2 .s8, .ldf 1 (.v 1) 2 .pk, .bar .team 1, .gbar .gang 1,
    .gbar .die 1, .spawn 0 5 (.s 1) 2, .mm (.fmt .s16) 0 0 0 1, .mmSp (.fmt .b32) 0 0 0 1, .mmo (.fmt .f64) 1 2 0 1,
    .mmoSp (.fmt .s64) 1 2 0 1, .crr .mxs (.s 1) 1, .crw .mxs (.s 1) 1, .crs .vacant (.s 1) 1, .crc .emask (.s 1) 1,
    .tcinv .team (.s 1), .tcinva .gang (.s 1), .hint 0 0, .hint 1 0, .hint 2 5].all (fun (i : Instr) => !i.wf) = true := by
  decide +kernel

/-! ## Every encoded instruction, as a word: the code bits and field places of the encoding tables of 08_encoding.md
to 15_system_traps.md (R152 to R160 and the instructions' own rules), each field with a value of its own -/

theorem test_words_a : [
    (16, 0x9E80, .movShort 19 52), (16, 0x9E82, .addF32Short 19 52), (16, 0x9E84, .subF32Short 19 52),
    (16, 0x9E86, .mulF32Short 19 52), (16, 0x9E88, .minF32Short 19 52), (16, 0x9E8A, .maxF32Short 19 52),
    (16, 0x9E8C, .addS32Short 19 52), (16, 0x9E8E, .subS32Short 19 52), (16, 0x9E90, .mulS32Short 19 52),
    (16, 0x9E92, .addN32Short 19 52), (16, 0x9E94, .subN32Short 19 52), (16, 0x9E96, .andB32Short 19 52),
    (16, 0x9E98, .orB32Short 19 52), (16, 0x9E9A, .xorB32Short 19 52), (16, 0x9E9C, .shlN32Short 19 52),
    (16, 0x9E9E, .shrN32Short 19 52), (32, 0x32AB4983, .addF32 (.v 25) (.v 42) 52 true 3),
    (32, 0x32AB4B83, .subF32 (.v 25) (.v 42) 52 true 3), (32, 0x32AB4D83, .mulF32 (.v 25) (.v 42) 52 true 3),
    (32, 0x32AB4F83, .fmaF32 (.v 25) (.v 42) 52 true 3), (32, 0x32AB4985, .addF64 (.v 25) (.v 42) 52 true 3),
    (32, 0x32AB4B85, .subF64 (.v 25) (.v 42) 52 true 3)].all (fun (p : Nat × Nat × Instr) => decide (decodeTableWord p.1 p.2.1 = some p.2.2)) =
      true := by decide +kernel

theorem test_words_b : [
    (32, 0x32AB4D85, .mulF64 (.v 25) (.v 42) 52 true 3), (32, 0x32AB4F85, .fmaF64 (.v 25) (.v 42) 52 true 3),
    (32, 0x32AB4987, .addF16 (.v 25) (.v 42) 52 true 3), (32, 0x32AB4B87, .subF16 (.v 25) (.v 42) 52 true 3),
    (32, 0x32AB4D87, .mulF16 (.v 25) (.v 42) 52 true 3), (32, 0x32AB4F87, .fmaF16 (.v 25) (.v 42) 52 true 3),
    (32, 0x32AB4989, .addBf16 (.v 25) (.v 42) 52 true 3), (32, 0x32AB4B89, .subBf16 (.v 25) (.v 42) 52 true 3),
    (32, 0x32AB4D89, .mulBf16 (.v 25) (.v 42) 52 true 3), (32, 0x32AB4F89, .fmaBf16 (.v 25) (.v 42) 52 true 3),
    (32, 0x32AB4D8B, .div (.v 25) (.v 42) 52 true .f16 3), (32, 0x32AB4C0D, .fmin (.v 25) (.v 42) 52 true .f16),
    (32, 0x32AB4C8D, .fmax (.v 25) (.v 42) 52 true .f16), (32, 0x32AB4D0D, .copysign (.v 25) (.v 42) 52 true .f16),
    (32, 0x00AB4D8F, .sqrt (.v 42) 52 true .f16 3), (32, 0x02AB4D8F, .rcp (.v 42) 52 true .f16 3),
    (32, 0x04AB4D8F, .rsqrt (.v 42) 52 true .f16 3), (32, 0x06AB4D8F, .exp2 (.v 42) 52 true .f16 3),
    (32, 0x08AB4D8F, .log2 (.v 42) 52 true .f16 3), (32, 0x0AAB4D8F, .sin (.v 42) 52 true .f16 3),
    (32, 0x0CAB4D8F, .cos (.v 42) 52 true .f16 3), (32, 0x0EAB4D8F, .tanh (.v 42) 52 true .f16 3)].all (fun (p : Nat × Nat × Instr) => decide (decodeTableWord p.1 p.2.1 = some p.2.2)) =
      true := by decide +kernel

theorem test_words_c : [
    (32, 0x10AB4D8F, .rint (.v 42) 52 true .f16 3), (32, 0x12AB4C0F, .fneg (.v 42) 52 true .f16),
    (32, 0x14AB4C0F, .fabs (.v 42) 52 true .f16), (32, 0x16AB4C0F, .fclass (.v 42) 52 true .f16),
    (32, 0x32AB4813, .intAdd (.v 25) (.v 42) 52 true .n32), (32, 0x32AB4893, .intSub (.v 25) (.v 42) 52 true .n32),
    (32, 0x32AB4913, .intMul (.v 25) (.v 42) 52 true .n32), (32, 0x32AB4993, .intMulh (.v 25) (.v 42) 52 true .n32),
    (32, 0x32AB4A13, .intMin (.v 25) (.v 42) 52 true .n32), (32, 0x32AB4A93, .intMax (.v 25) (.v 42) 52 true .n32),
    (32, 0x32AB4B13, .intAdds (.v 25) (.v 42) 52 true .n32), (32, 0x32AB4B93, .intSubs (.v 25) (.v 42) 52 true .n32),
    (32, 0x32AB4C13, .intShl (.v 25) (.v 42) 52 true .n32), (32, 0x32AB4C93, .intShr (.v 25) (.v 42) 52 true .n32),
    (32, 0x00AB4D15, .intAbs (.v 42) 52 true true), (32, 0x00AB4D95, .intNeg (.v 42) 52 true true),
    (32, 0x32AB4E13, .intMad (.v 25) (.v 42) 52 true .n32), (32, 0x32AB4E93, .intDiv (.v 25) (.v 42) 52 true .n32),
    (32, 0x32AB4F13, .intRem (.v 25) (.v 42) 52 true .n32), (32, 0x32AB4819, .bitAnd (.v 25) (.v 42) 52 true),
    (32, 0x32AB4899, .bitOr (.v 25) (.v 42) 52 true), (32, 0x32AB4919, .bitXor (.v 25) (.v 42) 52 true)].all (fun (p : Nat × Nat × Instr) => decide (decodeTableWord p.1 p.2.1 = some p.2.2)) =
      true := by decide +kernel

theorem test_words_d : [
    (32, 0x32AB4999, .bitAndn (.v 25) (.v 42) 52 true), (32, 0x00AB4A19, .bitNot (.v 42) 52 true),
    (32, 0x00AB4A99, .bitPopc (.v 42) 52 true), (32, 0x00AB4B19, .bitClz (.v 42) 52 true),
    (32, 0x00AB4B99, .bitCtz (.v 42) 52 true), (32, 0x32AB4C19, .bitRotl (.v 25) (.v 42) 52 true),
    (32, 0x00AB4C99, .bitBrev (.v 42) 52 true), (32, 0x32AB629B, .cmp (.v 25) (.v 42) .s64 6 .ge),
    (32, 0x4CAB481D, .cvt (.fmt .n16) true (.v 42) 52 true 0), (32, 0x54AAB49F, .vaddi 677 (.v 42) 52 true),
    (32, 0x02AAB4A1, .shli 21 (.v 42) 52 true), (32, 0x06AAB4A1, .shriN 21 (.v 42) 52 true),
    (32, 0x0AAAB4A1, .shriS 21 (.v 42) 52 true), (32, 0x0EAAB4A1, .rotli 21 (.v 42) 52 true),
    (32, 0x32AB4823, .xperm (.v 25) (.v 42) 52 true), (32, 0x32AB48A3, .shfl (.v 25) (.v 42) 52 true),
    (32, 0x2CAB4923, .shflXor (.s 22) (.v 42) 52 true), (32, 0x2CAB49A3, .shflUp (.s 22) (.v 42) 52 true),
    (32, 0x2CAB4A23, .shflDn (.s 22) (.v 42) 52 true), (32, 0x2CAB4AA3, .voteAny (.s 22) (.v 42) 52 true),
    (32, 0x2CAB4B23, .voteAll (.s 22) (.v 42) 52 true), (32, 0x2CAB4BA3, .voteEq (.s 22) (.v 42) 52 true)].all (fun (p : Nat × Nat × Instr) => decide (decodeTableWord p.1 p.2.1 = some p.2.2)) =
      true := by decide +kernel

theorem test_words_e : [
    (32, 0x2CAB4C23, .ballot (.s 22) (.v 42) 52 true), (32, 0x2CAB4CA3, .csamp (.s 22) (.v 42) 52 true),
    (32, 0x4A8F4D23, .rngN32 (.v 37) (.s 35) 52 true), (32, 0x00AB4825, .mov (.v 42) 52 true),
    (32, 0x12AB48A5, .movtag (.fmt .n16) (.v 42) 52 true), (32, 0x00034925, .lane 52 true),
    (32, 0x2CAB49A5, .bcast (.s 22) (.v 42) 52 true), (32, 0x32AB4A25, .sel (.v 25) (.v 42) 52 true),
    (32, 0x12AB4AA5, .vmoviGet (.fmt .n16) (.v 42) 52 true), (32, 0x32A80325, .vmoviPut (.v 25) (.v 42)),
    (32, 0x2CA74BA5, .affine (.s 22) (.s 41) 52 true), (32, 0x00A86C25, .omov (.v 42) 6 true),
    (32, 0x32AB4827, .dotF32Bf16 (.v 25) (.v 42) 52 true), (32, 0x32AB4A27, .dotF32F16 (.v 25) (.v 42) 52 true),
    (32, 0x32AB4C27, .dotS32S8 (.v 25) (.v 42) 52 true), (32, 0x32AB4E27, .dotF32Nf (.v 25) (.v 42) 52 true),
    (32, 0x2CA6D029, .sadd (.s 22) (.s 41) 45), (32, 0x2CA6D0A9, .ssub (.s 22) (.s 41) 45),
    (32, 0x2CA6D129, .smul (.s 22) (.s 41) 45), (32, 0x2CA6D1A9, .smulhS (.s 22) (.s 41) 45),
    (32, 0x2CA6D229, .smulhN (.s 22) (.s 41) 45), (32, 0x2CA6D2A9, .sdivS (.s 22) (.s 41) 45)].all (fun (p : Nat × Nat × Instr) => decide (decodeTableWord p.1 p.2.1 = some p.2.2)) =
      true := by decide +kernel

theorem test_words_f : [
    (32, 0x2CA6D329, .sdivN (.s 22) (.s 41) 45), (32, 0x2CA6D3A9, .sremS (.s 22) (.s 41) 45),
    (32, 0x2CA6D429, .sremN (.s 22) (.s 41) 45), (32, 0x2CA6D4A9, .sand (.s 22) (.s 41) 45),
    (32, 0x2CA6D529, .sor (.s 22) (.s 41) 45), (32, 0x2CA6D5A9, .sxor (.s 22) (.s 41) 45),
    (32, 0x2CA6D629, .sandn (.s 22) (.s 41) 45), (32, 0x2CA6D6A9, .sshl (.s 22) (.s 41) 45),
    (32, 0x2CA6D729, .sshrN (.s 22) (.s 41) 45), (32, 0x2CA6D7A9, .sshrS (.s 22) (.s 41) 45),
    (32, 0x2CA6D829, .srotl (.s 22) (.s 41) 45), (32, 0x2CA6D8A9, .sminS (.s 22) (.s 41) 45),
    (32, 0x2CA6D929, .sminN (.s 22) (.s 41) 45), (32, 0x2CA6D9A9, .smaxS (.s 22) (.s 41) 45),
    (32, 0x2CA6DA29, .smaxN (.s 22) (.s 41) 45), (32, 0x2CA6DAA9, .ssltS (.s 22) (.s 41) 45),
    (32, 0x2CA6DB29, .ssltN (.s 22) (.s 41) 45), (32, 0x2CA6DBA9, .sseq (.s 22) (.s 41) 45),
    (32, 0x00A6DC29, .spopc (.s 41) 45), (32, 0x00A6DCA9, .sclz (.s 41) 45), (32, 0x00A6DD29, .sctz (.s 41) 45),
    (32, 0x00A6DDA9, .smov (.s 41) 45)].all (fun (p : Nat × Nat × Instr) => decide (decodeTableWord p.1 p.2.1 = some p.2.2)) =
      true := by decide +kernel

theorem test_words_g : [
    (32, 0x2A5536AB, .saddi 677 (.s 41) 45), (32, 0x2A5536AD, .sandi 677 (.s 41) 45),
    (32, 0x2A5536AF, .sori 677 (.s 41) 45), (32, 0x2A5536B1, .sxori 677 (.s 41) 45), (32, 0x015536B3, .sshli 21 (.s 41) 45),
    (32, 0x055536B3, .sshriN 21 (.s 41) 45), (32, 0x095536B3, .sshriS 21 (.s 41) 45),
    (32, 0x0D5536B3, .srotli 21 (.s 41) 45), (32, 0x02A5AD35, .sli 677 2 45), (32, 0x02A5ADB5, .slk 677 2 45),
    (32, 0x0A0C6037, .mand 5 3 6), (32, 0x0A0C60B7, .mor 5 3 6), (32, 0x0A0C6137, .mxor 5 3 6),
    (32, 0x0A0C61B7, .mandn 5 3 6), (32, 0x000C6237, .mnot 3 6), (32, 0x000C62B7, .mmov 3 6), (32, 0x000ED337, .mcnt 3 45),
    (32, 0x000ED3B7, .mfirst 3 45), (32, 0x00006437, .mact 6), (32, 0x340ED4B7, .mget 26 3 45),
    (32, 0x34A46537, .mput 26 (.s 41) 6), (32, 0x09C114B9, .bz 2497 (.s 41))].all (fun (p : Nat × Nat × Instr) => decide (decodeTableWord p.1 p.2.1 = some p.2.2)) =
      true := by decide +kernel

theorem test_words_h : [
    (32, 0x09C154B9, .bnz 2497 (.s 41)), (32, 0x09C194B9, .bltz 2497 (.s 41)), (32, 0x09C1D4B9, .bgez 2497 (.s 41)),
    (32, 0x9C1556BB, .bdiv 2497 341 5), (32, 0x0009C13D, .jmp 2497), (32, 0x0009C1BD, .call 2497), (32, 0x0000003F, .ret),
    (32, 0x00A400BF, .jr (.s 41)), (32, 0x00A4013F, .callr (.s 41)), (32, 0x00A801BF, .brtab (.v 42)),
    (32, 0x0000023F, .rcv), (32, 0x000002BF, .pause), (32, 0x0000033F, .exit), (32, 0x0402B3BF, .wcnt 2 43),
    (32, 0x0202D43F, .rdclk true 45), (32, 0x1A02D4BF, .rdid 13 45), (32, 0xB6DA30C1, .ld 11 (.v 54) 52 .s32 1),
    (32, 0xB6DA30C3, .st 11 (.v 54) 52 .s32 1), (32, 0xB6DA30C5, .sld 11 (.v 54) 52 .s32 1),
    (32, 0xB6DA30C7, .sst 11 (.v 54) 52 .s32 1), (32, 0xB6DA3049, .redAdd 11 (.v 54) 52 .s32),
    (32, 0xB6DA30C9, .redMin 11 (.v 54) 52 .s32)].all (fun (p : Nat × Nat × Instr) => decide (decodeTableWord p.1 p.2.1 = some p.2.2)) =
      true := by decide +kernel

theorem test_words_i : [
    (32, 0xB6DA3149, .redMax 11 (.v 54) 52 .s32), (32, 0xB6DA31C9, .redAnd 11 (.v 54) 52 .s32),
    (32, 0xB6DA3249, .redOr 11 (.v 54) 52 .s32), (32, 0xB6DA32C9, .redXor 11 (.v 54) 52 .s32),
    (32, 0xB6DA3449, .atomAdd 11 (.v 54) 52 .s32), (32, 0xB6DA34C9, .atomMin 11 (.v 54) 52 .s32),
    (32, 0xB6DA3549, .atomMax 11 (.v 54) 52 .s32), (32, 0xB6DA35C9, .atomAnd 11 (.v 54) 52 .s32),
    (32, 0xB6DA3649, .atomOr 11 (.v 54) 52 .s32), (32, 0xB6DA36C9, .atomXor 11 (.v 54) 52 .s32),
    (32, 0xB6DA3749, .atomXchg 11 (.v 54) 52 .s32), (32, 0xB6DA37C9, .atomCas 11 (.v 54) 52 .s32),
    (32, 0xB6DA304B, .ldfe 11 (.v 54) 52 .s32), (32, 0xB6DA30CB, .stfe 11 (.v 54) 52 .s32),
    (32, 0xB6DA314B, .ldf 11 (.v 54) 52 .s32), (32, 0x0800004D, .rel .device), (32, 0x080000CD, .acq .device),
    (32, 0x08A4014D, .acqset .device (.s 41)), (32, 0x080001CD, .fence .device), (32, 0x0802D24D, .bar .device 45),
    (32, 0x0802D2CD, .gbar .device 45), (32, 0x00A4034D, .gjoin (.s 41))].all (fun (p : Nat × Nat × Instr) => decide (decodeTableWord p.1 p.2.1 = some p.2.2)) =
      true := by decide +kernel

theorem test_words_j : [
    (32, 0x000003CD, .gleave), (32, 0x0000044D, .ifence), (32, 0xD6A6D04F, .spawn 13 3 (.s 41) 45),
    (32, 0x00A400CF, .jwait (.s 41)), (32, 0x3AA6D051, .copy 29 (.s 41) 45), (32, 0x0002D0D1, .cbseal 45),
    (32, 0x00A40151, .cbwait (.s 41)), (32, 0x00A6D053, .talloc (.s 41) 45), (32, 0x00A400D3, .tready (.s 41)),
    (32, 0x00A40153, .trel (.s 41)), (32, 0x00A6D1D3, .tstat (.s 41) 45), (32, 0xAE5F2D55, .mm (.nf 5) 25 7 12 45),
    (32, 0xAE5F2DD5, .mmSp (.nf 5) 25 7 12 45), (32, 0xAE8DE6D7, .mmo (.nf 5) 52 27 12 13),
    (32, 0xAE8DE6D9, .mmoSp (.nf 5) 52 27 12 13), (32, 0x00A6D05B, .aalloc (.s 41) 45), (32, 0x260000DB, .afree 19),
    (32, 0x2600015B, .azero 19), (32, 0xAAA6D1DB, .adrain true 21 (.s 41) 45), (32, 0xC0A6D1DB, .adrainT true (.s 41) 45),
    (32, 0x00A6D05D, .wbld (.s 41) 45), (32, 0x0200005D, .wbldRel)].all (fun (p : Nat × Nat × Instr) => decide (decodeTableWord p.1 p.2.1 = some p.2.2)) =
      true := by decide +kernel

theorem test_words_k : [
    (32, 0x16A400DD, .omset 11 (.s 41)), (32, 0x16A4015D, .nfset 11 (.s 41)), (32, 0x1602D1DD, .nfget 11 45),
    (32, 0x02A4025D, .dmset true (.s 41)), (32, 0x1CA4005F, .sqld true 6 (.s 41)), (32, 0x06A400DF, .sqst 3 (.s 41)),
    (32, 0x3C00515F, .sqint 3 6 5), (32, 0x3C0051DF, .squni 3 6 5), (32, 0x3C00525F, .sqsub 3 6 5),
    (32, 0x3C0052DF, .sqmadd 3 6 5), (32, 0x0602D35F, .sqcnt 3 45), (32, 0x06A743DF, .sqext 3 (.s 41) 52),
    (32, 0x00A6D061, .cscene (.s 41) 45), (32, 0x00A400E1, .cclose (.s 41)), (32, 0x04A66161, .ckind .static (.s 41) 38),
    (32, 0x02A661E1, .clink true (.s 41) 38), (32, 0x02A66261, .cunlink true (.s 41) 38),
    (32, 0x00A6D2E1, .cstep (.s 41) 45), (32, 0x00000361, .csleep), (32, 0x00A663E1, .cwake (.s 41) 38),
    (32, 0x06A66461, .cquery .ecnt (.s 41) 38), (32, 0x2AA6D063, .enq (.se 13) (.s 41) 45)].all (fun (p : Nat × Nat × Instr) => decide (decodeTableWord p.1 p.2.1 = some p.2.2)) =
      true := by decide +kernel

theorem test_words_l : [
    (32, 0x2A02D0E3, .eseq (.se 13) 45), (32, 0x2AA6D163, .ewait (.se 13) (.s 41) 45), (32, 0x0000606D, .vgrow 6),
    (32, 0x000060ED, .vshrink 6), (32, 0x0AA6D06F, .crr .om (.s 41) 45), (32, 0x04A6D0EF, .crw .vacant (.s 41) 45),
    (32, 0x1AA6D16F, .crs .ttbase (.s 41) 45), (32, 0x1AA6D1EF, .crc .ttbase (.s 41) 45), (32, 0x0000026F, .rte),
    (32, 0xAA0002EF, .trap 85), (32, 0xAA00036F, .brk 85), (32, 0x08A403EF, .tcinv .device (.s 41)),
    (32, 0x08A4046F, .tcinva .device (.s 41)), (32, 0x0000007F, .nop), (32, 0x0E1D2CFF, .targetEntry 801369),
    (32, 0x161D2CFF, .targetListHeader 801369), (32, 0x99AD3E7F, .hint 19 219772)].all (fun (p : Nat × Nat × Instr) => decide (decodeTableWord p.1 p.2.1 = some p.2.2)) =
      true := by decide +kernel
/-! ## The words that the spec's examples spell out, beside those of `Obligations.WordsOfTheSpecDecode` -/

theorem test_scalar_examples : [
    (32, 0x04043029, .sadd (.s 2) (.s 1) 3), (32, 0xFFF0A2AB, .saddi 0xFFF (.s 5) 5), (32, 0x00F00135, .sli 0xF0 0 1),
    (32, 0x00041537, .mput 0 (.s 1) 1), (32, 0x00042337, .mcnt 1 2), (32, 0xFFFC42B9, .bnz 0xFFFC (.s 5)),
    (32, 0x00501CBB, .bdiv 5 7 1), (32, 0x0000043D, .jmp 4), (32, 0x0000023F, .rcv), (32, 0x000002BF, .pause),
    (32, 0x0000033F, .exit), (32, 0x0000007F, .nop), (16, 0xE020, .movShort 28 1), (16, 0xE82C, .addS32Short 29 1),
    (16, 0x1022, .addF32Short 2 1)].all (fun (p : Nat × Nat × Instr) =>
      decide (decodeTableWord p.1 p.2.1 = some p.2.2)) = true := by decide +kernel

theorem test_vector_examples : [
    (32, 0x0004300F, .sqrt (.v 1) 3 false .f32 0), (32, 0x00604221, .shli 3 (.v 1) 2 false),
    (32, 0x0804101D, .cvt (.fmt .f32) false (.v 1) 1 false 0), (32, 0x00001125, .lane 1 false),
    (32, 0x06042023, .xperm (.v 3) (.v 1) 2 false), (32, 0xEA085323, .voteAll (.imm 21) (.v 2) 5 false),
    (32, 0x04046027, .dotF32Bf16 (.v 2) (.v 1) 6 false)].all (fun (p : Nat × Nat × Instr) =>
      decide (decodeTableWord p.1 p.2.1 = some p.2.2)) = true := by decide +kernel

theorem test_memory_examples : [
    (32, 0x40428A43, .st 4 (.v 2) 5 .f32 4), (32, 0x40428849, .redAdd 4 (.v 2) 5 .f32), (32, 0x404357C9, .atomCas 4 (.v 2) 6 .n32),
    (32, 0x3024584B, .ldfe 3 (.v 1) 8 .n64), (32, 0x0800004D, .rel .device), (32, 0x080000CD, .acq .device),
    (32, 0x0200524D, .bar .gang 5), (32, 0x1428C04F, .spawn 1 2 (.s 10) 12), (32, 0x000800CF, .jwait (.s 2)),
    (32, 0x01CC0151, .cbwait (.imm 19))].all (fun (p : Nat × Nat × Instr) =>
      decide (decodeTableWord p.1 p.2.1 = some p.2.2)) = true := by decide +kernel

theorem test_matrix_examples : [
    (32, 0x10804655, .mm (.fmt .bf16) 2 0 1 6), (32, 0x110209D7, .mmo (.fmt .bf16) 8 4 1 3), (32, 0x0018705B, .aalloc (.s 6) 7),
    (32, 0x8424A1DB, .adrain true 2 (.s 9) 10), (32, 0x060800DD, .omset 3 (.s 2)), (32, 0x220032DF, .sqmadd 2 1 3)].all (fun (p : Nat × Nat × Instr) =>
      decide (decodeTableWord p.1 p.2.1 = some p.2.2)) = true := by decide +kernel

theorem test_engine_examples : [
    (32, 0x000441E1, .clink false (.s 1) 4), (32, 0x000422E1, .cstep (.s 1) 2), (32, 0x00048461, .cquery .root (.s 1) 8),
    (32, 0x00083063, .enq .bce (.s 2) 3), (32, 0x000C4163, .ewait .bce (.s 3) 4), (32, 0x0C0050E3, .eseq (.gs 2) 5),
    (32, 0x00000361, .csleep), (32, 0x0A0002EF, .trap 5), (32, 0x1203006F, .crr .cause (.s 0) 48), (32, 0x0000026F, .rte)].all (fun (p : Nat × Nat × Instr) =>
      decide (decodeTableWord p.1 p.2.1 = some p.2.2)) = true := by decide +kernel

/-! ## Single instructions whose results the spec's examples give -/

/-- The state an outcome goes on with. -/
def next (o : Host.Outcome State Fault Refusal) : State := match o with
  | .next s => s
  | _ => State.reset

/-- The tests' team in a state. -/
def now (s : State) : Team := (s.team? 2).getD (team 1)

/-- 10_isa_vector.md, "One butterfly stage with vacant partners": lane l of six asks for lane l XOR 4 of 1.0 to 6.0. -/
theorem test_xperm_vacant :
    let t := { team 6 with
      v := ((team 6).v.set 1 { tag := .fmt .f32, shape := .general [0x3F800000, 0x40000000, 0x40400000, 0x40800000, 0x40A00000, 0x40C00000], poison := 0 }).set 3
        { tag := .fmt .b32, shape := .general [4, 5, 6, 7, 0, 1], poison := 0 }
      xfill := 0x80000000 }
    let u := now (next (exec (.xperm (.v 3) (.v 1) 2 false) (world t)))
    (List.range 6).map (fun l => (u.v[2]).read l) = [0x40A00000, 0x40C00000, 0x80000000, 0x80000000, 0x3F800000, 0x40000000] ∧
      u.vacant = 0xC := by decide +kernel

/-- 09_isa_scalar_control.md, "A divergence worked": the fall-through arm holds lane 0 and is arm 0. -/
theorem test_bdiv_arms :
    let t := { team 64 with m := (team 64).m.set 1 0xF0 }
    let u := now (next (exec (.bdiv 5 7 1) (world t)))
    u.stack.map (fun e => (e.arm0.mask, e.arm1.mask, e.arm1.pc - e.join, e.sel)) =
      [(maskBelow 64 &&& ~~~0xF0, 0xF0, 0 - 4, false)] := by decide +kernel

/-- 15_system_traps.md, the worked trap: what line 1 leaves in the trap bank and in TSTAT. -/
theorem test_trap_entry :
    let s := { world (team 64) with cores := [{ Core.fresh 0 with tvec := 0x20001, tc := [codePage 0] }] }
    let w := next (exec (.trap 5) s)
    let c := w.core 0
    c.cause = 0x0BF ∧ c.eaddr = 5 ∧ c.epc = 0x10004 ∧ c.emask = maskBelow 64 ∧ (now w).tstat = 0xC1 ∧
      (now w).arm.pc = 0x20000 := by decide +kernel

/-- 15_system_traps.md, the worked trap: `rte` goes back to user level behind the `trap`. -/
theorem test_trap_return :
    let t := { inHandler (team 64) with tstat := 0xC1 }
    let s := { world t with cores := [{ Core.fresh 0 with epc := 0x10004, cause := 0x0BF, owner := some 2 }] }
    let u := now (next (exec .rte s))
    u.tstat = 0 ∧ u.path.pc = 0x10004 ∧ u.status = .running := by decide +kernel

/-- 13_isa_matrix_stream.md, the worked sparse product: group 1 of row 1 is illegal. -/
theorem test_sparse_product :
    let w := next (exec (.mxePass 0) { sparse with
      cores := sparse.cores.map fun c => { c with passes := [sparsePass], mxeAdmitted := true } })
    ((w.family? 0).map fun f => (f.handle 0).elems) = some [0x41300000, 0x41600000, 0, 0] ∧ (now w).mxs = 4 := by
  decide +kernel

/-- 09_isa_scalar_control.md: `saddi s5, s5, -1` wraps below 0. -/
theorem test_saddi_wraps :
    ((now (next (exec (.saddi 0xFFF (.s 5) 5) (world (team 1))))).s[5]) = 0xFFFFFFFFFFFFFFFF := by decide +kernel

/-- 08_encoding.md: a word of major 63 with HK 31 is a no-op that retires. -/
theorem test_hint_retires :
    let u := now (next (exec (.hint 31 0xFFFFF) (world (team 1))))
    u.retired = 1 ∧ u.path.pc = 0x10004 := by decide +kernel

/-- 08_encoding.md and R370: SA 80 is unassigned; the trap gives the word in EADDR and the instruction's own PC in EPC. -/
theorem test_reserved_word_traps :
    let s := State.reset.withFetchWord 32 0x01400003
    let c := (next (step { s with cores := s.cores.map fun c => { c with tvec := 0x20001 } })).core 0
    c.cause = 0x004 ∧ c.eaddr = 0x01400003 ∧ c.epc = 0x10000 := by decide +kernel

/-- R165: `slk` leaves the other bits. -/
theorem test_slk_keeps :
    ((now (next (exec (.slk 0x8000 3 2) (world (sreg 2 0x1000 (team 1)))))).s[2]) = 0x8000000000001000 := by decide +kernel

/-- R167 and R152: a 16-bit instruction moves the PC by 2. -/
theorem test_short_advances :
    let w := next (step (State.reset.withFetchWord 16 0xE020))
    (w.teams.map fun t => t.path.pc) = [0x10002] := by decide +kernel

/-! ## Premises: registers -/

theorem test_meets_scalar : ∃ (s : State) (t : Team) (sb sa : SSrc) (sd : BitVec 6) (a b : Word),
    s.issuer? = some t ∧ (s.viewOf t).readS posSA sa = .ok a ∧ (s.viewOf t).readS posSB sb = .ok b ∧
      (s.viewOf t).checkS posD sd = .ok () ∧ b = 0 :=
  ⟨world (sreg 1 7 (team 1)), sreg 1 7 (team 1), .imm 16, .s 1, 63, 7, 0, issuer_of rfl rfl rfl, by decide +kernel⟩

theorem test_meets_scalar_banks : (∃ v : View, v.team.ksw = false) ∧
    ∃ (v : View) (r : BitVec 6), v.team.ksw = true ∧ 48 ≤ r.toNat :=
  ⟨⟨regs, by decide +kernel⟩, (world (inHandler (team 1))).viewOf (inHandler (team 1)), 48, by decide +kernel⟩

theorem test_meets_masks : ∃ (s : State) (t : Team) (sa : SSrc) (sd : BitVec 6) (a : Word) (w w' : BitVec 7),
    s.issuer? = some t ∧ (s.viewOf t).readS posSA sa = .ok a ∧ (s.viewOf t).checkS posD sd = .ok () ∧
      (w.toNat ≤ 32 ∧ w.toNat = 32) ∧ w'.toNat ≤ 32 ∧ w'.toNat < 32 :=
  ⟨world (team 1), team 1, .s 0, 0, 0, 32, 31, issuer_of rfl rfl rfl, by decide +kernel⟩

theorem test_meets_float : ∃ (s : State) (t : Team) (ft : FType) (vb va : VSrc) (vd : BitVec 6) (x y d : Src),
    let v := s.viewOf t
    s.issuer? = some t ∧ v.readV posSA va ft.fmt = .ok x ∧ v.readV posSB vb ft.fmt = .ok y ∧
      v.checkV posD vd ft.fmt.isPair = .ok () ∧ v.checkV posD vd false = .ok () ∧ v.consume [x, y] = .ok () ∧
      v.readD vd ft.fmt = .ok d ∧ v.consume [x, y, d] = .ok () ∧ v.consume [x] = .ok () :=
  ⟨world rich, rich, .f32, .v 2, .v 1, 15, src 1 .f32, src 2 .f32, src 15 .f32, issuer_of rfl rfl rfl, by decide +kernel⟩

theorem test_meets_float_pair : ∃ (s : State) (t : Team) (ft : FType) (vb va : VSrc) (vd : BitVec 6) (x y d : Src),
    let v := s.viewOf t
    s.issuer? = some t ∧ v.readV posSA va ft.fmt = .ok x ∧ v.readV posSB vb ft.fmt = .ok y ∧
      v.checkV posD vd ft.fmt.isPair = .ok () ∧ v.consume [x, y] = .ok () ∧ v.readD vd ft.fmt = .ok d ∧
      v.consume [x, y, d] = .ok () :=
  ⟨world rich, rich, .f64, .v 8, .v 8, 8, src 8 .f64, src 8 .f64, src 8 .f64, issuer_of rfl rfl rfl, by decide +kernel⟩

theorem test_meets_integer : ∃ (s : State) (t : Team) (it : IType) (vb va : VSrc) (vd : BitVec 6) (x y d : Src),
    let v := s.viewOf t
    s.issuer? = some t ∧ v.readV posSA va it.fmt = .ok x ∧ v.readV posSB vb it.fmt = .ok y ∧
      v.checkV posD vd it.fmt.isPair = .ok () ∧ v.consume [x, y] = .ok () ∧ v.consume [x] = .ok () ∧
      v.readD vd it.fmt = .ok d ∧ v.consume [x, y, d] = .ok () :=
  ⟨world rich, rich, .s32, .v 4, .v 3, 3, src 3 .s32, src 4 .s32, src 3 .s32, issuer_of rfl rfl rfl, by decide +kernel⟩

theorem test_meets_integer_wide : ∃ (s : State) (t : Team) (va : VSrc) (vd : BitVec 6) (x : Src),
    let v := s.viewOf t
    s.issuer? = some t ∧ v.readV posSA va .s64 = .ok x ∧ v.checkV posD vd Fmt.s64.isPair = .ok () ∧
      v.consume [x] = .ok () :=
  ⟨world rich, rich, .v 10, 20, src 10 .s64, issuer_of rfl rfl rfl, by decide +kernel⟩

theorem test_meets_bits : ∃ (s : State) (t : Team) (vb va : VSrc) (vd : BitVec 6) (x y : Src),
    let v := s.viewOf t
    s.issuer? = some t ∧ v.checkV posD vd false = .ok () ∧ v.consume [x] = .ok () ∧ v.consume [x, y] = .ok () ∧
      v.readSingle posSA va .b32 = .ok x ∧ v.readSingle posSB vb .b32 = .ok y ∧
      v.readOneOf posSA va [.s32, .n32, .b32] = .ok x ∧ v.readOneOf posSA va [.n32, .b32] = .ok x :=
  ⟨world rich, rich, .v 7, .v 6, 0, src 6 .b32, src 7 .b32, issuer_of rfl rfl rfl, by decide +kernel⟩

theorem test_meets_bits_signed : ∃ (s : State) (t : Team) (va : VSrc) (vd : BitVec 6) (x y : Src),
    let v := s.viewOf t
    s.issuer? = some t ∧ v.checkV posD vd false = .ok () ∧ v.consume [x] = .ok () ∧ v.consume [x, y] = .ok () ∧
      v.readOneOf posSA va [.s32, .n32] = .ok x ∧ v.readOneOf posSA va [.s32] = .ok x :=
  ⟨world rich, rich, .v 3, 0, src 3 .s32, src 3 .s32, issuer_of rfl rfl rfl, by decide +kernel⟩

theorem test_meets_compare : ∃ (s : State) (t : Team) (vb va : VSrc) (ty : CmpTy) (x y : Src),
    let v := s.viewOf t
    s.issuer? = some t ∧ v.readV posSA va ty.fmt = .ok x ∧ v.readV posSB vb ty.fmt = .ok y ∧ v.consume [x, y] = .ok () ∧
      t.size ≤ 1024 :=
  ⟨world rich, rich, .v 2, .v 1, .f32, src 1 .f32, src 2 .f32, issuer_of rfl rfl rfl, by decide +kernel⟩

theorem test_meets_convert : ∃ (s : State) (t : Team) (df : Tag) (sat : Bool) (va : VSrc) (vd : BitVec 6) (rm : BitVec 3)
    (x y : Src),
    let v := s.viewOf t
    s.issuer? = some t ∧ v.fetch posSA va (fun _ => false) = .ok y ∧ y.tag = x.tag ∧ v.readAny posSA va = .ok x ∧
      cvtDisallowed x.tag df sat rm (cvtMode v df rm) = false ∧ x.tag.kind v.nf ≠ .raw ∧ cvtMode v df rm ≠ .sr ∧
      v.checkV posD vd df.isPair = .ok () ∧ v.consume [x] = .ok () :=
  ⟨world rich, rich, .fmt .s32, false, .v 1, 0, 3, src 1 .f32, src 1 .f32, issuer_of rfl rfl rfl, by decide +kernel⟩

theorem test_meets_convert_stochastic : ∃ (s : State) (t : Team) (df : Tag) (sat : Bool) (va : VSrc) (vd : BitVec 6)
    (rm : BitVec 3) (x y d : Src),
    let v := s.viewOf t
    s.issuer? = some t ∧ v.fetch posSA va (fun _ => false) = .ok y ∧ y.tag = x.tag ∧ v.readAny posSA va = .ok x ∧
      cvtDisallowed x.tag df sat rm (cvtMode v df rm) = false ∧ x.tag.kind v.nf ≠ .raw ∧ cvtMode v df rm = .sr ∧
      v.readD vd .n32 = .ok d ∧ v.consume [x, d] = .ok () ∧ df.isPair = false :=
  ⟨world rich, rich, .fmt .bf16, false, .v 1, 5, 4, src 1 .f32, src 1 .f32, src 5 .n32, issuer_of rfl rfl rfl, by decide +kernel⟩

theorem test_meets_dot : ∃ (s : State) (t : Team) (vb va : VSrc) (vd : BitVec 6) (x y d : Src),
    let v := s.viewOf t
    s.issuer? = some t ∧ v.readV posSA va .pk = .ok x ∧ v.readV posSB vb .pk = .ok y ∧ v.consume [x, y, d] = .ok () ∧
      v.readD vd .f32 = .ok d ∧ slotWidth (narrowFmt (v.nf 0)).width = slotWidth (narrowFmt (v.nf 1)).width :=
  ⟨world rich, rich, .v 13, .v 12, 1, src 12 .pk, src 13 .pk, src 1 .f32, issuer_of rfl rfl rfl, by decide +kernel⟩

theorem test_meets_dot_integer : ∃ (s : State) (t : Team) (vb va : VSrc) (vd : BitVec 6) (x y d : Src),
    let v := s.viewOf t
    s.issuer? = some t ∧ v.readV posSA va .pk = .ok x ∧ v.readV posSB vb .pk = .ok y ∧ v.consume [x, y, d] = .ok () ∧
      v.readD vd .s32 = .ok d :=
  ⟨world rich, rich, .v 13, .v 12, 3, src 12 .pk, src 13 .pk, src 3 .s32, issuer_of rfl rfl rfl, by decide +kernel⟩

theorem test_meets_permutations : ∃ (s : State) (t : Team) (vb va : VSrc) (sb : SSrc) (vd : BitVec 6) (x y : Src) (b : Word),
    let v := s.viewOf t
    s.issuer? = some t ∧ s.defer = [] ∧ t.xl < 63 ∧ v.readAny posSA va = .ok x ∧ v.checkV posD vd x.pair = .ok () ∧
      x.pair = x.tag.isPair ∧ v.readOneOf posSB vb [.s32, .n32, .b32] = .ok y ∧ v.consume [y] = .ok () ∧ v.readS posSB sb = .ok b :=
  ⟨world rich, rich, .v 5, .v 1, .imm 17, 0, src 1 .f32, src 5 .n32, 1, issuer_of rfl rfl rfl, by decide +kernel⟩

theorem test_meets_votes : ∃ (s : State) (t : Team) (va : VSrc) (sb sb' : SSrc) (vd : BitVec 6) (x : Src) (b b' : Word),
    let v := s.viewOf t
    s.issuer? = some t ∧ s.defer = [] ∧ t.xl < 63 ∧ v.readSingle posSA va .s32 = .ok x ∧ (v.readS posSB sb = .ok b ∧ b.toNat ≤ 10 ∧ b = 10) ∧
      (v.readS posSB sb' = .ok b' ∧ b'.toNat ≤ 5 ∧ b' = 5) ∧ v.checkV posD vd false = .ok () ∧ v.consume [x] = .ok () :=
  ⟨world rich, rich, .v 3, .imm 26, .imm 21, 0, src 3 .s32, 10, 5, issuer_of rfl rfl rfl, by decide +kernel⟩

theorem test_meets_sample : ∃ (s : State) (t : Team) (va : VSrc) (sb : SSrc) (vd : BitVec 6) (x : Src) (b : Word),
    let v := s.viewOf t
    s.issuer? = some t ∧ v.readOneOf posSA va [.f32, .f16, .bf16, .n32] = .ok x ∧ v.readS posSB sb = .ok b ∧
      v.checkV posD vd false = .ok () ∧ v.consume [x] = .ok () :=
  ⟨world rich, rich, .v 1, .imm 17, 0, src 1 .f32, 1, issuer_of rfl rfl rfl, by decide +kernel⟩

theorem test_meets_random : ∃ (s : State) (t : Team) (va : VSrc) (sk : SSrc) (vd : BitVec 6) (x : Src) (b : Word),
    let v := s.viewOf t
    s.issuer? = some t ∧ v.readS posSA sk = .ok b ∧ v.readOneOf posSB va [.n32, .s32, .b32] = .ok x ∧
      v.checkV posD vd false = .ok () ∧ v.consume [x] = .ok () :=
  ⟨world rich, rich, .v 5, .imm 17, 0, src 5 .n32, 1, issuer_of rfl rfl rfl, by decide +kernel⟩

theorem test_meets_moves : ∃ (s : State) (t : Team) (tag : Tag) (va : VSrc) (sb sa : SSrc) (vd : BitVec 6) (x : Src)
    (a b : Word),
    let v := s.viewOf t
    s.issuer? = some t ∧ v.readAny posSA va = .ok x ∧ v.checkV posD vd x.pair = .ok () ∧ x.pair = false ∧
      tag.isPair = false ∧ v.checkV posD vd false = .ok () ∧ v.readS posSB sb = .ok b ∧ v.readS posSA sa = .ok a ∧
      x.pair = x.tag.isPair ∧ x.lo.shape.affine?.isSome = true ∧ t.act &&& ~~~t.active = 0 :=
  ⟨world rich, rich, .fmt .n32, .v 1, .imm 17, .imm 18, 0, src 1 .f32, 2, 1, issuer_of rfl rfl rfl, by decide +kernel⟩

theorem test_meets_moves_pair : ∃ (s : State) (t : Team) (tag : Tag) (va : VSrc) (vd : BitVec 6) (x : Src),
    let v := s.viewOf t
    s.issuer? = some t ∧ v.readAny posSA va = .ok x ∧ x.pair = true ∧ tag.isPair = true ∧
      v.checkV posD vd true = .ok () :=
  ⟨world rich, rich, .fmt .s64, .v 8, 0, src 8 .f64, issuer_of rfl rfl rfl, by decide +kernel⟩

theorem test_meets_select : ∃ (s : State) (t : Team) (tag : Tag) (vb va : VSrc) (vd : BitVec 6) (x y : Src),
    let v := s.viewOf t
    s.issuer? = some t ∧ v.selTag va vb = .ok tag ∧ v.readAs posSA va tag = .ok x ∧ v.readAs posSB vb tag = .ok y ∧
      v.checkV posD vd tag.isPair = .ok () ∧ (v.vreg vd).tag.isPair = false ∧ (v.vreg vd).poison &&& t.active = 0 :=
  ⟨world rich, rich, .fmt .f32, .v 2, .v 1, 6, src 1 .f32, src 2 .f32, issuer_of rfl rfl rfl, by decide +kernel⟩

theorem test_meets_indexed_moves : ∃ (s : State) (t : Team) (tag : Tag) (vb va : VSrc) (vd : BitVec 6) (x y : Src),
    let v := s.viewOf t
    let names (l : Nat) : Nat := (x.lo.read l).toNat
    let at_ (l : Nat) : VReg := t.v.getD (names l) VReg.zero
    s.issuer? = some t ∧ v.readOneOf posSA va [.s32, .n32] = .ok x ∧ v.consume [x] = .ok () ∧ t.pend = [] ∧
      t.size ≤ 1024 ∧ tag.isPair = false ∧ v.checkV posD vd false = .ok () ∧ v.readSingle posSB vb .s32 = .ok y ∧
      t.vcnt ≤ 64 ∧
      ∀ l, l < t.size → t.active.getLsbD l = true → names l < t.vcnt ∧ (at_ l).tag = tag ∧ (at_ l).tag = y.tag :=
  ⟨world (vreg 20 .n32 3 rich), vreg 20 .n32 3 rich, .fmt .s32, .v 4, .v 20, 0,
    got (((world (vreg 20 .n32 3 rich)).viewOf (vreg 20 .n32 3 rich)).readV posSA (.v 20) .n32) (Src.imm .s32 0), src 4 .s32,
    issuer_of rfl rfl rfl, by decide +kernel⟩

theorem test_meets_short : ∃ (s : State) (t : Team) (ss : BitVec 5) (vd : BitVec 6) (x y : Src),
    let v := s.viewOf t
    s.issuer? = some t ∧ v.consume [x, y] = .ok () ∧ v.checkV posD vd false = .ok () ∧
      v.readV posSA (.v vd) .f32 = .ok x ∧ v.readV posSB (shortSrc ss) .f32 = .ok y :=
  ⟨world rich, rich, 2, 1, src 1 .f32, src 2 .f32, issuer_of rfl rfl rfl, by decide +kernel⟩

theorem test_meets_short_integer : ∃ (s : State) (t : Team) (ss : BitVec 5) (vd : BitVec 6) (x y : Src),
    let v := s.viewOf t
    s.issuer? = some t ∧ v.consume [x, y] = .ok () ∧ v.checkV posD vd false = .ok () ∧
      v.readV posSA (.v vd) .s32 = .ok x ∧ v.readV posSB (shortSrc ss) .s32 = .ok y ∧
      v.readAny posSB (shortSrc ss) = .ok y ∧ v.checkV posD vd y.pair = .ok () :=
  ⟨world rich, rich, 4, 3, src 3 .s32, src 4 .s32, issuer_of rfl rfl rfl, by decide +kernel⟩

theorem test_meets_short_natural : ∃ (s : State) (t : Team) (ss : BitVec 5) (vd : BitVec 6) (x y : Src),
    let v := s.viewOf t
    s.issuer? = some t ∧ v.consume [x, y] = .ok () ∧ v.checkV posD vd false = .ok () ∧
      v.readV posSA (.v vd) .n32 = .ok x ∧ v.readV posSB (shortSrc ss) .n32 = .ok y :=
  ⟨world rich, rich, 14, 5, src 5 .n32, src 14 .n32, issuer_of rfl rfl rfl, by decide +kernel⟩

theorem test_meets_short_bits : ∃ (s : State) (t : Team) (ss : BitVec 5) (vd : BitVec 6) (x y : Src),
    let v := s.viewOf t
    s.issuer? = some t ∧ v.consume [x, y] = .ok () ∧ v.checkV posD vd false = .ok () ∧
      v.readSingle posSA (.v vd) .b32 = .ok x ∧ v.readSingle posSB (shortSrc ss) .b32 = .ok y :=
  ⟨world rich, rich, 7, 6, src 6 .b32, src 7 .b32, issuer_of rfl rfl rfl, by decide +kernel⟩

theorem test_meets_vector_writes : ∃ (v : View) (r : Res), v.team.ksw = false ∧ r.hi = none ∧ v.team.size ≤ 1024 ∧
    (0 < v.team.size ∧ v.team.active.getLsbD 0 = true) ∧
    1 < v.team.size ∧ v.team.act.getLsbD 1 = true ∧ v.team.active.getLsbD 1 = false :=
  ⟨(world rich).viewOf { rich with path := Arm.start 0x10000 1 64 }, { lo := VReg.zero, hi := none }, by decide +kernel⟩

/-! ## Premises: control -/

/-- A team whose s1 holds an address. -/
def jumper (a : Word) : Team := sreg 1 a (team 1)

theorem test_meets_branches : ∃ (s : State) (t : Team) (sa : SSrc) (a : Word),
    s.issuer? = some t ∧ (s.viewOf t).readS posSA sa = .ok a :=
  ⟨world (jumper 0x20000), jumper 0x20000, .s 1, 0x20000, issuer_of rfl rfl rfl, by decide +kernel⟩

theorem test_meets_even_link : ∃ (s : State) (t : Team) (sa : SSrc) (a : Word),
    s.issuer? = some t ∧ (s.viewOf t).readS posSA sa = .ok a ∧ a.getLsbD 0 = false ∧
      (if t.ksw then (s.core t.core).k.getD 15 0 else t.s.getD 63 0).getLsbD 0 = false :=
  ⟨world (jumper 0x20000), jumper 0x20000, .s 1, 0x20000, issuer_of rfl rfl rfl, by decide +kernel⟩

theorem test_meets_odd_link : ∃ (s : State) (t : Team) (sa : SSrc) (a : Word),
    s.issuer? = some t ∧ (s.viewOf t).readS posSA sa = .ok a ∧ a.getLsbD 0 = true ∧
      (if t.ksw then (s.core t.core).k.getD 15 0 else t.s.getD 63 0).getLsbD 0 = true :=
  ⟨world (sreg 63 1 (jumper 0x20001)), sreg 63 1 (jumper 0x20001), .s 1, 0x20001, issuer_of rfl rfl rfl, by decide +kernel⟩

/-- A team of three lanes before a `brtab` on v1, whose list names the offsets 16 and 20; lane l asks for b + l × d. -/
def chooser (b d : Elem) : Team := vaff 1 .s32 b d (team 3)

/-- The state of a chooser, with the list in memory: the header hint with the count 2, then the entries in parcels. -/
def choosing (b d : Elem) : State :=
  { world (chooser b d) with
    mem := Memory.writeBytes [] 0x10004 (bytesOf 12
      ((asmHint 2 2).toNat + 2 ^ 32 * (asmHint 1 8).toNat + 2 ^ 64 * (asmHint 1 10).toNat)) }

theorem test_meets_no_table : ∃ (s : State) (t : Team) (va : VSrc) (x : Src),
    let v := s.viewOf t
    s.issuer? = some t ∧ v.readV posSA va .s32 = .ok x ∧ v.consume [x] = .ok () ∧ M.targets t s = .ok none s :=
  ⟨world (chooser 16 0), chooser 16 0, .v 1,
    got (((world (chooser 16 0)).viewOf (chooser 16 0)).readV posSA (.v 1) .s32) (Src.imm .s32 0), issuer_of rfl rfl rfl,
    by decide +kernel, by decide +kernel, of_gives (by decide +kernel)⟩

/-- What the list of `choosing` gives. -/
def offsets : List Word := [16, 20]

theorem test_meets_one_target : ∃ (s : State) (t : Team) (va : VSrc) (x : Src),
    let v := s.viewOf t
    let off (l : Nat) : Word := (x.lo.read l).signExtend 64
    s.issuer? = some t ∧ v.readV posSA va .s32 = .ok x ∧ v.consume [x] = .ok () ∧
      M.targets t s = .ok (some offsets) s ∧
      (∀ l ∈ t.lanes, (off l).getLsbD 0 = false ∧ off l ∈ offsets ∧ M.mapped t (t.arm.pc + off l) s = .ok true s) ∧
      t.lanes = 0 :: [1, 2] ∧ ∀ l ∈ [1, 2], off l = off 0 := by
  refine ⟨choosing 16 0, chooser 16 0, .v 1,
    got (((choosing 16 0).viewOf (chooser 16 0)).readV posSA (.v 1) .s32) (Src.imm .s32 0), issuer_of rfl rfl rfl,
    by decide +kernel, by decide +kernel, of_gives (by decide +kernel), ?_, by decide +kernel, by decide +kernel⟩
  have hl : (chooser 16 0).lanes = [0, 1, 2] := by decide +kernel
  rw [hl]
  simp only [List.mem_cons, List.not_mem_nil, or_false, forall_eq_or_imp, forall_eq]
  exact ⟨⟨by decide +kernel, by decide +kernel, of_gives (by decide +kernel)⟩,
    ⟨by decide +kernel, by decide +kernel, of_gives (by decide +kernel)⟩,
    by decide +kernel, by decide +kernel, of_gives (by decide +kernel)⟩

theorem test_meets_two_targets : ∃ (s : State) (t : Team) (va : VSrc) (x : Src),
    let v := s.viewOf t
    let off (l : Nat) : Word := (x.lo.read l).signExtend 64
    s.issuer? = some t ∧ v.readV posSA va .s32 = .ok x ∧ v.consume [x] = .ok () ∧
      M.targets t s = .ok (some offsets) s ∧ t.handling = false ∧
      (∀ l ∈ t.lanes, (off l).getLsbD 0 = false ∧ off l ∈ offsets ∧ M.mapped t (t.arm.pc + off l) s = .ok true s) ∧
      t.lanes = 0 :: [1] ∧ (∃ l ∈ [1], off l ≠ off 0) ∧
      t.stack.length + ((t.lanes.map off).eraseDups.length - 1) ≤ 32 := by
  let t : Team := { chooser 16 4 with path := Arm.start 0x10000 3 64 }
  refine ⟨{ choosing 16 4 with teams := [t] }, t, .v 1,
    got (((choosing 16 4).viewOf t).readV posSA (.v 1) .s32) (Src.imm .s32 0), issuer_of rfl rfl rfl,
    by decide +kernel, by decide +kernel, of_gives (by decide +kernel), by decide +kernel, ?_, by decide +kernel,
    by decide +kernel, by decide +kernel⟩
  have hl : t.lanes = [0, 1] := by decide +kernel
  rw [hl]
  simp only [List.mem_cons, List.not_mem_nil, or_false, forall_eq_or_imp, forall_eq]
  exact ⟨⟨by decide +kernel, by decide +kernel, of_gives (by decide +kernel)⟩,
    by decide +kernel, by decide +kernel, of_gives (by decide +kernel)⟩

/-- A team of two lanes with mask register 1, at a place in its stack. -/
def forked (m : Mask) (depth : Nat) : Team :=
  { team 2 with
    m := (team 2).m.setIfInBounds 1 m
    stack := List.replicate depth
      { join := 0x10100, arm0 := Arm.start 0x10000 3 64, arm1 := Arm.start 0x10040 0 64, sel := false, table := false } }

theorem test_meets_divergence : ∃ ms : BitVec 3,
    let holds (t : Team) (p : Mask → Mask → Prop) : Prop := ∃ s : State, s.issuer? = some t ∧
      p (t.active &&& (s.viewOf t).mask ms) (t.active &&& ~~~(s.viewOf t).mask ms)
    holds (forked 3 0) (fun _ fall => fall = 0) ∧ holds (forked 0 0) (fun taken fall => fall ≠ 0 ∧ taken = 0) ∧
      (holds (forked 1 32) (fun taken fall => fall ≠ 0 ∧ taken ≠ 0) ∧ (forked 1 32).handling = false ∧
        32 ≤ (forked 1 32).stack.length) ∧
      (holds (inHandler (forked 1 0)) (fun taken fall => fall ≠ 0 ∧ taken ≠ 0) ∧ (inHandler (forked 1 0)).handling = true) ∧
      holds (forked 1 31) (fun taken fall => fall ≠ 0 ∧ taken ≠ 0) ∧ (forked 1 31).handling = false ∧
        (forked 1 31).stack.length < 32 :=
  ⟨1, ⟨world (forked 3 0), issuer_of rfl rfl rfl, by decide +kernel⟩, ⟨world (forked 0 0), issuer_of rfl rfl rfl, by decide +kernel⟩,
    ⟨⟨world (forked 1 32), issuer_of rfl rfl rfl, by decide +kernel⟩, by decide +kernel, by decide +kernel⟩,
    ⟨⟨world (inHandler (forked 1 0)), issuer_of rfl rfl rfl, by decide +kernel⟩, by decide +kernel⟩,
    ⟨world (forked 1 31), issuer_of rfl rfl rfl, by decide +kernel⟩, by decide +kernel, by decide +kernel⟩

theorem test_meets_pushes : ∃ (s s' : State) (t u : Team) (i : Instr),
    s.issuer? = some t ∧ (∃ off joff ms, i = .bdiv off joff ms) ∧ exec i s = .next s' ∧ s'.team? t.id = some u ∧
      t.stack.length < u.stack.length := by
  have h : ∃ s', exec (.bdiv 32 64 1) (world (forked 1 0)) = .next s' ∧ (s'.team? 2).any (fun u => 0 < u.stack.length) := by
    have : (match exec (.bdiv 32 64 1) (world (forked 1 0)) with
      | .next s' => (s'.team? 2).any fun u => 0 < u.stack.length
      | _ => false) = true := by decide +kernel
    cases hx : exec (.bdiv 32 64 1) (world (forked 1 0)) with
    | next s' => rw [hx] at this; exact ⟨s', rfl, this⟩
    | fault _ => rw [hx] at this; cases this
    | refused _ => rw [hx] at this; cases this
  obtain ⟨s', he, hu⟩ := h
  obtain ⟨u, hu, hl⟩ := (Option.any_eq_true ..).mp hu
  exact ⟨world (forked 1 0), s', forked 1 0, u, .bdiv 32 64 1, issuer_of rfl rfl rfl, ⟨_, _, _, rfl⟩, he, hu, of_decide_eq_true hl⟩

/-- A team of two lanes with one entry, whose arms stand where they are told. -/
def split (join pc1 : Word) (arrived : Bool) : Team :=
  { team 2 with stack := [{
      join := join, arm0 := Arm.start (codeAddr 0) 1 64, arm1 := { Arm.start pc1 2 64 with arrived := arrived }, sel := false
      table := false }] }

theorem test_meets_reconvergence :
    (∃ (s : State) (t : Team), s.issuer? = some t ∧ t.stack = []) ∧
    (∃ (s : State) (t : Team), s.issuer? = some t ∧ t.handling = true) ∧
    (∃ (s : State) (t : Team), s.issuer? = some t ∧ ∃ e es, t.stack = e :: es ∧ e.join ≠ t.arm.pc) ∧
    (∃ (s : State) (t : Team) (e : Entry) (es : List Entry), s.issuer? = some t ∧ t.stack = e :: es ∧
      t.handling = false ∧ s.levelOf t < 2 ∧ e.join = t.arm.pc ∧ e.other.isArrived = false) ∧
    ∃ (s : State) (t : Team) (e : Entry) (es : List Entry), s.issuer? = some t ∧ t.stack = e :: es ∧
      t.handling = false ∧ s.levelOf t < 2 ∧ e.join = t.arm.pc ∧ e.other.isArrived = true ∧ es = [] :=
  ⟨⟨world (team 1), team 1, issuer_of rfl rfl rfl, by decide +kernel⟩, ⟨world (inHandler (team 1)), inHandler (team 1), issuer_of rfl rfl rfl, by decide +kernel⟩,
    ⟨world (split 0x20000 0x10040 false), split 0x20000 0x10040 false, issuer_of rfl rfl rfl, _, _, rfl, by decide +kernel⟩,
    ⟨world (split (codeAddr 0) 0x10040 false), split (codeAddr 0) 0x10040 false, _, _, issuer_of rfl rfl rfl, rfl,
      by decide +kernel⟩,
    world (split (codeAddr 0) (codeAddr 0) true), split (codeAddr 0) (codeAddr 0) true, _, _, issuer_of rfl rfl rfl, rfl,
      by decide +kernel⟩

theorem test_meets_waits : (∃ (s : State) (t : Team) (n : BitVec 6), s.issuer? = some t ∧
      t.ld + (t.arms.filter fun a => a.wait == some .fullEmpty).length ≤ n.toNat) ∧
    ∃ (s : State) (t : Team) (n : BitVec 6), s.issuer? = some t ∧ n.toNat < t.xl :=
  ⟨⟨world (team 1), team 1, 0, issuer_of rfl rfl rfl, by decide +kernel⟩,
    world { team 1 with xl := 63 }, { team 1 with xl := 63 }, 62, issuer_of rfl rfl rfl, by decide +kernel⟩

theorem test_meets_exit : ∃ (s : State) (t : Team), s.issuer? = some t ∧
    t.ld + (t.arms.filter fun a => a.wait == some .fullEmpty).length = 0 ∧ t.ap = 0 ∧ t.spawned = false ∧
    t.act &&& ~~~(if t.handling then t.act else t.active) ≠ 0 :=
  ⟨world { team 2 with path := Arm.start 0x10000 1 64 }, { team 2 with path := Arm.start 0x10000 1 64 }, issuer_of rfl rfl rfl, by decide +kernel⟩

theorem test_meets_identity : ∃ (s : State) (t : Team) (g : Gang) (f : Family) (sd : BitVec 6),
    s.issuer? = some t ∧ s.gangOf? t = some g ∧ s.familyOf? t = some f ∧ (s.viewOf t).checkS posD sd = .ok () ∧
      (s.viewOf t).checkV posD sd false = .ok () ∧ (∀ l, l < t.size → t.laneKey l = launchedKey 0x40000000 0 l ∧ 0 < 64) ∧
      t.size ≤ 1024 ∧ 0 < t.size :=
  ⟨world (team 2), team 2, loadedGang 1 0, loadedFamily 0, 0, issuer_of rfl rfl rfl, by decide +kernel⟩

/-! ## Premises: memory -/

theorem test_meets_stream_loads : ∃ (s : State) (t : Team) (g : Gang) (f : Family) (qd : BitVec 3) (sa : SSrc) (a : Word),
    let off := a.toNat % 2 ^ 22
    let n := a.toNat / 2 ^ 32 % 2 ^ 13
    let word (k : Nat) : BitVec 32 := BitVec.ofNat 32 (natOfBytes (s.scratchRead t.core (f.partBase + off + k) 4))
    s.issuer? = some t ∧ s.gangOf? t = some g ∧ s.familyOf? t = some f ∧ (s.viewOf t).readS posSA sa = .ok a ∧
      a.toNat / 2 ^ 22 % 2 ^ 10 = 0 ∧ a.toNat / 2 ^ 45 = 0 ∧ off % 8 = 0 ∧ off + 8 * n ≤ f.partSize ∧ n ≤ 4096 ∧ n = 2 ∧
      (∀ j, j < n → ∀ i, i < j → (word (8 * i)).toNat < (word (8 * j)).toNat) ∧
      Stream.units { s32 := true, ovf := false, pairs := (List.range n).map fun i => (word (8 * i), word (8 * i + 4)) } ≤
        s.unitsFree f + (t.q.getD qd.toNat Stream.empty).units :=
  ⟨(world (accessor 0x10000 0x200000008)).scratchWrite 0 8 (bytesOf 16 (1 + 2 ^ 64 * 5)), accessor 0x10000 0x200000008,
    loadedGang 1 0, loadedFamily 0, 0, .s 5, 0x200000008, issuer_of rfl rfl rfl, by decide +kernel⟩

theorem test_meets_stream_stores : ∃ (s : State) (t : Team) (g : Gang) (f : Family) (qa qb : BitVec 3) (sa : SSrc)
    (sd vd : BitVec 6) (a : Word),
    let q (k : BitVec 3) : Stream := t.q.getD k.toNat Stream.empty
    let off := a.toNat % 2 ^ 22
    s.issuer? = some t ∧ s.Canonical ∧ s.gangOf? t = some g ∧ s.familyOf? t = some f ∧
      (s.viewOf t).readS posSA sa = .ok a ∧ a.toNat / 2 ^ 22 = 0 ∧ off % 8 = 0 ∧
      off + 8 * (q qa).pairs.length ≤ f.partSize ∧ (∀ p ∈ (s.core t.core).passes, p.team ≠ t.id) ∧ t.pend = [] ∧
      (s.viewOf t).checkV posD vd false = .ok () ∧ (s.viewOf t).checkV posD (vd + 1) false = .ok () ∧ vd.toNat < 63 ∧
      (s.viewOf t).checkS posD sd = .ok () ∧ (q qa).s32 = (q qb).s32 :=
  ⟨world (accessor 0 16), accessor 0 16, loadedGang 1 0, loadedFamily 0, 0, 1, .s 5, 0, 62, 16, issuer_of rfl rfl rfl,
    of_tidy (by decide +kernel), by decide +kernel⟩

theorem test_meets_merges : ∃ (xs ys : List (BitVec 32 × BitVec 32)),
    (xs.map fun p => p.1.toNat).Pairwise (· < ·) ∧ (ys.map fun p => p.1.toNat).Pairwise (· < ·) ∧ xs ≠ [] :=
  ⟨[(1, 5), (3, 6)], [(3, 7)], by decide +kernel⟩

theorem test_meets_scratchpad : ∃ (s : State) (t : Team) (fam : Family) (base : BitVec 4) (ix : VSrc) (vd : BitVec 6)
    (f : Fmt) (off : BitVec 4) (b : Word) (x d : Src),
    let v := s.viewOf t
    let addr (l : Nat) : Nat := (laneAddress b x off f l).toNat
    s.issuer? = some t ∧ s.Canonical ∧ t.pend = [] ∧ s.defer = [] ∧ s.pendPubs = [] ∧ t.counter 0 < 63 ∧
      s.familyOf? t = some fam ∧ v.readBase base = .ok b ∧ v.readOneOf posIX ix [.s32, .n32] = .ok x ∧
      v.consume [x] = .ok () ∧ (∀ l ∈ t.lanes, addr l + f.bytes ≤ fam.partSize) ∧ v.checkV posD vd f.isPair = .ok () ∧ v.readD vd f = .ok d ∧
      (∀ l ∈ t.lanes, d.isPoisoned l = false) ∧ ∀ p ∈ (s.core t.core).passes, p.team ≠ t.id :=
  ⟨world (accessor 0xFFFC 0), accessor 0xFFFC 0, loadedFamily 0, 4, .imm 16, 1, .f32, 0, 0xFFFC, zeroIndex, src 1 .f32,
    issuer_of rfl rfl rfl, of_tidy (by decide +kernel), by decide +kernel⟩

theorem test_meets_loads : ∃ (s w : State) (t : Team) (base : BitVec 4) (ix : VSrc) (vd : BitVec 6) (f : Fmt)
    (off : BitVec 4) (b : Word) (x : Src) (place : Nat → List (Nat × Nat)),
    let v := s.viewOf t
    s.issuer? = some t ∧ s.Undelayed t ∧ t.counter 0 < 63 ∧ v.readBase base = .ok b ∧
      v.readOneOf posIX ix [.s32, .n32] = .ok x ∧ v.checkV posD vd f.isPair = .ok () ∧ v.consume [x] = .ok () ∧
      s.Reaches t .load f.bytes (t.lanes.map fun l => (l, laneAddress b x off f l)) place w ∧
      ∀ l ∈ t.lanes, ∀ p ∈ place l, (w.coreRead t.core p.1 p.2).2.2 = w :=
  ⟨world (lone 0x10100 0), world (lone 0x10100 0), lone 0x10100 0, 4, .imm 16, 1, .f32, 1, 0x10100, zeroIndex,
    fun _ => [(0x10104, 4)], issuer_of rfl rfl rfl, undelayed_world rfl, by decide +kernel, by decide +kernel,
    by decide +kernel, by decide +kernel, by decide +kernel, ⟨by decide +kernel, by decide +kernel⟩, by decide +kernel⟩

theorem test_meets_stores : ∃ (s w : State) (t : Team) (base : BitVec 4) (ix : VSrc) (vd : BitVec 6) (f : Fmt)
    (off : BitVec 4) (b : Word) (x d : Src) (place : Nat → List (Nat × Nat)),
    let v := s.viewOf t
    let appended (es : List LogEntry) : State := es.foldl (fun s e => s.append t e) w
    let es := t.lanes.flatMap fun l => partEntries (d.isPoisoned l) (place l) (bytesOf f.bytes (d.val l))
    s.issuer? = some t ∧ s.Undelayed t ∧ t.ap < 63 ∧ v.readBase base = .ok b ∧ v.readOneOf posIX ix [.s32, .n32] = .ok x ∧
      v.readD vd f = .ok d ∧ v.consume [x] = .ok () ∧
      s.Reaches t .store f.bytes (t.lanes.map fun l => (l, laneAddress b x off f l)) place w ∧
      es.length ≤ w.appendRoom t.core ∧ (appended es).unpublishedOf t < 1062912 :=
  ⟨world (lone 0x10100 0), world (lone 0x10100 0), lone 0x10100 0, 4, .imm 16, 1, .f32, 1, 0x10100, zeroIndex, src 1 .f32,
    fun _ => [(keyUnder 0 0x10104, 4)], issuer_of rfl rfl rfl, undelayed_world rfl, by decide +kernel, by decide +kernel,
    by decide +kernel, by decide +kernel, by decide +kernel, ⟨by decide +kernel, by decide +kernel⟩, by decide +kernel⟩

theorem test_meets_reductions : ∀ n, n < 2 → ∃ (s w : State) (t : Team) (base : BitVec 4) (ix : VSrc) (vd : BitVec 6) (f : Fmt)
    (b : Word) (x d : Src) (place : Nat → List (Nat × Nat)),
    let v := s.viewOf t
    let appended (es : List LogEntry) : State := es.foldl (fun s e => s.append t e) w
    let buffered (es : List LogEntry) : State := es.foldl (fun s e => s.buffer t e) w
    let es (op : BitVec 4) : List LogEntry := t.lanes.filterMap fun l => (place l).head?.map fun p =>
      LogEntry.reduceAt p.1 op f (d.val l % 2 ^ f.bits) (d.isPoisoned l) (t.laneKey l) t.order
        (decide (1 ≤ s.levelOf t))
    s.issuer? = some t ∧ s.Undelayed t ∧ t.ap < 63 ∧ v.readBase base = .ok b ∧ v.readOneOf posIX ix [.s32, .n32] = .ok x ∧
      v.readD vd f = .ok d ∧ v.consume [x] = .ok () ∧
      s.Reaches t .reduction f.bytes (t.lanes.map fun l => (l, laneAddress b x 0 f l)) place w ∧
      (∀ l ∈ t.lanes, (laneAddress b x 0 f l).toNat % f.bytes = 0) ∧ s.levelOf t = n ∧
      (es 0).length ≤ w.appendRoom t.core ∧ (appended (es 0)).unpublishedOf t < 1062912 ∧
      (es 0).length ≤ w.bufferRoom t.core ∧
      (buffered (es 0)).unpublishedOf t < 1062912 := by
  intro n hn
  have h : n = 0 ∨ n = 1 := by omega
  rcases h with rfl | rfl
  · exact ⟨level 0 (lone 0x10100 0), level 0 (lone 0x10100 0), lone 0x10100 0, 4, .imm 16, 1, .f32, 0x10100, zeroIndex,
      src 1 .f32, fun _ => [(keyUnder 0 0x10100, 4)], issuer_of rfl rfl rfl, ⟨rfl, rfl, rfl, rfl⟩, by decide +kernel,
      by decide +kernel, by decide +kernel, by decide +kernel, by decide +kernel, ⟨by decide +kernel, by decide +kernel⟩, by decide +kernel⟩
  · exact ⟨level 1 (lone 0x10100 0), level 1 (lone 0x10100 0), lone 0x10100 0, 4, .imm 16, 1, .f32, 0x10100, zeroIndex,
      src 1 .f32, fun _ => [(keyUnder 0 0x10100, 4)], issuer_of rfl rfl rfl, ⟨rfl, rfl, rfl, rfl⟩, by decide +kernel,
      by decide +kernel, by decide +kernel, by decide +kernel, by decide +kernel, ⟨by decide +kernel, by decide +kernel⟩, by decide +kernel⟩

theorem test_meets_entries : ∃ (s : State) (key : Nat) (bs : List Byte) (tenant other : BitVec 8) (core : Nat),
    core ≠ 0 ∧ (∀ c ∈ s.cores, ∀ e ∈ c.log, e.under = none) ∧ (s.holder (granule key)).opens (some tenant) = true ∧ 0 < bs.length ∧ key % 32 + bs.length ≤ 32 ∧ key % 32 + bs.length = 32 ∧ key / 2 ^ 47 < 1024 ∧ s.staged = [] ∧
      (s.tenant tenant).created = true ∧ (s.tenant other).created = false :=
  ⟨world (team 1), 0x1001C, [1, 2, 3, 4], 0, 1, 1, by decide +kernel⟩

theorem test_meets_publication : ∃ (s : State) (t : Team) (sc : Scope),
    s.team? t.id = some t ∧ s.pendPubs = [] ∧ sc ≠ .team :=
  ⟨world (team 1), team 1, .gang, by simp [world, State.team?, team, Team.make], rfl, by decide⟩

theorem test_meets_force : ∃ (s : State) (p : Pub) (key seq : Nat) (bs : List Byte) (tenant : BitVec 8) (lsn : BitVec 48),
    let e : LogEntry := { LogEntry.plainAt key bs false with tenant := tenant, lsn := lsn, state := .published p.seq }
    (s.holder (granule key)).opens (some tenant) = true ∧ s.mayLeave e = true ∧ 0 < bs.length ∧ key % 32 + bs.length ≤ 32 ∧ key / 2 ^ 47 < 1024 ∧ (s.tenant tenant).created = true ∧
      s.pubs = [p] ∧ s.flights = [] ∧ s.staged = [] ∧ (s.core p.core).log = [e] ∧
      p.seq ≤ seq ∧ p.core ≠ 1 ∧ (s.core 1).log = [] ∧ (s.core 1).seen = seq + 1 ∧ s.Canonical := by
  let p : Pub := { seq := 1, core := 0, team := 2, scope := .device, num := 1, tick := 0, gang := 1,
                    family := 0, ending := false, lsns := [] }
  exact ⟨{ world (team 1) with
      pubs := [p]
      cores := [{ Core.fresh 0 with log := [{ LogEntry.plainAt 0x10100 [7] false with lsn := 3, state := .published 1 }] },
        { Core.fresh 1 with seen := 2 }] },
    p, 0x10100, 1, [7], 0, 3, by decide +kernel, by decide +kernel, by decide +kernel, by decide +kernel, by decide +kernel,
    by decide +kernel, by decide +kernel, by decide +kernel, by decide +kernel, by decide +kernel, by decide +kernel,
    by decide +kernel, by decide +kernel, by decide +kernel, of_tidy (by decide +kernel)⟩

theorem test_meets_atomics : ∀ cas : Bool, ∃ (s w : State) (t : Team) (base : BitVec 4) (ix : VSrc) (vd : BitVec 6) (f : Fmt)
    (b : Word) (x c swap : Src) (place : Nat → List (Nat × Nat)),
    let v := s.viewOf t
    let keys := t.lanes.filterMap fun l => (place l).head?.map fun p => (l, p.1)
    s.issuer? = some t ∧ s.Undelayed t ∧ t.counter 0 < 63 ∧ s.Passes t ∧ v.readBase base = .ok b ∧
      v.readOneOf posIX ix [.s32, .n32] = .ok x ∧ v.atomOperands cas vd f = .ok (c, swap) ∧
      v.consume [x, c, swap] = .ok () ∧ (∀ l ∈ t.lanes, (laneAddress b x 0 f l).toNat % f.bytes = 0) ∧
      s.Reaches t .atomic f.bytes (t.lanes.map fun l => (l, laneAddress b x 0 f l)) place w ∧
      ∀ k ∈ keys, w.mustPublish t (granule (bareKey k.2)) = false := by
  let t := vreg 20 .n32 1 (vreg 21 .n32 2 (lone 0x10100 0))
  let c := got (((world t).viewOf t).readD 20 .n32) zeroIndex
  let d := got (((world t).viewOf t).readD 21 .n32) zeroIndex
  intro cas
  cases cas
  · exact ⟨world t, world t, t, 4, .imm 16, 20, .n32, 0x10100, zeroIndex, c, c, fun _ => [(keyUnder 0 0x10100, 4)],
      issuer_of rfl rfl rfl, undelayed_world rfl, by decide +kernel, .inl (by decide +kernel), by decide +kernel, by decide +kernel,
      by decide +kernel, by decide +kernel, by decide +kernel, ⟨by decide +kernel, by decide +kernel⟩, by decide +kernel⟩
  · exact ⟨world t, world t, t, 4, .imm 16, 20, .n32, 0x10100, zeroIndex, c, d, fun _ => [(keyUnder 0 0x10100, 4)],
      issuer_of rfl rfl rfl, undelayed_world rfl, by decide +kernel, .inl (by decide +kernel), by decide +kernel, by decide +kernel,
      by decide +kernel, by decide +kernel, by decide +kernel, ⟨by decide +kernel, by decide +kernel⟩, by decide +kernel⟩

theorem test_meets_atomic_results : (∃ (s : State) (key : Nat) (f : Fmt), s.staged = [] ∧ (f.bytes = 4 ∨ f.bytes = 8) ∧
      bareKey key % f.bytes = 0 ∧ (s.holder (granule (bareKey key))).opens (tenantOfKey key) = true) ∧
    (∃ (f : Fmt) (sg : Bool) (n o : Nat), f.intShape = some (sg, n) ∧ (n = 32 ∨ n = 64) ∧ o < 2 ^ n) ∧
    ∃ (F : FloatFmt) (f : Fmt) (v : Nat), (f = .f32 ∧ F = fmtF32 ∨ f = .f64 ∧ F = fmtF64) ∧ v < 2 ^ f.bits :=
  ⟨⟨world (team 1), 8, .s64, by decide +kernel⟩, ⟨.n32, false, 32, 2 ^ 32 - 1, by decide +kernel⟩,
    fmtF32, .f32, 0, by decide +kernel⟩

theorem test_meets_full_empty : ∀ full : Bool, ∃ (s : State) (t : Team) (fam : Family) (base : BitVec 4) (ix : VSrc)
    (vd : BitVec 6) (f : Fmt) (b : Word) (x d : Src),
    let v := s.viewOf t
    let addr (l : Nat) : Nat := (laneAddress b x 0 f l).toNat
    let at_ (l : Nat) : Nat := fam.partBase + addr l
    s.issuer? = some t ∧ s.Canonical ∧ s.familyOf? t = some fam ∧ s.levelOf t < 2 ∧ t.gone = false ∧ t.pend = [] ∧
      t.arm.prog = .none ∧ (∀ a ∈ t.arms, a.prog = .none) ∧ s.pendPubs = [] ∧ t.counter 0 < 63 ∧
      (∀ a ∈ (s.core t.core).arrivals, ∀ l ∈ t.lanes, a.1 ≠ at_ l / 8) ∧
      v.readBase base = .ok b ∧ v.readOneOf posIX ix [.s32, .n32] = .ok x ∧
      v.consume [x] = .ok () ∧ (∀ l ∈ t.lanes, addr l % f.bytes = 0 ∧ addr l + f.bytes ≤ fam.partSize) ∧
      (t.lanes.map fun l => at_ l / 8).Nodup ∧ v.checkV posD vd f.isPair = .ok () ∧ v.readD vd f = .ok d ∧
      (∀ l ∈ t.lanes, d.isPoisoned l = false ∧ s.isFull t.core (at_ l) = full) ∧
      ∀ p ∈ (s.core t.core).passes, p.team ≠ t.id := by
  let t := lone 0xFFFC 0
  intro full
  cases full
  · exact ⟨world t, t, loadedFamily 0, 4, .imm 16, 1, .f32, 0xFFFC, zeroIndex, src 1 .f32, issuer_of rfl rfl rfl,
      of_tidy (by decide +kernel), by decide +kernel⟩
  · exact ⟨(world t).setFull 0 0xFFFC true, t, loadedFamily 0, 4, .imm 16, 1, .f32, 0xFFFC, zeroIndex, src 1 .f32,
      issuer_of rfl rfl rfl, of_tidy (by decide +kernel), by decide +kernel⟩

/-- A state whose core holds one translation. -/
def mapped (tr : CachedTr) : State := { world (team 1) with cores := [{ Core.fresh 0 with tc := [tr] }] }

/-- The context of the tests' accesses. -/
def user : TrCtx := { core := some 0, tenant := 0, root := 0, en := true, sys := false }

theorem test_meets_translations :
    (∃ (s s' : State) (c : TrCtx) (acc : AccKind) (va : Word) (key : Nat), s.translate c acc va = (.ok key, s')) ∧
    ∃ va : Word, validAddr va = true ∧
      let holds (tr : CachedTr) (p : State → Prop) : Prop := ∃ s : State, s.reachable (devOf va) = true ∧
        (s.rootOn user (devOf va)).isSome = true ∧
        (s.tenant user.tenant).created = true ∧
        ((s.cachedOf user.core).find? fun r => r.covers user.tenant (devOf va) (localOf va)) = some tr ∧ p s
      holds { codePage 0 with sys := true } (fun _ => user.sys = false) ∧
        holds { codePage 0 with rd := false } (fun _ => accReads .load = true) ∧
        holds { codePage 0 with w := false } (fun _ => accWrites .store = true) ∧
        holds (codePage 0) (fun s => s.Canonical ∧ permCheck false true true .store false = none ∧
          (codePage 0).pfn * 2 ^ 16 + (localOf va - (codePage 0).page) < hbmBytes) :=
  ⟨⟨world (team 1), world (team 1), user, .load, 0x10000, 0x10000, by decide +kernel⟩, 0x1FFFF, by decide +kernel,
    ⟨mapped { codePage 0 with sys := true }, by decide +kernel⟩, ⟨mapped { codePage 0 with rd := false }, by decide +kernel⟩,
    ⟨mapped { codePage 0 with w := false }, by decide +kernel⟩,
    ⟨mapped (codePage 0), by decide +kernel, by decide +kernel, by decide +kernel, by decide +kernel,
      of_tidy (by decide +kernel), by decide +kernel⟩⟩

theorem test_meets_memory_laws : ∃ m : Memory, Memory.wf m = true ∧ m ≠ [] := ⟨[(3, 1), (5, 2)], by decide +kernel⟩

/-! ## Premises: synchronisation -/

theorem test_meets_releases : ∃ (s : State) (t : Team) (sc : Scope) (sa : SSrc) (a : Word),
    s.issuer? = some t ∧ s.Undelayed t ∧ s.Passes t ∧ sc = .domain ∧ s.inBound = true ∧ t.ap = 0 ∧
      (1 ≤ s.levelOf t ∧ s.flushes t (fun e => e.team == t.id) = true) ∧
      t.arm.prog = .none ∧ (s.viewOf t).readS posSA sa = .ok a :=
  ⟨level 1 (team 1), team 1, .domain, .imm 17, 1, issuer_of rfl rfl rfl, ⟨rfl, rfl, rfl, rfl⟩, .inl (by decide +kernel),
    by decide +kernel⟩

/-- A gang group of one gang. -/
def group (gen : BitVec 32) : Group :=
  { uid := 7, members := [1], total := 1, gen := gen, abandoned := false, barStatus := 0, tag := 0, startAt := none
    mdev := false, tick := 0, told := none, remote := [], away := 0, out := false }

theorem test_meets_barriers : ∃ sd : BitVec 6,
    let base (s : State) (t : Team) (g : Gang) : Prop := s.issuer? = some t ∧ s.gang? t.gang = some g ∧
      s.pendPubs = [] ∧ (s.viewOf t).checkS posD sd = .ok () ∧ t.handling = false ∧ t.stack = []
    (∃ s t g, base s t g ∧ t.spawned = true ∧ g.group = none) ∧
      (∃ s t g, base s t g ∧ t.spawned = false ∧ t.arrived = true ∧ genLe g.barGen t.arrGen = false) ∧
      ∃ s t g id gr, base s t g ∧ t.spawned = false ∧ g.group = some id ∧ s.group? id = some gr ∧ t.groupArrived = true ∧
        genLe gr.gen t.groupGen = false :=
  ⟨63, ⟨world { team 1 with spawned := true }, { team 1 with spawned := true }, loadedGang 1 0,
      ⟨issuer_of rfl rfl rfl, by decide +kernel⟩, by decide +kernel⟩,
    ⟨inGang (fun g => { g with barGen := 0 }) { team 1 with arrived := true, arrGen := 0xFFFFFFFF },
      { team 1 with arrived := true, arrGen := 0xFFFFFFFF }, { loadedGang 1 0 with barGen := 0 },
      ⟨issuer_of rfl rfl rfl, by decide +kernel⟩, by decide +kernel⟩,
    { inGang (fun g => { g with group := some 7 }) { team 1 with groupArrived := true, groupGen := 4 } with
        groups := [group 5] },
      { team 1 with groupArrived := true, groupGen := 4 }, { loadedGang 1 0 with group := some 7 }, 7, group 5,
      ⟨issuer_of rfl rfl rfl, by decide +kernel⟩, by decide +kernel⟩

theorem test_meets_generations :
    let here (g : Gang) (u : Team) : Bool := u.arrived && genLe g.barGen u.arrGen
    let live (s : State) (g : Gang) : List Team := (s.teamsOf g.uid).filter fun u => !u.gone
    let expected (s : State) (g : Gang) : List Team := (live s g).filter fun u => !u.spawned && genLe u.fromGen g.barGen
    (∃ (s : State) (g : Gang), s.gang? g.uid = some g ∧ ∃ u ∈ expected s g, here g u = false) ∧
      ∃ (s : State) (g : Gang), s.gang? g.uid = some g ∧ (∃ u ∈ live s g, here g u = true) ∧
        ∀ u ∈ expected s g, here g u = true :=
  ⟨⟨world (team 1), loadedGang 1 0, by decide +kernel⟩,
    world { team 1 with arrived := true }, loadedGang 1 0, by decide +kernel⟩

/-- The premises of `gjoin` and `gleave`. -/
def joins (s : State) (t : Team) (g : Gang) (a : Word) : Prop :=
  s.issuer? = some t ∧ s.Passes t ∧ s.gangOf? t = some g ∧ (s.viewOf t).readS posSA (.s 1) = .ok a ∧ t.handling = false ∧
    t.stack = [] ∧ t.counter 0 = 0 ∧ t.ap = 0

/-- A second gang of the family of the tests, under a logical number. -/
def second (id : BitVec 32) : Gang := { loadedGang 5 0 with logical := id, gslot := 1 }

theorem test_meets_joins :
    (∃ s t g a, joins s t g a ∧ t.spawned = true) ∧
    (∃ s t g a, joins s t g a ∧ t.spawned = false ∧ 2 ^ 30 ≤ a.toNat ∧ a.toNat = 2 ^ 30) ∧
    (∃ s t g a, joins s t g a ∧ t.spawned = false ∧ a.toNat < 2 ^ 30 ∧ a.toNat + 1 = 2 ^ 30 ∧
      g.logical = BitVec.ofNat 32 (2 ^ 31 + a.toNat % 2 ^ 30)) ∧
    (∃ s t g a h, joins s t g a ∧ t.spawned = false ∧ a.toNat < 2 ^ 30 ∧
      g.logical ≠ BitVec.ofNat 32 (2 ^ 31 + a.toNat % 2 ^ 30) ∧
      s.namedGang g (BitVec.ofNat 32 (2 ^ 31 + a.toNat % 2 ^ 30)) = some h ∧ h.core = g.core ∧ h.family = g.family) ∧
    (∃ s t g a h, joins s t g a ∧ t.spawned = false ∧ a.toNat < 2 ^ 30 ∧
      g.logical ≠ BitVec.ofNat 32 (2 ^ 31 + a.toNat % 2 ^ 30) ∧
      s.namedGang g (BitVec.ofNat 32 (2 ^ 31 + a.toNat % 2 ^ 30)) = some h ∧ (h.core ≠ g.core ∨ h.family ≠ g.family)) ∧
    (∃ s t g a core slot, joins s t g a ∧ t.spawned = false ∧ a.toNat < 2 ^ 30 ∧
      g.logical ≠ BitVec.ofNat 32 (2 ^ 31 + a.toNat % 2 ^ 30) ∧
      s.namedGang g (BitVec.ofNat 32 (2 ^ 31 + a.toNat % 2 ^ 30)) = none ∧ g.core = some core ∧
      s.gangSlotFor core = some slot) ∧
    (∃ s t g a, joins s t g a ∧ g.logical = t.home) ∧
    (∃ s t g a, joins s t g a ∧ g.logical ≠ t.home ∧ (s.gangsOf g.family).find? (fun h => h.logical == t.home) = none) ∧
    ∃ s t g a h, joins s t g a ∧ g.logical ≠ t.home ∧
      (s.gangsOf g.family).find? (fun h => h.logical == t.home) = some h ∧ h.core = g.core ∧ h.family = g.family ∧
      h.uid ≠ g.uid := by
  let t := sreg 1 9 (team 1)
  let u := sreg 1 (2 ^ 30 - 1) (team 1)
  let w := sreg 1 (2 ^ 30) (team 1)
  refine ⟨⟨world { t with spawned := true }, { t with spawned := true }, loadedGang 1 0, 9,
      ⟨issuer_of rfl rfl rfl, .inl (by decide +kernel), by decide +kernel⟩, rfl⟩,
    ⟨world w, w, loadedGang 1 0, 2 ^ 30, ⟨issuer_of rfl rfl rfl, .inl (by decide +kernel), by decide +kernel⟩, by decide +kernel⟩,
    ⟨inGang (fun g => { g with logical := 0xBFFFFFFF }) u, u, { loadedGang 1 0 with logical := 0xBFFFFFFF }, 2 ^ 30 - 1,
      ⟨issuer_of rfl rfl rfl, .inl (by decide +kernel), by decide +kernel⟩, by decide +kernel⟩,
    ⟨{ world t with gangs := [loadedGang 1 0, second 0x80000009] }, t, loadedGang 1 0, 9, second 0x80000009,
      ⟨issuer_of rfl rfl rfl, .inl (by decide +kernel), by decide +kernel⟩, by decide +kernel⟩,
    ⟨{ world t with gangs := [loadedGang 1 0, { second 0x80000009 with core := some 1 }] }, t, loadedGang 1 0, 9,
      { second 0x80000009 with core := some 1 }, ⟨issuer_of rfl rfl rfl, .inl (by decide +kernel), by decide +kernel⟩, by decide +kernel⟩,
    ⟨world t, t, loadedGang 1 0, 9, 0, got ((((world t).gangSlotFor 0).map Except.ok).getD (.error (.wait .other))) 0,
      ⟨issuer_of rfl rfl rfl, .inl (by decide +kernel), by decide +kernel⟩, by decide +kernel⟩,
    ⟨world t, t, loadedGang 1 0, 9, ⟨issuer_of rfl rfl rfl, .inl (by decide +kernel), by decide +kernel⟩, by decide +kernel⟩,
    ⟨world { t with home := 5 }, { t with home := 5 }, loadedGang 1 0, 9,
      ⟨issuer_of rfl rfl rfl, .inl (by decide +kernel), by decide +kernel⟩, by decide +kernel⟩,
    ⟨{ world { t with home := 5 } with gangs := [loadedGang 1 0, second 5] }, { t with home := 5 }, loadedGang 1 0, 9,
      second 5, ⟨issuer_of rfl rfl rfl, .inl (by decide +kernel), by decide +kernel⟩, by decide +kernel⟩⟩

/-- A world whose gang may nest to a depth, and whose tenant has an entry. -/
def nesting (n : Nat) (entries : List Word) (t : Team) : State :=
  { inGang (fun g => { g with nest := n }) t with
    tenants := [{ State.reset.tenant 0 with created := true, entries := entries }] }

theorem test_meets_spawns : ∃ (p : BitVec 4) (np : BitVec 3) (sd : BitVec 6),
    let base (s : State) (t : Team) (g : Gang) (f : Family) (a : Word) : Prop :=
      s.issuer? = some t ∧ s.Passes t ∧ s.gangOf? t = some g ∧ s.familyOf? t = some f ∧ (s.viewOf t).readS posSA (.s 1) = .ok a ∧
        t.pend = [] ∧ t.ap = 0 ∧ t.lanes ≠ [] ∧ t.arm.prog = .none ∧ (s.viewOf t).checkS posD sd = .ok () ∧ (s.viewOf t).checkPayload p np = .ok () ∧
        t.handling = false
    (∃ s t g f a, base s t g f a ∧ g.nest = 0) ∧
      (∃ s t g f a, base s t g f a ∧ g.nest ≠ 0 ∧ a ∉ (s.tenant g.tenant).entries) ∧
      (∃ s t g f a, base s t g f a ∧ g.nest ≠ 0 ∧ a ∈ (s.tenant g.tenant).entries ∧
        ((s.viewOf t).scalar sd).toNat % 8 ≠ 0) ∧
      (∃ s t g f a, base s t g f a ∧ g.nest ≠ 0 ∧ a ∈ (s.tenant g.tenant).entries ∧
        ((s.viewOf t).scalar sd).toNat % 8 = 0 ∧ ((s.viewOf t).scalar sd).toNat + 8 = f.partSize ∧
        (t.lanes.filter fun l => decide (g.nest ≤ keyDepth (t.laneKey l)) || t.ords.getD l 0 == 1023) = [1]) ∧
      ∃ s t g f a, base s t g f a ∧ g.nest ≠ 0 ∧ a ∈ (s.tenant g.tenant).entries ∧
        ((s.viewOf t).scalar sd).toNat % 8 = 0 ∧ ((s.viewOf t).scalar sd).toNat + 8 ≤ f.partSize ∧
        ((s.viewOf t).scalar sd).toNat + 8 = f.partSize ∧
        (t.lanes.filter fun l => decide (g.nest ≤ keyDepth (t.laneKey l)) || t.ords.getD l 0 == 1023) = [] ∧ t.lanes.length ≤ s.spawnRoom t.core g := by
  let t := sreg 2 0xFFF8 (sreg 1 0x20000 (team 2))
  let u := sreg 2 0xFFFC t
  let w : Team := { t with ords := [1022, 1023] }
  exact ⟨15, 4, 2,
    ⟨nesting 0 [] t, t, { loadedGang 1 0 with nest := 0 }, loadedFamily 0, 0x20000,
      ⟨issuer_of rfl rfl rfl, .inl (by decide +kernel), by decide +kernel⟩, rfl⟩,
    ⟨nesting 1 [] t, t, { loadedGang 1 0 with nest := 1 }, loadedFamily 0, 0x20000,
      ⟨issuer_of rfl rfl rfl, .inl (by decide +kernel), by decide +kernel⟩, by decide +kernel⟩,
    ⟨nesting 1 [0x20000] u, u, { loadedGang 1 0 with nest := 1 }, loadedFamily 0, 0x20000,
      ⟨issuer_of rfl rfl rfl, .inl (by decide +kernel), by decide +kernel⟩, by decide +kernel⟩,
    ⟨nesting 1 [0x20000] w, w, { loadedGang 1 0 with nest := 1 }, loadedFamily 0, 0x20000,
      ⟨issuer_of rfl rfl rfl, .inl (by decide +kernel), by decide +kernel⟩, by decide +kernel⟩,
    ⟨nesting 1 [0x20000] t, t, { loadedGang 1 0 with nest := 1 }, loadedFamily 0, 0x20000,
      ⟨issuer_of rfl rfl rfl, .inl (by decide +kernel), by decide +kernel⟩, by decide +kernel⟩⟩

theorem test_meets_waits_for_children :
    let base (s : State) (t : Team) (g : Gang) (f : Family) (a : Word) : Prop :=
      s.issuer? = some t ∧ s.Passes t ∧ s.gangOf? t = some g ∧ s.familyOf? t = some f ∧ (s.viewOf t).readS posSA (.s 1) = .ok a ∧
        t.pend = [] ∧ s.pendPubs = []
    (∃ s t g f a, base s t g f a ∧ a.toNat % 8 = 0 ∧ a.toNat + 8 ≤ f.partSize ∧ a.toNat + 8 = f.partSize ∧
      natOfBytes (s.scratchRead f.core (f.partBase + a.toNat) 8) = 0 ∧
      t.arm.prog = .none) ∧
    (∃ s t g f a, base s t g f a ∧ a.toNat % 8 = 0 ∧ a.toNat + 8 = f.partSize ∧
      natOfBytes (s.scratchRead f.core (f.partBase + a.toNat) 8) = 0 ∧ t.arm.prog = .done 0) ∧
    (∃ s t g f a, base s t g f a ∧ a.toNat % 8 ≠ 0) ∧ ∃ s t g f a, base s t g f a ∧ f.partSize < a.toNat + 8 := by
  let t := sreg 1 0xFFF8 (team 1)
  let u : Team := { t with path := { t.path with prog := .done 0 } }
  exact ⟨⟨world t, t, loadedGang 1 0, loadedFamily 0, 0xFFF8, ⟨issuer_of rfl rfl rfl, .inl (by decide +kernel), by decide +kernel⟩, by decide +kernel⟩,
    ⟨world u, u, loadedGang 1 0, loadedFamily 0, 0xFFF8, ⟨issuer_of rfl rfl rfl, .inl (by decide +kernel), by decide +kernel⟩, by decide +kernel⟩,
    ⟨world (sreg 1 4 t), sreg 1 4 t, loadedGang 1 0, loadedFamily 0, 4, ⟨issuer_of rfl rfl rfl, .inl (by decide +kernel), by decide +kernel⟩,
      by decide +kernel⟩,
    ⟨world (sreg 1 0x10000 t), sreg 1 0x10000 t, loadedGang 1 0, loadedFamily 0, 0x10000,
      ⟨issuer_of rfl rfl rfl, .inl (by decide +kernel), by decide +kernel⟩, by decide +kernel⟩⟩

theorem test_meets_tiles :
    let base (s : State) (t : Team) (g : Gang) (f : Family) (a : Word) : Prop :=
      s.issuer? = some t ∧ s.Passes t ∧ s.gangOf? t = some g ∧ s.familyOf? t = some f ∧ (s.viewOf t).readS posSA (.s 1) = .ok a ∧
        (s.viewOf t).checkS posD 2 = .ok ()
    (∃ s t g f a fmt, base s t g f a ∧ a.toNat < 2 ^ 29 ∧ tagOf (a.extractLsb' 24 5) = .ok fmt ∧
      ((a.extractLsb' 0 12).toNat + (a.extractLsb' 12 12).toNat + 1) * 1024 ≤ f.partSize ∧
      ((s.core t.core).tile (BitVec.ofNat 8 1)).state = .empty ∧
      ∀ j, j < 1 → ((s.core t.core).tile (BitVec.ofNat 8 j)).state ≠ .empty) ∧
    (∃ s t g f a fmt, base s t g f a ∧ a.toNat < 2 ^ 29 ∧ tagOf (a.extractLsb' 24 5) = .ok fmt ∧
      ((a.extractLsb' 0 12).toNat + (a.extractLsb' 12 12).toNat + 1) * 1024 ≤ f.partSize ∧
      ∀ j, j < 256 → ((s.core t.core).tile (BitVec.ofNat 8 j)).state ≠ .empty) ∧
    ∀ (state : TileState) (own : Bool), ∃ s t g f a, base s t g f a ∧ a = BitVec.ofNat 64 255 ∧
      ((s.core t.core).tile (BitVec.ofNat 8 255)).state = state ∧
      ((s.core t.core).tile (BitVec.ofNat 8 255)).gslot = (if own then g.gslot else 1) ∧
      (s.core t.core).readsTile (BitVec.ofNat 8 255) = false := by
  let t := sreg 1 0x203F000 (team 1)
  let u := sreg 1 255 (team 1)
  refine ⟨⟨tiled [(0, tile .ready 0)] t, t, loadedGang 1 0, loadedFamily 0, 0x203F000, .fmt .bf16,
      ⟨issuer_of rfl rfl rfl, .inl (by decide +kernel), by decide +kernel⟩, by decide +kernel⟩,
    ⟨tiled ((List.range 256).map fun k => (BitVec.ofNat 8 k, tile .ready 0)) t, t, loadedGang 1 0, loadedFamily 0, 0x203F000,
      .fmt .bf16, ⟨issuer_of rfl rfl rfl, .inl (by decide +kernel), by decide +kernel⟩, by decide +kernel⟩, fun state own =>
    ⟨tiled [(255, tile state (if own then 0 else 1))] u, u, loadedGang 1 0, loadedFamily 0, 255, ?_, ?_⟩⟩
  · cases state <;> cases own <;> exact ⟨issuer_of rfl rfl rfl, .inl (by decide +kernel), by decide +kernel⟩
  · cases state <;> cases own <;> decide +kernel

/-! ## Premises: matrices -/

theorem test_meets_allocations :
    let base (s : State) (t : Team) (f : Family) (a : Word) : Prop :=
      s.issuer? = some t ∧ s.Passes t ∧ s.familyOf? t = some f ∧ (s.viewOf t).readS posSA (.s 1) = .ok a ∧
        (s.viewOf t).checkS posD 2 = .ok ()
    let rows (a : Word) : Nat := (a.extractLsb' 0 16).toNat
    let cols (a : Word) : Nat := (a.extractLsb' 16 16).toNat
    let units (a : Word) (af : AccFmt) : Nat := (rows a * cols a * accBytes af + 16383) / 16384
    (∃ s t f a, base s t f a ∧ rows a = 0) ∧
    (∃ s t f a af, base s t f a ∧ accFmtOf (a.extractLsb' 32 5) = some af ∧ 32 < units a af ∧ units a af = 33) ∧
    (∃ s t f a af, base s t f a ∧ accFmtOf (a.extractLsb' 32 5) = some af ∧ rows a ≠ 0 ∧ cols a ≠ 0 ∧
      a.extractLsb' 37 27 = 0 ∧ units a af ≤ 32 ∧ units a af = 32 ∧ s.unitsFree f < units a af) ∧
    (∃ s t f a af, base s t f a ∧ accFmtOf (a.extractLsb' 32 5) = some af ∧ rows a ≠ 0 ∧ cols a ≠ 0 ∧
      a.extractLsb' 37 27 = 0 ∧ units a af ≤ 32 ∧ ∀ h, h < 32 → (f.handle h).state ≠ .free) ∧
    ∃ s t f a af, base s t f a ∧ accFmtOf (a.extractLsb' 32 5) = some af ∧ rows a ≠ 0 ∧ cols a ≠ 0 ∧
      a.extractLsb' 37 27 = 0 ∧ units a af ≤ 32 ∧ units a af = 32 ∧ (f.handle 0).state = .free ∧
      (∀ j, j < 0 → (f.handle j).state ≠ .free) ∧ units a af ≤ s.unitsFree f := by
  let all : Word := 0x1 <<< 32 ||| 0x200 <<< 16 ||| 0x100
  let more : Word := 0x1 <<< 32 ||| 0x200 <<< 16 ||| 0x101
  let t := sreg 1 all (team 1)
  let small : Family → Family := fun f => { f with accUnits := 31 }
  let full : Family → Family := fun f => { f with handles := List.replicate 32 (square .held) }
  exact ⟨⟨world (sreg 1 0 t), sreg 1 0 t, loadedFamily 0, 0, ⟨issuer_of rfl rfl rfl, .inl (by decide +kernel), by decide +kernel⟩, by decide +kernel⟩,
    ⟨world (sreg 1 more t), sreg 1 more t, loadedFamily 0, more, .f32, ⟨issuer_of rfl rfl rfl, .inl (by decide +kernel), by decide +kernel⟩,
      by decide +kernel⟩,
    ⟨inFamily small t, t, small (loadedFamily 0), all, .f32, ⟨issuer_of rfl rfl rfl, .inl (by decide +kernel), by decide +kernel⟩, by decide +kernel⟩,
    ⟨inFamily full t, t, full (loadedFamily 0), all, .f32, ⟨issuer_of rfl rfl rfl, .inl (by decide +kernel), by decide +kernel⟩, by decide +kernel⟩,
    ⟨world t, t, loadedFamily 0, all, .f32, ⟨issuer_of rfl rfl rfl, .inl (by decide +kernel), by decide +kernel⟩, by decide +kernel⟩⟩

theorem test_meets_handles : ∀ state : HandleState, ∃ (s : State) (t : Team) (f : Family) (n : BitVec 5),
    s.issuer? = some t ∧ s.Passes t ∧ s.familyOf? t = some f ∧ (f.handle n.toNat).state = state ∧
      ∀ p ∈ (s.core t.core).passes, p.family ≠ f.uid ∨ p.handle ≠ n := by
  intro state
  refine ⟨inFamily (holding state) (team 1), team 1, holding state (loadedFamily 0), 0, issuer_of rfl rfl rfl, ?_, ?_⟩
  · cases state <;> exact .inl (by decide +kernel)
  · cases state <;> decide +kernel

theorem test_meets_matrix_registers : ∃ (s : State) (t : Team) (f : Family) (sa : SSrc) (sd : BitVec 6) (a : Word),
    s.issuer? = some t ∧ s.familyOf? t = some f ∧ (s.viewOf t).checkS posD sd = .ok () ∧
      (s.viewOf t).readS posSA sa = .ok a :=
  ⟨world (sreg 1 0x107B4 (team 1)), sreg 1 0x107B4 (team 1), loadedFamily 0, .s 1, 0, 0x107B4, issuer_of rfl rfl rfl,
    by decide +kernel⟩

theorem test_meets_products : ∃ (s : State) (t : Team) (g : Gang) (f : Family) (fmt : Tag) (acc : BitVec 5)
    (oma omb : BitVec 4) (sd : BitVec 6) (x : Word) (sp : Bool) (i : Instr) (p : Pass),
    let h := f.handle acc.toNat
    s.issuer? = some t ∧ s.Passes t ∧ i = (if sp then .mmSp fmt acc oma omb sd else .mm fmt acc oma omb sd) ∧
      s.gangOf? t = some g ∧ s.familyOf? t = some f ∧ (s.viewOf t).readS posD (.s sd) = .ok x ∧
      sizeBad sp x = false ∧ s.preparePass t g f sp fmt acc oma omb x sd = .ok p ∧ (s.core t.core).mxeAdmitted = true ∧
      (s.core t.core).passes = [] ∧ s.defer = [] ∧ h.elems.length = h.rows * h.cols :=
  ⟨sparse, sparseTeam, loadedGang 1 0, holding .held (loadedFamily 0), .fmt .bf16, 0, 0, 1, 6, 0x0201000400020002, true, _,
    sparsePass, issuer_of rfl rfl rfl, .inl (by decide +kernel), rfl, by decide +kernel⟩

theorem test_meets_no_products :
    let base (s : State) (t : Team) (g : Gang) (f : Family) (x : Word) : Prop :=
      s.issuer? = some t ∧ s.Passes t ∧ s.gangOf? t = some g ∧ s.familyOf? t = some f ∧
        (s.viewOf t).readS posD (.s 6) = .ok x
    (∃ s t g f x, base s t g f x ∧ sizeBad false x = true) ∧
      ∃ s t g f x, base s t g f x ∧ sizeBad true x = false ∧ (f.handle 0).state = .free :=
  ⟨⟨world (team 1), team 1, loadedGang 1 0, loadedFamily 0, 0, ⟨issuer_of rfl rfl rfl, .inl (by decide +kernel), by decide +kernel⟩, by decide +kernel⟩,
    world sparseTeam, sparseTeam, loadedGang 1 0, loadedFamily 0, 0x0201000400020002,
    ⟨issuer_of rfl rfl rfl, .inl (by decide +kernel), by decide +kernel⟩, by decide +kernel⟩

theorem test_meets_pass_products : ∃ (s : State) (core : Nat) (p : Pass) (i j k q : Nat), k < p.k ∧
    s.core core = s.core core ∧
    let m (side : Bool) : Nat := if p.side = side ∧ p.k0 ≤ k ∧ k - p.k0 < p.dup.length then p.dup.getD (k - p.k0) 0 else k
    ∃ rows, p.kept = some rows ∧
      let row := rows.getD i []
      q < row.length ∧ row.getD q none = some (m true) ∧ (∀ q', q' < q → row.getD q' none ≠ some (m true)) ∧ j < p.n :=
  ⟨sparse, 0, sparsePass, 0, 0, 2, 1, by decide +kernel, rfl, (sparsePass.kept).getD [], by decide +kernel⟩

/-- A team of eight lanes before `mmo.bf16 v8, v4, om1, s3` with M = N = K = 2: control in v4, A in v5, D in v8 and v9. -/
def octetTeam : Team :=
  let t := { sreg 3 0x0000000200020002 (team 8) with om := (team 1).om.set 1 0x0100020001000000 }
  vreg 4 .n32 0 (vreg 5 .pk 0x40003F80 (vreg 8 .f32 0 (vreg 9 .f32 0 t)))

/-- Its state. -/
def octet : State := { sparse with teams := [octetTeam] }

theorem test_meets_octets : ∃ (s : State) (t : Team) (g : Gang) (f : Family) (fmt : Tag) (vd va : BitVec 6)
    (omb sd : BitVec 4) (x : Word) (sp : Bool) (i : Instr) (r : OctetRegs) (b : MatView),
    let v := s.viewOf t
    let nf (k : BitVec 4) : BitVec 32 := t.nf.getD k.toNat 0
    let lanes := t.lanes.filter fun l => decide (l % 8 < sizeM x)
    s.issuer? = some t ∧ s.Passes t ∧ i = (if sp then .mmoSp fmt vd va omb sd else .mmo fmt vd va omb sd) ∧ s.gangOf? t = some g ∧
      s.familyOf? t = some f ∧ t.size ≤ 1024 ∧ t.ksw = false ∧
      v.readS posSB (.s (sd.setWidth 6)) = .ok x ∧ octetBad sp x = false ∧ v.octetRegs fmt vd va x = .ok r ∧
      viewB (s.core t.core) g f (t.om.getD omb.toNat 0) = .ok b ∧
      (chunkLength fmt b.tag (octetAcc fmt)).isSome = true ∧ (sp = true → tagHalf fmt = true ∨ tagByte fmt = true) ∧
      (∀ e ∈ r.readsB sp x lanes, b.inside (tagSlot nf b.tag) e.1 e.2 = true) ∧ (∀ l ∈ lanes, none ∉ r.keeps sp x l) ∧
      (∀ q ∈ r.ctl :: r.a ++ r.d, q.poison &&& maskOf lanes = 0) ∧
      s.readsPoison t.core s.free (tagSlot nf b.tag) b (r.readsB sp x lanes) = false ∧
      (s.core t.core).mxeAdmitted = true ∧ lanes ≠ [] := by
  let r := got ((octet.viewOf octetTeam).octetRegs (.fmt .bf16) 8 4 0x0000000200020002) { ctl := VReg.zero, a := [], d := [] }
  let b := got (viewB (octet.core 0) (loadedGang 1 0) (holding .held (loadedFamily 0)) 0x0100020001000000) sparsePass.a
  exact ⟨octet, octetTeam, loadedGang 1 0, holding .held (loadedFamily 0), .fmt .bf16, 8, 4, 1, 3, 0x0000000200020002, false,
    _, r, b, issuer_of rfl rfl rfl, .inl (by decide +kernel), rfl, by decide +kernel⟩

theorem test_meets_bad_octets : ∃ (s : State) (t : Team) (g : Gang) (f : Family) (x : Word),
    let v := s.viewOf t
    s.issuer? = some t ∧ s.Passes t ∧ s.gangOf? t = some g ∧ s.familyOf? t = some f ∧ t.size ≤ 1024 ∧ t.ksw = false ∧
      v.readS posSB (.s 2) = .ok x ∧ octetBad false x = true ∧ (v.octetReg posSA 4 [.n32, .b32]).isOk = true ∧
      (v.octetReg posD 8 [accFmt (octetAcc (.fmt .bf16))]).isOk = true :=
  ⟨octet, octetTeam, loadedGang 1 0, holding .held (loadedFamily 0), 0, issuer_of rfl rfl rfl, .inl (by decide +kernel),
    by decide +kernel⟩

/-- The premises that every clause about `wbld` has. -/
def loadsWeights (s : State) (t : Team) (f : Family) (a : Word) : Prop :=
  s.issuer? = some t ∧ s.Passes t ∧ s.familyOf? t = some f ∧ t.pend = [] ∧
    (s.viewOf t).readS posSA (.s 1) = .ok a ∧ (s.viewOf t).checkS posD 2 = .ok () ∧
    ∀ p ∈ (s.core t.core).passes, p.family ≠ f.uid ∨ p.b.tile ≠ none

/-- The header of an image of one bf16 element, and the image: line table, bitmap, element. -/
def imageOf (elems : Nat) : List Byte :=
  bytesOf 4 (2 + 2 ^ 16 * 16) ++ bytesOf 4 elems ++ bytesOf 4 1 ++ bytesOf 4 16 ++ List.replicate 16 0 ++
    List.replicate 32 0 ++ bytesOf 8 1 ++ bytesOf 8 0x3F80

theorem test_meets_weights :
    (∃ s t f a, loadsWeights s t f a ∧ ∃ x, (s.core t.core).weight = some x ∧ x.family ≠ f.uid) ∧
    (∃ s t f a, loadsWeights s t f a ∧ (s.core t.core).weight = none ∧ a.toNat % 32 ≠ 0) ∧
    (∃ s t f a header w1, loadsWeights s t f a ∧ (s.core t.core).weight = none ∧ a.toNat % 32 = 0 ∧
      M.bulkRead t .bulkLoad a 32 s = .ok (header, []) w1 ∧ headerFormed (fun k => t.nf.getD k.toNat 0) header = false) ∧
    ∃ s t f a header bs bad w1 w2, loadsWeights s t f a ∧ (s.core t.core).weight = none ∧ a.toNat % 32 = 0 ∧
      M.bulkRead t .bulkLoad a 32 s = .ok (header, []) w1 ∧ headerFormed (fun k => t.nf.getD k.toNat 0) header = true ∧
      M.bulkRead t .bulkLoad a (imageBytes header) w1 = .ok (bs, bad) w2 ∧ structurePoisoned bs bad = false ∧
      linesFormed bs = true := by
  let t := sreg 1 0x10100 (team 1)
  let u := sreg 1 0x10110 (team 1)
  let s (n : Nat) : State := { world t with mem := Memory.writeBytes [] 0x10100 (imageOf n) }
  let other : WeightBuf := { family := 9, addr := 0, bytes := [], bad := [] }
  have base : ∀ n, n < 2 → loadsWeights (s n) t (loadedFamily 0) 0x10100 := by
    intro n hn
    have h : n = 0 ∨ n = 1 := by omega
    rcases h with rfl | rfl <;> exact ⟨issuer_of rfl rfl rfl, .inl (by decide +kernel), by decide +kernel⟩
  refine ⟨⟨{ world t with cores := [{ Core.fresh 0 with weight := some other }] }, t, loadedFamily 0, 0x10100,
      ⟨issuer_of rfl rfl rfl, .inl (by decide +kernel), by decide +kernel⟩, other, rfl, by decide⟩,
    ⟨world u, u, loadedFamily 0, 0x10110, ⟨issuer_of rfl rfl rfl, .inl (by decide +kernel), by decide +kernel⟩, rfl, by decide +kernel⟩,
    ⟨s 0, t, loadedFamily 0, 0x10100, (imageOf 0).take 32, s 0, base 0 (by omega), rfl, by decide +kernel,
      of_gives (by decide +kernel), by decide +kernel⟩,
    ⟨s 1, t, loadedFamily 0, 0x10100, (imageOf 1).take 32, imageOf 1, [], s 1, s 1, base 1 (by omega), rfl, by decide +kernel,
      of_gives (by decide +kernel), by decide +kernel, of_gives (by decide +kernel), by decide +kernel⟩⟩

/-! ## Premises: engines -/

/-- The premises that every clause about copies and batches has. -/
def copies (s : State) (t : Team) (g : Gang) (f : Family) : Prop :=
  s.issuer? = some t ∧ s.Passes t ∧ s.gangOf? t = some g ∧ s.familyOf? t = some f ∧ s.defer = [] ∧
    s.pendPubs = [] ∧ t.pend = []

/-- A copy record. -/
def copied (batch : Option (BitVec 32)) (done fault : Bool) : CopyRec :=
  { run := 9, batch := batch, glob := true, done := done, fault := fault }

theorem test_meets_copies : ∀ dir : Fin 2, ∃ (s : State) (t : Team) (g : Gang) (f : Family) (sn : BitVec 6) (sa : SSrc)
    (sd : BitVec 6) (a x d : Word) (c : Chan) (w1 : State) (es : List LogEntry) (limit : Nat)
    (fault : Option (BitVec 9 × Word)),
    let v := s.viewOf t
    let r := Run.make s t s.nextId (.copy d a x (copyLen x)) 0
    let w0 := { s with nextId := s.nextId + 1 }
    copies s t g f ∧ x.extractLsb' 62 2 = BitVec.ofNat 2 (dir.val + 1) ∧
      (if toScratch (copyDir x) = true ∨ copyLen x = 0 then es = [] ∧ limit = copyLen x ∧ fault = none ∧ w1 = w0
        else M.segments c r d (copyLen x) (if fromScratch (copyDir x) then BitVec.ofNat 64 (f.partBase + a.toNat) else a)
          (if fromScratch (copyDir x) then 1 else 0) false true w0 = .ok (es, limit, fault) w1) ∧
      v.readS posSA sa = .ok a ∧ v.readS posSB (.s sn) = .ok x ∧ v.readS posD (.s sd) = .ok d ∧
      copyCheck (s.core t.core) g f d a x = .ok () ∧ t.en < 63 ∧ s.chanOf? f.uid .bce = some c ∧ s.chan? c.id = some c ∧
      c.accept = [] ∧ c.open.length < 64 ∧ copyLen x ≠ 0 ∧ es.length ≤ w1.appendRoom t.core ∧
      (es.foldl (fun s e => s.append t e) w1).unpublishedOf t < 1062912 := by
  let t := sreg 4 0x10200 (sreg 5 0x4000000000000020 (sreg 6 0 (team 1)))
  let u := sreg 4 0 (sreg 5 0x8000000000000020 (sreg 6 0x10200 (team 1)))
  let s := withChans [channel .bce] t
  let w := withChans [channel .bce] u
  let out := M.segments (channel .bce) (Run.make w u 60 (.copy 0x10200 0 0x8000000000000020 32) 0) 0x10200 32 0 1 false true
    { w with nextId := 61 }
  have h : out = .ok (given out ([], 0, none)) (left out) := given_left _ (by decide +kernel)
  intro dir
  match dir with
  | 0 => exact ⟨s, t, loadedGang 1 0, loadedFamily 0, 5, .s 4, 6, 0x10200, 0x4000000000000020, 0, channel .bce,
      { s with nextId := 61 }, [], 32, none, ⟨issuer_of rfl rfl rfl, .inl (by decide +kernel), by decide +kernel⟩, by decide,
      by rw [if_pos (by decide +kernel)]; exact ⟨rfl, rfl, rfl, rfl⟩, by decide +kernel⟩
  | 1 => exact ⟨w, u, loadedGang 1 0, loadedFamily 0, 5, .s 4, 6, 0, 0x8000000000000020, 0x10200, channel .bce,
      left out, (given out ([], 0, none)).1, (given out ([], 0, none)).2.1, (given out ([], 0, none)).2.2,
      ⟨issuer_of rfl rfl rfl, .inl (by decide +kernel), by decide +kernel⟩, by decide,
      by rw [if_neg (by decide +kernel)]; exact h, by decide +kernel⟩

theorem test_meets_empty_copies : ∃ (s : State) (t : Team) (g : Gang) (f : Family) (a x d : Word) (c : Chan),
    let v := s.viewOf t
    copies s t g f ∧ v.readS posSA (.s 4) = .ok a ∧ v.readS posSB (.s 5) = .ok x ∧ v.readS posD (.s 6) = .ok d ∧
      copyCheck (s.core t.core) g f d a x = .ok () ∧ t.en < 63 ∧ s.chanOf? f.uid .bce = some c ∧ s.chan? c.id = some c ∧
      c.accept = [] ∧ c.open.length < 64 ∧ copyLen x = 0 ∧
      0 ≤ ({ s with nextId := s.nextId + 1 } : State).appendRoom t.core ∧
      ({ s with nextId := s.nextId + 1 } : State).unpublishedOf t < 1062912 := by
  let t := sreg 4 0 (sreg 5 0x8000000000000000 (sreg 6 0x10200 (team 1)))
  exact ⟨withChans [channel .bce] t, t, loadedGang 1 0, loadedFamily 0, 0, 0x8000000000000000, 0x10200, channel .bce,
    ⟨issuer_of rfl rfl rfl, .inl (by decide +kernel), by decide +kernel⟩, by decide +kernel⟩

theorem test_meets_batches : ∃ sd : BitVec 6,
    (∃ s t g f, copies s t g f ∧ (s.viewOf t).checkS posD sd = .ok ()) ∧
    ∀ faulty : Bool, ∃ s t g f a, copies s t g f ∧ (s.viewOf t).readS posSA (.s 4) = .ok a ∧
      let n := if genLe (a.extractLsb' 0 32) t.sealed then a.extractLsb' 0 32 else t.sealed
      let due := t.copies.filter fun c => c.upTo n
      due ≠ [] ∧ (∀ c ∈ due, c.done = true) ∧
        (due.find? (fun c => c.fault)).isSome = faulty ∧ (faulty = false → ∀ c ∈ due, c.fault = false) := by
  let t (f : Bool) : Team := sreg 4 9 { team 1 with sealed := 2, copies := [copied (some 1) true f, copied none false false] }
  refine ⟨63, ⟨world (team 1), team 1, loadedGang 1 0, loadedFamily 0, ⟨issuer_of rfl rfl rfl, .inl (by decide +kernel), by decide +kernel⟩,
    by decide +kernel⟩, fun faulty => ?_⟩
  cases faulty
  · exact ⟨world (t false), t false, loadedGang 1 0, loadedFamily 0, 9, ⟨issuer_of rfl rfl rfl, .inl (by decide +kernel), by decide +kernel⟩,
      by decide +kernel⟩
  · exact ⟨world (t true), t true, loadedGang 1 0, loadedFamily 0, 9, ⟨issuer_of rfl rfl rfl, .inl (by decide +kernel), by decide +kernel⟩,
      by decide +kernel⟩

/-- The premises that every clause about engine commands has. -/
def commands (s : State) (t : Team) (g : Gang) (f : Family) (a : Word) : Prop :=
  s.issuer? = some t ∧ s.Passes t ∧ s.gangOf? t = some g ∧ s.familyOf? t = some f ∧ s.Undelayed t ∧
    (s.viewOf t).readS posSA (.s 4) = .ok a ∧ (s.viewOf t).checkS posD 2 = .ok () ∧ t.en < 63 ∧ t.arm.prog = .none ∧
    t.arms.all (fun x => x.prog == .none) = true

/-- They hold of these worlds. -/
theorem commands_of {t : Team} {cs : List Chan} {a : Word} {g : Gang} {f : Family} (hi : t.id = 2) (hp : t.pend = [])
    (h : let s := withChans cs t
      s.levelOf t < 2 ∧ s.gangOf? t = some g ∧ s.familyOf? t = some f ∧ (s.viewOf t).readS posSA (.s 4) = .ok a ∧
        (s.viewOf t).checkS posD 2 = .ok () ∧ t.en < 63 ∧ t.arm.prog = .none ∧
        t.arms.all (fun x => x.prog == .none) = true) : commands (withChans cs t) t g f a :=
  ⟨issuer_of rfl rfl hi, .inl h.1, h.2.1, h.2.2.1, ⟨hp, rfl, rfl, rfl⟩, h.2.2.2⟩

/-- No arm of such a team waits for a command's acceptance. -/
theorem no_command {t : Team} (h : t.arms.all (fun x => x.prog == .none) = true) :
    ∀ x ∈ t.arms, ∀ n, x.prog ≠ .command n none := by
  intro x hx n hn
  have := List.all_eq_true.mp h x hx
  rw [hn] at this
  exact nomatch eq_of_beq this

theorem test_meets_queueing :
    (∃ s t g f a, commands s t g f a ∧ a.extractLsb' 0 6 ≠ 0) ∧
    (∃ s t g f a, commands s t g f a ∧ a.extractLsb' 0 6 = 0 ∧ a.getLsbD 63 = true ∧ a.extractLsb' 22 41 = 0 ∧
      f.partSize < (a.extractLsb' 0 22).toNat + 64) ∧
    let formed (e : EngineId) (f : Family) (a : Word) : Prop := a.extractLsb' 0 6 = 0 ∧ (a.getLsbD 63 = true → e = .bce ∧
      a.extractLsb' 22 41 = 0 ∧ (a.extractLsb' 0 22).toNat + 64 ≤ f.partSize)
    (∃ s t g f a e c, commands s t g f a ∧ formed e f a ∧ a.getLsbD 63 = true ∧
      (a.extractLsb' 0 22).toNat + 64 = f.partSize ∧ s.chanOf? f.uid e = some c ∧ s.chan? c.id = some c ∧ c.accept = [] ∧
      c.open.length < 64) ∧
    (∃ s t g f a e, commands s t g f a ∧ formed e f a ∧ s.chanOf? f.uid e = none ∧ e ≠ .bce ∧
      channelLimit e ≤ (s.chans.filter fun c => c.engine == e).length) ∧
    ∃ s t g f a e, commands s t g f a ∧ formed e f a ∧ s.chanOf? f.uid e = none ∧
      (e = .bce ∨ (s.chans.filter fun c => c.engine == e).length < channelLimit e) ∧ ∀ c ∈ s.chans, c.id ≠ s.nextId := by
  let t := sreg 4 0x800000000000FFC0 (team 1)
  let u := sreg 4 0x10200 (team 1)
  let full := List.replicate 16 { channel (.se 7) with family := 9 }
  exact ⟨⟨withChans [] (sreg 4 1 (team 1)), sreg 4 1 (team 1), loadedGang 1 0, loadedFamily 0, 1,
      commands_of rfl rfl (by decide +kernel), by decide⟩,
    ⟨withChans [] (sreg 4 0x8000000000010000 (team 1)), sreg 4 0x8000000000010000 (team 1), loadedGang 1 0, loadedFamily 0,
      0x8000000000010000, commands_of rfl rfl (by decide +kernel), by decide +kernel⟩,
    ⟨withChans [channel .bce] t, t, loadedGang 1 0, loadedFamily 0, 0x800000000000FFC0, .bce, channel .bce,
      commands_of rfl rfl (by decide +kernel), by decide +kernel⟩,
    ⟨withChans full u, u, loadedGang 1 0, loadedFamily 0, 0x10200, .se 7, commands_of rfl rfl (by decide +kernel),
      by decide +kernel⟩,
    ⟨withChans [] u, u, loadedGang 1 0, loadedFamily 0, 0x10200, .se 7, commands_of rfl rfl (by decide +kernel),
      by decide +kernel⟩⟩

theorem test_meets_engine_waits : ∀ high : Bool, ∃ (s : State) (t : Team) (g : Gang) (f : Family) (a : Word),
    let chan : Option Chan := s.chanOf? f.uid .bce
    commands s t g f a ∧ ((chan.map fun (c : Chan) => c.issued).getD 0) = 5 ∧ t.arm.prog = .none ∧
      (high = true → ((chan.map fun (c : Chan) => c.issued).getD 0).toNat < a.toNat) ∧ (high = false →
        a.toNat ≤ ((chan.map fun (c : Chan) => c.issued).getD 0).toNat ∧ a.toNat ≤ ((chan.map fun (c : Chan) => c.done).getD 0).toNat) := by
  let c := { channel .bce with issued := 5, done := 5 }
  intro high
  cases high
  · exact ⟨withChans [c] (sreg 4 5 (team 1)), sreg 4 5 (team 1), loadedGang 1 0, loadedFamily 0, 5,
      commands_of rfl rfl (by decide +kernel), by decide +kernel⟩
  · exact ⟨withChans [c] (sreg 4 6 (team 1)), sreg 4 6 (team 1), loadedGang 1 0, loadedFamily 0, 6,
      commands_of rfl rfl (by decide +kernel), by decide +kernel⟩

/-- The premises of a drain that begins. -/
def drains (s : State) (t : Team) (g : Gang) (f : Family) (a : Word) (add tile : Bool) (h : BitVec 5) : Prop :=
  ∃ (c : Chan) (bs : List Byte) (w1 w3 : State) (es : List LogEntry) (fault : Option (BitVec 9 × Word)),
    let record := a &&& ~~~(0xFF : Word)
    let index := if tile then (a.extractLsb' 0 8).toNat else h.toNat
    let p := Shape64.of bs
    (tile = false → a.extractLsb' 0 8 = 0 ∧ (f.handle index).state ≠ .free) ∧
      M.bulkRead t .load record 64 s = .ok (bs, []) w1 ∧
      let w2 := { w1 with nextId := w1.nextId + 1 }
      let r := Run.make s t w1.nextId (.drain add tile index record bs) 0
      let src := w2.drainSource c r tile index p
      (if add = true ∨ p.comp = true then es = [] ∧ fault = none ∧ w3 = w2
        else M.drainSegments c r p (p.slot r.nfOf) (p.runs src.rows src.cols) w2 = .ok (es, fault) w3) ∧
      s.chanOf? f.uid .bce = some c ∧ s.chan? c.id = some c ∧ c.accept = [] ∧ c.open.length < 64 ∧
      w2.drainFlaw c r (some g.gslot) tile index p add = none ∧ es.length ≤ (w3.core c.core).room

theorem test_meets_drains :
    (∃ s t g f a, commands s t g f a ∧ a.extractLsb' 0 8 = 0 ∧ (f.handle 31).state = .free) ∧
    (∃ s t g f a, commands s t g f a ∧ drains s t g f a true false 0) ∧
    ∃ s t g f a, commands s t g f a ∧ drains s t g f a false false 0 := by
  let t := sreg 4 0x10200 (team 1)
  let f := holding .held (loadedFamily 0)
  let s : State := { withChans [channel .bce] t with families := [f], mem := Memory.writeBytes [] 0x10200 shapeRecord }
  let c := channel .bce
  let w : State := { s with nextId := 61 }
  let p := Shape64.of shapeRecord
  let r := Run.make s t 60 (.drain false false 0 0x10200 shapeRecord) 0
  let out := M.drainSegments c r p (p.slot r.nfOf) (p.runs (w.drainSource c r false 0 p).rows (w.drainSource c r false 0 p).cols) w
  have ho : out = .ok (given out ([], none)) (left out) := given_left _ (by decide +kernel)
  have hs : commands s t (loadedGang 1 0) f 0x10200 :=
    ⟨issuer_of rfl rfl rfl, .inl (by decide +kernel), by decide +kernel, by decide +kernel, ⟨rfl, rfl, rfl, rfl⟩, by decide +kernel⟩
  exact ⟨⟨withChans [] t, t, loadedGang 1 0, loadedFamily 0, 0x10200, commands_of rfl rfl (by decide +kernel),
      by decide +kernel⟩,
    ⟨s, t, loadedGang 1 0, f, 0x10200, hs, c, shapeRecord, s, w, [], none, by decide +kernel, of_gives (by decide +kernel),
      ⟨rfl, rfl, rfl⟩, by decide +kernel⟩,
    ⟨s, t, loadedGang 1 0, f, 0x10200, hs, c, shapeRecord, s, left out, (given out ([], none)).1, (given out ([], none)).2,
      by decide +kernel, of_gives (by decide +kernel), ho, by decide +kernel⟩⟩

/-! ## Premises: islands -/

/-- An island's place in it. -/
def place63 : IslandRef :=
  { scene := 63, unit := 0, root := 0, batch := false, shard := 0, shards := 1, bodies := [], anchors := [], offCross := 0
    ncross := 0, sleep := false }

/-- The premises that every clause about scenes has. -/
def scenic (s : State) (t : Team) (g : Gang) (a : Word) : Prop :=
  s.issuer? = some t ∧ s.Passes t ∧ s.gangOf? t = some g ∧ (s.viewOf t).readS posSA (.s 1) = .ok a

theorem test_meets_sleep_and_close :
    (∃ s t g a, scenic s t g a ∧ g.island = none) ∧ (∃ s t g a r, scenic s t g a ∧ g.island = some r) ∧
    (∃ s t g a, scenic s t g a ∧ s.scene? a.toNat = none) ∧
    ∀ driven : Bool, ∃ s t g a c, scenic s t g a ∧ a.toNat < 64 ∧ a.toNat = 63 ∧ s.scene? a.toNat = some c ∧
      c.tenant = g.tenant ∧ s.islandGangs c.num = [] ∧ (s.liveDrivers c = [] ↔ driven = false) := by
  let t := member
  let g := { loadedGang 1 0 with island := some place63 }
  refine ⟨⟨world t, t, loadedGang 1 0, 63, ⟨issuer_of rfl rfl rfl, .inl (by decide +kernel), by decide +kernel⟩, rfl⟩,
    ⟨{ world t with gangs := [g] }, t, g, 63, place63, ⟨issuer_of rfl rfl rfl, .inl (by decide +kernel), by decide +kernel⟩, rfl⟩,
    ⟨world t, t, loadedGang 1 0, 63, ⟨issuer_of rfl rfl rfl, .inl (by decide +kernel), by decide +kernel⟩, rfl⟩, fun driven => ?_⟩
  cases driven
  · exact ⟨inScene (sceneWith 1 [] []) t, t, loadedGang 1 0, 63, sceneWith 1 [] [], ⟨issuer_of rfl rfl rfl, .inl (by decide +kernel), by decide +kernel⟩,
      by decide +kernel⟩
  · exact ⟨inScene { sceneWith 1 [] [] with drivers := [2] } t, t, loadedGang 1 0, 63, { sceneWith 1 [] [] with drivers := [2] },
      ⟨issuer_of rfl rfl rfl, .inl (by decide +kernel), by decide +kernel⟩, by decide +kernel⟩

/-- A descriptor of one body. -/
def descriptor : List Byte :=
  [0x10000, 0x10000, 0x10000].flatMap (bytesOf 8) ++ bytesOf 4 1 ++ bytesOf 4 1 ++ bytesOf 8 0x20000 ++ bytesOf 2 32 ++
    [8, 64] ++ bytesOf 2 4096 ++ bytesOf 2 0 ++ List.replicate 16 0

theorem test_meets_opening :
    let base (s : State) (t : Team) (g : Gang) (a : Word) : Prop :=
      scenic s t g a ∧ (s.viewOf t).checkS posD 2 = .ok ()
    let reads (s : State) (t : Team) (g : Gang) (a : Word) (bs : List Byte) (w1 : State) (formed : Bool) : Prop :=
      a.toNat % 64 = 0 ∧ t.pend = [] ∧ M.bulkRead t .load a 64 s = .ok (bs, []) w1 ∧
        descFormed (s.tenant g.tenant).entries bs = formed
    (∃ s t g a, base s t g a ∧ a.toNat % 64 ≠ 0) ∧
    (∃ s t g a bs w1, base s t g a ∧ reads s t g a bs w1 false) ∧
    (∃ s t g a bs w1, base s t g a ∧ reads s t g a bs w1 true ∧ ∀ n, n < 64 → s.scene? n ≠ none) ∧
    ∃ s t g a bs w1 n w2, base s t g a ∧ reads s t g a bs w1 true ∧ n < 64 ∧ s.scene? n = none ∧
      (∀ m, m < n → s.scene? m ≠ none) ∧
      M.initTables t (sceneOf (BitVec.ofNat 6 n) g.tenant g.ttbase t.isSystem bs) (descWord bs 0x10 8) w1 = .ok () w2 := by
  let t := sreg 1 0x10400 (team 1)
  let s : State := { world t with
    mem := Memory.writeBytes [] 0x10400 descriptor
    tenants := [{ State.reset.tenant 0 with created := true, entries := [0x20000] }] }
  let full : State := { s with scenes := (List.range 64).map fun n => { sceneWith 1 [] [] with num := BitVec.ofNat 6 n } }
  let c := sceneOf 0 0 1 false descriptor
  exact ⟨⟨world member, member, loadedGang 1 0, 63, ⟨⟨issuer_of rfl rfl rfl, .inl (by decide +kernel), by decide +kernel⟩, by decide +kernel⟩,
      by decide +kernel⟩,
    ⟨world t, t, loadedGang 1 0, 0x10400, List.replicate 64 0, world t, ⟨⟨issuer_of rfl rfl rfl, .inl (by decide +kernel), by decide +kernel⟩,
      by decide +kernel⟩, by decide +kernel, rfl, of_gives (by decide +kernel), by decide +kernel⟩,
    ⟨full, t, loadedGang 1 0, 0x10400, descriptor, full, ⟨⟨issuer_of rfl rfl rfl, .inl (by decide +kernel), by decide +kernel⟩,
      by decide +kernel⟩, ⟨by decide +kernel, rfl, of_gives (by decide +kernel), by decide +kernel⟩, by decide +kernel⟩,
    ⟨s, t, loadedGang 1 0, 0x10400, descriptor, s, 0, left (M.initTables t c 0x10000 s), ⟨⟨issuer_of rfl rfl rfl,
      .inl (by decide +kernel), by decide +kernel⟩, by decide +kernel⟩, ⟨by decide +kernel, rfl, of_gives (by decide +kernel), by decide +kernel⟩,
      by decide, rfl, by decide, ran (by decide +kernel)⟩⟩

/-- The premises of a driver's `cstep`. -/
def drives (s : State) (t : Team) (g : Gang) (a : Word) (c : Scene) : Prop :=
  scenic s t g a ∧ (s.viewOf t).checkS posD 2 = .ok () ∧ a.toNat < 64 ∧ s.scene? a.toNat = some c ∧ c.tenant = g.tenant ∧
    c.failed = false ∧ g.island = none ∧ t.gone = false ∧ t.handling = false ∧ t.stack = [] ∧ t.spawned = false ∧
    s.pendPubs = []

theorem test_meets_steps :
    (∃ s t g a c u w1 c2 r, drives s t g a c ∧ c.result = none ∧ c.drivers = [] ∧ s.stepOver c = true ∧
      (let raised (u : Team) : Team :=
          u.wakeIf (fun w => w == .step) (if 2 ≤ s.levelOf t then some c.lastEnd else none)
       M.regroup a.toNat (raised t) ((s.putScene { c with drivers := [t.id] }).modTeam t.id raised) = .ok () w1) ∧ w1.scene? a.toNat = some c2 ∧
      c2.failed = false ∧ c2.result = some r ∧
      ((w1.dropDriver t.id).replay t.id .device allCores).team? t.id = some u) ∧
    ∃ s t g a c r, drives s t g a c ∧ c.result = some r ∧ c.drivers = [t.id] := by
  let t := member
  let c := sceneWith 1 [{ Body.fresh 0 with kind := .static, nextKind := .static }] []
  let s := inScene c t
  let raised (u : Team) : Team := u.wakeIf (fun w => w == .step) none
  let w := left (M.regroup 63 (raised t) ((s.putScene { c with drivers := [2] }).modTeam 2 raised))
  let c2 := (w.scene? 63).getD c
  let d := { c with drivers := [2], result := some 5 }
  exact ⟨⟨s, t, loadedGang 1 0, 63, c, ((((w.dropDriver 2).replay 2 .device allCores)).team? 2).getD t, w, c2,
      c2.result.getD 7, ⟨⟨issuer_of rfl rfl rfl, .inl (by decide +kernel), by decide +kernel⟩, by decide +kernel⟩, rfl, rfl, by decide +kernel,
      ran (by decide +kernel), by decide +kernel⟩,
    ⟨inScene d t, t, loadedGang 1 0, 63, d, 5, ⟨⟨issuer_of rfl rfl rfl, .inl (by decide +kernel), by decide +kernel⟩, by decide +kernel⟩, rfl, rfl⟩⟩

/-- A team of two lanes with body IDs in v1, v2 and a tag in v3. -/
def reporter (a b : Elem) : Team := vreg 1 .n32 a (vreg 2 .n32 b (vreg 3 .s32 7 (sreg 1 63 (team 2))))

/-- Its registers' operand k. -/
def idsOf (c : Scene) (t : Team) (k : Nat) : Src := got (((inScene c t).viewOf t).readIds 1 k) (Src.imm .s32 0)

/-- The premises that every clause about bodies and edges has. -/
def reports (s : State) (t : Team) (c : Scene) (a : Word) (x : Src) : Prop :=
  s.issuer? = some t ∧ s.Passes t ∧ (s.viewOf t).readS posSA (.s 1) = .ok a ∧ a.toNat < 64 ∧
    s.scene? a.toNat = some c ∧ (∀ d ∈ s.scenes, d.num = c.num → d = c) ∧ c.tenant = s.tenantOf t ∧
    (s.viewOf t).readIds 1 0 = .ok x

theorem test_meets_reports :
    (∃ s t c a x, reports s t c a x ∧ c.failed = true) ∧
    (∃ s t c a x l, reports s t c a x ∧ c.failed = false ∧ l ∈ t.lanes ∧ c.nbody ≤ x.val l ∧
      ∀ m ∈ t.lanes, m < l → x.val m < c.nbody) ∧
    ∀ full : Bool, ∃ s t c a x y u, reports s t c a x ∧ c.failed = false ∧ (∀ l ∈ t.lanes, x.val l < c.nbody) ∧
      (∀ l ∈ t.lanes, x.bodyId l ∉ c.evicted ∧ y.bodyId l ∉ c.evicted) ∧ (s.viewOf t).runReg 1 1 = .ok (1 + 1) ∧ c.result = none ∧ (s.viewOf t).readIds 1 1 = .ok y ∧
      (∀ l ∈ t.lanes, y.val l < c.nbody) ∧ (s.viewOf t).readUser 1 2 = .ok u ∧
      ((s.linkLanes a.toNat (fun l => Edge.of (x.bodyId l) (y.bodyId l) true (BitVec.ofNat 32 (u.val l))) t.lanes).1 = [] ↔
        full = false) := by
  let c := sceneWith 4 [] []
  let e (b : Nat) : Edge := { lo := 0, hi := BitVec.ofNat 24 b, joint := false, user := 0 }
  let d := sceneWith 4 [] [e 1, e 2]
  let t := reporter 3 2
  let h : Team := reporter 4 0
  refine ⟨⟨inScene { c with failed := true } t, t, { c with failed := true }, 63, idsOf c t 0,
      ⟨issuer_of rfl rfl rfl, .inl (by decide +kernel), by decide +kernel⟩, rfl⟩,
    ⟨inScene c h, h, c, 63, idsOf c h 0, 0, ⟨issuer_of rfl rfl rfl, .inl (by decide +kernel), by decide +kernel⟩, by decide +kernel⟩, fun full => ?_⟩
  cases full
  · exact ⟨inScene c t, t, c, 63, idsOf c t 0, idsOf c t 1, got (((inScene c t).viewOf t).readUser 1 2) (idsOf c t 0),
      ⟨issuer_of rfl rfl rfl, .inl (by decide +kernel), by decide +kernel⟩, by decide +kernel⟩
  · exact ⟨inScene d t, t, d, 63, idsOf d t 0, idsOf d t 1, got (((inScene d t).viewOf t).readUser 1 2) (idsOf d t 0),
      ⟨issuer_of rfl rfl rfl, .inl (by decide +kernel), by decide +kernel⟩, by decide +kernel⟩

theorem test_meets_edges : ∀ (s : State), s.scenes = [sceneWith 4 [] [Edge.of 0 1 false 0, Edge.of 0 2 true 0]] →
    ∃ (c : Scene), s.scene? 63 = some c ∧ c.edges.Pairwise (fun a b => a.before b = true) ∧
      (∃ e : Edge, e.lo = e.hi) ∧
      (∃ e : Edge, e.lo ≠ e.hi ∧ ¬ (∃ f ∈ c.edges, f.same e = true) ∧ c.ecap ≤ c.edges.length) ∧
      ∃ e : Edge, e.lo.toNat < e.hi.toNat ∧ ∃ f ∈ c.edges, f.same e = true := by
  intro s hs
  refine ⟨sceneWith 4 [] [Edge.of 0 1 false 0, Edge.of 0 2 true 0], by rw [State.scene?, hs]; rfl, by decide +kernel,
    ⟨Edge.of 1 1 false 0, rfl⟩, ⟨Edge.of 1 2 false 0, by decide +kernel⟩, Edge.of 0 1 false 9, by decide +kernel⟩

/-! ## Premises: the system level -/

theorem test_meets_counts :
    let base (s : State) (t : Team) : Prop := s.issuer? = some t ∧ s.Passes t
    (∃ s t, base s t ∧ t.stack ≠ []) ∧
    (∀ grows : Bool, ∃ s t, base s t ∧ t.stack = [] ∧ t.vcnt < 64 ∧ s.mayGrow t 64 = grows) ∧
    ∃ s t, base s t ∧ t.stack = [] ∧ 8 < t.vcnt ∧ t.pend = [] := by
  let e : Entry := { join := 0, arm0 := Arm.start 0 1 64, arm1 := Arm.start 0 0 64, sel := false, table := false }
  let t := { team 1 with vcnt := 8 }
  let out := { team 1 with id := 3, status := .swappedOut }
  refine ⟨⟨world { team 1 with stack := [e] }, { team 1 with stack := [e] }, ⟨issuer_of rfl rfl rfl, .inl (by decide +kernel)⟩,
    by decide⟩, fun grows => ?_, world (team 1), team 1, ⟨issuer_of rfl rfl rfl, .inl (by decide +kernel)⟩, by decide +kernel⟩
  cases grows
  · exact ⟨{ world t with teams := [t, out] }, t, ⟨issuer_of rfl rfl rfl, .inl (by decide +kernel)⟩, by decide +kernel⟩
  · exact ⟨world t, t, ⟨issuer_of rfl rfl rfl, .inl (by decide +kernel)⟩, by decide +kernel⟩

theorem test_meets_control_reads : ∀ (sys : Bool) (last : Bool), ∃ (s : State) (t : Team) (g : Gang) (a : Word),
    s.issuer? = some t ∧ s.gangOf? t = some g ∧ (s.viewOf t).checkS posD 2 = .ok () ∧ (s.viewOf t).readS posSA (.s 1) = .ok a ∧
      (∀ p ∈ (s.core t.core).passes, p.team ≠ t.id) ∧ t.isSystem = sys ∧ a.toNat = if last then 32 else 15 := by
  let t : Team := sreg 1 32 (team 1)
  let u : Team := sreg 1 15 (team 1)
  intro sys last
  cases sys <;> cases last
  · exact ⟨world u, u, loadedGang 1 0, 15, issuer_of rfl rfl rfl, by decide +kernel⟩
  · exact ⟨world t, t, loadedGang 1 0, 32, issuer_of rfl rfl rfl, by decide +kernel⟩
  · exact ⟨world (system u), system u, loadedGang 1 0, 15, issuer_of rfl rfl rfl, by decide +kernel⟩
  · exact ⟨world (system t), system t, loadedGang 1 0, 32, issuer_of rfl rfl rfl, by decide +kernel⟩

theorem test_meets_control_writes : ∃ (s : State) (t : Team) (g : Gang) (r : CtlReg) (a : Word),
    s.issuer? = some t ∧ s.gangOf? t = some g ∧ t.isSystem = true ∧ (s.viewOf t).readS posSA (.s 1) = .ok a ∧ r.words = 1 ∧
      (s.viewOf t).checkS posD 2 = .ok () ∧ ((s.viewOf t).scalar 2).toNat < 32 ∧ ((s.viewOf t).scalar 2).toNat = 31 ∧
      (r = .mxs → ∀ p ∈ (s.core t.core).passes, p.team ≠ t.id) :=
  let t := sreg 1 9 (sreg 2 31 (system (team 1)))
  ⟨world t, t, loadedGang 1 0, .mxs, 9, issuer_of rfl rfl rfl, by decide +kernel⟩

theorem test_meets_no_control_words : ∃ (s : State) (t : Team) (g : Gang) (a : Word),
    s.issuer? = some t ∧ s.gangOf? t = some g ∧ t.isSystem = true ∧ (s.viewOf t).readS posSA (.s 1) = .ok a ∧
      (s.viewOf t).checkS posD 2 = .ok () ∧ ((s.viewOf t).scalar 2).toNat = 33 ∧ a.toNat = 33 :=
  let t := sreg 1 33 (sreg 2 33 (system (team 1)))
  ⟨world t, t, loadedGang 1 0, 33, issuer_of rfl rfl rfl, by decide +kernel⟩

theorem test_meets_user_level : ∃ (s : State) (t : Team) (r : CtlReg), s.issuer? = some t ∧ t.isSystem = false ∧ r = .ttbase :=
  ⟨world (team 1), team 1, .ttbase, issuer_of rfl rfl rfl, rfl, rfl⟩

theorem test_meets_trap_entries :
    (∃ (s : State) (t : Team) (i : TrapInfo), s.team? t.id = some t ∧ t.inh = false ∧ i.dbg = false ∧
      (s.core t.core).tvec.getLsbD 0 = true ∧ (s.core t.core).owner = none ∧ (s.core t.core).waiting = []) ∧
    ∀ inh : Bool, ∃ (s : State) (t : Team) (i : TrapInfo), s.team? t.id = some t ∧ (∀ u ∈ s.teams, u.id < s.nextId) ∧
      t.inh = inh ∧ ((s.core t.core).owner ≠ none ∨ (s.core t.core).waiting ≠ []) ∧
      (i.dbg = true ∨ (s.core t.core).tvec.getLsbD 0 = true) := by
  let vec (owner : Option Nat) (t : Team) : State := { world t with cores := [{ Core.fresh 0 with tvec := 0x8001, owner := owner }] }
  refine ⟨⟨vec none (team 1), team 1, trapOf false, rfl, by decide +kernel⟩, fun inh => ?_⟩
  cases inh
  · exact ⟨vec (some 9) (team 1), team 1, trapOf false, rfl, by decide +kernel⟩
  · exact ⟨vec (some 2) (inHandler (team 1)), inHandler (team 1), trapOf true, rfl, by decide +kernel⟩

theorem test_meets_halting_traps : ∃ (s : State) (t : Team) (i : TrapInfo), s.team? t.id = some t ∧
    (∀ u ∈ s.teams, u.id < s.nextId) ∧ t.inh = false ∧ i.dbg = false ∧ (s.core t.core).tvec.getLsbD 0 = false :=
  ⟨world (team 1), team 1, trapOf false, rfl, by decide +kernel⟩

theorem test_meets_returns : ∀ div : Bool, ∃ (s : State) (t : Team), s.issuer? = some t ∧ t.isSystem = true ∧ t.inh = true ∧
    t.ld = 0 ∧ t.ap = 0 ∧ t.en = 0 ∧ t.xl = 0 ∧ (s.core t.core).cause.getLsbD 10 = div ∧
    (div = true → ∃ e es, t.stack = e :: es) := by
  let e : Entry := { join := 0, arm0 := Arm.start 0 1 64, arm1 := Arm.start 0 0 64, sel := false, table := false }
  let t := { inHandler (team 1) with stack := [e] }
  let s (cause : Word) : State := { world t with cores := [{ Core.fresh 0 with cause := cause, owner := some 2 }] }
  intro div
  cases div
  · exact ⟨s 0x0BF, t, issuer_of rfl rfl rfl, by decide +kernel, by decide +kernel, rfl, rfl, rfl, rfl, by decide +kernel, nofun⟩
  · exact ⟨s 0x4BF, t, issuer_of rfl rfl rfl, by decide +kernel, by decide +kernel, rfl, rfl, rfl, rfl, by decide +kernel, fun _ => ⟨e, [], rfl⟩⟩

theorem test_meets_breaks : ∃ (s : State) (t : Team), s.issuer? = some t ∧ t.isSystem = true ∧ t.inh = false ∧
    t.dbgctl.getLsbD 1 = true :=
  let t := { system (team 1) with dbgctl := 2 }
  ⟨world t, t, issuer_of rfl rfl rfl, by decide +kernel⟩

theorem test_meets_fences : ∀ high : Bool, ∃ (s : State) (t : Team) (g : Gang) (a : Word), s.issuer? = some t ∧
    s.gangOf? t = some g ∧ (s.viewOf t).readS posSA (.s 1) = .ok a ∧ t.pend = [] ∧ s.pendPubs = [] ∧ t.isSystem = true ∧
    t.ap = 0 ∧ 1 ≤ s.levelOf t ∧ s.flushes t (fun e => e.team == t.id) = true ∧ a.toNat = if high then 512 else 511 := by
  let t (a : Word) : Team := sreg 1 a (system (team 1))
  intro high
  cases high
  · exact ⟨level 1 (t 511), t 511, { loadedGang 1 0 with level := 1 }, 511, issuer_of rfl rfl rfl, by decide +kernel⟩
  · exact ⟨level 1 (t 512), t 512, { loadedGang 1 0 with level := 1 }, 512, issuer_of rfl rfl rfl, by decide +kernel⟩

/-! ## Premises: events -/

/-- An entry whose running arm has used its quantum. -/
def spent : Entry := { join := 0, arm0 := Arm.start 0x10000 1 0, arm1 := Arm.start 0x10008 1 64, sel := false, table := false }

/-- A child of the tests' gang. -/
def child : Child :=
  { uid := 9, gang := 1, entry := 0x20000, key := 0, payload := [], poison := 0, counter := 0, depth := 1, clock := 0, tick := 0,
    pubs := 0 }

theorem test_meets_turns :
    (∃ (s : State) (t : Team) (core : Nat), s.cur = none ∧ s.nextTeam core = some t ∧
      ∀ u ∈ s.teamsOn core, s.mayIssue u = true → s.domainOf u = none) ∧
    (∃ (s : State) (t : Team) (e : Entry) (es : List Entry), s.team? t.id = some t ∧ t.status = .running ∧ t.stack = e :: es ∧
      t.arm.quantum = 0 ∧ s.runOpen t = false ∧ s.Passes t) ∧
    (∃ (s : State) (core : Nat) (g : Gang) (entry : Word), s.gang? g.uid = some g ∧ g.core = some core ∧ g.level = 0 ∧
      s.childrenOf core g.uid entry ≠ [] ∧ ∀ c ∈ s.childrenOf core g.uid entry, c.tick + 256 ≤ s.tick.toNat) ∧
    (∃ (s : State) (u : Nat), s.gangsOf u = [] ∧
      ∀ c ∈ s.chans.filter fun c => !(c.family == u && c.done == c.issued), c.family = u → c.engine ≠ .bce) ∧
    (∃ (s : State) (t : Team), s.team? t.id = some t ∧ t.arm.wait = some .clock ∧ s.clockLeast t = true ∧
      s.mayIssue t = true) ∧
    (∀ large : Bool, ∃ (s : State) (t : Team) (core : Nat) (f : Family) (n : Nat),
      (s.core core).lastIssue + 4096 ≤ s.tick.toNat ∧ greatestGrower (s.growers core) = some (t, n) ∧
      s.familyOf? t = some f ∧
      decide (registerFile < f.chargeOf t n + (sumOf (((s.teamsIn f.uid).filter fun u =>
        u.id != t.id && u.resident).map fun u => f.chargeOf u u.vcnt) + f.nest * f.reserveCharge)) = large) ∧
    ∃ (s : State) (t : Team) (f : Family), s.team? t.id = some t ∧ s.familyOf? t = some f ∧ t.status = .swappedOut ∧
      s.gangResident t.gang = true ∧ f.chargeOf t t.restoredCount ≤ s.freeRf t.core := by
  let t := { team 1 with stack := [spent] }
  let grower := waiting (.grow 64) { team 1024 with vcnt := 8 }
  refine ⟨⟨idle (team 1), team 1, 0, rfl, by decide +kernel⟩, ⟨idle t, t, spent, [], rfl, rfl, rfl,
      by decide +kernel, by decide +kernel, .inl (by decide +kernel)⟩,
    ⟨{ atTick 256 (team 1) with cores := [{ Core.fresh 0 with spawnq := [child] }] }, 0, loadedGang 1 0, 0x20000, rfl,
      by decide +kernel⟩, ⟨idle (team 1), 5, by decide +kernel⟩,
    ⟨idle (waiting .clock (team 1)), waiting .clock (team 1), rfl, by decide +kernel⟩, fun large => ?_,
    ⟨idle { team 1 with status := .swappedOut }, { team 1 with status := .swappedOut }, loadedFamily 0, rfl,
      by decide +kernel⟩⟩
  let others (n : Nat) := (List.range n).map fun k => { team 1024 with id := 3 + k, status := .running }
  cases large
  · exact ⟨atTick 4096 grower, grower, 0, loadedFamily 0, 64, by decide +kernel⟩
  · exact ⟨{ atTick 4096 grower with teams := grower :: others 8 }, grower, 0, loadedFamily 0, 64, by decide +kernel⟩

/-- A publication. -/
def pub : Pub := { seq := 0, core := 0, team := 2, scope := .device, num := 0, tick := 0, gang := 1, family := 0,
                   ending := false, lsns := [] }

/-- A log entry. -/
def entry (state : EntryState) : LogEntry := { LogEntry.blank.at 0x10100 with state := state, team := 2, gang := 1 }

/-- An outstanding load or returning atomic. -/
def pending (atomic : Bool) : Pending :=
  { id := 1, target := some (.v 1), pair := false, mask := 1, touch := []
    work := if atomic then .atomic .n32 0 [(0, 1, 0)] [(0, 0x10100)] else .load .n32 [(0, .home [(0x10100, 4)])] }

theorem test_meets_memory_events :
    (∃ (s : State) (t : Team) (sc : Scope) (tail : BitVec 48) (rest : List (Nat × Scope × BitVec 48)),
      s.team? t.id = some t ∧ s.pendPubs = (t.id, sc, tail) :: rest) ∧
    (∃ (s : State) (t : Team) (n : Nat), s.team? t.id = some t ∧ t.status ≠ .handler ∧ t.stack = [] ∧ t.hpath.prog = .none ∧
      t.path.prog = .acquire n false) ∧
    (∀ atomic : Bool, ∃ (s : State) (t : Team) (p : Pending), s.team? t.id = some t ∧
      t.completable atomic = [p]) ∧
    (∃ (s : State) (p : Nat), s.nextUnsent 0 = some p) ∧
    (∃ (s : State) (i : Nat) (f : Flight), s.flights[i]? = some f ∧ s.mayApply i f = true) ∧
    (∃ (s : State) (p : Pass) (rest : List Pass), (s.core 0).mxeAdmitted = true ∧ (s.core 0).passes = p :: rest) ∧
    (∃ (s : State), (s.core 0).mxeAdmitted = true ∧ (s.core 0).passes = [] ∧ (s.core 0).mxeLast + 2048 ≤ s.tick.toNat) ∧
    (∃ (s : State), s.mxeWaiting = [0] ∧ s.rampAt = [] ∧ s.thermal.throttled = false) ∧
    ∃ (s : State) (g : Gang) (tenant : BitVec 8) (va : Word), s.walker 0 tenant = some g ∧
      ∀ x ∈ (s.core 0).tc, x.covers tenant (devOf va) (localOf va) = false := by
  let u : Team := { team 1 with path := { (team 1).path with prog := .acquire 1 false } }
  let f : Flight := { core := 0, pub := 0, lsns := [0], entry := entry (.sent 0) }
  refine ⟨⟨{ idle (team 1) with pendPubs := [(2, .device, 0)] }, team 1, .device, 0, [], rfl, rfl⟩,
    ⟨idle u, u, 1, rfl, by decide, rfl, rfl, rfl⟩, fun atomic => ?_,
    ⟨withCore (fun c => { c with log := [entry (.published 0)] }) (team 1), 0, by decide +kernel⟩,
    ⟨{ idle (team 1) with flights := [f] }, 0, f, rfl, by decide +kernel⟩,
    ⟨withCore (fun c => { c with mxeAdmitted := true, passes := [sparsePass] }) (team 1), sparsePass, [], rfl, rfl⟩,
    ⟨{ withCore (fun c => { c with mxeAdmitted := true }) (team 1) with tick := 2048 }, rfl, rfl, by decide +kernel⟩,
    ⟨withCore (fun c => { c with mxeAsked := true }) (team 1), by decide +kernel⟩,
    ⟨idle (team 1), loadedGang 1 0, 0, 0x20000, by decide +kernel⟩⟩
  cases atomic
  · exact ⟨idle { team 1 with pend := [pending false] }, { team 1 with pend := [pending false] }, pending false, rfl,
      by decide +kernel⟩
  · exact ⟨idle { team 1 with pend := [pending true] }, { team 1 with pend := [pending true] }, pending true, rfl,
      by decide +kernel⟩

theorem test_meets_timers :
    (∃ (s : State) (t : Team) (i : TrapInfo) (rest : List Nat), s.team? t.id = some t ∧ t.status = .waitingBank i ∧
      (s.core t.core).owner = none ∧ (s.core t.core).waiting = t.id :: rest ∧ s.gangResident t.gang = true ∧ i.dbg = false) ∧
    (∀ starves : Bool, ∃ (s : State) (t : Team) (p : Nat), s.team? t.id = some t ∧ s.timed t = true ∧ s.period t = some p ∧
      (starves = false → p ≤ s.tick.toNat - t.retireAt) ∧
      (starves = true → s.tick.toNat - t.retireAt < p ∧ t.starving = true ∧ p ≤ s.tick.toNat - t.starveAt)) ∧
    (∃ (s : State) (t : Team) (p : Nat), s.team? t.id = some t ∧ t.status = .handler ∧ s.period t = some p ∧
      p ≤ s.tick.toNat - t.hangAt) ∧
    (∃ (s : State) (t : Team), s.team? t.id = some t ∧ s.stalled t = true ∧ s.mayPreempt (s.companyOf t.gang) = true) ∧
    (∃ (s : State), s.companyOf 1 ≠ [] ∧ s.mayPreempt (s.companyOf 1) = true ∧
      ∃ g ∈ (((s.companyOf 1).foldl State.saveFamily s).tellAway (s.companyOf 1)).gangs, g.family ∈ s.companyOf 1) ∧
    ∃ (s : State) (places : List (Family × Nat × Option Nat)),
      let fams := (s.companyOf 1).filterMap s.family?
      fams ≠ [] ∧ (∀ g ∈ s.gangs, (∃ f ∈ fams, f.uid = g.family) →
        g.saved = true ∧ s.gangAllowed g = true ∧ damagedIn g.image [] = []) ∧ s.coresForSaved fams [] = some places := by
  let i := trapOf false
  let t := { team 1 with status := .waitingBank i }
  let e (a : Bool) : Entry := { spent with arm1 := { spent.arm1 with arrived := a } }
  let u := { team 1 with stack := [e true, e false], retireAt := 2 ^ 34 }
  let full : Team := waiting .logFull (team 1)
  let g := { loadedGang 1 0 with core := none, saved := true }
  let saved : State := { idle (team 1) with gangs := [g], families := [{ loadedFamily 0 with resident := false }] }
  refine ⟨⟨withCore (fun c => { c with waiting := [2] }) t, t, i, [], rfl, rfl, rfl, rfl, by decide +kernel⟩,
    fun starves => ?_, ⟨atTick (2 ^ 34) (inHandler (team 1)), inHandler (team 1), 2 ^ 34, rfl, by decide +kernel⟩, ?_,
    ⟨idle (team 1), by decide +kernel⟩, ⟨saved, ((saved.coresForSaved [{ loadedFamily 0 with resident := false }] []).getD []),
      by decide +kernel⟩⟩
  · cases starves
    · exact ⟨atTick (2 ^ 34) (team 1), team 1, 2 ^ 34, rfl, by decide +kernel⟩
    · exact ⟨atTick (2 ^ 34) u, u, 2 ^ 34, rfl, by decide +kernel⟩
  · let c : Core := { Core.fresh 0 with log := List.replicate 16384 (entry (.published 0)) }
    have hr : c.room = 0 := by
      have h : (c.log.filter fun e => !e.spilled && !e.unpublished).length = 16384 := by
        show ((List.replicate 16384 (entry (.published 0))).filter _).length = _
        rw [List.filter_replicate, if_pos (by decide), List.length_replicate]
      rw [Core.room, h, if_pos (by decide)]
    refine ⟨{ idle full with cores := [c] }, full, rfl, ?_, by decide +kernel⟩
    have hc : ({ idle full with cores := [c] } : State).core full.core = c := rfl
    rw [State.stalled, hc, hr]
    decide +kernel

/-! ## Premises: runs and scenes -/

/-- A run of the tests' channel, number 1. -/
def runOf (kind : RunKind) (head : Word) : Run := { Run.make (idle (team 1)) (team 1) 9 kind head with num := 1 }

/-- The tests' channel with a run. -/
def running (e : EngineId) (r : Run) : Chan := { channel e with issued := 1, runs := [r] }

/-- The world between turns with it. -/
def engaged (c : Chan) (t : Team) : State := { idle t with chans := [c], nextId := 60 }

/-- The body of a kind of chain entry. -/
def entryBody (kind : Nat) : Chan → Run → List Byte → M CurEntry := match kind with
  | 0 => fun _ _ bs => pure (endsWith bs 0)
  | 1 => copyEntry
  | 2 => listEntry false
  | 3 => listEntry true
  | 4 => drainEntry
  | 5 => solveEntry
  | 6 => loopEntry
  | _ => condEntry

/-- The engine that takes it. -/
def engineFor (kind : Nat) : EngineId := match kind with
  | 2 | 3 => .gs 0
  | 5 => .se 0
  | _ => .bce

/-- An entry of a kind: a copy of 32 bytes from 0x10200 to scratchpad, a loop of one round, otherwise zeros. -/
def chainBytes (kind : Nat) : List Byte :=
  bytesOf 8 0 ++ bytesOf 8 kind ++ (if kind = 1 then bytesOf 8 0 ++ bytesOf 8 0x10200 ++ bytesOf 8 0x4000000000000020 ++ bytesOf 24 0
    else if kind = 6 then bytesOf 8 0 ++ bytesOf 40 1 else bytesOf 48 0)

/-- The state with it at 0x10400. -/
def chained (kind : Nat) : State :=
  { engaged (running (engineFor kind) (runOf .chain 0x10400)) (team 1) with mem := Memory.writeBytes tables 0x10400 (chainBytes kind) }

/-- The premises of an entry that executes. -/
def executes (kind : Nat) : Prop :=
  ∃ (s : State) (c : Chan) (r : Run) (bs : List Byte) (w1 w2 : State) (cur : CurEntry) (q : Run),
    s.chan? 50 = some c ∧ c.run? (BitVec.ofNat 64 1) = some r ∧ s.mayStart c r = true ∧
      M.readEntry c r s = .ok (.ok bs) w1 ∧ entryFormedFor c.engine bs = true ∧ entryKind bs = kind ∧
      entryBody kind c { r with started := true } bs ((w1.serveChan c).putRun 50 { r with started := true }) = .ok cur w2 ∧
      ((w2.chan? 50).bind fun d => d.run? r.num) = some q

/-- They hold where the entry of that kind stands in memory. -/
theorem executes_of (kind : Nat)
    (h : let r := runOf .chain 0x10400
      let c := running (engineFor kind) r
      let out := M.readEntry c r (chained kind)
      let ran := entryBody kind c { r with started := true } (chainBytes kind) (((left out).serveChan c).putRun 50 { r with started := true })
      ((chained kind).mayStart c r && gives out (.ok (chainBytes kind)) (left out) &&
        entryFormedFor c.engine (chainBytes kind) && decide (entryKind (chainBytes kind) = kind) && goes ran &&
        ((((left ran).chan? 50).bind fun d => d.run? 1).isSome)) = true) : executes kind := by
  simp only [Bool.and_eq_true, decide_eq_true_eq] at h
  obtain ⟨⟨⟨⟨⟨h1, h2⟩, h3⟩, h4⟩, h5⟩, h6⟩ := h
  obtain ⟨q, hq⟩ := Option.isSome_iff_exists.mp h6
  exact ⟨chained kind, running (engineFor kind) (runOf .chain 0x10400), _, _, _, _, _, q, by rfl, by rfl, h1, of_gives h2, h3, h4,
    given_left { status := 0, next := 0, ends := true, waiting := none } h5, hq⟩

theorem test_meets_chain_entries : executes 0 ∧ executes 1 ∧ executes 2 ∧ executes 3 ∧ executes 4 ∧ executes 5 ∧ executes 6 ∧
    executes 7 :=
  ⟨executes_of 0 (by decide +kernel), executes_of 1 (by decide +kernel), executes_of 2 (by decide +kernel),
    executes_of 3 (by decide +kernel), executes_of 4 (by decide +kernel), executes_of 5 (by decide +kernel),
    executes_of 6 (by decide +kernel), executes_of 7 (by decide +kernel)⟩

/-- An entry that has been executed. -/
def entryDone (status : BitVec 8) (ends : Bool) (w : Option (List Byte)) : CurEntry :=
  { status := status, next := 0x10440, ends := ends, waiting := w }

/-- A COND that waits for a scratchpad word to equal 0. -/
def condBytes : List Byte := bytesOf 8 0 ++ bytesOf 8 7 ++ bytesOf 48 0

theorem test_meets_runs :
    let has (s : State) (c : Chan) (r : Run) : Prop := s.chan? 50 = some c ∧ c.run? (BitVec.ofNat 64 1) = some r
    (∃ (s : State) (c : Chan) (q : Run) (rest : List Run), s.chan? 50 = some c ∧ c.accept = q :: rest ∧ c.open.length < 64 ∧
      q.status = none) ∧
    (∃ (s : State) (c : Chan) (r : Run) (dst src x : Word) (limit : Nat) (bs : Stream8) (w1 : State), has s c r ∧
      (s.family? c.family).any (fun f => f.resident) = true ∧ r.cur = none ∧ r.status = none ∧
      r.kind = .copy dst src x limit ∧ copyDir x = 1 ∧ copyTv x = false ∧ r.fault = none ∧ copyLen x ≠ 0 ∧
      M.bulkFrom c { r with started := true } src limit ((s.serveChan c).putChan (c.setRun { r with started := true })) = .ok (bs, none) w1 ∧
      (∀ b ∈ bs, b.2 = false)) ∧
    (∃ (s : State) (c : Chan) (r : Run) (dst src x : Word) (limit : Nat) (w : State), has s c r ∧
      (s.family? c.family).any (fun f => f.resident) = true ∧ r.cur = none ∧ r.status = none ∧
      r.kind = .copy dst src x limit ∧ M.performCopy c r dst src x limit (s.serveChan c) = .ok () w) ∧
    (∃ (s : State) (c : Chan) (r : Run) (index : Nat) (addr : Word) (record : List Byte) (d : Drained) (w : State) (c' : Chan), has s c r ∧
      (s.family? c.family).any (fun f => f.resident) = true ∧ r.cur = none ∧ r.status = none ∧
      r.kind = .drain false false index addr record ∧
      M.drainWrite c { r with started := true } (Shape64.of record)
        (s.drainSource c { r with started := true } false index (Shape64.of record)) false r.fault
        ((s.serveChan c).putRun 50 { r with started := true }) = .ok d w ∧
      (w.drainDone c false index d.status).chan? 50 = some c') ∧
    (∃ (s : State) (c : Chan) (r : Run) (cur : CurEntry) (bs : List Byte), has s c r ∧ r.cur = some cur ∧
      cur.waiting = some bs ∧ s.condHolds c bs = true) ∧
    (∃ (s : State) (c : Chan) (r : Run) (cur : CurEntry) (bs : List Byte), has s c r ∧ r.cur = some cur ∧
      cur.waiting = some bs ∧ s.condHolds c bs = false ∧ fieldOf bs 0x10 1 / 2 % 2 = 0 ∧ s.familyLives c.family = false) ∧
    ∀ ends : Bool, ∃ (s : State) (c : Chan) (r : Run) (cur : CurEntry), has s c r ∧ r.cur = some cur ∧ cur.waiting = none ∧
      (ends = false → cur.status.toNat < 3 ∧ cur.ends = false) ∧
      (ends = true → (3 ≤ cur.status.toNat ∨ cur.ends = true) ∧ s.mayComplete c r = true) := by
  let c0 := { channel .bce with accept := [{ runOf .chain 0 with num := 0 }] }
  let r1 := runOf (.copy 0 0x10200 0x4000000000000020 32) 0
  let r2 := runOf (.drain false false 0 0x10200 shapeRecord) 0
  let c1 := running .bce r1
  let c2 := running .bce r2
  let s1 := engaged c1 (team 1)
  let s2 : State := { engaged c2 (team 1) with families := [holding .draining (loadedFamily 0)] }
  let out := M.bulkFrom c1 { r1 with started := true } 0x10200 32 ((s1.serveChan c1).putChan (c1.setRun { r1 with started := true }))
  let bs := (given out ([], none)).1
  let ho : out = .ok (bs, none) (left out) := of_gives (by decide +kernel)
  let outD := M.drainWrite c2 { r2 with started := true } (Shape64.of shapeRecord)
    (s2.drainSource c2 { r2 with started := true } false 0 (Shape64.of shapeRecord)) false none
    ((s2.serveChan c2).putRun 50 { r2 with started := true })
  let done := (left outD).drainDone c2 false 0 (given outD { status := 0, fault := none }).status
  let r3 := { runOf .chain 0 with cur := some (entryDone 0 false (some condBytes)) }
  let r5 := r3
  let orphan := { running .bce r3 with family := 5 }
  let dead := (engaged orphan (team 1)).scratchWrite 0 0 [1]
  let r4 (e : Bool) := { runOf .chain 0 with cur := some (entryDone 2 e none) }
  refine ⟨⟨engaged c0 (team 1), c0, { runOf .chain 0 with num := 0 }, [], rfl, rfl, by decide, rfl⟩,
    ⟨s1, c1, r1, 0, 0x10200, 0x4000000000000020, 32, bs, left out, ⟨rfl, rfl⟩, rfl, rfl, rfl, rfl,
      by decide +kernel, by decide +kernel, rfl, by decide +kernel, ho, by decide +kernel⟩,
    ⟨s1, c1, r1, 0, 0x10200, 0x4000000000000020, 32, left (M.performCopy c1 r1 0 0x10200 0x4000000000000020 32 (s1.serveChan c1)), ⟨rfl, rfl⟩,
      rfl, rfl, rfl, rfl, ran (by decide +kernel)⟩,
    ⟨s2, c2, r2, 0, 0x10200, shapeRecord, given outD { status := 0, fault := none }, left outD, (done.chan? 50).getD c2, ⟨rfl, rfl⟩,
      rfl, rfl, rfl, rfl, given_left _ (by decide +kernel), by decide +kernel⟩,
    ⟨engaged (running .bce r3) (team 1), running .bce r3, r3, entryDone 0 false (some condBytes), condBytes, ⟨rfl, rfl⟩, rfl,
      rfl, by decide +kernel⟩,
    ⟨dead, orphan, r5, entryDone 0 false (some condBytes), condBytes, ⟨rfl, rfl⟩, rfl, rfl, by decide +kernel⟩,
    fun ends => ⟨engaged (running .bce (r4 ends)) (team 1), running .bce (r4 ends), r4 ends, entryDone 2 ends none, ⟨rfl, rfl⟩,
      rfl, rfl, ?_⟩⟩
  cases ends <;> decide +kernel

theorem test_meets_loops : ∃ (s : State) (c : Chan) (bs : List Byte), fieldOf bs 0x24 28 = 0 ∧ fieldOf bs 0x18 4 ≠ 0 ∧
    c.chainAddr (BitVec.ofNat 64 (fieldOf bs 0x10 8)) = true ∧
    s.chan? c.id = some c ∧ 1 < fieldOf bs 0x18 4 ∧ fieldOf bs 0x18 4 = 2 ∧ (runOf .chain 0).loops = [] ∧
    ∃ (r q x y z : Run) (st : BitVec 32 × BitVec 32), r.loops = [(r.next, 0, st)] ∧ 0 + 1 < fieldOf bs 0x18 4 ∧
      q.loops = [(q.next, 1, st)] ∧ fieldOf bs 0x18 4 ≤ 1 + 1 ∧
      x.loops = [(64, 1, st), (x.next, 1, st)] ∧ 64 ≠ x.next ∧
      y.loops.length = 4 ∧ (∀ l ∈ y.loops, l.1 ≠ y.next) ∧ z.loops.length = 3 ∧ ∀ l ∈ z.loops, l.1 ≠ z.next :=
  ⟨engaged (channel .bce) (team 1), channel .bce, bytesOf 24 0 ++ bytesOf 40 2, by decide +kernel, by decide +kernel,
    by decide +kernel, rfl, by decide +kernel, by decide +kernel, rfl, { runOf .chain 0 with loops := [(0, 0, 0, 0)] },
    { runOf .chain 0 with loops := [(0, 1, 0, 0)] }, { runOf .chain 0 with loops := [(64, 1, 0, 0), (0, 1, 0, 0)] },
    { runOf .chain 0 with loops := [(64, 1, 0, 0), (128, 1, 0, 0), (192, 1, 0, 0), (256, 1, 0, 0)] },
    { runOf .chain 0 with loops := [(64, 1, 0, 0), (128, 1, 0, 0), (192, 1, 0, 0)] }, (0, 0), by decide +kernel⟩

theorem test_meets_bad_loops : ∃ bs : List Byte, fieldOf bs 0x18 4 = 0 := ⟨bytesOf 64 0, by decide +kernel⟩

theorem test_meets_scene_events :
    let has (s : State) (c : Scene) : Prop := s.scene? c.num.toNat = some c ∧ c.failed = false
    (∃ (s : State) (c : Scene) (w : State), has s c ∧ 0 < c.nbody ∧
      s.writeRecord c.ctx c (BitVec.ofNat 24 0) = (none, w)) ∧
    (∃ (s : State) (c : Scene) (w : State) (code : BitVec 9) (level : Nat) (at_ : Word), has s c ∧ 0 < c.nbody ∧
      s.writeRecord c.ctx c (BitVec.ofNat 24 0) = (some (.fault code level, at_), w)) ∧
    ∃ (s : State) (c : Scene) (t : Team) (rest : List Nat) (w : State), has s c ∧ s.team? t.id = some t ∧
      s.liveDrivers c = t.id :: rest ∧ c.result = none ∧ s.stepOver c = true ∧ t.arm.wait = some .step ∧
      s.gangResident t.gang = true ∧ s.levelOf t < 2 ∧ c.evicted = [] ∧
      (∀ b, b < c.nbody → (c.body (BitVec.ofNat 24 b)).nextKind ≠ .dynamic) ∧
      let woken := t.wakeIf (fun x => x == .step) none
      M.regroup c.num.toNat woken ((s.putScene { c with drivers := t.id :: rest }).modTeam t.id fun u =>
        u.wakeIf (fun x => x == .step) none) = .ok () w := by
  let c := sceneWith 1 [{ Body.fresh 0 with kind := .static, nextKind := .static }] []
  let d := { c with drivers := [2] }
  let t := waiting .step (team 1)
  let s : State := { idle (team 1) with scenes := [c], mem := tables }
  let root : State := { s with mem := [] }
  exact ⟨⟨s, c, (s.writeRecord c.ctx c 0).2, ⟨rfl, rfl⟩, by decide, by decide +kernel⟩,
    ⟨root, c, (root.writeRecord c.ctx c 0).2, 0x0C1, 3, 0x10000, ⟨rfl, rfl⟩, by decide, by decide +kernel⟩,
    ⟨{ s with scenes := [d], teams := [t] }, d, t, [], left (M.regroup 63 (t.wakeIf (fun x => x == .step) none)
      ((({ s with scenes := [d], teams := [t] } : State).putScene { d with drivers := [2] }).modTeam 2 fun u =>
        u.wakeIf (fun x => x == .step) none)), ⟨rfl, rfl⟩, rfl, by decide +kernel, rfl, by decide +kernel, rfl,
      by decide +kernel, by decide +kernel, rfl, by decide +kernel, ran (by decide +kernel)⟩⟩

/-! ## Premises: queues -/

/-- What starts a packet of a kind. -/
def starter (kind : Nat) : State → Queue → List Byte → Except (BitVec 9) Bool × State := match kind with
  | 0 => startNop
  | 1 => startLaunch
  | 2 => startWait
  | 3 => startLevel
  | 4 => startHold
  | _ => startSignal

/-- A packet of a kind: a launch of one gang of one team, a wait for the queue, a resumption of it, a signal at 0x10200. -/
def packetBytes (kind : Nat) : List Byte :=
  bytesOf 8 kind ++ (if kind = 1 then bytesOf 8 0x20000 ++ bytesOf 8 0 ++ bytesOf 4 1 ++ bytesOf 20 0 ++ bytesOf 8 0x100000001 ++ bytesOf 8 0
    else if kind = 2 then bytesOf 56 0xFFFC00 else if kind = 4 then bytesOf 56 0x3FFF
    else if kind = 5 then bytesOf 56 0x10200 else bytesOf 56 0)

theorem test_meets_packets : ∀ k : Fin 6, ∃ (s : State) (q : Queue) (bs : List Byte) (w1 w2 : State) (complete : Bool),
    s.queue? q.num = some q ∧ q.mayRead = true ∧ s.thermal.stopped = false ∧ s.owesGangs q.num = false ∧
      (let at_ := q.ring + BitVec.ofNat 64 (64 * (q.rd.toNat % 2 ^ q.log2sz))
       (s.showHqs q.tenant at_ 64).hqsRead q.tenant at_ 64 = (some (bs, false), w1)) ∧ q.badCheck = false ∧
      let header := BitVec.ofNat 64 (fieldOf bs 0 8)
      header.extractLsb' 0 8 = BitVec.ofNat 8 k.val ∧ header.extractLsb' 9 23 = 0 ∧
        (header.getLsbD 8 = true ∨ k.val = 5 → q.done = q.rd) ∧ starter k.val w1 q bs = (.ok complete, w2) := by
  have h : ∀ k : Fin 6, let s := serving [queue] (packetBytes k.val)
      ∃ complete, queue.mayRead = true ∧ s.owesGangs queue.num = false ∧
        let out := (s.showHqs 0 0x10400 64).hqsRead 0 0x10400 64
        out = (some (packetBytes k.val, false), out.2) ∧
        starter k.val out.2 queue (packetBytes k.val) = (.ok complete, (starter k.val out.2 queue (packetBytes k.val)).2) ∧
        (BitVec.ofNat 64 (fieldOf (packetBytes k.val) 0 8)).extractLsb' 0 8 = BitVec.ofNat 8 k.val ∧
        (BitVec.ofNat 64 (fieldOf (packetBytes k.val) 0 8)).extractLsb' 9 23 = 0 := by decide +kernel
  intro k
  obtain ⟨c, h1, h2, h3, h4, h5, h6⟩ := h k
  exact ⟨serving [queue] (packetBytes k.val), queue, packetBytes k.val, _, _, c, rfl, h1, rfl, h2, h3, rfl, h5, h6,
    fun _ => rfl, h4⟩

theorem test_meets_starts :
    (∃ bs : List Byte, fieldOf bs 8 56 = 0) ∧
    ∃ (s : State) (q : Queue) (bs : List Byte), launchReserved bs = false ∧ s.launchBad (launchOf q bs) = false ∧
      s.groupImpossible (launchOf q bs) = false :=
  ⟨⟨packetBytes 0, by decide +kernel⟩, serving [queue] [], queue, packetBytes 1, by decide +kernel⟩

/-- The launch of one gang. -/
def oneGang : Launch := launchOf queue (packetBytes 1)

/-- A multi-device launch that starts at tick 2000. -/
def later : Launch := { oneGang with mdev := true, grp := true, tick := 2000, tag := 7 }

theorem test_meets_queue_events :
    let known (s : State) (q : Queue) : Prop := s.queue? q.num = some q
    (∃ (s : State) (q : Queue) (db : Word) (w : State), known s q ∧ q.db.toNat < db.toNat ∧ s.descWrite q 0x20 db = (true, w)) ∧
    (∃ (s : State) (q : Queue) (p : Started) (w : State), known s q ∧ q.started = [p] ∧ p.complete = false ∧
      s.packetDone q p = (some true, w)) ∧
    (∃ (s : State) (q : Queue) (k : Nat), known s q ∧ q.slot = none ∧ s.hasWork q = true ∧
      (∀ r ∈ s.queues, r.slot ≠ none → s.staysBound r = true) ∧ k < 64 ∧ (∀ r ∈ s.queues, r.slot ≠ some k) ∧
      ∀ j, j < k → ∃ r ∈ s.queues, r.slot = some j) ∧
    (∃ (s : State) (q v : Queue) (k : Nat), known s q ∧ q.slot = none ∧ s.hasWork q = true ∧
      (∀ r ∈ s.queues, r.slot ≠ none → s.staysBound r = true) ∧ (∀ k, k < 64 → ∃ r ∈ s.queues, r.slot = some k) ∧
      s.displaced q = some v ∧ v.slot = some k) ∧
    (∃ (s : State) (q : Queue), known s q ∧ q.slot ≠ none ∧ q.sliceOver = false ∧
      q.boundAt + q.slice.toNat * 1000 ≤ s.tick.toNat) ∧
    (∃ (s : State) (q : Queue), known s q ∧ q.slot = none ∧ s.hasWork q = true ∧ q.prio.toNat + q.raised < 3 ∧
      q.waitFrom + 8 * (q.slice.toNat * 1000) * (q.raised + 1) ≤ s.tick.toNat) ∧
    (∃ (s : State) (q : Queue) (l : Launch) (w : State), known s q ∧ s.thermal.stopped = false ∧ s.placingQueues = [q] ∧
      s.nextLaunch q.num = some l ∧ s.tooLate l = false ∧ s.placeLaunch l = some w) ∧
    (∃ (s : State) (gr : Group) (at_ : Word), s.group? gr.uid = some gr ∧ gr.startAt = some at_ ∧ at_.toNat ≤ s.tick.toNat ∧
      s.inBound = true) ∧
    (∃ (s : State) (q : Queue) (l : Launch), known s q ∧ l.queue = q.num ∧ l ∈ s.launches ∧ s.unstarted l = true ∧
      l.isPlaced = true ∧ s.misleveled l = true ∧
      (s.launches.find? fun m => s.unstarted m && m.tag == 7 && m.tick == 2000) = some l) ∧
    ∃ (s : State) (q : Queue) (l : Launch), known s q ∧ s.missing q.num = some l ∧ s.misleveled l = false ∧
      (s.launches.find? fun m => s.unstarted m && m.tag == 7 && m.tick == 2000) = some l := by
  let free := { queue with slot := none }
  let high := { free with prio := 3 }
  let packed : State := serving (high :: (List.range 64).map fun k => { queue with num := k, slot := some k }) []
  let p : Started := { index := 0, kind := 1, bytes := packetBytes 1, complete := false }
  let launched (l : Launch) : State := { serving [queue] [] with launches := [l] }
  let w : State := ((launched oneGang).placeLaunch oneGang).getD State.reset
  let other : State := { ((launched later).placeLaunch later).getD State.reset with startReports := [(7, 2000, 2, false)] }
  let g : Group :=
    { uid := 7, members := [1], total := 1, gen := 0, abandoned := false, barStatus := 0, tag := 0, startAt := some 2000
      mdev := true, tick := 2000, told := none, remote := [], away := 0, out := false }
  refine ⟨⟨serving [queue] [], queue, 2, ((serving [queue] []).descWrite queue 0x20 2).2, rfl, by decide, by decide +kernel⟩,
    ⟨{ launched { oneGang with dissolved := 1 } with queues := [{ queue with started := [p] }] }, { queue with started := [p] },
      p, _, rfl, rfl, rfl, rfl⟩,
    ⟨serving [free, { queue with num := 0, slot := some 0 }] [], free, 1, rfl, rfl, by decide +kernel, by decide +kernel,
      by decide, by decide +kernel, by decide +kernel⟩,
    ⟨packed, high, { queue with num := 0, slot := some 0 }, 0, rfl, rfl, by decide +kernel, by decide +kernel,
      by decide +kernel, by decide +kernel, rfl⟩,
    ⟨{ serving [queue] [] with tick := 1000 }, queue, rfl, by decide, rfl, by decide +kernel⟩,
    ⟨{ serving [free] [] with tick := 8000 }, free, rfl, rfl, by decide +kernel⟩,
    ⟨launched oneGang, queue, oneGang, w, rfl, rfl, by decide +kernel, by decide +kernel, by decide +kernel, by decide +kernel⟩,
    ⟨{ serving [queue] [] with groups := [g], tick := 2000 }, g, 2000, rfl, rfl, by decide +kernel⟩,
    ⟨other, queue, other.launches.headD later, by decide +kernel⟩,
    ⟨{ launched later with tick := 1000 }, queue, later, rfl, by decide +kernel⟩⟩

/-! ## Premises: management -/

/-- A pair whose first half is known. -/
theorem pair_eq {α β : Type} {p : α × β} {a : α} (h : p.1 = a) : p = (a, p.2) := by rw [← h]

/-- A descriptor of a queue or fault queue whose ring starts at an address. -/
def ringRecord (ring word : Nat) : List Byte := bytesOf 8 ring ++ bytesOf 8 word ++ bytesOf 16 0 ++ bytesOf 8 0x12000 ++ bytesOf 24 0

/-- An open job of the tests' queue. -/
def job : Job := { queue := 16383, debug := false, upd := false, chk := false, level := some 0, openAt := 0 }

/-- A queue that has nothing to do. -/
def drained : Queue := { queue with done := 1, rd := 1 }

theorem test_meets_queue_requests :
    (∀ flaw : Bool, ∃ (s : State) (bs : List Byte) (w : State), s.bringup = 7 ∧ s.queue? 16383 = none ∧
      s.hqsRead 0 0x10400 64 = (some (bs, false), w) ∧ w.queueFlaw 0 bs = flaw) ∧
    (∃ (s : State) (q : Queue), s.bringup = 7 ∧ s.queue? 16383 = some q ∧ q.halt = false ∧ q.db.toNat ≤ q.rd.toNat ∧ q.started = [] ∧
      ∀ j ∈ s.jobs, j.queue ≠ 16383) ∧
    ∃ (s : State) (q : Queue) (j : Job) (db : Word) (w0 : State) (bs : List Byte) (w1 w2 : State), s.bringup = 7 ∧
      s.queue? 16383 = some q ∧ (s.jobs.find? fun j => j.queue == 16383) = some j ∧
      s.hqsWord q.tenant (q.desc + 0x20) = (some db, w0) ∧ max q.db.toNat db.toNat ≤ q.done.toNat ∧ w0.signIndex < 2 ^ 40 ∧
      j.level = some 0 ∧ ({ w0 with jobs := w0.jobs.filter fun k => k.queue != 16383 } : State).hqsRead q.tenant (BitVec.ofNat 64 0x10400) 0 =
        (some (bs, false), w1) ∧
      let record := j.record q 0 w1.tick (shake256 bs) w1.measures
      ({ w1 with signIndex := w1.signIndex + 1 } : State).hqsWrite q.tenant (BitVec.ofNat 64 0x10400)
        (record ++ (List.range 9893).map (Config.signByte w1.signIndex (shake256 record))) = (true, w2) := by
  let s (flaw : Bool) : State := serving [] (ringRecord (if flaw then 0x11000 + 8 else 0x11000) 0x100000006)
  let w : State := { serving [drained] [] with jobs := [job] }
  refine ⟨fun flaw => ⟨s flaw, ringRecord (if flaw then 0x11000 + 8 else 0x11000) 0x100000006, _, rfl, rfl, pair_eq ?_, ?_⟩,
    ⟨serving [drained] [], drained, rfl, rfl, rfl, by decide +kernel⟩,
    ⟨w, drained, job, 0, (w.hqsWord 0 0x10020).2, [], _, _, rfl, rfl, rfl, pair_eq (by decide +kernel), by decide +kernel,
      by decide +kernel, rfl, rfl, pair_eq (by decide +kernel)⟩⟩
  · cases flaw <;> decide +kernel
  · cases flaw <;> decide +kernel

/-- A fault queue with an outstanding entry. -/
def faults : FaultQueue :=
  { desc := 0x10000, ring := 0x11000, log2sz := 6, wr := 1, rd := 0, ackRing := 0x12000, ackDb := 1, ackRd := 0
    badAck := false, ovf := false, broken := false, outstanding := [(0, 2)] }

theorem test_meets_tenant_requests :
    (∃ n : Nat, ¬ (n = 0 ∨ (24 ≤ n ∧ n ≤ 40)) ∧ n = 41) ∧ (∃ n : Nat, n = 0 ∨ (24 ≤ n ∧ n ≤ 40)) ∧
    (∃ (s : State) (bs : List Byte) (w : State), s.bringup = 7 ∧ s.hqsRead 0 0x10400 64 = (some (bs, false), w) ∧
      w.faultQueueFlaw 0 bs = false) ∧
    (∃ (s : State) (q : FaultQueue) (w : State), s.bringup = 7 ∧ (s.tenant 0).queue = some q ∧
      s.hqsWrite 0 (q.desc + 0x18) (bytesOf 8 (1 : Word).toNat) = (true, w)) ∧
    (∃ (s : State) (q : FaultQueue) (w1 w2 : State) (word : Word), s.bringup = 7 ∧ (s.tenant 0).queue = some q ∧
      (s.forceBelow s.pubSeq).acksDue 0 = (some true, w1) ∧
      w1.hqsWord 0 (q.ackRing + BitVec.ofNat 64 (8 * (q.ackRd.toNat % 2 ^ q.log2sz))) = (some word, w2)) ∧
    (∃ s : State, s.bringup = 7 ∧ (s.tenant 0).created = false) ∧ (∃ s : State, s.bringup = 7 ∧ (s.tenant 0).created = true) ∧
    (∃ s : State, s.bringup = 7 ∧ s.functionExists 31 = true) ∧
    (∃ (s : State) (dev : BitVec 10), s.bringup = 7 ∧ dev ≠ s.dev ∧ dev.toNat < 576 ∧ dev.toNat = 575) ∧
    ∃ (s : State) (t : Team) (r : BitVec 6), s.bringup = 7 ∧ s.team? t.id = some t ∧ t.gone = false ∧ (s.tenant (s.tenantOf t)).debug = true ∧
      t.status = .debugStop ∧ t.ld = 0 ∧ t.ap = 0 ∧ t.en = 0 ∧ t.xl = 0 ∧ r.toNat < t.scnt ∧ r.toNat + 1 = t.scnt := by
  let s : State := { serving [] [] with tenants := [{ client with queue := some faults }] }
  let w : State := { s with mem := Memory.writeBytes s.mem 0x10028 (bytesOf 8 1) }
  let t := { inHandler (team 1) with status := .debugStop }
  exact ⟨⟨41, by decide⟩, ⟨40, by decide⟩,
    ⟨serving [] (ringRecord 0x11000 6), ringRecord 0x11000 6, _, rfl, pair_eq (by decide +kernel), by decide +kernel⟩,
    ⟨s, faults, _, rfl, rfl, pair_eq (by decide +kernel)⟩,
    ⟨w, faults, _, _, 0, rfl, rfl, pair_eq (by decide +kernel), pair_eq (by decide +kernel)⟩,
    ⟨{ State.reset with bringup := 7 }, rfl, rfl⟩, ⟨s, rfl, rfl⟩, ⟨{ s with rootPorts := List.replicate 8 (.x4, none) }, rfl,
      by decide +kernel⟩, ⟨s, 575, rfl, by decide +kernel⟩,
    ⟨{ world t with tenants := [{ client with debug := true }] }, t, 63, rfl, rfl, by decide +kernel⟩⟩

/-! ## Premises: host, links and platform -/

/-- A flow from device 1 to this one. -/
def flow : FlowId := { dev := 1, src := 0, dst := 0, cls := 1 }

/-- A flit with a number, which reads one byte. -/
def flit (num : BitVec 32) (authentic : Bool) : Flit :=
  { bytes := flitOf flow num 0 [] 0, sender := 1, port := 35, lane := 4, authentic := authentic, op := .read 0x10400 1 }

/-- An authentic one is good. -/
theorem flit_good (num : BitVec 32) : (flit num true).good = true :=
  good_of_layout flow num 0 [] 0 (by decide) _ rfl rfl

/-- A request that was sent 4000 ticks ago. -/
def sent : Request := { num := 1, port := 0, resends := 16, since := 0, team := none, addr := 0, dead := false }

/-- A brought-up device whose host, root ports and link ports have trained. -/
def linked : State :=
  { serving [] [] with
    hostLink := some 7, rootPorts := List.replicate 8 (.x4, some 7), apertures := [(63, 0, 0x10400)], functions := [(30, 0)]
    ports := [{ Port.fresh 35 with trained := some 3 }] }

theorem test_meets_host : ∃ s : State, 5 ≤ s.bringup ∧ s.hostLink.isSome = true ∧ s.hostMode = .cxl3 ∧
    (∃ (pa : Nat) (bs : List Byte), pa + bs.length ≤ hbmBytes ∧ bs.length = 1 ∧ pa + 1 = hbmBytes) ∧
    (∃ (off : Nat) (bs : List Byte), off + bs.length ≤ ringBytes ∧ off + bs.length = ringBytes ∧ bs ≠ []) ∧
    (∃ (off : Nat) (bs : List Byte), off + bs.length ≤ bar4Bytes ∧ off + bs.length = bar4Bytes ∧ bs ≠ []) ∧
    ∃ (k : BitVec 6) (tenant : BitVec 8) (va : Word) (bs : List Byte) (bad : Bool),
      s.through k (2 ^ 30 - 1) 1 = some (tenant, va) ∧ (s.hqsRead tenant va 1).1 = some (bs, bad) :=
  ⟨{ linked with hostMode := .cxl3, apertures := [(63, 0, 0)] }, by decide, rfl, rfl, ⟨hbmBytes - 1, [0], by decide +kernel⟩,
    ⟨ringBytes - 1, [0], by decide +kernel⟩, ⟨bar4Bytes - 1, [0], by decide +kernel⟩, 63, 0, 2 ^ 30 - 1, [0], false,
    by decide +kernel⟩

theorem test_meets_links :
    (∃ (s : State) (tenant : BitVec 8) (va : Word) (parts : List (Nat × Nat)) (w : State), 5 ≤ s.bringup ∧
      s.functionExists 30 = true ∧ (s.rootPorts[30 / 4]?).any (fun p => p.2.isSome) = true ∧
      (s.functions.find? fun f => f.1 == 30) = some (30, tenant) ∧
      s.translateRange { s.hqsCtx tenant with sys := false } .store va 1 = (.ok parts, w)) ∧
    (∃ s : State, 5 ≤ s.bringup ∧ s.functionExists 31 = true ∧ (s.rootPorts[31 / 4]?).any (fun p => p.2.isSome) = true ∧
      ∀ f ∈ s.functions, f.1 ≠ 31) ∧
    (∃ (s : State) (x : Flit), s.admits x = true ∧ x.good = false) ∧
    (∃ (s : State) (x : Flit), s.admits x = true ∧ x.good = true ∧ x.num = (s.flow x.flow).high + 1 ∧
      (s.flow x.flow).window = []) ∧
    (∃ (s : State) (x : Flit), s.admits x = true ∧ x.good = true ∧ ((s.flow x.flow).high - x.num).toNat < 2 ^ 31 ∧
      ((s.flow x.flow).high - x.num).toNat + 1 = 2 ^ 31) ∧
    (∃ (s : State) (x : Flit), s.admits x = true ∧ x.good = true ∧ 1024 < (x.num - (s.flow x.flow).high).toNat ∧
      (x.num - (s.flow x.flow).high).toNat ≤ 2 ^ 31 ∧ (x.num - (s.flow x.flow).high).toNat = 1025) ∧
    (∃ (s : State) (id : FlowId), (s.flow id).queued = []) ∧
    (∃ (s : State) (r : Request),
      ((s.flow flow).pending.find? fun r => !r.dead && decide (r.since + 4000 ≤ s.tick.toNat)) = some r ∧
        flow.cls = 1 ∧ 16 ≤ r.resends) ∧
    (∀ spare narrow : Bool, ∃ s : State, (s.port 35).down = false ∧ 4 ∉ (s.port 35).retiredLanes ∧
      (s.port 35).worn 4 s.tick.toNat = true ∧ (s.port 35).spareUsed = spare ∧ (s.port 35).narrowed = narrow) ∧
    (∃ (s : State) (dev : BitVec 10) (cls : BitVec 2) (version : BitVec 32) (used : BitVec 64),
      (s.linkKeys.find? fun k => k.1 == dev && k.2.1 == cls) = some (dev, cls, version, used) ∧ 2 ^ 32 ≤ used.toNat ∧
      used.toNat = 2 ^ 32) ∧
    (∃ (s : State) (dev : BitVec 10), 6 ≤ s.bringup ∧ s.inDomain = false ∧ dev.toNat < 576 ∧ s.unused = true ∧
      dev.toNat = 575) ∧
    (∃ s : State, s.inDomain = true ∧ s.inBound = true ∧ s.lastTiming.toNat + 100000 ≤ s.tick.toNat) ∧
    ∃ s : State, s.tick.toNat + 2 < 2 ^ 64 ∧ s.holdBack = 0 := by
  let s := linked
  let p (a b : Bool) : Port := { Port.fresh 35 with spareUsed := a, narrowed := b, arrivals := [(4, 0, true)] }
  let f : Flow := { Flow.fresh flow with pending := [sent] }
  refine ⟨⟨s, 0, 0x10400, [(keyUnder 0 0x10400, 1)], _, by decide, by decide, rfl, rfl, pair_eq (by decide +kernel)⟩,
    ⟨s, by decide, by decide, rfl, by decide⟩, ⟨s, flit 1 false, by decide +kernel, by decide +kernel⟩,
    ⟨s, flit 1 true, by decide +kernel, flit_good 1, by decide +kernel, rfl⟩,
    ⟨s, flit (0 - (2 ^ 31 - 1)) true, by decide +kernel, flit_good _, by decide +kernel⟩,
    ⟨s, flit 1025 true, by decide +kernel, flit_good _, by decide +kernel⟩, ⟨s, flow, rfl⟩,
    ⟨{ s with flows := [f], tick := 4000 }, sent, by decide +kernel⟩,
    fun a b => ⟨{ s with ports := [p a b] }, rfl, by simp [State.port, p, Port.fresh], by cases a <;> cases b <;> decide +kernel,
      rfl, rfl⟩,
    ⟨{ s with linkKeys := [(1, 2, 0, 2 ^ 32)] }, 1, 2, 0, 2 ^ 32, by decide +kernel⟩,
    ⟨{ State.reset with bringup := 6 }, 575, by decide +kernel⟩,
    ⟨{ s with inDomain := true, tick := 100000 }, by decide +kernel⟩, ⟨s, by decide +kernel⟩⟩

/-- A gang of a family with a mismatch between its copies. -/
def disputed (epochs : List Epoch) (copies : List Copy) (f : Family) : State :=
  { State.reset with families := [f], epochs := epochs, copies := copies }

/-- The beginning of the tests' epoch. -/
def epoch (votable : Bool) : Epoch :=
  { family := 0, images := [], values := [], digests := [], votable := votable, faithful := true }

theorem test_meets_third_runs :
    let f : Family := { loadedFamily 0 with mismatch := some (2, 1, 2), shadowCore := some 3 }
    ∃ (team : Nat) (p q x : BitVec 256), f.mismatch = some (team, p, q) ∧ p ≠ q ∧ x ≠ p ∧ x ≠ q ∧
      (∃ s : State, s.family? f.uid = some f ∧ s.votable f.uid = false) ∧
      (∃ s : State, s.family? f.uid = some f ∧ s.votable f.uid = true ∧ s.thirdDigest f.uid team = none) ∧
      ∃ s : State, s.family? f.uid = some f ∧ s.votable f.uid = true ∧ (s.thirdDigest f.uid team).isSome = true := by
  let f : Family := { loadedFamily 0 with mismatch := some (2, 1, 2), shadowCore := some 3 }
  let c : Copy := (world (team 1)).copyOf f true []
  exact ⟨2, 1, 2, 3, rfl, by decide, by decide, by decide, ⟨disputed [epoch false] [] f, rfl, by decide⟩,
    ⟨disputed [epoch true] [] f, rfl, by decide, by decide⟩, disputed [epoch true] [c] f, rfl, by decide, rfl⟩

theorem test_meets_platform :
    (∃ x, sensorExists x = true ∧ x = .die 3 7 ∧ ∀ k, x ≠ .ring k) ∧ sensorExists (.core 191) = true ∧
    (∃ s : State, 1 ≤ s.bringup ∧ 4 ≤ s.bringup) ∧
    (∃ s : State, s.bringup = 0 ∧ s.bringupFailed = false ∧ s.measures.length = 8 ∧ (∃ cfg : BringUp, cfg.failAt = none ∧
      cfg.images = some (List.replicate 8 [])) ∧ ∃ cfg : BringUp, cfg.failAt = some 7) ∧
    (∃ (s : State), (s.core 191).leaving = false ∧ (s.core 191).worn = true) ∧
    (∀ spare : Bool, ∃ (s : State), (s.core 0).leaving = true ∧ s.occupied 0 = false ∧
      (({ s with coresRetired := s.coresRetired ++ [(0, (s.core 0).phys)] } : State).spareFor 0).isSome = spare) ∧
    (∃ (s : State), 95 ∉ s.channelsAsked ∧ 95 ∉ s.channelsRetired ∧ s.rowWorn 95 3 = true ∧ (3, 1) ∉ s.waysRetired ∧
      s.wayWorn 3 1 = true ∧ 31 ∉ s.enginesRetired ∧ 3 ≤ s.repeatsOf 31) ∧ ∃ (s : State), 95 ∈ s.channelsAsked := by
  let c := { Core.fresh 0 with leaving := true }
  let cfg : BringUp := { plainBringUp with failAt := some 7 }
  refine ⟨⟨.die 3 7, by decide, rfl, nofun⟩, by decide, ⟨world (team 1), by decide, by decide⟩,
    ⟨State.reset, rfl, rfl, rfl, ⟨{ plainBringUp with images := some (List.replicate 8 []) }, rfl, rfl⟩, cfg, rfl⟩,
    ⟨{ State.reset with cores := [{ Core.fresh 191 with slow := true }] }, rfl, by decide⟩, fun spare => ?_,
    ⟨{ State.reset with rowErrors := (List.range 4).map fun _ => (95, 3, 0), wayErrors := (List.range 8).map fun _ => (3, 1, 0)
                        engineRepeats := [(31, 3)] }, by decide +kernel⟩,
    ⟨{ State.reset with channelsAsked := [95] }, by decide⟩⟩
  cases spare
  · exact ⟨{ State.reset with cores := [c], coresRetired := (List.range 100).map fun k => (0, 47 + k) }, by decide +kernel⟩
  · exact ⟨{ State.reset with cores := [c] }, by decide +kernel⟩

/-! ## Premises: decoding and stepping -/

theorem test_meets_round_trips : ∃ (i : Instr) (bs : List Byte), i.WellFormed ∧ encode i = some bs ∧
    decodeBytes (bs ++ [7]) = .ok (i, [7]) :=
  ⟨.fmaF32 (.v 2) (.v 1) 3 false 0, [0x03, 0x36, 0x04, 0x04], by decide +kernel⟩

/-- A device on which the word stands where the next step fetches it. -/
def placed (w : Nat) : State := State.reset.withFetchWord 32 w

theorem test_meets_steps_that_keep : ∃ s s' : State, s.Canonical ∧ step s = .next s' := by
  have h : (match step (placed 0x0000007F) with
    | .next _ => true
    | _ => false) = true := by decide +kernel
  refine ⟨placed 0x0000007F, ?_⟩
  cases hs : step (placed 0x0000007F) with
  | next s' => exact ⟨s', of_tidy (by decide +kernel), rfl⟩
  | fault f => simp [hs] at h
  | refused r => simp [hs] at h

theorem test_meets_issue : ∀ bad : Bool, ∃ (s : State) (t : Team) (w : BitVec 32), s.agenda = [] ∧
    s.upsets = [] ∧ s.copies = [] ∧ s.cur.isSome ∧
    s.issuer? = some t ∧ s.mayIssue t = true ∧ s.timedOut t = none ∧ t.switchDue = false ∧ s.quantumOut t = false ∧ t.stopAsked = false ∧
    t.arm.wait ≠ some .register ∧ M.fetch t s = .ok (w, true) s ∧
    (decodeFetched (w.extractLsb' 0 16) (w.extractLsb' 16 16)).isOk = !bad ∧ t.prefetched = [] ∧ s.staged = [] ∧
    s.poison = [] ∧ ∀ pc, pc = t.arm.pc ∨ pc = t.arm.pc + 2 →
      ∃ k b0 b1, s.translateRange (s.teamCtx t) .fetch pc 2 = (.ok [(k, 2)], s) ∧
        Memory.readBytes s.mem (bareKey k) 2 = [b0, b1] ∧ s.behind (s.core t.core).seen (granulesOf (bareKey k) 2) = false ∧
        ∀ g ∈ granulesOf (bareKey k) 2, (s.holder g).opens (tenantOfKey k) = true := by
  have h : ∀ bad : Bool, let w : BitVec 32 := if bad then 0x01400003 else 0x0000007F
      let s : State := { world (team 1) with mem := Memory.writeBytes [] 0x10000 (bytesOf 4 w.toNat) }
      let at_ (off : Nat) : Prop := s.translateRange (s.teamCtx (team 1)) .fetch (0x10000 + BitVec.ofNat 64 off) 2 =
          (.ok [(0x10000 + off, 2)], s) ∧
        (∀ g ∈ granulesOf (bareKey (0x10000 + off)) 2,
          (s.holder g).opens (tenantOfKey (0x10000 + off)) = true) ∧
        s.behind (s.core 0).seen (granulesOf (bareKey (0x10000 + off)) 2) = false
      s.mayIssue (team 1) = true ∧ s.quantumOut (team 1) = false ∧ s.timedOut (team 1) = none ∧
        gives (M.fetch (team 1) s) (w, true) s ∧
        (decodeFetched (w.extractLsb' 0 16) (w.extractLsb' 16 16)).isOk = !bad ∧ at_ 0 ∧ at_ 2 := by decide +kernel
  intro bad
  obtain ⟨h1, h2, h0, h3, h4, h5, h6⟩ := h bad
  refine ⟨_, team 1, _, rfl, rfl, rfl, rfl, issuer_of rfl rfl rfl, h1, h0, rfl, h2, rfl, by decide, of_gives h3, h4, rfl, rfl,
    rfl, ?_⟩
  rintro pc (rfl | rfl)
  · exact ⟨_, _, _, h5.1, rfl, h5.2.2, h5.2.1⟩
  · exact ⟨_, _, _, h6.1, rfl, h6.2.2, h6.2.1⟩

theorem test_meets_agenda : ∃ (s : State) (e : Instr) (es : List Instr), s.agenda = e :: es :=
  ⟨{ State.reset with agenda := [.powerLoss] }, .powerLoss, [], rfl⟩

/-! ## Errors of the hardware (log 63) -/

/-- A team whose next instruction reads an uncorrectable v3 halts (R405). -/
theorem test_register_error_halts :
    let s := next (step { placed 0xE80C3119 with upsets := [.register 3] })
    s.teams = [] ∧ s.upsets = [] := by decide +kernel

/-- A register that the instruction does not read is no matter to it. -/
theorem test_register_error_waits :
    let s := next (step { placed 0xE80C3119 with upsets := [.register 9] })
    (s.teams.head?.map fun t => t.retired) = some 1 ∧ s.upsets = [.register 9] := by decide +kernel

/-- A granule that an uncorrectable error meets is poisoned, and a turn in progress waits for a step (R115). -/
theorem test_granule_error_poisons :
    (next (step { placed 0xE80C3119 with upsets := [.granule 0x4007] })).poison = [0x4000] := by decide +kernel

/-- A corrected mismatch of a checked-mode pair is counted against the core (R408, R411). -/
theorem test_pair_error_is_counted :
    let p := placed 0xE80C3119
    let s := next (step { p with upsets := [.pair false], gangs := p.gangs.map fun g => { g with checked := true } })
    (s.core 0).corrected = [0] ∧ (s.machineEvents.map fun e => e.event) = [1] ∧
      (s.teams.head?.map fun t => t.retired) = some 1 := by decide +kernel

end Sys2Proof.Tests
end

/-!
The divergence stack as `rcv` and `pause` move it (R37, R38): what the running arm of the top entry is and becomes, when
an entry pops, when issue passes to the other arm, and what these two instructions leave of the issuing team's record.
-/

namespace Sys2Proof.Machine

/-! ## Steps that change the issuing team's record alone -/

/-- Two changes of one team are one change. -/
theorem State.modTeam_modTeam (s : State) (id : Nat) (f g : Team → Team) (hf : ∀ u, (f u).id = u.id) :
    (s.modTeam id f).modTeam id g = s.modTeam id fun u => g (f u) := by
  have change (u : Team) : (if (if u.id == id then f u else u).id == id then g (if u.id == id then f u else u)
      else if u.id == id then f u else u) = if u.id == id then g (f u) else u := by
    by_cases h : u.id = id <;> simp [h, hf]
  simp only [State.modTeam, List.map_map]
  congr 2
  exact funext change

/-- An instruction that comes to a change of the issuing team's record does nothing else. -/
theorem State.teamStep_of_exec {s : State} {t : Team} {i : Instr} (f : Team → Team) (hi : s.issuer? = some t)
    (hf : ∀ u, (f u).id = u.id) (he : exec i s = .next (s.modTeam t.id f)) : s.TeamStep t i (f t) := by
  refine ⟨s.modTeam t.id f, he, ?_, fun k hk => s.team?_modTeam_ne t.id k f hf hk, rfl⟩
  rw [s.team?_modTeam t.id f hf, s.team?_of_issuer t hi]
  rfl

/-- An instruction whose body does nothing moves the path behind it. -/
theorem State.teamStep_of_next {s : State} {t : Team} {i : Instr} {body : Team → M Done} (hi : s.issuer? = some t)
    (hx : exec i s = issue 4 body s) (hb : body t s = .ok .next s) :
    s.TeamStep t i (t.goesTo (t.arm.pc + 4) s.tick.toNat) := by
  refine State.teamStep_of_exec (fun u => (u.moveTo (t.arm.pc + 4)).countRetired (!t.isSystem) s.tick.toNat) hi
    (by simp) ?_
  rw [hx, issue_ok hi hb, State.retire_next]
  rfl

/-- The team with an instruction counted that `t` issued, on the retire timer of the path that `t` ran. -/
def Team.countedFor (u t : Team) (tick : Nat) : Team :=
  { u.restartRetire t.handling tick with
    retired := if !t.isSystem then u.retired + 1 else u.retired, issued := u.issued + 1 }

@[simp] theorem Team.countedFor_id (u t : Team) (tick : Nat) : (u.countedFor t tick).id = u.id := by
  unfold Team.countedFor Team.restartRetire
  cases t.handling <;> rfl

/-- A team that runs the path it ran as it issued counts the instruction as one of its own. -/
theorem Team.countedFor_of_handling {u t : Team} (h : u.handling = t.handling) (tick : Nat) :
    u.countedFor t tick = u.countRetired (!t.isSystem) tick := by
  unfold Team.countedFor Team.countRetired
  rw [h]

/-- Retiring an instruction that has moved its path itself counts it and no more. -/
theorem State.retire_moved (s : State) (t : Team) (len : Nat) :
    s.retire t len .moved = s.modTeam t.id fun u => u.countedFor t s.tick.toNat := rfl

/-- A body that changes a team and moves its path goes on with the changed team. -/
theorem M.modTeam_moved (id : Nat) (f : Team → Team) (s : State) :
    (M.modTeam id f >>= fun _ => pure Done.moved) s = .ok .moved (s.modTeam id f) := rfl

/-- An instruction whose body changes the issuing team and moves its path leaves what the body makes of the team, with
the instruction counted. -/
theorem State.teamStep_of_moved {s : State} {t : Team} {i : Instr} {body : Team → M Done} {f : Team → Team}
    (hi : s.issuer? = some t) (hx : exec i s = issue 4 body s) (hb : body t s = .ok .moved (s.modTeam t.id f))
    (hf : ∀ u, (f u).id = u.id) (hh : (f t).handling = t.handling) :
    s.TeamStep t i ((f t).countRetired (!t.isSystem) s.tick.toNat) := by
  rw [← Team.countedFor_of_handling hh]
  refine State.teamStep_of_exec (fun u => (f u).countedFor t s.tick.toNat) hi (by simp [hf]) ?_
  rw [hx, issue_ok hi hb, State.retire_moved, State.modTeam_modTeam s t.id f _ hf]
  rfl

/-! ## The two arms of an entry -/

@[simp] theorem Entry.running_setRunning (e : Entry) (a : Arm) : (e.setRunning a).running = a := by
  unfold Entry.setRunning Entry.running
  cases e.sel <;> rfl

@[simp] theorem Entry.other_setRunning (e : Entry) (a : Arm) : (e.setRunning a).other = e.other := by
  unfold Entry.setRunning Entry.other
  cases e.sel <;> rfl

@[simp] theorem Entry.sel_setRunning (e : Entry) (a : Arm) : (e.setRunning a).sel = e.sel := by
  unfold Entry.setRunning
  cases e.sel <;> rfl

@[simp] theorem Entry.join_setRunning (e : Entry) (a : Arm) : (e.setRunning a).join = e.join := by
  unfold Entry.setRunning
  cases e.sel <;> rfl

/-- Once issue has passed, the arm that was waiting runs. -/
theorem Entry.running_flipped (e : Entry) : ({ e with sel := !e.sel } : Entry).running = e.other := by
  unfold Entry.running Entry.other
  cases e.sel <;> rfl

/-- An entry once issue has passed to its other arm, with a fresh quantum. -/
def Entry.turned (e : Entry) (quantum : Nat) : Entry :=
  ({ e with sel := !e.sel } : Entry).setRunning { e.other with quantum := quantum }

/-- The arm that ran is left behind as it was made before issue passed. -/
theorem Entry.turned_setRunning (e : Entry) (a : Arm) (quantum : Nat) :
    (e.setRunning a).turned quantum =
      ({ e.setRunning a with sel := !e.sel } : Entry).setRunning { e.other with quantum := quantum } := by
  simp [Entry.turned]

/-- Both arms have arrived when the running one and the other have. -/
theorem Entry.arrived_arms (e : Entry) :
    (e.arm0.isArrived && e.arm1.isArrived) = (e.running.isArrived && e.other.isArrived) := by
  unfold Entry.running Entry.other
  cases e.sel
  · rfl
  · exact Bool.and_comm ..

/-- The lanes of an entry stay the same while those of its running arm do. -/
theorem Entry.lanes_setRunning (e : Entry) (a : Arm) (ha : a.mask = e.running.mask) :
    (e.setRunning a).arm0.mask ||| (e.setRunning a).arm1.mask = e.arm0.mask ||| e.arm1.mask := by
  revert ha
  unfold Entry.setRunning Entry.running
  cases e.sel
  · exact fun ha => congrArg (· ||| e.arm1.mask) ha
  · exact fun ha => congrArg (e.arm0.mask ||| ·) ha

/-! ## The path that issues -/

@[simp] theorem Team.setArm_id (t : Team) (a : Arm) : (t.setArm a).id = t.id := by
  unfold Team.setArm
  split
  · rfl
  · split <;> rfl

@[simp] theorem Team.handling_setArm (t : Team) (a : Arm) : (t.setArm a).handling = t.handling := by
  unfold Team.setArm
  split
  · rfl
  · split <;> rfl

@[simp] theorem Team.handling_moveTo (t : Team) (pc : Word) : (t.moveTo pc).handling = t.handling :=
  t.handling_setArm _

/-- Outside a handler the running arm of the top entry issues (R35). -/
theorem Team.arm_of_top {t : Team} {e : Entry} {es : List Entry} (hs : t.stack = e :: es) (hh : t.handling = false) :
    t.arm = e.running := by
  unfold Team.handling at hh
  unfold Team.arm
  split at hh
  · cases hh
  · simp only [hs]
    rfl

/-- Outside a handler the arm that is replaced is the running one of the top entry. -/
theorem Team.setArm_of_top {t : Team} {e : Entry} {es : List Entry} (hs : t.stack = e :: es)
    (hh : t.handling = false) (a : Arm) : t.setArm a = { t with stack := e.setRunning a :: es } := by
  unfold Team.handling at hh
  unfold Team.setArm
  split at hh
  · cases hh
  · simp only [hs]
    rfl

/-! ## Passing issue and popping -/

@[simp] theorem Team.passIssue_id (t : Team) : t.passIssue.id = t.id := by
  unfold Team.passIssue
  split <;> rfl

@[simp] theorem Team.handling_passIssue (t : Team) : t.passIssue.handling = t.handling := by
  unfold Team.passIssue
  split <;> rfl

@[simp] theorem Team.collapse_id (t : Team) (tick : Nat) : (t.collapse tick).id = t.id := rfl

@[simp] theorem Team.handling_collapse (t : Team) (tick : Nat) : (t.collapse tick).handling = t.handling := rfl

@[simp] theorem Team.arrivalSwitch_id (t : Team) (level : Nat) : (t.arrivalSwitch level).id = t.id := by
  unfold Team.arrivalSwitch
  split
  · rfl
  · split
    · split
      · rfl
      · exact t.passIssue_id
    · rfl

@[simp] theorem Team.handling_arrivalSwitch (t : Team) (level : Nat) : (t.arrivalSwitch level).handling = t.handling := by
  unfold Team.arrivalSwitch
  split
  · rfl
  · split
    · split
      · rfl
      · exact t.handling_passIssue
    · rfl

/-- Issue passes to an arm that has not arrived, with a fresh quantum (R38, log 17). -/
theorem Team.passIssue_of_other {t : Team} {e : Entry} {es : List Entry} (hs : t.stack = e :: es)
    (ho : e.other.isArrived = false) :
    t.passIssue = { t with stack := e.turned t.quant :: es } := by
  simp [Team.passIssue, hs, ho, Entry.turned, e.running_flipped]

/-- Below level 2 issue passes at once when the running arm has arrived. -/
theorem Team.arrivalSwitch_of_arrived {t : Team} {e : Entry} {es : List Entry} {level : Nat} (hs : t.stack = e :: es)
    (ha : e.running.isArrived = true) (hl : level < 2) : t.arrivalSwitch level = t.passIssue := by
  simp [Team.arrivalSwitch, hs, ha, hl]

/-- Without an entry no issue passes. -/
theorem Team.arrivalSwitch_undivided {t : Team} {level : Nat} (hs : t.stack = []) : t.arrivalSwitch level = t := by
  simp only [Team.arrivalSwitch, hs]

/-- Nothing pops while an arm of the top entry has not arrived. -/
theorem Team.collapse_of_other {t : Team} {e : Entry} {es : List Entry} (hs : t.stack = e :: es)
    (ho : e.other.isArrived = false) (tick : Nat) : t.collapse tick = t := by
  have stays : Machine.collapse none t.stack t.path = (t.stack, t.path, false) := by
    simp [hs, Machine.collapse, e.arrived_arms, ho]
  simp [Team.collapse, stays]

/-- The only entry pops when both its arms have arrived: the path goes on behind the join with the lanes of both (R37). -/
theorem Team.collapse_last {t : Team} {e : Entry} (hs : t.stack = [e]) (ha : e.running.isArrived = true)
    (ho : e.other.isArrived = true) (tick : Nat) :
    t.collapse tick = { t with stack := [], path := t.path.resume e.popped false, starveAt := tick } := by
  have pops : Machine.collapse none t.stack t.path = ([], t.path.resume e.popped false, true) := by
    simp [hs, Machine.collapse, e.arrived_arms, ha, ho]
  simp [Team.collapse, pops]

/-! ## `rcv` (R37) -/

/-- The arm as it arrives. -/
def Arm.arriving (a : Arm) : Arm := { a with arrived := true, wait := none, prog := .none }

@[simp] theorem Arm.isArrived_arriving (a : Arm) : a.arriving.isArrived = true := rfl

/-- The team after its running arm has arrived at the join. -/
def Team.arriving (t : Team) (tick level : Nat) : Team :=
  ((t.setArm t.arm.arriving).collapse tick).arrivalSwitch level

@[simp] theorem Team.arriving_id (t : Team) (tick level : Nat) : (t.arriving tick level).id = t.id := by
  simp [Team.arriving]

@[simp] theorem Team.handling_arriving (t : Team) (tick level : Nat) :
    (t.arriving tick level).handling = t.handling := by
  simp [Team.arriving]

/-- In a handler, outside any divergence and away from the join, `rcv` does nothing. -/
theorem arrive_away {t : Team} (s : State)
    (h : t.handling = true ∨ t.stack = [] ∨ ∃ e es, t.stack = e :: es ∧ e.join ≠ t.arm.pc) :
    arrive t s = .ok .next s := by
  unfold arrive
  rcases h with hh | hs | ⟨e, es, hs, hj⟩
  · rw [hh]
    rfl
  · rw [hs]
    cases t.handling <;> rfl
  · rw [hs]
    cases t.handling
    · simp [hj]
    · rfl

/-- At the join the arm arrives. -/
theorem arrive_atJoin {t : Team} {e : Entry} {es : List Entry} (s : State) (hs : t.stack = e :: es)
    (hh : t.handling = false) (hj : e.join = t.arm.pc) :
    arrive t s = .ok .moved (s.modTeam t.id fun u => u.arriving s.tick.toNat (s.levelOf t)) := by
  simp only [arrive, hh, hs, hj, beq_self_eq_true, if_true]
  rw [M.bind_ok (M.get_run s), M.modTeam_moved]
  rfl

/-- The first arm to arrive lets the other issue. -/
theorem Team.arriving_first {t : Team} {e : Entry} {es : List Entry} {level : Nat} (hs : t.stack = e :: es)
    (hh : t.handling = false) (ho : e.other.isArrived = false) (hl : level < 2) (tick : Nat) :
    t.arriving tick level = { t with stack := (e.setRunning e.running.arriving).turned t.quant :: es } := by
  have other : (e.setRunning e.running.arriving).other.isArrived = false := by simpa using ho
  unfold Team.arriving
  rw [Team.arm_of_top hs hh, Team.setArm_of_top hs hh, Team.collapse_of_other rfl other,
    Team.arrivalSwitch_of_arrived rfl (by simp) hl, Team.passIssue_of_other rfl other]
  rfl

/-- With the second arm the only entry pops. -/
theorem Team.arriving_second {t : Team} {e : Entry} (hs : t.stack = [e]) (hh : t.handling = false)
    (ho : e.other.isArrived = true) (tick level : Nat) :
    t.arriving tick level = { t with
      stack := [], path := t.path.resume (e.setRunning e.running.arriving).popped false, starveAt := tick } := by
  unfold Team.arriving
  rw [Team.arm_of_top hs hh, Team.setArm_of_top hs hh, Team.collapse_last rfl (by simp) (by simpa using ho),
    Team.arrivalSwitch_undivided rfl]

/-- The path below a popped entry goes on behind the join with the lanes of both arms. -/
theorem Arm.resume_arriving (a : Arm) (e : Entry) :
    a.resume (e.setRunning e.running.arriving).popped false = { a with
      pc := e.join + 4, mask := e.arm0.mask ||| e.arm1.mask, arrived := false, wait := none, prog := .none } := by
  simp [Arm.resume, Entry.popped, e.lanes_setRunning e.running.arriving rfl]

/-! ## `pause` (R38) -/

/-- In a handler and outside any divergence `pause` only moves the path behind it. -/
theorem yieldArm_undivided {t : Team} (s : State) (h : t.handling = true ∨ t.stack = []) :
    yieldArm t s = .ok .moved (s.modTeam t.id fun u => u.moveTo (t.arm.pc + 4)) := by
  have undivided : (t.handling || t.stack.isEmpty) = true := by simpa using h
  unfold yieldArm
  rw [M.bind_ok (M.get_run s), M.modTeam_moved]
  simp only [undivided, if_true]

/-- Inside a divergence, below level 2, it passes issue as well. -/
theorem yieldArm_divided {t : Team} {e : Entry} {es : List Entry} (s : State) (hs : t.stack = e :: es)
    (hh : t.handling = false) (hl : s.levelOf t < 2) :
    yieldArm t s = .ok .moved (s.modTeam t.id fun u => (u.moveTo (t.arm.pc + 4)).passIssue) := by
  have divided : (t.handling || t.stack.isEmpty) = false := by simp [hh, hs]
  unfold yieldArm
  rw [M.bind_ok (M.get_run s), M.modTeam_moved]
  simp only [divided, Nat.not_le.mpr hl, if_false, Bool.false_eq_true]

/-- The arm that pauses goes on behind the `pause` when issue comes back to it. -/
theorem Team.passIssue_moveTo {t : Team} {e : Entry} {es : List Entry} (hs : t.stack = e :: es)
    (hh : t.handling = false) (ho : e.other.isArrived = false) (pc : Word) :
    (t.moveTo pc).passIssue = { t with
      stack := (e.setRunning { e.running with pc := pc, wait := none, prog := .none }).turned t.quant :: es } := by
  unfold Team.moveTo
  rw [Team.arm_of_top hs hh, Team.setArm_of_top hs hh, Team.passIssue_of_other rfl (by simpa using ho)]
  rfl

/-! ## The obligation -/

/-- Settles O16: an instruction changes the issuing team alone (`State.teamStep_of_moved`); the other arm decides whether
issue passes to it (`Team.passIssue_of_other`) or the entry pops (`Team.collapse_last`). That `pause` passes issue to any
arm that has not arrived is the model's choice of log 17. -/
theorem reconvergenceAndArmSwitches : Obligations.ReconvergenceAndArmSwitches := by
  unfold Obligations.ReconvergenceAndArmSwitches
  intro s t hi
  refine ⟨fun away => State.teamStep_of_next hi rfl (arrive_away s away), fun undivided => ?undivided,
    fun e es hs hh hl => ⟨fun ho => ?pause, fun hj ho => ?first, fun hj ho hes => ?second⟩⟩
  case undivided =>
    exact State.teamStep_of_moved hi rfl (yieldArm_undivided s undivided) (by simp) (by simp)
  case pause =>
    have step : s.TeamStep t .pause _ :=
      State.teamStep_of_moved hi rfl (yieldArm_divided s hs hh hl) (by simp) (by simp)
    rw [Team.passIssue_moveTo hs hh ho, Entry.turned_setRunning] at step
    exact step
  case first =>
    have step : s.TeamStep t .rcv _ :=
      State.teamStep_of_moved hi rfl (arrive_atJoin s hs hh hj) (by simp) (by simp)
    rw [Team.arriving_first hs hh ho hl, Entry.turned_setRunning] at step
    rw [Team.arm_of_top hs hh]
    exact step
  case second =>
    have step : s.TeamStep t .rcv _ :=
      State.teamStep_of_moved hi rfl (arrive_atJoin s hs hh hj) (by simp) (by simp)
    subst hes
    rw [Team.arriving_second hs hh ho, Arm.resume_arriving] at step
    exact step

end Sys2Proof.Machine

/-!
The registers of a view (R49, R53, R58, R64, R298): what is read after a scalar, vector or mask register is written and
what the write leaves, how a result is merged with the old register, and the bits of masks and their words (R23, R166).
-/

namespace Sys2Proof.Machine

/-! ## Reading one place of a register file after a write -/

/-- A place read with a default is the place, if there is one. -/
theorem getD_eq_getElem? {α : Type} {n : Nat} (xs : Vector α n) (i : Nat) (d : α) : xs.getD i d = xs[i]?.getD d := by
  obtain ⟨array, rfl⟩ := xs
  exact Array.getD_eq_getD_getElem?

/-- The place written reads back. -/
theorem getD_setIfInBounds_self {α : Type} {n i : Nat} (xs : Vector α n) (x d : α) (hi : i < n) :
    (xs.setIfInBounds i x).getD i d = x := by
  rw [getD_eq_getElem?, Vector.getElem?_setIfInBounds_self_of_lt hi]
  rfl

/-- Every other place reads as before. -/
theorem getD_setIfInBounds_ne {α : Type} {n i j : Nat} (xs : Vector α n) (x d : α) (hij : i ≠ j) :
    (xs.setIfInBounds i x).getD j d = xs.getD j d := by
  rw [getD_eq_getElem?, getD_eq_getElem?, Vector.getElem?_setIfInBounds_ne hij]

/-! ## The names of registers (R298) -/

/-- Without KSW no scalar number names the trap bank. -/
theorem View.namesK_of_ksw {v : View} (h : v.team.ksw = false) (r : BitVec 6) : v.namesK r = false := by
  simp [View.namesK, h]

/-- With KSW the scalar numbers from 48 name the trap bank. -/
theorem View.namesK_of_le {v : View} (h : v.team.ksw = true) {r : BitVec 6} (hr : 48 ≤ r.toNat) : v.namesK r = true := by
  simp [View.namesK, h, hr]

/-- A scalar number that names the trap bank is at least 48. -/
theorem View.le_of_namesK {v : View} {r : BitVec 6} (h : v.namesK r = true) : 48 ≤ r.toNat := by
  simp only [View.namesK, Bool.and_eq_true, decide_eq_true_eq] at h
  exact h.2

/-- Without KSW no vector number names the trap bank. -/
theorem View.namesKv_of_ksw {v : View} (h : v.team.ksw = false) (r : BitVec 6) : v.namesKv r = false := by
  simp [View.namesKv, h]

/-- A vector number that names the trap bank is at least 60. -/
theorem View.le_of_namesKv {v : View} {r : BitVec 6} (h : v.namesKv r = true) : 60 ≤ r.toNat := by
  simp only [View.namesKv, Bool.and_eq_true, decide_eq_true_eq] at h
  exact h.2

/-! ## Scalar writes (R49) -/

/-- A scalar number that names the trap bank writes there. -/
theorem View.setS_bank {v : View} {r : BitVec 6} (h : v.namesK r = true) (x : Word) :
    v.setS r x = { v with k := v.k.setIfInBounds (r.toNat - 48) x } := if_pos h

/-- Any other scalar number writes the team's own register. -/
theorem View.setS_own {v : View} {r : BitVec 6} (h : v.namesK r = false) (x : Word) :
    v.setS r x = { v with team := { v.team with s := v.team.s.setIfInBounds r.toNat x } } :=
  if_neg (by simp [h])

/-- A scalar write leaves what each scalar number names. -/
@[simp] theorem View.namesK_setS (v : View) (r q : BitVec 6) (x : Word) : (v.setS r x).namesK q = v.namesK q := by
  unfold View.setS
  split <;> rfl

@[simp] theorem View.vreg_setS (v : View) (r q : BitVec 6) (x : Word) : (v.setS r x).vreg q = v.vreg q := by
  unfold View.setS
  split <;> rfl

@[simp] theorem View.mask_setS (v : View) (r : BitVec 6) (x : Word) (m : BitVec 3) : (v.setS r x).mask m = v.mask m := by
  unfold View.setS
  split <;> rfl

@[simp] theorem View.latches_setS (v : View) (r : BitVec 6) (x : Word) : (v.setS r x).latches = v.latches := by
  unfold View.setS
  split <;> rfl

@[simp] theorem View.team_id_setS (v : View) (r : BitVec 6) (x : Word) : (v.setS r x).team.id = v.team.id := by
  unfold View.setS
  split <;> rfl

@[simp] theorem View.team_core_setS (v : View) (r : BitVec 6) (x : Word) : (v.setS r x).team.core = v.team.core := by
  unfold View.setS
  split <;> rfl

/-- The place in the trap bank that a scalar number leads to holds what is written under it. -/
theorem View.bank_setS {v : View} {r : BitVec 6} (h : v.namesK r = true) (x : Word) :
    (v.setS r x).k[r.toNat - 48]? = some x := by
  have inBank : r.toNat - 48 < 16 := by have := r.isLt; omega
  rw [View.setS_bank h]
  exact Vector.getElem?_setIfInBounds_self_of_lt inBank

/-- A scalar reads back under the number it was written under. -/
theorem View.scalar_setS_self (v : View) (r : BitVec 6) (x : Word) : (v.setS r x).scalar r = x := by
  rw [View.scalar, View.namesK_setS]
  cases h : v.namesK r with
  | true =>
    have inBank : r.toNat - 48 < 16 := by have := r.isLt; omega
    rw [View.setS_bank h]
    exact getD_setIfInBounds_self v.k x 0 inBank
  | false =>
    rw [View.setS_own h]
    exact getD_setIfInBounds_self v.team.s x 0 r.isLt

/-- Under every other number the old scalar is read. -/
theorem View.scalar_setS_ne (v : View) {r q : BitVec 6} (x : Word) (hqr : q ≠ r) :
    (v.setS r x).scalar q = v.scalar q := by
  have apart : r.toNat ≠ q.toNat := fun e => hqr (BitVec.eq_of_toNat_eq e.symm)
  rw [View.scalar, View.scalar, View.namesK_setS]
  cases hr : v.namesK r with
  | true =>
    rw [View.setS_bank hr]
    cases hq : v.namesK q with
    | true =>
      have := View.le_of_namesK hr
      have := View.le_of_namesK hq
      exact getD_setIfInBounds_ne v.k x 0 (by omega)
    | false => rfl
  | false =>
    rw [View.setS_own hr]
    cases v.namesK q with
    | true => rfl
    | false => exact getD_setIfInBounds_ne v.team.s x 0 apart

/-- A scalar destination that passes its check is written. -/
theorem View.writeS_of_checkS {v : View} {r : BitVec 6} (h : v.checkS posD r = .ok ()) (x : Word) :
    v.writeS r x = .ok (v.setS r x) := by
  rw [View.writeS, h]
  rfl

/-! ## Vector writes (R53, R58) -/

/-- A vector number that does not name the trap bank replaces the team's own register. -/
theorem View.setVreg_own {v : View} {r : BitVec 6} (h : v.namesKv r = false) (x : VReg) :
    v.setVreg r x = { v with team := { v.team with v := v.team.v.setIfInBounds r.toNat x } } :=
  if_neg (by simp [h])

/-- A vector number that names the trap bank replaces the register there. -/
theorem View.setVreg_bank {v : View} {r : BitVec 6} (h : v.namesKv r = true) (x : VReg) :
    v.setVreg r x = { v with kv := v.kv.setIfInBounds (r.toNat - 60) x } := if_pos h

/-- A vector write leaves what each vector number names. -/
@[simp] theorem View.namesKv_setVreg (v : View) (r q : BitVec 6) (x : VReg) :
    (v.setVreg r x).namesKv q = v.namesKv q := by
  unfold View.setVreg
  split <;> rfl

/-- The register replaced reads as its replacement. -/
theorem View.vreg_setVreg_self (v : View) (r : BitVec 6) (x : VReg) : (v.setVreg r x).vreg r = x := by
  rw [View.vreg, View.namesKv_setVreg]
  cases h : v.namesKv r with
  | true =>
    have inBank : r.toNat - 60 < 4 := by have := r.isLt; omega
    rw [View.setVreg_bank h]
    exact getD_setIfInBounds_self v.kv x VReg.zero inBank
  | false =>
    rw [View.setVreg_own h]
    exact getD_setIfInBounds_self v.team.v x VReg.zero r.isLt

/-- Every other register reads as before. -/
theorem View.vreg_setVreg_ne (v : View) {r q : BitVec 6} (x : VReg) (hqr : q ≠ r) :
    (v.setVreg r x).vreg q = v.vreg q := by
  have apart : r.toNat ≠ q.toNat := fun e => hqr (BitVec.eq_of_toNat_eq e.symm)
  rw [View.vreg, View.vreg, View.namesKv_setVreg]
  cases hr : v.namesKv r with
  | true =>
    rw [View.setVreg_bank hr]
    cases hq : v.namesKv q with
    | true =>
      have := View.le_of_namesKv hr
      have := View.le_of_namesKv hq
      exact getD_setIfInBounds_ne v.kv x VReg.zero (by omega)
    | false => rfl
  | false =>
    rw [View.setVreg_own hr]
    cases v.namesKv q with
    | true => rfl
    | false => exact getD_setIfInBounds_ne v.team.v x VReg.zero apart

/-- A uniform or affine result whose write covers is taken as it is. -/
theorem View.merge_of_replaces {v : View} {kv : Bool} {new : VReg} (h : (v.covers kv && !new.shape.isGeneral) = true)
    (old : VReg) : v.merge kv old new = new := if_pos h

/-- A merged register has the tag of the result. -/
@[simp] theorem View.tag_merge (v : View) (kv : Bool) (old new : VReg) : (v.merge kv old new).tag = new.tag := by
  unfold View.merge
  split <;> rfl

/-- A lane of a register that is merged lane by lane. -/
theorem View.read_merge {v : View} {kv : Bool} {new : VReg} (h : (v.covers kv && !new.shape.isGeneral) = false)
    (old : VReg) {l : Nat} (hl : l < (v.extent kv).1) :
    (v.merge kv old new).read l = if v.active.getLsbD l then new.read l else old.read l := by
  simp [View.merge, h, VReg.read, Shape.read, hl]

/-- An active lane holds the result. -/
theorem View.read_merge_active {v : View} (kv : Bool) (old new : VReg) {l : Nat} (hl : l < (v.extent kv).1)
    (ha : v.active.getLsbD l = true) : (v.merge kv old new).read l = new.read l := by
  cases h : v.covers kv && !new.shape.isGeneral with
  | true => rw [View.merge_of_replaces h]
  | false => rw [View.read_merge h old hl, if_pos ha]

/-- An inactive lane keeps its value unless the result replaces the register. -/
theorem View.read_merge_inactive {v : View} {kv : Bool} (old : VReg) {new : VReg} {l : Nat} (hl : l < (v.extent kv).1)
    (h : (v.covers kv && !new.shape.isGeneral) = false) (ha : v.active.getLsbD l = false) :
    (v.merge kv old new).read l = old.read l := by
  rw [View.read_merge h old hl, ha]
  rfl

/-- A result of one register is merged with the old one, written unless `nw`, and placed in x0. -/
theorem View.put_single (v : View) (vd : BitVec 6) (nw : Bool) {r : Res} (h : r.hi = none) :
    v.put vd nw r =
      (if nw then v else v.setVreg vd (v.merge (v.namesKv vd) (v.vreg vd) r.lo)).latch
        (.held { lo := v.merge (v.namesKv vd) (v.vreg vd) r.lo, hi := none }) := by
  simp [View.put, h]

/-! ## Bits of masks (R23, R166) -/

@[simp] theorem getLsbD_maskBelow (n l : Nat) : (maskBelow n).getLsbD l = decide (l < n ∧ l < 1024) := by
  rw [maskBelow, BitVec.getLsbD_ofNat, Nat.testBit_two_pow_sub_one, Bool.and_comm, Bool.decide_and]

/-- The set bits of a mask are counted lane by lane. -/
theorem countBits_toNat (n : Nat) (m : Mask) :
    countBits n m.toNat = ((List.range n).filter fun l => m.getLsbD l).length := rfl

/-- Each step of the summary sets the bit of its word if the word is not 0. -/
theorem getLsbD_foldl_setBits (clear : Nat → Bool) (n k : Nat) :
    ((List.range n).foldl (fun a w => if clear w then a else a ||| BitVec.ofNat 32 (2 ^ w)) 0).getLsbD k =
      (decide (k < n ∧ k < 32) && !clear k) := by
  induction n with
  | zero => simp
  | succ n ih =>
    have own : (BitVec.ofNat 32 (2 ^ n)).getLsbD k = (decide (k < 32) && decide (n = k)) := by
      rw [BitVec.getLsbD_ofNat, Nat.testBit_two_pow]
    rw [List.range_succ, List.foldl_append, List.foldl_cons, List.foldl_nil]
    by_cases hk : k = n
    · subst hk
      cases hc : clear k
      · rw [if_neg Bool.false_ne_true, BitVec.getLsbD_or, ih, own]
        simp
      · rw [if_pos rfl, ih, hc]
        simp
    · have earlier : k < n + 1 ↔ k < n := by omega
      cases clear n
      · rw [if_neg Bool.false_ne_true, BitVec.getLsbD_or, ih, own]
        simp [earlier, Ne.symm hk]
      · rw [if_pos rfl, ih]
        simp only [earlier]

/-- A bit of the summary says whether its leaf word is not 0. -/
theorem getLsbD_summaryWord (m : Mask) (k : Nat) :
    (summaryWord m).getLsbD k = (decide (k < 32) && leafWord m k != 0) := by
  rw [summaryWord, getLsbD_foldl_setBits fun w => leafWord m w == 0]
  simp [bne]

/-- Replacing a leaf word replaces its 32 bits. -/
theorem getLsbD_setLeaf (m : Mask) (w : Nat) (x : BitVec 32) {l : Nat} (hl : l < 1024) :
    (setLeaf m w x).getLsbD l = if l / 32 = w then x.getLsbD (l % 32) else m.getLsbD l := by
  have window : (BitVec.ofNat 1024 ((2 ^ 32 - 1) * 2 ^ (32 * w))).getLsbD l =
      (decide (32 * w ≤ l) && decide (l - 32 * w < 32)) := by
    rw [BitVec.getLsbD_ofNat, Nat.testBit_mul_two_pow, Nat.testBit_two_pow_sub_one]
    simp [hl]
  have shifted : (x.setWidth 1024 <<< (32 * w)).getLsbD l = (decide (32 * w ≤ l) && x.getLsbD (l - 32 * w)) := by
    by_cases h : l < 32 * w
    · simp [h, hl]
    · simp [h, hl, Nat.le_of_not_lt h]
  simp only [setLeaf, BitVec.getLsbD_or, BitVec.getLsbD_and, BitVec.getLsbD_not, window, shifted, hl]
  by_cases hw : l / 32 = w
  · have low : 32 * w ≤ l := by omega
    have off : l - 32 * w = l % 32 := by omega
    simp [hw, low, off, Nat.mod_lt]
  · rw [if_neg hw]
    by_cases low : 32 * w ≤ l
    · have high : 32 ≤ l - 32 * w := by omega
      simp [high, Nat.not_lt.mpr high, BitVec.getLsbD_of_ge]
    · simp [low]

/-- The lowest lane of a mask. -/
theorem maskFirst_of_some {m : Mask} {l : Nat} (h : ((List.range 1024).find? fun l => m.getLsbD l) = some l) :
    maskFirst m = BitVec.ofNat 64 l := by
  unfold maskFirst
  rw [h]

/-- A mask without lanes has all ones in the place of its lowest. -/
theorem maskFirst_of_none {m : Mask} (h : ((List.range 1024).find? fun l => m.getLsbD l) = none) :
    maskFirst m = BitVec.allOnes 64 := by
  unfold maskFirst
  rw [h]
  rfl

/-- Word 0 to 31 of a mask is a leaf word. -/
theorem maskWord_leaf (m : Mask) {w : Nat} (h : w < 32) : maskWord m w = (leafWord m w).setWidth 64 := by
  rw [maskWord, if_pos h]

/-- Word 32 of a mask is its summary. -/
theorem maskWord_summary (m : Mask) {w : Nat} (h : w = 32) : maskWord m w = (summaryWord m).setWidth 64 := by
  rw [maskWord, if_neg (by omega)]

/-! ## Instructions on registers -/

/-- An instruction on registers whose body gives the view `w` does so and completes. -/
theorem State.registers_of_regOp {s : State} {t : Team} {i : Instr} {len : Nat} {f : View → Except Stop View} {w : View}
    (hi : s.issuer? = some t) (hx : exec i s = regOp len f s) (hf : f (s.viewOf t) = .ok w) (hid : w.team.id = t.id)
    (hc : w.team.core = t.core) : s.Registers t i len w := by
  obtain ⟨s', done, effect⟩ := regOp_completes len f s t w hi hf hid hc
  exact ⟨s', hx.trans done, effect⟩

/-- An instruction that writes one scalar to a destination that passes its check. -/
theorem State.registers_writeS {s : State} {t : Team} {i : Instr} {len : Nat} {sd : BitVec 6} {f : View → Word}
    (hi : s.issuer? = some t) (hd : (s.viewOf t).checkS posD sd = .ok ())
    (hx : exec i s = regOp len (fun v => v.writeS sd (f v)) s) :
    s.Registers t i len ((s.viewOf t).setS sd (f (s.viewOf t))) :=
  State.registers_of_regOp hi hx (View.writeS_of_checkS hd _) (by rw [View.team_id_setS]; rfl)
    (by rw [View.team_core_setS]; rfl)

/-- An instruction that writes one mask register leaves there the bits below the team size (R166). -/
theorem State.registers_setMask {s : State} {t : Team} {i : Instr} {len : Nat} {md : BitVec 3}
    {f : View → Except Stop View} {x : Mask} {bits : Nat → Bool} (hi : s.issuer? = some t)
    (hx : exec i s = regOp len f s) (hf : f (s.viewOf t) = .ok ((s.viewOf t).setMask md x))
    (hb : ∀ l, l < 1024 → x.getLsbD l = bits l) :
    ∃ y : Mask, (∀ l, y.getLsbD l = (decide (l < t.size ∧ l < 1024) && bits l)) ∧
      s.Registers t i len { s.viewOf t with team := { t with m := t.m.setIfInBounds md.toNat y } } := by
  refine ⟨x &&& maskBelow t.size, fun l => ?_, State.registers_of_regOp hi hx hf rfl rfl⟩
  rw [BitVec.getLsbD_and, getLsbD_maskBelow, Bool.and_comm]
  by_cases hl : l < 1024
  · rw [hb l hl]
  · simp [hl]

/-- `mput` reads its word first and then replaces a leaf word of its mask register. -/
theorem exec_mput (w : BitVec 7) (sa : SSrc) (md : BitVec 3) (s : State) :
    exec (.mput w sa md) s = regOp 4 (fun v => v.readS posSA sa >>= fun a =>
      pure (v.setMask md (setLeaf (v.mask md) w.toNat (a.setWidth 32)))) s := rfl

/-! ## The obligations -/

/-- Settles O3: a scalar reads back (`View.scalar_setS_self`, `View.scalar_setS_ne`); a mask instruction writes one mask
register (`State.registers_setMask`) or one scalar (`State.registers_writeS`). -/
theorem scalarFileAndMaskResults : Obligations.ScalarFileAndMaskResults := by
  unfold Obligations.ScalarFileAndMaskResults
  refine ⟨fun v r x => ⟨v.scalar_setS_self r x, fun q hq => v.scalar_setS_ne x hq, fun q => v.vreg_setS r q x,
    fun m => v.mask_setS r x m, v.latches_setS r x, fun own => ?own, fun bank hr => ?bank⟩, ?masks⟩
  case own => rw [View.setS_own (View.namesK_of_ksw own r)]
  case bank =>
    have named := View.namesK_of_le bank hr
    exact ⟨by rw [View.setS_bank named], View.bank_setS named x⟩
  case masks =>
    intro s t mb ma md sa sd a w hi ha hd _ v A B mask scalar
    have writesMask {i : Instr} {bits : Nat → Bool} (f : View → Mask)
        (hx : exec i s = regOp 4 (fun u => .ok (u.setMask md (f u))) s) (hb : ∀ l, l < 1024 → (f v).getLsbD l = bits l) :
        mask i bits := State.registers_setMask hi hx rfl hb
    have writesScalar {i : Instr} (f : View → Word) (hx : exec i s = regOp 4 (fun u => u.writeS sd (f u)) s) :
        scalar i (f v) := State.registers_writeS hi hd hx
    refine ⟨?mand, ?mor, ?mxor, ?mandn, ?mnot, ?mmov, ?mact, fun _ => ?mput, ?mcnt, ?mfirst, fun hw => ?mget,
      (summaryWord A).setWidth 64, fun hw => ?summary, fun k => ?summaryBits⟩
    case mand => exact writesMask (fun u => u.mask ma &&& u.mask mb) rfl fun _ _ => BitVec.getLsbD_and
    case mor => exact writesMask (fun u => u.mask ma ||| u.mask mb) rfl fun _ _ => BitVec.getLsbD_or
    case mxor => exact writesMask (fun u => u.mask ma ^^^ u.mask mb) rfl fun _ _ => BitVec.getLsbD_xor
    case mandn => exact writesMask (fun u => u.mask ma &&& ~~~u.mask mb) rfl fun l hl => by simp [hl, A, B]
    case mnot => exact writesMask (fun u => ~~~u.mask ma) rfl fun l hl => by simp [hl, A]
    case mmov => exact writesMask (fun u => u.mask ma) rfl fun _ _ => rfl
    case mact => exact writesMask (fun u => u.active) rfl fun _ _ => rfl
    case mput =>
      have body : (v.readS posSA sa >>= fun a => pure (v.setMask md (setLeaf (v.mask md) w.toNat (a.setWidth 32)))) =
          .ok (v.setMask md (setLeaf (v.mask md) w.toNat (a.setWidth 32))) := by
        rw [ha]
        rfl
      exact State.registers_setMask hi (exec_mput w sa md s) body fun l hl => by
        simp [getLsbD_setLeaf _ _ _ hl, Nat.mod_lt]
    case mcnt =>
      rw [← countBits_toNat]
      exact writesScalar (fun u => BitVec.ofNat 64 (countBits 1024 (u.mask ma).toNat)) rfl
    case mfirst =>
      have done := writesScalar (i := .mfirst ma sd) (fun u => maskFirst (u.mask ma)) rfl
      cases hl : (List.range 1024).find? fun l => A.getLsbD l with
      | some l =>
        rw [maskFirst_of_some hl] at done
        exact done
      | none =>
        rw [maskFirst_of_none hl] at done
        exact done
    case mget =>
      rw [← leafWord, ← maskWord_leaf A hw]
      exact writesScalar (fun u => maskWord (u.mask ma) w.toNat) rfl
    case summary =>
      rw [← maskWord_summary A hw]
      exact writesScalar (fun u => maskWord (u.mask ma) w.toNat) rfl
    case summaryBits =>
      rw [BitVec.getLsbD_setWidth, getLsbD_summaryWord]
      by_cases hk : k < 32
      · simp [hk, leafWord, show k < 64 by omega]
      · simp [hk]

/-- Settles O12: the register written and the latch hold the merged result (`View.put_single`), whose lanes
`View.merge_of_replaces`, `View.read_merge_active` and `View.read_merge_inactive` give. -/
theorem vectorWriteRules : Obligations.VectorWriteRules := by
  unfold Obligations.VectorWriteRules
  intro v vd nw r l hk hr _ hl old w kept replaces
  have own : v.namesKv vd = false := View.namesKv_of_ksw hk vd
  have merged : kept = v.merge false old r.lo := by
    simp only [kept, w, v.put_single vd nw hr, own]
    rfl
  have put : w = (if nw then v else v.setVreg vd kept).latch (.held { lo := kept, hi := none }) := by
    rw [merged]
    simp only [w, v.put_single vd nw hr, own, old]
  have written : v.setVreg vd kept = { v with team := { v.team with v := v.team.v.setIfInBounds vd.toNat kept } } :=
    View.setVreg_own own kept
  refine ⟨?latches, fun covers => ?replaced, fun h => ?unwritten, fun h => ⟨?written, fun q hq => ?others⟩, ?tag,
    fun ha => ?active, fun keeps ha => ?inactive, ?bank⟩
  case latches =>
    rw [put, written]
    cases nw <;> rfl
  case replaced => exact merged.trans (View.merge_of_replaces (v := v) (kv := false) covers old)
  case tag => rw [merged, View.tag_merge]
  case active => rw [merged, View.read_merge_active false old r.lo hl ha]
  case inactive => rw [merged, View.read_merge_inactive (v := v) (kv := false) old hl keeps ha]
  case unwritten =>
    rw [put, h]
    rfl
  case written =>
    rw [put, h]
    exact v.vreg_setVreg_self vd kept
  case others =>
    rw [put, h]
    exact v.vreg_setVreg_ne kept hq
  case bank =>
    rw [put, written]
    cases nw <;> exact ⟨rfl, rfl, rfl⟩

/-- At reset every core is as before anything has run on it. -/
@[simp] theorem State.core_reset (n : Nat) : State.reset.core n = Core.fresh n := rfl

/-- Settles O58: no core is listed at reset, so each is as it was made (`State.core_reset`), and each register file of a
new team holds one value throughout. That `o0` to `o7` start as uniform 0 and that nothing is registered or cached at reset is the
model's choice of log 4. -/
theorem whatStartsHoldsItsStartingValues : Obligations.WhatStartsHoldsItsStartingValues := by
  unfold Obligations.WhatStartsHoldsItsStartingValues
  refine ⟨rfl, rfl, rfl, rfl, rfl, rfl, rfl, fun n => ?core, ?team⟩
  case core =>
    rw [State.core_reset]
    exact ⟨rfl, rfl, rfl, rfl, rfl, rfl, rfl, rfl, rfl, rfl⟩
  case team =>
    intro id g core slot index role size vcnt scnt pc keys act tick
    exact ⟨fun _ => Vector.getElem?_replicate_of_lt, fun _ => Vector.getElem?_replicate_of_lt,
      fun _ => Vector.getElem?_replicate_of_lt, fun _ => Vector.getElem?_replicate_of_lt,
      fun _ => Vector.getElem?_replicate_of_lt, fun _ => Vector.getElem?_replicate_of_lt,
      fun _ => Vector.getElem?_replicate_of_lt,
      rfl, rfl, rfl, rfl, rfl, rfl, rfl, rfl, rfl, rfl, rfl, rfl, rfl, rfl⟩

end Sys2Proof.Machine

/-!
What memory in canonical form reads as (R88, R97, log 3): a byte and a run of bytes after a write, and that two canonical
memories that read alike are one.
-/

namespace Sys2Proof.Machine

/-! ## Reading a byte -/

/-- The byte at an address, entry by entry. -/
theorem Memory.read_cons (k : Nat) (c : Byte) (m : Memory) (a : Nat) :
    Memory.read ((k, c) :: m) a = if k < a then Memory.read m a else if k = a then c else 0 := rfl

/-- No byte is listed at or below a bound below the list. -/
theorem Memory.read_of_above {lo a : Nat} {m : Memory} (h : Memory.above lo m = true) (ha : a ≤ lo) :
    Memory.read m a = 0 := by
  cases m with
  | nil => rfl
  | cons c m =>
    obtain ⟨k, c⟩ := c
    have hk : lo < k := by simpa [Memory.above] using h
    rw [Memory.read_cons, if_neg (by omega), if_neg (by omega)]

/-- The byte written reads back, and every other address reads as before. -/
theorem Memory.read_write {m : Memory} (a : Nat) (b : Byte) (k : Nat) (h : Memory.wf m = true) :
    Memory.read (Memory.write m a b) k = if k = a then b else Memory.read m k := by
  induction m with
  | nil =>
    rw [Memory.read_nil]
    simp only [Memory.write, apply_ite (Memory.read · k), Memory.read_cons, Memory.read_nil]
    grind
  | cons c m ih =>
    obtain ⟨q, c⟩ := c
    obtain ⟨_, above, hm⟩ := Memory.wf_cons.mp h
    have below : k ≤ q → Memory.read m k = 0 := Memory.read_of_above above
    simp only [Memory.write, apply_ite (Memory.read · k), Memory.read_cons, ih hm]
    grind

/-! ## Reading a run of bytes -/

/-- Outside the run written every address reads as before. -/
theorem Memory.read_writeBytes_of_outside {m : Memory} {a : Nat} {bs : List Byte} {k : Nat} (h : Memory.wf m = true)
    (hk : k < a ∨ a + bs.length ≤ k) : Memory.read (Memory.writeBytes m a bs) k = Memory.read m k := by
  induction bs generalizing m a with
  | nil => rfl
  | cons b bs ih =>
    simp only [List.length_cons] at hk
    rw [Memory.writeBytes, ih (Memory.wf_write a b h) (by omega), Memory.read_write a b k h, if_neg (by omega)]

/-- A byte of the run written reads back. -/
theorem Memory.read_writeBytes_of_inside {m : Memory} (a : Nat) (bs : List Byte) {i : Nat} (h : Memory.wf m = true)
    (hi : i < bs.length) : Memory.read (Memory.writeBytes m a bs) (a + i) = bs[i] := by
  induction bs generalizing m a i with
  | nil => simp at hi
  | cons b bs ih =>
    have hw := Memory.wf_write a b h
    rw [Memory.writeBytes]
    cases i with
    | zero => rw [Memory.read_writeBytes_of_outside hw (by omega), Memory.read_write a b _ h]; simp
    | succ i =>
      have := ih (a + 1) hw (Nat.lt_of_succ_lt_succ hi)
      rwa [Nat.add_right_comm] at this

/-- A run of bytes reads back. -/
theorem Memory.readBytes_writeBytes {m : Memory} (a : Nat) (bs : List Byte) (h : Memory.wf m = true) :
    Memory.readBytes (Memory.writeBytes m a bs) a bs.length = bs := by
  refine List.ext_getElem (by simp [Memory.readBytes]) fun i _ hi => ?_
  simpa [Memory.readBytes] using Memory.read_writeBytes_of_inside a bs h hi

/-! ## Equal contents are equal data -/

/-- No address before the first entry reads other than 0. -/
theorem Memory.head_le {k q : Nat} {c : Byte} {m : Memory}
    (hq : Memory.read ((k, c) :: m) q ≠ 0) : k ≤ q := by
  by_contra hlt
  exact hq (by rw [Memory.read_cons, if_neg (by omega), if_neg (by omega)])

/-- The first entry's byte reads back, and is not 0. -/
theorem Memory.read_head (k : Nat) (c : Byte) (m : Memory) : Memory.read ((k, c) :: m) k = c := by
  rw [Memory.read_cons, if_neg (Nat.lt_irrefl k), if_pos rfl]

/-- Two canonical memories that read alike are one. -/
theorem Memory.eq_of_read_eq {m n : Memory} (hm : Memory.wf m = true) (hn : Memory.wf n = true)
    (h : ∀ k, Memory.read m k = Memory.read n k) : m = n := by
  induction m generalizing n with
  | nil =>
    cases n with
    | nil => rfl
    | cons d n =>
      obtain ⟨q, d⟩ := d
      have := h q
      rw [Memory.read_head] at this
      exact absurd this.symm (Memory.wf_cons.mp hn).1
  | cons c m ih =>
    obtain ⟨k, c⟩ := c
    obtain ⟨hc, habove, hm'⟩ := Memory.wf_cons.mp hm
    cases n with
    | nil =>
      have := h k
      rw [Memory.read_head] at this
      exact absurd this hc
    | cons d n =>
      obtain ⟨q, d⟩ := d
      obtain ⟨hd, hbelow, hn'⟩ := Memory.wf_cons.mp hn
      have hkq : k ≤ q := Memory.head_le (by rw [h, Memory.read_head]; exact hd)
      have hqk : q ≤ k := Memory.head_le (by rw [← h, Memory.read_head]; exact hc)
      obtain rfl : k = q := Nat.le_antisymm hkq hqk
      have heads : c = d := by simpa only [Memory.read_head] using h k
      have tails : m = n := ih hm' hn' fun a => by
        by_cases ha : k < a
        · simpa only [Memory.read_cons, if_pos ha] using h a
        · rw [Memory.read_of_above habove (by omega), Memory.read_of_above hbelow (by omega)]
      rw [heads, tails]

/-- Settles O26: the laws of one byte, of a run of bytes and of equal contents. The form is the model's choice of log 3. -/
theorem memoryReadsBackWrites : Obligations.MemoryReadsBackWrites := by
  unfold Obligations.MemoryReadsBackWrites
  exact fun m a b bs h => ⟨Memory.wf_write a b h, Memory.wf_writeBytes a bs h, fun k => Memory.read_write a b k h,
    Memory.readBytes_writeBytes a bs h, fun _ hk => Memory.read_writeBytes_of_outside h hk,
    fun _ hm' hr => Memory.eq_of_read_eq h hm' hr⟩

theorem State.reset_canonical : State.reset.Canonical :=
  ⟨rfl, List.forall_mem_nil _, List.forall_mem_nil _, rfl, rfl⟩

/-- Settles O57: at reset nothing is listed, and an unlisted byte reads 0 (the model's choice of log 3). -/
theorem resetMemoriesAreCanonical : Obligations.ResetMemoriesAreCanonical := by
  unfold Obligations.ResetMemoriesAreCanonical
  exact ⟨State.reset_canonical, fun _ => rfl, fun _ _ => rfl⟩

end Sys2Proof.Machine

/-!
Every step keeps the memories canonical (R88, R90, R97, log 3): one lemma per operation of the model that makes a state,
each by the branches of its definition, in the order of the model's files. `h.foo` says that `foo` keeps what `h` says
of the state it starts from.
-/

namespace Sys2Proof.Machine

-- The lemmas are checked one after the other: each uses those before it, and threads that wait for them take stacks.
set_option Elab.async false

/-! ## How the canonical form passes through branches, pairs and bodies -/

/-- The state that a body leaves, whether it goes on or stops. -/
def M.final {α : Type} (r : EStateM.Result Stop State α) : State :=
  match r with
  | .ok _ u => u
  | .error _ u => u

/-- A body keeps the memories canonical, whether it goes on or stops. -/
def M.Keeps {α : Type} (x : M α) : Prop := ∀ s, s.Canonical → (M.final (x s)).Canonical

/-- The outcome of a step has canonical memories, if there is a next state. -/
def NextCanonical (o : Host.Outcome State Fault Refusal) : Prop := ∀ u, o = .next u → u.Canonical

/-- A state with the memories of a canonical one is canonical. -/
theorem State.Canonical.same {s u : State} (h : s.Canonical) (hm : u.mem = s.mem := by rfl)
    (hc : u.cores = s.cores := by rfl) (hs : u.copies = s.copies := by rfl)
    (hr : u.mailRings = s.mailRings := by rfl) (hv : u.vectorTable = s.vectorTable := by rfl) : u.Canonical :=
  h.of_eq hm hc hs hr hv

/-- A state with another memory in the place of a canonical one's. -/
theorem State.Canonical.sameBut {s u : State} (h : s.Canonical) (hm : Memory.wf u.mem = true)
    (hc : u.cores = s.cores := by rfl) (hs : u.copies = s.copies := by rfl)
    (hr : u.mailRings = s.mailRings := by rfl) (hv : u.vectorTable = s.vectorTable := by rfl) : u.Canonical :=
  (h.setMem hm).of_eq rfl hc hs hr hv

/-- A core's record that replaces one with the same scratchpad. -/
theorem State.Canonical.putCoreSame {s : State} (h : s.Canonical) {c : Core} {n : Nat}
    (hc : c.scratch = (s.core n).scratch := by rfl) : (s.putCore c).Canonical :=
  h.putCore c (hc ▸ h.core n)

/-- A change of a core's record that leaves its scratchpad. -/
theorem State.Canonical.modCoreSame {s : State} (h : s.Canonical) {n : Nat} {f : Core → Core}
    (hf : (f (s.core n)).scratch = (s.core n).scratch := by rfl) : (s.modCore n f).Canonical :=
  h.modCore n f (hf ▸ h.core n)

/-- A change of every core's record that leaves the scratchpads. -/
theorem State.Canonical.mapCores {s u : State} (h : s.Canonical) {f : Core → Core}
    (hf : ∀ c, (f c).scratch = c.scratch) (hc : u.cores = s.cores.map f := by rfl) (hm : u.mem = s.mem := by rfl)
    (hs : u.copies = s.copies := by rfl)
    (hr : u.mailRings = s.mailRings := by rfl) (hv : u.vectorTable = s.vectorTable := by rfl) : u.Canonical where
  mem := hm ▸ h.mem
  cores := by
    rw [hc]
    intro c hc
    obtain ⟨d, hd, rfl⟩ := List.mem_map.mp hc
    rw [hf]
    exact h.cores d hd
  copies := hs ▸ h.copies
  rings := hr ▸ h.rings
  vectors := hv ▸ h.vectors

/-- Copies with canonical scratchpads in the place of the copies. -/
theorem State.Canonical.withCopies {s u : State} (h : s.Canonical)
    (hs : ∀ c ∈ u.copies, Memory.wf c.core.scratch = true) (hm : u.mem = s.mem := by rfl)
    (hc : u.cores = s.cores := by rfl) (hr : u.mailRings = s.mailRings := by rfl)
    (hv : u.vectorTable = s.vectorTable := by rfl) : u.Canonical :=
  ⟨hm ▸ h.mem, hc ▸ h.cores, hs, hr ▸ h.rings, hv ▸ h.vectors⟩

/-- A fold that carries a state beside what it gathers. -/
theorem State.Canonical.foldPair {α β : Type} {f : β × State → α → β × State} {xs : List α} {p : β × State}
    (h : p.2.Canonical) (hf : ∀ p x, p.2.Canonical → (f p x).2.Canonical) : (xs.foldl f p).2.Canonical :=
  List.foldlRecOn (motive := fun p => p.2.Canonical) xs f h fun _ hp x _ => hf _ x hp

/-- A fold that carries a state beside two things that it gathers. -/
theorem State.Canonical.foldTriple {α β γ : Type} {f : β × γ × State → α → β × γ × State} {xs : List α}
    {p : β × γ × State} (h : p.2.2.Canonical) (hf : ∀ p x, p.2.2.Canonical → (f p x).2.2.Canonical) :
    (xs.foldl f p).2.2.Canonical :=
  List.foldlRecOn (motive := fun p => p.2.2.Canonical) xs f h fun _ hp x _ => hf _ x hp

theorem State.Canonical.ite {p : Prop} [Decidable p] {s u : State} (hs : s.Canonical) (hu : u.Canonical) :
    State.Canonical (if p then s else u) := by
  split
  · exact hs
  · exact hu

/-- The state of a pair that is known. -/
theorem State.Canonical.of_snd {α : Type} {p : α × State} {a : α} {u : State} (e : p = (a, u)) (h : p.2.Canonical) :
    u.Canonical := by
  rw [e] at h
  exact h

/-- The state of a triple that is known. -/
theorem State.Canonical.of_snd_snd {α β : Type} {p : α × β × State} {a : α} {b : β} {u : State} (e : p = (a, b, u))
    (h : p.2.2.Canonical) : u.Canonical := by
  rw [e] at h
  exact h

/-- The state of a pair that is known, when it comes first. -/
theorem State.Canonical.of_fst {α : Type} {p : State × α} {a : α} {u : State} (e : p = (u, a)) (h : p.1.Canonical) :
    u.Canonical := by
  rw [e] at h
  exact h

/-- A body that goes on leaves canonical memories. -/
theorem M.Keeps.ok {α : Type} {x : M α} {s u : State} {a : α} (hx : x.Keeps) (h : s.Canonical) (e : x s = .ok a u) :
    u.Canonical := by
  have := hx s h
  rw [e] at this
  exact this

/-- A body that stops leaves canonical memories. -/
theorem M.Keeps.error {α : Type} {x : M α} {s u : State} {a : Stop} (hx : x.Keeps) (h : s.Canonical)
    (e : x s = .error a u) : u.Canonical := by
  have := hx s h
  rw [e] at this
  exact this

theorem M.Keeps.pure {α : Type} {a : α} : (Pure.pure a : M α).Keeps := fun _ h => h

theorem M.Keeps.throw {α : Type} {e : Stop} : (throw e : M α).Keeps := fun _ h => h

theorem M.Keeps.lift {α : Type} {x : Except Stop α} : (M.lift x).Keeps := fun s h => by
  unfold M.lift
  split <;> exact h

theorem M.Keeps.stopIf {b : Bool} {e : Stop} : (M.stopIf b e).Keeps := by
  unfold M.stopIf
  split
  · exact .throw
  · exact .pure

theorem M.Keeps.andThen {α β : Type} {x : M α} {f : α → M β} (hx : x.Keeps) (hf : ∀ a, (f a).Keeps) :
    (x >>= f).Keeps := fun s h => by
  cases e : x s with
  | ok a u =>
    rw [M.bind_ok e]
    exact hf a u (hx.ok h e)
  | error a u =>
    rw [M.bind_error e]
    exact hx.error h e

/-- What is done with the state that has been read may rely on its memories. -/
theorem M.Keeps.withState {β : Type} {f : State → M β} (hf : ∀ s, s.Canonical → (f s).Keeps) :
    (get >>= f : M β).Keeps := fun s h => hf s h s h

/-- A body is run for each element of a list. -/
theorem M.Keeps.mapM {α β : Type} {f : α → M β} (hf : ∀ a, (f a).Keeps) {xs : List α} : (xs.mapM f).Keeps := by
  rw [← List.mapM'_eq_mapM]
  induction xs with
  | nil => exact .pure
  | cons x xs ih => exact .andThen (hf x) fun _ => .andThen ih fun _ => .pure

theorem M.Keeps.set {s : State} (h : s.Canonical) : (MonadStateOf.set s : M PUnit).Keeps := fun _ _ => h

theorem M.Keeps.modify {f : State → State} (hf : ∀ s, s.Canonical → (f s).Canonical) :
    (modify f : M Unit).Keeps := hf

theorem M.Keeps.ite {α : Type} {p : Prop} [Decidable p] {x y : M α} (hx : x.Keeps) (hy : y.Keeps) :
    M.Keeps (if p then x else y) := by
  split
  · exact hx
  · exact hy

/-- A step that a condition puts in front of what follows. -/
theorem M.Keeps.maybe {α : Type} {p : Prop} [Decidable p] {x : M PUnit} {f : PUnit → M α} (hx : x.Keeps)
    (hf : ∀ u, (f u).Keeps) : M.Keeps (if p then x >>= f else f ⟨⟩) :=
  .ite (.andThen hx hf) (hf ⟨⟩)

/-! ## The operations of `Machine/Access` -/

theorem State.Canonical.putTeam {s : State} (h : s.Canonical) {t} : (s.putTeam t).Canonical := h.same

theorem State.Canonical.modTeam {s : State} (h : s.Canonical) {id f} : (s.modTeam id f).Canonical := h.same

theorem State.Canonical.putGang {s : State} (h : s.Canonical) {g} : (s.putGang g).Canonical := h.same

theorem State.Canonical.putFamily {s : State} (h : s.Canonical) {f} : (s.putFamily f).Canonical := h.same

theorem State.Canonical.putGroup {s : State} (h : s.Canonical) {g} : (s.putGroup g).Canonical := h.same

theorem State.Canonical.dropLatches {s : State} (h : s.Canonical) {n} : (s.dropLatches n).Canonical := by
  unfold State.dropLatches
  split
  · exact h
  · next c found =>
    exact .ite h (h.putCore _ (h.cores c (List.mem_of_find?_eq_some found)))

theorem State.Canonical.putTenant {s : State} (h : s.Canonical) {t} : (s.putTenant t).Canonical := h.same

theorem State.Canonical.putQueue {s : State} (h : s.Canonical) {q} : (s.putQueue q).Canonical := h.same

theorem State.Canonical.putChan {s : State} (h : s.Canonical) {c} : (s.putChan c).Canonical := h.same

theorem State.Canonical.putScene {s : State} (h : s.Canonical) {c} : (s.putScene c).Canonical := h.same

theorem State.Canonical.choose {s : State} (h : s.Canonical) : s.choose.2.Canonical := by
  unfold State.choose
  split
  · exact h
  · exact h.same

theorem State.Canonical.draw {s : State} (h : s.Canonical) : s.draw.2.Canonical := h.same

theorem State.Canonical.fresh {s : State} (h : s.Canonical) : s.fresh.2.Canonical := h.same

theorem State.Canonical.event {s : State} (h : s.Canonical) {unit event index detail} : (s.event unit event index
    detail).Canonical :=
  h.same.ite h.same

theorem State.Canonical.raise {s : State} (h : s.Canonical) {vector} : (s.raise vector).Canonical := h.same

/-! ## The operations of `Machine/Flows` -/

theorem State.Canonical.putFlow {s : State} (h : s.Canonical) {f} : (s.putFlow f).Canonical := h.same

theorem State.Canonical.countFlit {s : State} (h : s.Canonical) {dev cls} : (s.countFlit dev cls).Canonical := h.same

theorem State.Canonical.leaveBy {s : State} (h : s.Canonical) {id p} : (s.leaveBy id p).2.Canonical := by
  unfold State.leaveBy
  split
  · exact h.countFlit
  · exact h

theorem State.Canonical.sendRequest {s : State} (h : s.Canonical) {id team addr} : (s.sendRequest id team
    addr).Canonical := by
  unfold State.sendRequest
  extract_lets _
  split
  · exact h.putFlow
  · dsimp only
    exact h.leaveBy.putFlow

theorem State.Canonical.sendQueued {s : State} (h : s.Canonical) {id} : (s.sendQueued id).Canonical :=
  .foldl _ _ h.putFlow fun _ _ h1 => h1.sendRequest

theorem State.Canonical.keepRequests {s : State} (h : s.Canonical) {keep} : (s.keepRequests keep).Canonical :=
  .foldl _ _ h.same fun _ _ h1 => h1.sendQueued

theorem State.Canonical.tellAll {s : State} (h : s.Canonical) {op} : (s.tellAll op).Canonical :=
  .foldl _ _ h fun _ _ h1 => h1.sendRequest.same

theorem State.Canonical.sendRequests {s : State} (h : s.Canonical) {n a} : (s.sendRequests n a).Canonical := by
  induction n generalizing s with
  | zero =>
    unfold State.sendRequests
    exact h
  | succ n ih =>
    unfold State.sendRequests
    exact ih h.sendRequest

theorem State.Canonical.syncFlow {s : State} (h : s.Canonical) {core dev} : (s.syncFlow core dev).Canonical :=
  h.putFlow.sendRequests

theorem State.Canonical.syncFlows {s : State} (h : s.Canonical) {core devs} : (s.syncFlows core devs).Canonical :=
  .foldl _ _ h fun _ _ h1 => h1.syncFlow

theorem State.Canonical.dropRequests {s : State} (h : s.Canonical) {team} : (s.dropRequests team).Canonical :=
  h.keepRequests

theorem State.Canonical.endPieces {s : State} (h : s.Canonical) {run} : (s.endPieces run).Canonical := h.keepRequests

/-! ## The operations of `Machine/Mem` -/

theorem State.Canonical.settleLaunch {s : State} (h : s.Canonical) {origin} : (s.settleLaunch origin).Canonical :=
  .foldl _ _ h.same fun _ _ h1 => h1.applyReduce _ _ _ _ _

theorem State.Canonical.settleAll {s : State} (h : s.Canonical) {grans} : (s.settleAll grans).Canonical :=
  .foldl _ _ h fun _ _ h1 => h1.settle _

/-! ## The operations of `Machine/Translate` -/

theorem State.Canonical.markEntry {s : State} (h : s.Canonical) {key bits} : (s.markEntry key bits).Canonical :=
  (h.backInvalidate _).sameBut (Memory.wf_write _ _ ((h.backInvalidate _).mem))

/-- A recursion on the numbers by its step. -/
theorem brecOn_succ {β : Type} (n : Nat) (F : (t : Nat) → Nat.below (motive := fun _ => β) t → β) :
    Nat.brecOn (motive := fun _ => β) (n + 1) F = F (n + 1) (Nat.brecOn.go n F) := rfl

/-- A recursion on the numbers at its start. -/
theorem brecOn_zero {β : Type} (F : (t : Nat) → Nat.below (motive := fun _ => β) t → β) :
    Nat.brecOn (motive := fun _ => β) 0 F = F 0 PUnit.unit := rfl

/-- The walk as the recursion that it is compiled to. Its equations by `unfold` are too deep for the kernel. -/
theorem walkFrom_eq_brecOn (dev local_ acc sys level) : walkFrom dev local_ acc sys level =
    Nat.brecOn (motive := fun _ => Nat → State → Except TrErr Leaf × State) level (walkFrom._f dev local_ acc sys) :=
      by
  delta walkFrom
  with_reducible rfl

theorem walkFrom_zero (dev local_ acc sys) :
    walkFrom dev local_ acc sys 0 = walkFrom._f dev local_ acc sys 0 PUnit.unit := by
  rw [walkFrom_eq_brecOn, brecOn_zero]

theorem walkFrom_succ (dev local_ acc sys level) : walkFrom dev local_ acc sys (level + 1) =
    walkFrom._f dev local_ acc sys (level + 1) (Nat.brecOn.go level (walkFrom._f dev local_ acc sys)) := by
  rw [walkFrom_eq_brecOn, brecOn_succ]

theorem State.Canonical.walkFrom {s : State} (h : s.Canonical) {dev local_ acc sys level table} :
    (walkFrom dev local_ acc sys level table s).2.Canonical := by
  induction level generalizing s table with
  | zero =>
    rw [walkFrom_zero]
    delta walkFrom._f walkFrom.match_7
    beta_reduce
    extract_lets pa key
    split
    · exact h
    · split
      next u e =>
        have hu : u.Canonical := .of_snd_snd e (h.homeRead _ _)
        extract_lets entry next
        split
        · exact hu
        · split
          · exact hu
          · split
            · exact hu
            · split
              · split
                · exact hu
                · exact hu.markEntry
              · exact hu
  | succ level ih =>
    rw [walkFrom_succ]
    have ih : ∀ {s : State} (_ : s.Canonical) {table : Nat},
        ((Nat.brecOn.go level (walkFrom._f dev local_ acc sys)).1 table s).2.Canonical := by
      rw [walkFrom_eq_brecOn] at ih
      exact ih
    generalize Nat.brecOn.go level (walkFrom._f dev local_ acc sys) = below at ih ⊢
    delta walkFrom._f walkFrom.match_7
    beta_reduce
    extract_lets pa key
    split
    · exact h
    · split
      next u e =>
        have hu : u.Canonical := .of_snd_snd e (h.homeRead _ _)
        extract_lets entry next
        split
        · exact hu
        · split
          · exact hu
          · split
            · exact hu
            · split
              · split
                · exact hu
                · exact hu.markEntry
              · exact ih hu.markEntry

theorem State.Canonical.cacheAdd {s : State} (h : s.Canonical) {core c} : (s.cacheAdd core c).Canonical :=
  h.modCoreSame

theorem State.Canonical.walk {s : State} (h : s.Canonical) {c acc va root} : (s.walk c acc va root).2.Canonical := by
  unfold State.walk
  extract_lets _ _
  split
  · rename_i u e
    have hu : u.Canonical := .of_snd e h.walkFrom
    exact hu
  · rename_i u e
    have hu : u.Canonical := .of_snd e h.walkFrom
    extract_lets _ s1
    have hs1 : s1.Canonical := by
      unfold s1
      split
      · exact hu
      · exact hu.cacheAdd
    clear_value s1
    exact hs1

theorem State.Canonical.translate {s : State} (h : s.Canonical) {c acc va} : (s.translate c acc va).2.Canonical := by
  unfold State.translate
  split
  · exact h
  · split
    · exact h
    · split
      · exact h
      · split
        · exact h
        · dsimp only
          split
          · dsimp only
            split
            · exact h.walk
            · split
              · exact h
              · refine .ite ?_ h
                split
                · exact h
                · exact h.markEntry.modCoreSame
          · dsimp only
            split
            · exact h.walk
            · split
              · exact h
              · refine .ite ?_ h
                split
                · exact h
                · exact h.markEntry.modCoreSame

theorem State.Canonical.translateParts {s : State} (h : s.Canonical) {c acc xs} : (s.translateParts c acc
    xs).2.Canonical := by
  induction xs generalizing s with
  | nil =>
    unfold State.translateParts
    exact h
  | cons p ps ih =>
    unfold State.translateParts
    split
    · rename_i u e
      have hu : u.Canonical := .of_snd e h.translate
      exact hu
    · rename_i u e
      have hu : u.Canonical := .of_snd e h.translate
      split
      · rename_i u1 e1
        have hu1 : u1.Canonical := .of_snd e1 (ih hu)
        exact hu1
      · rename_i u1 e1
        have hu1 : u1.Canonical := .of_snd e1 (ih hu)
        exact hu1

theorem State.Canonical.translateRange {s : State} (h : s.Canonical) {c acc va n} : (s.translateRange c acc va
    n).2.Canonical :=
  h.translateParts

/-! ## The operations of `Machine/Log` -/

theorem Core.wf_spill {c : Core} (h : Memory.wf c.scratch = true) : Memory.wf c.spill.scratch = true := by
  unfold Core.spill
  extract_lets n
  split
  · exact h
  · exact h

theorem State.Canonical.appendEntry {s : State} (h : s.Canonical) {core e} : (s.appendEntry core e).Canonical :=
  h.putCore _ (Core.wf_spill (h.core core))

theorem State.Canonical.append {s : State} (h : s.Canonical) {t e} : (s.append t e).Canonical :=
  h.appendEntry.ite h.appendEntry.modTeam

theorem State.Canonical.buffer {s : State} (h : s.Canonical) {t e} : (s.buffer t e).Canonical := h.modCoreSame

theorem State.Canonical.recordPubOf {s : State} (h : s.Canonical) {core team gang scope cover} : (s.recordPubOf core
    team gang scope cover).Canonical :=
  h.same.ite h.same.putCoreSame

theorem State.Canonical.recordPub {s : State} (h : s.Canonical) {t scope cover} : (s.recordPub t scope
    cover).Canonical :=
  h.recordPubOf

theorem State.Canonical.publishTail {s : State} (h : s.Canonical) {t scope tail} : (s.publishTail t scope
    tail).Canonical := by
  unfold State.publishTail
  split
  · exact h
  · exact h.recordPub

theorem State.Canonical.recordPending {s : State} (h : s.Canonical) {team} : (s.recordPending team).Canonical := by
  unfold State.recordPending
  split
  · exact h
  · exact .foldl _ _ h.same fun _ _ h1 => h1.publishTail

theorem State.Canonical.publish {s : State} (h : s.Canonical) {team scope} : (s.publish team scope).Canonical := by
  unfold State.publish
  extract_lets s1
  have hs1 : s1.Canonical := h.recordPending
  clear_value s1
  split
  · exact hs1
  · exact hs1.publishTail

theorem State.Canonical.sendPub {s : State} (h : s.Canonical) {core pub} : (s.sendPub core pub).Canonical :=
  h.same.putCoreSame.syncFlows

theorem State.Canonical.land {s : State} (h : s.Canonical) {f} : (s.land f).Canonical :=
  ((h.applyEntry _).modCoreSame).syncFlows

theorem State.Canonical.ack {s : State} (h : s.Canonical) {core} : (s.ack core).Canonical := h.modCoreSame

theorem State.Canonical.prunePubs {s : State} (h : s.Canonical) : s.prunePubs.Canonical := h.same

theorem State.Canonical.forceTo {s : State} (h : s.Canonical) {seq} : (s.forceTo seq).Canonical :=
  .prunePubs (.foldl _ _ (.foldl _ _ (.same (.foldl _ _ h fun _ _ h1 => h1.sendPub)) fun _ _ h1 => h1.land)
    fun _ _ h1 => h1.ack)

theorem State.Canonical.flush {s : State} (h : s.Canonical) {t sel} : (s.flush t sel).Canonical :=
  .foldl _ _ h.modCoreSame fun _ _ h1 => h1.append

theorem State.Canonical.flushNow {s : State} (h : s.Canonical) {t sel} : (s.flushNow t sel).Canonical :=
  (h.ite h.forceTo).flush

theorem State.Canonical.publishAndWait {s : State} (h : s.Canonical) {team scope} : (s.publishAndWait team
    scope).Canonical :=
  h.publish.ite h.publish.forceTo

theorem State.Canonical.markEnding {s : State} (h : s.Canonical) {n} : (s.markEnding n).Canonical := h.same

theorem State.Canonical.forceBelow {s : State} (h : s.Canonical) {n} : (s.forceBelow n).Canonical := h.ite h.forceTo

theorem State.Canonical.see {s : State} (h : s.Canonical) {core n} : (s.see core n).Canonical := h.ite h.modCoreSame

theorem State.Canonical.showTo {s : State} (h : s.Canonical) {core grans} : (s.showTo core grans).Canonical :=
  h.forceBelow.ite h

theorem State.Canonical.showLoad {s : State} (h : s.Canonical) {core grans} : (s.showLoad core grans).Canonical :=
  h.forceBelow.ite h

theorem State.Canonical.replay {s : State} (h : s.Canonical) {team scope named} : (s.replay team scope
    named).Canonical := by
  unfold State.replay
  extract_lets s1
  have hs1 : s1.Canonical := h.recordPending
  clear_value s1
  split
  · exact hs1
  · exact hs1.see

theorem State.Canonical.coreRead {s : State} (h : s.Canonical) {core key n} : (s.coreRead core key n).2.2.Canonical :=
    by
  unfold State.coreRead
  extract_lets _ s1 _
  have hs1 : s1.Canonical := h.showLoad
  clear_value s1
  dsimp only
  exact hs1.homeRead _ _

theorem State.Canonical.discard {s : State} (h : s.Canonical) {t} : (s.discard t).Canonical := h.modCoreSame

theorem State.Canonical.sendPieces {s : State} (h : s.Canonical) {src run keys} : (s.sendPieces src run
    keys).Canonical :=
  .foldl _ _ h fun _ _ h1 => h1.ite h1.sendRequest

/-! ## The operations of `Machine/Faults` -/

theorem State.Canonical.hqsRead {s : State} (h : s.Canonical) {tenant va n} : (s.hqsRead tenant va n).2.Canonical :=
    by
  unfold State.hqsRead
  split
  next u e => exact .of_snd e h.translateRange
  next u e => exact .foldTriple (.of_snd e h.translateRange) fun _ _ h => h.homeRead _ _

theorem State.Canonical.writeParts {s : State} (h : s.Canonical) {xs xs1} : (s.writeParts xs xs1).Canonical := by
  induction xs generalizing xs1 s with
  | nil =>
    unfold State.writeParts
    exact h
  | cons p ps ih =>
    unfold State.writeParts
    exact ih (h.homeWrite _ _)

theorem State.Canonical.hqsWrite {s : State} (h : s.Canonical) {tenant va bs} : (s.hqsWrite tenant va bs).2.Canonical
    := by
  unfold State.hqsWrite
  split
  · rename_i u e
    have hu : u.Canonical := .of_snd e h.translateRange
    exact hu
  · rename_i u e
    have hu : u.Canonical := .of_snd e h.translateRange
    exact hu.writeParts

theorem State.Canonical.hqsWord {s : State} (h : s.Canonical) {tenant va} : (s.hqsWord tenant va).2.Canonical := by
  unfold State.hqsWord
  split
  · rename_i u e
    have hu : u.Canonical := .of_snd e h.hqsRead
    exact hu
  · rename_i u e
    have hu : u.Canonical := .of_snd e h.hqsRead
    exact hu

theorem State.Canonical.setFaultQueue {s : State} (h : s.Canonical) {tenant q} : (s.setFaultQueue tenant q).Canonical
    :=
  h.putTenant

theorem State.Canonical.flagFaultQueue {s : State} (h : s.Canonical) {tenant q} : (s.flagFaultQueue tenant
    q).Canonical :=
  h.setFaultQueue.hqsWrite

theorem State.Canonical.writeFault {s : State} (h : s.Canonical) {tenant} : (s.writeFault tenant).2.Canonical := by
  unfold State.writeFault
  extract_lets _
  split
  · split
    · exact h
    · split
      · rename_i u e
        have hu : u.Canonical := .of_snd e h.hqsWord
        exact hu.setFaultQueue
      · rename_i u e
        have hu : u.Canonical := .of_snd e h.hqsWord
        extract_lets _
        split
        · exact hu.flagFaultQueue
        · split
          · rename_i u1 e1
            have hu1 : u1.Canonical := .of_snd e1 hu.hqsWrite
            exact hu1.setFaultQueue
          · rename_i u1 e1
            have hu1 : u1.Canonical := .of_snd e1 hu.hqsWrite
            exact hu1.putTenant.hqsWrite.raise
  · exact h

theorem State.Canonical.writeFaults {s : State} (h : s.Canonical) {n b} : (s.writeFaults n b).Canonical := by
  induction n generalizing s with
  | zero =>
    unfold State.writeFaults
    exact h
  | succ n ih =>
    unfold State.writeFaults
    split
    · rename_i u e
      have hu : u.Canonical := .of_snd e h.writeFault
      exact ih hu
    · rename_i u e
      have hu : u.Canonical := .of_snd e h.writeFault
      exact hu

theorem State.Canonical.flushFaults {s : State} (h : s.Canonical) {tenant} : (s.flushFaults tenant).Canonical :=
  h.writeFaults

theorem State.Canonical.postFault {s : State} (h : s.Canonical) {tenant e} : (s.postFault tenant e).Canonical :=
  h.putTenant.flushFaults

/-! ## The operations of `Machine/Channels` -/

theorem State.Canonical.reportRun {s : State} (h : s.Canonical) {c r status} : (s.reportRun c r status).Canonical :=
    by
  unfold State.reportRun
  split
  · exact h
  · exact h.postFault

theorem State.Canonical.noteCopy {s : State} (h : s.Canonical) {r fault} : (s.noteCopy r fault).Canonical := h.modTeam

theorem State.Canonical.completeRun {s : State} (h : s.Canonical) {chan r status} : (s.completeRun chan r
    status).Canonical := by
  unfold State.completeRun
  split
  · exact h
  · exact (((h.reportRun.ite h).putChan).noteCopy).endPieces

theorem State.Canonical.emptySegments {s : State} (h : s.Canonical) {core run} : (s.emptySegments core run).Canonical
    :=
  h.modCoreSame

theorem State.Canonical.giveBack {s : State} (h : s.Canonical) {c r} : (s.giveBack c r).Canonical := by
  unfold State.giveBack
  split
  · split
    · exact h
    · exact h.putFamily
  · exact h.modCoreSame
  · exact h

theorem State.Canonical.cancelRun {s : State} (h : s.Canonical) {chan r} : (s.cancelRun chan r).Canonical := by
  unfold State.cancelRun
  split
  · exact h
  · exact h.emptySegments.giveBack.completeRun

theorem State.Canonical.cancelRuns {s : State} (h : s.Canonical) {family} : (s.cancelRuns family).Canonical := by
  unfold State.cancelRuns
  refine .foldl _ _ h fun _ _ h1 => ?_
  extract_lets s2
  have hs2 : s2.Canonical := .foldl _ _ h1 fun _ _ h2 => h2.cancelRun
  clear_value s2
  split
  · exact hs2
  · exact hs2.putChan

theorem State.Canonical.acceptRun {s : State} (h : s.Canonical) {chan} : (s.acceptRun chan).Canonical := by
  unfold State.acceptRun
  split
  · exact h
  · split
    · exact h
    · exact h.ite (h.putChan.modTeam.modCoreSame.cancelRun.ite h.putChan.modTeam.modCoreSame)

theorem State.Canonical.withdrawRun {s : State} (h : s.Canonical) {team run} : (s.withdrawRun team run).Canonical :=
    by
  unfold State.withdrawRun
  split
  · exact h
  · exact .modCoreSame (.modTeam (.foldl _ _ h.putChan fun _ _ h1 => h1.giveBack))

theorem State.Canonical.chanFor {s : State} (h : s.Canonical) {f tenant e} : (s.chanFor f tenant e).2.Canonical := by
  unfold State.chanFor
  split
  · exact h
  · extract_lets _
    split
    · exact h
    · exact h.same

/-! ## The operations of `Machine/Gangs` -/

theorem State.Canonical.wake {s : State} (h : s.Canonical) {sel p c} : (s.wake sel p c).Canonical := h.same

theorem State.Canonical.seatChild {s : State} (h : s.Canonical) {g cs} {u : State} (e : s.seatChild g cs = some u) :
    u.Canonical := by
  unfold State.seatChild at e
  split at e
  · dsimp only at e
    split at e
    · cases e
      exact h.see.fresh.same
    · split at e
      · cases e
      · cases e
        exact h.putFamily.see.fresh.same
  · cases e

theorem State.Canonical.seatGroups {s : State} (h : s.Canonical) {g xs xs1} : (s.seatGroups g xs xs1).2.Canonical :=
    by
  induction xs generalizing xs1 s with
  | nil =>
    unfold State.seatGroups
    exact h
  | cons cs rest ih =>
    unfold State.seatGroups
    extract_lets _
    split
    · exact ih h
    · split
      · rename_i u e
        have hu : u.Canonical := h.seatChild e
        exact ih hu
      · exact ih h

theorem State.Canonical.seatWaiting {s : State} (h : s.Canonical) {gang} : (s.seatWaiting gang).Canonical := by
  unfold State.seatWaiting
  split
  · exact h
  · exact h.ite h.seatGroups.same

theorem State.Canonical.seatCore {s : State} (h : s.Canonical) {core} : (s.seatCore core).Canonical :=
  .foldl _ _ h fun _ _ h1 => h1.seatWaiting

theorem State.Canonical.refillQueue {s : State} (h : s.Canonical) {core} : (s.refillQueue core).Canonical :=
  h.ite h.same

theorem State.Canonical.release {s : State} (h : s.Canonical) {g core groups} : (s.release g core groups).Canonical :=
    by
  unfold State.release
  extract_lets _ s1 s2
  have hs1 : s1.Canonical := h.modCoreSame
  clear_value s1
  have hs2 : s2.Canonical := hs1.same
  clear_value s2
  exact hs2.refillQueue.seatWaiting

theorem State.Canonical.releaseFull {s : State} (h : s.Canonical) {gang entry} : (s.releaseFull gang entry).Canonical
    := by
  unfold State.releaseFull
  split
  · exact h
  · split
    · exact h
    · exact h.release.ite h

theorem State.Canonical.releaseGroup {s : State} (h : s.Canonical) {gang entry} : (s.releaseGroup gang
    entry).Canonical := by
  unfold State.releaseGroup
  split
  · exact h
  · split
    · exact h
    · split
      · exact h
      · exact h.release

theorem State.Canonical.releasePartials {s : State} (h : s.Canonical) {gang} : (s.releasePartials gang).Canonical :=
    by
  unfold State.releasePartials
  split
  · exact h
  · exact .foldl _ _ h fun _ _ h1 => h1.releaseGroup

theorem State.Canonical.counterAdd {s : State} (h : s.Canonical) {f off delta clock} : (s.counterAdd f off delta
    clock).Canonical :=
  ((h.scratchWrite _ _ _).wake).ite (h.scratchWrite _ _ _)

theorem State.Canonical.countDown {s : State} (h : s.Canonical) {t lanes clock} : (s.countDown t lanes
    clock).Canonical := by
  unfold State.countDown
  split
  · exact h
  · refine .foldl _ _ h fun _ _ h1 => ?_
    split
    · exact h1.counterAdd
    · exact h1

theorem State.Canonical.barStep {s : State} (h : s.Canonical) {gang clock} : (s.barStep gang clock).Canonical := by
  unfold State.barStep
  split
  · exact h
  · exact h.putGang.releasePartials.wake.ite h

theorem State.Canonical.barCheck {s : State} (h : s.Canonical) {gang clock} : (s.barCheck gang clock).Canonical :=
  h.barStep.barStep

theorem State.Canonical.groupCheck {s : State} (h : s.Canonical) {group clock} : (s.groupCheck group clock).Canonical
    := by
  unfold State.groupCheck
  split
  · exact h
  · exact h.ite ((((h.tellAll.ite h).putGroup).wake).ite ((h.tellAll.ite h).putGroup))

theorem State.Canonical.remoteArrival {s : State} (h : s.Canonical) {tag tick gen n abandoned} : (s.remoteArrival tag
    tick gen n abandoned).Canonical := by
  unfold State.remoteArrival
  split
  · exact h
  · exact h.putGroup.groupCheck

theorem State.Canonical.remoteLeave {s : State} (h : s.Canonical) {tag tick n abandoned} : (s.remoteLeave tag tick n
    abandoned).Canonical := by
  unfold State.remoteLeave
  split
  · exact h
  · exact h.putGroup.groupCheck

theorem State.Canonical.reportMasks {s : State} (h : s.Canonical) {gang part} : (s.reportMasks gang part).Canonical :=
  .same (.foldl _ _ h fun _ _ h1 => h1.ite h1.postFault)

theorem State.Canonical.flushLate {s : State} (h : s.Canonical) {core} : (s.flushLate core).Canonical :=
  h.ite (.recordPubOf (.foldl _ _ h.modCoreSame fun _ _ h1 => h1.appendEntry))

theorem State.Canonical.familyReturn {s : State} (h : s.Canonical) {family} : (s.familyReturn family).Canonical := by
  unfold State.familyReturn
  split
  · exact h
  · extract_lets s1
    have hs1 : s1.Canonical := h.same
    clear_value s1
    split
    · exact hs1
    · split
      · exact hs1
      · extract_lets s2 s3 s4
        have hs3 : s3.Canonical := hs1.flushLate.same
        clear_value s3
        have hs4 : s4.Canonical := hs3.modCoreSame (by
          split
          · split <;> rfl
          · rfl)
        exact hs4.seatCore

theorem State.Canonical.launchDissolved {s : State} (h : s.Canonical) {g} : (s.launchDissolved g).Canonical := by
  unfold State.launchDissolved
  split
  · exact h.same
  · exact h

theorem State.Canonical.dissolve {s : State} (h : s.Canonical) {gang} : (s.dissolve gang).Canonical := by
  unfold State.dissolve
  split
  · exact h
  · extract_lets left s1 s2 s3 s4 s5
    have hs2 : s2.Canonical := by
      unfold s2
      split
      · exact h.reportMasks
      · exact h.reportMasks.modCoreSame
    clear_value s2
    have hs3 : s3.Canonical := hs2.same
    clear_value s3
    have hs4 : s4.Canonical := by
      unfold s4
      clear_value left
      split
      · exact hs3
      · exact (State.Canonical.ite hs3.tellAll hs3).groupCheck
    clear_value s4
    have hs5 : s5.Canonical := hs4.same
    exact hs5.launchDissolved.familyReturn

theorem State.Canonical.retireGang {s : State} (h : s.Canonical) {gang} : (s.retireGang gang).Canonical :=
  h.same.dissolve

theorem State.Canonical.islandEnd {s : State} (h : s.Canonical) {g clock} : (s.islandEnd g clock).Canonical := by
  unfold State.islandEnd
  split
  · exact h
  · exact h.putScene.retireGang.ite h.putScene

theorem State.Canonical.dropDriver {s : State} (h : s.Canonical) {team} : (s.dropDriver team).Canonical := h.same

theorem State.Canonical.afterTeam {s : State} (h : s.Canonical) {t gang ended clock} :
    (s.afterTeam t gang ended clock).Canonical := by
  unfold State.afterTeam
  split
  · exact h
  · extract_lets s1 live s2 s3 s4 _ s5 s6 s7
    have hs1 : s1.Canonical := by
      unfold s1
      split
      · exact h.seatCore
      · exact h
    have hs3 : s3.Canonical := (State.Canonical.ite hs1 hs1.releasePartials).barCheck
    clear_value s3
    have hs4 : s4.Canonical := by
      unfold s4
      split
      · exact hs3.groupCheck
      · exact hs3
    clear_value s4
    have hs5 : s5.Canonical := hs4.dropDriver.ite hs4
    clear_value s5
    have hs6 : s6.Canonical := hs5.flushNow.ite hs5
    clear_value s6
    have hs7 : s7.Canonical := by
      unfold s7
      split
      · exact hs6.recordPub
      · exact hs6
    exact .ite hs5.islandEnd (.ite hs5 (.ite hs7.dissolve hs5.dissolve))

theorem State.Canonical.freeReserve {s : State} (h : s.Canonical) {t} : (s.freeReserve t).Canonical := by
  unfold State.freeReserve
  split
  · exact h.putFamily
  · exact h

theorem State.Canonical.endTeam {s : State} (h : s.Canonical) {team} : (s.endTeam team).Canonical := by
  unfold State.endTeam
  extract_lets s1 s2
  have hs1 : s1.Canonical := h.recordPending
  clear_value s1
  have hs2 : s2.Canonical := by
    unfold s2
    split
    · split
      · exact ((hs1.flushNow.ite hs1).publish).ite hs1
      · exact hs1
    · exact hs1
  clear_value s2
  split
  · exact hs2
  · exact hs2.modTeam.freeReserve.afterTeam

/-! ## The operations of `Machine/Ops` -/

theorem State.Canonical.atomicAt {s : State} (h : s.Canonical) {key op f v w} : (s.atomicAt key op f v
    w).2.2.Canonical := by
  unfold State.atomicAt
  dsimp only
  split
  · exact h.homeRead _ _
  · exact (h.homeRead _ _).homeWrite _ _

theorem State.Canonical.performAtomic {s : State} (h : s.Canonical) {op f xs xs1} : (s.performAtomic op f xs
    xs1).2.Canonical := by
  induction xs generalizing s with
  | nil =>
    unfold State.performAtomic
    exact h
  | cons x xs ih =>
    unfold State.performAtomic
    extract_lets _
    dsimp only
    exact ih h.atomicAt

theorem State.Canonical.finishAtomics {s : State} (h : s.Canonical) {t} : (s.finishAtomics t).Canonical := by
  unfold State.finishAtomics
  refine .foldl _ _ h fun _ _ h1 => ?_
  split
  · exact h1.showTo.performAtomic
  · exact h1

theorem State.Canonical.freeBank {s : State} (h : s.Canonical) {t} : (s.freeBank t).Canonical :=
  h.putCoreSame.ite (h.putCoreSame.ite h)

theorem State.Canonical.abandonBarriers {s : State} (h : s.Canonical) {t} : (s.abandonBarriers t).Canonical := by
  unfold State.abandonBarriers
  split
  · exact h
  · split
    · exact h
    · extract_lets s1
      have hs1 : s1.Canonical := h.putGang.ite h
      clear_value s1
      split
      · exact hs1.putGroup
      · exact hs1

theorem State.Canonical.haltTeam {s : State} (h : s.Canonical) {team i nest report} : (s.haltTeam team i nest
    report).Canonical := by
  unfold State.haltTeam
  split
  · exact h
  · extract_lets s1 s2 s3 s4 s5 _ s6 s7
    have hs1 : s1.Canonical := h.recordPending.finishAtomics.discard
    clear_value s1
    have hs2 : s2.Canonical := by
      unfold s2
      split
      · exact hs1.cancelRuns
      · exact hs1
    clear_value s2
    have hs3 : s3.Canonical := hs2.postFault.ite hs2
    clear_value s3
    have hs4 : s4.Canonical := hs3.freeBank
    clear_value s4
    have hs5 : s5.Canonical := hs4.modCoreSame.ite hs4
    clear_value s5
    have hs6 : s6.Canonical := hs5.countDown
    clear_value s6
    have hs7 : s7.Canonical := hs6.modTeam.freeReserve
    clear_value s7
    exact hs7.abandonBarriers.afterTeam

theorem State.Canonical.resumeTeam {s : State} (h : s.Canonical) {team} : (s.resumeTeam team).Canonical := h.modTeam

theorem State.Canonical.enterTrap {s : State} (h : s.Canonical) {team i} : (s.enterTrap team i).Canonical := by
  unfold State.enterTrap
  split
  · exact h
  · exact h.putCoreSame.putTeam

theorem State.Canonical.takeTrap {s : State} (h : s.Canonical) {team i} : (s.takeTrap team i).Canonical := by
  unfold State.takeTrap
  split
  · exact h
  · exact h.haltTeam.ite (h.haltTeam.ite (h.enterTrap.ite h.modTeam.putCoreSame))

theorem State.Canonical.returnTrap {s : State} (h : s.Canonical) {team} : (s.returnTrap team).Canonical := by
  unfold State.returnTrap
  split
  · exact h
  · exact h.putTeam.putCoreSame.resumeTeam

theorem State.Canonical.exitLanes {s : State} (h : s.Canonical) {team gone} : (s.exitLanes team gone).Canonical := by
  unfold State.exitLanes
  split
  · exact h
  · extract_lets _ s1 s2
    have hs1 : s1.Canonical := h.publish.markEnding.countDown.ite h
    clear_value s1
    have hs2 : s2.Canonical := hs1.modTeam
    clear_value s2
    split
    · exact hs2.freeBank.endTeam.ite hs2
    · exact hs2

theorem State.Canonical.switchOff {s : State} (h : s.Canonical) {team pc bad} : (s.switchOff team pc bad).Canonical :=
    by
  unfold State.switchOff
  split
  · exact h.modTeam.exitLanes
  · exact h

theorem State.Canonical.retire {s : State} (h : s.Canonical) {t len f} : (s.retire t len f).Canonical := by
  unfold State.retire
  extract_lets _ _ _
  split
  · exact h.modTeam
  · exact h.modTeam
  · exact h.modTeam
  · exact h.modTeam.takeTrap
  · exact h.modTeam.takeTrap

theorem State.Canonical.parkTeam {s : State} (h : s.Canonical) {t i acc level} : (s.parkTeam t i acc level).Canonical
    :=
  h.modTeam.postFault

theorem State.Canonical.setWait {s : State} (h : s.Canonical) {t w} : (s.setWait t w).Canonical := h.modTeam

theorem State.Canonical.abandon {s : State} (h : s.Canonical) {t} : (s.abandon t).Canonical := by
  unfold State.abandon
  extract_lets s1
  have hs1 : s1.Canonical := h.dropDriver.ite h
  clear_value s1
  split
  · exact hs1.counterAdd
  · exact hs1.withdrawRun
  · exact hs1

theorem State.Canonical.stop {s : State} (h : s.Canonical) {t e} : (s.stop t e).Canonical := by
  unfold State.stop
  extract_lets clear
  have hclear : ∀ r, State.Canonical r → State.Canonical (clear r) := by
    intro r hr
    unfold clear
    exact hr.abandon.modTeam
  clear_value clear
  split
  · exact (hclear _ h).takeTrap
  · exact h.haltTeam.ite h.parkTeam
  · exact h.setWait
  · exact h.haltTeam
  · exact h

theorem M.Keeps.gate {t} : M.Keeps (M.gate t) := by
  unfold M.gate
  intro s h
  dsimp only
  split
  · split
    · exact h
    · exact h
  · split
    · exact h
    · exact h

theorem M.Keeps.notInHandler {t} : M.Keeps (M.notInHandler t) := .stopIf

theorem M.Keeps.emptyStack {t} : M.Keeps (M.emptyStack t) := .stopIf

theorem M.Keeps.countable {t c} : M.Keeps (M.countable t c) := .stopIf

theorem M.Keeps.team {id} : M.Keeps (M.team id) := by
  unfold M.team
  intro s h
  dsimp only
  split
  · exact h
  · exact h

theorem M.Keeps.modTeam {id f} : M.Keeps (M.modTeam id f) := .modify fun _ h => h.modTeam

theorem M.Keeps.setProg {id p} : M.Keeps (M.setProg id p) := .modTeam

/-! ## The operations of `Machine/Operands` -/

theorem State.Canonical.putView {s : State} (h : s.Canonical) {v} : (s.putView v).Canonical :=
  h.putTeam.ite h.putTeam.putCoreSame

theorem M.Keeps.view {id} : M.Keeps (M.view id) := by
  intro s h
  unfold M.view
  split
  · exact h
  · exact h

theorem M.Keeps.putView {v} : M.Keeps (M.putView v) := .modify fun _ h => h.putView

theorem M.Keeps.read {α : Type} {t : Team} {f : View → Except Stop α} : (M.read t f).Keeps :=
  .andThen .view fun _ => .lift

theorem M.Keeps.regs {t f} : M.Keeps (M.regs t f) := .andThen .read fun _ => .putView

/-! ## The operations of `Machine/Fetch` -/

theorem M.Keeps.code {t addr n} : M.Keeps (M.code t addr n) := by
  unfold M.code
  intro s h
  dsimp only
  split
  next u e => exact .of_snd e h.translateRange
  next parts u e =>
    have hu : u.Canonical := .of_snd e h.translateRange
    split
    · exact .foldTriple hu.showTo fun _ _ h => h.homeRead _ _
    · exact .foldTriple hu.showTo fun _ _ h => h.homeRead _ _

theorem M.Keeps.parcel {t addr} : M.Keeps (M.parcel t addr) := by
  unfold M.parcel
  split
  · exact .pure
  · exact .andThen .code fun _ => .pure

theorem M.Keeps.fetchAt {t pc} : M.Keeps (M.fetchAt t pc) :=
  .andThen .parcel fun _ => .ite (.andThen .parcel fun _ => .pure) .pure

theorem M.Keeps.fetch {t} : M.Keeps (M.fetch t) := .fetchAt

/-! ## The operations of `Machine/Control` -/

theorem M.Keeps.branchIf {cond off sa t} : M.Keeps (branchIf cond off sa t) := .andThen .read fun _ => .pure

theorem M.Keeps.link {t} : M.Keeps (M.link t) := .regs

theorem M.Keeps.target {w} : M.Keeps (M.target w) := .stopIf

theorem M.Keeps.divergeBy {off joff ms t} : M.Keeps (divergeBy off joff ms t) :=
  .andThen .read fun _ => .ite .pure (.ite .pure (.andThen .notInHandler fun _ => .andThen .stopIf fun _ => .withState
    fun _ _ => .andThen .modTeam fun _ => .pure))

theorem M.Keeps.arrive {t} : M.Keeps (arrive t) := by
  unfold Machine.arrive
  split
  · exact .ite (.withState fun _ h => .andThen .modTeam fun _ => .pure) .pure
  · exact .pure

theorem M.Keeps.yieldArm {t} : M.Keeps (yieldArm t) := .withState fun _ _ => .andThen .modTeam fun _ => .pure

theorem M.Keeps.targets {t} : M.Keeps (M.targets t) := by
  unfold M.targets
  refine .andThen .code fun a => ?_
  extract_lets _
  split
  · exact .ite (.andThen .code fun _ => .pure) .pure
  · exact .pure

theorem M.Keeps.mapped {t addr} : M.Keeps (M.mapped t addr) := by
  unfold M.mapped
  intro s h
  dsimp only
  split
  · rename_i u e
    have hu : u.Canonical := .of_snd e h.translate
    exact hu
  · rename_i u _ e
    have hu : u.Canonical := .of_snd e h.translate
    exact hu

theorem M.Keeps.targetCheck {t targets off} : M.Keeps (M.targetCheck t targets off) :=
  .ite .pure (.ite .pure (.andThen .mapped fun _ => .ite .pure .pure))

theorem M.Keeps.branchTable {va t} : M.Keeps (branchTable va t) := by
  unfold Machine.branchTable
  refine .andThen .read fun _ => ?_
  extract_lets off groups
  refine .andThen .targets fun _ => ?_
  split
  · exact .throw
  · refine .andThen (.mapM fun _ => .andThen .targetCheck fun _ => .pure) fun _ => ?_
    split
    · exact .throw
    · extract_lets _
      clear_value groups
      split
      · exact .pure
      · exact .pure
      · exact .andThen .notInHandler fun _ => .andThen .stopIf fun _ => .withState fun _ _ =>
          .andThen .modTeam fun _ => .pure

theorem M.Keeps.exitActive {t} : M.Keeps (exitActive t) :=
  .andThen .stopIf fun _ => .maybe .gate fun _ => .withState fun _ _ => .withState fun _ _ => .andThen .stopIf
    fun _ => .andThen (.modify fun _ h2 => h2.modTeam.exitLanes) fun _ => .pure

/-! ## The operations of `Machine/Memory` -/

theorem State.Canonical.resolve {s : State} (h : s.Canonical) {t acc va n} : (s.resolve t acc va n).2.Canonical := by
  unfold State.resolve
  split
  · exact h
  · split
    · split
      · exact h
      · exact h
      · exact h
    · split
      · rename_i u e
        have hu : u.Canonical := .of_snd e h.translateRange
        exact hu
      · rename_i u e
        have hu : u.Canonical := .of_snd e h.translateRange
        exact hu

theorem State.Canonical.resolveAll {s : State} (h : s.Canonical) {t acc n xs} : (s.resolveAll t acc n xs).2.Canonical
    := by
  induction xs generalizing s with
  | nil =>
    unfold State.resolveAll
    exact h
  | cons x xs ih =>
    unfold State.resolveAll
    dsimp only
    exact ih h.resolve

theorem State.Canonical.readParts {s : State} (h : s.Canonical) {core xs} : (s.readParts core xs).2.2.Canonical := by
  induction xs generalizing s with
  | nil =>
    unfold State.readParts
    exact h
  | cons x xs ih =>
    unfold State.readParts
    split
    · rename_i u e
      have hu : u.Canonical := .of_snd_snd e h.coreRead
      split
      · rename_i u1 e1
        have hu1 : u1.Canonical := .of_snd_snd e1 (ih hu)
        exact hu1

theorem State.Canonical.loadAll {s : State} (h : s.Canonical) {core f xs} : (s.loadAll core f xs).2.Canonical := by
  induction xs generalizing s with
  | nil => exact h
  | cons x xs ih =>
    obtain ⟨l, p⟩ := x
    cases p with
    | home parts => exact ih h.readParts
    | window c off => exact ih h

theorem State.Canonical.deliver {s : State} (h : s.Canonical) {team p res whole} : (s.deliver team p res
    whole).Canonical := by
  unfold State.deliver
  split
  · exact h
  · exact h.putView

theorem State.Canonical.finish {s : State} (h : s.Canonical) {t p} : (s.finish t p).Canonical := by
  unfold State.finish
  split
  · exact h.loadAll.deliver
  · exact h.showTo.performAtomic.deliver
  · exact h.modTeam.deliver
  · exact .foldl _ _ h.modTeam fun _ _ h1 => h1.buffer.ite h1.append

theorem State.Canonical.completeIn {s : State} (h : s.Canonical) {team sel xs} :
    (s.completeIn team sel xs).Canonical := by
  induction xs generalizing s with
  | nil => exact h
  | cons p ps ih =>
    unfold State.completeIn
    refine ih ?_
    split
    · exact h.finish
    · exact h

theorem State.Canonical.completeWhere {s : State} (h : s.Canonical) {team sel} : (s.completeWhere team sel).Canonical
    := by
  unfold State.completeWhere
  split
  · exact h
  · exact h.completeIn

theorem State.Canonical.bindPath {s : State} (h : s.Canonical) {team} : (s.bindPath team).Canonical := by
  unfold State.bindPath
  split
  · exact h
  · exact h.completeIn

theorem M.Keeps.bind {t} : M.Keeps (M.bind t) := .modify fun _ h => h.bindPath

theorem M.Keeps.inOrder {t ts} : M.Keeps (M.inOrder t ts) := .modify fun _ h => h.completeWhere

theorem M.Keeps.appended {t} : M.Keeps (M.appended t) := .modify fun _ h => h.completeWhere

theorem M.Keeps.leave {t target pair latch mask touch work} : M.Keeps (M.leave t target pair latch mask touch work) :=
  .withState fun _ h => .andThen (.set h.same) fun _ => .andThen .view fun _ => .putView

theorem M.Keeps.leaveAccess {t vd f places work} : M.Keeps (M.leaveAccess t vd f places work) :=
  .andThen .view fun _ => .leave

theorem M.Keeps.later : M.Keeps M.later := by
  unfold M.later
  refine .withState fun s h => ?_
  dsimp only
  exact .andThen (.set h.choose) fun _ => .pure

theorem M.Keeps.result {t cross vd nw r vacant} : M.Keeps (M.result t cross vd nw r vacant) :=
  .andThen .later fun _ => .ite (.andThen .view fun _ => .leave) (.andThen .modTeam fun _ => .regs)

theorem M.Keeps.leaves {places} : M.Keeps (M.leaves places) := .withState fun _ _ => .ite .pure .later

theorem M.Keeps.remoteAnswer {t places addrs perform} (hp : ∀ s : State, s.Canonical → (perform s).Canonical) :
    M.Keeps (M.remoteAnswer t places addrs perform) := by
  unfold M.remoteAnswer
  refine .withState fun s h => ?_
  split
  · exact .pure
  · refine .withState fun s h => ?_
    split
    next later u e =>
      have hu : u.Canonical := .of_snd e h.choose
      refine .andThen (.set hu) fun _ => ?_
      split
      · refine .ite (.andThen (.set ?_) fun _ => .throw) (.ite .throw (.set hu.dropRequests))
        exact (State.Canonical.ite (hp _ hu) hu).dropRequests
      · exact .ite (.maybe (.set hu.sendRequest) fun _ => .throw) .pure

theorem M.Keeps.switchOff {t bad} : M.Keeps (M.switchOff t bad) :=
  .ite .pure (.andThen .bind fun _ => .ite (.andThen (.modify fun _ h => h.modTeam.switchOff) fun _ => .pure)
    (.andThen (.modify fun _ h => h.switchOff) fun _ => .pure))

theorem M.Keeps.places {t acc n as} : M.Keeps (M.places t acc n as) :=
  .withState fun _ h => .andThen (.set h.resolveAll) fun _ => .andThen .lift fun _ => .andThen .switchOff fun _ =>
    .ite .pure .pure

theorem M.Keeps.offsets {t n as} : M.Keeps (M.offsets t n as) :=
  .withState fun _ _ => .andThen .switchOff fun _ => .ite .pure .pure

theorem M.Keeps.loadAddresses {t base ix vd f off} : M.Keeps (M.loadAddresses t base ix vd f off) := .read

theorem M.Keeps.storeAddresses {t base ix vd f off} : M.Keeps (M.storeAddresses t base ix vd f off) := .read

theorem M.Keeps.load {base ix vd f off t} : M.Keeps (load base ix vd f off t) := by
  unfold Machine.load
  refine .andThen .loadAddresses fun _ => .andThen .countable fun _ => .andThen .places fun _ => ?_
  split
  · exact .pure
  · exact .andThen .inOrder fun _ => .andThen (.remoteAnswer fun _ h => h) fun _ => .andThen .leaves fun _ => .ite
      (.andThen .leaveAccess fun _ => .pure)
      (.withState fun _ h => .andThen (.set h.loadAll) fun _ => .andThen .regs fun _ => .pure)

theorem M.Keeps.append {t es} : M.Keeps (M.append t es) :=
  .withState fun _ _ => .andThen .stopIf fun _ => .andThen .appended fun _ => .andThen (.modify fun _ h1 => .foldl _ _
    h1 fun _ _ h2 => h2.append) fun _ => .withState fun _ _ => .stopIf

theorem M.Keeps.buffer {t es} : M.Keeps (M.buffer t es) :=
  .withState fun _ _ => .andThen .stopIf fun _ => .andThen .appended fun _ => .andThen (.modify fun _ h1 => .foldl _ _
    h1 fun _ _ h2 => h2.buffer) fun _ => .withState fun _ _ => .stopIf

theorem M.Keeps.toLog {t buffered ts es} : M.Keeps (M.toLog t buffered ts es) :=
  .andThen .later fun _ => .ite (.withState fun _ _ => .andThen .stopIf fun _ => .ite (.andThen .leave fun _ => .pure)
    (.ite .buffer .append)) (.ite .buffer .append)

theorem M.Keeps.noPoison {d lanes} : M.Keeps (M.noPoison d lanes) := .stopIf

theorem State.Canonical.storeScratch {s : State} (h : s.Canonical) {f d ws} : (s.storeScratch f d ws).Canonical :=
  .foldl _ _ h fun _ _ h1 => h1.scratchWrite _ _ _

theorem M.Keeps.store {base ix vd f off t} : M.Keeps (store base ix vd f off t) := by
  unfold Machine.store
  refine .andThen .storeAddresses fun _ => ?_
  dsimp only
  refine .andThen .countable fun _ => .andThen .places fun _ => ?_
  split
  · exact .pure
  · exact .andThen .noPoison fun _ => .andThen .inOrder fun _ => .andThen (.modify fun _ h => h.recordPending)
      fun _ => .andThen .toLog fun _ => .andThen (.modify fun _ h => h.storeScratch) fun _ => .pure

theorem M.Keeps.scratchLoad {base ix vd f off t} : M.Keeps (scratchLoad base ix vd f off t) := by
  unfold Machine.scratchLoad
  refine .andThen .loadAddresses fun _ => .andThen .countable fun _ => .andThen .offsets fun _ => ?_
  split
  · exact .pure
  · exact .withState fun _ h => .andThen .view fun _ => .andThen .result fun _ => .pure

theorem M.Keeps.afterPasses {t} : M.Keeps (M.afterPasses t) := .withState fun _ _ => .stopIf

theorem M.Keeps.scratchStore {base ix vd f off t} : M.Keeps (scratchStore base ix vd f off t) := by
  unfold Machine.scratchStore
  refine .andThen .storeAddresses fun _ => ?_
  dsimp only
  refine .andThen .countable fun _ => .andThen .offsets fun _ => ?_
  split
  · exact .pure
  · exact .andThen .noPoison fun _ => .andThen .afterPasses fun _ => .andThen .inOrder fun _ => .andThen (.modify
      fun _ h => h.recordPending) fun _ => .andThen (.modify fun _ h => h.storeScratch) fun _ => .pure

theorem M.Keeps.aligned {code n as} : M.Keeps (M.aligned code n as) := by
  unfold M.aligned
  split
  · exact .pure
  · exact .throw

theorem M.Keeps.reduction {op base ix vd f t} : M.Keeps (reduction op base ix vd f t) := by
  unfold Machine.reduction
  refine .andThen .storeAddresses fun _ => ?_
  dsimp only
  refine .andThen .aligned fun _ => .andThen .countable fun _ => .andThen .places fun _ => ?_
  split
  · exact .pure
  · exact .andThen .inOrder fun _ => .andThen (.modify fun _ h => h.recordPending) fun _ => .withState fun _ h =>
      .andThen .toLog fun _ => .andThen .modTeam fun _ => .pure

theorem State.Canonical.publishFor {s : State} (h : s.Canonical) {t keys} : (s.publishFor t keys).Canonical :=
  .foldl _ _ h fun _ _ h1 => h1.publishAndWait.ite h1

theorem M.Keeps.atomic {op base ix vd f t} : M.Keeps (atomic op base ix vd f t) := by
  unfold Machine.atomic
  refine .andThen .read fun _ => ?_
  dsimp only
  refine .andThen .aligned fun _ => .andThen .countable fun _ => .andThen .gate fun _ => .andThen .places fun _ => ?_
  split
  · exact .pure
  · refine .andThen .inOrder fun _ => .andThen (.modify fun _ h => h.recordPending) fun _ => .andThen (.modify
      fun _ h => h.completeWhere) fun _ => .andThen (.modify fun _ h => h.publishFor.showTo) fun _ => .andThen
      (.remoteAnswer fun _ h => h.performAtomic) fun _ => .andThen .leaves fun _ => .withState fun _ _ => .ite
      (.andThen .leaveAccess fun _ => .pure) ?_
    exact .withState fun _ h => .andThen (.set h.performAtomic) fun _ => .andThen .regs fun _ => .pure

theorem State.Canonical.serveLane {s : State} (h : s.Canonical) {t x lane off value} : (s.serveLane t x lane off
    value).Canonical := by
  unfold State.serveLane
  extract_lets _ s1
  have hs1 : s1.Canonical := by
    unfold s1
    split
    · exact h.setFull _ _ _
    · exact (h.scratchWrite _ _ _).setFull _ _ _
    · exact h
  clear_value s1
  split
  · exact hs1
  · split
    · exact hs1
    · exact hs1.putView

theorem State.Canonical.serveWord {fuel core word clock} {s : State} (h : s.Canonical) :
    (State.serveWord fuel core word clock s).Canonical := by
  induction fuel generalizing core word clock s with
  | zero => exact h
  | succ fuel ih =>
    unfold State.serveWord
    split
    · exact h
    · split
      · exact h
      · extract_lets _ s1 raise s2 gone here s3 c s4
        have hs3 : s3.Canonical := h.serveLane.modTeam.modCoreSame
        clear_value s3 here
        have hs4 : s4.Canonical := by
          unfold s4
          split
          · exact ih hs3
          · exact hs3
        exact ih hs4

theorem State.Canonical.arrive {s : State} (h : s.Canonical) {t x} : (s.arrive t x).Canonical := by
  unfold State.arrive
  split
  · exact h
  · exact h.modCoreSame.serveWord

theorem M.Keeps.endAccess {t op} : M.Keeps (M.endAccess t op) := by
  unfold M.endAccess
  refine .andThen .team fun a => ?_
  split
  · exact .andThen .stopIf fun _ => .ite (.andThen .bind fun _ => .andThen (.modify fun _ h => h.replay) fun _ =>
      .pure) .pure
  · exact .pure

theorem M.Keeps.fullEmpty {op base ix vd f t} : M.Keeps (Machine.fullEmpty op base ix vd f t) := by
  unfold Machine.fullEmpty
  split
  · exact .endAccess
  · refine .andThen .gate fun _ => ?_
    extract_lets access
    have haccess : ∀ x, M.Keeps (access x) := by
      intro x
      unfold access
      split
      refine .andThen .aligned fun _ => .andThen .countable fun _ => .andThen .offsets fun r => ?_
      split
      · exact .pure
      · extract_lets start order
        have hstart : ∀ u, M.Keeps (start u) := by
          refine fun _ => .withState fun s h => ?_
          split
          next ticket u e =>
            exact .andThen (.set (.of_snd e h.fresh)) fun _ => .andThen .view fun _ => .andThen .setProg fun _ =>
              .andThen (.modify fun _ h => h.arrive) fun _ => .endAccess
        have horder : ∀ u, M.Keeps (order u) := fun _ =>
          .andThen .inOrder fun _ => .ite (.andThen .bind fun _ => .andThen .appended fun _ =>
            .andThen (.modify fun _ h => h.publish) hstart) (.andThen (.modify fun _ h => h.recordPending) hstart)
        exact .ite (.andThen .noPoison fun _ => .andThen .afterPasses horder) (horder ())
    clear_value access
    split
    · exact .andThen .storeAddresses haccess
    · exact .andThen .loadAddresses fun _ => .andThen .pure haccess

/-! ## The operations of `Machine/Sync` -/

theorem M.Keeps.inBound {scope} : M.Keeps (M.inBound scope) := .withState fun _ _ => .stopIf

theorem M.Keeps.flush {t w sel} : M.Keeps (M.flush t w sel) :=
  .withState fun _ _ => .andThen .stopIf fun _ => .modify fun _ h1 => h1.flush

theorem M.Keeps.release {t scope} : M.Keeps (M.release t scope) := by
  unfold M.release
  refine .andThen .inBound fun _ => .andThen .stopIf fun _ => .andThen .bind fun _ => .andThen (.modify fun _ h =>
    h.recordPending) fun _ => .withState fun _ _ => ?_
  extract_lets _ jp
  have hjp : ∀ r, M.Keeps (jp r) := by
    intro r
    unfold jp
    refine .withState fun _ h1 => ?_
    dsimp only
    refine .andThen (.set h1.choose) fun _ => ?_
    split
    · split
      · exact .set h1.choose.same
      · exact .pure
    · exact .modify fun _ h2 => h2.publish
  clear_value jp
  exact .maybe .flush hjp

theorem M.Keeps.acquire {t scope named} : M.Keeps (M.acquire t scope named) := by
  unfold M.acquire
  split
  · exact .pure
  · exact .throw
  · refine .andThen .inBound fun _ => .andThen .bind fun _ => .andThen (.modify fun _ h => h.recordPending) fun _ =>
      .withState fun _ h => ?_
    dsimp only
    refine .andThen (.set h.choose) fun _ => ?_
    split
    · exact .pure
    · exact .ite (.andThen .setProg fun _ => .throw) (.modify fun _ h1 => h1.see)

theorem M.Keeps.fence {scope t} : M.Keeps (fence scope t) := by
  unfold Machine.fence
  refine .andThen .gate fun a => ?_
  extract_lets jp
  have hjp : ∀ r, M.Keeps (jp r) := by
    intro r
    unfold jp
    exact .andThen .acquire fun _ => .pure
  clear_value jp
  split
  · exact hjp _
  · exact .andThen .release hjp

theorem M.Keeps.arriveAt {t scope} : M.Keeps (M.arriveAt t scope) :=
  .andThen .inBound fun _ => .andThen .stopIf fun _ => .andThen .bind fun _ => .andThen (.modify fun _ h =>
    h.recordPending) fun _ => .withState fun _ _ => .maybe .flush fun _ => .modify fun _ h1 => h1.publish

theorem M.Keeps.barrierChecks {t sd outside} : M.Keeps (M.barrierChecks t sd outside) :=
  .andThen .read fun _ => .andThen .notInHandler fun _ => .andThen .emptyStack fun _ => .stopIf

theorem M.Keeps.barrier {scope sd t} : M.Keeps (barrier scope sd t) := by
  unfold Machine.barrier
  refine .andThen .barrierChecks fun a => ?_
  extract_lets jp
  have hjp : ∀ r, M.Keeps (jp r) := by
    intro r
    unfold jp
    refine .withState fun s h => ?_
    split
    · exact .andThen .stopIf fun _ => .andThen .modTeam fun _ => .andThen (.modify fun _ h1 => h1.replay) fun _ =>
        .andThen .regs fun _ => .pure
    · exact .throw
  clear_value jp
  exact .ite (.andThen .gate fun _ => .andThen .arriveAt fun _ => .withState fun _ h => .andThen .modTeam fun _ =>
    .andThen (.modify fun _ h1 => h1.barCheck) hjp) (hjp _)

theorem M.Keeps.groupBarrier {scope sd t} : M.Keeps (groupBarrier scope sd t) := by
  unfold Machine.groupBarrier
  refine .withState fun s h => ?_
  extract_lets group
  clear_value group
  refine .andThen .barrierChecks fun _ => ?_
  split
  · exact .throw
  · extract_lets wait
    have hwait : ∀ r, M.Keeps (wait r) := by
      intro r
      refine .withState fun _ h => ?_
      split
      · exact .andThen .stopIf fun _ => .andThen .modTeam fun _ => .andThen (.modify fun _ h => h.replay) fun _ =>
          .andThen .regs fun _ => .pure
      · exact .throw
    refine .ite ?_ (hwait ())
    exact .andThen .gate fun _ => .andThen .arriveAt fun _ => .withState fun _ _ => .andThen .modTeam fun _ =>
      .andThen (.modify fun _ h => h.groupCheck) hwait

theorem State.Canonical.moveTeam {s : State} (h : s.Canonical) {t gang fromGen} : (s.moveTeam t gang
    fromGen).Canonical :=
  h.modTeam.afterTeam

theorem M.Keeps.enter {t g id named trap} : M.Keeps (M.enter t g id named trap) := by
  unfold M.enter
  refine .withState fun _ h => ?_
  split
  · exact .andThen .stopIf fun _ => .ite (.set h.moveTeam) .pure
  · split
    · exact .throw
    · exact .set h.same.moveTeam

theorem M.Keeps.leaveGang {t} : M.Keeps (M.leaveGang t) := .andThen .stopIf fun _ => .gate

theorem M.Keeps.joinGang {sa t} : M.Keeps (joinGang sa t) := by
  unfold Machine.joinGang
  refine .andThen .read fun _ => .andThen .notInHandler fun _ => .andThen .emptyStack fun _ => .andThen .stopIf
    fun _ => ?_
  extract_lets _
  refine .andThen .stopIf fun _ => .andThen .leaveGang fun _ => .withState fun _ _ => ?_
  split
  · exact .throw
  · exact .andThen .enter fun _ => .pure

theorem State.Canonical.gather {s : State} (h : s.Canonical) {core g cs} : (s.gather core g cs).Canonical := by
  unfold State.gather
  extract_lets _ _ s1
  have hs1 : s1.Canonical := h.modCoreSame
  clear_value s1
  exact hs1.same

theorem State.Canonical.releaseFulls {s : State} (h : s.Canonical) {n n1 w} : (s.releaseFulls n n1 w).Canonical := by
  induction n generalizing s with
  | zero =>
    unfold State.releaseFulls
    exact h
  | succ n ih =>
    unfold State.releaseFulls
    exact ih h.releaseFull

theorem State.Canonical.gatherSome {s : State} (h : s.Canonical) {t g entry p np counter todo} : (s.gatherSome t g
    entry p np counter todo).2.Canonical := by
  unfold State.gatherSome
  split
  · exact h
  · exact h.same.gather.modTeam.releaseFulls

theorem State.Canonical.gatherAll {s : State} (h : s.Canonical) {n t a w b b1 b2 xs} : (s.gatherAll n t a w b b1 b2
    xs).2.Canonical := by
  induction n generalizing xs s with
  | zero =>
    unfold State.gatherAll
    exact h
  | succ n ih =>
    unfold State.gatherAll
    split
    · exact h
    · exact h
    · dsimp only
      split
      · exact h.gatherSome
      · exact ih h.gatherSome

theorem M.Keeps.gather {t g entry p np off todo} : M.Keeps (M.gather t g entry p np off todo) := by
  unfold M.gather
  refine .withState fun _ h => ?_
  dsimp only
  refine .andThen (.set h.gatherAll) fun _ => ?_
  split
  · exact .pure
  · exact .andThen .setProg fun _ => .throw

theorem M.Keeps.spawnChildren {p np sa sd t} : M.Keeps (spawnChildren p np sa sd t) := by
  unfold Machine.spawnChildren
  refine .withState fun _ _ => ?_
  split
  · exact .gather
  · refine .andThen .read fun _ => ?_
    dsimp only
    refine .andThen .notInHandler fun _ => .andThen .stopIf fun _ => .andThen .stopIf fun _ => .andThen .stopIf
      fun _ => ?_
    split
    · exact .throw
    · exact .andThen .gate fun _ => .andThen .stopIf fun _ => .andThen .stopIf fun _ => .andThen .bind fun _ =>
        .andThen (.modify fun _ h1 => h1.publish) fun _ => .andThen (.modify fun _ h1 => h1.counterAdd) fun _ =>
        .gather
  · exact .throw

theorem M.Keeps.joinWait {sa t} : M.Keeps (joinWait sa t) := by
  unfold Machine.joinWait
  refine .andThen .read fun _ => .withState fun _ _ => ?_
  split
  · exact .throw
  · refine .andThen .stopIf fun _ => .andThen .gate fun _ => ?_
    extract_lets jp
    have hjp : ∀ r, M.Keeps (jp r) := by
      intro r
      unfold jp
      exact .withState fun _ h1 => .andThen .stopIf fun _ => .andThen .bind fun _ => .andThen (.modify fun _ h2 =>
        h2.replay.see) fun _ => .pure
    clear_value jp
    exact .ite (.andThen .setProg fun _ => .andThen (.modify fun _ h1 => h1.releasePartials) hjp) (hjp _)

theorem M.Keeps.tileStep {old new sa t} : M.Keeps (tileStep old new sa t) := by
  unfold Machine.tileStep
  refine .andThen .read fun _ => .andThen .gate fun _ => .withState fun _ _ => ?_
  split
  · exact .throw
  · exact .andThen .lift fun _ => .andThen .stopIf fun _ => .andThen (.modify fun _ h1 => h1.modCoreSame) fun _ =>
      .pure

theorem M.Keeps.tileAlloc {sa sd t} : M.Keeps (tileAlloc sa sd t) := by
  unfold Machine.tileAlloc
  refine .andThen .read fun _ => .withState fun _ _ => ?_
  split
  · extract_lets _ _ _
    refine .andThen .stopIf fun _ => ?_
    split
    · exact .throw
    · refine .andThen .stopIf fun _ => .andThen .gate fun _ => ?_
      split
      · exact .andThen .regs fun _ => .pure
      · exact .andThen (.modify fun _ h1 => h1.modCoreSame) fun _ => .andThen .regs fun _ => .pure
  · exact .throw

theorem M.Keeps.tileStat {sa sd t} : M.Keeps (tileStat sa sd t) :=
  .andThen .read fun _ => .withState fun _ h => .ite (.andThen .regs fun _ => .pure) (.andThen (.set h.same) fun _ =>
    .andThen .regs fun _ => .pure)

/-! ## The operations of `Machine/Matrix` -/

theorem M.Keeps.family {t} : M.Keeps (M.family t) := by
  unfold M.family
  refine .withState fun _ _ => ?_
  split
  · exact .pure
  · exact .throw

theorem M.Keeps.accAlloc {sa sd t} : M.Keeps (accAlloc sa sd t) := by
  unfold Machine.accAlloc
  refine .andThen .read fun _ => ?_
  extract_lets _ _ _
  split
  · exact .throw
  · refine .andThen .stopIf fun _ => .andThen .gate fun _ => .andThen .family fun _ => ?_
    dsimp only
    split
    · exact .withState fun _ h => .ite (.andThen (.modify fun _ h1 => h1.putFamily) fun _ => .andThen .regs fun _ =>
        .pure) (.andThen .regs fun _ => .pure)
    · exact .andThen .regs fun _ => .pure

theorem M.Keeps.accChange {n change t} : M.Keeps (accChange n change t) :=
  .andThen .gate fun _ => .andThen .family fun _ => .andThen .stopIf fun _ => .withState fun _ _ => .andThen .stopIf
    fun _ => .andThen (.modify fun _ h1 => h1.putFamily) fun _ => .pure

theorem State.Canonical.applyPass {s : State} (h : s.Canonical) {core p} : (s.applyPass core p).Canonical := by
  unfold State.applyPass
  split
  · exact h
  · exact h.putFamily.modTeam

theorem State.Canonical.runPass {s : State} (h : s.Canonical) {core} : (s.runPass core).Canonical := by
  unfold State.runPass
  extract_lets _
  split
  · exact h
  · exact h.putCoreSame.applyPass

theorem State.Canonical.runPasses {s : State} (h : s.Canonical) {n n1} : (s.runPasses n n1).Canonical := by
  induction n generalizing s with
  | zero =>
    unfold State.runPasses
    exact h
  | succ n ih =>
    unfold State.runPasses
    exact ih h.runPass

theorem M.Keeps.issuePass {t p} : M.Keeps (M.issuePass t p) := by
  unfold M.issuePass
  refine .andThen (.modify fun _ h => h.modCoreSame) fun _ => .withState fun _ h => ?_
  dsimp only
  exact .andThen (.set h.choose) fun _ => .ite (.modify fun _ h1 => h1.runPasses) .pure

theorem M.Keeps.admitted {t} : M.Keeps (M.admitted t) :=
  .withState fun _ h => .ite (.andThen (.modify fun _ h1 => h1.modCoreSame) fun _ => .andThen .throw fun _ => .modify
    fun _ h1 => h1.modCoreSame) (.modify fun _ h1 => h1.modCoreSame)

theorem M.Keeps.matrixMultiply {sp fmt acc oma omb sd t} : M.Keeps (matrixMultiply sp fmt acc oma omb sd t) :=
  .andThen .read fun _ => .andThen .stopIf fun _ => .andThen .gate fun _ => .andThen .family fun _ => .withState
    fun _ h => .andThen .lift fun _ => .andThen (.modify fun _ h1 => h1.same) fun _ => .andThen .issuePass fun _ =>
    .pure

theorem M.Keeps.octetMultiply {sp fmt vd va omb sd t} : M.Keeps (octetMultiply sp fmt vd va omb sd t) := by
  unfold Machine.octetMultiply
  refine .andThen .read fun _ => ?_
  dsimp only
  refine .andThen .gate fun _ => .andThen .family fun _ => .withState fun _ _ => .andThen .lift fun _ => .andThen
    .stopIf fun _ => .andThen .stopIf fun _ => ?_
  split
  · exact .andThen .stopIf fun _ => .andThen .stopIf fun _ => .andThen .admitted fun _ => .andThen (.modify
      fun _ h1 => h1.same) fun _ => .andThen .regs fun _ => .andThen .modTeam fun _ => .pure
  · exact .andThen .stopIf fun _ => .andThen .admitted fun _ => .andThen (.modify fun _ h1 => h1.same) fun _ =>
      .andThen .regs fun _ => .andThen .modTeam fun _ => .pure

theorem State.Canonical.readPartsBad {s : State} (h : s.Canonical) {core n xs} : (s.readPartsBad core n
    xs).2.2.Canonical := by
  induction xs generalizing n s with
  | nil =>
    unfold State.readPartsBad
    exact h
  | cons x xs ih =>
    unfold State.readPartsBad
    split
    · rename_i u e
      have hu : u.Canonical := .of_snd_snd e h.coreRead
      split
      · rename_i u1 e1
        have hu1 : u1.Canonical := .of_snd_snd e1 (ih hu)
        exact hu1

theorem M.Keeps.bulkRead {t acc va n} : M.Keeps (M.bulkRead t acc va n) := by
  unfold M.bulkRead
  refine .withState fun _ h => .withState fun _ _ => ?_
  dsimp only
  refine .andThen (.set h.translateRange) fun _ => ?_
  split
  · exact .throw
  · exact .andThen (.set h.translateRange.readPartsBad) fun _ => .pure

theorem M.Keeps.weightImage {t w} : M.Keeps (M.weightImage t w) :=
  .andThen .bulkRead fun _ => .andThen .stopIf fun _ => .andThen .stopIf fun _ => .andThen .bulkRead fun _ => .andThen
    .stopIf fun _ => .andThen .stopIf fun _ => .pure

theorem M.Keeps.weightLoad {sa sd t} : M.Keeps (weightLoad sa sd t) :=
  .andThen .read fun _ => .andThen .gate fun _ => .andThen .family fun _ => .withState fun _ h => .ite (.andThen .regs
    fun _ => .pure) (.andThen .stopIf fun _ => .andThen .stopIf fun _ => .andThen .bind fun _ => .andThen .weightImage
    fun _ => .andThen (.modify fun _ h1 => h1.modCoreSame) fun _ => .andThen .regs fun _ => .pure)

theorem M.Keeps.weightRelease {t} : M.Keeps (weightRelease t) :=
  .andThen .gate fun _ => .andThen .family fun p => .withState fun s h => .andThen .stopIf fun _ => .andThen (.modify
    fun _ h => h.modCoreSame (by split <;> rfl)) fun _ => .pure

/-! ## The operations of `Machine/Engines` -/

theorem State.Canonical.engineAcquire {s : State} (h : s.Canonical) {c} : (s.engineAcquire c).Canonical :=
  h.forceBelow

theorem M.Keeps.engineFault {e at_} : M.Keeps (M.engineFault e at_) := by
  unfold M.engineFault
  split
  · exact .pure
  · exact .throw

theorem State.Canonical.translateUpTo {s : State} (h : s.Canonical) {c acc xs} : (s.translateUpTo c acc
    xs).2.2.Canonical := by
  induction xs generalizing s with
  | nil =>
    unfold State.translateUpTo
    exact h
  | cons x xs ih =>
    unfold State.translateUpTo
    split
    · rename_i u e
      have hu : u.Canonical := .of_snd e h.translate
      exact hu
    · rename_i u e
      have hu : u.Canonical := .of_snd e h.translate
      exact ih hu

theorem State.Canonical.readStream {s : State} (h : s.Canonical) {view xs} : (s.readStream view xs).2.Canonical := by
  induction xs generalizing s with
  | nil => exact h
  | cons x xs ih =>
    cases view with
    | none => exact ih (h.homeRead _ _)
    | some core => exact ih h.coreRead

theorem M.Keeps.engineReadIn {bulk c r va n} : M.Keeps (M.engineReadIn bulk c r va n) := by
  unfold M.engineReadIn
  refine .withState fun _ h => ?_
  dsimp only
  refine .andThen (.set (h.translateUpTo.readStream.sendPieces.ite h.translateUpTo.readStream)) fun _ => ?_
  split
  · exact .pure
  · exact .andThen .engineFault fun _ => .pure

theorem M.Keeps.engineRead {a a1 w n} : M.Keeps (M.engineRead a a1 w n) := .engineReadIn

theorem M.Keeps.bulkFrom {a a1 w n} : M.Keeps (M.bulkFrom a a1 w n) := .engineReadIn

theorem M.Keeps.segments {c r va n src space eng copy} : M.Keeps (M.segments c r va n src space eng copy) := by
  unfold M.segments
  refine .withState fun _ h => ?_
  dsimp only
  refine .andThen (.set h.translateUpTo) fun _ => ?_
  split
  · exact .andThen .pure fun _ => .pure
  · exact .andThen .engineFault fun _ => .andThen .pure fun _ => .pure

theorem State.Canonical.holdSegments {s : State} (h : s.Canonical) {core run bs} : (s.holdSegments core run
    bs).Canonical :=
  h.modCoreSame

theorem M.Keeps.engineAppend {c r es} : M.Keeps (M.engineAppend c r es) :=
  .withState fun _ _ => .andThen .stopIf fun _ => .modify fun _ h1 => .foldl _ _ h1 fun _ _ h2 => h2.appendEntry

theorem State.Canonical.enginePublish {s : State} (h : s.Canonical) {c r} : (s.enginePublish c r).Canonical :=
  h.recordPubOf.forceBelow

theorem State.Canonical.haltRunTeam {s : State} (h : s.Canonical) {r code} : (s.haltRunTeam r code).Canonical := by
  unfold State.haltRunTeam
  split
  · exact h
  · exact h.ite h.haltTeam

theorem State.Canonical.tileTo {s : State} (h : s.Canonical) {core k st} : (s.tileTo core k st).Canonical :=
  h.modCoreSame

theorem M.Keeps.moveBytes {c r dir dst src n cut} : M.Keeps (M.moveBytes c r dir dst src n cut) :=
  .withState fun _ _ => .ite (.withState fun _ _ => .andThen .pure fun _ => .ite (.ite (.andThen (.modify fun _ h2 =>
    h2.haltRunTeam) fun _ => .pure) (.andThen (.modify fun _ h2 => h2.scratchWrite _ _ _) fun _ => .pure)) (.andThen
    (.modify fun _ h2 => h2.holdSegments) fun _ => .pure)) (.andThen .bulkFrom fun _ => .ite (.ite (.andThen (.modify
    fun _ h1 => h1.haltRunTeam) fun _ => .pure) (.andThen (.modify fun _ h1 => h1.scratchWrite _ _ _) fun _ => .pure))
    (.andThen (.modify fun _ h1 => h1.holdSegments) fun _ => .pure))

theorem State.Canonical.endCommand {s : State} (h : s.Canonical) {c r status} : (s.endCommand c r status).Canonical :=
  h.putChan.ite h.completeRun

theorem M.Keeps.performCopy {c r dst src w limit} : M.Keeps (M.performCopy c r dst src w limit) :=
  .andThen (.modify fun _ h => h.putChan) fun _ => .ite (.modify fun _ h => h.completeRun) (.andThen .moveBytes
    fun _ => .withState fun _ _ => .ite (.ite (.modify fun _ h1 => h1.tileTo.completeRun) (.modify fun _ h1 =>
    h1.completeRun)) (.modify fun _ h1 => h1.endCommand))

theorem M.Keeps.copyCommand {sn sa sd t} : M.Keeps (copyCommand sn sa sd t) := by
  unfold Machine.copyCommand
  refine .andThen .read fun _ => ?_
  dsimp only
  refine .andThen .family fun _ => .withState fun _ _ => .andThen .lift fun _ => .andThen .countable fun _ => .andThen
    (.modify fun _ h1 => h1.recordPending) fun _ => .andThen .appended fun _ => .withState fun _ h1 => .andThen (.set
    h1.chanFor.fresh) fun _ => ?_
  split
  · exact .throw
  · exact .ite (.andThen .pure fun _ => .andThen .append fun _ => .andThen (.modify fun _ h2 => h2.modTeam) fun _ =>
      .maybe (.modify fun _ h2 => h2.tileTo) fun _ => .andThen .later fun _ => .andThen (.modify fun _ h2 =>
      h2.putChan.ite h2.putChan.acceptRun) fun _ => .pure) (.andThen .segments fun _ => .andThen .append fun _ =>
      .andThen (.modify fun _ h2 => h2.modTeam) fun _ => .maybe (.modify fun _ h2 => h2.tileTo) fun _ => .andThen
      .later fun _ => .andThen (.modify fun _ h2 => h2.putChan.ite h2.putChan.acceptRun) fun _ => .pure)

theorem M.Keeps.sealBatch {sd t} : M.Keeps (sealBatch sd t) :=
  .andThen .read fun _ => .andThen .modTeam fun _ => .andThen .regs fun _ => .pure

theorem M.Keeps.waitBatches {sa t} : M.Keeps (waitBatches sa t) := by
  unfold Machine.waitBatches
  refine .andThen .read fun _ => .andThen .gate fun _ => ?_
  extract_lets _ _ _
  refine .andThen .stopIf fun _ => ?_
  split
  · exact .andThen .modTeam fun _ => .throw
  · refine .andThen .bind fun _ => .andThen (.modify fun _ h => h.recordPending) fun _ => .withState fun _ _ => ?_
    split
    · split
      · exact .andThen (.modify fun _ h1 => h1.recordPub) fun _ => .andThen (.modify fun _ h1 => h1.forceBelow)
          fun _ => .andThen .modTeam fun _ => .pure
      · exact .andThen .modTeam fun _ => .pure
    · exact .andThen .modTeam fun _ => .pure

theorem M.Keeps.drainSegments {c r p slot xs} : M.Keeps (M.drainSegments c r p slot xs) := by
  induction xs with
  | nil =>
    unfold M.drainSegments
    exact .pure
  | cons x xs ih =>
    unfold M.drainSegments
    extract_lets _
    refine .andThen .segments fun a => ?_
    dsimp only
    split
    · exact .pure
    · exact ih.andThen fun _ => .pure

theorem M.Keeps.drainReductions {c r p f order xs} : M.Keeps (M.drainReductions c r p f order xs) := by
  induction xs with
  | nil =>
    unfold M.drainReductions
    exact .pure
  | cons x xs ih =>
    unfold M.drainReductions
    refine .withState fun _ h => ?_
    split
    · rename_i u e
      have hu : u.Canonical := .of_snd e h.translate
      exact .andThen (.set hu) fun _ => .andThen .engineFault fun _ => .pure
    · rename_i u e
      have hu : u.Canonical := .of_snd e h.translate
      exact .andThen (.set hu) fun _ => ih.andThen fun _ => .pure

theorem M.Keeps.engineWrite {c r va bs} : M.Keeps (M.engineWrite c r va bs) :=
  .andThen .segments fun _ => .andThen .engineAppend fun _ => .pure

theorem M.Keeps.engineWrites {c r xs} : M.Keeps (M.engineWrites c r xs) := by
  induction xs with
  | nil =>
    unfold M.engineWrites
    exact .pure
  | cons x xs ih =>
    unfold M.engineWrites
    refine .andThen .engineWrite fun _ => ?_
    split
    · exact .pure
    · exact ih

theorem M.Keeps.drainWrite {c r p src add cut} : M.Keeps (M.drainWrite c r p src add cut) :=
  .withState fun _ h => .andThen (.modify fun _ h1 => h1.same) fun _ => .ite (.withState fun _ h1 => .andThen
    .drainReductions fun _ => .ite (.andThen .engineAppend fun _ => .andThen (.modify fun _ h2 => h2.enginePublish)
    fun _ => .pure) (.andThen (.modify fun _ h2 => h2.modCoreSame.modTeam) fun _ => .pure)) (.ite (.ite (.andThen
    .engineWrite fun _ => .andThen (.modify fun _ h1 => h1.enginePublish) fun _ => .pure) (.ite (.andThen
    .engineWrites fun _ => .andThen (.modify fun _ h1 => h1.enginePublish) fun _ => .pure) .pure)) (.andThen (.modify
    fun _ h1 => h1.holdSegments.enginePublish) fun _ => .pure))

theorem State.Canonical.drainDone {s : State} (h : s.Canonical) {c tile index status} : (s.drainDone c tile index
    status).Canonical := by
  unfold State.drainDone
  split
  · exact h.tileTo
  · split
    · exact h
    · exact h.putFamily

theorem State.Canonical.drainBegin {s : State} (h : s.Canonical) {c tile index} : (s.drainBegin c tile
    index).Canonical := by
  unfold State.drainBegin
  split
  · exact h.tileTo
  · split
    · exact h
    · exact h.putFamily

theorem M.Keeps.command {t c r} : M.Keeps (M.command t c r) :=
  .andThen .modTeam fun _ => .andThen .setProg fun _ => .andThen .later fun _ => .modify fun _ h => h.putChan.ite
    h.putChan.acceptRun

theorem M.Keeps.accepted {t sd} : M.Keeps (M.accepted t sd) := by
  unfold M.accepted
  refine .andThen .team fun _ => ?_
  split
  · exact .andThen .regs fun _ => .pure
  · exact .throw

theorem M.Keeps.drainCommand {add tile h' sa sd t} : M.Keeps (Machine.drainCommand add tile h' sa sd t) := by
  unfold Machine.drainCommand
  refine .andThen .read fun a => ?_
  split
  · exact .accepted
  · refine .andThen .countable fun _ => .andThen .family fun p => ?_
    split
    refine .andThen .stopIf fun _ => .andThen .stopIf fun _ => .andThen .bind fun _ => .andThen .bulkRead fun q => ?_
    split
    refine .andThen .stopIf fun _ => .withState fun s h => ?_
    split
    next c u e =>
      have hu : u.Canonical := .of_snd e h.chanFor
      split
      next id v e =>
        refine .andThen (.set (.of_snd e hu.fresh)) fun _ => ?_
        split
        · exact .throw
        · extract_lets r src command drain
          have hcommand : ∀ x, M.Keeps (command x) := fun _ =>
            .andThen .engineAppend fun _ => .andThen (.modify fun _ h => h.drainBegin) fun _ =>
            .andThen .command fun _ => .accepted
          have hdrain : ∀ u, M.Keeps (drain u) := fun _ =>
            .andThen (.modify fun _ h => h.recordPending) fun _ => .andThen .appended fun _ =>
            .ite (.andThen .pure hcommand) (.andThen .drainSegments hcommand)
          clear_value command drain
          split
          · exact .andThen .throw hdrain
          · exact .andThen .throw hdrain
          · exact .andThen .throw hdrain
          · exact hdrain ()

theorem M.Keeps.enqueue {e sa sd t} : M.Keeps (enqueue e sa sd t) := by
  unfold Machine.enqueue
  refine .andThen .read fun _ => ?_
  split
  · exact .accepted
  · refine .andThen .family fun _ => ?_
    dsimp only
    refine .andThen .stopIf fun _ => .andThen .stopIf fun _ => .andThen .gate fun _ => .withState fun _ h => .andThen
      (.set h.chanFor.fresh) fun _ => ?_
    split
    · exact .andThen .regs fun _ => .pure
    · exact .andThen .countable fun _ => .andThen (.modify fun _ h1 => h1.recordPending) fun _ => .andThen .command
        fun _ => .accepted

theorem M.Keeps.readSequence {e sd t} : M.Keeps (readSequence e sd t) := by
  unfold Machine.readSequence
  refine .andThen .read fun _ => .andThen .family fun _ => ?_
  dsimp only
  refine .withState fun _ _ => .withState fun _ _ => ?_
  split
  · split
    · exact .andThen .pure fun _ => .andThen .stopIf fun _ => .andThen .regs fun _ => .pure
    · exact .andThen .gate fun _ => .andThen .setProg fun _ => .andThen .pure fun _ => .andThen .stopIf fun _ =>
        .andThen .regs fun _ => .pure
  · exact .andThen .regs fun _ => .pure

theorem M.Keeps.awaitRun {e sa sd t} : M.Keeps (awaitRun e sa sd t) :=
  .andThen .read fun _ => .andThen .family fun _ => .withState fun _ _ => .andThen .stopIf fun _ => .maybe .gate
    fun _ => .andThen .stopIf fun _ => .andThen .acquire fun _ => .andThen .regs fun _ => .pure

theorem M.Keeps.readEntry {c r} : M.Keeps (M.readEntry c r) := by
  unfold M.readEntry
  extract_lets _
  refine .withState fun _ _ => ?_
  dsimp only
  split
  · exact .pure
  · split
    · exact .ite .pure (.andThen (.modify fun _ h1 => h1.engineAcquire) fun _ => .withState fun _ h1 => .pure)
    · refine .andThen (.modify fun _ h1 => h1.engineAcquire) fun _ => .withState fun _ h1 => .andThen (.set
        h1.translateUpTo.readStream) fun _ => ?_
      split
      · exact .throw
      · exact .pure
      · exact .ite .pure .pure

theorem M.Keeps.idle {α : Type} : (M.idle : M α).Keeps := .throw

theorem M.Keeps.run {chan num} : M.Keeps (M.run chan num) := by
  unfold M.run
  refine .withState fun _ _ => ?_
  split
  · exact .idle
  · split
    · exact .idle
    · exact .pure

theorem State.Canonical.putRun {s : State} (h : s.Canonical) {chan r} : (s.putRun chan r).Canonical := by
  unfold State.putRun
  split
  · exact h
  · exact h.putChan

theorem State.Canonical.serveChan {s : State} (h : s.Canonical) {c} : (s.serveChan c).Canonical := h.same

theorem M.Keeps.entry {kind chan num body} (hb : ∀ c r bs, (body c r bs).Keeps) :
    M.Keeps (M.entry kind chan num body) := by
  unfold M.entry
  refine .andThen .run fun p => .withState fun s h => ?_
  extract_lets r' jp
  have hjp : ∀ r, M.Keeps (jp r) := by
    intro r
    refine .andThen .readEntry fun _ => ?_
    split
    · exact .idle
    · extract_lets start
      have hstart : ∀ r, M.Keeps (start r) := by
        intro r
        refine .andThen (.modify fun _ h => h.serveChan.putRun) fun _ => .andThen (hb _ _ _) fun cur => .modify
          fun _ h => ?_
        split
        · exact h.putRun
        · exact h
      exact .maybe .idle hstart
  exact .maybe .idle hjp

theorem State.Canonical.setRunFault {s : State} (h : s.Canonical) {chan r fault} : (s.setRunFault chan r
    fault).Canonical :=
  h.putRun

theorem State.Canonical.claimTile {s : State} (h : s.Canonical) {core slot k} : (s.claimTile core slot k).Canonical :=
    by
  unfold State.claimTile
  split
  · exact h.modCoreSame.ite h
  · exact h

theorem M.Keeps.copyEntry {c r bs} : M.Keeps (Machine.copyEntry c r bs) := by
  unfold Machine.copyEntry
  extract_lets e
  refine .withState fun s h => ?_
  split
  · exact .pure
  · refine .withState fun s h => ?_
    split
    next core base rest _ =>
      refine .andThen (.modify fun _ h => h.claimTile) fun _ => ?_
      extract_lets move from_ start
      have hmove : ∀ x, M.Keeps (move x) := by
        intro x
        unfold move
        refine .andThen .engineAppend fun _ => .andThen .moveBytes fun y => ?_
        split
        next status fault =>
          refine .andThen (.modify fun _ h => h.setRunFault) fun _ => ?_
          extract_lets close empty ready
          have hempty : ∀ u, M.Keeps (empty u) := by
            intro u
            unfold empty
            split
            · exact .andThen (.modify fun _ h => h.tileTo) fun _ => .pure
            · exact .pure
          have hready : ∀ u, M.Keeps (ready u) := by
            intro u
            unfold ready
            split
            · split
              · exact .andThen (.modify fun _ h => h.tileTo) hempty
              · exact hempty ()
            · exact hempty ()
          exact .maybe (.modify fun _ h => h.enginePublish) hready
      clear_value move
      have hstart : ∀ u, M.Keeps (start u) := fun _ => .ite (.andThen .pure hmove) (.andThen .segments hmove)
      clear_value start
      split
      · exact .withState fun _ _ => .ite (.andThen .idle hstart) (.andThen (.modify fun _ h => h.tileTo) hstart)
      · exact hstart ()

theorem M.Keeps.indices {c r e base} : M.Keeps (M.indices c r e base) := .andThen .bulkFrom fun _ => .pure

theorem State.Canonical.writeStream {s : State} (h : s.Canonical) {xs a} : (s.writeStream xs a).Canonical := by
  induction xs generalizing a s with
  | nil =>
    unfold State.writeStream
    exact h
  | cons x xs ih =>
    unfold State.writeStream
    exact ih (h.streamWrite _ _ _)

theorem State.Canonical.addStream {s : State} (h : s.Canonical) {f xs a} : (s.addStream f xs a).Canonical := by
  induction xs generalizing a s with
  | nil =>
    unfold State.addStream
    exact h
  | cons x xs ih =>
    unfold State.addStream
    exact ih (.foldl _ _ h fun _ _ h1 => ((h1.settle _).takeOver _ _).applyReduce _ _ _ _ _)

theorem M.Keeps.moveElement {c r f from_ to_ n} : M.Keeps (M.moveElement c r f from_ to_ n) := by
  unfold M.moveElement
  refine .andThen .bulkFrom fun _ => ?_
  dsimp only
  split
  · exact .pure
  · refine .withState fun _ h => .andThen (.set h.translateUpTo.sendPieces) fun _ => ?_
    split
    · exact .andThen .engineFault fun _ => .pure
    · refine .andThen ?_ fun _ => .pure
      refine .modify fun _ h1 => ?_
      split
      · exact h1.writeStream
      · exact h1.addStream

theorem M.Keeps.moveElements {c r f n xs} : M.Keeps (M.moveElements c r f n xs) := by
  induction xs with
  | nil =>
    unfold M.moveElements
    exact .pure
  | cons x xs ih =>
    unfold M.moveElements
    refine .andThen .moveElement fun _ => ?_
    split
    · exact .pure
    · exact ih

theorem M.Keeps.listEntry {scatter c r bs} : M.Keeps (listEntry scatter c r bs) :=
  .ite .pure (.withState fun _ _ => .maybe (.modify fun _ h1 => h1.engineAcquire) fun _ => .andThen .indices fun _ =>
    .ite .pure (.maybe (.modify fun _ h1 => h1.engineAcquire) fun _ => .andThen .moveElements fun _ => .andThen
    (.modify fun _ h1 => h1.setRunFault) fun _ => .pure))

theorem M.Keeps.drainEntry {c r bs} : M.Keeps (drainEntry c r bs) := by
  unfold Machine.drainEntry
  extract_lets _ _ _ _ _
  split
  · exact .pure
  · refine .andThen .engineRead fun _ => ?_
    dsimp only
    split
    · exact .andThen (.modify fun _ h => h.setRunFault) fun _ => .pure
    · split
      · exact .pure
      · refine .withState fun _ _ => .withState fun _ _ => .withState fun _ _ => ?_
        split
        · exact .pure
        · exact .pure
        · exact .idle
        · exact .withState fun _ h3 => .ite (.andThen .pure fun _ => .andThen .engineAppend fun _ => .andThen
            .drainWrite fun _ => .andThen (.modify fun _ h4 => h4.drainDone.setRunFault) fun _ => .pure) (.andThen
            .drainSegments fun _ => .andThen .engineAppend fun _ => .andThen .drainWrite fun _ => .andThen (.modify
            fun _ h4 => h4.drainDone.setRunFault) fun _ => .pure)

theorem M.Keeps.loopEntry {c r bs} : M.Keeps (loopEntry c r bs) := by
  unfold Machine.loopEntry
  extract_lets _ _ _
  split
  · exact .pure
  · split
    · exact .ite (.ite (.andThen (.modify fun _ h => h.putRun) fun _ => .pure) (.andThen (.modify fun _ h => h.putRun)
        fun _ => .pure)) (.ite .pure (.ite .pure (.ite (.andThen (.modify fun _ h => h.putRun) fun _ => .pure)
        (.andThen (.modify fun _ h => h.putRun) fun _ => .pure))))
    · exact .ite (.andThen (.modify fun _ h => h.putRun) fun _ => .pure) (.andThen (.modify fun _ h => h.putRun)
        fun _ => .pure)

theorem M.Keeps.condEntry {c r bs} : M.Keeps (condEntry c r bs) :=
  .withState fun _ _ => .ite .pure (.ite .pure (.withState fun _ _ => .ite .pure (.ite .pure (.ite .pure .pure))))

theorem M.Keeps.condRetest {chan num} : M.Keeps (condRetest chan num) := by
  unfold Machine.condRetest
  refine .andThen .run fun _ => ?_
  dsimp only
  refine .withState fun _ h => ?_
  split
  · exact .idle
  · split
    · exact .idle
    · exact .ite (.set h.putRun) (.ite (.set h.putRun) .idle)

theorem M.Keeps.completeEntry {chan num} : M.Keeps (completeEntry chan num) := by
  unfold Machine.completeEntry
  refine .andThen .run fun _ => ?_
  dsimp only
  split
  · exact .maybe .idle fun _ => .ite (.withState fun _ h => .maybe .idle fun _ => .modify fun _ h1 => h1.completeRun)
      (.modify fun _ h => h.putRun.endPieces)
  · refine .withState fun _ _ => ?_
    split
    · refine .andThen .idle fun a1 => .andThen .readEntry fun _ => ?_
      split
      · exact .modify fun _ h1 => h1.completeRun
      · exact .maybe .idle fun _ => .modify fun _ h1 => h1.completeRun
    · refine .andThen .readEntry fun _ => ?_
      split
      · exact .modify fun _ h1 => h1.completeRun
      · exact .maybe .idle fun _ => .modify fun _ h1 => h1.completeRun

theorem M.Keeps.copyRun {chan run} : M.Keeps (copyRun chan run) := by
  unfold Machine.copyRun
  refine .andThen .run fun _ => ?_
  dsimp only
  refine .withState fun _ _ => ?_
  split
  · exact .maybe .idle fun _ => .andThen (.modify fun _ h1 => h1.serveChan) fun _ => .performCopy
  · exact .idle

theorem M.Keeps.drainRun {chan run} : M.Keeps (Machine.drainRun chan run) := by
  unfold Machine.drainRun
  refine .andThen .run fun _ => ?_
  split
  refine .withState fun s h => ?_
  split
  · refine .maybe .idle fun _ => .andThen (.modify fun _ h => h.serveChan.putRun) fun _ => .andThen .drainWrite
      fun _ => .andThen (.modify fun _ h => h.drainDone) fun _ => .withState fun _ h => ?_
    split
    · exact .pure
    · exact .modify fun _ h => h.endCommand
  · exact .idle

/-! ## The operations of `Machine/Placement` -/

theorem State.Canonical.install {s : State} (h : s.Canonical) {p core shadow} : (s.install p core shadow).2.Canonical
    :=
  h.same.clearPartition _ _ _

theorem State.Canonical.addTeam {s : State} (h : s.Canonical) {t} : (s.addTeam t).Canonical := h.same

theorem State.Canonical.setLaunch {s : State} (h : s.Canonical) {l} : (s.setLaunch l).Canonical := h.same

theorem State.Canonical.placeNext {s : State} (h : s.Canonical) {l core shadow group} : (s.placeNext l core shadow
    group).Canonical := by
  unfold State.placeNext
  extract_lets _
  dsimp only
  refine .setLaunch ?_
  split
  · exact h.install.same
  · exact .foldl _ _ h.install.same fun _ _ h1 => h1.fresh.addTeam

theorem State.Canonical.placeLaunch {s : State} (h : s.Canonical) {l} {u : State} (e : s.placeLaunch l = some u) :
    u.Canonical := by
  unfold State.placeLaunch at e
  split at e
  · dsimp only at e
    split at e
    · cases e
    · next cores shadows _ =>
      cases e
      refine State.Canonical.ite (State.Canonical.tellAll ?_) ?_
      · refine .same (.foldl _ _ h.fresh fun s p h => ?_)
        split
        · exact h
        · exact h.placeNext
      · refine .same (.foldl _ _ h.fresh fun s p h => ?_)
        split
        · exact h
        · exact h.placeNext
  · split at e
    · cases e
      exact h.placeNext
    · cases e

/-! ## The operations of `Machine/Scenes` -/

theorem State.Canonical.partWrite {s : State} (h : s.Canonical) {family off bs} : (s.partWrite family off
    bs).Canonical := by
  unfold State.partWrite
  split
  · exact h
  · exact (h.scratchWrite _ _ _).ite h.putFamily

theorem State.Canonical.setCrossOvf {s : State} (h : s.Canonical) {family} : (s.setCrossOvf family).Canonical := by
  unfold State.setCrossOvf
  split
  · exact h
  · exact h.partWrite

theorem State.Canonical.crossAppend {s : State} (h : s.Canonical) {c g r e crossing} : (s.crossAppend c g r e
    crossing).Canonical :=
  h.setCrossOvf.ite h.partWrite.partWrite.same

theorem State.Canonical.crossReport {s : State} (h : s.Canonical) {c e} : (s.crossReport c e).Canonical := by
  unfold State.crossReport
  extract_lets unit _
  refine .foldl _ _ h fun _ _ h1 => ?_
  split
  · exact h1.crossAppend.ite h1
  · exact h1

theorem State.Canonical.liftOff {s : State} (h : s.Canonical) {gang} : (s.liftOff gang).Canonical := by
  unfold State.liftOff
  split
  · exact h.same.putCoreSame
  · exact h

/-- The tiles that a family kept go into a core's tile memory, not into its scratchpad. -/
theorem Core.scratch_setTiles {α : Type} {c : Core} {k : α → BitVec 8} {x : α → Tile} {xs : List α} :
    (xs.foldl (fun c p => c.setTile (k p) (x p)) c).scratch = c.scratch :=
  List.foldlRecOn (motive := fun d : Core => d.scratch = c.scratch) xs _ rfl fun _ hd _ _ => hd

theorem State.Canonical.putHeld {s : State} (h : s.Canonical) {f core slot} : (s.putHeld f core slot).Canonical := by
  unfold State.putHeld
  exact h.same.modCoreSame Core.scratch_setTiles

theorem State.Canonical.reseat {s : State} (h : s.Canonical) {gang p core shadow stay} : (s.reseat gang p core shadow
    stay).Canonical := by
  unfold State.reseat
  split
  · exact (h.same.clearPartition _ _ _).putHeld
  · exact h

theorem State.Canonical.stayers {s : State} (h : s.Canonical) {c d xs xs1} : (s.stayers c d xs xs1).2.Canonical := by
  induction xs generalizing xs1 s with
  | nil =>
    unfold State.stayers
    exact h
  | cons x xs ih =>
    unfold State.stayers
    split
    · exact ih h
    · extract_lets _ lifted _
      have hlifted : lifted.Canonical := h.liftOff
      clear_value lifted
      split
      · exact ih hlifted
      · split
        · exact ih hlifted
        · split
          · exact ih hlifted
          · exact ih hlifted.reseat
          · exact ih hlifted.reseat

theorem State.Canonical.placeUnit {s : State} (h : s.Canonical) {c d j group taken n core} {u : State}
    (e : s.placeUnit c d j group taken = some (n, core, u)) : u.Canonical := by
  unfold State.placeUnit at e
  dsimp only at e
  split at e
  · cases e
  · split at e
    · cases e
    · split at e
      · cases e
        exact h.reseat
      · cases e
        exact h.install

theorem State.Canonical.placeInOrder {s : State} (h : s.Canonical) {c d all js done r} {u : State}
    (e : s.placeInOrder c d all js done = .ok (r, u)) : u.Canonical := by
  induction js generalizing s done with
  | nil =>
    cases e
    exact h
  | cons j js ih =>
    unfold State.placeInOrder at e
    split at e
    · exact ih h e
    · dsimp only at e
      split at e
      · cases e
      · next uid core t hit => exact ih (h.placeUnit hit) e

theorem State.Canonical.placeUnits {c d n all seated} {s : State} (h : s.Canonical) :
    (State.placeUnits c d n all seated s).2.Canonical := by
  induction n generalizing all seated s with
  | zero => exact h
  | succ n ih =>
    unfold State.placeUnits
    split
    next r e => exact h.placeInOrder e
    next j e => exact ih (.foldl _ _ h fun _ _ h => h.retireGang)

theorem M.Keeps.readRecords {c xs} : M.Keeps (M.readRecords c xs) := by
  induction xs with
  | nil =>
    unfold M.readRecords
    exact .pure
  | cons x xs ih =>
    unfold M.readRecords
    refine .withState fun s h => ?_
    dsimp only
    refine .andThen (.set h.translateRange) fun a => ?_
    split
    · exact .throw
    · exact .pure
    · exact .andThen (.set h.translateRange.readStream) fun _ => .ite .pure ih

theorem M.Keeps.recall {num wanted} : M.Keeps (M.recall num wanted) := by
  unfold M.recall
  refine .withState fun _ _ => ?_
  split
  · exact .pure
  · exact .andThen .readRecords fun _ => .ite (.modify fun _ h1 => h1.putScene) (.modify fun _ h1 => h1.putScene)

theorem M.Keeps.bodyState {c b} : M.Keeps (M.bodyState c b) := by
  unfold M.bodyState
  refine .withState fun s h => ?_
  split
  next r u e =>
    refine .andThen (.set (.of_snd e h.translateRange)) fun _ => ?_
    split
    · exact .throw
    · exact .pure
    · refine .withState fun s h => .andThen (.set ?_) fun _ => .pure
      exact .foldTriple h fun _ _ h => h.homeRead _ _

theorem M.Keeps.bodyStates {c xs} : M.Keeps (M.bodyStates c xs) := by
  induction xs with
  | nil =>
    unfold M.bodyStates
    exact .pure
  | cons x xs ih =>
    unfold M.bodyStates
    refine .andThen .bodyState fun a => ?_
    split
    · exact .pure
    · refine .andThen ih fun _ => ?_
      split
      · exact .pure
      · exact .pure

theorem State.Canonical.startUnit {s : State} (h : s.Canonical) {c u uid core base} : (s.startUnit c u uid core
    base).Canonical := by
  unfold State.startUnit
  split
  · exact h
  · exact .foldl _ _ h fun _ _ h1 => h1.same.addTeam

theorem M.Keeps.fills {c xs} : M.Keeps (M.fills c xs) := by
  induction xs with
  | nil =>
    unfold M.fills
    exact .pure
  | cons x xs ih =>
    unfold M.fills
    refine .andThen .bodyStates fun a => ?_
    split
    · exact .pure
    · refine .andThen ih fun _ => ?_
      split
      · exact .pure
      · exact .pure

theorem State.Canonical.failScene {s : State} (h : s.Canonical) {c} : (s.failScene c).Canonical :=
  .putScene (.foldl _ _ h fun _ _ h1 => h1.retireGang)

theorem State.Canonical.startUnits {s : State} (h : s.Canonical) {c base flags ran states} : (s.startUnits c base
    flags ran states).Canonical := by
  unfold State.startUnits
  refine .foldl _ _ h fun _ _ h1 => ?_
  extract_lets _
  split
  · exact h1
  · exact h1.partWrite.startUnit

theorem M.Keeps.regroup {num driver} : M.Keeps (M.regroup num driver) := by
  unfold M.regroup
  refine .andThen .recall fun _ => .withState fun _ h => ?_
  split
  next c0 d _ _ =>
    refine .ite (.andThen (.set h.failScene) fun _ => .pure) ?_
    extract_lets gs src c comps asleep us jobs islands may first grouped all kept s1 s2 base old
    have hs1 : s1.Canonical := .foldl _ _ h.same fun _ _ h => h.retireGang
    clear_value s1 base old all grouped
    have hs2 : s2.Canonical := .foldl _ _ hs1 fun _ _ h => h.reportMasks
    clear_value s2 kept may islands jobs
    split
    next seated u e =>
      have hu : u.Canonical := .of_snd e hs2.stayers
      refine .andThen .stopIf fun _ => ?_
      split
      next ran v e =>
        have hv : v.Canonical := .of_snd e hu.placeUnits
        refine .andThen (.set hv.forceBelow) fun _ => .andThen .fills fun _ => ?_
        split
        · exact .modify fun _ h => h.failScene
        · exact .withState fun _ h => .andThen (.set h.startUnits.same) fun _ => .modify fun _ h => h.putScene
  · exact .throw

/-! ## The operations of `Machine/Islands` -/

theorem M.Keeps.scene {t w failedToo} : M.Keeps (M.scene t w failedToo) := by
  unfold M.scene
  refine .withState fun _ _ => .andThen .stopIf fun _ => ?_
  split
  · exact .throw
  · exact .andThen .stopIf fun _ => .andThen .stopIf fun _ => .pure

theorem M.Keeps.onBodies {t sa regs stalls} : M.Keeps (M.onBodies t sa regs stalls) :=
  .andThen .read fun _ => .andThen .gate fun _ => .andThen .scene fun _ => .andThen .lift fun _ => .andThen .recall
    fun _ => .andThen .scene fun _ => .andThen .stopIf fun _ => .pure

theorem State.Canonical.writeRecord {s : State} (h : s.Canonical) {x c b} : (s.writeRecord x c b).2.Canonical := by
  unfold State.writeRecord
  split
  · rename_i u e
    have hu : u.Canonical := .of_snd e h.translateRange
    exact hu
  · rename_i u e
    have hu : u.Canonical := .of_snd e h.translateRange
    exact hu.writeParts

theorem State.Canonical.writeRecords {s : State} (h : s.Canonical) {x c xs} : (s.writeRecords x c xs).2.Canonical :=
    by
  induction xs generalizing s with
  | nil =>
    unfold State.writeRecords
    exact h
  | cons x xs ih =>
    unfold State.writeRecords
    split
    · rename_i u e
      have hu : u.Canonical := .of_snd e h.writeRecord
      exact ih hu
    · exact h.writeRecord

theorem State.Canonical.touchTable {s : State} (h : s.Canonical) {x xs} : (s.touchTable x xs).2.Canonical := by
  induction xs generalizing s with
  | nil =>
    unfold State.touchTable
    exact h
  | cons x xs ih =>
    unfold State.touchTable
    split
    · rename_i u e
      have hu : u.Canonical := .of_snd e h.translate
      exact hu
    · rename_i u e
      have hu : u.Canonical := .of_snd e h.translate
      exact ih hu

theorem M.Keeps.initTables {t c etab} : M.Keeps (M.initTables t c etab) := by
  unfold M.initTables
  refine .withState fun _ _ => ?_
  extract_lets _
  refine .withState fun _ h1 => ?_
  dsimp only
  refine .andThen (.set h1.writeRecords) fun _ => ?_
  split
  · exact .throw
  · refine .withState fun _ h2 => .andThen (.set h2.touchTable) fun _ => ?_
    split
    · exact .throw
    · exact .pure

theorem M.Keeps.openScene {sa sd t} : M.Keeps (openScene sa sd t) := by
  unfold Machine.openScene
  refine .andThen .read fun _ => .andThen .gate fun _ => .andThen .stopIf fun _ => .andThen .bind fun _ => .andThen
    .bulkRead fun _ => ?_
  dsimp only
  refine .withState fun _ _ => ?_
  split
  · exact .andThen .regs fun _ => .pure
  · split
    · exact .andThen .regs fun _ => .pure
    · exact .andThen .initTables fun _ => .andThen (.modify fun _ h1 => h1.same) fun _ => .andThen .regs fun _ =>
        .pure

theorem State.Canonical.writeBack {s : State} (h : s.Canonical) {c} : (s.writeBack c).Canonical :=
  .foldl _ _ h fun _ _ h1 => h1.writeRecord

theorem M.Keeps.closeScene {sa t} : M.Keeps (closeScene sa t) :=
  .andThen .read fun _ => .andThen .gate fun _ => .andThen .scene fun _ => .withState fun _ h => .andThen .stopIf
    fun _ => .andThen (.modify fun _ h1 => h1.writeBack.same) fun _ => .pure

theorem M.Keeps.setKinds {k sa vb t} : M.Keeps (setKinds k sa vb t) :=
  .andThen .onBodies fun _ => .andThen (.modify fun _ h => h.putScene) fun _ => .pure

theorem State.Canonical.linkLane {s : State} (h : s.Canonical) {num e} : (s.linkLane num e).2.Canonical := by
  unfold State.linkLane
  split
  · exact h
  · split
    · exact h
    · split
      · exact h
      · exact h.putScene.crossReport

theorem State.Canonical.linkLanes {s : State} (h : s.Canonical) {num edge xs} : (s.linkLanes num edge xs).2.Canonical
    := by
  induction xs generalizing s with
  | nil =>
    unfold State.linkLanes
    exact h
  | cons x xs ih =>
    unfold State.linkLanes
    split
    · rename_i u e
      have hu : u.Canonical := .of_snd e h.linkLane
      exact ih hu
    · rename_i u e
      have hu : u.Canonical := .of_snd e h.linkLane
      exact hu

theorem M.Keeps.linkBodies {joint sa vb t} : M.Keeps (linkBodies joint sa vb t) := by
  unfold Machine.linkBodies
  refine .andThen .onBodies fun _ => ?_
  dsimp only
  refine .withState fun _ h => .andThen (.set h.linkLanes) fun _ => ?_
  split
  · exact .pure
  · exact .throw

theorem M.Keeps.unlinkBodies {joint sa vb t} : M.Keeps (unlinkBodies joint sa vb t) :=
  .andThen .onBodies fun _ => .andThen (.modify fun _ h => h.putScene) fun _ => .pure

theorem M.Keeps.wakeBodies {sa vb t} : M.Keeps (wakeBodies sa vb t) :=
  .andThen .onBodies fun _ => .andThen (.modify fun _ h => h.putScene) fun _ => .pure

theorem M.Keeps.queryBodies {f sa vb t} : M.Keeps (queryBodies f sa vb t) :=
  .andThen .onBodies fun _ => .andThen .regs fun _ => .pure

theorem M.Keeps.endStep {g t} : M.Keeps (endStep g t) :=
  .ite (.andThen .stopIf fun _ => .andThen .bind fun _ => .andThen (.modify fun _ h => h.recordPending) fun _ =>
    .maybe .flush fun _ => .andThen (.modify fun _ h => h.publish) fun _ => .andThen (.modify fun _ h =>
    h.setWait.islandEnd) fun _ => .throw) .throw

theorem M.Keeps.raiseDriver {c t} : M.Keeps (M.raiseDriver c t) := .withState fun _ _ => .modTeam

theorem M.Keeps.driveStep {num sd t} : M.Keeps (driveStep num sd t) := by
  unfold Machine.driveStep
  extract_lets enlist
  refine .andThen ?_ fun _ => ?_
  · refine .modify fun s h => ?_
    split
    · exact h
    · exact h.putScene
  · refine .withState fun _ _ => ?_
    split
    · exact .throw
    · refine .andThen .stopIf fun _ => ?_
      split
      · refine .andThen .stopIf fun _ => .andThen .raiseDriver fun _ => .andThen .team fun _ => .andThen .regroup
          fun _ => .withState fun s1 h1 => ?_
        split
        · exact .andThen (.modify fun _ h2 => h2.dropDriver.replay) fun _ => .andThen .regs fun _ => .pure
        · exact .andThen (.modify fun _ h2 => h2.dropDriver) fun _ => .throw
      · refine .withState fun _ _ => ?_
        split
        · exact .andThen (.modify fun _ h2 => h2.dropDriver.replay) fun _ => .andThen .regs fun _ => .pure
        · exact .andThen (.modify fun _ h2 => h2.dropDriver) fun _ => .throw

theorem M.Keeps.stepScene {sa sd t} : M.Keeps (stepScene sa sd t) := by
  unfold Machine.stepScene
  refine .andThen .read fun _ => .andThen .notInHandler fun _ => .andThen .emptyStack fun _ => .andThen .stopIf
    fun _ => .withState fun _ _ => ?_
  extract_lets jp
  have hjp : ∀ r, M.Keeps (jp r) := by
    intro r
    unfold jp
    refine .withState fun _ _ => ?_
    split
    · exact .throw
    · split
      · exact .andThen .scene fun _ => .andThen .stopIf fun _ => .endStep
      · exact .andThen .scene fun _ => .driveStep
  clear_value jp
  exact .maybe .gate hjp

theorem M.Keeps.sleepGang {t} : M.Keeps (sleepGang t) := by
  unfold Machine.sleepGang
  refine .andThen .gate fun _ => .withState fun _ _ => ?_
  split
  · exact .throw
  · exact .andThen (.modify fun _ h1 => h1.same) fun _ => .pure

theorem M.Keeps.regroupEvent {num} : M.Keeps (regroupEvent num) := by
  unfold Machine.regroupEvent
  refine .withState fun _ _ => ?_
  split
  · exact .idle
  · split
    · exact .idle
    · exact .maybe .idle fun _ => .andThen (.modify fun _ h1 => h1.putScene) fun _ => .andThen .raiseDriver fun _ =>
        .andThen .team fun _ => .regroup

theorem M.Keeps.writeBack {c b} : M.Keeps (M.writeBack c b) := by
  unfold M.writeBack
  refine .withState fun _ h => ?_
  dsimp only
  refine .andThen (.set h.writeRecord) fun _ => ?_
  split
  · exact .pure
  · exact .throw
  · exact .modify fun _ h1 => h1.putScene

theorem M.Keeps.writeBackEvent {num body} : M.Keeps (writeBackEvent num body) := by
  unfold Machine.writeBackEvent
  refine .withState fun _ _ => ?_
  split
  · exact .idle
  · exact .maybe .idle fun _ => .writeBack

theorem M.Keeps.evictEvent : M.Keeps evictEvent := by
  unfold Machine.evictEvent
  refine .withState fun _ h => ?_
  extract_lets jp
  have hjp : ∀ r, M.Keeps (jp r) := by
    intro r
    unfold jp
    split
    · exact .idle
    · exact .andThen (.set h.putScene) fun _ => .writeBack
  clear_value jp
  exact .maybe .idle hjp

/-! ## The operations of `Machine/Preempt` -/

theorem State.Canonical.takeLogs {s : State} (h : s.Canonical) {t} : (s.takeLogs t).2.Canonical := h.putCoreSame

theorem State.Canonical.takeAllLogs {s : State} (h : s.Canonical) {xs} : (s.takeAllLogs xs).2.Canonical := by
  induction xs generalizing s with
  | nil =>
    unfold State.takeAllLogs
    exact h
  | cons x xs ih =>
    unfold State.takeAllLogs
    exact ih h.putCoreSame

theorem State.Canonical.leaveCore {s : State} (h : s.Canonical) {f} : (s.leaveCore f).Canonical := by
  unfold State.leaveCore
  exact h.modCore _ _ (Memory.wf_clear _ _ (h.core _))

theorem State.Canonical.writeImage {s : State} (h : s.Canonical) {gang} : (s.writeImage gang).Canonical := by
  unfold State.writeImage
  split
  · exact h
  · split
    · exact h
    · exact h.same.putGang

theorem State.Canonical.saveFamily {s : State} (h : s.Canonical) {family} : (s.saveFamily family).Canonical := by
  unfold State.saveFamily
  split
  · exact h
  · extract_lets _ _ s1 s2
    have hs1 : s1.Canonical := .foldl _ _ h fun _ _ h1 => h1.recordPending
    clear_value s1
    have hs2 : s2.Canonical := .foldl _ _ hs1 fun _ _ h1 => h1.reportMasks
    clear_value s2
    split
    · rename_i u e
      have hu : u.Canonical := .of_snd e hs2.takeAllLogs
      extract_lets s3 s1 s2
      have hs3 : s3.Canonical := hu.same
      clear_value s3
      have hs1 : s1.Canonical := hs3.leaveCore
      clear_value s1
      have hs2 : s2.Canonical := hs1.same
      clear_value s2
      exact .seatCore (.foldl _ _ hs2 fun _ _ h1 => h1.writeImage)

theorem State.Canonical.tellAway {s : State} (h : s.Canonical) {fams} : (s.tellAway fams).Canonical :=
  .foldl _ _ h fun _ _ h1 => h1.putGroup.tellAll

theorem State.Canonical.preempt {s : State} (h : s.Canonical) {gang} : (s.preempt gang).Canonical :=
  .ite (.tellAway (.foldl _ _ h fun _ _ h1 => h1.saveFamily)) h

theorem State.Canonical.seatGangs {s : State} (h : s.Canonical) {core xs} : (s.seatGangs core xs).Canonical := by
  induction xs generalizing s with
  | nil =>
    unfold State.seatGangs
    exact h
  | cons x xs ih =>
    unfold State.seatGangs
    exact ih h.same

theorem State.Canonical.placeSaved {s : State} (h : s.Canonical) {f core base} :
    (s.placeSaved f core base).Canonical := by
  unfold State.placeSaved
  extract_lets slotOf s1 s2
  have hs1 : s1.Canonical := by
    refine (h.clearPartition _ _ _).modCore _ _ ?_
    exact List.foldlRecOn (motive := fun m => Memory.wf m = true) _ _ ((h.clearPartition _ _ _).core _)
      fun m hm _ _ => Memory.wf_write _ _ hm
  clear_value s1
  have hs2 : s2.Canonical := hs1.modCoreSame Core.scratch_setTiles
  exact hs2.same.refillQueue

theorem State.Canonical.reloadWeight {s : State} (h : s.Canonical) {f core} : (s.reloadWeight f core).Canonical := by
  unfold State.reloadWeight
  split
  · split
    · rename_i u e
      have hu : u.Canonical := M.Keeps.weightImage.ok h e
      exact hu.modCoreSame
    · rename_i u e
      have hu : u.Canonical := M.Keeps.weightImage.error h e
      exact hu.modCoreSame
  · exact h

theorem State.Canonical.reappend {s : State} (h : s.Canonical) {t oldCore es abuf} : (s.reappend t oldCore es
    abuf).Canonical := by
  unfold State.reappend
  exact .modCoreSame (.foldl _ _ h.modCoreSame fun _ _ h1 => h1.appendEntry.ite h1.appendEntry.modTeam)

theorem State.Canonical.reappendAll {s : State} (h : s.Canonical) {f dead} : (s.reappendAll f dead).Canonical := by
  unfold State.reappendAll
  refine .foldl _ _ h fun _ _ h1 => ?_
  split
  · exact h1
  · exact h1.reappend.ite h1.reappend

theorem State.Canonical.answerPark {s : State} (h : s.Canonical) {team act} : (s.answerPark team act).Canonical := by
  unfold State.answerPark
  split
  · exact h
  · split
    · extract_lets s1
      have hs1 : s1.Canonical := h.modTeam.resumeTeam
      clear_value s1
      split
      · exact hs1
      · exact hs1.haltTeam
      · exact hs1.takeTrap
    · exact h

theorem State.Canonical.restoreFamily {s : State} (h : s.Canonical) {f core shadow dead} : (s.restoreFamily f core
    shadow dead).Canonical :=
  .foldl _ _ (h.same.seatGangs.placeSaved.reloadWeight.reappendAll.see.modCoreSame.ite
    h.same.seatGangs.placeSaved.reloadWeight.reappendAll.see) fun _ _ h1 => h1.answerPark

theorem State.Canonical.haltDamaged {s : State} (h : s.Canonical) {team code offset keyless} : (s.haltDamaged team
    code offset keyless).Canonical := by
  unfold State.haltDamaged
  split
  · exact h
  · exact h.ite h.haltTeam.postFault

theorem State.Canonical.loseRuns {s : State} (h : s.Canonical) {family} : (s.loseRuns family).Canonical := by
  unfold State.loseRuns
  split
  · exact h
  · extract_lets s1
    have hs1 : s1.Canonical := .foldl _ _ h fun _ _ h1 => h1.cancelRun
    clear_value s1
    split
    · exact hs1
    · exact hs1.putChan

theorem State.Canonical.hearAway {s : State} (h : s.Canonical) {tag tick count} : (s.hearAway tag tick
    count).Canonical := by
  unfold State.hearAway
  split
  · exact h
  · exact h.putGroup

theorem M.Keeps.groupBackEvent {group} : M.Keeps (groupBackEvent group) := by
  unfold Machine.groupBackEvent
  refine .withState fun s h => ?_
  split
  · exact .idle
  · exact .maybe .idle fun _ => .set h.putGroup.tellAll

theorem State.Canonical.restore {s : State} (h : s.Canonical) {gang ecc} : (s.restore gang ecc).Canonical := by
  unfold State.restore
  extract_lets _ _
  split
  · exact h
  · split
    · exact h
    · exact .foldl _ _ (.foldl _ _ (.foldl _ _ h fun _ _ h1 => h1.restoreFamily) fun _ _ h1 => h1.loseRuns)
        fun _ _ h1 => h1.haltDamaged

theorem M.Keeps.logFullEvent {team} : M.Keeps (logFullEvent team) := by
  unfold Machine.logFullEvent
  refine .withState fun _ _ => ?_
  split
  · exact .idle
  · exact .maybe .idle fun _ => .modify fun _ h1 => h1.modCoreSame.preempt

theorem M.Keeps.swapOutEvent {core} : M.Keeps (swapOutEvent core) := by
  unfold Machine.swapOutEvent
  refine .withState fun s h => ?_
  extract_lets jp
  have hjp : ∀ r, M.Keeps (jp r) := by
    intro r
    unfold jp
    split
    · exact .idle
    · split
      · exact .idle
      · exact .andThen (.modify fun _ h1 => h1.modCoreSame) fun _ => .ite (.modify fun _ h1 => h1.stop) (.modify
          fun _ h1 => h1.modTeam.modCoreSame.seatCore)
  clear_value jp
  exact .maybe .idle hjp

theorem M.Keeps.swapInEvent {team} : M.Keeps (swapInEvent team) := by
  unfold Machine.swapInEvent
  refine .withState fun _ _ => ?_
  split
  · exact .idle
  · split
    · exact .idle
    · exact .maybe .idle fun _ => .modify fun _ h1 => h1.modTeam

/-! ## The operations of `Machine/Progress` -/

theorem State.Canonical.grant {s : State} (h : s.Canonical) {t} : (s.grant t).Canonical := by
  unfold State.grant
  extract_lets s1
  have hs1 : s1.Canonical := h.modCoreSame.modTeam
  clear_value s1
  exact hs1.same

theorem State.Canonical.endTurn {s : State} (h : s.Canonical) : s.endTurn.Canonical := by
  unfold State.endTurn
  split
  · exact h.same
  · exact h.modTeam.dropLatches.same

theorem State.Canonical.fetchAhead {s : State} (h : s.Canonical) {n w t} : (s.fetchAhead n w t).Canonical := by
  induction n generalizing w s with
  | zero =>
    unfold State.fetchAhead
    exact h
  | succ n ih =>
    unfold State.fetchAhead
    split
    · exact ih h
    · split
      · rename_i u e
        have hu : u.Canonical := M.Keeps.code.error h e
        exact hu
      · rename_i u e
        have hu : u.Canonical := M.Keeps.code.ok h e
        exact ih hu.modTeam

theorem M.Keeps.issueTurnEvent {core prefetch} : M.Keeps (issueTurnEvent core prefetch) := by
  unfold Machine.issueTurnEvent
  refine .withState fun _ h => ?_
  extract_lets jp
  have hjp : ∀ r, M.Keeps (jp r) := by
    intro r
    unfold jp
    split
    · exact .idle
    · exact .andThen (.set h.grant) fun _ => .ite (.modify fun _ h1 => h1.fetchAhead) .pure
  clear_value jp
  exact .maybe .idle hjp

theorem State.Canonical.switchArms {s : State} (h : s.Canonical) {t} : (s.switchArms t).Canonical :=
  h.modTeam.ite h.modTeam

theorem M.Keeps.quantumEvent {team} : M.Keeps (quantumEvent team) := by
  unfold Machine.quantumEvent
  refine .withState fun s h => ?_
  split
  · exact .idle
  · exact .maybe .idle fun _ => .set h.switchArms

theorem M.Keeps.groupTimeoutEvent {gang entry} : M.Keeps (groupTimeoutEvent gang entry) := by
  unfold Machine.groupTimeoutEvent
  refine .withState fun _ h => ?_
  split
  · exact .idle
  · split
    · exact .idle
    · exact .maybe .idle fun _ => .set h.releaseGroup

theorem M.Keeps.clockGrantEvent {team} : M.Keeps (clockGrantEvent team) := by
  unfold Machine.clockGrantEvent
  refine .withState fun s h => ?_
  split
  · exact .idle
  · exact .maybe .idle fun _ => .modify fun _ h1 => h1.modTeam

theorem M.Keeps.recordEvent {team} : M.Keeps (recordEvent team) := by
  unfold Machine.recordEvent
  refine .withState fun _ h => ?_
  split
  · exact .set h.same.publishTail
  · exact .idle

theorem M.Keeps.acquireEvent {team} : M.Keeps (acquireEvent team) := by
  unfold Machine.acquireEvent
  refine .withState fun _ h => ?_
  split
  · exact .idle
  · split
    · exact .idle
    · exact .set h.see.modTeam

theorem State.Canonical.pick {α : Type} {s : State} (h : s.Canonical) {xs : List α} {a : α} {u : State}
    (e : s.pick xs = some (a, u)) : u.Canonical := by
  induction xs generalizing s with
  | nil => cases e
  | cons x xs ih =>
    cases xs with
    | nil =>
      cases e
      exact h
    | cons y ys =>
      simp only [State.pick] at e
      split at e
      · exact ih h.choose e
      · cases e
        exact h.choose

theorem M.Keeps.returnEvent {team atomic} : M.Keeps (returnEvent team atomic) := by
  unfold Machine.returnEvent
  refine .withState fun _ h => ?_
  split
  · exact .idle
  · split
    · exact .idle
    next p u e => exact .set (h.pick e).finish

theorem M.Keeps.drainEvent {core} : M.Keeps (drainEvent core) := by
  unfold Machine.drainEvent
  refine .withState fun s h => ?_
  split
  · exact .idle
  · exact .set h.sendPub

theorem M.Keeps.applyEvent {index} : M.Keeps (applyEvent index) := by
  unfold Machine.applyEvent
  refine .withState fun _ h => ?_
  split
  · exact .idle
  · exact .maybe .idle fun _ => .set h.same.land

theorem M.Keeps.trapEntryEvent {team} : M.Keeps (trapEntryEvent team) := by
  unfold Machine.trapEntryEvent
  refine .withState fun _ h => ?_
  split
  · exact .idle
  · split
    · exact .maybe .idle fun _ => .set h.putCoreSame.enterTrap
    · exact .idle

theorem State.Canonical.bark {s : State} (h : s.Canonical) {t code elapsed} : (s.bark t code elapsed).Canonical := by
  unfold State.bark
  exact h.putTeam.stop

theorem M.Keeps.retireTimeoutEvent {team} : M.Keeps (retireTimeoutEvent team) := by
  unfold Machine.retireTimeoutEvent
  refine .withState fun _ h => ?_
  split
  · exact .idle
  · split
    · exact .idle
    · exact .set h.bark

theorem M.Keeps.starveTimeoutEvent {team} : M.Keeps (starveTimeoutEvent team) := by
  unfold Machine.starveTimeoutEvent
  refine .withState fun _ h => ?_
  split
  · exact .idle
  · split
    · exact .set h.bark
    · exact .idle

theorem State.Canonical.hang {s : State} (h : s.Canonical) {t elapsed} : (s.hang t elapsed).Canonical := h.haltTeam

theorem M.Keeps.hangEvent {team} : M.Keeps (hangEvent team) := by
  unfold Machine.hangEvent
  refine .withState fun _ h => ?_
  split
  · exact .idle
  · split
    · exact .idle
    · exact .set h.hang

theorem M.Keeps.passEvent {core} : M.Keeps (passEvent core) :=
  .withState fun _ h => .maybe .idle fun _ => .set h.runPass

theorem M.Keeps.idleEvent {core} : M.Keeps (idleEvent core) :=
  .withState fun _ h => .maybe .idle fun _ => .set h.putCoreSame

theorem M.Keeps.admissionEvent : M.Keeps admissionEvent :=
  .withState fun _ h => .maybe .idle fun _ => .set (.foldl _ _ h.same fun _ _ h1 => h1.modCoreSame)

/-! ## The operations of `Machine/Queues` -/

theorem State.Canonical.descWrite {s : State} (h : s.Canonical) {q off w} : (s.descWrite q off w).2.Canonical :=
  h.hqsWrite

theorem State.Canonical.haltQueue {s : State} (h : s.Canonical) {num code} : (s.haltQueue num code).Canonical := by
  unfold State.haltQueue
  split
  · exact h
  · extract_lets _ s1
    have hs1 : s1.Canonical := h.putQueue.descWrite
    clear_value s1
    split
    · exact hs1.raise
    · exact hs1

theorem State.Canonical.descSet {s : State} (h : s.Canonical) {q off w} : (s.descSet q off w).Canonical := by
  unfold State.descSet
  split
  · rename_i u e
    have hu : u.Canonical := .of_snd e h.descWrite
    exact hu
  · rename_i u e
    have hu : u.Canonical := .of_snd e h.descWrite
    exact hu.haltQueue

theorem State.Canonical.raiseDone {s : State} (h : s.Canonical) {num} : (s.raiseDone num).Canonical := by
  unfold State.raiseDone
  split
  · exact h
  · exact h.ite h.putQueue.descSet

theorem State.Canonical.finishPacket {s : State} (h : s.Canonical) {num index} : (s.finishPacket num index).Canonical
    := by
  unfold State.finishPacket
  split
  · exact h
  · exact h.putQueue.raiseDone

theorem State.Canonical.readCheck {s : State} (h : s.Canonical) {q} : (s.readCheck q).2.Canonical := by
  unfold State.readCheck
  split
  · exact h
  · split
    · rename_i u e
      have hu : u.Canonical := .of_snd e h.hqsRead
      exact hu
    · rename_i u e
      have hu : u.Canonical := .of_snd e h.hqsRead
      extract_lets _
      split
      · exact hu
      · split
        · exact hu
        · exact hu

theorem State.Canonical.loadCheck {s : State} (h : s.Canonical) {q} : (s.loadCheck q).Canonical := by
  unfold State.loadCheck
  split
  · rename_i u e
    have hu : u.Canonical := .of_snd e h.readCheck
    exact hu.putQueue
  · rename_i u e
    have hu : u.Canonical := .of_snd e h.readCheck
    exact hu.putQueue
  · rename_i u _ e
    have hu : u.Canonical := .of_snd e h.readCheck
    exact hu.putQueue.haltQueue

theorem State.Canonical.noteStarted {s : State} (h : s.Canonical) {num kind bs complete} : (s.noteStarted num kind bs
    complete).Canonical := by
  unfold State.noteStarted
  split
  · exact h
  · exact h.putQueue.descSet.raiseDone

theorem State.Canonical.showHqs {s : State} (h : s.Canonical) {tenant va n} : (s.showHqs tenant va n).Canonical := by
  unfold State.showHqs
  split
  · rename_i u e
    have hu : u.Canonical := .of_snd e h.translateRange
    exact hu
  · rename_i u e
    have hu : u.Canonical := .of_snd e h.translateRange
    exact hu.forceBelow.ite hu

theorem M.Keeps.startPacket {num kind go} (hg : ∀ (s : State) q bs, s.Canonical → (go s q bs).2.Canonical) :
    M.Keeps (startPacket num kind go) := by
  unfold Machine.startPacket
  refine .withState fun s h => ?_
  split
  · exact .idle
  next q found =>
    extract_lets jp
    have hjp : ∀ r, M.Keeps (jp r) := by
      intro r
      unfold jp
      split
      next u e => exact .set (.haltQueue (.of_snd e h.showHqs.hqsRead))
      next bs bad u e =>
        have hu : u.Canonical := .of_snd e h.showHqs.hqsRead
        refine .ite (.set hu.haltQueue) (.ite (.set hu.haltQueue) (.ite (.set hu.haltQueue) ?_))
        have hrest : M.Keeps (match go u q bs with
          | (.error code, s) => MonadStateOf.set (s.haltQueue num code)
          | (.ok complete, s) => MonadStateOf.set (s.noteStarted num kind bs complete)) := by
          split
          next v e => exact .set (.haltQueue (.of_snd e (hg _ _ _ hu)))
          next v e => exact .set (.noteStarted (.of_snd e (hg _ _ _ hu)))
        exact .maybe .idle fun _ => hrest
    exact .maybe .idle hjp

theorem State.Canonical.startNop {s : State} (h : s.Canonical) {x bs} : (startNop s x bs).2.Canonical := h

theorem State.Canonical.startWait {s : State} (h : s.Canonical) {q bs} : (startWait s q bs).2.Canonical := by
  unfold Machine.startWait
  extract_lets _
  split
  · exact h
  · split
    · exact h
    · split
      · split
        · rename_i u e
          have hu : u.Canonical := .of_snd e h.hqsWord
          exact hu
        · rename_i u e
          have hu : u.Canonical := .of_snd e h.hqsWord
          exact hu
      · exact h

theorem State.Canonical.waitValue {s : State} (h : s.Canonical) {q bs} : (s.waitValue q bs).2.Canonical := by
  unfold State.waitValue
  extract_lets _
  split
  · exact h
  · split
    · rename_i u e
      have hu : u.Canonical := .of_snd e h.hqsWord
      exact hu
    · rename_i u e
      have hu : u.Canonical := .of_snd e h.hqsWord
      exact hu
  · split
    · exact h
    · exact h
    · exact h

theorem State.Canonical.startLevel {s : State} (h : s.Canonical) {q bs} : (startLevel s q bs).2.Canonical := by
  unfold Machine.startLevel
  extract_lets w level put
  have hput : ∀ s c, State.Canonical s → (put s c).Canonical := by
    intro s c h
    unfold put
    split
    · exact h
    · exact h.putQueue
  clear_value put
  split
  · exact h
  · split
    · split
      next u e => exact .of_snd e h.readCheck
      next u e => exact hput _ _ (.of_snd e h.readCheck)
    · exact hput _ _ h

theorem State.Canonical.startHold {s : State} (h : s.Canonical) {q bs} : (startHold s q bs).2.Canonical := by
  unfold Machine.startHold
  extract_lets _ _
  split
  · exact h
  · split
    · exact h
    · split
      · exact h
      · exact h.putQueue

theorem State.Canonical.startSignal {s : State} (h : s.Canonical) {q bs} : (startSignal s q bs).2.Canonical := by
  unfold Machine.startSignal
  extract_lets _ _
  split
  · exact h
  · split
    · rename_i u e
      have hu : u.Canonical := .of_snd e h.hqsWrite
      exact hu
    · rename_i u e
      have hu : u.Canonical := .of_snd e h.hqsWrite
      dsimp only
      split
      · exact hu.raise
      · exact hu

theorem State.Canonical.startLaunch {s : State} (h : s.Canonical) {q bs} : (startLaunch s q bs).2.Canonical := by
  unfold Machine.startLaunch
  extract_lets _
  split
  · exact h
  · split
    · exact h
    · split
      · exact h
      · exact h.same

theorem State.Canonical.packetDone {s : State} (h : s.Canonical) {q p} : (s.packetDone q p).2.Canonical := by
  unfold State.packetDone
  split
  · exact h
  · split
    · rename_i u e
      have hu : u.Canonical := .of_snd e h.waitValue
      exact hu
    · rename_i u e
      have hu : u.Canonical := .of_snd e h.waitValue
      exact hu
  · exact h
  · exact h
  · exact h

theorem State.Canonical.afterPacket {s : State} (h : s.Canonical) {q p} : (s.afterPacket q p).Canonical := by
  unfold State.afterPacket
  split
  · exact h.forceBelow.settleLaunch.same
  · exact h.forceBelow
  · exact h

theorem State.Canonical.completeFirst {s : State} (h : s.Canonical) {q xs} {u : State}
    (e : completeFirst q xs s = some u) : u.Canonical := by
  induction xs generalizing s with
  | nil => cases e
  | cons p ps ih =>
    unfold Machine.completeFirst at e
    split at e
    · exact ih h e
    · split at e
      next v hit =>
        split at e
        · exact ih (.of_snd hit h.packetDone) e
        · cases e
          exact .haltQueue (.of_snd hit h.packetDone)
      next v hit =>
        cases e
        exact .finishPacket (.afterPacket (.of_snd hit h.packetDone))
      next v hit => exact ih (.of_snd hit h.packetDone) e

theorem M.Keeps.completionEvent {num} : M.Keeps (completionEvent num) := by
  unfold Machine.completionEvent
  refine .withState fun _ h => ?_
  split
  · exact .idle
  · split
    · exact .idle
    next u e => exact .set (h.completeFirst e)

theorem State.Canonical.seeDoorbell {s : State} (h : s.Canonical) {q db} : (s.seeDoorbell q db).Canonical :=
  h.putQueue.ite h

theorem M.Keeps.pollEvent {num} : M.Keeps (pollEvent num) := by
  unfold Machine.pollEvent
  refine .withState fun _ h => ?_
  split
  · exact .idle
  · extract_lets jp
    have hjp : ∀ r, M.Keeps (jp r) := by
      intro r
      unfold jp
      split
      · rename_i u e
        have hu : u.Canonical := .of_snd e h.hqsWord
        exact .set hu.haltQueue
      · rename_i u e
        have hu : u.Canonical := .of_snd e h.hqsWord
        exact .maybe .idle fun _ => .set hu.seeDoorbell
    clear_value jp
    exact .maybe .idle hjp

theorem M.Keeps.doorbellEvent {num db} : M.Keeps (doorbellEvent num db) := by
  unfold Machine.doorbellEvent
  refine .withState fun _ h => ?_
  split
  · exact .idle
  · extract_lets jp
    have hjp : ∀ r, M.Keeps (jp r) := by
      intro r
      unfold jp
      split
      · rename_i u e
        have hu : u.Canonical := .of_snd e h.descWrite
        exact .set hu.haltQueue
      · rename_i u e
        have hu : u.Canonical := .of_snd e h.descWrite
        exact .set hu.seeDoorbell
    clear_value jp
    exact .maybe .idle hjp

theorem M.Keeps.bindEvent {num} : M.Keeps (bindEvent num) := by
  unfold Machine.bindEvent
  refine .withState fun s h => ?_
  split
  · exact .idle
  next q found =>
    extract_lets now u used jp
    have hu : u.Canonical := h.same
    clear_value u used
    have hjp : ∀ r, M.Keeps (jp r) := by
      intro r
      unfold jp
      split
      · exact .set hu.putQueue
      · split
        · exact .idle
        · split
          · exact .idle
          · exact .set hu.putQueue.putQueue
    exact .maybe .idle hjp

theorem M.Keeps.sliceEvent {num} : M.Keeps (sliceEvent num) := by
  unfold Machine.sliceEvent
  refine .withState fun _ h => ?_
  split
  · exact .idle
  · exact .maybe .idle fun _ => .set h.putQueue

theorem M.Keeps.ageingEvent {num} : M.Keeps (ageingEvent num) := by
  unfold Machine.ageingEvent
  refine .withState fun s h => ?_
  split
  · exact .idle
  · exact .maybe .idle fun _ => .set h.putQueue

theorem State.Canonical.placeFirst {s : State} (h : s.Canonical) {xs} {u : State} (e : placeFirst xs s = some u) :
    u.Canonical := by
  induction xs with
  | nil => cases e
  | cons q qs ih =>
    unfold Machine.placeFirst at e
    split at e
    next v hit =>
      cases e
      obtain ⟨l, hl, hit⟩ := Option.bind_eq_some_iff.mp hit
      split at hit
      · cases hit
      · exact (h.placeLaunch hit).same
    · exact ih e

theorem M.Keeps.placementEvent : M.Keeps placementEvent := by
  unfold Machine.placementEvent
  refine .withState fun s h => ?_
  extract_lets jp
  have hjp : ∀ r, M.Keeps (jp r) := by
    intro r
    unfold jp
    split
    · exact .idle
    next u e => exact .set (h.placeFirst e)
  exact .maybe .idle hjp

theorem State.Canonical.withdraw {s : State} (h : s.Canonical) {l} : (s.withdraw l).Canonical :=
  .setLaunch (.foldl _ _ h fun _ _ h1 => h1.retireGang)

theorem M.Keeps.groupStartEvent {group} : M.Keeps (groupStartEvent group) := by
  unfold Machine.groupStartEvent
  refine .withState fun s h => ?_
  split
  · exact .idle
  · split
    · exact .idle
    next gr _ _ _ _ =>
      have hg : (s.putGroup { gr with startAt := none }).Canonical := h.putGroup
      exact .maybe .idle fun _ => .set hg.same

theorem M.Keeps.missedStartEvent {num} : M.Keeps (missedStartEvent num) := by
  unfold Machine.missedStartEvent
  refine .withState fun _ h => ?_
  split
  · exact .idle
  · exact .set h.withdraw.haltQueue.tellAll

theorem State.Canonical.hearMissed {s : State} (h : s.Canonical) {tag tick} : (s.hearMissed tag tick).Canonical := by
  unfold State.hearMissed
  split
  · exact h
  · exact h.withdraw.haltQueue.ite h.withdraw

theorem State.Canonical.hearPlaced {s : State} (h : s.Canonical) {tag tick level checked} : (s.hearPlaced tag tick
    level checked).Canonical :=
  h.same

theorem M.Keeps.missedReportEvent {tag tick} : M.Keeps (missedReportEvent tag tick) :=
  .withState fun _ h => .maybe .idle fun _ => .set h.hearMissed

/-! ## The operations of `Machine/System` -/

theorem M.Keeps.growRegs {g t} : M.Keeps (growRegs g t) :=
  .andThen .emptyStack fun _ => .andThen .gate fun _ => .ite .pure (.withState fun _ _ => .andThen .stopIf fun _ =>
    .andThen .modTeam fun _ => .pure)

theorem M.Keeps.shrinkRegs {g t} : M.Keeps (shrinkRegs g t) :=
  .andThen .emptyStack fun _ => .andThen .gate fun _ => .ite .pure (.andThen .stopIf fun _ => .andThen .modTeam
    fun _ => .andThen (.modify fun _ h => h.seatCore) fun _ => .pure)

theorem M.Keeps.system {t word} : M.Keeps (M.system t word) := .stopIf

theorem State.Canonical.ctlSet {s : State} (h : s.Canonical) {t r w} : (s.ctlSet t r w).Canonical := by
  unfold State.ctlSet
  split
  · exact h.modTeam
  · exact h.modTeam
  · exact h.modTeam
  · exact h.modTeam
  · exact h.modTeam
  · exact h.modCoreSame
  · exact h.modCoreSame
  · exact h.modCoreSame
  · exact h.same
  · exact h
  · exact h
  · exact h
  · exact h
  · exact h

theorem State.Canonical.ctlWrite {s : State} (h : s.Canonical) {t r k w} : (s.ctlWrite t r k w).Canonical := by
  unfold State.ctlWrite
  split
  · exact h.modTeam.ite h
  · exact h.modCoreSame.ite h
  · exact h
  · exact h.ctlSet

theorem M.Keeps.wordIndex {r w} : M.Keeps (M.wordIndex r w) := .andThen .stopIf fun _ => .pure

theorem M.Keeps.readControl {r sa sd t} : M.Keeps (readControl r sa sd t) := by
  unfold Machine.readControl
  extract_lets jp
  have hjp : ∀ r, M.Keeps (jp r) := by
    intro r
    unfold jp
    exact .pure
  clear_value jp
  split
  · refine .andThen .system fun a => .andThen .read fun a1 => .andThen .wordIndex fun _ => ?_
    extract_lets jp1
    have hjp1 : ∀ r, M.Keeps (jp1 r) := by
      intro r
      unfold jp1
      refine .withState fun s h => ?_
      split
      · exact .andThen .throw hjp
      · exact .andThen .regs hjp
    clear_value jp1
    exact .maybe .afterPasses hjp1
  · refine .andThen .read fun _ => .andThen .wordIndex fun _ => ?_
    extract_lets jp1
    have hjp1 : ∀ r, M.Keeps (jp1 r) := by
      intro r
      unfold jp1
      refine .withState fun _ _ => ?_
      split
      · exact .andThen .throw hjp
      · exact .andThen .regs hjp
    clear_value jp1
    exact .maybe .afterPasses hjp1

theorem M.Keeps.writeControl {r sa sd t} : M.Keeps (writeControl r sa sd t) := by
  unfold Machine.writeControl
  extract_lets jp
  have hjp : ∀ r, M.Keeps (jp r) := by
    intro r
    unfold jp
    refine .andThen .read fun a => ?_
    dsimp only
    exact .andThen .wordIndex fun _ => .maybe .afterPasses fun _ => .andThen (.modify fun _ h => h.ctlWrite) fun _ =>
      .pure
  clear_value jp
  exact .maybe .system hjp

theorem M.Keeps.changeControl {word f r sa sd t} : M.Keeps (changeControl word f r sa sd t) :=
  .andThen .stopIf fun _ => .maybe .system fun _ => .andThen .read fun _ => .maybe .afterPasses fun _ => .withState
    fun _ _ => .andThen .regs fun _ => .andThen (.modify fun _ h1 => h1.ctlSet) fun _ => .pure

theorem M.Keeps.returnFromTrap {t} : M.Keeps (returnFromTrap t) :=
  .andThen .system fun _ => .andThen .stopIf fun _ => .andThen .stopIf fun _ => .andThen (.modify fun _ h =>
    h.returnTrap) fun _ => .pure

theorem M.Keeps.breakPoint {n t} : M.Keeps (breakPoint n t) := .pure

theorem M.Keeps.publishAll {t} : M.Keeps (M.publishAll t) :=
  .andThen .stopIf fun _ => .andThen .bind fun _ => .andThen (.modify fun _ h => h.recordPending) fun _ => .withState
    fun _ _ => .maybe .flush fun _ => .modify fun _ h1 => h1.publishAndWait

theorem State.Canonical.dropCached {s : State} (h : s.Canonical) {t sc p} : (s.dropCached t sc p).Canonical := by
  refine h.mapCores fun _ => ?_
  split
  · rfl
  · rfl

theorem M.Keeps.invalidatePage {sc sa t} : M.Keeps (invalidatePage sc sa t) :=
  .andThen .system fun _ => .andThen .read fun _ => .andThen .publishAll fun _ => .withState fun _ _ => .andThen
    (.modify fun _ h1 => h1.dropCached) fun _ => .pure

theorem M.Keeps.invalidateTenant {sc sa t} : M.Keeps (invalidateTenant sc sa t) :=
  .andThen .system fun _ => .andThen .read fun _ => .andThen .stopIf fun _ => .andThen .publishAll fun _ => .andThen
    (.modify fun _ h => h.dropCached) fun _ => .pure

/-! ## The operations of `Machine/Management` -/

theorem State.Canonical.complete {s : State} (h : s.Canonical) {status} : (s.complete status).Canonical := h.same

theorem State.Canonical.sealed {s : State} (h : s.Canonical) {status} : (s.sealed status).Canonical := h.same

theorem M.Keeps.refuse : M.Keeps M.refuse := .modify fun _ h => h.complete

theorem M.Keeps.unsealed : M.Keeps M.unsealed := .modify fun _ h => h.sealed

theorem M.Keeps.up {step} : M.Keeps (M.up step) := .withState fun _ _ => .ite .idle .pure

theorem M.Keeps.request {m} (hm : m.Keeps) : M.Keeps (request m) := .andThen .up fun _ => hm

theorem State.Canonical.addQueue {s : State} (h : s.Canonical) {q} : (s.addQueue q).Canonical := by
  unfold State.addQueue
  extract_lets s1 s2
  have hs1 : s1.Canonical := h.same
  clear_value s1
  have hs2 : s2.Canonical := hs1.descSet.descSet.descSet
  clear_value s2
  split
  · exact hs2.loadCheck.ite hs2
  · exact hs2

theorem M.Keeps.registerQueue {num tenant desc} : M.Keeps (registerQueue num tenant desc) := by
  unfold Machine.registerQueue
  refine .withState fun s h => ?_
  split
  · exact .refuse
  · split
    · rename_i u e
      have hu : u.Canonical := .of_snd e h.hqsRead
      exact .ite .refuse (.set hu.addQueue.complete)
    · exact .refuse

theorem M.Keeps.deregisterQueue {num} : M.Keeps (deregisterQueue num) := by
  unfold Machine.deregisterQueue
  refine .withState fun s h => ?_
  split
  · exact .refuse
  · exact .ite .refuse (.set h.same.complete)

theorem M.Keeps.recoverQueue {num} : M.Keeps (recoverQueue num) := by
  unfold Machine.recoverQueue
  refine .withState fun s h => ?_
  split
  · exact .refuse
  · exact .set h.putQueue.complete.descSet

theorem M.Keeps.registerCheck {num addr} : M.Keeps (registerCheck num addr) := by
  unfold Machine.registerCheck
  refine .withState fun s h => ?_
  split
  · exact .refuse
  · extract_lets s1
    have hs1 : s1.Canonical := h.same.complete
    clear_value s1
    refine .set ?_
    split
    · exact hs1.loadCheck.ite hs1
    · exact hs1

theorem State.Canonical.scramble {s : State} (h : s.Canonical) {tenant pages} : (s.scramble tenant pages).Canonical :=
  h.same

theorem M.Keeps.createTenant {tenant} : M.Keeps (createTenant tenant) :=
  .withState fun _ h => .ite .unsealed (.set h.putTenant.sealed)

theorem M.Keeps.deleteTenant {tenant} : M.Keeps (deleteTenant tenant) :=
  .withState fun _ h => .ite .unsealed (.set h.scramble.putTenant.sealed)

theorem M.Keeps.registerRoot {tenant root} : M.Keeps (registerRoot tenant root) :=
  .modify fun _ h => h.putTenant.complete

theorem M.Keeps.registerEntries {tenant entries} : M.Keeps (registerEntries tenant entries) :=
  .modify fun _ h => h.putTenant.complete

theorem M.Keeps.setWatchdog {tenant wde} : M.Keeps (setWatchdog tenant wde) :=
  .ite (.modify fun _ h => h.putTenant.complete) .refuse

theorem M.Keeps.registerFaultQueue {tenant desc} : M.Keeps (registerFaultQueue tenant desc) := by
  unfold Machine.registerFaultQueue
  refine .withState fun s h => ?_
  split
  · rename_i u e
    have hu : u.Canonical := .of_snd e h.hqsRead
    exact .ite .refuse (.set hu.flagFaultQueue.hqsWrite.hqsWrite.complete.flushFaults)
  · exact .refuse

theorem M.Keeps.consumeFaults {tenant rd} : M.Keeps (consumeFaults tenant rd) := by
  unfold Machine.consumeFaults
  refine .withState fun _ h => ?_
  split
  · exact .idle
  · split
    · rename_i u e
      have hu : u.Canonical := .of_snd e h.hqsWrite
      exact .set hu.setFaultQueue
    · rename_i u e
      have hu : u.Canonical := .of_snd e h.hqsWrite
      exact .set hu.setFaultQueue.flushFaults

theorem State.Canonical.ackTeam {s : State} (h : s.Canonical) {team act} : (s.ackTeam team act).Canonical := by
  unfold State.ackTeam
  split
  · exact h
  · exact h.answerPark.ite h.same.modTeam

theorem State.Canonical.processAck {s : State} (h : s.Canonical) {tenant q word} : (s.processAck tenant q
    word).Canonical := by
  unfold State.processAck
  extract_lets _ _ _ _
  split
  · exact h.flagFaultQueue.ite h.setFaultQueue.ackTeam
  · exact h.flagFaultQueue

theorem State.Canonical.acksDue {s : State} (h : s.Canonical) {tenant} : (s.acksDue tenant).2.Canonical := by
  unfold State.acksDue
  split
  · exact h
  · split
    · exact h
    · split
      · rename_i u e
        have hu : u.Canonical := .of_snd e h.hqsWord
        exact hu
      · rename_i u e
        have hu : u.Canonical := .of_snd e h.hqsWord
        exact hu

theorem M.Keeps.ackEvent {tenant} : M.Keeps (ackEvent tenant) := by
  unfold Machine.ackEvent
  refine .withState fun _ h => ?_
  split
  · exact .idle
  · split
    · rename_i u e
      have hu : u.Canonical := .of_snd e h.forceBelow.acksDue
      exact .set hu.setFaultQueue
    · rename_i u e
      have hu : u.Canonical := .of_snd e h.forceBelow.acksDue
      exact .idle
    · rename_i u e
      have hu : u.Canonical := .of_snd e h.forceBelow.acksDue
      split
      · rename_i u1 e1
        have hu1 : u1.Canonical := .of_snd e1 hu.hqsWord
        exact .set hu1.setFaultQueue
      · rename_i u1 e1
        have hu1 : u1.Canonical := .of_snd e1 hu.hqsWord
        exact .set hu1.processAck.hqsWrite

theorem M.Keeps.admitDebug {tenant signed} : M.Keeps (admitDebug tenant signed) :=
  .withState fun _ h => .ite .unsealed (.set h.same.putTenant.sealed)

theorem M.Keeps.endDebug {tenant} : M.Keeps (endDebug tenant) := .modify fun _ h => h.putTenant.sealed

theorem M.Keeps.debugged {team} : M.Keeps (M.debugged team) := by
  unfold M.debugged
  refine .withState fun _ _ => ?_
  split
  · exact .idle
  · exact .ite .pure .idle

theorem M.Keeps.stopped {team} : M.Keeps (M.stopped team) := .andThen .debugged fun _ => .maybe .idle fun _ => .pure

theorem M.Keeps.requestStop {team} : M.Keeps (requestStop team) := .andThen .debugged fun _ => .modTeam

theorem M.Keeps.continueTeam {team} : M.Keeps (continueTeam team) :=
  .andThen .stopped fun _ => .modify fun _ h => h.returnTrap

theorem M.Keeps.stepTeam {team} : M.Keeps (stepTeam team) :=
  .andThen .stopped fun _ => .modify fun _ h => h.returnTrap.modTeam

theorem M.Keeps.writeRegister {target value} : M.Keeps (writeRegister target value) := by
  unfold Machine.writeRegister
  split
  · exact .andThen .debugged fun _ => .maybe .idle fun _ => .modify fun _ h => h.ctlWrite
  · exact .andThen .debugged fun _ => .maybe .idle fun _ => .modTeam
  · exact .andThen .debugged fun _ => .maybe .idle fun _ => .modTeam
  · exact .andThen .debugged fun _ => .maybe .idle fun _ => .modTeam
  · exact .andThen .debugged fun _ => .maybe .idle fun _ => .modTeam
  · exact .andThen .debugged fun _ => .maybe .idle fun _ => .modTeam
  · exact .andThen .debugged fun _ => .maybe .idle fun _ => .modTeam
  · exact .andThen .debugged fun _ => .maybe .idle fun _ => .modify fun _ h => h.modCoreSame
  · exact .andThen .debugged fun _ => .maybe .idle fun _ => .modify fun _ h => h.modCoreSame
  · exact .andThen .up fun _ => .withState fun _ h => .ite .refuse (.modify fun _ h1 => h1.same.complete)
  · exact .andThen .up fun _ => .withState fun _ h => .ite .refuse (.modify fun _ h1 => h1.same.complete)
  · refine .withState fun s h => ?_
    split
    · exact .idle
    · exact .modify fun _ h1 => h1.flagFaultQueue
  · exact .andThen .up fun _ => .withState fun _ h => .ite .refuse (.modify fun _ h1 => h1.same.complete)

theorem M.Keeps.openJob {num} : M.Keeps (openJob num) := by
  unfold Machine.openJob
  refine .withState fun s h => ?_
  split
  · exact .unsealed
  · exact .ite .unsealed (.set h.same.sealed)

theorem State.Canonical.jobLevel {s : State} (h : s.Canonical) {j} : (s.jobLevel j).2.Canonical := by
  unfold State.jobLevel
  split
  · exact h
  · exact h.same

theorem M.Keeps.closeJob {num base len dest} : M.Keeps (closeJob num base len dest) := by
  unfold Machine.closeJob
  refine .withState fun s h => ?_
  split
  · split
    next q j _ _ _ db u e =>
      have hu : u.Canonical := .of_snd e h.hqsWord
      extract_lets v jp
      have hv : v.Canonical := hu.same
      clear_value v
      have hjp : ∀ r, M.Keeps (jp r) := by
        intro r
        unfold jp
        split
        · exact .set hv.sealed
        · split
          next x e => exact .set (.sealed (.of_snd e hv.hqsRead))
          next x e =>
            have hx : x.Canonical := .of_snd e hv.hqsRead
            extract_lets index
            split
            next level y e =>
              have hy : y.Canonical := .of_snd e (State.Canonical.jobLevel hx.same)
              extract_lets rec sig
              split
              next z e => exact .set (.sealed (.of_snd e hy.hqsWrite))
              next z e => exact .set (.sealed (.of_snd e hy.hqsWrite))
      exact .maybe .idle hjp
  · exact .unsealed

theorem M.Keeps.walkEvent {core tenant va acc sys} : M.Keeps (walkEvent core tenant va acc sys) := by
  unfold Machine.walkEvent
  refine .withState fun s h => ?_
  split
  · exact .idle
  · exact .maybe .idle fun _ => .set h.translate

/-! ## The operations of `Machine/Links` -/

theorem M.Keeps.physical {pa n} : M.Keeps (M.physical pa n) :=
  .withState fun _ _ => .maybe .idle fun _ => .maybe .throw fun _ => .pure

theorem State.Canonical.cachedBy {s : State} (h : s.Canonical) {key n} : (s.cachedBy key n).Canonical := h.same

theorem M.Keeps.hostLinked : M.Keeps M.hostLinked := .andThen .up fun _ => .withState fun _ _ => .ite .idle .pure

theorem M.Keeps.hostWriteEvent {path bs} : M.Keeps (hostWriteEvent path bs) := by
  unfold Machine.hostWriteEvent
  refine .andThen .hostLinked fun _ => ?_
  split
  · exact .ite .pure (.modify fun _ h => ⟨h.mem, h.cores, h.copies, Memory.wf_writeBytes _ _ h.rings, h.vectors⟩)
  · exact .ite .pure (.modify fun _ h => ⟨h.mem, h.cores, h.copies, h.rings, Memory.wf_writeBytes _ _ h.vectors⟩)
  · exact .andThen .physical fun _ => .modify fun _ h => h.homeWrite _ _
  · refine .withState fun s h => ?_
    split
    · exact .pure
    · exact .modify fun _ h => h.hqsWrite

theorem M.Keeps.hostReadEvent {path n} : M.Keeps (hostReadEvent path n) := by
  unfold Machine.hostReadEvent
  refine .andThen .hostLinked fun _ => ?_
  extract_lets note free
  have hnote : ∀ bs (s : State), s.Canonical → (note bs s).Canonical := fun _ _ h => h.same
  have hfree : M.Keeps free := .modify fun _ h => hnote _ _ (h.freeBytes n)
  clear_value note free
  split
  · exact .ite hfree (.modify fun _ h => hnote _ _ h)
  · exact .ite hfree (.modify fun _ h => hnote _ _ h)
  · refine .andThen .physical fun key => .withState fun s h => ?_
    split
    next bs bad u e =>
      have hu : u.Canonical := .of_snd_snd e (h.homeRead _ _)
      exact .set (hnote _ _ hu.cachedBy)
  · refine .withState fun s h => ?_
    split
    next r u e =>
      have hu : u.Canonical := by
        split at e
        · exact .of_snd e h.hqsRead
        · cases e
          exact h
      split
      · exact .set (hnote _ _ hu)
      · exact .andThen (.set hu) fun _ => hfree

theorem M.Keeps.dmaEvent {port va write bs} : M.Keeps (dmaEvent port va write bs) := by
  unfold Machine.dmaEvent
  refine .andThen .up fun _ => .withState fun s h => ?_
  have hr : State.Canonical { s with dmaRefused := s.dmaRefused + 1 } := h.same
  have hctx : ∀ ctx, M.Keeps (match s.translateRange ctx (if write then .store else .load) va bs.length with
      | (.error _, _) => MonadStateOf.set ({ s with dmaRefused := s.dmaRefused + 1 } : State)
      | (.ok parts, s) =>
        if write then MonadStateOf.set (s.writeParts parts bs)
        else
          let (out, s) := parts.foldl (fun (acc : List Byte × State) p =>
            let (b, _, s) := acc.2.homeRead p.1 p.2
            (acc.1 ++ b, s)) ([], s)
          MonadStateOf.set { s with dmaReads := (port, va, out) :: s.dmaReads }) := by
    intro ctx
    split
    · exact .set hr
    next parts u e =>
      have hu : u.Canonical := .of_snd e h.translateRange
      refine .ite (.set hu.writeParts) (.set (.same (s := (List.foldl _ ([], u) parts).2) ?_))
      exact .foldPair hu fun acc p h => h.homeRead _ _
  extract_lets refused jp
  have hjp : ∀ r, M.Keeps (jp r) := by
    intro r
    unfold jp
    split
    · exact .set hr
    · exact hctx _
  exact .maybe .idle hjp

theorem State.Canonical.setInBound {s : State} (h : s.Canonical) {ok} : (s.setInBound ok).Canonical :=
  h.ite h.same.event

theorem State.Canonical.timing {s : State} (h : s.Canonical) {reference} : (s.timing reference).Canonical :=
  h.same.setInBound

theorem M.Keeps.timingEvent : M.Keeps timingEvent := .withState fun _ h => .maybe .idle fun _ => .set h.same.tellAll

theorem M.Keeps.outOfBoundEvent : M.Keeps outOfBoundEvent :=
  .withState fun _ h => .maybe .idle fun _ => .set h.setInBound

theorem State.Canonical.takeId {s : State} (h : s.Canonical) {dev} : (s.takeId dev).Canonical := by
  unfold State.takeId
  extract_lets move
  have hm := List.foldlRecOn (motive := fun m => Memory.wf m = true) s.mem
    (fun (m : Memory) c => Memory.write m (move c.1) c.2)
    (b := []) rfl fun m hm _ _ => Memory.wf_write _ _ hm
  exact (h.setMem hm).mapCores (f := fun c => { c with tc := [] }) fun _ => rfl

theorem State.Canonical.newKeys {s : State} (h : s.Canonical) : s.newKeys.Canonical := h.same

theorem M.Keeps.assignId {dev count} : M.Keeps (assignId dev count) :=
  .andThen .up fun _ => .withState fun _ h => .ite .refuse (.set h.takeId.newKeys.same.complete)

theorem M.Keeps.writeRoute {dev mask} : M.Keeps (writeRoute dev mask) :=
  .andThen .up fun _ => .ite .refuse (.modify fun _ h => h.same.complete)

theorem M.Keeps.dissolveDomain : M.Keeps dissolveDomain :=
  .andThen .up fun _ => .modify fun _ h => h.newKeys.same.complete

theorem State.Canonical.putPort {s : State} (h : s.Canonical) {p} : (s.putPort p).Canonical := h.same

theorem State.Canonical.noteFlit {s : State} (h : s.Canonical) {port lane dropped} : (s.noteFlit port lane
    dropped).Canonical :=
  h.putPort

theorem M.Keeps.retireLane {port lane} : M.Keeps (retireLane port lane) := by
  unfold Machine.retireLane
  refine .withState fun _ h => ?_
  extract_lets p q drops off down jp
  have hjp : ∀ r, M.Keeps (jp r) := by
    intro r
    have hd : down.Canonical := h.putPort
    exact .ite (.set h.putPort.event) (.ite (.set h.putPort.event) (.set (.event hd.same)))
  exact .maybe .idle hjp

theorem M.Keeps.replaceKey {dev cls} : M.Keeps (replaceKey dev cls) := by
  unfold Machine.replaceKey
  refine .withState fun s h => ?_
  split
  · exact .idle
  · exact .maybe .idle fun _ => .set h.same

theorem State.Canonical.perform {s : State} (h : s.Canonical) {op} : (s.perform op).2.Canonical := by
  unfold State.perform
  extract_lets key
  split
  · exact h.homeWrite _ _
  · dsimp only
    exact (h.settle _).applyReduce _ _ _ _ _
  · split
    next u e => exact .of_snd_snd e (h.homeRead _ _)
  · split
    next u e => exact .of_snd_snd e h.atomicAt
  · exact h.timing
  · exact h.remoteArrival
  · exact h.remoteLeave
  · exact h.hearMissed
  · exact h.hearPlaced
  · exact h.hearAway
  · dsimp only
    exact h.hearAway

theorem State.Canonical.answer {s : State} (h : s.Canonical) {id num bs} : (s.answer id num bs).Canonical :=
  h.same.countFlit

theorem State.Canonical.performHeld {k id} {s : State} (h : s.Canonical) : (State.performHeld k id s).Canonical := by
  induction k generalizing s with
  | zero => exact h
  | succ k ih =>
    unfold State.performHeld
    extract_lets f
    clear_value f
    split
    · exact h
    · split
      next r u e =>
        have hu : u.Canonical := by
          split at e
          · exact .of_snd e h.perform
          · cases e
            exact h
        exact ih hu.putFlow.answer

theorem M.Keeps.receiveFlit {x} : M.Keeps (receiveFlit x) :=
  .withState fun _ h => .maybe .idle fun _ => .ite (.set h.noteFlit) (.ite (.set h.noteFlit.answer) (.ite (.set
    h.noteFlit.putFlow.performHeld) (.set h.noteFlit)))

theorem M.Keeps.flowAckEvent {id num} : M.Keeps (flowAckEvent id num) := .modify fun _ h => h.putFlow.sendQueued

theorem M.Keeps.resendEvent {id} : M.Keeps (resendEvent id) := by
  unfold Machine.resendEvent
  refine .withState fun s h => ?_
  extract_lets _
  split
  · exact .idle
  · extract_lets put
    split
    · exact .set h.putFlow
    · dsimp only
      exact .set (h.leaveBy.putFlow.event.ite h.leaveBy.putFlow)

/-! ## The operations of `Machine/Platform` -/

theorem M.Keeps.powerEvent {watts} : M.Keeps (powerEvent watts) := .modify fun _ h => h.same

theorem State.Canonical.warn {s : State} (h : s.Canonical) {x t} : (s.warn x t).Canonical :=
  h.same.event.ite (h.same.ite h.same)

theorem State.Canonical.trip {s : State} (h : s.Canonical) {x t} : (s.trip x t).Canonical := by
  unfold State.trip
  split
  · exact h
  · exact h
  · exact h.modCoreSame.event.ite (h.modCoreSame.ite h)

theorem State.Canonical.critical {s : State} (h : s.Canonical) {x t} : (s.critical x t).Canonical :=
  h.same.event.ite (h.same.ite h)

theorem M.Keeps.monitorEvent {x t} : M.Keeps (monitorEvent x t) := by
  unfold Machine.monitorEvent
  refine .andThen .up fun a => ?_
  extract_lets jp
  have hjp : ∀ r, M.Keeps (jp r) := by
    intro r
    unfold jp
    refine .modify fun s h => ?_
    split
    · exact h.modCoreSame
    · exact h.warn.trip.critical
    · exact h.warn.trip.critical
  clear_value jp
  exact .maybe .idle hjp

theorem M.Keeps.droopEvent {core} : M.Keeps (droopEvent core) :=
  .maybe .idle fun _ => .modify fun _ h => h.modCoreSame

theorem State.Canonical.drawDigest {s : State} (h : s.Canonical) : s.drawDigest.2.Canonical := h.same

theorem State.Canonical.measure {s : State} (h : s.Canonical) {images ks} : (s.measure images ks).Canonical := by
  induction ks generalizing s with
  | nil => exact h
  | cons k ks ih =>
    cases images with
    | none => exact ih (.same h.drawDigest)
    | some xs => exact ih h.same

theorem State.Canonical.startCores {s : State} (h : s.Canonical) {rings} : (s.startCores rings).Canonical :=
  .foldl _ _ h.same fun _ _ h1 => h1.modCoreSame

theorem State.Canonical.trainHost {s : State} (h : s.Canonical) {cfg} : (s.trainHost cfg).Canonical := h.same

theorem State.Canonical.trainLinks {s : State} (h : s.Canonical) {gens} : (s.trainLinks gens).Canonical :=
  .foldl _ _ h fun _ _ h1 => h1.putPort

theorem State.Canonical.bringUpStep {s : State} (h : s.Canonical) {cfg k} : (s.bringUpStep cfg k).Canonical := by
  unfold State.bringUpStep
  extract_lets s1 s2
  have hs1 : s1.Canonical := h.measure
  clear_value s1
  have hs2 : s2.Canonical := by
    unfold s2
    split
    · exact hs1.startCores
    · exact hs1.trainHost
    · exact hs1.trainLinks
    · exact hs1
  clear_value s2
  exact hs2.same

theorem State.Canonical.bringUpFrom {s : State} (h : s.Canonical) {cfg xs} : (s.bringUpFrom cfg xs).Canonical := by
  induction xs generalizing s with
  | nil =>
    unfold State.bringUpFrom
    exact h
  | cons x xs ih =>
    unfold State.bringUpFrom
    exact h.same.sealed.ite (ih h.bringUpStep)

theorem M.Keeps.bringUpEvent {cfg} : M.Keeps (bringUpEvent cfg) :=
  .withState fun _ h => .maybe .idle fun _ => .set h.bringUpFrom

theorem M.Keeps.startCoreEvent : M.Keeps startCoreEvent := .withState fun _ h => .maybe .idle fun _ => .set h.same

theorem State.Canonical.powerLost {s : State} : s.powerLost.Canonical :=
  State.Canonical.same (State.reset_canonical)

theorem M.Keeps.updateFirmware {slot image verified} : M.Keeps (updateFirmware slot image verified) :=
  .andThen .up fun _ => .ite .unsealed (.modify fun _ h => h.same.event.sealed)

theorem State.Canonical.mapTeamsIn {s : State} (h : s.Canonical) {family f} : (s.mapTeamsIn family f).Canonical :=
  h.same

theorem State.Canonical.haltFamily {s : State} (h : s.Canonical) {family code} :
    (s.haltFamily family code).Canonical := by
  unfold State.haltFamily
  extract_lets clock gs s1 s2
  have hs1 : s1.Canonical :=
    ⟨h.mem, h.cores, fun c hc => h.copies c (List.mem_of_mem_filter hc), h.rings, h.vectors⟩
  clear_value s1
  have hs2 : s2.Canonical := .foldl _ _ hs1 fun _ _ h => h.haltTeam
  exact hs2.same

theorem M.Keeps.outOfServiceEvent {core} : M.Keeps (Machine.outOfServiceEvent core) := by
  unfold Machine.outOfServiceEvent
  refine .withState fun s h => ?_
  have hc : Memory.wf (s.core core).scratch = true := h.core core
  extract_lets c die u n leave jp
  have hu : u.Canonical := h.same
  have hleave : ∀ r, M.Keeps (leave r) := by
    intro r
    unfold leave
    clear_value u
    split
    next p _ => exact .set (.event (hu.putCore { c with phys := p, leaving := false, slow := false, corrected := []
                                                        halts := [], lostVotes := [] } hc))
    · exact .set (.event (hu.putCore { c with leaving := false, inService := false } hc))
  have hjp : ∀ r, M.Keeps (jp r) := fun _ => .ite (.set h.putCoreSame) (.maybe .idle hleave)
  exact .maybe .idle hjp

theorem M.Keeps.spareRow {chan row} : M.Keeps (spareRow chan row) :=
  .withState fun _ h => .maybe .idle fun _ => .set h.same.event

theorem M.Keeps.askRetire {chan} : M.Keeps (askRetire chan) :=
  .withState fun _ h => .maybe .idle fun _ => .set h.same.event

theorem M.Keeps.retireChannel {chan} : M.Keeps (retireChannel chan) :=
  .withState fun _ h => .ite .unsealed (.set h.same.event.sealed)

theorem M.Keeps.retireWay {die way} : M.Keeps (retireWay die way) :=
  .withState fun _ h => .maybe .idle fun _ => .set h.same.event

theorem State.Canonical.rowCorrected {s : State} (h : s.Canonical) {chan row} : (s.rowCorrected chan row).Canonical :=
  h.same

theorem State.Canonical.wayCorrected {s : State} (h : s.Canonical) {die way} : (s.wayCorrected die way).Canonical :=
  h.same

theorem State.Canonical.engineError {s : State} (h : s.Canonical) {k} : (s.engineError k).Canonical := h.same

theorem M.Keeps.retireEngine {k} : M.Keeps (retireEngine k) :=
  .withState fun _ h => .maybe .idle fun _ => .set h.same.event

/-! ## The operations of `Machine/Shadow` -/

theorem State.Canonical.enter {s : State} (h : s.Canonical) {c : Copy} (hc : Memory.wf c.core.scratch = true) :
    (s.enter c).Canonical := by
  unfold State.enter
  split
  · exact h
  · extract_lets x g u
    have hu : u.Canonical := h.withCopies (List.forall_mem_nil _)
    clear_value u
    exact .ite (hu.modCore _ _ (Core.wf_join _ _ (Core.wf_part _ _ (hu.core _)) hc)) hu

theorem State.Canonical.copyOf {s : State} (h : s.Canonical) {f third inputs} :
    Memory.wf (s.copyOf f third inputs).core.scratch = true := Core.wf_part _ _ (h.core _)

theorem State.Canonical.mismatchAt {s : State} (h : s.Canonical) {t p q} : (s.mismatchAt t p q).Canonical := by
  unfold State.mismatchAt
  split
  · exact h
  · exact h.same.putFamily.mapTeamsIn

theorem State.Canonical.flip {s : State} (h : s.Canonical) {shadow team reg lane bits} :
    (s.flip shadow team reg lane bits).Canonical := by
  unfold State.flip
  split
  · refine h.withCopies fun d hd => ?_
    obtain ⟨c, hc, rfl⟩ := List.mem_map.mp hd
    split
    · exact h.copies c hc
    · exact h.copies c hc
  · exact h.modTeam

theorem State.Canonical.loseVote {s : State} (h : s.Canonical) {core} : (s.loseVote core).Canonical := h.modCoreSame

theorem State.Canonical.thirdForShadow {s : State} (h : s.Canonical) {f shadow} :
    (s.thirdForShadow f shadow).Canonical := by
  unfold State.thirdForShadow
  extract_lets next third u
  have hu : u.Canonical := h.putFamily
  have ht : ∀ c ∈ third, Memory.wf c.core.scratch = true := by
    intro c hc
    obtain ⟨d, hd, rfl⟩ := List.mem_map.mp hc
    exact h.copies d (List.mem_of_find?_eq_some (Option.mem_toList.mp hd))
  clear_value u third
  refine hu.withCopies fun c hc => ?_
  rcases List.mem_append.mp hc with hc | hc
  · exact ht c hc
  · exact h.copies c (List.mem_of_mem_filter hc)

theorem State.Canonical.moveFamily {s : State} (h : s.Canonical) {f core} : (s.moveFamily f core).Canonical := by
  unfold State.moveFamily
  extract_lets part
  split
  next logs u e =>
    have hu : u.Canonical := .of_snd e h.takeAllLogs
    extract_lets saved s1 s2 base shift
    have hs1 : s1.Canonical := (hu.modCore _ _ (Core.wf_part _ _ (hu.core _))).leaveCore
    clear_value s1
    have hs2 : s2.Canonical := hs1.putFamily.restoreFamily
    clear_value s2
    refine hs2.modCoreSame ?_
    extract_lets c
    split
    · rfl
    · rfl

theorem State.Canonical.thirdForPrimary {s : State} (h : s.Canonical) {f shadow} :
    (s.thirdForPrimary f shadow).Canonical := by
  unfold State.thirdForPrimary
  extract_lets next move moved
  have hmove : ∀ v : State, v.Canonical → (move v).Canonical := by
    intro v hv
    unfold move
    split
    · exact hv.moveFamily
    · exact hv
  have hmoved : ∀ c ∈ s.copies, Memory.wf (moved c).core.scratch = true := by
    intro c hc
    unfold moved
    extract_lets w
    split
    · exact h.copies c hc
    · exact (hmove _ (h.enter (h.copies c hc))).copyOf
  clear_value moved
  split
  · exact h.putFamily
  next c found =>
    extract_lets log k v
    have hv : v.Canonical := hmove _ (h.enter (h.copies c (List.mem_of_find?_eq_some found)))
    clear_value v
    refine hv.withCopies fun d hd => ?_
    obtain ⟨c, hc, rfl⟩ := List.mem_map.mp hd
    split
    · exact hmoved c hc
    · exact h.copies c hc

theorem M.Keeps.voteEvent {family third} : M.Keeps (voteEvent family third) := by
  unfold Machine.voteEvent
  refine .withState fun s h => ?_
  split
  · exact .idle
  · split
    · exact .idle
    · extract_lets _ resume _ settled
      have hresume : ∀ r, State.Canonical r → State.Canonical (resume r) := by
        intro r hr
        unfold resume
        exact .foldl _ _ hr fun _ _ h1 => h1.resumeTeam
      clear_value resume
      have hsettled : settled.Canonical := hresume _ h.putFamily
      clear_value settled
      split
      · exact .set hsettled.haltFamily.event
      · exact .ite (.set (hresume _ h.loseVote.thirdForShadow.event)) (.ite (.set (hresume _
          h.loseVote.thirdForPrimary.event)) (.set hsettled.haltFamily.event))

theorem State.Canonical.take {s : State} (h : s.Canonical) {i} : (s.take i).Canonical := by
  unfold State.take
  split
  · exact h
  · exact h.putView

theorem State.Canonical.takeInputs {s : State} (h : s.Canonical) {xs xs1} : (s.takeInputs xs xs1).1.Canonical := by
  induction xs generalizing xs1 s with
  | nil =>
    unfold State.takeInputs
    exact h
  | cons x xs ih =>
    unfold State.takeInputs
    split
    · exact ih h
    · exact ih h.take

theorem State.Canonical.addCopy {s : State} (h : s.Canonical) {c : Copy} (hc : Memory.wf c.core.scratch = true) :
    (s.addCopy c).Canonical := h.withCopies (List.forall_mem_cons.mpr ⟨hc, h.copies⟩)

theorem State.Canonical.beginEpoch {s : State} (h : s.Canonical) {c : Copy} (hc : Memory.wf c.core.scratch = true) :
    (s.beginEpoch c).Canonical := by
  unfold State.beginEpoch
  extract_lets u
  refine h.withCopies fun d hd => ?_
  rcases List.mem_append.mp hd with hd | hd
  · exact h.copies d (List.mem_of_mem_filter hd)
  · rw [List.mem_singleton.mp hd]
    exact hc

/-! ## The operations of `Machine/Solver` -/

theorem M.Keeps.solveBytes {c r va n} : M.Keeps (M.solveBytes c r va n) := by
  unfold M.solveBytes
  refine .andThen .engineRead fun _ => ?_
  dsimp only
  split
  · exact .pure
  · exact .pure

theorem M.Keeps.solveArrays {c r xs} : M.Keeps (M.solveArrays c r xs) := by
  induction xs with
  | nil =>
    unfold M.solveArrays
    exact .pure
  | cons x xs ih =>
    unfold M.solveArrays
    refine .andThen .solveBytes fun a => ?_
    split
    · exact .pure
    · refine .andThen ih fun _ => ?_
      split
      · exact .pure
      · exact .pure

theorem M.Keeps.solveWarm {c r e} : M.Keeps (M.solveWarm c r e) := by
  unfold M.solveWarm
  split
  · exact .pure
  · refine .andThen .solveBytes fun a => ?_
    split
    · exact .pure
    · extract_lets _ _ at_
      refine .andThen .solveArrays fun a => ?_
      split
      · exact .pure
      · exact .pure
      · exact .pure

theorem M.Keeps.solveInput {c r e} : M.Keeps (M.solveInput c r e) := by
  unfold M.solveInput
  refine .andThen .solveBytes fun a => ?_
  split
  · exact .pure
  · split
    · exact .pure
    · extract_lets _ after
      refine .andThen .solveArrays fun a => ?_
      split
      · exact .pure
      · refine .andThen .solveBytes fun a => ?_
        split
        · exact .pure
        · refine .andThen .solveWarm fun _ => ?_
          split
          · exact .pure
          · exact .ite .pure .pure
      · exact .pure

theorem M.Keeps.writeResult {c r va bs bad} : M.Keeps (M.writeResult c r va bs bad) := by
  unfold M.writeResult
  refine .withState fun s h => ?_
  dsimp only
  refine .andThen (.set h.translateUpTo.writeStream) fun a => ?_
  split
  · exact .pure
  · exact .andThen .engineFault fun _ => .pure

theorem M.Keeps.solveEntry {c r bs} : M.Keeps (solveEntry c r bs) := by
  unfold Machine.solveEntry
  extract_lets _
  split
  · exact .pure
  · refine .andThen .solveInput fun a => ?_
    split
    · exact .pure
    · exact .andThen (.modify fun _ h => h.setRunFault) fun _ => .pure
    · refine .withState fun _ _ => ?_
      extract_lets _ _ _ _ _
      refine .andThen (.modify fun _ h1 => h1.same) fun _ => ?_
      split
      · refine .andThen (.modify fun _ h1 => h1.same) fun a1 => .andThen .writeResult fun _ => ?_
        split
        · exact .pure
        · exact .andThen (.modify fun _ h1 => h1.setRunFault) fun _ => .pure
      · refine .andThen .writeResult fun _ => ?_
        split
        · exact .pure
        · exact .andThen (.modify fun _ h1 => h1.setRunFault) fun _ => .pure

/-! ## The operations of `Machine/Streams` -/

theorem M.Keeps.setStream {t f qd x} : M.Keeps (M.setStream t f qd x) :=
  .withState fun _ _ => .andThen .stopIf fun _ => .modTeam

theorem M.Keeps.streamRange {f off n} : M.Keeps (M.streamRange f off n) := .stopIf

theorem M.Keeps.streamLoad {s32 qd sa t} : M.Keeps (streamLoad s32 qd sa t) :=
  .andThen .read fun _ => .andThen .family fun _ => .andThen .streamRange fun _ => .andThen .stopIf fun _ =>
    .withState fun _ _ => .andThen .stopIf fun _ => .andThen .setStream fun _ => .pure

theorem M.Keeps.streamStore {qa sa t} : M.Keeps (streamStore qa sa t) :=
  .andThen .read fun _ => .andThen .family fun _ => .andThen .streamRange fun _ => .andThen .stopIf fun _ => .andThen
    .afterPasses fun _ => .andThen .inOrder fun _ => .andThen (.modify fun _ h => h.scratchWrite _ _ _) fun _ => .pure

theorem M.Keeps.streamMerge {op qa qd qb t} : M.Keeps (streamMerge op qa qd qb t) :=
  .andThen .family fun _ => .andThen .stopIf fun _ => .andThen .setStream fun _ => .pure

/-! ## The operations of `Machine/Errors` -/

theorem State.Canonical.haltIfThere {s : State} (h : s.Canonical) {team code eaddr} : (s.haltIfThere team code
    eaddr).Canonical := by
  unfold State.haltIfThere
  split
  · exact h
  · exact h.ite h.haltTeam

theorem State.Canonical.loseEntry {s : State} (h : s.Canonical) {core e} : (s.loseEntry core e).Canonical := by
  unfold State.loseEntry
  split
  · rename_i u e1
    have hu : u.Canonical := .of_snd e1 h.drawDigest
    extract_lets s1
    have hs1 : s1.Canonical := hu.modCoreSame
    clear_value s1
    exact hs1.same

theorem State.Canonical.entryError {s : State} (h : s.Canonical) {core lsn} : (s.entryError core lsn).Canonical := by
  unfold State.entryError
  split
  · exact h
  · exact h.haltIfThere.modCoreSame.ite (h.loseEntry.ite h)

theorem State.Canonical.bufferError {s : State} (h : s.Canonical) {core k} : (s.bufferError core k).Canonical := by
  unfold State.bufferError
  split
  · exact h
  · exact h.modCoreSame.haltIfThere

theorem State.Canonical.childError {s : State} (h : s.Canonical) {core k} : (s.childError core k).Canonical := by
  unfold State.childError
  split
  · exact h
  · extract_lets s1 s2
    have hs1 : s1.Canonical := h.modCoreSame
    clear_value s1
    have hs2 : s2.Canonical := by
      unfold s2
      split
      · exact hs1
      · exact hs1.putGang
    clear_value s2
    exact .foldl _ _ hs2.same fun _ _ h1 => h1.haltIfThere

theorem State.Canonical.chainError {s : State} (h : s.Canonical) {chan run} : (s.chainError chan run).Canonical := by
  unfold State.chainError
  split
  · exact h
  · extract_lets s1
    have hs1 : s1.Canonical := h.haltRunTeam
    clear_value s1
    split
    · exact hs1
    · exact hs1.cancelRun

theorem State.Canonical.strike {s : State} (h : s.Canonical) {a} : (s.strike a).Canonical := by
  unfold State.strike
  split
  · exact h.setPoison _ _
  · exact h.rowCorrected
  · exact h.wayCorrected
  · exact h.same
  · exact h.engineError
  · exact h.entryError
  · exact h.bufferError
  · exact h.childError
  · split
    · exact h
    · exact h.failScene
  · exact h.chainError
  · exact h.flip
  · exact h
  · exact h
  · exact h
  · exact h
  · exact h

theorem State.Canonical.pairCorrected {s : State} (h : s.Canonical) {t} : (s.pairCorrected t).Canonical :=
  h.modCoreSame.event

theorem State.Canonical.pairHalted {s : State} (h : s.Canonical) {t} : (s.pairHalted t).Canonical := h.event

/-! ## The operations of `Machine/Turn` -/

theorem State.Canonical.debugStop {s : State} (h : s.Canonical) {team code} : (s.debugStop team code).Canonical := by
  unfold State.debugStop
  split
  · exact h
  · exact h.takeTrap

theorem State.Canonical.stopAfter {s : State} (h : s.Canonical) {before} : (s.stopAfter before).Canonical := by
  unfold State.stopAfter
  split
  · exact h
  · exact h.ite (h.modTeam.ite h.debugStop)

theorem State.Canonical.commitAt {s : State} (h : s.Canonical) {t d} : (s.commitAt t d).Canonical := by
  unfold State.commitAt
  split
  · exact h
  · exact h.putFamily.modTeam.ite h

theorem State.Canonical.advanceRun {s : State} (h : s.Canonical) {team core ends} : (s.advanceRun team core
    ends).Canonical := by
  unfold State.advanceRun
  split
  · exact h
  · exact h.modTeam.dropLatches.ite h.modTeam

theorem State.Canonical.account {s : State} (h : s.Canonical) {t d} : (s.account t d).Canonical := by
  unfold State.account
  split
  · exact h.endTurn
  · extract_lets s1 s2
    have hs1 : s1.Canonical := h.ite h.modCoreSame
    clear_value s1
    have hs2 : s2.Canonical := hs1.advanceRun
    clear_value s2
    exact ((hs1.ite (hs2.ite (((hs2.ite hs2.modTeam).commitAt).stopAfter))).same).ite ((hs1.ite (hs2.ite (((hs2.ite
      hs2.modTeam).commitAt).stopAfter))).endTurn)

theorem State.Canonical.beforeWord {s : State} (h : s.Canonical) {t d} : (s.beforeWord t d).Canonical :=
  h.modTeam.dropLatches.ite h

theorem State.Canonical.useFetched {s : State} (h : s.Canonical) {t} : (s.useFetched t).Canonical := h.ite h.modTeam

theorem State.Canonical.haltedInstead {s : State} (h : s.Canonical) {t code eaddr} : (s.haltedInstead t code
    eaddr).Canonical :=
  h.useFetched.stop.endTurn

theorem State.Canonical.timedOut {s : State} (h : s.Canonical) {t} {u : State} (e : s.timedOut t = some u) :
    u.Canonical := by
  unfold State.timedOut at e
  split at e
  · cases e
    exact h.bark
  · cases e
    exact h.bark
  · cases e
    exact h.hang
  · cases e

theorem M.Keeps.moveIf {b f} (hf : ∀ s : State, s.Canonical → (f s).Canonical) : M.Keeps (moveIf b f) :=
  .withState fun _ h => .ite (.set (hf _ h)) .idle

theorem State.Canonical.ticked {s : State} (h : s.Canonical) : s.ticked.Canonical := h.same.ite (h.same.ite h.same)

/-! ## Outcomes -/

theorem NextCanonical.next {s : State} (h : s.Canonical) : NextCanonical (.next s) := fun _ e => by
  cases e
  exact h

theorem NextCanonical.fault {f : Fault} : NextCanonical (.fault f) := fun _ e => nomatch e

theorem NextCanonical.issue {s : State} {len : Nat} {body : Team → M Done} (hb : ∀ t, (body t).Keeps)
    (h : s.Canonical) : NextCanonical (issue len body s) := by
  unfold Machine.issue
  split
  · exact .fault
  next t _ =>
    split
    next f u e => exact .next ((hb t).ok h e).retire
    · exact .fault
    next x u _ e => exact .next ((hb t).error h e).stop

theorem NextCanonical.regOp {s : State} {len f} (h : s.Canonical) : NextCanonical (regOp len f s) := by
  refine .issue (fun t s h => ?_) h
  split
  · exact h.putView
  · exact h

theorem NextCanonical.crossOp {s : State} {vd nw f} (h : s.Canonical) : NextCanonical (crossOp vd nw f s) :=
  .issue (fun _ => .andThen .read fun _ => .andThen .countable fun _ => .andThen .result fun _ => .pure) h

theorem NextCanonical.event {s : State} {body : M Unit} (hb : body.Keeps) (h : s.Canonical) :
    NextCanonical (event body s) := by
  unfold Machine.event
  split
  next u e => exact .next (hb.ok h e)
  · exact .fault
  · exact .next h

theorem M.Keeps.gleave {t} : M.Keeps (Machine.leaveGang t) := by
  unfold Machine.leaveGang
  refine .andThen .notInHandler fun _ => .andThen .emptyStack fun _ => .withState fun s h => ?_
  split
  · exact .throw
  · exact .andThen .stopIf fun _ => .andThen .leaveGang fun _ => .withState fun _ _ => .andThen .enter fun _ => .pure

/-- What is next keeps the memories canonical, instruction or event of the part. -/
theorem NextCanonical.of_exec {s : State} (h : s.Canonical) (i : Instr) : NextCanonical (exec i s) := by
  cases i with
  | movShort | addF32Short | subF32Short | mulF32Short | minF32Short | maxF32Short | addS32Short | subS32Short |
  mulS32Short | addN32Short | subN32Short | andB32Short | orB32Short | xorB32Short | shlN32Short | shrN32Short |
  addF32 | subF32 | mulF32 | fmaF32 | addF64 | subF64 | mulF64 | fmaF64 | addF16 | subF16 | mulF16 | fmaF16 | addBf16
  | subBf16 | mulBf16 | fmaBf16 | div | fmin | fmax | copysign | sqrt | rcp | rsqrt | exp2 | log2 | sin | cos | tanh |
  rint | fneg | fabs | fclass | intAdd | intSub | intMul | intMulh | intMin | intMax | intAdds | intSubs | intShl |
  intShr | intAbs | intNeg | intMad | intDiv | intRem | bitAnd | bitOr | bitXor | bitAndn | bitNot | bitPopc | bitClz
  | bitCtz | bitRotl | bitBrev | cmp | cvt | vaddi | shli | shriN | shriS | rotli | mov | movtag | bcast | sel |
  vmoviGet | vmoviPut | omov | dotF32Bf16 | dotF32F16 | dotS32S8 | sadd | ssub | smul | smulhS | smulhN | sdivS |
  sdivN | sremS | sremN | sand | sor | sxor | sandn | sshl | sshrN | sshrS | srotl | sminS | sminN | smaxS | smaxN |
  ssltS | ssltN | sseq | spopc | sclz | sctz | smov | saddi | sandi | sori | sxori | sshli | sshriN | sshriS | srotli
  | slk | sqext =>
    exact .regOp h
  | lane | affine | dotF32Nf | sli | mand | mor | mxor | mandn | mnot | mmov | mcnt | mfirst | mact | mget | mput |
  sqcnt =>
    unfold Machine.exec
    exact .regOp h
  | xperm | shfl | shflXor | shflUp | shflDn | voteAny | voteAll | voteEq | ballot | csamp | rngN32 =>
    exact .crossOp h
  | bz | bnz | bltz | bgez => exact .issue (fun _ => .branchIf) h
  | bdiv => exact .issue (fun _ => .divergeBy) h
  | jmp | trap | nop | targetEntry | targetListHeader | hint => exact .issue (fun _ => .pure) h
  | call => exact .issue (fun _ => .andThen .link fun _ => .pure) h
  | jr | ret => exact .issue (fun _ => .andThen .read fun _ => .andThen .target fun _ => .pure) h
  | callr =>
    exact .issue (fun _ => .andThen .read fun _ => .andThen .target fun _ => .andThen .link fun _ => .pure) h
  | brtab => exact .issue (fun _ => .branchTable) h
  | wcnt => exact .issue (fun _ => .andThen .stopIf fun _ => .pure) h
  | rdclk | rdid => exact .issue (fun _ => .withState fun _ _ => .andThen .regs fun _ => .pure) h
  | ld => exact .issue (fun _ => .load) h
  | st => exact .issue (fun _ => .store) h
  | sld => exact .issue (fun _ => .scratchLoad) h
  | sst => exact .issue (fun _ => .scratchStore) h
  | redAdd | redMin | redMax | redAnd | redOr | redXor => exact .issue (fun _ => .reduction) h
  | atomAdd | atomMin | atomMax | atomAnd | atomOr | atomXor | atomXchg | atomCas =>
    exact .issue (fun _ => .atomic) h
  | ldfe | stfe | ldf => exact .issue (fun _ => .fullEmpty) h
  | rel => exact .issue (fun _ => .andThen .gate fun _ => .andThen .release fun _ => .pure) h
  | acq => exact .issue (fun _ => .andThen .gate fun _ => .andThen .acquire fun _ => .pure) h
  | acqset =>
    exact .issue (fun _ => .andThen .read fun _ => .andThen .gate fun _ => .withState fun _ _ =>
      .andThen .acquire fun _ => .pure) h
  | fence => exact .issue (fun _ => .fence) h
  | bar => exact .issue (fun _ => .barrier) h
  | gbar => exact .issue (fun _ => .groupBarrier) h
  | gjoin => exact .issue (fun _ => .joinGang) h
  | spawn => exact .issue (fun _ => .spawnChildren) h
  | jwait => exact .issue (fun _ => .joinWait) h
  | copy => exact .issue (fun _ => .copyCommand) h
  | cbseal => exact .issue (fun _ => .sealBatch) h
  | cbwait => exact .issue (fun _ => .waitBatches) h
  | talloc => exact .issue (fun _ => .tileAlloc) h
  | tready | trel => exact .issue (fun _ => .tileStep) h
  | tstat => exact .issue (fun _ => .tileStat) h
  | mm | mmSp => exact .issue (fun _ => .matrixMultiply) h
  | mmo | mmoSp => exact .issue (fun _ => .octetMultiply) h
  | aalloc => exact .issue (fun _ => .accAlloc) h
  | afree | azero => exact .issue (fun _ => .accChange) h
  | adrain | adrainT => exact .issue (fun _ => .drainCommand) h
  | wbld => exact .issue (fun _ => .weightLoad) h
  | omset | nfset =>
    exact .issue (fun _ => .andThen .read fun _ => .andThen .stopIf fun _ => .andThen .modTeam fun _ => .pure) h
  | nfget => exact .issue (fun _ => .andThen .regs fun _ => .pure) h
  | dmset =>
    exact .issue (fun _ => .andThen .read fun _ => .andThen .stopIf fun _ => .andThen .family fun _ =>
      .andThen .stopIf fun _ => .andThen .modTeam fun _ => .pure) h
  | sqld => exact .issue (fun _ => .streamLoad) h
  | sqst => exact .issue (fun _ => .streamStore) h
  | sqint | squni | sqsub | sqmadd => exact .issue (fun _ => .streamMerge) h
  | cscene => exact .issue (fun _ => .openScene) h
  | cclose => exact .issue (fun _ => .closeScene) h
  | ckind => exact .issue (fun _ => .setKinds) h
  | clink => exact .issue (fun _ => .linkBodies) h
  | cunlink => exact .issue (fun _ => .unlinkBodies) h
  | cstep => exact .issue (fun _ => .stepScene) h
  | cwake => exact .issue (fun _ => .wakeBodies) h
  | cquery => exact .issue (fun _ => .queryBodies) h
  | enq => exact .issue (fun _ => .enqueue) h
  | eseq => exact .issue (fun _ => .readSequence) h
  | ewait => exact .issue (fun _ => .awaitRun) h
  | vgrow => exact .issue (fun _ => .growRegs) h
  | vshrink => exact .issue (fun _ => .shrinkRegs) h
  | crr => exact .issue (fun _ => .readControl) h
  | crw => exact .issue (fun _ => .writeControl) h
  | crs | crc => exact .issue (fun _ => .changeControl) h
  | brk => exact .issue (fun _ => .breakPoint) h
  | rcv => exact .issue (fun _ => .arrive) h
  | pause => exact .issue (fun _ => .yieldArm) h
  | exit => exact .issue (fun _ => .exitActive) h
  | ifence => exact .issue (fun _ => .andThen .modTeam fun _ => .pure) h
  | wbldRel => exact .issue (fun _ => .weightRelease) h
  | csleep => exact .issue (fun _ => .sleepGang) h
  | rte => exact .issue (fun _ => .returnFromTrap) h
  | tcinv => exact .issue (fun _ => .invalidatePage) h
  | tcinva => exact .issue (fun _ => .invalidateTenant) h
  | quantumExpiry => exact .event .quantumEvent h
  | issueTurn => exact .event .issueTurnEvent h
  | spawnGroupTimeout => exact .event .groupTimeoutEvent h
  | familyResourceReturn => exact .next h.familyReturn
  | teamSwapOut => exact .event .swapOutEvent h
  | swappedTeamRestore => exact .event .swapInEvent h
  | logicalClockGrant => exact .event .clockGrantEvent h
  | publicationRecord => exact .event .recordEvent h
  | acquireComplete => exact .event .acquireEvent h
  | loadReturn | homeAtomic => exact .event .returnEvent h
  | logDrain => exact .event .drainEvent h
  | homeApply => exact .event .applyEvent h
  | logAck => exact .next h.ack.prunePubs
  | logSpill => exact .next (h.putCore _ (Core.wf_spill (h.core _)))
  | logFullPreemption => exact .event .logFullEvent h
  | trapEntry => exact .event .trapEntryEvent h
  | watchdogRetireTimeout => exact .event .retireTimeoutEvent h
  | watchdogStarveTimeout => exact .event .starveTimeoutEvent h
  | handlerHang => exact .event .hangEvent h
  | gangPreemption => exact .next h.preempt
  | gangRestore => exact .next h.restore
  | cstepRegroup => exact .event .regroupEvent h
  | bodyRecordWriteback => exact .event .writeBackEvent h
  | runAccept => exact .next h.acceptRun
  | bceCopyCommand => exact .event .copyRun h
  | bceDrainCommand => exact .event .drainRun h
  | chainNop => exact .event (.entry fun _ _ _ => .pure) h
  | copyEntry => exact .event (.entry fun _ _ _ => .copyEntry) h
  | gather | scatter => exact .event (.entry fun _ _ _ => .listEntry) h
  | drainEntry => exact .event (.entry fun _ _ _ => .drainEntry) h
  | solve => exact .event (.entry fun _ _ _ => .solveEntry) h
  | loopEntry => exact .event (.entry fun _ _ _ => .loopEntry) h
  | condEntry => exact .event (.entry fun _ _ _ => .condEntry) h
  | condRetest => exact .event .condRetest h
  | entryCompletion => exact .event .completeEntry h
  | mxePass => exact .event .passEvent h
  | mxeIdle => exact .event .idleEvent h
  | mxeAdmission => exact .event .admissionEvent h
  | queueDoorbell => exact .event .doorbellEvent h
  | nopPacket => exact .event (.startPacket fun _ _ _ h => h.startNop) h
  | launchPacket => exact .event (.startPacket fun _ _ _ h => h.startLaunch) h
  | waitPacket => exact .event (.startPacket fun _ _ _ h => h.startWait) h
  | levelPacket => exact .event (.startPacket fun _ _ _ h => h.startLevel) h
  | holdPacket => exact .event (.startPacket fun _ _ _ h => h.startHold) h
  | signalPacket => exact .event (.startPacket fun _ _ _ h => h.startSignal) h
  | packetCompletion => exact .event .completionEvent h
  | queueBind => exact .event .bindEvent h
  | sliceExpiry => exact .event .sliceEvent h
  | priorityAgeing => exact .event .ageingEvent h
  | gangPlacement => exact .event .placementEvent h
  | groupStart => exact .event .groupStartEvent h
  | groupMissedStart => exact .event .missedStartEvent h
  | missedStartReport => exact .event .missedReportEvent h
  | queueRegistration => exact .event (.request .registerQueue) h
  | queueDeregistration => exact .event (.request .deregisterQueue) h
  | queueRecovery => exact .event (.request .recoverQueue) h
  | checkRecordRegistration => exact .event (.request .registerCheck) h
  | tenantRootRegistration => exact .event (.request .registerRoot) h
  | entryListRegistration => exact .event (.request .registerEntries) h
  | watchdogExponent => exact .event (.request .setWatchdog) h
  | faultQueueRegistration => exact .event (.request .registerFaultQueue) h
  | faultQueueConsume => exact .event .consumeFaults h
  | ackWord => exact .event .ackEvent h
  | hostWrite => exact .event .hostWriteEvent h
  | hostRead => exact .event .hostReadEvent h
  | rootPortDma => exact .event .dmaEvent h
  | flitReceive => exact .event .receiveFlit h
  | flowAck => exact .event .flowAckEvent h
  | resendTimeout => exact .event .resendEvent h
  | linkLaneRetire => exact .event .retireLane h
  | linkKeyReplace => exact .event .replaceKey h
  | deviceIdAssignment => exact .event .assignId h
  | routeTableWrite => exact .event .writeRoute h
  | meridianTimingMessage => exact .next h.timing
  | meridianOutOfBound => exact .event .outOfBoundEvent h
  | powerSample => exact .event .powerEvent h
  | monitorSample => exact .event .monitorEvent h
  | voltageDroop => exact .event .droopEvent h
  | bringUp => exact .event .bringUpEvent h
  | thirdRunVote => exact .event .voteEvent h
  | coreOutOfService => exact .event .outOfServiceEvent h
  | hbmRowSpare => exact .event .spareRow h
  | hbmChannelRetireRequest => exact .event .askRetire h
  | hbmChannelRetire => exact .event .retireChannel h
  | dieCacheWayRetire => exact .event .retireWay h
  | solverEngineRetire => exact .event .retireEngine h
  | firmwareUpdate => exact .event .updateFirmware h
  | tenantCreate => exact .event (.request .createTenant) h
  | tenantDelete => exact .event (.request .deleteTenant) h
  | debugAdmission => exact .event (.request .admitDebug) h
  | jobOpen => exact .event (.request .openJob) h
  | jobClose => exact .event (.request .closeJob) h
  | debugStopRequest => exact .event .requestStop h
  | debugContinue => exact .event .continueTeam h
  | debugStep => exact .event .stepTeam h
  | registerWrite => exact .event .writeRegister h
  | translationWalk => exact .event .walkEvent h
  | powerLoss => exact .next .powerLost
  | domainDissolution => exact .event .dissolveDomain h
  | debugAdmissionEnd => exact .event (.request .endDebug) h
  | gleave => exact .issue (fun _ => .gleave) h

/-! ## The turn of a team -/

theorem NextCanonical.runNext {s : State} (h : s.Canonical) {t} : NextCanonical (s.runNext t) := by
  unfold State.runNext
  split
  · exact .fault
  next x u _ e =>
    have hu : u.Canonical := M.Keeps.fetch.error h e
    exact .next hu.stop.endTurn
  next w n u e =>
    have hu : u.Canonical := M.Keeps.fetch.ok h e
    split
    · exact .next hu.useFetched.stop.endTurn
    next d _ =>
      have hd : NextCanonical (runDecoded d ((u.useFetched t).beforeWord t d)) := by
        rw [runDecoded_eq]
        exact .of_exec hu.useFetched.beforeWord _
      dsimp only
      split
      next v e => exact .next (hd v e).account
      · exact hd

theorem NextCanonical.struckNext {s : State} (h : s.Canonical) {t e es d} : NextCanonical (s.struckNext t e es d) := by
  unfold State.struckNext
  extract_lets past
  have hp : past.Canonical := h.same
  clear_value past
  split
  · split
    · exact .next hp.haltedInstead
    · exact .runNext h
  · split
    · exact .next hp.haltedInstead
    · exact .runNext h
  · split
    next u e =>
      split
      · exact .next hp.haltedInstead
      · exact .next (NextCanonical.runNext h u e)
    · exact .runNext h
  · split
    next u e =>
      have hu : u.Canonical := NextCanonical.runNext h u e
      split
      · exact .next hu
      · split
        · exact .next hp.haltedInstead.pairHalted
        · exact .next (.pairCorrected hu.same)
    · exact .runNext h
  · exact .runNext h

theorem NextCanonical.issueNext {s : State} (h : s.Canonical) {t} : NextCanonical (s.issueNext t) := by
  unfold State.issueNext
  split
  · unfold State.issueAgreed
    split
    · exact .runNext h
    · split
      · exact .runNext h
      · exact .struckNext h
  · exact .next h.endTurn
  · exact .next h.mismatchAt.endTurn

theorem NextCanonical.turn {s : State} (h : s.Canonical) : NextCanonical s.turn := by
  unfold State.turn
  split
  · exact .next h.endTurn
  · split
    · exact .next h.endTurn
    · split
      next u e => exact .next (h.timedOut e).endTurn
      · split
        · exact .next (.ite h.switchArms.endTurn h.endTurn)
        · split
          · exact .next h.switchArms.endTurn
          · split
            · exact .next h.debugStop.endTurn
            · split
              · extract_lets u
                have hu : u.Canonical := h.bindPath
                clear_value u
                split
                · exact .next hu.endTurn
                · exact .issueNext hu
              · exact .issueNext h

/-! ## The machine's own moves -/

/-- Every move of a list keeps the memories canonical. -/
def MovesKeep (ms : List (M Unit)) : Prop := ∀ m ∈ ms, m.Keeps

theorem MovesKeep.nil : MovesKeep [] := List.forall_mem_nil _

theorem MovesKeep.cons {m : M Unit} {ms} (hm : m.Keeps) (hs : MovesKeep ms) : MovesKeep (m :: ms) :=
  List.forall_mem_cons.mpr ⟨hm, hs⟩

theorem MovesKeep.append {ms ns} (hm : MovesKeep ms) (hn : MovesKeep ns) : MovesKeep (ms ++ ns) :=
  List.forall_mem_append.mpr ⟨hm, hn⟩

theorem MovesKeep.map {α : Type} {f : α → M Unit} (hf : ∀ a, (f a).Keeps) {xs : List α} : MovesKeep (xs.map f) :=
  List.forall_mem_map.mpr fun a _ => hf a

theorem MovesKeep.flatMap {α : Type} {f : α → List (M Unit)} (hf : ∀ a, MovesKeep (f a)) {xs : List α} :
    MovesKeep (xs.flatMap f) := fun _ hm => by
  obtain ⟨a, _, hm⟩ := List.mem_flatMap.mp hm
  exact hf a _ hm

theorem MovesKeep.queueMoves {q} : MovesKeep (queueMoves q) :=
  .cons .pollEvent <| .cons .missedStartEvent <| .cons .completionEvent <| .cons .bindEvent <|
  .cons (.startPacket fun _ _ _ h => h.startNop) <| .cons (.startPacket fun _ _ _ h => h.startLaunch) <|
  .cons (.startPacket fun _ _ _ h => h.startWait) <| .cons (.startPacket fun _ _ _ h => h.startLevel) <|
  .cons (.startPacket fun _ _ _ h => h.startHold) <| .cons (.startPacket fun _ _ _ h => h.startSignal) <|
  .cons .sliceEvent <| .cons .ageingEvent .nil

theorem MovesKeep.tenantMoves {t} : MovesKeep (tenantMoves t) :=
  .cons .ackEvent <| .cons (.moveIf fun _ h => h.writeFault) .nil

theorem MovesKeep.teamMoves {t} : MovesKeep (teamMoves t) :=
  .cons .recordEvent <| .cons .acquireEvent <| .cons .returnEvent <| .cons .returnEvent <| .cons .trapEntryEvent <|
  .cons .retireTimeoutEvent <| .cons .starveTimeoutEvent <| .cons .hangEvent <| .cons .swapInEvent .nil

theorem MovesKeep.coreMoves {c} : MovesKeep (coreMoves c) := by
  refine .append (.cons .drainEvent <| .cons (.moveIf fun _ h => h.ack.prunePubs) <| .cons .passEvent <|
    .cons .idleEvent <| .cons .swapOutEvent .nil) ?_
  split
  · exact .cons .outOfServiceEvent .nil
  · exact .nil

theorem MovesKeep.runMoves {c r} : MovesKeep (runMoves c r) :=
  .cons .condRetest <| .cons .completeEntry <| .cons .copyRun <| .cons .drainRun <|
  .cons (.entry fun _ _ _ => .pure) <| .cons (.entry fun _ _ _ => .copyEntry) <|
  .cons (.entry fun _ _ _ => .listEntry) <| .cons (.entry fun _ _ _ => .listEntry) <|
  .cons (.entry fun _ _ _ => .drainEntry) <| .cons (.entry fun _ _ _ => .solveEntry) <|
  .cons (.entry fun _ _ _ => .loopEntry) <| .cons (.entry fun _ _ _ => .condEntry) .nil

theorem MovesKeep.chanMoves {c} : MovesKeep (chanMoves c) :=
  .cons (.moveIf fun _ h => h.acceptRun) (.flatMap fun _ => .runMoves)

theorem MovesKeep.familyMoves {s} : MovesKeep (familyMoves s) := .map fun _ => .moveIf fun _ h => h.familyReturn

theorem MovesKeep.gangMoves {s g} : MovesKeep (gangMoves s g) := by
  unfold Machine.gangMoves
  split
  · exact .cons (.moveIf fun _ h => h.restore) .nil
  · exact .cons (.moveIf fun _ h => h.preempt) (.map fun _ => .groupTimeoutEvent)

theorem MovesKeep.moves {s : State} : MovesKeep s.moves := by
  unfold State.moves
  exact .cons .bringUpEvent <| .cons .startCoreEvent <| .cons .outOfBoundEvent <| .cons .timingEvent <|
    (MovesKeep.flatMap fun _ => .queueMoves)
    |>.append (.flatMap fun _ => .tenantMoves) |>.append (.map fun _ => .groupStartEvent)
    |>.append (.flatMap fun _ => .teamMoves) |>.append (.flatMap fun _ => .coreMoves)
    |>.append (.map fun _ => .applyEvent) |>.append (.flatMap fun _ => .chanMoves)
    |>.append (.map fun _ => .regroupEvent) |>.append (.cons .evictEvent <| .cons .admissionEvent .nil)
    |>.append (.map fun _ => .spareRow) |>.append (.map fun _ => .retireWay) |>.append (.map fun _ => .retireEngine)
    |>.append (.map fun _ => .logFullEvent) |>.append (.map fun _ => .groupBackEvent)
    |>.append (.flatMap fun _ => .gangMoves) |>.append .familyMoves |>.append (.map fun _ => .voteEvent)
    |>.append (.cons .placementEvent .nil) |>.append (.map fun _ => .resendEvent)
    |>.append (.flatMap fun _ => .map fun _ => .retireLane) |>.append (.map fun _ => .replaceKey)
    |>.append (.map fun _ => .clockGrantEvent)

/-- The move that `tryMoves` makes is one of its list. -/
theorem NextCanonical.of_tryMoves {s : State} (h : s.Canonical) {ms o} (hm : MovesKeep ms)
    (e : tryMoves s ms = some o) : NextCanonical o := by
  induction ms with
  | nil => cases e
  | cons m ms ih =>
    obtain ⟨hm, hms⟩ := List.forall_mem_cons.mp hm
    unfold tryMoves at e
    split at e
    next u hit =>
      cases e
      exact .next (hm.ok h hit)
    · cases e
      exact .fault
    · exact ih hms e

theorem NextCanonical.ownMove {s : State} (h : s.Canonical) : NextCanonical s.ownMove := by
  unfold State.ownMove
  split
  next o e => exact .of_tryMoves h .moves e
  · split
    · exact .next h
    · exact .event .issueTurnEvent h

/-- What a step does keeps the memories canonical. -/
theorem NextCanonical.act {s : State} (h : s.Canonical) : NextCanonical s.act := by
  have hown : NextCanonical (if s.cur.isSome then s.turn else s.ownMove) := by
    split
    · exact .turn h
    · exact .ownMove h
  unfold State.act
  split
  next e es _ => exact .of_exec (s := { s with agenda := es }) h.same e
  · split
    · exact hown
    next u us _ =>
      split
      · exact .next (State.Canonical.strike (s := { s with upsets := us }) h.same)
      · exact hown

/-! ## The copies of paired families -/

theorem State.Canonical.of_nextOf {o : Host.Outcome State Fault Refusal} (ho : NextCanonical o) {u : State}
    (e : nextOf o = some u) : u.Canonical := by
  cases o with
  | next v =>
    cases e
    exact ho _ rfl
  | fault f => cases e
  | refused r => cases e

theorem M.Keeps.chosenMove {s : State} {m} (e : s.chosenMove = some m) : m.Keeps := by
  unfold State.chosenMove at e
  split at e
  next m' hit =>
    cases e
    exact MovesKeep.moves _ (List.mem_of_find?_eq_some hit)
  · obtain ⟨c, _, rfl⟩ := Option.map_eq_some_iff.mp e
    exact .issueTurnEvent

/-- A copy's state after the move of a step. -/
theorem State.Canonical.alsoOn {s v : State} (h : v.Canonical) {u : State} (e : s.alsoOn v = some u) :
    u.Canonical := by
  unfold State.alsoOn at e
  extract_lets turnOrMove at e
  have hmove : ∀ u, turnOrMove v = some u → u.Canonical := by
    intro u e
    unfold turnOrMove at e
    split at e
    · exact .of_nextOf (.turn h) e
    · split at e
      · cases e
      next m chosen =>
        split at e
        next u' hit =>
          cases e
          exact (M.Keeps.chosenMove chosen).ok h hit
        · cases e
  clear_value turnOrMove
  split at e
  next i es _ => exact .of_nextOf (.of_exec (s := { v with agenda := es }) h.same i) e
  · split at e
    · exact hmove u e
    · cases e
    next x us _ _ =>
      split at e
      · cases e
        exact State.Canonical.strike (s := { v with upsets := us }) h.same
      · exact hmove u e

/-- A copy after a step has the scratchpad of the state it was entered into, or the one it had. -/
theorem State.Canonical.follow {s : State} (h : s.Canonical) {f got committed} {c : Copy}
    (hc : Memory.wf c.core.scratch = true) : Memory.wf (s.follow f got committed c).1.core.scratch = true := by
  unfold State.follow
  extract_lets c' v saved
  have hv : v.Canonical := h.enter hc
  split
  · exact hc
  · split
    · exact hc
    next w e =>
      have hw : w.Canonical := by
        split at e
        · cases e
          exact hv.saveFamily
        · exact hv.alsoOn e
      extract_lets own
      split
      next x inputs e =>
        have hx : x.Canonical := .of_fst e hw.takeInputs
        split
        · exact hc
        · exact hx.copyOf (third := c.third) (inputs := inputs)

theorem State.Canonical.shadowFamily {s u : State} (h : s.Canonical) (hu : u.Canonical) {f} :
    (s.shadowFamily u f).Canonical := by
  have hstart : ∀ c : Copy, Memory.wf c.core.scratch = true → ((u.beginEpoch c).addCopy c).Canonical :=
    fun c hc => (hu.beginEpoch hc).addCopy hc
  unfold State.shadowFamily
  extract_lets mine
  split
  · exact .ite (hstart _ hu.copyOf) hu
  next g _ =>
    split
    · exact .ite (hstart _ hu.copyOf) hu
    · split
      · exact hu
      · extract_lets digest faithful runs next v
        have hv : v.Canonical := by
          refine hu.withCopies fun c hc => ?_
          rcases List.mem_append.mp hc with hc | hc
          · exact hu.copies c (List.mem_of_mem_filter hc)
          · obtain ⟨r, hr, rfl⟩ := List.mem_map.mp hc
            obtain ⟨d, hd, rfl⟩ := List.mem_map.mp hr
            exact h.follow (hu.copies d (List.mem_of_mem_filter hd))
        clear_value v
        split
        · split
          next c found => exact hv.beginEpoch (hv.copies c (List.mem_of_find?_eq_some found))
          · exact hv
        · exact hv

theorem State.Canonical.shadowed {s u : State} (h : s.Canonical) (hu : u.Canonical) : (s.shadowed u).Canonical := by
  unfold State.shadowed
  extract_lets paired still
  refine .ite hu (.foldl _ _ ?_ fun _ _ hu => h.shadowFamily hu)
  exact hu.withCopies fun c hc => hu.copies c (List.mem_of_mem_filter hc)

/-- Settles O56: whatever a step does keeps every memory in canonical form, and so do the copies that follow it and the
tick. -/
theorem everyStepKeepsTheMemoriesCanonical : Obligations.EveryStepKeepsTheMemoriesCanonical := by
  unfold Obligations.EveryStepKeepsTheMemoriesCanonical
  intro s s' h e
  rw [step_eq] at e
  have hact : NextCanonical s.act := .act h
  split at e
  next u hu =>
    cases e
    exact (h.shadowed (hact u hu)).ticked
  · exact hact s' e

end Sys2Proof.Machine

/-!
What an access needs to be translated (R89, R94 to R96, R346, log 11): the checks before a walk, and what a cached
translation answers.
-/

namespace Sys2Proof.Machine

/-! ## Keys -/

theorem installed_memKey {dev pa : Nat} (h : pa < hbmBytes) : installed (memKey dev pa) = true := by
  unfold installed memKey
  unfold hbmBytes at h ⊢
  rw [decide_eq_true_eq]
  omega

theorem installed_keyUnder {tenant : BitVec 8} {key : Nat} : installed (keyUnder tenant key) = installed key := by
  unfold installed keyUnder
  congr 2
  omega

theorem installed_keyFor {s : State} {tenant acc key} : installed (s.keyFor tenant acc key) = installed key := by
  unfold State.keyFor
  dsimp only
  split
  · rfl
  · exact installed_keyUnder

theorem bareKey_memKey {dev pa : Nat} (hd : dev < 576) (h : pa < hbmBytes) : bareKey (memKey dev pa) = memKey dev pa := by
  unfold bareKey memKey
  unfold hbmBytes at h
  omega

theorem bareKey_keyUnder {tenant : BitVec 8} {key : Nat} : bareKey (keyUnder tenant key) = bareKey key := by
  unfold bareKey keyUnder
  omega

theorem bareKey_keyFor {s : State} {tenant acc key} : bareKey (s.keyFor tenant acc key) = bareKey key := by
  unfold State.keyFor
  dsimp only
  split
  · rfl
  · exact bareKey_keyUnder

/-- Only an address that an HBM holds has a key (log 11). -/
theorem physKey_of_lt {dev pa : Nat} (h : pa < hbmBytes) : physKey dev pa = .ok (memKey dev pa) :=
  if_neg (Nat.not_le.mpr h)

theorem installed_of_physKey {dev pa key : Nat} (h : physKey dev pa = .ok key) : installed key = true := by
  unfold physKey at h
  split at h
  · cases h
  next hp =>
    cases h
    exact installed_memKey (Nat.not_le.mp hp)

/-! ## The checks before a walk -/

theorem validAddr_iff {va : Word} : validAddr va = true ↔ va.extractLsb' 57 7 = 0 ∧ devOf va < 576 := by
  simp [validAddr]

theorem State.en_of_rootOn {s : State} {c dev root} (h : s.rootOn c dev = some root) : c.en = true := by
  cases he : c.en with
  | true => rfl
  | false => simp [State.rootOn, he] at h

/-- A walk that ends well ends at an address that an HBM holds. -/
theorem State.installed_of_walk {s : State} {c acc va root key} (h : (s.walk c acc va root).1 = .ok key) :
    installed key = true := by
  unfold State.walk at h
  dsimp only at h
  split at h
  · cases h
  · exact installed_of_physKey h

/-- The state after an access by a cached translation: a write sets the dirty bit of the leaf and of the translation. -/
def State.markedBy (s : State) (c : TrCtx) (acc : AccKind) (t : CachedTr) : State :=
  if accWrites acc && !t.dirty then
    match c.core with
    | none => s
    | some n => (s.markEntry t.leaf 0x40).modCore n fun r =>
        { r with tc := r.tc.map fun d => if d == t then { d with dirty := true } else d }
  else s

theorem State.markedBy_held {s : State} {c acc t} : (s.markedBy c acc t).held = s.held := by
  unfold State.markedBy State.markEntry State.backInvalidate
  split
  · split
    · rfl
    · dsimp only
      split <;> rfl
  · rfl

theorem State.markedBy_lostPages {s : State} {c acc t} : (s.markedBy c acc t).lostPages = s.lostPages := by
  unfold State.markedBy State.markEntry State.backInvalidate
  split
  · split
    · rfl
    · dsimp only
      split <;> rfl
  · rfl

theorem State.keyFor_markedBy {s : State} {c acc t} : (s.markedBy c acc t).keyFor = s.keyFor := by
  unfold State.keyFor State.holder
  rw [State.markedBy_held, State.markedBy_lostPages]

/-- Marking a leaf writes one byte, the leaf's first. -/
theorem State.read_markedBy {s : State} {c acc t} (h : s.Canonical) (k : Nat) :
    Memory.read (s.markedBy c acc t).mem k = Memory.read s.mem k ∨ k = t.leaf := by
  unfold State.markedBy
  split
  · split
    · exact .inl rfl
    · by_cases hk : k = t.leaf
      · exact .inr hk
      · left
        have hm : (s.backInvalidate (granule t.leaf)).mem = s.mem := by
          unfold State.backInvalidate
          split <;> rfl
        show Memory.read (Memory.write (s.backInvalidate (granule t.leaf)).mem t.leaf _) k = _
        rw [hm, Memory.read_write _ _ _ h.mem, if_neg hk]
  · exact .inl rfl

section
variable {s : State} {c : TrCtx} {acc : AccKind} {va : Word} {tr : CachedTr} (hv : validAddr va = true)
  (hr : s.reachable (devOf va) = true) (hroot : (s.rootOn c (devOf va)).isSome = true)
  (ht : (s.tenant c.tenant).created = true)
  (found : ((s.cachedOf c.core).find? fun r => r.covers c.tenant (devOf va) (localOf va)) = some tr)
include hv hr hroot ht found

/-- A cached translation refuses an access with the code of its check (R94). -/
theorem State.translate_refused {code : BitVec 9} (hp : permCheck tr.sys tr.rd tr.w acc c.sys = some code) :
    s.translate c acc va = (.error (.fault code (levelOfBits tr.bits)), s) := by
  obtain ⟨root, hroot⟩ := Option.isSome_iff_exists.mp hroot
  unfold State.translate
  simp only [hv, hr, hroot, ht, found, hp, Bool.not_true, Bool.false_eq_true, if_false]

/-- A cached translation serves an access that it permits, and marks its leaf for a write. -/
theorem State.translate_granted (hp : permCheck tr.sys tr.rd tr.w acc c.sys = none)
    (hpa : tr.pfn * 2 ^ 16 + (localOf va - tr.page) < hbmBytes) :
    s.translate c acc va = (.ok (s.keyFor c.tenant acc (memKey (devOf va) (tr.pfn * 2 ^ 16 + (localOf va - tr.page)))),
      s.markedBy c acc tr) := by
  obtain ⟨root, hroot⟩ := Option.isSome_iff_exists.mp hroot
  rw [← State.keyFor_markedBy (s := s) (c := c) (acc := acc) (t := tr)]
  unfold State.translate
  simp only [hv, hr, hroot, ht, found, hp, Bool.not_true, Bool.false_eq_true, if_false, physKey_of_lt hpa]
  rfl

end

/-- An access is translated only after the checks of R89, R346, R95 and R351, and to installed memory (log 11). -/
theorem State.checks_of_translate {s s' : State} {c : TrCtx} {acc : AccKind} {va : Word} {key : Nat}
    (h : s.translate c acc va = (.ok key, s')) : validAddr va = true ∧ s.reachable (devOf va) = true ∧
      (s.rootOn c (devOf va)).isSome = true ∧ (s.tenant c.tenant).created = true ∧ installed key = true := by
  unfold State.translate at h
  split at h
  · cases h
  next hv =>
    split at h
    · cases h
    next hr =>
      split at h
      · cases h
      next root hroot =>
        split at h
        · cases h
        next ht =>
          rw [hroot]
          refine ⟨by simpa using hv, by simpa using hr, rfl, by simpa using ht, ?_⟩
          dsimp only at h
          split at h
          next k hk =>
            cases h
            rw [installed_keyFor]
            split at hk
            · exact State.installed_of_walk hk
            · split at hk
              · cases hk
              · exact installed_of_physKey hk
          · cases h

/-! ## The permission check (R94) -/

theorem permCheck_system {page rd w acc sys} (hp : page = true) (hs : sys = false) :
    permCheck page rd w acc sys = some 0x0C4 := by
  simp [permCheck, hp, hs]

theorem permCheck_read {page rd w acc sys} (hp : ¬(page = true ∧ sys = false)) (ha : accReads acc = true)
    (hr : rd = false) : permCheck page rd w acc sys = some 0x0C2 := by
  simp_all [permCheck]

theorem permCheck_write {page rd w acc sys} (hp : ¬(page = true ∧ sys = false))
    (hr : accReads acc = true → rd = true) (ha : accWrites acc = true) (hw : w = false) :
    permCheck page rd w acc sys = some 0x0C3 := by
  cases hrd : accReads acc <;> simp_all [permCheck]

/-- Settles O25: the checks before a translation are the branches of `State.translate` that fail, and a cached
translation answers by its permission check. -/
theorem translationChecks : Obligations.TranslationChecks := by
  unfold Obligations.TranslationChecks
  intro s s' c acc va key
  refine ⟨fun h => ?_, fun tr hv hr hroot ht found => ?_⟩
  · obtain ⟨hv, hr, hroot, ht, hi⟩ := State.checks_of_translate h
    obtain ⟨hz, hd⟩ := validAddr_iff.mp hv
    obtain ⟨root, e⟩ := Option.isSome_iff_exists.mp hroot
    exact ⟨hz, hd, hr, State.en_of_rootOn e, hroot, ht, hi⟩
  · have refused {code : BitVec 9} (hp : permCheck tr.sys tr.rd tr.w acc c.sys = some code) :
        (s.translate c acc va).1 = .error (.fault code (levelOfBits tr.bits)) :=
      congrArg Prod.fst (State.translate_refused hv hr hroot ht found hp)
    refine ⟨fun hp hs => refused (permCheck_system hp hs), fun hp ha hrd => refused (permCheck_read hp ha hrd),
      fun hp hrd ha hw => refused (permCheck_write hp hrd ha hw), fun hp hpa => ?_⟩
    rw [State.translate_granted hv hr hroot ht found hp hpa]
    refine ⟨rfl, ?_, fun h k => State.read_markedBy h k⟩
    rw [bareKey_keyFor, bareKey_memKey (validAddr_iff.mp hv).2 hpa]

end Sys2Proof.Machine

/-!
A store from its log entry to its home (R103 to R109, R394): the bytes of a plain entry, what applying it does, what a
publication records, what sending and applying the publication of a log of one entry leaves, and what a load reads.
-/

namespace Sys2Proof.Machine

/-! ## Bytes of a granule -/

theorem natOfBytes_lt {xs : List Byte} : natOfBytes xs < 256 ^ xs.length := by
  induction xs with
  | nil => exact Nat.one_pos
  | cons x xs ih =>
    have hx : x.toNat < 256 := x.isLt
    rw [natOfBytes, List.length_cons, Nat.pow_succ]
    omega

/-- A number of n bytes reads as bytes again, with zeros above them. -/
theorem bytesOf_natOfBytes {xs : List Byte} {n : Nat} (h : xs.length ≤ n) :
    bytesOf n (natOfBytes xs) = xs ++ List.replicate (n - xs.length) 0 := by
  induction xs generalizing n with
  | nil =>
    rw [natOfBytes, List.nil_append, List.length_nil, Nat.sub_zero]
    clear h
    induction n with
    | zero => rfl
    | succ n ih =>
      rw [bytesOf, Nat.zero_div, ih, List.replicate_succ]
      rfl
  | cons x xs ih =>
    cases n with
    | zero => exact absurd h (Nat.not_succ_le_zero _)
    | succ n =>
      have hx : x.toNat < 256 := x.isLt
      have hb : BitVec.ofNat 8 (x.toNat + 256 * natOfBytes xs) = x := by
        apply BitVec.eq_of_toNat_eq
        rw [BitVec.toNat_ofNat]
        omega
      have hq : (x.toNat + 256 * natOfBytes xs) / 256 = natOfBytes xs := by omega
      rw [natOfBytes, bytesOf, hb, hq, ih (Nat.le_of_succ_le_succ h), List.cons_append, List.length_cons,
        Nat.succ_sub_succ]

theorem getLsbD_byteMask {k n j : Nat} :
    (byteMask k n).getLsbD j = (decide (j < 32) && (decide (k ≤ j) && decide (j < k + n))) := by
  unfold byteMask
  rw [BitVec.getLsbD_ofNat, Nat.testBit_mul_two_pow, Nat.testBit_two_pow_sub_one]
  by_cases h : k ≤ j
  · simp only [h, decide_true, Bool.true_and]
    congr 2
    exact propext (by omega)
  · simp [h]

section
variable {key : Nat} {bs : List Byte} {bad : Bool}

theorem LogEntry.granKey_plainAt (hk : key / 2 ^ 47 < 1024) : (LogEntry.plainAt key bs bad).granKey = granule key := by
  have hd : (BitVec.ofNat 10 (granule key / 2 ^ 47)).toNat = granule key / 2 ^ 47 := by
    rw [BitVec.toNat_ofNat]
    unfold granule
    omega
  have hg : (BitVec.ofNat 42 (granule key % 2 ^ 47 / 32)).toNat = granule key % 2 ^ 47 / 32 := by
    rw [BitVec.toNat_ofNat]
    omega
  show memKey (BitVec.ofNat 10 (granule key / 2 ^ 47)).toNat
    ((BitVec.ofNat 42 (granule key % 2 ^ 47 / 32)).toNat * 32) = _
  rw [hd, hg]
  unfold memKey granule
  omega

/-- The bytes of a store's entry are those stored, at their place in the granule. -/
theorem LogEntry.bytes_plainAt (hn : key % 32 + bs.length ≤ 32) : (LogEntry.plainAt key bs bad).bytes =
    (List.replicate (key % 32) 0 ++ bs) ++ List.replicate (32 - (key % 32 + bs.length)) 0 := by
  have hl : (List.replicate (key % 32) (0 : Byte) ++ bs).length = key % 32 + bs.length := by simp
  have hlt : natOfBytes (List.replicate (key % 32) 0 ++ bs) < 2 ^ 256 := by
    refine Nat.lt_of_lt_of_le natOfBytes_lt ?_
    rw [hl, show (2 : Nat) ^ 256 = 256 ^ 32 from by decide +kernel]
    exact Nat.pow_le_pow_right (by omega) hn
  show bytesOf 32 (BitVec.ofNat 256 (natOfBytes (List.replicate (key % 32) 0 ++ bs))).toNat = _
  rw [BitVec.toNat_ofNat, Nat.mod_eq_of_lt hlt, bytesOf_natOfBytes (hl ▸ hn), hl]

theorem LogEntry.getD_bytes_plainAt (hn : key % 32 + bs.length ≤ 32) {i : Nat} (hi : i < bs.length) :
    (LogEntry.plainAt key bs bad).bytes.getD (key % 32 + i) 0 = bs[i] := by
  rw [LogEntry.bytes_plainAt hn, List.getD_eq_getElem?_getD, List.getElem?_append_left (by simp; omega),
    List.getElem?_append_right (by simp)]
  simp [hi]

end

/-- The write of the bytes that a mask selects in a granule is the write of those bytes at their key. -/
theorem foldl_write_zipIdx {m : Memory} {g k : Nat} {bs : List Byte} :
    (bs.zipIdx k).foldl (fun m p => Memory.write m (g + p.2) p.1) m = Memory.writeBytes m (g + k) bs := by
  induction bs generalizing m k with
  | nil => rfl
  | cons b bs ih => exact ih

/-- What the mask of a run of bytes selects among the bytes of a granule. -/
theorem filter_byteMask {k n : Nat} {pre bs post : List Byte} (hp : pre.length = k) (hb : bs.length = n)
    (hn : k + n ≤ 32) :
    ((pre ++ bs ++ post).zipIdx 0).filter (fun p => (byteMask k n).getLsbD p.2) = bs.zipIdx k := by
  have hpre : (pre.zipIdx 0).filter (fun p => (byteMask k n).getLsbD p.2) = [] := by
    refine List.filter_eq_nil_iff.mpr fun p hm => ?_
    have := List.mem_zipIdx hm
    rw [getLsbD_byteMask]
    simp
    omega
  have hmid : (bs.zipIdx k).filter (fun p => (byteMask k n).getLsbD p.2) = bs.zipIdx k := by
    refine List.filter_eq_self.mpr fun p hm => ?_
    have := List.mem_zipIdx hm
    rw [getLsbD_byteMask]
    simp
    omega
  have hpost : (post.zipIdx (k + n)).filter (fun p => (byteMask k n).getLsbD p.2) = [] := by
    refine List.filter_eq_nil_iff.mpr fun p hm => ?_
    have := List.mem_zipIdx hm
    rw [getLsbD_byteMask]
    simp
    omega
  rw [List.zipIdx_append, List.zipIdx_append, List.filter_append, List.filter_append, hpre, List.length_append, hp, hb,
    Nat.zero_add, Nat.zero_add, hmid, hpost, List.nil_append, List.append_nil]

/-! ## What a load reads -/

/-- The entries of a log that a load of some bytes may read. -/
def loadLog (log : List LogEntry) (k n : Nat) : List LogEntry :=
  log.filter fun e => e.kind == .plain && e.undrained && (granulesOf k n).contains e.granKey

/-- One byte of a load: from the youngest entry of the log that covers it, or else from its home. -/
def loadByte (log : List LogEntry) (home : List Byte × Bool × State) (k i : Nat) : Byte × Bool :=
  (youngest log (k + i)).elim (home.1.getD i 0, home.2.1 && home.2.2.poisoned (granule (k + i))) fun e =>
    (e.bytes.getD ((k + i) % 32) 0, e.poison)

theorem loadByte_eq_match {log : List LogEntry} {home : List Byte × Bool × State} {k i : Nat} :
    loadByte log home k i = match youngest log (k + i) with
      | some e => (e.bytes.getD ((k + i) % 32) 0, e.poison)
      | none => (home.1.getD i 0, home.2.1 && home.2.2.poisoned (granule (k + i))) := by
  unfold loadByte
  cases youngest log (k + i) <;> rfl

/-- The bytes of a load once what is visible to its core is applied, each with whether it is poisoned. -/
def State.loadBytes (s : State) (core key n : Nat) : List (Byte × Bool) :=
  (List.range n).map
    (loadByte (loadLog (s.core core).log (bareKey key) n) (s.homeRead key n) (bareKey key))

section
variable {s s' : State} {core key n : Nat}

theorem State.coreRead_eq (hs : s.showLoad core (granulesOf (bareKey key) n) = s') :
    s.coreRead core key n = ((s'.loadBytes core key n).map Prod.fst, (s'.loadBytes core key n).any Prod.snd,
      (s'.homeRead key n).2.2) := by
  subst hs
  have hb : (s.showLoad core (granulesOf (bareKey key) n)).loadBytes core key n = _ :=
    List.map_congr_left fun i _ => loadByte_eq_match
  rw [hb]
  rfl

/-- The bytes of a load are those of the entries, where the core's log covers each. -/
theorem State.coreRead_of_youngest (hs : s.showLoad core (granulesOf (bareKey key) n) = s') {e : LogEntry}
    (h : ∀ i < n, youngest (loadLog (s'.core core).log (bareKey key) n) (bareKey key + i) = some e) (hn : 0 < n) :
    (s.coreRead core key n).1 = (List.range n).map (fun i => e.bytes.getD ((bareKey key + i) % 32) 0) ∧
      (s.coreRead core key n).2.1 = e.poison := by
  have hb : s'.loadBytes core key n =
      (List.range n).map fun i => (e.bytes.getD ((bareKey key + i) % 32) 0, e.poison) := by
    refine List.map_congr_left fun i hi => ?_
    unfold loadByte
    rw [h i (List.mem_range.mp hi)]
    rfl
  rw [State.coreRead_eq hs, hb, List.map_map]
  refine ⟨rfl, ?_⟩
  rw [Bool.eq_iff_iff, List.any_map, List.any_eq_true]
  exact ⟨fun ⟨_, _, hp⟩ => hp, fun hp => ⟨0, List.mem_range.mpr hn, hp⟩⟩

/-- The bytes of a load, each from the youngest entry of the core's log that covers it, or else from its home. -/
theorem State.coreRead_fst (hs : s.showLoad core (granulesOf (bareKey key) n) = s') :
    (s.coreRead core key n).1 = (List.range n).map fun i =>
      (youngest (loadLog (s'.core core).log (bareKey key) n) (bareKey key + i)).elim ((s'.homeRead key n).1.getD i 0)
        fun e => e.bytes.getD ((bareKey key + i) % 32) 0 := by
  rw [State.coreRead_eq hs]
  refine List.map_map.trans (List.map_congr_left fun i _ => ?_)
  unfold Function.comp loadByte
  cases youngest (loadLog (s'.core core).log (bareKey key) n) (bareKey key + i) <;> rfl

end

theorem State.behindIn_eq_false {s : State} {n : Nat} {grans : List Nat} {sel : Nat → LogEntry → Bool}
    (h : ∀ c ∈ s.cores, ∀ e ∈ c.log, e.under = none) : s.behindIn n grans sel = false := by
  refine List.any_eq_false.mpr fun c hc => ?_
  rw [Bool.not_eq_true]
  refine List.any_eq_false.mpr fun e he => ?_
  rw [h c hc e he]
  exact Bool.false_ne_true

theorem State.showLoad_eq_self {s : State} {core : Nat} {grans : List Nat}
    (h : ∀ c ∈ s.cores, ∀ e ∈ c.log, e.under = none) : s.showLoad core grans = s := by
  unfold State.showLoad
  exact if_neg (by rw [State.behindIn_eq_false h]; exact Bool.false_ne_true)

/-! ## An appended entry -/

/-- Spilling keeps an entry's state. -/
theorem under_of_mem_spillOldest {n : Nat} {es : List LogEntry} (h : ∀ e ∈ es, e.under = none) :
    ∀ e ∈ spillOldest n es, e.under = none := by
  induction es generalizing n with
  | nil => cases n <;> exact h
  | cons x xs ih =>
    have hx : x.under = none := h x List.mem_cons_self
    have hxs : ∀ e ∈ xs, e.under = none := fun e he => h e (List.mem_cons_of_mem x he)
    cases n with
    | zero => exact h
    | succ n =>
      unfold spillOldest
      split
      · exact List.forall_mem_cons.mpr ⟨hx, ih hxs⟩
      · exact List.forall_mem_cons.mpr ⟨hx, ih hxs⟩

/-- Spilling marks entries where they stand: the last one stays the last one. -/
theorem spillOldest_append_singleton {n : Nat} {es : List LogEntry} {e : LogEntry} :
    ∃ es' b, spillOldest n (es ++ [e]) = es' ++ [{ e with spilled := b }] := by
  induction es generalizing n with
  | nil =>
    cases n with
    | zero => exact ⟨[], e.spilled, rfl⟩
    | succ n =>
      show ∃ es' b, (if e.unpublished && !e.spilled then { e with spilled := true } :: spillOldest n []
        else e :: spillOldest (n + 1) []) = es' ++ [{ e with spilled := b }]
      split
      · exact ⟨[], true, by cases n <;> rfl⟩
      · exact ⟨[], e.spilled, rfl⟩
  | cons x xs ih =>
    cases n with
    | zero => exact ⟨x :: xs, e.spilled, rfl⟩
    | succ n =>
      show ∃ es' b, (if x.unpublished && !x.spilled then { x with spilled := true } :: spillOldest n (xs ++ [e])
        else x :: spillOldest (n + 1) (xs ++ [e])) = es' ++ [{ e with spilled := b }]
      split
      · obtain ⟨es', b, h⟩ := ih (n := n)
        exact ⟨{ x with spilled := true } :: es', b, by rw [h]; rfl⟩
      · obtain ⟨es', b, h⟩ := ih (n := n + 1)
        exact ⟨x :: es', b, by rw [h]; rfl⟩

theorem spillOldest_zero (es : List LogEntry) : spillOldest 0 es = es := by
  cases es <;> rfl

/-- Spilling changes a core's log alone. -/
theorem Core.spill_eq (c : Core) : ∃ n, c.spill = { c with log := spillOldest n c.log } := by
  have h : ∀ n, ∃ k, (if n = 0 then c else { c with log := spillOldest n c.log }) =
      { c with log := spillOldest k c.log } := by
    intro n
    refine ⟨n, ?_⟩
    split
    · subst n
      rw [spillOldest_zero]
    · rfl
  exact h (min (c.ringCount - spillAbove) (spillEntries - c.spillCount))

theorem Core.spill_n (c : Core) : c.spill.n = c.n := by
  obtain ⟨n, h⟩ := c.spill_eq
  rw [h]

theorem Core.under_of_mem_log_spill {c : Core} (h : ∀ e ∈ c.log, e.under = none) :
    ∀ e ∈ c.spill.log, e.under = none := by
  obtain ⟨n, hs⟩ := c.spill_eq
  rw [hs]
  exact under_of_mem_spillOldest h

theorem Core.log_spill_of_append {c : Core} {es : List LogEntry} {e : LogEntry} (h : c.log = es ++ [e]) :
    ∃ es' b, c.spill.log = es' ++ [{ e with spilled := b }] := by
  obtain ⟨n, hs⟩ := c.spill_eq
  rw [hs, h]
  exact spillOldest_append_singleton

/-- A core after an entry was appended, before it spills. -/
def Core.withEntry (c : Core) (e : LogEntry) : Core :=
  { c with log := c.log ++ [{ e with lsn := c.lsn, state := .logged, spilled := false }], lsn := c.lsn + 1 }

theorem State.appendEntry_eq (s : State) (core : Nat) (e : LogEntry) :
    s.appendEntry core e = s.putCore ((s.core core).withEntry e).spill := rfl

theorem State.n_spill_withEntry (s : State) (core : Nat) (e : LogEntry) : ((s.core core).withEntry e).spill.n = core :=
  (Core.spill_n _).trans (State.core_n s core)

section
variable (s : State) (core : Nat) (e : LogEntry)

/-- The appended entry is the last of its core's log. -/
theorem State.log_appendEntry :
    ∃ es b, ((s.appendEntry core e).core core).log =
      es ++ [{ e with lsn := (s.core core).lsn, state := .logged, spilled := b }] := by
  have hc : (s.appendEntry core e).core core = ((s.core core).withEntry e).spill := by
    have h := State.core_putCore s ((s.core core).withEntry e).spill
    rwa [State.n_spill_withEntry] at h
  obtain ⟨es, b, h⟩ := Core.log_spill_of_append (c := (s.core core).withEntry e) (es := (s.core core).log) rfl
  exact ⟨es, b, by rw [hc, h]⟩

theorem State.core_appendEntry_ne {k : Nat} (h : k ≠ core) : (s.appendEntry core e).core k = s.core k := by
  rw [State.appendEntry_eq]
  refine State.core_putCore_ne s _ k ?_
  rwa [State.n_spill_withEntry]

end

/-- The log of a core that nothing has touched is empty. -/
theorem State.under_of_mem_log {s : State} (h : ∀ c ∈ s.cores, ∀ e ∈ c.log, e.under = none) (n : Nat) :
    ∀ e ∈ (s.core n).log, e.under = none := by
  unfold State.core
  cases hf : s.cores.find? fun c => c.n == n with
  | none => exact fun e he => absurd he List.not_mem_nil
  | some c => exact h c (List.mem_of_find?_eq_some hf)

theorem State.mem_cores_putCore {s : State} {c d : Core} (h : d ∈ (s.putCore c).cores) : d = c ∨ d ∈ s.cores :=
  mem_putCoreIn h

/-- An appended entry is not published. -/
theorem State.under_of_mem_appendEntry {s : State} (h : ∀ c ∈ s.cores, ∀ e ∈ c.log, e.under = none) (core : Nat)
    (e : LogEntry) : ∀ c ∈ (s.appendEntry core e).cores, ∀ x ∈ c.log, x.under = none := by
  intro c hc
  rw [State.appendEntry_eq] at hc
  obtain hc | hc := State.mem_cores_putCore hc
  · rw [hc]
    refine Core.under_of_mem_log_spill fun x hx => ?_
    obtain hx | hx := List.mem_append.mp hx
    · exact State.under_of_mem_log h core x hx
    · rw [List.mem_singleton.mp hx]
      rfl
  · exact h c hc

/-! ## A load of the bytes of an appended entry -/

theorem bareKey_of_device {key : Nat} (h : key / 2 ^ 47 < 1024) : bareKey key = key := by
  unfold bareKey
  omega

theorem tenantOfKey_of_device {key : Nat} (h : key / 2 ^ 47 < 1024) : tenantOfKey key = none := by
  unfold tenantOfKey
  exact if_pos (by omega)

theorem granule_add {key n i : Nat} (hn : key % 32 + n ≤ 32) (hi : i < n) : granule (key + i) = granule key := by
  unfold granule
  omega

/-- The bytes of one granule touch that granule alone. -/
theorem granulesOf_of_le {key n : Nat} (h0 : 0 < n) (hn : key % 32 + n ≤ 32) : granulesOf key n = [granule key] := by
  unfold granulesOf
  rw [if_neg (by omega), show (key + n - 1) / 32 - key / 32 + 1 = 1 by omega]
  rfl

/-- A load finds the entry of a store that is the last of its log. -/
theorem youngest_loadLog {es : List LogEntry} {e : LogEntry} {key n i : Nat} (hk : e.kind = .plain)
    (hu : e.undrained = true) (hg : e.granKey = granule key) (hm : e.mask = byteMask (key % 32) n)
    (hn : key % 32 + n ≤ 32) (hi : i < n) : youngest (loadLog (es ++ [e]) key n) (key + i) = some e := by
  have hl : loadLog (es ++ [e]) key n = loadLog es key n ++ [e] := by
    unfold loadLog
    rw [List.filter_append]
    congr 1
    refine List.filter_eq_self.mpr fun x hx => ?_
    rw [List.mem_singleton.mp hx, hk, hu, hg, granulesOf_of_le (by omega) hn]
    simp
  have hb : e.mask.getLsbD ((key + i) % 32) = true := by
    rw [hm, getLsbD_byteMask]
    simp
    omega
  unfold youngest
  rw [hl, List.reverse_append]
  refine List.find?_cons_of_pos ?_
  rw [hk, hu, hg, granule_add hn hi, hb]
  simp

/-- The bytes of a store's entry, each as a load takes it. -/
theorem map_getD_bytes_plainAt {key : Nat} {bs : List Byte} {bad : Bool} (hn : key % 32 + bs.length ≤ 32) :
    (List.range bs.length).map (fun i => (LogEntry.plainAt key bs bad).bytes.getD ((key + i) % 32) 0) = bs := by
  refine List.ext_getElem (by simp) fun i h1 h2 => ?_
  rw [List.getElem_map, List.getElem_range, show (key + i) % 32 = key % 32 + i by omega,
    LogEntry.getD_bytes_plainAt hn h2]

/-! ## Reads at home do not depend on the cores -/

section
variable {s : State} {g : Nat}

theorem State.settle_of_filter_nil (h : (s.staged.filter fun e => granule e.addr == g) = []) : s.settle g = s := by
  unfold State.settle
  rw [h]

/-- A staged reduction applied at its home. -/
def State.applyStaged (s : State) (e : Staged) : State := s.applyReduce e.addr e.op e.fmt e.value e.poison

theorem State.settle_of_filter_ne_nil (h : (s.staged.filter fun e => granule e.addr == g) ≠ []) :
    s.settle g = (sortBy stagedBefore (s.staged.filter fun e => granule e.addr == g)).foldl State.applyStaged
      { s with staged := s.staged.filter fun e => granule e.addr != g } := by
  unfold State.settle
  split
  next h' => exact absurd h' h
  next => rfl

end

section
variable (s : State) (cs : List Core)

theorem State.backInvalidate_cores (g : Nat) :
    ({ s with cores := cs } : State).backInvalidate g = { s.backInvalidate g with cores := cs } := by
  unfold State.backInvalidate
  split <;> rfl

theorem State.applyStaged_cores (e : Staged) :
    ({ s with cores := cs } : State).applyStaged e = { s.applyStaged e with cores := cs } := by
  unfold State.applyStaged State.applyReduce
  rw [State.backInvalidate_cores]
  split <;> rfl

theorem State.settle_cores (g : Nat) : ({ s with cores := cs } : State).settle g = { s.settle g with cores := cs } := by
  by_cases h : (s.staged.filter fun e => granule e.addr == g) = []
  · rw [State.settle_of_filter_nil h]
    exact State.settle_of_filter_nil h
  · rw [State.settle_of_filter_ne_nil h]
    refine (State.settle_of_filter_ne_nil (s := { s with cores := cs }) h).trans ?_
    exact List.foldl_hom (g₁ := State.applyStaged) (g₂ := State.applyStaged)
      (init := { s with staged := s.staged.filter fun e => granule e.addr != g })
      (fun u : State => ({ u with cores := cs } : State)) fun u e => State.applyStaged_cores u cs e

theorem State.settleAll_cores (gs : List Nat) :
    ({ s with cores := cs } : State).settleAll gs = { s.settleAll gs with cores := cs } :=
  List.foldl_hom (fun u : State => ({ u with cores := cs } : State)) fun u g => State.settle_cores u cs g

theorem State.homeRead_fst {s' : State} {key n : Nat} (hs : s.settleAll (granulesOf (bareKey key) n) = s') :
    (s.homeRead key n).1 = if (granulesOf (bareKey key) n).all fun g => (s'.holder g).opens (tenantOfKey key) then
      Memory.readBytes s'.mem (bareKey key) n else (s'.freeBytes n).1 := by
  subst hs
  exact apply_ite Prod.fst _ _ _

/-- What a read at home brings depends on no core. -/
theorem State.homeRead_fst_cores (key n : Nat) :
    (({ s with cores := cs } : State).homeRead key n).1 = (s.homeRead key n).1 :=
  (State.homeRead_fst _ (State.settleAll_cores s cs _)).trans (State.homeRead_fst s rfl).symm

end

/-! ## A plain entry at its home -/

section
variable {s : State} {t : BitVec 8} {g : Nat}

theorem State.settle_of_staged_nil (h : s.staged = []) (g : Nat) : s.settle g = s :=
  State.settle_of_filter_nil (by rw [h]; rfl)

theorem State.settleAll_of_staged_nil (h : s.staged = []) (gs : List Nat) : s.settleAll gs = s := by
  induction gs with
  | nil => rfl
  | cons g gs ih =>
    show (s.settle g).settleAll gs = s
    rw [State.settle_of_staged_nil h, ih]

/-- A read at home of bytes that its key opens, where nothing is staged. -/
theorem State.homeRead_fst_of_opens (h : s.staged = []) {key n : Nat}
    (ho : ∀ g ∈ granulesOf (bareKey key) n, (s.holder g).opens (tenantOfKey key) = true) :
    (s.homeRead key n).1 = Memory.readBytes s.mem (bareKey key) n := by
  rw [State.homeRead_fst s (State.settleAll_of_staged_nil h _), if_pos (List.all_eq_true.mpr ho)]

theorem find?_setHeld (g : Nat) (h : Holder) (hs : List (Nat × Holder)) :
    (setHeld g h hs).find? (fun x => x.1 == g) = some (g, h) := by
  induction hs with
  | nil => exact List.find?_cons_of_pos (beq_self_eq_true g)
  | cons x xs ih =>
    unfold setHeld
    split
    next hx => rw [List.find?_cons_of_neg (by simp; omega), ih]
    next =>
      split
      · exact List.find?_cons_of_pos (beq_self_eq_true g)
      · exact List.find?_cons_of_pos (beq_self_eq_true g)

theorem State.holder_of_find? {h : Holder} (hf : s.held.find? (fun x => x.1 == g) = some (g, h)) : s.holder g = h := by
  unfold State.holder
  rw [hf]

/-- Who holds a granule is read from the holders and the lost pages. -/
theorem State.holder_congr {s' : State} (hh : s'.held = s.held) (hl : s'.lostPages = s.lostPages) (g : Nat) :
    s'.holder g = s.holder g := by
  unfold State.holder
  rw [hh, hl]

/-- What is left of a granule that a tenant takes over: free values where its key does not open what is there. -/
def State.scrambled (s : State) (t : BitVec 8) (g : Nat) : State :=
  if (s.holder g).opens (some t) then s
  else { (s.freeBytes 32).2 with mem := Memory.writeBytes (s.freeBytes 32).2.mem g (s.freeBytes 32).1 }

theorem State.scrambled_eq (s : State) (t : BitVec 8) (g : Nat) :
    ∃ m f, s.scrambled t g = { s with mem := m, free := f } ∧ ((s.holder g).opens (some t) = true → m = s.mem) := by
  unfold State.scrambled
  split
  next h => exact ⟨s.mem, s.free, rfl, fun _ => rfl⟩
  next h => exact ⟨_, _, rfl, fun h' => absurd h' h⟩

theorem State.takeOver_some (s : State) (t : BitVec 8) (g : Nat) :
    s.takeOver (some t) g = if s.holder g == .tenant t then s.scrambled t g
      else { s.scrambled t g with held := setHeld g (.tenant t) (s.scrambled t g).held } := rfl

/-- Taking a granule over changes memory, the free values drawn, and who holds the granule; memory only where the key
does not open it. -/
theorem State.takeOver_eq (s : State) (t : BitVec 8) (g : Nat) :
    ∃ m f h, s.takeOver (some t) g = { s with mem := m, free := f, held := h } ∧
      ((s.holder g).opens (some t) = true → m = s.mem) := by
  obtain ⟨m, f, hu, hm⟩ := State.scrambled_eq s t g
  rw [State.takeOver_some, hu]
  split
  · exact ⟨m, f, s.held, rfl, hm⟩
  · exact ⟨m, f, _, rfl, hm⟩

theorem State.lostPages_takeOver (s : State) (t : BitVec 8) (g : Nat) :
    (s.takeOver (some t) g).lostPages = s.lostPages := by
  obtain ⟨m, f, h, hu, -⟩ := State.takeOver_eq s t g
  rw [hu]

/-- A granule that a tenant took over is held by that tenant's key. -/
theorem State.holder_takeOver (s : State) (t : BitVec 8) (g : Nat) : (s.takeOver (some t) g).holder g = .tenant t := by
  rw [State.takeOver_some]
  split
  next h =>
    obtain ⟨m, f, hu, -⟩ := State.scrambled_eq s t g
    rw [hu]
    exact (State.holder_congr (s := s) rfl rfl g).trans (beq_iff_eq.mp h)
  next h => exact State.holder_of_find? (find?_setHeld g _ _)

/-- A write to a granule where nothing is staged. -/
theorem State.granWrite_eq (hs : s.staged = []) (g : Nat) (data : List Byte) (mask : BitVec 32) (p : Bool) :
    ∃ hc bi ps, s.granWrite g data mask p =
      { s with
        mem := ((data.zipIdx 0).filter fun p => mask.getLsbD p.2).foldl (fun m p => Memory.write m (g + p.2) p.1) s.mem
        poison := ps, hostCached := hc, backInvalidates := bi } ∧ (p = true → ps = insertNat g s.poison) := by
  have hb : ∃ hc bi, s.backInvalidate g = { s with hostCached := hc, backInvalidates := bi } := by
    unfold State.backInvalidate
    split
    · exact ⟨_, _, rfl⟩
    · exact ⟨s.hostCached, s.backInvalidates, rfl⟩
  obtain ⟨hc, bi, hb⟩ := hb
  unfold State.granWrite
  rw [State.settle_of_staged_nil hs, hb]
  cases p with
  | true => exact ⟨hc, bi, insertNat g s.poison, rfl, fun _ => rfl⟩
  | false =>
    by_cases hm : mask == 0xFFFFFFFF
    · exact ⟨hc, bi, s.poison.filter fun x => x != g, by rw [hm]; rfl, fun h => absurd h Bool.false_ne_true⟩
    · exact ⟨hc, bi, s.poison, by rw [Bool.not_eq_true] at hm; rw [hm]; rfl, fun h => absurd h Bool.false_ne_true⟩

/-- A plain entry of a tenant with a key takes its granule over and writes to it. -/
theorem State.applyEntry_plain {e : LogEntry} (hk : e.kind = .plain) (hc : (s.tenant e.tenant).created = true) :
    s.applyEntry e = (s.takeOver (some e.tenant) e.granKey).granWrite e.granKey e.bytes e.mask e.poison := by
  have hg : e.grans = [e.granKey] := by
    unfold LogEntry.grans
    rw [hk]
  unfold State.applyEntry
  rw [hc, hg, hk]
  rfl

/-- What a plain entry of a tenant with a key changes at its home, where nothing is staged. -/
theorem State.applyEntry_plain_eq {e : LogEntry} (hk : e.kind = .plain) (hc : (s.tenant e.tenant).created = true)
    (hs : s.staged = []) :
    ∃ m f h hc bi ps, s.applyEntry e =
        { s with
          mem := ((e.bytes.zipIdx 0).filter fun p => e.mask.getLsbD p.2).foldl
            (fun m p => Memory.write m (e.granKey + p.2) p.1) m
          free := f, held := h, poison := ps, hostCached := hc, backInvalidates := bi } ∧
      ((s.holder e.granKey).opens (some e.tenant) = true → m = s.mem) ∧
      (s.applyEntry e).holder e.granKey = .tenant e.tenant ∧ (e.poison = true → ps = insertNat e.granKey s.poison) := by
  obtain ⟨m, f, h, ht, hm⟩ := State.takeOver_eq s e.tenant e.granKey
  have hh := State.holder_takeOver s e.tenant e.granKey
  rw [State.applyEntry_plain hk hc]
  rw [ht] at hh ⊢
  obtain ⟨hc', bi, ps, hw, hp⟩ :=
    State.granWrite_eq (s := { s with mem := m, free := f, held := h }) hs e.granKey e.bytes e.mask e.poison
  rw [hw]
  exact ⟨m, f, h, hc', bi, ps, rfl, hm, (State.holder_congr rfl rfl _).trans hh, hp⟩

theorem State.applyEntry_of_not_created {e : LogEntry} (hc : (s.tenant e.tenant).created = false) :
    s.applyEntry e = { s with discarded := s.discarded + 1 } := by
  unfold State.applyEntry
  rw [hc]
  rfl

theorem mem_insertNat (x : Nat) (xs : List Nat) : x ∈ insertNat x xs := by
  induction xs with
  | nil => exact List.mem_singleton_self x
  | cons y ys ih =>
    unfold insertNat
    split
    · exact List.mem_cons_of_mem y ih
    · split
      next h => exact h ▸ List.mem_cons_self
      next => exact List.mem_cons_self

end

/-- What a store's bytes write at their home. -/
theorem foldl_write_plainAt {m : Memory} {key : Nat} {bs : List Byte} {bad : Bool} (hn : key % 32 + bs.length ≤ 32) :
    (((LogEntry.plainAt key bs bad).bytes.zipIdx 0).filter fun p =>
      (LogEntry.plainAt key bs bad).mask.getLsbD p.2).foldl (fun m p => Memory.write m (granule key + p.2) p.1) m =
        Memory.writeBytes m key bs := by
  have hm : (LogEntry.plainAt key bs bad).mask = byteMask (key % 32) bs.length := rfl
  rw [LogEntry.bytes_plainAt hn, hm, filter_byteMask List.length_replicate rfl hn, foldl_write_zipIdx,
    show granule key + key % 32 = key by unfold granule; omega]

/-! ## The parts of O22 -/

section
variable {s : State} {core key : Nat} {bs : List Byte} {bad : Bool} {tenant : BitVec 8}

/-- The entry of a store of a tenant. -/
def storeEntry (key : Nat) (bs : List Byte) (bad : Bool) (tenant : BitVec 8) : LogEntry :=
  { LogEntry.plainAt key bs bad with tenant := tenant }

/-- R105: a core's load of the bytes it has just stored reads them, and their poison. -/
theorem State.coreRead_appendEntry (h0 : 0 < bs.length) (hn : key % 32 + bs.length ≤ 32) (hk : key / 2 ^ 47 < 1024)
    (hu : ∀ c ∈ s.cores, ∀ e ∈ c.log, e.under = none) :
    ((s.appendEntry core (storeEntry key bs bad tenant)).coreRead core key bs.length).1 = bs ∧
      ((s.appendEntry core (storeEntry key bs bad tenant)).coreRead core key bs.length).2.1 = bad := by
  have hb := bareKey_of_device hk
  obtain ⟨es, b, hlog⟩ := State.log_appendEntry s core (storeEntry key bs bad tenant)
  have hy := State.coreRead_of_youngest (core := core) (key := key) (n := bs.length)
    (State.showLoad_eq_self (State.under_of_mem_appendEntry hu core (storeEntry key bs bad tenant)))
    (fun i hi => by
      rw [hlog, hb]
      exact youngest_loadLog rfl rfl (LogEntry.granKey_plainAt (bs := bs) (bad := bad) hk) rfl hn hi) h0
  rw [hb] at hy
  exact ⟨hy.1.trans (map_getD_bytes_plainAt (bad := bad) hn), hy.2⟩

/-- R105: no other core sees the entry. -/
theorem State.coreRead_appendEntry_ne (hu : ∀ c ∈ s.cores, ∀ e ∈ c.log, e.under = none) (e : LogEntry) {other : Nat}
    (ho : other ≠ core) (k n : Nat) : ((s.appendEntry core e).coreRead other k n).1 = (s.coreRead other k n).1 := by
  have hh : ((s.appendEntry core e).homeRead k n).1 = (s.homeRead k n).1 := State.homeRead_fst_cores s _ k n
  rw [State.coreRead_fst (State.showLoad_eq_self (State.under_of_mem_appendEntry hu core e)),
    State.coreRead_fst (State.showLoad_eq_self hu), State.core_appendEntry_ne s core e ho, hh]

/-- R109, R114 and R115: what applying a store's entry does. -/
theorem State.applyEntry_storeEntry (hn : key % 32 + bs.length ≤ 32) (hk : key / 2 ^ 47 < 1024) (hs : s.staged = [])
    (hc : (s.tenant tenant).created = true) :
    ((s.holder (granule key)).opens (some tenant) = true →
      (s.applyEntry (storeEntry key bs bad tenant)).mem = Memory.writeBytes s.mem key bs) ∧
    (s.applyEntry (storeEntry key bs bad tenant)).holder (granule key) = .tenant tenant ∧
    (bad = true → (s.applyEntry (storeEntry key bs bad tenant)).poisoned (granule key) = true) := by
  have hg : (storeEntry key bs bad tenant).granKey = granule key :=
    LogEntry.granKey_plainAt (bs := bs) (bad := bad) hk
  obtain ⟨m, f, h, hc', bi, ps, he, hm, hh, hp⟩ :=
    State.applyEntry_plain_eq (e := storeEntry key bs bad tenant) rfl hc hs
  rw [hg] at he hm hh hp
  refine ⟨fun ho => ?_, hh, fun hb => ?_⟩
  · rw [he, ← hm ho]
    exact foldl_write_plainAt (bad := bad) hn
  · rw [he, hp hb]
    exact List.contains_iff_mem.mpr (mem_insertNat _ _)

end

/-! ## A release -/

theorem State.recordPending_of_nil {s : State} {t : Team} {n : Nat} (ht : s.team? n = some t) (hp : s.pendPubs = []) :
    s.recordPending n = s := by
  unfold State.recordPending
  rw [ht]
  dsimp only
  rw [hp]
  show { s with pendPubs := [] } = s
  rw [← hp]

/-- R106: a release at gang scope or wider records the publication of the team's entries up to its TAIL. -/
theorem State.publish_eq {s : State} {t : Team} {sc : Scope} (ht : s.team? t.id = some t) (hp : s.pendPubs = [])
    (hsc : sc ≠ .team) : s.publish t.id sc = s.recordPubOf t.core t.id t.gang sc fun e => e.coveredBy t.id t.tail := by
  unfold State.publish
  rw [State.recordPending_of_nil ht hp]
  dsimp only
  rw [ht]
  cases sc with
  | team => exact absurd rfl hsc
  | gang | core | die | device | domain => rfl

/-- A log after a publication with an order number of the entries that `cover` selects. -/
def publishedLog (cover : LogEntry → Bool) (n : Nat) (log : List LogEntry) : List LogEntry :=
  log.map fun e => if e.unpublished && cover e then { e with state := .published n } else e

theorem LogEntry.undrained_of_unpublished {e : LogEntry} (h : e.unpublished = true) : e.undrained = true := by
  unfold LogEntry.undrained
  rw [beq_iff_eq.mp h]
  rfl

/-- Where a publication covers nothing, no entry becomes published. -/
theorem publishedLog_of_nil {cover : LogEntry → Bool} {log : List LogEntry} {n : Nat}
    (h : (log.filter fun e => e.undrained && cover e) = []) : publishedLog cover n log = log := by
  refine (List.map_congr_left fun e he => if_neg fun hc => ?_).trans (List.map_id log)
  rw [Bool.and_eq_true] at hc
  have hm : e ∈ log.filter fun e => e.undrained && cover e :=
    List.mem_filter.mpr ⟨he, by rw [LogEntry.undrained_of_unpublished hc.1, hc.2]; rfl⟩
  exact absurd (h ▸ hm) List.not_mem_nil

section
variable (s : State) (core team gang : Nat) (scope : Scope) (cover : LogEntry → Bool)

/-- The entries that a publication of a core covers: those not applied yet that `cover` selects (R106). -/
def State.coveredIn : List LogEntry := (s.core core).log.filter fun e => e.undrained && cover e

/-- The record of a publication (R106). -/
def State.pubOf : Pub :=
  { seq := s.pubSeq, core := core, team := team, scope := scope, num := s.pubNum + 1, tick := s.tick, gang := gang
    family := ((s.gang? gang).map fun g => g.family).getD 0, ending := false
    lsns := (s.coveredIn core cover).map fun e => e.lsn }

/-- The state with one more publication counted. -/
def State.countPub : State := { s with pubSeq := s.pubSeq + 1, pubNum := s.pubNum + 1 }

theorem State.recordPubOf_eq : s.recordPubOf core team gang scope cover =
    if (s.coveredIn core cover).isEmpty then s.countPub
    else { s.countPub with pubs := s.pubs ++ [s.pubOf core team gang scope cover] }.putCore
      { s.core core with log := publishedLog cover s.pubSeq (s.core core).log } := rfl

/-- R106: a publication is counted, covers its entries, and changes no byte at a home. -/
theorem State.recordPubOf_spec :
    (s.recordPubOf core team gang scope cover).mem = s.mem ∧
    (s.recordPubOf core team gang scope cover).pubSeq = s.pubSeq + 1 ∧
    (s.recordPubOf core team gang scope cover).pubNum = s.pubNum + 1 ∧
    ((s.recordPubOf core team gang scope cover).core core).log = publishedLog cover s.pubSeq (s.core core).log := by
  rw [State.recordPubOf_eq]
  split
  next h => exact ⟨rfl, rfl, rfl, (publishedLog_of_nil (List.isEmpty_iff.mp h)).symm⟩
  next h =>
    refine ⟨rfl, rfl, rfl, ?_⟩
    generalize hu : ({ s.countPub with pubs := s.pubs ++ [s.pubOf core team gang scope cover] } : State) = u
    have hc := State.core_putCore u { s.core core with log := publishedLog cover s.pubSeq (s.core core).log }
    rw [show ({ s.core core with log := publishedLog cover s.pubSeq (s.core core).log } : Core).n = core from
      State.core_n s core] at hc
    rw [hc]

theorem State.pubs_recordPubOf_of_nil (h : s.coveredIn core cover = []) :
    (s.recordPubOf core team gang scope cover).pubs = s.pubs := by
  rw [State.recordPubOf_eq, h]
  rfl

theorem State.pubs_recordPubOf_of_ne_nil (h : s.coveredIn core cover ≠ []) :
    (s.recordPubOf core team gang scope cover).pubs = s.pubs ++ [s.pubOf core team gang scope cover] := by
  rw [State.recordPubOf_eq, if_neg fun hn => h (List.isEmpty_iff.mp hn)]
  rfl

end

/-! ## Sending a publication and applying it -/

/-- A state that differs in what its links carry alone (R344, R345). -/
def State.SameButFlows (s u : State) : Prop := ∃ fl lk, u = { s with flows := fl, linkKeys := lk }

section
variable {s u v : State}

theorem State.SameButFlows.refl : s.SameButFlows s := ⟨s.flows, s.linkKeys, rfl⟩

theorem State.SameButFlows.trans (h : s.SameButFlows u) (h' : u.SameButFlows v) : s.SameButFlows v := by
  obtain ⟨fl, lk, rfl⟩ := h
  obtain ⟨fl', lk', rfl⟩ := h'
  exact ⟨fl', lk', rfl⟩

theorem State.SameButFlows.putFlow (h : s.SameButFlows u) (f : Flow) : s.SameButFlows (u.putFlow f) :=
  h.trans ⟨_, u.linkKeys, rfl⟩

theorem State.leaveBy_sameButFlows (id : FlowId) (p : Nat) : s.SameButFlows (s.leaveBy id p).2 := by
  unfold State.leaveBy
  split
  · exact ⟨s.flows, _, rfl⟩
  · exact .refl

theorem State.sendRequest_sameButFlows (id : FlowId) (team : Option Nat) (addr : Word) :
    s.SameButFlows (s.sendRequest id team addr) := by
  unfold State.sendRequest
  dsimp only
  split
  · exact State.SameButFlows.refl.putFlow _
  · exact (State.leaveBy_sameButFlows id 35).putFlow _

theorem State.sendRequests_sameButFlows (n : Nat) (id : FlowId) : s.SameButFlows (State.sendRequests n id s) := by
  induction n generalizing s with
  | zero => exact .refl
  | succ n ih => exact (State.sendRequest_sameButFlows id none 0).trans ih

theorem State.syncFlow_sameButFlows (core : Nat) (dev : BitVec 10) : s.SameButFlows (s.syncFlow core dev) :=
  (State.SameButFlows.refl.putFlow _).trans (State.sendRequests_sameButFlows _ _)

/-- Bringing a drain's flows up to date changes what the links carry alone. -/
theorem State.syncFlows_sameButFlows (core : Nat) (devs : List (BitVec 10)) :
    s.SameButFlows (s.syncFlows core devs) := by
  unfold State.syncFlows
  generalize (devs.eraseDups.filter fun d => d != s.dev) = ds
  induction ds generalizing s with
  | nil => exact .refl
  | cons d ds ih => exact (State.syncFlow_sameButFlows core d).trans ih

end

section
variable {s : State} {core pub : Nat} {e : LogEntry}

/-- The flight of an entry by itself. -/
def LogEntry.flightOf (e : LogEntry) (core pub : Nat) : Flight :=
  { core := core, pub := pub, lsns := [e.lsn], entry := e }

/-- The state with one more flight, and a log of its entry alone, which is sent. -/
def State.withSent (s : State) (core pub : Nat) (e : LogEntry) : State :=
  { s with flights := s.flights ++ [e.flightOf core pub] }.putCore
    { s.core core with log := [{ e with state := .sent pub }] }

/-- R109: sending a publication of which one entry waits, in a log of that entry. -/
theorem State.sendPub_singleton (hlog : (s.core core).log = [e]) (hu : e.unsent = some pub) (hm : s.mayLeave e = true) :
    (s.withSent core pub e).SameButFlows (s.sendPub core pub) := by
  have hr : (e.unsent == some pub && s.mayLeave e) = true := by
    rw [hu, hm, beq_self_eq_true]
    rfl
  have hf : ([e].filter fun e => e.unsent == some pub && s.mayLeave e) = [e] := List.filter_cons_of_pos hr
  unfold State.sendPub
  dsimp only
  rw [hlog, hf, List.map_singleton, if_pos hr]
  exact State.syncFlows_sameButFlows core _

end

/-! What forcing a publication leaves alone: the homes, and every core but the one that published. -/

/-- The same homes, and the same cores but for one. -/
structure State.SameBut (core : Nat) (s u : State) : Prop where
  mem : u.mem = s.mem
  held : u.held = s.held
  lostPages : u.lostPages = s.lostPages
  staged : u.staged = s.staged
  tenants : u.tenants = s.tenants
  others : ∀ c, c ≠ core → u.core c = s.core c

section
variable {s u v : State} {core pub : Nat} {e : LogEntry}

theorem State.core_congr (h : u.cores = s.cores) (n : Nat) : u.core n = s.core n := by
  unfold State.core
  rw [h]

theorem State.SameBut.refl : s.SameBut core s := ⟨rfl, rfl, rfl, rfl, rfl, fun _ _ => rfl⟩

theorem State.SameBut.trans (h : State.SameBut core s u) (h' : State.SameBut core u v) : State.SameBut core s v :=
  ⟨h'.mem.trans h.mem, h'.held.trans h.held, h'.lostPages.trans h.lostPages, h'.staged.trans h.staged,
    h'.tenants.trans h.tenants, fun c hc => (h'.others c hc).trans (h.others c hc)⟩

theorem State.SameButFlows.sameBut (h : s.SameButFlows u) : State.SameBut core s u := by
  obtain ⟨fl, lk, rfl⟩ := h
  exact ⟨rfl, rfl, rfl, rfl, rfl, fun _ _ => rfl⟩

theorem State.SameButFlows.core_eq (h : s.SameButFlows u) (c : Nat) : u.core c = s.core c := by
  obtain ⟨fl, lk, rfl⟩ := h
  rfl

theorem State.SameButFlows.flights (h : s.SameButFlows u) : u.flights = s.flights := by
  obtain ⟨fl, lk, rfl⟩ := h
  rfl

theorem State.SameBut.modCore (f : Core → Core) : State.SameBut core s (s.modCore core f) :=
  ⟨rfl, rfl, rfl, rfl, rfl, fun c hc => State.core_modCore_ne s core c f hc⟩

theorem State.SameBut.holder (h : State.SameBut core s u) (g : Nat) : u.holder g = s.holder g :=
  State.holder_congr h.held h.lostPages g

theorem State.SameBut.tenant (h : State.SameBut core s u) (n : BitVec 8) : u.tenant n = s.tenant n := by
  unfold State.tenant
  rw [h.tenants]

theorem State.withSent_sameBut : State.SameBut core s (s.withSent core pub e) :=
  ⟨rfl, rfl, rfl, rfl, rfl, fun c hc => State.core_putCore_ne _ _ c (by rwa [State.core_n])⟩

theorem State.log_withSent : ((s.withSent core pub e).core core).log = [{ e with state := .sent pub }] := by
  have h := State.core_putCore { s with flights := s.flights ++ [e.flightOf core pub] }
    { s.core core with log := [{ e with state := .sent pub }] }
  rw [show ({ s.core core with log := [{ e with state := .sent pub }] } : Core).n = core from State.core_n s core] at h
  exact congrArg Core.log h

/-- R109: what applying the flight of an entry that is alone in its log leaves. -/
theorem State.land_flightOf (hlog : ((s.applyEntry e).core core).log = [{ e with state := .sent pub }]) :
    State.SameBut core (s.applyEntry e) (s.land (e.flightOf core pub)) ∧
      ((s.land (e.flightOf core pub)).core core).log = [{ e with state := .applied }] := by
  have hf := State.syncFlows_sameButFlows (s := (s.applyEntry e).modCore core fun c =>
    { c with log := c.log.map fun x =>
        if x.state == .sent pub && [e.lsn].contains x.lsn then { x with state := .applied } else x })
    core [e.hdev]
  refine ⟨(State.SameBut.modCore _).trans hf.sameBut, ?_⟩
  refine (congrArg Core.log (hf.core_eq core)).trans ?_
  rw [State.core_modCore]
  dsimp only
  rw [hlog]
  simp

theorem State.ack_sameBut : State.SameBut core s (s.ack core) := State.SameBut.modCore _

/-- R109: an acknowledged entry leaves the log. -/
theorem State.log_ack (hlog : (s.core core).log = [{ e with state := .applied }]) :
    ((s.ack core).core core).log = [] := by
  unfold State.ack
  rw [State.core_modCore]
  dsimp only
  rw [hlog]
  rfl

/-- Whether a flight lands when the publications up to an order number are forced. -/
def State.landsBy (s : State) (seq : Nat) (f : Flight) : Bool := decide (f.pub ≤ seq) && s.homeReached f.entry

/-- The flights that a forced publication lets land, applied. -/
def State.landAll (s : State) (seq : Nat) : State :=
  (sortBy (fun a b : Flight => decide (a.pub < b.pub)) (s.flights.filter (s.landsBy seq))).foldl State.land
    { s with flights := s.flights.filter fun f => !s.landsBy seq f }

theorem State.landAll_singleton {f : Flight} {seq : Nat} (hf : s.flights = [f]) (hl : s.landsBy seq f = true) :
    s.landAll seq = ({ s with flights := [] } : State).land f := by
  have hno : ([f].filter fun f => !s.landsBy seq f) = [] := by
    refine List.filter_cons_of_neg ?_
    rw [hl]
    exact Bool.false_ne_true
  unfold State.landAll
  rw [hf, hno, List.filter_cons_of_pos hl]
  rfl

/-- A publication that waits alone is sent, applied and acknowledged (R108, R109). -/
theorem State.forceTo_singleton {p : Pub} {seq : Nat} (hp : s.pubs = [p]) (hseq : p.seq ≤ seq) :
    s.forceTo seq = (((s.sendPub p.core p.seq).landAll seq).ack p.core).prunePubs := by
  have hd : ([p].filter fun p => decide (p.seq ≤ seq)) = [p] := List.filter_cons_of_pos (decide_eq_true hseq)
  unfold State.forceTo
  rw [hp, hd]
  rfl

/-- The state once a publication is sent, with its flights taken off the links to be applied. -/
def State.takenOff (s : State) (core pub : Nat) : State := { s.sendPub core pub with flights := [] }

theorem State.landsBy_sendPub {seq : Nat} (h : (s.withSent core pub e).SameButFlows (s.sendPub core pub))
    (hm : s.mayLeave e = true) (hseq : pub ≤ seq) : (s.sendPub core pub).landsBy seq (e.flightOf core pub) = true := by
  obtain ⟨fl, lk, h⟩ := h
  rw [h]
  exact Bool.and_eq_true_iff.mpr ⟨decide_eq_true hseq, (Bool.and_eq_true_iff.mp hm).1⟩

theorem State.takenOff_sameBut (h : (s.withSent core pub e).SameButFlows (s.sendPub core pub)) :
    State.SameBut core s (s.takenOff core pub) := by
  obtain ⟨hmem, hheld, hlost, hstaged, htenants, hothers⟩ := State.withSent_sameBut.trans (h.sameBut (core := core))
  exact ⟨hmem, hheld, hlost, hstaged, htenants, hothers⟩

theorem State.log_takenOff (h : (s.withSent core pub e).SameButFlows (s.sendPub core pub)) :
    ((s.takenOff core pub).core core).log = [{ e with state := .sent pub }] :=
  (congrArg Core.log (h.core_eq core)).trans State.log_withSent

theorem State.prunePubs_sameBut : State.SameBut core s s.prunePubs := ⟨rfl, rfl, rfl, rfl, rfl, fun _ _ => rfl⟩

theorem State.core_prunePubs (n : Nat) : s.prunePubs.core n = s.core n := rfl

/-- R109: applying the flight of the entry, once it is taken off the links. -/
theorem State.land_takenOff (h : (s.withSent core pub e).SameButFlows (s.sendPub core pub)) (hk : e.kind = .plain)
    (hc : (s.tenant e.tenant).created = true) (hs : s.staged = []) :
    State.SameBut core ((s.takenOff core pub).applyEntry e) ((s.takenOff core pub).land (e.flightOf core pub)) ∧
      (((s.takenOff core pub).land (e.flightOf core pub)).core core).log = [{ e with state := .applied }] := by
  have hsame := State.takenOff_sameBut h
  have hlog := State.log_takenOff h
  generalize s.takenOff core pub = u at hsame hlog ⊢
  obtain ⟨m, f, h, hc', bi, ps, he, -, -, -⟩ :=
    State.applyEntry_plain_eq (s := u) hk (hsame.tenant e.tenant ▸ hc) (hsame.staged.trans hs)
  have hcores : (u.applyEntry e).cores = u.cores := by rw [he]
  exact State.land_flightOf (by rw [State.core_congr hcores, hlog])

/-- R108 and R109, for a publication that waits alone, of an entry alone in its log: what forcing it leaves is what
applying the entry leaves, but that the log is empty. -/
theorem State.forceTo_spec {p : Pub} {seq : Nat} (hp : s.pubs = [p]) (hseq : p.seq ≤ seq) (hfl : s.flights = [])
    (hlog : (s.core p.core).log = [e]) (hu : e.unsent = some p.seq) (hm : s.mayLeave e = true) (hk : e.kind = .plain)
    (hc : (s.tenant e.tenant).created = true) (hs : s.staged = []) :
    ∃ u, State.SameBut p.core s u ∧ State.SameBut p.core (u.applyEntry e) (s.forceTo seq) ∧
      ((s.forceTo seq).core p.core).log = [] := by
  have hsend := State.sendPub_singleton hlog hu hm
  have hf : (s.sendPub p.core p.seq).flights = [e.flightOf p.core p.seq] := by
    rw [hsend.flights]
    show s.flights ++ [e.flightOf p.core p.seq] = _
    rw [hfl]
    rfl
  obtain ⟨hland, hdone⟩ := State.land_takenOff hsend hk hc hs
  have hforce : s.forceTo seq = (((s.takenOff p.core p.seq).land (e.flightOf p.core p.seq)).ack p.core).prunePubs := by
    rw [State.forceTo_singleton hp hseq, State.landAll_singleton hf (State.landsBy_sendPub hsend hm hseq)]
    rfl
  rw [hforce]
  refine ⟨s.takenOff p.core p.seq, State.takenOff_sameBut hsend,
    (hland.trans State.ack_sameBut).trans State.prunePubs_sameBut, ?_⟩
  rw [State.core_prunePubs]
  exact State.log_ack hdone

end

/-! ## O22 -/

section
variable {s : State} {p : Pub} {key seq c : Nat} {bs : List Byte} {tenant : BitVec 8} {lsn : BitVec 48}

/-- The entry of a published store. -/
def publishedEntry (key : Nat) (bs : List Byte) (tenant : BitVec 8) (lsn : BitVec 48) (pub : Nat) : LogEntry :=
  { LogEntry.plainAt key bs false with tenant := tenant, lsn := lsn, state := .published pub }

/-- A core with an entry in its log is listed. -/
theorem State.core_mem_cores {n : Nat} (h : (s.core n).log ≠ []) : s.core n ∈ s.cores := by
  unfold State.core at h ⊢
  cases hf : s.cores.find? fun c => c.n == n with
  | none => exact absurd (by rw [hf]; rfl) h
  | some c => exact List.mem_of_find?_eq_some hf

/-- R108: a load of a core to which a publication is visible comes after its application. -/
theorem State.showLoad_eq_forceTo {g : Nat} {e : LogEntry} (hlog : (s.core p.core).log = [e])
    (hu : e.under = some p.seq) (hg : e.grans = [g]) (hseq : p.seq ≤ seq) (hc : c ≠ p.core)
    (hseen : (s.core c).seen = seq + 1) :
    s.showLoad c [g] = s.forceTo seq := by
  have hb : (s.behindIn (s.core c).seen [g] fun c' e => c' != c || e.kind != .plain) = true := by
    have hne : (s.core p.core).log ≠ [] := by
      rw [hlog]
      exact List.cons_ne_nil e []
    refine List.any_eq_true.mpr ⟨s.core p.core, State.core_mem_cores hne, ?_⟩
    rw [hlog, State.core_n, hseen]
    simp [hu, hg, hc.symm]
    omega
  exact (if_pos hb).trans (by rw [hseen]; rfl)

/-- What applying a published store leaves: its bytes in memory, and every core and staged entry as before. -/
theorem State.applyEntry_publishedEntry (hn : key % 32 + bs.length ≤ 32) (hk : key / 2 ^ 47 < 1024)
    (hc : (s.tenant tenant).created = true) (ho : (s.holder (granule key)).opens (some tenant) = true)
    (hs : s.staged = []) (n : Nat) :
    (s.applyEntry (publishedEntry key bs tenant lsn n)).mem = Memory.writeBytes s.mem key bs ∧
    (s.applyEntry (publishedEntry key bs tenant lsn n)).holder (granule key) = .tenant tenant ∧
    (s.applyEntry (publishedEntry key bs tenant lsn n)).staged = s.staged ∧
    (s.applyEntry (publishedEntry key bs tenant lsn n)).cores = s.cores := by
  have hg : (publishedEntry key bs tenant lsn n).granKey = granule key :=
    LogEntry.granKey_plainAt (bs := bs) (bad := false) hk
  obtain ⟨m, f, h, hc', bi, ps, he, hm, hh, -⟩ :=
    State.applyEntry_plain_eq (e := publishedEntry key bs tenant lsn n) rfl hc hs
  rw [hg] at he hm hh
  refine ⟨?_, hh, by rw [he], by rw [he]⟩
  rw [he, ← hm ho]
  exact foldl_write_plainAt (bad := false) hn

section
variable (h0 : 0 < bs.length) (hn : key % 32 + bs.length ≤ 32) (hk : key / 2 ^ 47 < 1024)
  (hcr : (s.tenant tenant).created = true) (ho : (s.holder (granule key)).opens (some tenant) = true)
  (hseq : p.seq ≤ seq) (hp : s.pubs = [p]) (hfl : s.flights = []) (hs : s.staged = [])
  (hlog : (s.core p.core).log = [publishedEntry key bs tenant lsn p.seq])
  (hm : s.mayLeave (publishedEntry key bs tenant lsn p.seq) = true)
include hn hk hcr ho hseq hp hfl hs hlog hm

/-- R109: forcing the publication of a store. -/
theorem State.forceTo_publishedEntry :
    (s.forceTo seq).mem = Memory.writeBytes s.mem key bs ∧ ((s.forceTo seq).core p.core).log = [] ∧
    (s.forceTo seq).holder (granule key) = .tenant tenant ∧ (s.forceTo seq).staged = [] ∧
    ∀ c, c ≠ p.core → (s.forceTo seq).core c = s.core c := by
  obtain ⟨u, hu, hw, hempty⟩ := State.forceTo_spec hp hseq hfl hlog rfl hm rfl hcr hs
  obtain ⟨hmem, hholder, hstaged, hcores⟩ := State.applyEntry_publishedEntry (s := u) (lsn := lsn) hn hk
    (hu.tenant tenant ▸ hcr) (hu.holder (granule key) ▸ ho) (hu.staged.trans hs) p.seq
  refine ⟨hw.mem.trans (hmem.trans (by rw [hu.mem])), hempty, (hw.holder _).trans hholder,
    hw.staged.trans (hstaged.trans (hu.staged.trans hs)), fun c hc => ?_⟩
  rw [hw.others c hc, State.core_congr hcores, hu.others c hc]

include h0

/-- R108: a load of a core to which the publication of a store is visible reads its bytes. -/
theorem State.coreRead_of_seen (hc : c ≠ p.core) (hlogc : (s.core c).log = []) (hseen : (s.core c).seen = seq + 1)
    (hcan : s.Canonical) : (s.coreRead c key bs.length).1 = bs := by
  have hb := bareKey_of_device hk
  have hgs := granulesOf_of_le h0 hn
  have hg : (publishedEntry key bs tenant lsn p.seq).granKey = granule key :=
    LogEntry.granKey_plainAt (bs := bs) (bad := false) hk
  obtain ⟨hmem, -, hholder, hstaged, hothers⟩ :=
    State.forceTo_publishedEntry hn hk hcr ho hseq hp hfl hs hlog hm
  have hshow : s.showLoad c (granulesOf (bareKey key) bs.length) = s.forceTo seq := by
    rw [hb, hgs]
    exact State.showLoad_eq_forceTo hlog rfl (congrArg (fun g => [g]) hg) hseq hc hseen
  have hhome : ((s.forceTo seq).homeRead key bs.length).1 = bs := by
    rw [State.homeRead_fst_of_opens hstaged, hb, hmem, Memory.readBytes_writeBytes key bs hcan.mem]
    intro g hg
    rw [hb, hgs] at hg
    rw [List.mem_singleton.mp hg, hholder, tenantOfKey_of_device hk]
    rfl
  rw [State.coreRead_fst hshow, hothers c hc, hlogc, hhome]
  refine List.ext_getElem (by simp) fun i h1 h2 => ?_
  rw [List.getElem_map, List.getElem_range]
  show bs.getD i 0 = bs[i]
  simp [h2]

end
end

/-- Settles O22: the entry of a store is the youngest that its core's loads find, no other core's load depends on it,
and its application writes its bytes alone. A publication is read off its record; forcing one that waits alone is
applying its entry, after which a load at home reads the bytes written. -/
theorem storesReachTheirHome : Obligations.StoresReachTheirHome := by
  unfold Obligations.StoresReachTheirHome
  refine ⟨fun s core key bs bad tenant h0 hn hk hu => ?_, fun s t sc ht hp hsc => ?_,
    fun s p key seq bs tenant lsn h0 hn hk hcr ho hseq hp hfl hs hlog hm => ?_⟩
  · obtain ⟨hread, hbad⟩ := State.coreRead_appendEntry (core := core) (bad := bad) (tenant := tenant) h0 hn hk hu
    exact ⟨hread, hbad, fun other k n ho => State.coreRead_appendEntry_ne hu _ ho k n, rfl, rfl, fun hs =>
      ⟨State.applyEntry_storeEntry hn hk hs, State.applyEntry_of_not_created (e := storeEntry key bs bad tenant)⟩⟩
  · obtain ⟨hmem, hseq, hnum, hlog⟩ := State.recordPubOf_spec s t.core t.id t.gang sc fun e => e.coveredBy t.id t.tail
    rw [State.publish_eq ht hp hsc]
    exact ⟨hmem, hseq, hnum, hlog, State.pubs_recordPubOf_of_nil s t.core t.id t.gang sc _, fun hne =>
      ⟨_, State.pubs_recordPubOf_of_ne_nil s t.core t.id t.gang sc _ hne, rfl, rfl, rfl, rfl, rfl, rfl⟩⟩
  · obtain ⟨hmem, hempty, -⟩ := State.forceTo_publishedEntry hn hk hcr ho hseq hp hfl hs hlog hm
    exact ⟨hmem, hempty, fun c hc hlogc hseen hcan =>
      State.coreRead_of_seen h0 hn hk hcr ho hseq hp hfl hs hlog hm hc hlogc hseen hcan⟩

end Sys2Proof.Machine

/-!
Encodings (R150 to R160): where the fields of each format lie, that every field decoder undoes its code, and what a
decoder's answer says about the word it read.
-/

namespace Sys2Proof.Encoding

/-! ## Fields of a word -/

/-- The field of `w` from bit `k` on holds `x`. -/
def FieldIs {l n : Nat} (w : BitVec l) (k : Nat) (x : BitVec n) : Prop := w.extractLsb' k n = x

theorem eq_ofNat_of_toNat {n a : Nat} {x : BitVec n} (h : x.toNat = OfNat.ofNat a) : x = BitVec.ofNat n a := by
  have number : x.toNat = a := h
  rw [← number, BitVec.ofNat_toNat, BitVec.setWidth_eq]

/-- A field is known by its number. -/
theorem FieldIs.of_toNat {l k n a : Nat} {w : BitVec l} (h : (w.extractLsb' k n).toNat = OfNat.ofNat a) :
    FieldIs w k (BitVec.ofNat n a) := eq_ofNat_of_toNat h

/-- Values side by side are equal when each is. -/
theorem append_inj {n m : Nat} {a x : BitVec n} {b y : BitVec m} : a ++ b = x ++ y ↔ a = x ∧ b = y := by
  refine ⟨fun h => ⟨?_, ?_⟩, fun ⟨ha, hb⟩ => ha ▸ hb ▸ rfl⟩
  · rw [← BitVec.extractLsb'_append_eq_left (a := a) (b := b), h, BitVec.extractLsb'_append_eq_left]
  · rw [← BitVec.extractLsb'_append_eq_right (a := a) (b := b), h, BitVec.extractLsb'_append_eq_right]

/-- A field of two parts holds them side by side. -/
@[simp] theorem fieldIs_append {l n m : Nat} (w : BitVec l) (k : Nat) (x : BitVec n) (y : BitVec m) :
    FieldIs w k (@HAppend.hAppend _ _ (BitVec (no_index (n + m))) _ x y) ↔ FieldIs w (k + m) x ∧ FieldIs w k y := by
  rw [FieldIs, ← BitVec.extractLsb'_append_extractLsb'_eq_extractLsb' rfl]
  exact append_inj

/-- A field of two parts, from its parts. -/
theorem FieldIs.append {l n m k : Nat} {w : BitVec l} {x : BitVec n} {y : BitVec m} (hx : FieldIs w (k + m) x)
    (hy : FieldIs w k y) : FieldIs w k (x ++ y) := (fieldIs_append w k x y).2 ⟨hx, hy⟩

/-- A field of one bit. -/
@[simp] theorem fieldIs_bit {l : Nat} (w : BitVec l) (k : Nat) (b : Bool) : FieldIs w k (bit b) ↔ w.getLsbD k = b := by
  have low : w.extractLsb' k 1 = bit (w.getLsbD k) := BitVec.eq_of_getLsbD_eq fun i hi => by
    obtain rfl : i = 0 := by omega
    simp [bit]
  rw [FieldIs, low]
  cases w.getLsbD k <;> cases b <;> decide

/-- A field of one bit that is 0. -/
@[simp] theorem fieldIs_zeroBit {l : Nat} (w : BitVec l) (k : Nat) : FieldIs w k 0#1 ↔ w.getLsbD k = false :=
  fieldIs_bit w k false

/-- A field of one bit that is 1. -/
@[simp] theorem fieldIs_oneBit {l : Nat} (w : BitVec l) (k : Nat) : FieldIs w k 1#1 ↔ w.getLsbD k = true :=
  fieldIs_bit w k true

/-- A field of one bit, from the bit. -/
theorem FieldIs.bit {l k : Nat} {w : BitVec l} {b : Bool} (h : w.getLsbD k = b) : FieldIs w k (bit b) :=
  (fieldIs_bit w k b).2 h

/-- A word is its own field of full width. -/
theorem eq_iff_fieldIs {l : Nat} (x w : BitVec l) : x = w ↔ FieldIs w 0 x := by
  rw [FieldIs, BitVec.extractLsb'_eq_self, eq_comm]

theorem toNat_lt_of_ult {n a : Nat} {x : BitVec n} (h : x.ult (BitVec.ofNat n a) = true) : x.toNat < OfNat.ofNat a := by
  have below : x.toNat < a % 2 ^ n := by simpa [BitVec.ult] using h
  exact Nat.lt_of_lt_of_le below (Nat.mod_le ..)

theorem toNat_le_of_ule {n a : Nat} {x : BitVec n} (h : x.ule (BitVec.ofNat n a) = true) : x.toNat ≤ OfNat.ofNat a := by
  have below : x.toNat ≤ a % 2 ^ n := by simpa [BitVec.ule] using h
  exact Nat.le_trans below (Nat.mod_le ..)

theorem toNat_ne_of_bne {n a : Nat} {x : BitVec n} (h : (x != BitVec.ofNat n a) = true) : x.toNat ≠ OfNat.ofNat a :=
  fun e => bne_iff_ne.mp h (eq_ofNat_of_toNat e)

theorem toNat_ne_of_beq {n a : Nat} {x : BitVec n} (h : (x == BitVec.ofNat n a) = false) : x.toNat ≠ OfNat.ofNat a :=
  toNat_ne_of_bne (by rw [bne, h]; rfl)

/-- The high part of a field whose number is small is 0. -/
theorem FieldIs.zero_of_lt {l n m k a : Nat} {w : BitVec l} (h : (w.extractLsb' k (n + m)).toNat < a) (ha : a ≤ 2 ^ m) :
    FieldIs w (k + m) (0 : BitVec n) := by
  refine eq_ofNat_of_toNat (a := 0) ?_
  have small : w.toNat / 2 ^ k % 2 ^ (n + m) < 2 ^ m := by
    rw [BitVec.extractLsb'_toNat, Nat.shiftRight_eq_div_pow] at h
    exact Nat.lt_of_lt_of_le h ha
  rw [BitVec.extractLsb'_toNat, Nat.shiftRight_eq_div_pow, Nat.pow_add, ← Nat.div_div_eq_div_mul]
  rw [Nat.add_comm, Nat.pow_add, Nat.mod_mul] at small
  exact Nat.eq_zero_of_not_pos fun pos => by
    have := Nat.mul_le_mul_left (2 ^ m) pos
    omega

/-- The low part of a field is at most the field. -/
theorem toNat_low_le {l : Nat} (w : BitVec l) (k n m : Nat) :
    (w.extractLsb' k m).toNat ≤ (w.extractLsb' k (n + m)).toNat := by
  rw [BitVec.extractLsb'_toNat, BitVec.extractLsb'_toNat, Nat.add_comm, Nat.pow_add, Nat.mod_mul]
  exact Nat.le_add_right ..

/-! ## The formats of R155 -/

section formats
variable (w : BitVec 32) (major : BitVec 6)

theorem asmF_iff (sb sa : BitVec 7) (vd : BitVec 6) (nw : Bool) (f g : BitVec 2) :
    asmF sb sa vd nw f g major = w ↔ (FieldIs w 25 sb ∧ FieldIs w 18 sa ∧ FieldIs w 12 vd ∧ w.getLsbD 11 = nw ∧
      FieldIs w 9 f ∧ FieldIs w 7 g) ∧ FieldIs w 1 major ∧ FieldIs w 0 1#1 := by
  simp only [asmF, eq_iff_fieldIs, fieldIs_append, fieldIs_bit, Nat.reduceAdd, and_assoc]

theorem asmV_iff (sb sa : BitVec 7) (vd : BitVec 6) (nw : Bool) (fn : BitVec 4) :
    asmV sb sa vd nw fn major = w ↔ (FieldIs w 25 sb ∧ FieldIs w 18 sa ∧ FieldIs w 12 vd ∧ w.getLsbD 11 = nw ∧
      FieldIs w 7 fn) ∧ FieldIs w 1 major ∧ FieldIs w 0 1#1 := by
  simp only [asmV, eq_iff_fieldIs, fieldIs_append, fieldIs_bit, Nat.reduceAdd, and_assoc]

theorem asmE_iff (aux sa : BitVec 7) (sd : BitVec 6) (minor : BitVec 5) :
    asmE aux sa sd minor major = w ↔ (FieldIs w 25 aux ∧ FieldIs w 18 sa ∧ FieldIs w 12 sd ∧ FieldIs w 7 minor)
      ∧ FieldIs w 1 major ∧ FieldIs w 0 1#1 := by
  simp only [asmE, eq_iff_fieldIs, fieldIs_append, Nat.reduceAdd, and_assoc]

theorem asmM_iff (base : BitVec 4) (ix : BitVec 7) (vd : BitVec 6) (fmt off : BitVec 4) :
    asmM base ix vd fmt off major = w ↔ (FieldIs w 28 base ∧ FieldIs w 21 ix ∧ FieldIs w 15 vd ∧ FieldIs w 11
      fmt ∧ FieldIs w 7 off) ∧ FieldIs w 1 major ∧ FieldIs w 0 1#1 := by
  simp only [asmM, eq_iff_fieldIs, fieldIs_append, Nat.reduceAdd, and_assoc]

theorem asmVI_iff (imm : BitVec 11) (sa : BitVec 7) (vd : BitVec 6) (nw : Bool) :
    asmVI imm sa vd nw major = w ↔ (FieldIs w 21 imm ∧ FieldIs w 14 sa ∧ FieldIs w 8 vd ∧ w.getLsbD 7 = nw) ∧
      FieldIs w 1 major ∧ FieldIs w 0 1#1 := by
  simp only [asmVI, eq_iff_fieldIs, fieldIs_append, fieldIs_bit, Nat.reduceAdd, and_assoc]

theorem asmSI_iff (imm : BitVec 12) (sa : BitVec 7) (sd : BitVec 6) :
    asmSI imm sa sd major = w ↔ (FieldIs w 20 imm ∧ FieldIs w 13 sa ∧ FieldIs w 7 sd) ∧ FieldIs w 1 major ∧
      FieldIs w 0 1#1 := by
  simp only [asmSI, eq_iff_fieldIs, fieldIs_append, Nat.reduceAdd, and_assoc]

theorem asmSU_iff (imm : BitVec 16) (q : BitVec 2) (sd : BitVec 6) (k : Bool) :
    asmSU imm q sd (bit k) = w ↔ (FieldIs w 16 imm ∧ FieldIs w 14 q ∧ FieldIs w 8 sd ∧ w.getLsbD 7 = k) ∧
      FieldIs w 1 26#6 ∧ FieldIs w 0 1#1 := by
  simp only [asmSU, eq_iff_fieldIs, fieldIs_append, fieldIs_bit, Nat.reduceAdd, and_assoc]

theorem asmBS_iff (off : BitVec 16) (cc : BitVec 2) (sa : BitVec 7) :
    asmBS off cc sa = w ↔ (FieldIs w 16 off ∧ FieldIs w 14 cc ∧ FieldIs w 7 sa) ∧ FieldIs w 1 28#6 ∧ FieldIs w 0
      1#1 := by
  simp only [asmBS, eq_iff_fieldIs, fieldIs_append, Nat.reduceAdd, and_assoc]

theorem asmMX_iff (fmt acc : BitVec 5) (oma omb : BitVec 4) (sd : BitVec 6) (sp : Bool) :
    asmMX fmt acc oma omb sd (bit sp) = w ↔ (FieldIs w 27 fmt ∧ FieldIs w 22 acc ∧ FieldIs w 18 oma ∧ FieldIs w
      14 omb ∧ FieldIs w 8 sd ∧ w.getLsbD 7 = sp) ∧ FieldIs w 1 42#6 ∧ FieldIs w 0 1#1 := by
  simp only [asmMX, eq_iff_fieldIs, fieldIs_append, fieldIs_bit, Nat.reduceAdd, and_assoc]

theorem asmMO_iff (fmt : BitVec 5) (vd va : BitVec 6) (omb sd : BitVec 4) :
    asmMO fmt vd va omb sd major = w ↔ (FieldIs w 27 fmt ∧ FieldIs w 21 vd ∧ FieldIs w 15 va ∧ FieldIs w 11 omb
      ∧ FieldIs w 7 sd) ∧ FieldIs w 1 major ∧ FieldIs w 0 1#1 := by
  simp only [asmMO, eq_iff_fieldIs, fieldIs_append, Nat.reduceAdd, and_assoc]

theorem formatVM_iff (sb sa : BitVec 7) (ty md : BitVec 3) (cc : BitVec 4) :
    (sb ++ sa ++ ty ++ md ++ 0#1 ++ cc ++ 13#6 ++ 1#1 : BitVec 32) = w ↔ (FieldIs w 25 sb ∧ FieldIs w 18 sa ∧
      FieldIs w 15 ty ∧ FieldIs w 12 md ∧ w.getLsbD 11 = false ∧ FieldIs w 7 cc) ∧ FieldIs w 1 13#6 ∧ FieldIs w
      0 1#1 := by
  simp only [eq_iff_fieldIs, fieldIs_append, fieldIs_zeroBit, Nat.reduceAdd, and_assoc]

theorem formatC_iff (df : BitVec 5) (sat : Bool) (sa : BitVec 7) (vd : BitVec 6) (nw : Bool) (rm : BitVec 3) :
    (df ++ bit sat ++ 0#1 ++ sa ++ vd ++ bit nw ++ rm ++ 0#1 ++ 14#6 ++ 1#1 : BitVec 32) = w ↔ (FieldIs w 27 df
      ∧ w.getLsbD 26 = sat ∧ w.getLsbD 25 = false ∧ FieldIs w 18 sa ∧ FieldIs w 12 vd ∧ w.getLsbD 11 = nw ∧
      FieldIs w 8 rm ∧ w.getLsbD 7 = false) ∧ FieldIs w 1 14#6 ∧ FieldIs w 0 1#1 := by
  simp only [eq_iff_fieldIs, fieldIs_append, fieldIs_bit, fieldIs_zeroBit, Nat.reduceAdd, and_assoc]

theorem formatBD_iff (off : BitVec 12) (joff : BitVec 10) (ms : BitVec 3) :
    (off ++ joff ++ ms ++ 29#6 ++ 1#1 : BitVec 32) = w ↔ (FieldIs w 20 off ∧ FieldIs w 10 joff ∧ FieldIs w 7 ms)
      ∧ FieldIs w 1 29#6 ∧ FieldIs w 0 1#1 := by
  simp only [eq_iff_fieldIs, fieldIs_append, Nat.reduceAdd, and_assoc]

theorem formatJ_iff (off : BitVec 24) (k : Bool) :
    (off ++ bit k ++ 30#6 ++ 1#1 : BitVec 32) = w ↔ (FieldIs w 8 off ∧ w.getLsbD 7 = k) ∧ FieldIs w 1 30#6 ∧
      FieldIs w 0 1#1 := by
  simp only [eq_iff_fieldIs, fieldIs_append, fieldIs_bit, Nat.reduceAdd, and_assoc]

theorem asmHint_iff (hk : BitVec 5) (payload : BitVec 20) :
    asmHint hk payload = w ↔ (FieldIs w 27 hk ∧ FieldIs w 7 payload) ∧ FieldIs w 1 63#6 ∧ FieldIs w 0 1#1 := by
  simp only [asmHint, eq_iff_fieldIs, fieldIs_append, Nat.reduceAdd, and_assoc]

end formats

theorem asmShort_iff (p : BitVec 16) (ss : BitVec 5) (vd : BitVec 6) (op : BitVec 4) :
    asmShort ss vd op = p ↔ FieldIs p 11 ss ∧ FieldIs p 5 vd ∧ FieldIs p 1 op ∧ FieldIs p 0 0#1 := by
  simp only [asmShort, eq_iff_fieldIs, fieldIs_append, Nat.reduceAdd, and_assoc]

/-! ## Field decoders and their codes -/

@[simp] theorem vsrcOf_bits (x : VSrc) : vsrcOf x.bits = .ok x := by
  cases x with
  | v r => revert r; decide
  | o r => revert r; decide
  | x r => revert r; decide
  | imm i => revert i; decide

@[simp] theorem ssrcOf_bits (x : SSrc) : ssrcOf x.bits = .ok x := by
  cases x with
  | s r => revert r; decide
  | imm i => revert i; decide

/-- Only s0 has the specifier 0. -/
theorem SSrc.eq_of_bits_zero {x : SSrc} (h : x.bits = 0) : x = .s 0 := by
  have read := ssrcOf_bits x
  rw [h] at read
  exact (Except.ok.inj read).symm

@[simp] theorem fmtOf_code (f : Fmt) : fmtOf f.code = .ok f := by cases f <;> rfl

@[simp] theorem tagOf_code (t : Tag) : tagOf t.code = .ok t := by
  cases t with
  | fmt f => cases f <;> rfl
  | nf k => revert k; decide

@[simp] theorem ftypeOf_code (t : FType) : ftypeOf t.code = t := by cases t <;> rfl

@[simp] theorem itypeOf_code (t : IType) : itypeOf t.code = t := by cases t <;> rfl

@[simp] theorem cmpTyOf_code (t : CmpTy) : cmpTyOf t.code = t := by cases t <;> rfl

@[simp] theorem cmpOpOf_code (c : CmpOp) : cmpOpOf c.code = .ok c := by cases c <;> rfl

@[simp] theorem scopeOf_code (s : Scope) : scopeOf s.code = .ok s := by cases s <;> rfl

@[simp] theorem engineOf_code (e : EngineId) : engineOf e.code = .ok e := by
  cases e with
  | bce => rfl
  | gs d => revert d; decide
  | se k => revert k; decide

@[simp] theorem ctlRegOf_code (r : CtlReg) : ctlRegOf r.code = .ok r := by cases r <;> rfl

@[simp] theorem bodyKindOf_code (k : BodyKind) : bodyKindOf k.code = .ok k := by cases k <;> rfl

@[simp] theorem queryOf_code (f : QueryField) : queryOf f.code = .ok f := by cases f <;> rfl

/-- Every field that `f` reads is the code of what it reads. -/
def Undoes {α : Type} {n : Nat} (code : α → BitVec n) (f : BitVec n → Except Reject α) : Prop :=
  ∀ b, (f b).toOption.all (fun x => code x == b) = true

theorem vsrcOf_undoes : Undoes VSrc.bits vsrcOf := by unfold Undoes; decide
theorem ssrcOf_undoes : Undoes SSrc.bits ssrcOf := by unfold Undoes; decide
theorem fmtOf_undoes : Undoes Fmt.code fmtOf := by unfold Undoes; decide
theorem tagOf_undoes : Undoes Tag.code tagOf := by unfold Undoes; decide
theorem cmpOpOf_undoes : Undoes CmpOp.code cmpOpOf := by unfold Undoes; decide
theorem scopeOf_undoes : Undoes Scope.code scopeOf := by unfold Undoes; decide
theorem engineOf_undoes : Undoes EngineId.code engineOf := by unfold Undoes; decide
theorem ctlRegOf_undoes : Undoes CtlReg.code ctlRegOf := by unfold Undoes; decide
theorem bodyKindOf_undoes : Undoes BodyKind.code bodyKindOf := by unfold Undoes; decide
theorem queryOf_undoes : Undoes QueryField.code queryOf := by unfold Undoes; decide

@[simp] theorem code_ftypeOf (b : BitVec 2) : (ftypeOf b).code = b := by revert b; decide
@[simp] theorem code_itypeOf (b : BitVec 2) : (itypeOf b).code = b := by revert b; decide
@[simp] theorem code_cmpTyOf (b : BitVec 3) : (cmpTyOf b).code = b := by revert b; decide

/-! ## What a decoder's answer satisfies -/

/-- If the decoder answers, its answer satisfies `P`. -/
def Yields {α : Type} (e : Except Reject α) (P : α → Prop) : Prop := ∀ a, e = .ok a → P a

section yields
variable {α β : Type} {P : β → Prop}

theorem Yields.ok {b : β} (h : P b) : Yields (.ok b) P := fun _ e => Except.ok.inj e ▸ h

theorem Yields.error {r : Reject} : Yields (.error r) P := nofun

/-- What follows a check may use it. -/
theorem Yields.require {c : Bool} {r : Reject} {f : Unit → Except Reject β} (h : c = true → Yields (f ()) P) :
    Yields (Sys2Proof.require c r >>= f) P := by
  cases c with
  | false => exact nofun
  | true => exact h rfl

/-- What follows the check of a reserved field may use that it is 0. -/
theorem Yields.zero {l k n : Nat} {w : BitVec l} {r : Reject} {f : Unit → Except Reject β}
    (h : FieldIs w k (0 : BitVec n) → Yields (f ()) P) :
    Yields (Sys2Proof.require (w.extractLsb' k n == 0) r >>= f) P :=
  .require fun hc => h (eq_of_beq hc)

/-- What follows the check of two reserved fields may use that both are 0. -/
theorem Yields.zero₂ {l j m k n : Nat} {w : BitVec l} {r : Reject} {f : Unit → Except Reject β}
    (h : FieldIs w j (0 : BitVec m) → FieldIs w k (0 : BitVec n) → Yields (f ()) P) :
    Yields (Sys2Proof.require (w.extractLsb' j m == 0 && w.extractLsb' k n == 0) r >>= f) P :=
  .require fun hc => by
    obtain ⟨hj, hk⟩ := Bool.and_eq_true_iff.mp hc
    exact h (eq_of_beq hj) (eq_of_beq hk)

/-- What follows the check of three reserved fields may use that all are 0. -/
theorem Yields.zero₃ {l i p j m k n : Nat} {w : BitVec l} {r : Reject} {f : Unit → Except Reject β}
    (h : FieldIs w i (0 : BitVec p) → FieldIs w j (0 : BitVec m) → FieldIs w k (0 : BitVec n) → Yields (f ()) P) :
    Yields (Sys2Proof.require (w.extractLsb' i p == 0 && w.extractLsb' j m == 0 && w.extractLsb' k n == 0) r >>= f) P :=
  .require fun hc => by
    obtain ⟨hij, hk⟩ := Bool.and_eq_true_iff.mp hc
    obtain ⟨hi, hj⟩ := Bool.and_eq_true_iff.mp hij
    exact h (eq_of_beq hi) (eq_of_beq hj) (eq_of_beq hk)

/-- What follows a field may use that the field holds the code of what was read. -/
theorem Yields.field {n l k : Nat} {w : BitVec l} {code : α → BitVec n} {g : BitVec n → Except Reject α}
    {f : α → Except Reject β} (hg : Undoes code g) (h : ∀ a, FieldIs w k (code a) → Yields (f a) P) :
    Yields (g (w.extractLsb' k n) >>= f) P := by
  have undone := hg (w.extractLsb' k n)
  cases ha : g (w.extractLsb' k n) with
  | error r => exact nofun
  | ok a =>
    rw [ha] at undone
    exact h a (beq_iff_eq.mp undone).symm

/-- A choice satisfies what both its sides do. -/
theorem Yields.ite {c : Bool} {x y : Except Reject β} (hx : c = true → Yields x P) (hy : c = false → Yields y P) :
    Yields (if c then x else y) P := by
  cases c with
  | false => exact hy rfl
  | true => exact hx rfl

theorem Yields.map {x : Except Reject α} {f : α → β} (h : Yields x fun a => P (f a)) : Yields (x.map f) P := by
  cases x with
  | error r => exact nofun
  | ok a => exact .ok (h a rfl)

end yields

/-!
The decoder drops nothing (R150 to R161): an instruction it reads is well formed, and its encoding is the word read.
-/

/-- The instruction is well formed and `w` is its encoding. -/
def Encodes (w : BitVec 32) (i : Instr) : Prop := i.WellFormed ∧ encode32 i = some w

/-- `crr` of a register of one word names s0. -/
theorem wf_crr {w : BitVec 32} {k : Nat} {cr : CtlReg} {sa : SSrc} {sd : BitVec 6}
    (h : (cr.words != 1 || w.extractLsb' k 7 == 0) = true) (ha : FieldIs w k sa.bits) :
    (Instr.crr cr sa sd).WellFormed :=
  Bool.or_eq_true_iff.mpr ((Bool.or_eq_true_iff.mp h).imp_right fun hz =>
    beq_iff_eq.mpr (SSrc.eq_of_bits_zero (ha.symm.trans (eq_of_beq hz))))

section words
variable {w : BitVec 32} (h0 : FieldIs w 0 1#1)
include h0

/-! ### Vectors (R183 to R200) -/

/-- Majors 1 to 4, format F. -/
theorem decodeF_encodes :
    (FieldIs w 1 1#6 → Yields (decodeFF32 w) (Encodes w)) ∧ (FieldIs w 1 2#6 → Yields (decodeFF64 w) (Encodes w)) ∧
    (FieldIs w 1 3#6 → Yields (decodeFF16 w) (Encodes w)) ∧ (FieldIs w 1 4#6 → Yields (decodeFBf16 w) (Encodes w)) := by
  have bound := (w.extractLsb' 9 2).isLt
  refine ⟨fun hm => ?_, fun hm => ?_, fun hm => ?_, fun hm => ?_⟩ <;>
    refine .field vsrcOf_undoes fun _ hb => .field vsrcOf_undoes fun _ ha => ?_ <;>
    split <;> exact .ok ⟨rfl, congrArg some ((asmF_iff ..).2 ⟨⟨hb, ha, rfl, rfl, .of_toNat (by lia), rfl⟩, hm, h0⟩)⟩

theorem decodeDiv_encodes (hm : FieldIs w 1 5#6) : Yields (decodeDiv w) (Encodes w) :=
  .field vsrcOf_undoes fun _ hb => .field vsrcOf_undoes fun _ ha =>
    .ok ⟨rfl, congrArg some ((asmF_iff ..).2 ⟨⟨hb, ha, rfl, rfl, (code_ftypeOf _).symm, rfl⟩, hm, h0⟩)⟩

theorem decodeMinMax_encodes (hm : FieldIs w 1 6#6) : Yields (decodeMinMax w) (Encodes w) :=
  .require fun hfn => .field vsrcOf_undoes fun _ hb => .field vsrcOf_undoes fun _ ha => by
    have bound := (w.extractLsb' 7 2).isLt
    have listed := toNat_ne_of_bne hfn
    split <;> exact .ok ⟨rfl, congrArg some ((asmF_iff ..).2
      ⟨⟨hb, ha, rfl, rfl, (code_ftypeOf _).symm, .of_toNat (by lia)⟩, hm, h0⟩)⟩

theorem decodeUnary_encodes (hm : FieldIs w 1 7#6) : Yields (decodeUnary w) (Encodes w) :=
  .require fun hfn => .field vsrcOf_undoes fun _ ha => .require fun hrm => by
    have hfn := toNat_lt_of_ult hfn
    have hrm : (w.extractLsb' 25 7).toNat < 9 ∨ FieldIs w 7 0#2 :=
      (Bool.or_eq_true_iff.mp hrm).imp toNat_lt_of_ult eq_of_beq
    split
    case h_10 | h_11 | h_12 =>
      exact .ok ⟨rfl, congrArg some ((asmF_iff ..).2
        ⟨⟨.of_toNat (by lia), ha, rfl, rfl, (code_ftypeOf _).symm, hrm.resolve_left (by lia)⟩, hm, h0⟩)⟩
    all_goals exact .ok ⟨rfl, congrArg some ((asmF_iff ..).2
      ⟨⟨.of_toNat ‹_›, ha, rfl, rfl, (code_ftypeOf _).symm, rfl⟩, hm, h0⟩)⟩

/-- Majors 8 to 11: bits 6 to 3 are 2, bits 2 and 1 the type. -/
theorem decodeInt_encodes (hm : FieldIs w 3 2#4) : Yields (decodeInt w) (Encodes w) :=
  .require fun hfn => by
    obtain ⟨h15, hsigned⟩ := Bool.and_eq_true_iff.mp hfn
    refine .ite (fun hu => ?_) (fun hb => ?_)
    · have signed : w.getLsbD 1 = false := by
        rw [bne, bne, ← Bool.not_or, hu] at hsigned
        simpa using hsigned
      refine .zero fun hb => .field vsrcOf_undoes fun _ ha => .ite (fun hfn => ?_) (fun hfn => ?_)
      · exact .ok ⟨rfl, congrArg some ((asmV_iff ..).2
          ⟨⟨hb, ha, rfl, rfl, eq_of_beq hfn⟩, .append (.append hm (.bit rfl)) (.bit signed), h0⟩)⟩
      · rw [hfn, Bool.false_or] at hu
        exact .ok ⟨rfl, congrArg some ((asmV_iff ..).2
          ⟨⟨hb, ha, rfl, rfl, eq_of_beq hu⟩, .append (.append hm (.bit rfl)) (.bit signed), h0⟩)⟩
    · have bound := (w.extractLsb' 7 4).isLt
      obtain ⟨h10, h11⟩ := Bool.or_eq_false_iff.mp hb
      have h10 := toNat_ne_of_beq h10
      have h11 := toNat_ne_of_beq h11
      have h15 := toNat_ne_of_bne h15
      refine .field vsrcOf_undoes fun _ hb => .field vsrcOf_undoes fun _ ha => ?_
      split <;> exact .ok ⟨rfl, congrArg some ((asmV_iff ..).2
        ⟨⟨hb, ha, rfl, rfl, .of_toNat (by lia)⟩, .append hm (code_itypeOf _).symm, h0⟩)⟩

theorem decodeBits_encodes (hm : FieldIs w 1 12#6) : Yields (decodeBits w) (Encodes w) :=
  .require fun hfn => by
    have hfn := toNat_lt_of_ult hfn
    refine .ite (fun hb => ?_) (fun hu => ?_)
    · have two : (w.extractLsb' 7 4).toNat ≤ 3 ∨ (w.extractLsb' 7 4).toNat = 8 :=
        (Bool.or_eq_true_iff.mp hb).imp toNat_le_of_ule fun h => congrArg BitVec.toNat (eq_of_beq h)
      refine .field vsrcOf_undoes fun _ hb => .field vsrcOf_undoes fun _ ha => ?_
      split <;> exact .ok ⟨rfl, congrArg some ((asmV_iff ..).2 ⟨⟨hb, ha, rfl, rfl, .of_toNat (by lia)⟩, hm, h0⟩)⟩
    · obtain ⟨h3, h8⟩ := Bool.or_eq_false_iff.mp hu
      have h3 : ¬ (w.extractLsb' 7 4).toNat ≤ 3 := by simpa [BitVec.ule] using h3
      have h8 := toNat_ne_of_beq h8
      refine .zero fun hb => .field vsrcOf_undoes fun _ ha => ?_
      split <;> exact .ok ⟨rfl, congrArg some ((asmV_iff ..).2 ⟨⟨hb, ha, rfl, rfl, .of_toNat (by lia)⟩, hm, h0⟩)⟩

theorem decodeCmp_encodes (hm : FieldIs w 1 13#6) : Yields (decodeCmp w) (Encodes w) :=
  .field cmpOpOf_undoes fun _ hc => .require fun hwf => .require fun hr => .field vsrcOf_undoes fun _ hb =>
    .field vsrcOf_undoes fun _ ha => .ok ⟨hwf, congrArg some ((formatVM_iff ..).2
      ⟨⟨hb, ha, (code_cmpTyOf _).symm, rfl, (Bool.not_eq_true' _).mp hr, hc⟩, hm, h0⟩)⟩

theorem decodeCvt_encodes (hm : FieldIs w 1 14#6) : Yields (decodeCvt w) (Encodes w) :=
  .field tagOf_undoes fun _ hd => .require fun ht => .require fun hr => .field vsrcOf_undoes fun _ ha =>
    .require fun hb => by
      obtain ⟨h25, h7⟩ := Bool.and_eq_true_iff.mp hr
      exact .ok ⟨Bool.and_eq_true_iff.mpr ⟨ht, hb⟩, congrArg some ((formatC_iff ..).2
        ⟨⟨hd, rfl, (Bool.not_eq_true' _).mp h25, ha, rfl, rfl, rfl, (Bool.not_eq_true' _).mp h7⟩, hm, h0⟩)⟩

theorem decodeVaddi_encodes (hm : FieldIs w 1 15#6) : Yields (decodeVaddi w) (Encodes w) :=
  .field vsrcOf_undoes fun _ ha => .ok ⟨rfl, congrArg some ((asmVI_iff ..).2 ⟨⟨rfl, ha, rfl, rfl⟩, hm, h0⟩)⟩

theorem decodeVshi_encodes (hm : FieldIs w 1 16#6) : Yields (decodeVshi w) (Encodes w) :=
  .zero fun hz => .field vsrcOf_undoes fun _ ha => by
    have bound := (w.extractLsb' 26 2).isLt
    split <;> exact .ok ⟨rfl, congrArg some ((asmVI_iff ..).2
      ⟨⟨.append (.append hz (.of_toNat (by lia))) rfl, ha, rfl, rfl⟩, hm, h0⟩)⟩

theorem decodeCross_encodes (hm : FieldIs w 1 17#6) : Yields (decodeCross w) (Encodes w) :=
  .require fun hfn => by
    have hfn := toNat_lt_of_ult hfn
    refine .ite (fun hv => ?_) (fun hs => .ite (fun hk => ?_) (fun hk => ?_))
    · have hv := toNat_le_of_ule hv
      refine .field vsrcOf_undoes fun _ ha => .field vsrcOf_undoes fun _ hb => .ite (fun h => ?_) (fun h => ?_)
      · exact .ok ⟨rfl, congrArg some ((asmV_iff ..).2 ⟨⟨hb, ha, rfl, rfl, eq_of_beq h⟩, hm, h0⟩)⟩
      · have h := toNat_ne_of_beq h
        exact .ok ⟨rfl, congrArg some ((asmV_iff ..).2 ⟨⟨hb, ha, rfl, rfl, .of_toNat (by lia)⟩, hm, h0⟩)⟩
    · exact .field ssrcOf_undoes fun _ ha => .field vsrcOf_undoes fun _ hb =>
        .ok ⟨rfl, congrArg some ((asmV_iff ..).2 ⟨⟨hb, ha, rfl, rfl, eq_of_beq hk⟩, hm, h0⟩)⟩
    · have hs : ¬ (w.extractLsb' 7 4).toNat ≤ 1 := by simpa [BitVec.ule] using hs
      have hk := toNat_ne_of_beq hk
      refine .field vsrcOf_undoes fun _ ha => .field ssrcOf_undoes fun _ hb => ?_
      split <;> exact .ok ⟨rfl, congrArg some ((asmV_iff ..).2 ⟨⟨hb, ha, rfl, rfl, .of_toNat (by lia)⟩, hm, h0⟩)⟩

theorem decodeMoves_encodes (hm : FieldIs w 1 18#6) : Yields (decodeMoves w) (Encodes w) :=
  .require fun hfn => by
    have hfn := toNat_lt_of_ult hfn
    split
    · exact .zero fun hb => .field vsrcOf_undoes fun _ ha =>
        .ok ⟨rfl, congrArg some ((asmV_iff ..).2 ⟨⟨hb, ha, rfl, rfl, .of_toNat ‹_›⟩, hm, h0⟩)⟩
    · exact .field tagOf_undoes fun _ ht => .zero fun hz => .field vsrcOf_undoes fun _ ha =>
        .ok ⟨rfl, congrArg some ((asmV_iff ..).2 ⟨⟨.append hz ht, ha, rfl, rfl, .of_toNat ‹_›⟩, hm, h0⟩)⟩
    · refine .zero fun hz => ?_
      obtain ⟨hb, ha⟩ := (fieldIs_append w 18 0#7 0#7).1 hz
      exact .ok ⟨rfl, congrArg some ((asmV_iff ..).2 ⟨⟨hb, ha, rfl, rfl, .of_toNat ‹_›⟩, hm, h0⟩)⟩
    · exact .field vsrcOf_undoes fun _ ha => .field ssrcOf_undoes fun _ hb =>
        .ok ⟨rfl, congrArg some ((asmV_iff ..).2 ⟨⟨hb, ha, rfl, rfl, .of_toNat ‹_›⟩, hm, h0⟩)⟩
    · exact .field vsrcOf_undoes fun _ ha => .field vsrcOf_undoes fun _ hb =>
        .ok ⟨rfl, congrArg some ((asmV_iff ..).2 ⟨⟨hb, ha, rfl, rfl, .of_toNat ‹_›⟩, hm, h0⟩)⟩
    · exact .field tagOf_undoes fun _ ht => .zero fun hz => .field vsrcOf_undoes fun _ ha =>
        .ok ⟨rfl, congrArg some ((asmV_iff ..).2 ⟨⟨.append hz ht, ha, rfl, rfl, .of_toNat ‹_›⟩, hm, h0⟩)⟩
    · exact .zero fun hz => .field vsrcOf_undoes fun _ ha => .field vsrcOf_undoes fun _ hb =>
        .ok ⟨rfl, congrArg some ((asmV_iff ..).2 ⟨⟨hb, ha, ((fieldIs_append w 11 0#6 0#1).1 hz).1,
          (fieldIs_bit w 11 false).1 ((fieldIs_append w 11 0#6 0#1).1 hz).2, .of_toNat ‹_›⟩, hm, h0⟩)⟩
    · exact .field ssrcOf_undoes fun _ ha => .field ssrcOf_undoes fun _ hb =>
        .ok ⟨rfl, congrArg some ((asmV_iff ..).2 ⟨⟨hb, ha, rfl, rfl, .of_toNat ‹_›⟩, hm, h0⟩)⟩
    · exact .zero₂ fun hb hz => .field vsrcOf_undoes fun _ ha =>
        .ok ⟨rfl, congrArg some ((asmV_iff ..).2 ⟨⟨hb, ha, .append hz rfl, rfl, .of_toNat (by lia)⟩, hm, h0⟩)⟩

theorem decodeDot_encodes (hm : FieldIs w 1 19#6) : Yields (decodeDot w) (Encodes w) :=
  .zero fun hz => .field vsrcOf_undoes fun _ hb => .field vsrcOf_undoes fun _ ha => by
    have bound := (w.extractLsb' 9 2).isLt
    split <;> exact .ok ⟨rfl, congrArg some ((asmF_iff ..).2 ⟨⟨hb, ha, rfl, rfl, .of_toNat (by lia), hz⟩, hm, h0⟩)⟩

/-! ### Scalars, masks and control (R163 to R181) -/

theorem decodeScalar_encodes (hm : FieldIs w 1 20#6) : Yields (decodeScalar w) (Encodes w) :=
  .require fun hfn => by
    have hfn := toNat_lt_of_ult hfn
    refine .ite (fun h => ?_) (fun h => ?_)
    · have h := toNat_lt_of_ult h
      refine .field ssrcOf_undoes fun _ hb => .field ssrcOf_undoes fun _ ha => ?_
      split <;> exact .ok ⟨rfl, congrArg some ((asmE_iff ..).2 ⟨⟨hb, ha, rfl, .of_toNat (by lia)⟩, hm, h0⟩)⟩
    · have h : ¬ (w.extractLsb' 7 5).toNat < 24 := by simpa [BitVec.ult] using h
      refine .zero fun hb => .field ssrcOf_undoes fun _ ha => ?_
      split <;> exact .ok ⟨rfl, congrArg some ((asmE_iff ..).2 ⟨⟨hb, ha, rfl, .of_toNat (by lia)⟩, hm, h0⟩)⟩

/-- Majors 21 to 24, format SI. -/
theorem decodeSI_encodes :
    (FieldIs w 1 21#6 → Yields (decodeSaddi w) (Encodes w)) ∧ (FieldIs w 1 22#6 → Yields (decodeSandi w) (Encodes w)) ∧
    (FieldIs w 1 23#6 → Yields (decodeSori w) (Encodes w)) ∧
    (FieldIs w 1 24#6 → Yields (decodeSxori w) (Encodes w)) := by
  refine ⟨fun hm => ?_, fun hm => ?_, fun hm => ?_, fun hm => ?_⟩ <;>
    exact .field ssrcOf_undoes fun _ ha => .ok ⟨rfl, congrArg some ((asmSI_iff ..).2 ⟨⟨rfl, ha, rfl⟩, hm, h0⟩)⟩

theorem decodeSshi_encodes (hm : FieldIs w 1 25#6) : Yields (decodeSshi w) (Encodes w) :=
  .zero fun hz => .field ssrcOf_undoes fun _ ha => by
    have bound := (w.extractLsb' 26 2).isLt
    split <;> exact .ok ⟨rfl, congrArg some ((asmSI_iff ..).2
      ⟨⟨.append (.append hz (.of_toNat (by lia))) rfl, ha, rfl⟩, hm, h0⟩)⟩

theorem decodeSu_encodes (hm : FieldIs w 1 26#6) : Yields (decodeSu w) (Encodes w) :=
  .ite (fun hk => .ok ⟨rfl, congrArg some ((asmSU_iff (k := true) ..).2 ⟨⟨rfl, rfl, rfl, hk⟩, hm, h0⟩)⟩)
    (fun hk => .ok ⟨rfl, congrArg some ((asmSU_iff (k := false) ..).2 ⟨⟨rfl, rfl, rfl, hk⟩, hm, h0⟩)⟩)

theorem decodeMask_encodes (hm : FieldIs w 1 27#6) : Yields (decodeMask w) (Encodes w) :=
  .require fun hfn => by
    have hfn := toNat_lt_of_ult hfn
    split
    case h_1 | h_2 | h_3 | h_4 =>
      exact .zero₃ fun hb ha hd => .ok ⟨rfl, congrArg some ((asmE_iff ..).2
        ⟨⟨.append hb rfl, .append ha rfl, .append hd rfl, .of_toNat ‹_›⟩, hm, h0⟩)⟩
    case h_5 | h_6 =>
      exact .zero₃ fun hb ha hd => .ok ⟨rfl, congrArg some ((asmE_iff ..).2
        ⟨⟨hb, .append ha rfl, .append hd rfl, .of_toNat ‹_›⟩, hm, h0⟩)⟩
    case h_7 | h_8 =>
      exact .zero₂ fun hb ha => .ok ⟨rfl, congrArg some ((asmE_iff ..).2
        ⟨⟨hb, .append ha rfl, rfl, .of_toNat ‹_›⟩, hm, h0⟩)⟩
    case h_9 =>
      exact .zero₃ fun hb ha hd => .ok ⟨rfl, congrArg some ((asmE_iff ..).2
        ⟨⟨hb, ha, .append hd rfl, .of_toNat ‹_›⟩, hm, h0⟩)⟩
    case h_10 =>
      exact .require fun hk => .zero fun ha => .ok ⟨hk, congrArg some ((asmE_iff ..).2
        ⟨⟨rfl, .append ha rfl, rfl, .of_toNat ‹_›⟩, hm, h0⟩)⟩
    case h_11 =>
      exact .require fun hk => .zero fun hd => .field ssrcOf_undoes fun _ ha => .ok ⟨hk, congrArg some ((asmE_iff ..).2
        ⟨⟨rfl, ha, .append hd rfl, .of_toNat (by lia)⟩, hm, h0⟩)⟩

theorem decodeBs_encodes (hm : FieldIs w 1 28#6) : Yields (decodeBs w) (Encodes w) :=
  .field ssrcOf_undoes fun _ ha => by
    have bound := (w.extractLsb' 14 2).isLt
    split <;> exact .ok ⟨rfl, congrArg some ((asmBS_iff ..).2 ⟨⟨rfl, .of_toNat (by lia), ha⟩, hm, h0⟩)⟩

theorem decodeBdiv_encodes (hm : FieldIs w 1 29#6) : Yields (decodeBdiv w) (Encodes w) :=
  .require fun hj => .ok ⟨hj, congrArg some ((formatBD_iff ..).2 ⟨⟨rfl, rfl, rfl⟩, hm, h0⟩)⟩

theorem decodeJ_encodes (hm : FieldIs w 1 30#6) : Yields (decodeJ w) (Encodes w) :=
  .ite (fun hk => .ok ⟨rfl, congrArg some ((formatJ_iff (k := true) ..).2 ⟨⟨rfl, hk⟩, hm, h0⟩)⟩)
    (fun hk => .ok ⟨rfl, congrArg some ((formatJ_iff (k := false) ..).2 ⟨⟨rfl, hk⟩, hm, h0⟩)⟩)

theorem decodeControl_encodes (hm : FieldIs w 1 31#6) : Yields (decodeControl w) (Encodes w) :=
  .require fun hfn => by
    have hfn := toNat_lt_of_ult hfn
    split
    case h_1 | h_5 | h_6 | h_7 =>
      exact .zero₃ fun hb ha hd => .ok ⟨rfl, congrArg some ((asmE_iff ..).2 ⟨⟨hb, ha, hd, .of_toNat ‹_›⟩, hm, h0⟩)⟩
    case h_2 | h_3 =>
      exact .zero₂ fun hb hd => .field ssrcOf_undoes fun _ ha =>
        .ok ⟨rfl, congrArg some ((asmE_iff ..).2 ⟨⟨hb, ha, hd, .of_toNat ‹_›⟩, hm, h0⟩)⟩
    case h_4 =>
      exact .zero₂ fun hb hd => .field vsrcOf_undoes fun _ ha =>
        .ok ⟨rfl, congrArg some ((asmE_iff ..).2 ⟨⟨hb, ha, hd, .of_toNat ‹_›⟩, hm, h0⟩)⟩
    case h_8 =>
      exact .zero₂ fun hb ha => .ok ⟨rfl, congrArg some ((asmE_iff ..).2
        ⟨⟨.append hb rfl, ha, rfl, .of_toNat ‹_›⟩, hm, h0⟩)⟩
    case h_9 =>
      exact .require fun hb => .zero fun ha => .ok ⟨rfl, congrArg some ((asmE_iff ..).2
        ⟨⟨.append (.zero_of_lt (toNat_lt_of_ult hb) (by decide)) (.bit rfl), ha, rfl, .of_toNat ‹_›⟩, hm, h0⟩)⟩
    case h_10 =>
      refine .require fun hb => .zero fun ha => .ok ⟨?_, congrArg some ((asmE_iff ..).2
        ⟨⟨.append (.zero_of_lt (toNat_lt_of_ult hb) (by decide)) rfl, ha, rfl, .of_toNat (by lia)⟩, hm, h0⟩)⟩
      have low : _ ≤ (w.extractLsb' 25 7).toNat := toNat_low_le w 25 3 4
      have hb := toNat_lt_of_ult hb
      exact decide_eq_true (show (w.extractLsb' 25 4).toNat ≤ 13 by omega)

/-! ### Memory and synchronisation (R203 to R221) -/

/-- Majors 32 to 35, format M. -/
theorem decodeM_encodes :
    (FieldIs w 1 32#6 → Yields (decodeLd w) (Encodes w)) ∧ (FieldIs w 1 33#6 → Yields (decodeSt w) (Encodes w)) ∧
    (FieldIs w 1 34#6 → Yields (decodeSld w) (Encodes w)) ∧ (FieldIs w 1 35#6 → Yields (decodeSst w) (Encodes w)) := by
  refine ⟨fun hm => ?_, fun hm => ?_, fun hm => ?_, fun hm => ?_⟩ <;>
    exact .field fmtOf_undoes fun _ hf => .field vsrcOf_undoes fun _ hx =>
      .ok ⟨rfl, congrArg some ((asmM_iff ..).2 ⟨⟨rfl, hx, rfl, hf, rfl⟩, hm, h0⟩)⟩

theorem decodeAtomic_encodes (hm : FieldIs w 1 36#6) : Yields (decodeAtomic w) (Encodes w) :=
  .require fun hop => .field fmtOf_undoes fun _ hf => by
    obtain ⟨h6, h7⟩ := Bool.and_eq_true_iff.mp hop
    have h6 := toNat_ne_of_bne h6
    have h7 := toNat_ne_of_bne h7
    have bound := (w.extractLsb' 7 4).isLt
    split <;> exact .require fun hwf => .field vsrcOf_undoes fun _ hx =>
      .ok ⟨hwf, congrArg some ((asmM_iff ..).2 ⟨⟨rfl, hx, rfl, hf, .of_toNat (by lia)⟩, hm, h0⟩)⟩

theorem decodeFullEmpty_encodes (hm : FieldIs w 1 37#6) : Yields (decodeFullEmpty w) (Encodes w) :=
  .require fun hop => .field fmtOf_undoes fun _ hf => .require fun hwf => .field vsrcOf_undoes fun _ hx => by
    have hop := toNat_lt_of_ult hop
    split <;> exact .ok ⟨hwf, congrArg some ((asmM_iff ..).2 ⟨⟨rfl, hx, rfl, hf, .of_toNat (by lia)⟩, hm, h0⟩)⟩

theorem decodeSync_encodes (hm : FieldIs w 1 38#6) : Yields (decodeSync w) (Encodes w) :=
  .require fun hfn => by
    have hfn := toNat_lt_of_ult hfn
    split
    case h_1 | h_2 | h_4 =>
      exact .field scopeOf_undoes fun _ hc => .zero₃ fun hz ha hd =>
        .ok ⟨rfl, congrArg some ((asmE_iff ..).2 ⟨⟨.append hz hc, ha, hd, .of_toNat ‹_›⟩, hm, h0⟩)⟩
    case h_3 =>
      exact .field scopeOf_undoes fun _ hc => .zero₂ fun hz hd => .field ssrcOf_undoes fun _ ha =>
        .ok ⟨rfl, congrArg some ((asmE_iff ..).2 ⟨⟨.append hz hc, ha, hd, .of_toNat ‹_›⟩, hm, h0⟩)⟩
    case h_5 | h_6 =>
      exact .field scopeOf_undoes fun _ hc => .require fun hwf => .zero₂ fun hz ha =>
        .ok ⟨hwf, congrArg some ((asmE_iff ..).2 ⟨⟨.append hz hc, ha, rfl, .of_toNat ‹_›⟩, hm, h0⟩)⟩
    case h_7 =>
      exact .zero₂ fun hb hd => .field ssrcOf_undoes fun _ ha =>
        .ok ⟨rfl, congrArg some ((asmE_iff ..).2 ⟨⟨hb, ha, hd, .of_toNat ‹_›⟩, hm, h0⟩)⟩
    case h_8 | h_9 =>
      exact .zero₃ fun hb ha hd => .ok ⟨rfl, congrArg some ((asmE_iff ..).2 ⟨⟨hb, ha, hd, .of_toNat (by lia)⟩, hm, h0⟩)⟩

theorem decodeSpawn_encodes (hm : FieldIs w 1 39#6) : Yields (decodeSpawn w) (Encodes w) :=
  .require fun hfn => by
    have hfn := toNat_lt_of_ult hfn
    refine .ite (fun h => ?_) (fun h => ?_)
    · exact .require fun hnp => .field ssrcOf_undoes fun _ ha =>
        .ok ⟨hnp, congrArg some ((asmE_iff ..).2 ⟨⟨.append rfl rfl, ha, rfl, eq_of_beq h⟩, hm, h0⟩)⟩
    · have h := toNat_ne_of_beq h
      exact .zero₂ fun hb hd => .field ssrcOf_undoes fun _ ha =>
        .ok ⟨rfl, congrArg some ((asmE_iff ..).2 ⟨⟨hb, ha, hd, .of_toNat (by lia)⟩, hm, h0⟩)⟩

theorem decodeCopy_encodes (hm : FieldIs w 1 40#6) : Yields (decodeCopy w) (Encodes w) :=
  .require fun hfn => by
    have hfn := toNat_lt_of_ult hfn
    split
    · exact .require fun hr => .field ssrcOf_undoes fun _ ha => .ok ⟨rfl, congrArg some ((asmE_iff ..).2
        ⟨⟨.append (.bit (b := false) ((Bool.not_eq_true' _).mp hr)) rfl, ha, rfl, .of_toNat ‹_›⟩, hm, h0⟩)⟩
    · exact .zero₂ fun hb ha => .ok ⟨rfl, congrArg some ((asmE_iff ..).2 ⟨⟨hb, ha, rfl, .of_toNat ‹_›⟩, hm, h0⟩)⟩
    · exact .zero₂ fun hb hd => .field ssrcOf_undoes fun _ ha =>
        .ok ⟨rfl, congrArg some ((asmE_iff ..).2 ⟨⟨hb, ha, hd, .of_toNat (by lia)⟩, hm, h0⟩)⟩

theorem decodeTile_encodes (hm : FieldIs w 1 41#6) : Yields (decodeTile w) (Encodes w) :=
  .require fun hfn => .zero fun hb => by
    have hfn := toNat_lt_of_ult hfn
    split
    case h_1 | h_4 =>
      exact .field ssrcOf_undoes fun _ ha =>
        .ok ⟨rfl, congrArg some ((asmE_iff ..).2 ⟨⟨hb, ha, rfl, .of_toNat (by lia)⟩, hm, h0⟩)⟩
    case h_2 | h_3 =>
      exact .zero fun hd => .field ssrcOf_undoes fun _ ha =>
        .ok ⟨rfl, congrArg some ((asmE_iff ..).2 ⟨⟨hb, ha, hd, .of_toNat ‹_›⟩, hm, h0⟩)⟩

/-! ### Matrices, streams, islands, engines and the system (R243 to R301) -/

theorem decodeMm_encodes (hm : FieldIs w 1 42#6) : Yields (decodeMm w) (Encodes w) :=
  .field tagOf_undoes fun _ hf => .require fun hwf => .ite
    (fun hk => .ok ⟨hwf, congrArg some ((asmMX_iff (sp := true) ..).2 ⟨⟨hf, rfl, rfl, rfl, rfl, hk⟩, hm, h0⟩)⟩)
    (fun hk => .ok ⟨hwf, congrArg some ((asmMX_iff (sp := false) ..).2 ⟨⟨hf, rfl, rfl, rfl, rfl, hk⟩, hm, h0⟩)⟩)

/-- Majors 43 and 44, format MO. -/
theorem decodeMO_encodes :
    (FieldIs w 1 43#6 → Yields (decodeMmo w) (Encodes w)) ∧
    (FieldIs w 1 44#6 → Yields (decodeMmoSp w) (Encodes w)) := by
  refine ⟨fun hm => ?_, fun hm => ?_⟩ <;>
    exact .field tagOf_undoes fun _ hf => .require fun hwf =>
      .ok ⟨hwf, congrArg some ((asmMO_iff ..).2 ⟨⟨hf, rfl, rfl, rfl, rfl⟩, hm, h0⟩)⟩

theorem decodeAcc_encodes (hm : FieldIs w 1 45#6) : Yields (decodeAcc w) (Encodes w) :=
  .require fun hfn => by
    have hfn := toNat_lt_of_ult hfn
    split
    case h_1 =>
      exact .zero fun hb => .field ssrcOf_undoes fun _ ha =>
        .ok ⟨rfl, congrArg some ((asmE_iff ..).2 ⟨⟨hb, ha, rfl, .of_toNat ‹_›⟩, hm, h0⟩)⟩
    case h_2 | h_3 =>
      exact .zero₃ fun hz ha hd => .ok ⟨rfl, congrArg some ((asmE_iff ..).2
        ⟨⟨.append hz rfl, ha, hd, .of_toNat ‹_›⟩, hm, h0⟩)⟩
    case h_4 =>
      refine .ite (fun hk => ?_) (fun hk => ?_)
      · exact .zero fun hz => .field ssrcOf_undoes fun _ ha => .ok ⟨rfl, congrArg some ((asmE_iff ..).2
          ⟨⟨.append (.append (.bit rfl) (.bit (b := true) hk)) hz, ha, rfl, .of_toNat (by lia)⟩, hm, h0⟩)⟩
      · exact .field ssrcOf_undoes fun _ ha => .ok ⟨rfl, congrArg some ((asmE_iff ..).2
          ⟨⟨.append (.append (.bit rfl) (.bit (b := false) hk)) rfl, ha, rfl, .of_toNat (by lia)⟩, hm, h0⟩)⟩

theorem decodeSetup_encodes (hm : FieldIs w 1 46#6) : Yields (decodeSetup w) (Encodes w) :=
  .require fun hfn => by
    have hfn := toNat_lt_of_ult hfn
    split
    case h_1 =>
      refine .zero fun hz => .ite (fun hk => ?_) (fun hk => ?_)
      · exact .zero₂ fun ha hd => .ok ⟨rfl, congrArg some ((asmE_iff ..).2
          ⟨⟨.append (x := 0#6) hz (.bit (b := true) hk), ha, hd, .of_toNat ‹_›⟩, hm, h0⟩)⟩
      · exact .field ssrcOf_undoes fun _ ha => .ok ⟨rfl, congrArg some ((asmE_iff ..).2
          ⟨⟨.append (x := 0#6) hz (.bit (b := false) hk), ha, rfl, .of_toNat ‹_›⟩, hm, h0⟩)⟩
    case h_2 | h_3 =>
      exact .zero₂ fun hz hd => .field ssrcOf_undoes fun _ ha => .ok ⟨rfl, congrArg some ((asmE_iff ..).2
        ⟨⟨.append hz rfl, ha, hd, .of_toNat ‹_›⟩, hm, h0⟩)⟩
    case h_4 =>
      exact .zero₂ fun hz ha => .ok ⟨rfl, congrArg some ((asmE_iff ..).2
        ⟨⟨.append hz rfl, ha, rfl, .of_toNat ‹_›⟩, hm, h0⟩)⟩
    case h_5 =>
      exact .zero₂ fun hz hd => .field ssrcOf_undoes fun _ ha => .ok ⟨rfl, congrArg some ((asmE_iff ..).2
        ⟨⟨.append hz (.bit rfl), ha, hd, .of_toNat (by lia)⟩, hm, h0⟩)⟩

theorem decodeStream_encodes (hm : FieldIs w 1 47#6) : Yields (decodeStream w) (Encodes w) :=
  .require fun hfn => by
    have hfn := toNat_lt_of_ult hfn
    split
    case h_1 =>
      exact .zero₂ fun hz hd => .field ssrcOf_undoes fun _ ha => .ok ⟨rfl, congrArg some ((asmE_iff ..).2
        ⟨⟨.append (.append hz (.bit rfl)) rfl, ha, hd, .of_toNat ‹_›⟩, hm, h0⟩)⟩
    case h_2 =>
      exact .zero₂ fun hz hd => .field ssrcOf_undoes fun _ ha => .ok ⟨rfl, congrArg some ((asmE_iff ..).2
        ⟨⟨.append hz rfl, ha, hd, .of_toNat ‹_›⟩, hm, h0⟩)⟩
    case h_3 | h_4 | h_5 | h_6 =>
      refine .require fun hr => ?_
      obtain ⟨hr, hd⟩ := Bool.and_eq_true_iff.mp hr
      obtain ⟨hz, ha⟩ := Bool.and_eq_true_iff.mp hr
      have top : FieldIs w 31 (bit false) := .bit ((Bool.not_eq_true' _).mp hz)
      exact .ok ⟨rfl, congrArg some ((asmE_iff ..).2 ⟨⟨.append (.append top rfl) rfl, eq_of_beq ha,
        .append (x := 0#3) (eq_of_beq hd) rfl, .of_toNat ‹_›⟩, hm, h0⟩)⟩
    case h_7 =>
      exact .zero₂ fun hz ha => .ok ⟨rfl, congrArg some ((asmE_iff ..).2
        ⟨⟨.append hz rfl, ha, rfl, .of_toNat ‹_›⟩, hm, h0⟩)⟩
    case h_8 =>
      exact .zero fun hz => .field ssrcOf_undoes fun _ ha => .ok ⟨rfl, congrArg some ((asmE_iff ..).2
        ⟨⟨.append hz rfl, ha, rfl, .of_toNat (by lia)⟩, hm, h0⟩)⟩

theorem decodeIsland_encodes (hm : FieldIs w 1 48#6) : Yields (decodeIsland w) (Encodes w) :=
  .require fun hfn => by
    have hfn := toNat_lt_of_ult hfn
    split
    case h_1 | h_6 | h_8 =>
      exact .zero fun hb => .field ssrcOf_undoes fun _ ha =>
        .ok ⟨rfl, congrArg some ((asmE_iff ..).2 ⟨⟨hb, ha, rfl, .of_toNat ‹_›⟩, hm, h0⟩)⟩
    case h_2 =>
      exact .zero₂ fun hb hd => .field ssrcOf_undoes fun _ ha =>
        .ok ⟨rfl, congrArg some ((asmE_iff ..).2 ⟨⟨hb, ha, hd, .of_toNat ‹_›⟩, hm, h0⟩)⟩
    case h_3 =>
      exact .field bodyKindOf_undoes fun _ hk => .zero fun hz => .field ssrcOf_undoes fun _ ha =>
        .ok ⟨rfl, congrArg some ((asmE_iff ..).2 ⟨⟨.append hz hk, ha, rfl, .of_toNat ‹_›⟩, hm, h0⟩)⟩
    case h_4 | h_5 =>
      exact .zero fun hz => .field ssrcOf_undoes fun _ ha =>
        .ok ⟨rfl, congrArg some ((asmE_iff ..).2 ⟨⟨.append hz (.bit rfl), ha, rfl, .of_toNat ‹_›⟩, hm, h0⟩)⟩
    case h_7 =>
      exact .zero₃ fun hb ha hd => .ok ⟨rfl, congrArg some ((asmE_iff ..).2 ⟨⟨hb, ha, hd, .of_toNat ‹_›⟩, hm, h0⟩)⟩
    case h_9 =>
      exact .field queryOf_undoes fun _ hf => .zero fun hz => .field ssrcOf_undoes fun _ ha =>
        .ok ⟨rfl, congrArg some ((asmE_iff ..).2 ⟨⟨.append hz hf, ha, rfl, .of_toNat (by lia)⟩, hm, h0⟩)⟩

theorem decodeEngine_encodes (hm : FieldIs w 1 49#6) : Yields (decodeEngine w) (Encodes w) :=
  .require fun hfn => .field engineOf_undoes fun _ he => by
    have hfn := toNat_lt_of_ult hfn
    split
    case h_2 =>
      exact .zero fun ha => .ok ⟨rfl, congrArg some ((asmE_iff ..).2 ⟨⟨he, ha, rfl, .of_toNat ‹_›⟩, hm, h0⟩)⟩
    case h_1 | h_3 =>
      exact .field ssrcOf_undoes fun _ ha =>
        .ok ⟨rfl, congrArg some ((asmE_iff ..).2 ⟨⟨he, ha, rfl, .of_toNat (by lia)⟩, hm, h0⟩)⟩

theorem decodeCount_encodes (hm : FieldIs w 1 54#6) : Yields (decodeCount w) (Encodes w) :=
  .require fun hfn => .require fun hz => by
    have hfn := toNat_lt_of_ult hfn
    obtain ⟨hb, hz⟩ := (fieldIs_append w 15 0#7 0#10).1 (eq_of_beq hz)
    obtain ⟨ha, hd⟩ := (fieldIs_append w 15 0#7 0#3).1 hz
    refine .ite (fun h => ?_) (fun h => ?_)
    · exact .ok ⟨rfl, congrArg some ((asmE_iff ..).2 ⟨⟨hb, ha, .append hd rfl, eq_of_beq h⟩, hm, h0⟩)⟩
    · have h := toNat_ne_of_beq h
      exact .ok ⟨rfl, congrArg some ((asmE_iff ..).2 ⟨⟨hb, ha, .append hd rfl, .of_toNat (by lia)⟩, hm, h0⟩)⟩

theorem decodeSystem_encodes (hm : FieldIs w 1 55#6) : Yields (decodeSystem w) fun d => Encodes w d.toInstr :=
  .require fun hfn => by
    have hfn := toNat_lt_of_ult hfn
    split
    case h_1 =>
      exact .field ctlRegOf_undoes fun _ hc => .require fun hwf => .field ssrcOf_undoes fun _ ha =>
        .ok ⟨wf_crr hwf ha, congrArg some ((asmE_iff ..).2 ⟨⟨hc, ha, rfl, .of_toNat ‹_›⟩, hm, h0⟩)⟩
    case h_2 =>
      exact .field ctlRegOf_undoes fun _ hc => .require fun hwf => .field ssrcOf_undoes fun _ ha =>
        .ok ⟨hwf, congrArg some ((asmE_iff ..).2 ⟨⟨hc, ha, rfl, .of_toNat ‹_›⟩, hm, h0⟩)⟩
    case h_3 | h_4 =>
      exact .field ctlRegOf_undoes fun _ hc => .field ssrcOf_undoes fun _ ha => .require fun hwf =>
        .ok ⟨hwf, congrArg some ((asmE_iff ..).2 ⟨⟨hc, ha, rfl, .of_toNat ‹_›⟩, hm, h0⟩)⟩
    case h_5 =>
      exact .zero₃ fun hb ha hd => .ok ⟨rfl, congrArg some ((asmE_iff ..).2 ⟨⟨hb, ha, hd, .of_toNat ‹_›⟩, hm, h0⟩)⟩
    case h_6 | h_7 =>
      exact .zero₂ fun ha hd => .ok ⟨rfl, congrArg some ((asmE_iff ..).2 ⟨⟨rfl, ha, hd, .of_toNat ‹_›⟩, hm, h0⟩)⟩
    case h_8 | h_9 =>
      exact .field scopeOf_undoes fun _ hc => .require fun hwf => .zero₂ fun hz hd => .field ssrcOf_undoes fun _ ha =>
        .ok ⟨hwf, congrArg some ((asmE_iff ..).2 ⟨⟨.append hz hc, ha, hd, .of_toNat (by lia)⟩, hm, h0⟩)⟩

/-! ### Any word -/

omit h0 in
/-- What the hint space holds is well formed, and its encoding is the word of its two fields (R159). -/
theorem toInstr_hint (hk : BitVec 5) (p : BitVec 20) :
    (Decoded.hint hk p).toInstr.WellFormed ∧ encode32 (Decoded.hint hk p).toInstr = some (asmHint hk p) := by
  unfold Decoded.toInstr
  by_cases nop : (hk == 0 && p == 0) = true
  · obtain ⟨rfl, rfl⟩ : hk = 0 ∧ p = 0 := by simpa using nop
    exact ⟨rfl, rfl⟩
  by_cases entry : (hk == 1) = true
  · obtain rfl := eq_of_beq entry
    exact ⟨rfl, rfl⟩
  by_cases header : (hk == 2) = true
  · obtain rfl := eq_of_beq header
    exact ⟨rfl, rfl⟩
  simp only [nop, entry, header]
  refine ⟨?_, rfl⟩
  by_cases zero : (hk == 0) = true <;> simp_all [Instr.WellFormed, Instr.wf]

theorem decodeHint_encodes (hm : FieldIs w 1 63#6) :
    Encodes w (Decoded.hint (w.extractLsb' 27 5) (w.extractLsb' 7 20)).toInstr := by
  obtain ⟨hwf, henc⟩ := toInstr_hint (w.extractLsb' 27 5) (w.extractLsb' 7 20)
  exact ⟨hwf, henc.trans (congrArg some ((asmHint_iff ..).2 ⟨⟨rfl, rfl⟩, hm, h0⟩))⟩

/-- Whatever a word decodes to is well formed, and its encoding is that word. -/
theorem decodeWord_encodes : Yields (decodeWord w) fun d => Encodes w d.toInstr := by
  obtain ⟨f32, f64, f16, bf16⟩ := decodeF_encodes h0
  obtain ⟨saddi, sandi, sori, sxori⟩ := decodeSI_encodes h0
  obtain ⟨ld, st, sld, sst⟩ := decodeM_encodes h0
  obtain ⟨mmo, mmoSp⟩ := decodeMO_encodes h0
  have int {low : BitVec 2} (h : FieldIs w 1 (2#4 ++ low : BitVec 6)) : Yields (decodeInt w) (Encodes w) :=
    decodeInt_encodes h0 ((fieldIs_append w 1 2#4 low).1 h).1
  unfold decodeWord
  split
  · exact .map (f32 (.of_toNat ‹_›))
  · exact .map (f64 (.of_toNat ‹_›))
  · exact .map (f16 (.of_toNat ‹_›))
  · exact .map (bf16 (.of_toNat ‹_›))
  · exact .map (decodeDiv_encodes h0 (.of_toNat ‹_›))
  · exact .map (decodeMinMax_encodes h0 (.of_toNat ‹_›))
  · exact .map (decodeUnary_encodes h0 (.of_toNat ‹_›))
  · exact .map (int (low := 0) (FieldIs.of_toNat (a := 8) ‹_›))
  · exact .map (int (low := 1) (FieldIs.of_toNat (a := 9) ‹_›))
  · exact .map (int (low := 2) (FieldIs.of_toNat (a := 10) ‹_›))
  · exact .map (int (low := 3) (FieldIs.of_toNat (a := 11) ‹_›))
  · exact .map (decodeBits_encodes h0 (.of_toNat ‹_›))
  · exact .map (decodeCmp_encodes h0 (.of_toNat ‹_›))
  · exact .map (decodeCvt_encodes h0 (.of_toNat ‹_›))
  · exact .map (decodeVaddi_encodes h0 (.of_toNat ‹_›))
  · exact .map (decodeVshi_encodes h0 (.of_toNat ‹_›))
  · exact .map (decodeCross_encodes h0 (.of_toNat ‹_›))
  · exact .map (decodeMoves_encodes h0 (.of_toNat ‹_›))
  · exact .map (decodeDot_encodes h0 (.of_toNat ‹_›))
  · exact .map (decodeScalar_encodes h0 (.of_toNat ‹_›))
  · exact .map (saddi (.of_toNat ‹_›))
  · exact .map (sandi (.of_toNat ‹_›))
  · exact .map (sori (.of_toNat ‹_›))
  · exact .map (sxori (.of_toNat ‹_›))
  · exact .map (decodeSshi_encodes h0 (.of_toNat ‹_›))
  · exact .map (decodeSu_encodes h0 (.of_toNat ‹_›))
  · exact .map (decodeMask_encodes h0 (.of_toNat ‹_›))
  · exact .map (decodeBs_encodes h0 (.of_toNat ‹_›))
  · exact .map (decodeBdiv_encodes h0 (.of_toNat ‹_›))
  · exact .map (decodeJ_encodes h0 (.of_toNat ‹_›))
  · exact .map (decodeControl_encodes h0 (.of_toNat ‹_›))
  · exact .map (ld (.of_toNat ‹_›))
  · exact .map (st (.of_toNat ‹_›))
  · exact .map (sld (.of_toNat ‹_›))
  · exact .map (sst (.of_toNat ‹_›))
  · exact .map (decodeAtomic_encodes h0 (.of_toNat ‹_›))
  · exact .map (decodeFullEmpty_encodes h0 (.of_toNat ‹_›))
  · exact .map (decodeSync_encodes h0 (.of_toNat ‹_›))
  · exact .map (decodeSpawn_encodes h0 (.of_toNat ‹_›))
  · exact .map (decodeCopy_encodes h0 (.of_toNat ‹_›))
  · exact .map (decodeTile_encodes h0 (.of_toNat ‹_›))
  · exact .map (decodeMm_encodes h0 (.of_toNat ‹_›))
  · exact .map (mmo (.of_toNat ‹_›))
  · exact .map (mmoSp (.of_toNat ‹_›))
  · exact .map (decodeAcc_encodes h0 (.of_toNat ‹_›))
  · exact .map (decodeSetup_encodes h0 (.of_toNat ‹_›))
  · exact .map (decodeStream_encodes h0 (.of_toNat ‹_›))
  · exact .map (decodeIsland_encodes h0 (.of_toNat ‹_›))
  · exact .map (decodeEngine_encodes h0 (.of_toNat ‹_›))
  · exact .map (decodeCount_encodes h0 (.of_toNat ‹_›))
  · exact decodeSystem_encodes h0 (.of_toNat ‹_›)
  · exact .ok (decodeHint_encodes h0 (.of_toNat ‹_›))
  · exact .error

end words

/-! ## From an instruction back: its word decodes to it

Each format's lemma says what every field of the word holds; the decoder, run on a word of which that is known, answers
the instruction. -/

@[simp] theorem bind_ok {ε α β : Type} (a : α) (f : α → Except ε β) : (Except.ok a >>= f) = f a := rfl

@[simp] theorem map_ok {α β : Type} (a : α) (f : α → β) : (Except.ok a : Except Reject α).map f = .ok (f a) := rfl

@[simp] theorem require_true (r : Reject) : require true r = .ok () := rfl

/-! ### The decoder of each major (R155) -/

section majors
variable {w : BitVec 32}

theorem decodeWord_fF32 (h : w.extractLsb' 1 6 = 1#6) : decodeWord w = (decodeFF32 w).map .instr := by
  rw [decodeWord, h]; rfl
theorem decodeWord_fF64 (h : w.extractLsb' 1 6 = 2#6) : decodeWord w = (decodeFF64 w).map .instr := by
  rw [decodeWord, h]; rfl
theorem decodeWord_fF16 (h : w.extractLsb' 1 6 = 3#6) : decodeWord w = (decodeFF16 w).map .instr := by
  rw [decodeWord, h]; rfl
theorem decodeWord_fBf16 (h : w.extractLsb' 1 6 = 4#6) : decodeWord w = (decodeFBf16 w).map .instr := by
  rw [decodeWord, h]; rfl
theorem decodeWord_div (h : w.extractLsb' 1 6 = 5#6) : decodeWord w = (decodeDiv w).map .instr := by
  rw [decodeWord, h]; rfl
theorem decodeWord_minMax (h : w.extractLsb' 1 6 = 6#6) : decodeWord w = (decodeMinMax w).map .instr := by
  rw [decodeWord, h]; rfl
theorem decodeWord_unary (h : w.extractLsb' 1 6 = 7#6) : decodeWord w = (decodeUnary w).map .instr := by
  rw [decodeWord, h]; rfl
theorem decodeWord_bits (h : w.extractLsb' 1 6 = 12#6) : decodeWord w = (decodeBits w).map .instr := by
  rw [decodeWord, h]; rfl
theorem decodeWord_cmp (h : w.extractLsb' 1 6 = 13#6) : decodeWord w = (decodeCmp w).map .instr := by
  rw [decodeWord, h]; rfl
theorem decodeWord_cvt (h : w.extractLsb' 1 6 = 14#6) : decodeWord w = (decodeCvt w).map .instr := by
  rw [decodeWord, h]; rfl
theorem decodeWord_vaddi (h : w.extractLsb' 1 6 = 15#6) : decodeWord w = (decodeVaddi w).map .instr := by
  rw [decodeWord, h]; rfl
theorem decodeWord_vshi (h : w.extractLsb' 1 6 = 16#6) : decodeWord w = (decodeVshi w).map .instr := by
  rw [decodeWord, h]; rfl
theorem decodeWord_cross (h : w.extractLsb' 1 6 = 17#6) : decodeWord w = (decodeCross w).map .instr := by
  rw [decodeWord, h]; rfl
theorem decodeWord_moves (h : w.extractLsb' 1 6 = 18#6) : decodeWord w = (decodeMoves w).map .instr := by
  rw [decodeWord, h]; rfl
theorem decodeWord_dot (h : w.extractLsb' 1 6 = 19#6) : decodeWord w = (decodeDot w).map .instr := by
  rw [decodeWord, h]; rfl
theorem decodeWord_scalar (h : w.extractLsb' 1 6 = 20#6) : decodeWord w = (decodeScalar w).map .instr := by
  rw [decodeWord, h]; rfl
theorem decodeWord_saddi (h : w.extractLsb' 1 6 = 21#6) : decodeWord w = (decodeSaddi w).map .instr := by
  rw [decodeWord, h]; rfl
theorem decodeWord_sandi (h : w.extractLsb' 1 6 = 22#6) : decodeWord w = (decodeSandi w).map .instr := by
  rw [decodeWord, h]; rfl
theorem decodeWord_sori (h : w.extractLsb' 1 6 = 23#6) : decodeWord w = (decodeSori w).map .instr := by
  rw [decodeWord, h]; rfl
theorem decodeWord_sxori (h : w.extractLsb' 1 6 = 24#6) : decodeWord w = (decodeSxori w).map .instr := by
  rw [decodeWord, h]; rfl
theorem decodeWord_sshi (h : w.extractLsb' 1 6 = 25#6) : decodeWord w = (decodeSshi w).map .instr := by
  rw [decodeWord, h]; rfl
theorem decodeWord_su (h : w.extractLsb' 1 6 = 26#6) : decodeWord w = (decodeSu w).map .instr := by
  rw [decodeWord, h]; rfl
theorem decodeWord_mask (h : w.extractLsb' 1 6 = 27#6) : decodeWord w = (decodeMask w).map .instr := by
  rw [decodeWord, h]; rfl
theorem decodeWord_bs (h : w.extractLsb' 1 6 = 28#6) : decodeWord w = (decodeBs w).map .instr := by
  rw [decodeWord, h]; rfl
theorem decodeWord_bdiv (h : w.extractLsb' 1 6 = 29#6) : decodeWord w = (decodeBdiv w).map .instr := by
  rw [decodeWord, h]; rfl
theorem decodeWord_j (h : w.extractLsb' 1 6 = 30#6) : decodeWord w = (decodeJ w).map .instr := by
  rw [decodeWord, h]; rfl
theorem decodeWord_control (h : w.extractLsb' 1 6 = 31#6) : decodeWord w = (decodeControl w).map .instr := by
  rw [decodeWord, h]; rfl
theorem decodeWord_ld (h : w.extractLsb' 1 6 = 32#6) : decodeWord w = (decodeLd w).map .instr := by
  rw [decodeWord, h]; rfl
theorem decodeWord_st (h : w.extractLsb' 1 6 = 33#6) : decodeWord w = (decodeSt w).map .instr := by
  rw [decodeWord, h]; rfl
theorem decodeWord_sld (h : w.extractLsb' 1 6 = 34#6) : decodeWord w = (decodeSld w).map .instr := by
  rw [decodeWord, h]; rfl
theorem decodeWord_sst (h : w.extractLsb' 1 6 = 35#6) : decodeWord w = (decodeSst w).map .instr := by
  rw [decodeWord, h]; rfl
theorem decodeWord_atomic (h : w.extractLsb' 1 6 = 36#6) : decodeWord w = (decodeAtomic w).map .instr := by
  rw [decodeWord, h]; rfl
theorem decodeWord_fullEmpty (h : w.extractLsb' 1 6 = 37#6) : decodeWord w = (decodeFullEmpty w).map .instr := by
  rw [decodeWord, h]; rfl
theorem decodeWord_sync (h : w.extractLsb' 1 6 = 38#6) : decodeWord w = (decodeSync w).map .instr := by
  rw [decodeWord, h]; rfl
theorem decodeWord_spawn (h : w.extractLsb' 1 6 = 39#6) : decodeWord w = (decodeSpawn w).map .instr := by
  rw [decodeWord, h]; rfl
theorem decodeWord_copy (h : w.extractLsb' 1 6 = 40#6) : decodeWord w = (decodeCopy w).map .instr := by
  rw [decodeWord, h]; rfl
theorem decodeWord_tile (h : w.extractLsb' 1 6 = 41#6) : decodeWord w = (decodeTile w).map .instr := by
  rw [decodeWord, h]; rfl
theorem decodeWord_mm (h : w.extractLsb' 1 6 = 42#6) : decodeWord w = (decodeMm w).map .instr := by
  rw [decodeWord, h]; rfl
theorem decodeWord_mmo (h : w.extractLsb' 1 6 = 43#6) : decodeWord w = (decodeMmo w).map .instr := by
  rw [decodeWord, h]; rfl
theorem decodeWord_mmoSp (h : w.extractLsb' 1 6 = 44#6) : decodeWord w = (decodeMmoSp w).map .instr := by
  rw [decodeWord, h]; rfl
theorem decodeWord_acc (h : w.extractLsb' 1 6 = 45#6) : decodeWord w = (decodeAcc w).map .instr := by
  rw [decodeWord, h]; rfl
theorem decodeWord_setup (h : w.extractLsb' 1 6 = 46#6) : decodeWord w = (decodeSetup w).map .instr := by
  rw [decodeWord, h]; rfl
theorem decodeWord_stream (h : w.extractLsb' 1 6 = 47#6) : decodeWord w = (decodeStream w).map .instr := by
  rw [decodeWord, h]; rfl
theorem decodeWord_island (h : w.extractLsb' 1 6 = 48#6) : decodeWord w = (decodeIsland w).map .instr := by
  rw [decodeWord, h]; rfl
theorem decodeWord_engine (h : w.extractLsb' 1 6 = 49#6) : decodeWord w = (decodeEngine w).map .instr := by
  rw [decodeWord, h]; rfl
theorem decodeWord_count (h : w.extractLsb' 1 6 = 54#6) : decodeWord w = (decodeCount w).map .instr := by
  rw [decodeWord, h]; rfl
theorem decodeWord_int (h : w.extractLsb' 3 4 = 2#4) : decodeWord w = (decodeInt w).map .instr := by
  have low : ∀ b : BitVec 2, b = 0 ∨ b = 1 ∨ b = 2 ∨ b = 3 := by decide
  have major : FieldIs w 1 (2#4 ++ w.extractLsb' 1 2 : BitVec 6) := .append h rfl
  rw [decodeWord, major]
  rcases low (w.extractLsb' 1 2) with e | e | e | e <;> rw [e] <;> rfl

theorem decodeWord_system (h : w.extractLsb' 1 6 = 55#6) : decodeWord w = decodeSystem w := by
  rw [decodeWord, h]; rfl
theorem decodeWord_hint (h : w.extractLsb' 1 6 = 63#6) :
    decodeWord w = .ok (.hint (w.extractLsb' 27 5) (w.extractLsb' 7 20)) := by rw [decodeWord, h]; rfl

end majors

/-! ### Every instruction -/

/-- A well-formed hint word reads as itself. -/
theorem toInstr_hint_of_wf {hk : BitVec 5} {p : BitVec 20} (h : (Instr.hint hk p).WellFormed) :
    (Decoded.hint hk p).toInstr = .hint hk p := by
  have wf : (if hk == 0 then p != 0 else hk != 1 && hk != 2) = true := h
  unfold Decoded.toInstr
  by_cases h0 : (hk == 0) = true <;> simp_all

/-- The first bit of a 32-bit form is 1, and its word decodes to it. -/
theorem decodeWord_of_encode32 {i : Instr} {w : BitVec 32} (hwf : i.WellFormed) (h : encode32 i = some w) :
    ∃ d, (w.getLsbD 0 = true ∧ decodeWord w = .ok d) ∧ d.toInstr = i := by
  cases i with
  | addF32 | subF32 | mulF32 | fmaF32 | addF64 | subF64 | mulF64 | fmaF64 | addF16 | subF16 | mulF16 | fmaF16
  | addBf16 | subBf16 | mulBf16 | fmaBf16 | div | fmin | fmax | copysign | sqrt | rcp | rsqrt | exp2 | log2
  | sin | cos | tanh | rint | fneg | fabs | fclass | dotF32Bf16 | dotF32F16 | dotS32S8 | dotF32Nf =>
    have f := And.intro ((asmF_iff ..).1 (Option.some.inj h)) hwf
    simp only [↓fieldIs_oneBit, FieldIs, Instr.WellFormed, Instr.wf, BitVec.ofNat_eq_ofNat] at f
    exact ⟨.instr _, by simp [-BitVec.getLsbD_eq_getElem, f, decodeWord_fF32, decodeWord_fF64,
      decodeWord_fF16, decodeWord_fBf16, decodeWord_div, decodeWord_minMax, decodeWord_unary,
      decodeWord_dot, decodeFF32, decodeFF64, decodeFF16, decodeFBf16, decodeDiv, decodeMinMax, decodeUnary,
      decodeDot], rfl⟩
  | intAdd | intSub | intMul | intMulh | intMin | intMax | intAdds | intSubs | intShl | intShr | intMad | intDiv
  | intRem =>
    have f := And.intro ((asmV_iff ..).1 (Option.some.inj h)) hwf
    simp only [↓fieldIs_append, ↓fieldIs_oneBit, Nat.reduceAdd, FieldIs, Instr.WellFormed, Instr.wf,
      BitVec.ofNat_eq_ofNat] at f
    exact ⟨.instr _, by simp [-BitVec.getLsbD_eq_getElem, f, decodeWord_int, decodeInt], rfl⟩
  | bitAnd | bitOr | bitXor | bitAndn | bitRotl | bitNot | bitPopc | bitClz | bitCtz | bitBrev | xperm | shfl
  | shflXor | shflUp | shflDn | voteAny | voteAll | voteEq | ballot | csamp | rngN32 | mov | movtag | bcast
  | sel | vmoviGet | affine | omov =>
    have f := And.intro ((asmV_iff ..).1 (Option.some.inj h)) hwf
    simp only [↓fieldIs_append, ↓fieldIs_oneBit, Nat.reduceAdd, FieldIs, Instr.WellFormed, Instr.wf,
      BitVec.ofNat_eq_ofNat] at f
    exact ⟨.instr _, by simp [-BitVec.getLsbD_eq_getElem, f, decodeWord_bits, decodeWord_cross,
      decodeWord_moves, decodeBits, decodeCross, decodeMoves], rfl⟩
  | cmp =>
    have f := And.intro ((formatVM_iff ..).1 (Option.some.inj h)) hwf
    simp only [↓fieldIs_oneBit, FieldIs, Instr.WellFormed, Instr.wf] at f
    exact ⟨.instr _, by simp [-BitVec.getLsbD_eq_getElem, f, decodeWord_cmp, decodeCmp], rfl⟩
  | vaddi | shli | shriN | shriS | rotli =>
    have f := And.intro ((asmVI_iff ..).1 (Option.some.inj h)) hwf
    simp only [↓fieldIs_append, ↓fieldIs_oneBit, Nat.reduceAdd, FieldIs, Instr.WellFormed, Instr.wf,
      BitVec.ofNat_eq_ofNat] at f
    exact ⟨.instr _, by simp [-BitVec.getLsbD_eq_getElem, f, decodeWord_vaddi, decodeWord_vshi, decodeVaddi,
      decodeVshi], rfl⟩
  | sadd | ssub | smul | smulhS | smulhN | sdivS | sdivN | sremS | sremN | sand | sor | sxor | sandn | sshl
  | sshrN | sshrS | srotl | sminS | sminN | smaxS | smaxN | ssltS | ssltN | sseq | spopc | sclz | sctz | smov
  | mand | mor | mxor | mandn | mnot | mmov | mcnt | mfirst | mact | mget | mput | ret | jr | callr | brtab
  | rcv | pause | exit | wcnt | rel | acq | acqset | fence | bar | gbar | gjoin | gleave | ifence | spawn
  | jwait | copy | cbseal | cbwait | talloc | tready | trel | tstat | aalloc | afree | azero | adrain | adrainT
  | omset | nfset | nfget | dmset | sqld | sqst | sqint | squni | sqsub | sqmadd | sqcnt | sqext | cscene
  | cclose | ckind | clink | cunlink | cstep | csleep | cwake | cquery | enq | eseq | ewait | crw | crs | crc
  | rte | trap | brk =>
    have f := And.intro ((asmE_iff ..).1 (Option.some.inj h)) hwf
    simp only [↓fieldIs_append, ↓fieldIs_bit, ↓fieldIs_zeroBit, ↓fieldIs_oneBit, Nat.reduceAdd, FieldIs,
      Instr.WellFormed, Instr.wf, BitVec.ofNat_eq_ofNat] at f
    exact ⟨.instr _, by simp [-BitVec.getLsbD_eq_getElem, f, decodeWord_scalar, decodeWord_mask,
      decodeWord_control, decodeWord_sync, decodeWord_spawn, decodeWord_copy, decodeWord_tile,
      decodeWord_acc, decodeWord_setup, decodeWord_stream, decodeWord_island, decodeWord_engine,
      decodeWord_system, decodeScalar, decodeMask, decodeControl, decodeSync, decodeSpawn, decodeCopy,
      decodeTile, decodeAcc, decodeSetup, decodeStream, decodeIsland, decodeEngine, decodeSystem], rfl⟩
  | saddi | sandi | sori | sxori | sshli | sshriN | sshriS | srotli =>
    have f := And.intro ((asmSI_iff ..).1 (Option.some.inj h)) hwf
    simp only [↓fieldIs_append, ↓fieldIs_oneBit, Nat.reduceAdd, FieldIs, Instr.WellFormed, Instr.wf,
      BitVec.ofNat_eq_ofNat] at f
    exact ⟨.instr _, by simp [-BitVec.getLsbD_eq_getElem, f, decodeWord_saddi, decodeWord_sandi,
      decodeWord_sori, decodeWord_sxori, decodeWord_sshi, decodeSaddi, decodeSandi, decodeSori, decodeSxori,
      decodeSshi], rfl⟩
  | sli =>
    have f := And.intro ((asmSU_iff (k := false) ..).1 (Option.some.inj h)) hwf
    simp only [↓fieldIs_oneBit, FieldIs, Instr.WellFormed, Instr.wf] at f
    exact ⟨.instr _, by simp [-BitVec.getLsbD_eq_getElem, f, decodeWord_su, decodeSu], rfl⟩
  | slk =>
    have f := And.intro ((asmSU_iff (k := true) ..).1 (Option.some.inj h)) hwf
    simp only [↓fieldIs_oneBit, FieldIs, Instr.WellFormed, Instr.wf] at f
    exact ⟨.instr _, by simp [-BitVec.getLsbD_eq_getElem, f, decodeWord_su, decodeSu], rfl⟩
  | bz | bnz | bltz | bgez =>
    have f := And.intro ((asmBS_iff ..).1 (Option.some.inj h)) hwf
    simp only [↓fieldIs_oneBit, FieldIs, Instr.WellFormed, Instr.wf, BitVec.ofNat_eq_ofNat] at f
    exact ⟨.instr _, by simp [-BitVec.getLsbD_eq_getElem, f, decodeWord_bs, decodeBs], rfl⟩
  | bdiv =>
    have f := And.intro ((formatBD_iff ..).1 (Option.some.inj h)) hwf
    simp only [↓fieldIs_oneBit, FieldIs, Instr.WellFormed, Instr.wf, BitVec.ofNat_eq_ofNat] at f
    exact ⟨.instr _, by simp [-BitVec.getLsbD_eq_getElem, f, decodeWord_bdiv, decodeBdiv], rfl⟩
  | jmp =>
    have f := And.intro ((formatJ_iff (k := false) ..).1 (Option.some.inj h)) hwf
    simp only [↓fieldIs_oneBit, FieldIs, Instr.WellFormed, Instr.wf] at f
    exact ⟨.instr _, by simp [-BitVec.getLsbD_eq_getElem, f, decodeWord_j, decodeJ], rfl⟩
  | call =>
    have f := And.intro ((formatJ_iff (k := true) ..).1 (Option.some.inj h)) hwf
    simp only [↓fieldIs_oneBit, FieldIs, Instr.WellFormed, Instr.wf] at f
    exact ⟨.instr _, by simp [-BitVec.getLsbD_eq_getElem, f, decodeWord_j, decodeJ], rfl⟩
  | ld | st | sld | sst | redAdd | redMin | redMax | redAnd | redOr | redXor | atomAdd | atomMin | atomMax
  | atomAnd | atomOr | atomXor | atomXchg | atomCas | ldfe | stfe | ldf =>
    have f := And.intro ((asmM_iff ..).1 (Option.some.inj h)) hwf
    simp only [↓fieldIs_oneBit, FieldIs, Instr.WellFormed, Instr.wf, BitVec.ofNat_eq_ofNat] at f
    exact ⟨.instr _, by simp [-BitVec.getLsbD_eq_getElem, f, decodeWord_ld, decodeWord_st, decodeWord_sld,
      decodeWord_sst, decodeWord_atomic, decodeWord_fullEmpty, decodeLd, decodeSt, decodeSld, decodeSst,
      decodeAtomic, decodeFullEmpty], rfl⟩
  | mm =>
    have f := And.intro ((asmMX_iff (sp := false) ..).1 (Option.some.inj h)) hwf
    simp only [↓fieldIs_oneBit, FieldIs, Instr.WellFormed, Instr.wf] at f
    exact ⟨.instr _, by simp [-BitVec.getLsbD_eq_getElem, f, decodeWord_mm, decodeMm], rfl⟩
  | mmSp =>
    have f := And.intro ((asmMX_iff (sp := true) ..).1 (Option.some.inj h)) hwf
    simp only [↓fieldIs_oneBit, FieldIs, Instr.WellFormed, Instr.wf] at f
    exact ⟨.instr _, by simp [-BitVec.getLsbD_eq_getElem, f, decodeWord_mm, decodeMm], rfl⟩
  | mmo | mmoSp =>
    have f := And.intro ((asmMO_iff ..).1 (Option.some.inj h)) hwf
    simp only [↓fieldIs_oneBit, FieldIs, Instr.WellFormed, Instr.wf, BitVec.ofNat_eq_ofNat] at f
    exact ⟨.instr _, by simp [-BitVec.getLsbD_eq_getElem, f, decodeWord_mmo, decodeWord_mmoSp, decodeMmo,
      decodeMmoSp], rfl⟩
  | intAbs | intNeg =>
    have f := (asmV_iff ..).1 (Option.some.inj h)
    simp only [↓fieldIs_append, ↓fieldIs_bit, ↓fieldIs_zeroBit, ↓fieldIs_oneBit, Nat.reduceAdd, FieldIs,
      BitVec.ofNat_eq_ofNat] at f
    exact ⟨.instr _, by simp [-BitVec.getLsbD_eq_getElem, f, decodeWord_int, decodeInt], rfl⟩
  | cvt df sat va vd nw rm =>
    obtain ⟨target, barred⟩ : df.isCvtTarget = true ∧ (!cvtBarred df sat rm) = true := Bool.and_eq_true_iff.mp hwf
    have f := (formatC_iff ..).1 (Option.some.inj h)
    simp only [↓fieldIs_oneBit, FieldIs] at f
    exact ⟨.instr _, by simp [-BitVec.getLsbD_eq_getElem, f, target, barred, decodeWord_cvt, decodeCvt], rfl⟩
  | lane =>
    have f := (asmV_iff ..).1 (Option.some.inj h)
    have unused : w.extractLsb' 18 14 = 0#14 := FieldIs.append (x := 0#7) (y := 0#7) f.1.1 f.1.2.1
    simp only [↓fieldIs_oneBit, FieldIs] at f
    exact ⟨.instr _, by simp [-BitVec.getLsbD_eq_getElem, f, unused, decodeWord_moves, decodeMoves], rfl⟩
  | vmoviPut =>
    have f := (asmV_iff ..).1 (Option.some.inj h)
    have unused : w.extractLsb' 11 7 = 0#7 :=
      FieldIs.append (x := 0#6) (y := bit false) f.1.2.2.1 (.bit f.1.2.2.2.1)
    simp only [↓fieldIs_oneBit, FieldIs] at f
    exact ⟨.instr _, by simp [-BitVec.getLsbD_eq_getElem, f, unused, decodeWord_moves, decodeMoves], rfl⟩
  | rdclk ret sd =>
    have f := (asmE_iff ..).1 (Option.some.inj h)
    have listed : (w.extractLsb' 25 7).ult 2#7 = true := by
      rw [f.1.1]
      cases ret <;> rfl
    simp only [↓fieldIs_append, ↓fieldIs_bit, ↓fieldIs_oneBit, Nat.reduceAdd, FieldIs, BitVec.ofNat_eq_ofNat] at f
    exact ⟨.instr _, by simp [-BitVec.getLsbD_eq_getElem, f, listed, decodeWord_control, decodeControl], rfl⟩
  | rdid sel sd =>
    have f := (asmE_iff ..).1 (Option.some.inj h)
    have listed : (w.extractLsb' 25 7).ult 14#7 = true := by
      have below : ∀ sel : BitVec 4, sel.ule 13 = true → (0#3 ++ sel : BitVec 7).ult 14#7 = true := by decide
      rw [f.1.1]
      exact below sel hwf
    simp only [↓fieldIs_append, ↓fieldIs_oneBit, Nat.reduceAdd, FieldIs, BitVec.ofNat_eq_ofNat] at f
    exact ⟨.instr _, by simp [-BitVec.getLsbD_eq_getElem, f, listed, decodeWord_control, decodeControl], rfl⟩
  | vgrow | vshrink =>
    have f := (asmE_iff ..).1 (Option.some.inj h)
    simp only [↓fieldIs_append, Nat.reduceAdd] at f
    have unused : w.extractLsb' 15 17 = 0#17 :=
      FieldIs.append (x := 0#14) (y := 0#3) (.append (x := 0#7) (y := 0#7) f.1.1 f.1.2.1) f.1.2.2.1.1
    simp only [↓fieldIs_oneBit, FieldIs] at f
    exact ⟨.instr _, by simp [-BitVec.getLsbD_eq_getElem, f, unused, decodeWord_count, decodeCount], rfl⟩
  | wbld =>
    have f := (asmE_iff (aux := 0#6 ++ bit false) ..).1 (Option.some.inj h)
    simp only [↓fieldIs_append, ↓fieldIs_bit, ↓fieldIs_oneBit, Nat.reduceAdd, FieldIs, BitVec.ofNat_eq_ofNat] at f
    exact ⟨.instr _, by simp [-BitVec.getLsbD_eq_getElem, f, decodeWord_setup, decodeSetup], rfl⟩
  | wbldRel =>
    have f := (asmE_iff (aux := 0#6 ++ bit true) ..).1 (Option.some.inj h)
    simp only [↓fieldIs_append, ↓fieldIs_bit, ↓fieldIs_oneBit, Nat.reduceAdd, FieldIs, BitVec.ofNat_eq_ofNat] at f
    exact ⟨.instr _, by simp [-BitVec.getLsbD_eq_getElem, f, decodeWord_setup, decodeSetup], rfl⟩
  | crr cr sa sd =>
    have empty : (cr.words != 1 || sa.bits == 0#7) = true := by
      rcases Bool.or_eq_true_iff.mp (show (cr.words != 1 || sa == .s 0) = true from hwf) with several | zero
      · rw [several, Bool.true_or]
      · rw [beq_iff_eq.mp zero]
        exact Bool.or_true _
    have f := (asmE_iff ..).1 (Option.some.inj h)
    simp only [↓fieldIs_oneBit, FieldIs, BitVec.ofNat_eq_ofNat] at f
    exact ⟨.instr _, by simp [-BitVec.getLsbD_eq_getElem, f, empty, decodeWord_system, decodeSystem], rfl⟩
  | tcinv sc sa =>
    have f := And.intro ((asmE_iff ..).1 (Option.some.inj h)) hwf
    simp only [↓fieldIs_append, ↓fieldIs_oneBit, Nat.reduceAdd, FieldIs, Instr.WellFormed, Instr.wf,
      BitVec.ofNat_eq_ofNat] at f
    exact ⟨.tcinv false sc sa, by simp [f, decodeWord_system, decodeSystem], rfl⟩
  | tcinva sc sa =>
    have f := And.intro ((asmE_iff ..).1 (Option.some.inj h)) hwf
    simp only [↓fieldIs_append, ↓fieldIs_oneBit, Nat.reduceAdd, FieldIs, Instr.WellFormed, Instr.wf,
      BitVec.ofNat_eq_ofNat] at f
    exact ⟨.tcinv true sc sa, by simp [f, decodeWord_system, decodeSystem], rfl⟩
  | nop | targetEntry | targetListHeader =>
    obtain ⟨⟨kind, payload⟩, hint, first⟩ := (asmHint_iff ..).1 (Option.some.inj h)
    exact ⟨_, ⟨(fieldIs_oneBit ..).1 first, decodeWord_hint hint⟩, by rw [kind, payload]; rfl⟩
  | hint hk p =>
    obtain ⟨⟨kind, payload⟩, hint, first⟩ := (asmHint_iff ..).1 (Option.some.inj h)
    refine ⟨_, ⟨(fieldIs_oneBit ..).1 first, decodeWord_hint hint⟩, ?_⟩
    rw [kind, payload]
    exact toInstr_hint_of_wf hwf
  | _ => cases h

/-! ## The 16-bit forms (R152) -/

/-- Whatever a parcel decodes to is well formed, and its encoding is that parcel. -/
theorem decode16_encodes {p : BitVec 16} (h0 : p.getLsbD 0 = false) :
    Yields (decode16 p) fun i => i.WellFormed ∧ encode16 i = some p := by
  have first := (fieldIs_zeroBit p 0).2 h0
  have bound := (p.extractLsb' 1 4).isLt
  refine .ite (fun _ => .error) (fun nonzero => ?_)
  split
  case h_1 =>
    have fields := (asmShort_iff p ..).2 ⟨rfl, rfl, .of_toNat (a := 0) ‹_›, first⟩
    refine .ok ⟨?_, congrArg some fields⟩
    refine (Bool.not_eq_true' _).mpr (Bool.eq_false_iff.mpr fun zero => ne_of_beq_false nonzero ?_)
    obtain ⟨hs, hd⟩ := Bool.and_eq_true_iff.mp zero
    rw [← fields, eq_of_beq hs, eq_of_beq hd]
    rfl
  all_goals exact .ok ⟨rfl, congrArg some ((asmShort_iff ..).2 ⟨rfl, rfl, .of_toNat (by lia), first⟩)⟩

/-- The first bit of a 16-bit form is 0, and its parcel decodes to it. -/
theorem decode16_of_encode16 {i : Instr} {p : BitVec 16} (hwf : i.WellFormed) (h : encode16 i = some p) :
    p.getLsbD 0 = false ∧ decode16 p = .ok i := by
  cases i with
  | movShort ss vd =>
    have f := (asmShort_iff ..).1 (Option.some.inj h)
    simp only [↓fieldIs_zeroBit, FieldIs] at f
    have nonzero : p ≠ 0#16 := by
      rintro rfl
      obtain ⟨rfl, rfl, -⟩ := f
      exact Bool.false_ne_true hwf
    simp [-BitVec.getLsbD_eq_getElem, decode16, nonzero, f]
  | addF32Short | subF32Short | mulF32Short | minF32Short | maxF32Short | addS32Short | subS32Short | mulS32Short
  | addN32Short | subN32Short | andB32Short | orB32Short | xorB32Short | shlN32Short | shrN32Short =>
    have f := (asmShort_iff ..).1 (Option.some.inj h)
    simp only [↓fieldIs_zeroBit, FieldIs] at f
    have nonzero : p ≠ 0#16 := by
      rintro rfl
      exact absurd f.2.2.1 (by decide)
    simp [-BitVec.getLsbD_eq_getElem, decode16, nonzero, f]
  | _ => cases h

theorem encode32_of_encode16 {i : Instr} {p : BitVec 16} (h : encode16 i = some p) : encode32 i = none := by
  cases i with
  | movShort | addF32Short | subF32Short | mulF32Short | minF32Short | maxF32Short | addS32Short | subS32Short
  | mulS32Short | addN32Short | subN32Short | andB32Short | orB32Short | xorB32Short | shlN32Short | shrN32Short => rfl
  | _ => cases h

/-! ## Bytes (R150) -/

/-- The bytes of a parcel, in the order they lie in memory. -/
def bytes16 (p : BitVec 16) : List Byte := [p.extractLsb' 0 8, p.extractLsb' 8 8]

/-- The bytes of a word, in the order they lie in memory. -/
def bytes32 (w : BitVec 32) : List Byte :=
  [w.extractLsb' 0 8, w.extractLsb' 8 8, w.extractLsb' 16 8, w.extractLsb' 24 8]

theorem encode_of_encode16 {i : Instr} {p : BitVec 16} (h : encode16 i = some p) : encode i = some (bytes16 p) := by
  rw [encode, h]
  rfl

theorem encode_of_encode32 {i : Instr} {w : BitVec 32} (h : encode32 i = some w) : encode i = some (bytes32 w) := by
  cases short : encode16 i with
  | some p => exact nomatch (encode32_of_encode16 short).symm.trans h
  | none =>
    rw [encode, short, h]
    rfl

/-- The bytes of an encoding are those of its parcel or of its word. -/
theorem encode_eq_some {i : Instr} {bs : List Byte} (h : encode i = some bs) :
    (∃ p, encode16 i = some p ∧ bs = bytes16 p) ∨ ∃ w, encode32 i = some w ∧ bs = bytes32 w := by
  rw [encode] at h
  split at h
  case h_1 p short => exact .inl ⟨p, short, (Option.some.inj h).symm⟩
  case h_2 =>
    obtain ⟨w, long, rfl⟩ := Option.map_eq_some_iff.mp h
    exact .inr ⟨w, long, rfl⟩

/-- A parcel's bytes make the parcel. -/
theorem parcelOf_bytes {l : Nat} (w : BitVec l) (k : Nat) :
    parcelOf (w.extractLsb' k 8) (w.extractLsb' (k + 8) 8) = w.extractLsb' k 16 :=
  BitVec.extractLsb'_append_extractLsb'_eq_extractLsb' rfl

theorem word_of_parcels (w : BitVec 32) : (w.extractLsb' 16 16 ++ w.extractLsb' 0 16 : BitVec 32) = w :=
  (BitVec.extractLsb'_append_extractLsb'_eq_extractLsb' rfl).trans BitVec.extractLsb'_eq_self

theorem bytes16_parcelOf (b0 b1 : Byte) : bytes16 (parcelOf b0 b1) = [b0, b1] := by
  rw [bytes16, parcelOf, BitVec.extractLsb'_append_eq_left, BitVec.extractLsb'_append_eq_right]

theorem bytes32_append (q p : BitVec 16) : bytes32 (q ++ p : BitVec 32) = bytes16 p ++ bytes16 q := by
  have low (k : Nat) (h : k + 8 ≤ 16) : (q ++ p).extractLsb' k 8 = p.extractLsb' k 8 :=
    BitVec.extractLsb'_append_eq_of_add_le h
  have high (k : Nat) (h : 16 ≤ k) : (q ++ p).extractLsb' k 8 = q.extractLsb' (k - 16) 8 :=
    BitVec.extractLsb'_append_eq_of_le h
  simp only [bytes32, low 0 (by decide), low 8 (by decide), high 16 (by decide), high 24 (by decide)]
  rfl

theorem decodeBytes_bytes16 {p : BitVec 16} (h0 : p.getLsbD 0 = false) (rest : List Byte) :
    decodeBytes (bytes16 p ++ rest) = (decode16 p).map (·, rest) := by
  have joined := (parcelOf_bytes p 0).trans BitVec.extractLsb'_eq_self
  simp [-BitVec.getLsbD_eq_getElem, decodeBytes, bytes16, joined, h0]

theorem decodeBytes_bytes32 {w : BitVec 32} (h0 : w.getLsbD 0 = true) (rest : List Byte) :
    decodeBytes (bytes32 w ++ rest) = (decode32 w).map (·, rest) := by
  have low : parcelOf (w.extractLsb' 0 8) (w.extractLsb' 8 8) = w.extractLsb' 0 16 := parcelOf_bytes w 0
  have high : parcelOf (w.extractLsb' 16 8) (w.extractLsb' 24 8) = w.extractLsb' 16 16 := parcelOf_bytes w 16
  simp [-BitVec.getLsbD_eq_getElem, decodeBytes, bytes32, low, high, word_of_parcels, h0]

/-- Whatever bytes decode to is well formed, and its encoding is the bytes that were read. -/
theorem decodeBytes_encodes (bs : List Byte) :
    Yields (decodeBytes bs) fun r => r.1.WellFormed ∧ ∃ b, encode r.1 = some b ∧ bs = b ++ r.2 := by
  match bs with
  | [] | [_] => exact .error
  | b0 :: b1 :: tail =>
    refine .ite (fun first => ?_) (fun first => .map fun i read => ?_)
    · match tail with
      | [] | [_] => exact .error
      | b2 :: b3 :: rest =>
        refine .map (.map fun d read => ?_)
        have first' : (parcelOf b2 b3 ++ parcelOf b0 b1).getLsbD 0 = true := by
          rwa [BitVec.getLsbD_append]
        obtain ⟨hwf, long⟩ := decodeWord_encodes ((fieldIs_oneBit ..).2 first') d read
        refine ⟨hwf, _, encode_of_encode32 long, ?_⟩
        rw [bytes32_append, bytes16_parcelOf, bytes16_parcelOf]
        rfl
    · obtain ⟨hwf, short⟩ := decode16_encodes first i read
      refine ⟨hwf, _, encode_of_encode16 short, ?_⟩
      rw [bytes16_parcelOf]
      rfl

/-- Settles O55: each word's fields are those its format gives, field by field; every field decoder undoes its code, and
every check of a decoder is what makes its answer well formed. -/
theorem decodingAnEncodingGivesItBack : Obligations.DecodingAnEncodingGivesItBack := by
  unfold Obligations.DecodingAnEncodingGivesItBack
  refine ⟨fun i bs rest hwf h => ?_, fun i bs rest h => ?_⟩
  · rcases encode_eq_some h with ⟨p, short, rfl⟩ | ⟨w, long, rfl⟩
    · obtain ⟨first, read⟩ := decode16_of_encode16 hwf short
      rw [decodeBytes_bytes16 first, read]
      rfl
    · obtain ⟨d, ⟨first, read⟩, rfl⟩ := decodeWord_of_encode32 hwf long
      rw [decodeBytes_bytes32 first, decode32, read]
      rfl
  · exact decodeBytes_encodes bs _ h

end Sys2Proof.Encoding

/-! Words that the spec writes out (R152, R153, R155, R159, R160). -/

namespace Sys2Proof.Encoding

/-- Settles O60: the decoder, run on each word, answers what the spec writes beside it. -/
theorem wordsOfTheSpecDecode : Obligations.WordsOfTheSpecDecode :=
  ⟨rfl, rfl, rfl, rfl, rfl, rfl, rfl, rfl, rfl, rfl, rfl, rfl, rfl, rfl, rfl, rfl⟩

end Sys2Proof.Encoding

/-!
A step fetches, decodes and executes (R150, R161, R321, R370): what a fetch reads at home, and what a quiet turn does.
-/

namespace Sys2Proof.Machine

/-! ## Code at its home (R150, R151) -/

/-- A read at home, where nothing is staged or poisoned, of bytes that its key opens. -/
theorem State.homeRead_of_opens {s : State} {key n : Nat} (hs : s.staged = []) (hp : s.poison = [])
    (ho : ∀ g ∈ granulesOf (bareKey key) n, (s.holder g).opens (tenantOfKey key) = true) :
    s.homeRead key n = (Memory.readBytes s.mem (bareKey key) n, false, s) := by
  have opens : (granulesOf (bareKey key) n).all (fun g => (s.holder g).opens (tenantOfKey key)) = true :=
    List.all_eq_true.mpr ho
  have clean : (granulesOf (bareKey key) n).any s.poisoned = false :=
    List.any_eq_false.mpr fun g _ => by simp [State.poisoned, hp]
  simp only [State.homeRead, State.settleAll_of_staged_nil hs, opens, clean, if_true]

/-- The two bytes of code at an address are those of memory at its translation, where nothing is left to apply, nothing
is poisoned and the key opens them. -/
def State.CodeAt (s : State) (t : Team) (pc : Word) (b0 b1 : Byte) : Prop :=
  ∃ k, s.translateRange (s.teamCtx t) .fetch pc 2 = (.ok [(k, 2)], s) ∧
    Memory.readBytes s.mem (bareKey k) 2 = [b0, b1] ∧ s.behind (s.core t.core).seen (granulesOf (bareKey k) 2) = false ∧
    ∀ g ∈ granulesOf (bareKey k) 2, (s.holder g).opens (tenantOfKey k) = true

section
variable {s : State} {t : Team} {pc : Word} {b0 b1 : Byte}

theorem M.code_of_codeAt (hs : s.staged = []) (hp : s.poison = []) (h : s.CodeAt t pc b0 b1) :
    M.code t pc 2 s = .ok [b0, b1] s := by
  obtain ⟨k, translated, bytes, applied, opens⟩ := h
  have shown : s.showTo t.core (granulesOf (bareKey k) 2) = s := by
    simp only [State.showTo, applied, Bool.false_eq_true, if_false]
  have read := State.homeRead_of_opens hs hp opens
  simp [M.code, translated, shown, read, bytes]

theorem ofNat_natOfBytes_pair (b0 b1 : Byte) : BitVec.ofNat 16 (natOfBytes [b0, b1]) = b1 ++ b0 := by
  refine BitVec.eq_of_toNat_eq ?_
  have h0 := b0.isLt
  have h1 := b1.isLt
  rw [BitVec.toNat_ofNat, BitVec.toNat_append, ← Nat.shiftLeft_add_eq_or_of_lt h0]
  simp only [natOfBytes, Nat.shiftLeft_eq]
  omega

theorem parcels_append (b0 b1 b2 b3 : Byte) :
    (b3 ++ b2 ++ b1 ++ b0 : BitVec 32) = (b3 ++ b2 : BitVec 16) ++ (b1 ++ b0 : BitVec 16) :=
  BitVec.append_assoc (x₁ := b3 ++ b2)

theorem M.parcel_of_codeAt (hf : t.prefetched = []) (hs : s.staged = []) (hp : s.poison = [])
    (h : s.CodeAt t pc b0 b1) : M.parcel t pc s = .ok (b1 ++ b0 : BitVec 16) s := by
  unfold M.parcel
  rw [hf]
  exact (M.bind_ok (M.code_of_codeAt hs hp h)).trans (by rw [ofNat_natOfBytes_pair]; rfl)

/-- A parcel whose first bit is 0 is a whole instruction. -/
theorem M.fetchAt_of_short (hf : t.prefetched = []) (hs : s.staged = []) (hp : s.poison = [])
    (h : s.CodeAt t pc b0 b1) (h0 : b0.getLsbD 0 = false) :
    M.fetchAt t pc s = .ok ((b1 ++ b0 : BitVec 16).setWidth 32, false) s := by
  have first : (b1 ++ b0).getLsbD 0 = false := by rwa [BitVec.getLsbD_append]
  rw [M.fetchAt, M.bind_ok (M.parcel_of_codeAt hf hs hp h), first]
  rfl

/-- A parcel whose first bit is 1 is the lower half of an instruction. -/
theorem M.fetchAt_of_long {b2 b3 : Byte} (hf : t.prefetched = []) (hs : s.staged = []) (hp : s.poison = [])
    (h : s.CodeAt t pc b0 b1) (h0 : b0.getLsbD 0 = true) (h' : s.CodeAt t (pc + 2) b2 b3) :
    M.fetchAt t pc s = .ok ((b3 ++ b2 ++ b1 ++ b0 : BitVec 32), true) s := by
  have first : (b1 ++ b0).getLsbD 0 = true := by rwa [BitVec.getLsbD_append]
  rw [M.fetchAt, M.bind_ok (M.parcel_of_codeAt hf hs hp h), first, if_pos rfl,
    M.bind_ok (M.parcel_of_codeAt hf hs hp h'), parcels_append]
  rfl

end

/-! ## A quiet turn (R321) -/

/-- A turn that nothing interrupts issues its team's next instruction. -/
theorem State.turn_issues {s : State} {t : Team} (hi : s.issuer? = some t) (hm : s.mayIssue t = true)
    (hto : s.timedOut t = none) (hsw : t.switchDue = false) (hq : s.quantumOut t = false)
    (hst : t.stopAsked = false ∨ s.runOpen t = true) (hw : t.arm.wait ≠ some .register) : s.turn = s.issueNext t := by
  have stop : (t.stopAsked && !s.runOpen t) = false := by
    rcases hst with h | h <;> simp [h]
  have wait : (t.arm.wait == some .register) = false := beq_eq_false_iff_ne.mpr hw
  simp [State.turn, hi, hm, hto, hsw, hq, stop, wait]

/-- What was fetched and decodes is executed, and accounted to its turn. -/
theorem State.runNext_of_decoded {s u : State} {t : Team} {w : BitVec 32} {two : Bool} {d : Decoded}
    (hf : M.fetch t s = .ok (w, two) u) (hd : decodeFetched (w.extractLsb' 0 16) (w.extractLsb' 16 16) = .ok d) :
    s.runNext t = match exec d.toInstr ((u.useFetched t).beforeWord t d) with
      | .next s' => .next (s'.account t d)
      | o => o := by
  simp only [State.runNext, hf, hd, runDecoded_eq] <;> rfl

/-- What was fetched and does not decode traps, with the word in EADDR (R160). -/
theorem State.runNext_of_rejected {s u : State} {t : Team} {w : BitVec 32} {two : Bool} {r : Reject}
    (hf : M.fetch t s = .ok (w, two) u) (hd : decodeFetched (w.extractLsb' 0 16) (w.extractLsb' 16 16) = .error r) :
    s.runNext t = .next ((u.useFetched t).stop t (.trap r.detail (w.setWidth 64) none)).endTurn := by
  simp only [State.runNext, hf, hd]
  rfl

/-- Settles O59: with nothing else due, what is next is the turn, and the turn fetches and runs its instruction. -/
theorem stepRunsTheInstructionAtThePc : Obligations.StepRunsTheInstructionAtThePc := by
  unfold Obligations.StepRunsTheInstructionAtThePc
  refine fun s => ⟨fun e es h => by rw [step_eq, State.act_agenda s e es h], ?_⟩
  intro t hag hu hc hcur hi hm hto hsw hq hst hw
  have act : s.act = s.runNext t := by
    rw [State.act_quiet s hag hu, hcur, if_pos rfl, State.turn_issues hi hm hto hsw hq hst hw,
      State.issueNext_quiet s t hu hc]
  refine ⟨fun w two u hf => ⟨fun d hd => ?_, fun r hr => ?_⟩, fun hpre hsta hpoi => ?_⟩
  · rw [step_eq, act, State.runNext_of_decoded hf hd]
    cases exec d.toInstr ((u.useFetched t).beforeWord t d) <;> rfl
  · rw [step_eq, act, State.runNext_of_rejected hf hr]
  · intro holds b0 b1 b2 b3 low
    exact ⟨M.fetchAt_of_short hpre hsta hpoi low, M.fetchAt_of_long hpre hsta hpoi low⟩

end Sys2Proof.Machine

/-!
The 16-bit forms (R152): what a lane of a result of one register holds, for results computed lane by lane (R182) and for
those whose shape is computed (R52).
-/

namespace Sys2Proof.Machine

/-! ## Integer operations are those of words (R186) -/

theorem wrapBits_eq (w : Nat) (i : Int) : wrapBits w i = (BitVec.ofInt w i).toNat := by
  rw [BitVec.toNat_ofInt, wrapBits]
  push_cast
  rfl

theorem ofInt_sub (w : Nat) (i j : Int) : BitVec.ofInt w (i - j) = BitVec.ofInt w i - BitVec.ofInt w j := by
  rw [Int.sub_eq_add_neg, BitVec.ofInt_add, BitVec.ofInt_neg, BitVec.sub_eq_add_neg]

theorem ofInt_two_pow (w k : Nat) : BitVec.ofInt w (2 ^ k) = BitVec.twoPow w k := by
  refine BitVec.eq_of_toNat_eq ?_
  rw [BitVec.toNat_ofInt, BitVec.toNat_twoPow]
  norm_cast

/-- Read as signed or not, a word is its number modulo the words. -/
theorem ofInt_intOf (signed : Bool) {w : Nat} (x : BitVec w) : BitVec.ofInt w (intOf signed w x.toNat) = x := by
  have own : BitVec.ofInt w x.toNat = x := by simp
  simp only [intOf, Nat.mod_eq_of_lt x.isLt]
  split
  · have wrapped : BitVec.twoPow w w = 0#w := BitVec.eq_of_toNat_eq (by simp [BitVec.toNat_twoPow])
    rw [ofInt_sub, own, ofInt_two_pow, wrapped, BitVec.sub_zero]
  · exact own

section
variable (signed : Bool) (a b : BitVec 32)

theorem intArith_add : intArith .add signed 32 a.toNat b.toNat = (a + b).toNat := by
  simp only [intArith, wrapBits_eq, BitVec.ofInt_add, ofInt_intOf]

theorem intArith_sub : intArith .sub signed 32 a.toNat b.toNat = (a - b).toNat := by
  simp only [intArith, wrapBits_eq, ofInt_sub, ofInt_intOf]

theorem intArith_mul : intArith .mul signed 32 a.toNat b.toNat = (a * b).toNat := by
  simp only [intArith, wrapBits_eq, BitVec.ofInt_mul, ofInt_intOf]

theorem intArith_shl : intArith .shl signed 32 a.toNat b.toNat = (a <<< (b.toNat % 32)).toNat := by
  simp only [intArith, wrapBits_eq, BitVec.ofInt_mul, ofInt_intOf, ofInt_two_pow, Nat.mod_eq_of_lt b.isLt,
    BitVec.shiftLeft_eq_mul_twoPow]

theorem intArith_shr : intArith .shr false 32 a.toNat b.toNat = (a >>> (b.toNat % 32)).toNat := by
  have whole := a.isLt
  simp only [intArith, intOf, Nat.mod_eq_of_lt a.isLt, Nat.mod_eq_of_lt b.isLt, Bool.false_and, wrapBits,
    BitVec.toNat_ushiftRight, Nat.shiftRight_eq_div_pow]
  norm_cast
  exact Nat.mod_eq_of_lt (Nat.lt_of_le_of_lt (Nat.div_le_self ..) whole)

end

/-! ## Shapes (R52) -/

theorem Shape.read_affine {a : Shape} {x d : Elem} (h : a.affine? = some (x, d)) (l : Nat) :
    a.read l = x + d * BitVec.ofNat 32 l := by
  cases a with
  | uniform u =>
    cases h
    simp [Shape.read]
  | affine b d =>
    cases h
    rfl
  | general ls => cases h

theorem Shape.affine_of_isUniform {a : Shape} {x d : Elem} (h : a.affine? = some (x, d)) (hu : a.isUniform = true) :
    d = 0 := by
  cases a with
  | uniform u =>
    cases h
    rfl
  | affine b d => cases hu
  | general ls => cases hu

theorem Shape.read_addShape {sub : Bool} {a b sh : Shape} (h : addShape sub a b = some sh) (l : Nat) :
    sh.read l = if sub then a.read l - b.read l else a.read l + b.read l := by
  unfold addShape at h
  split at h
  case h_2 => cases h
  case h_1 x d y e ha hb =>
    rw [Shape.read_affine ha, Shape.read_affine hb]
    obtain rfl := (Option.some.inj h).symm
    split
    case isTrue both =>
      obtain ⟨hau, hbu⟩ := Bool.and_eq_true_iff.mp both
      obtain rfl := Shape.affine_of_isUniform ha hau
      obtain rfl := Shape.affine_of_isUniform hb hbu
      simp [Shape.read]
    case isFalse =>
      cases sub <;> simp only [Shape.read, Bool.false_eq_true, if_true, if_false] <;> ring

theorem Shape.read_mulShape {a b sh : Shape} (h : mulShape a b = some sh) (l : Nat) :
    sh.read l = a.read l * b.read l := by
  unfold mulShape at h
  split at h
  case h_1 => rw [← Option.some.inj h]; rfl
  case h_2 | h_3 =>
    rw [← Option.some.inj h]
    simp only [Shape.read]
    ring
  case h_4 => cases h

theorem Shape.read_shlShape {a b sh : Shape} (h : shlShape a b = some sh) (l : Nat) :
    sh.read l = a.read l <<< ((b.read l).toNat % 32) := by
  unfold shlShape at h
  split at h
  case h_1 => rw [← Option.some.inj h]; rfl
  case h_2 x d c =>
    rw [← Option.some.inj h]
    simp only [Shape.read, BitVec.shiftLeft_eq_mul_twoPow]
    ring
  case h_3 => cases h

/-- A uniform register reads the same in every lane. -/
theorem VReg.read_of_isUniform {r : VReg} (h : r.shape.isUniform = true) (l : Nat) : r.read l = r.read 0 := by
  obtain ⟨tag, shape, poison⟩ := r
  cases shape with
  | uniform u => rfl
  | affine b d => cases h
  | general ls => cases h

/-- The low 32 bits of an operand's element are its low register's. -/
theorem Src.val_mod (a : Src) (l : Nat) : a.val l % 2 ^ 32 = (a.lo.read l).toNat := by
  have low := (a.lo.read l).isLt
  unfold Src.val
  split <;> omega

/-! ## Results of one register -/

theorem View.team_setVreg (v : View) (r : BitVec 6) (x : VReg) :
    (v.setVreg r x).team.id = v.team.id ∧ (v.setVreg r x).team.core = v.team.core := by
  unfold View.setVreg
  split <;> exact ⟨rfl, rfl⟩

theorem View.team_put (v : View) (vd : BitVec 6) (nw : Bool) (r : Res) :
    (v.put vd nw r).team.id = v.team.id ∧ (v.put vd nw r).team.core = v.team.core := by
  have twice (x y : VReg) (q : BitVec 6) : ((v.setVreg vd x).setVreg q y).team.id = v.team.id ∧
      ((v.setVreg vd x).setVreg q y).team.core = v.team.core := by
    simp [View.team_setVreg]
  unfold View.put
  cases nw
  · cases r.hi with
    | none => exact v.team_setVreg vd _
    | some h => exact twice _ _ _
  · exact ⟨rfl, rfl⟩

/-- A result of one register holds, in the lanes that a view has active, the words of `f`. -/
def Res.Holds (r : Res) (v : View) (tag : Tag) (f : Nat → Nat) : Prop :=
  r.lo.tag = tag ∧ r.hi = none ∧
    ∀ l, l < v.team.size → v.active.getLsbD l = true → (r.lo.read l).toNat = f l % 2 ^ 32

theorem View.lanewise_holds (v : View) {tag : Tag} (hp : tag.isPair = false) {u : Bool} {f : Nat → Nat}
    (hu : u = true → ∀ l, f l = f 0) : (v.lanewise tag u f).Holds v tag f := by
  cases u with
  | true =>
    refine ⟨rfl, by simp [View.lanewise, hp], fun l _ _ => ?_⟩
    simp [View.lanewise, VReg.uniformOf, VReg.read, Shape.read, hu rfl l]
  | false =>
    refine ⟨rfl, by simp [View.lanewise, hp], fun l hl ha => ?_⟩
    simp [View.lanewise, View.general, VReg.read, Shape.read, hl, ha]

/-- An instruction on registers that puts a result of one register computes it. -/
theorem State.computes_of_put {s : State} {t : Team} {i : Instr} {len : Nat} {vd : BitVec 6} {nw : Bool} {tag : Tag}
    {f : Nat → Nat} {body : View → Except Stop View} {r : Res} (hi : s.issuer? = some t)
    (hx : exec i s = regOp len body s) (hb : body (s.viewOf t) = .ok ((s.viewOf t).put vd nw r))
    (hp : tag.isPair = false) (hr : r.Holds (s.viewOf t) tag f) : s.Computes t i len vd nw tag f := by
  obtain ⟨htag, hhi, hval⟩ := hr
  obtain ⟨hid, hcore⟩ := (s.viewOf t).team_put vd nw r
  refine ⟨r, State.registers_of_regOp hi hx hb hid hcore, ⟨htag, by simp [hhi]⟩, by simp [hhi, hp], fun l hl ha => ?_⟩
  simpa [Res.val, hhi, hp] using hval l hl ha

/-! ## Bodies of two sources (R182, R186, R187) -/

section
variable {s : State} {t : Team} {i : Instr} {len : Nat} {x y : Src} {va vb : VSrc} {vd : BitVec 6} {nw : Bool}
  (hi : s.issuer? = some t) (hd : (s.viewOf t).checkV posD vd false = .ok ())
  (hc : (s.viewOf t).consume [x, y] = .ok ())

/-- Two operands that are both uniform give one word in every lane. -/
theorem Src.lo_uniform₂ {x y : Src} (h : (x.uniform && y.uniform) = true) (l : Nat) :
    x.lo.read l = x.lo.read 0 ∧ y.lo.read l = y.lo.read 0 := by
  obtain ⟨hx, hy⟩ := Bool.and_eq_true_iff.mp h
  obtain ⟨ux, -⟩ := Bool.and_eq_true_iff.mp hx
  obtain ⟨uy, -⟩ := Bool.and_eq_true_iff.mp hy
  exact ⟨VReg.read_of_isUniform ux l, VReg.read_of_isUniform uy l⟩

include hi hd hc

/-- A lane-wise instruction on a format of 32 bits. -/
theorem State.computes_laneTwo {f : Fmt} {op : Nat → Nat → Nat} (hf : f.bits = 32) (hp : f.isPair = false)
    (hpl : ∀ b, f.place b = b % 2 ^ 32) (hx : (s.viewOf t).readV posSA va f = .ok x)
    (hy : (s.viewOf t).readV posSB vb f = .ok y) (he : exec i s = regOp len (laneTwo f f op vb va vd nw) s) :
    s.Computes t i len vd nw (.fmt f) fun l => op (x.bits f l) (y.bits f l) := by
  have body : laneTwo f f op vb va vd nw (s.viewOf t) = .ok ((s.viewOf t).put vd nw
      ((s.viewOf t).lanewise (.fmt f) (x.uniform && y.uniform) fun l => f.place (op (x.bits f l) (y.bits f l)))) := by
    simp only [laneTwo, hx, hy, hp, hd, hc, Encoding.bind_ok]
    rfl
  have bits (a : Src) (l : Nat) : a.bits f l = (a.lo.read l).toNat := by rw [Src.bits, hf, Src.val_mod]
  have holds := (s.viewOf t).lanewise_holds (tag := .fmt f) hp (u := x.uniform && y.uniform)
    (f := fun l => f.place (op (x.bits f l) (y.bits f l))) fun hu l => by
      obtain ⟨ux, uy⟩ := Src.lo_uniform₂ hu l
      simp only [bits, ux, uy]
  obtain ⟨htag, hhi, hval⟩ := holds
  refine State.computes_of_put hi he body hp ⟨htag, hhi, fun l hl ha => ?_⟩
  rw [hval l hl ha]
  simp only [hpl, Nat.mod_mod]

/-- An integer instruction on words whose result may have a shape. -/
theorem State.computes_intShaped {it : IType} {op : IntOp} {word : BitVec 32 → BitVec 32 → BitVec 32}
    (h32 : it.shape.2 = 32) (hf : it.fmt.bits = 32) (hp : it.fmt.isPair = false)
    (hop : ∀ a b : BitVec 32, intArith op it.shape.1 32 a.toNat b.toNat = (word a b).toNat)
    (hsh : ∀ a b sh l, IntOp.shapeOf op a b = some sh → sh.read l = word (a.read l) (b.read l))
    (hx : (s.viewOf t).readV posSA va it.fmt = .ok x) (hy : (s.viewOf t).readV posSB vb it.fmt = .ok y)
    (he : exec i s = regOp len (intShaped op vb va vd nw it) s) :
    s.Computes t i len vd nw (.fmt it.fmt) fun l => (word (x.lo.read l) (y.lo.read l)).toNat := by
  have bits (a : Src) (l : Nat) : a.bits it.fmt l = (a.lo.read l).toNat := by rw [Src.bits, hf, Src.val_mod]
  cases shape : IntOp.shapeOf op x.lo.shape y.lo.shape with
  | some sh =>
    have body : intShaped op vb va vd nw it (s.viewOf t) =
        .ok ((s.viewOf t).put vd nw (Res.ofShape (.fmt it.fmt) sh)) := by
      simp only [intShaped, hx, hy, hp, hd, hc, Encoding.bind_ok]
      simp [shape]
      rfl
    refine State.computes_of_put hi he body hp ⟨rfl, rfl, fun l _ _ => ?_⟩
    rw [Nat.mod_eq_of_lt (BitVec.isLt _)]
    exact congrArg BitVec.toNat (hsh _ _ _ l shape)
  | none =>
    have body : intShaped op vb va vd nw it (s.viewOf t) = .ok ((s.viewOf t).put vd nw
        ((s.viewOf t).lanewise (.fmt it.fmt) (x.uniform && y.uniform) fun l =>
          (word (x.lo.read l) (y.lo.read l)).toNat)) := by
      simp only [intShaped, hx, hy, hp, hd, hc, h32, bits, hop, Encoding.bind_ok]
      simp [shape]
      rfl
    refine State.computes_of_put hi he body hp ((s.viewOf t).lanewise_holds (tag := .fmt it.fmt) hp fun hu l => ?_)
    obtain ⟨ux, uy⟩ := Src.lo_uniform₂ hu l
    rw [ux, uy]

omit hi hd hc in
/-- An operand of any single tag is a single register. -/
theorem View.pair_of_readSingle {v : View} {pos : Nat} {a : VSrc} {f : Fmt} {z : Src} (hf : f.isPair = false)
    (h : v.readSingle pos a f = .ok z) : z.pair = false := by
  have register {e : Except Stop Src} {g : Src → Except Stop Unit}
      (h : (do let x ← e; g x; return { x with pair := false }) = .ok z) : z.pair = false := by
    cases he : e with
    | error r => rw [he] at h; cases h
    | ok x =>
      rw [he, Encoding.bind_ok] at h
      cases hg : g x with
      | error r => rw [hg] at h; cases h
      | ok u => rw [hg] at h; cases h; rfl
  cases a with
  | imm i =>
    cases h
    exact hf
  | v r => exact register h
  | o r => exact register h
  | x r => exact register h

/-- A bit operation on words. -/
theorem State.computes_bitTwo {op : Nat → Nat → Nat} {word : BitVec 32 → BitVec 32 → BitVec 32}
    (hop : ∀ a b : BitVec 32, op a.toNat b.toNat = (word a b).toNat)
    (hx : (s.viewOf t).readSingle posSA va .b32 = .ok x) (hy : (s.viewOf t).readSingle posSB vb .b32 = .ok y)
    (he : exec i s = regOp len (bitTwo op vb va vd nw) s) :
    s.Computes t i len vd nw (.fmt .b32) fun l => (word (x.lo.read l) (y.lo.read l)).toNat := by
  have val {z : Src} (hz : z.pair = false) (l : Nat) : z.val l = (z.lo.read l).toNat := by simp [Src.val, hz]
  have body : bitTwo op vb va vd nw (s.viewOf t) = .ok ((s.viewOf t).put vd nw
      ((s.viewOf t).lanewise (.fmt .b32) (x.uniform && y.uniform) fun l =>
        (word (x.lo.read l) (y.lo.read l)).toNat % 2 ^ 32)) := by
    simp only [bitTwo, hx, hy, hd, hc, Encoding.bind_ok, val (View.pair_of_readSingle rfl hx),
      val (View.pair_of_readSingle rfl hy), hop]
    rfl
  obtain ⟨htag, hhi, hval⟩ := (s.viewOf t).lanewise_holds (tag := .fmt .b32) rfl (u := x.uniform && y.uniform)
    (f := fun l => (word (x.lo.read l) (y.lo.read l)).toNat % 2 ^ 32) fun hu l => by
      obtain ⟨ux, uy⟩ := Src.lo_uniform₂ hu l
      simp only [ux, uy]
  exact State.computes_of_put hi he body rfl ⟨htag, hhi, fun l hl ha => by rw [hval l hl ha]; exact Nat.mod_mod ..⟩

end

/-! ## The obligation -/

/-- Settles O11: each 16-bit form is its 32-bit equivalent's body with SA = VD, two bytes long; the bodies' results are
those of `State.computes_laneTwo`, `State.computes_intShaped` and `State.computes_bitTwo`. -/
theorem shortFormResults : Obligations.ShortFormResults := by
  unfold Obligations.ShortFormResults
  refine fun s t ss vd x y hi => ⟨fun hy hd => ?mov, fun hc hd =>
    ⟨fun hf => ?float, fun hs => ?signed, fun hn => ?natural, fun hb => ?bits⟩⟩
  case mov =>
    obtain ⟨hid, hcore⟩ := (s.viewOf t).team_put vd false { lo := y.lo, hi := if y.pair then some y.hi else none }
    refine State.registers_of_regOp (f := moveReg (shortSrc ss) vd false) hi rfl ?_ hid hcore
    simp only [moveReg, hy, hd, Encoding.bind_ok]
    rfl
  case float =>
    obtain ⟨hx, hy⟩ := hf
    have lanes {i : Instr} {op : Nat → Nat → Nat}
        (he : exec i s = regOp 2 (laneTwo .f32 .f32 op (shortSrc ss) (.v vd) vd false) s) :=
      State.computes_laneTwo hi hd hc rfl rfl (fun _ => rfl) hx hy he
    exact ⟨lanes (op := floatArith .add fmtF32 .rne) rfl, lanes (op := floatArith .sub fmtF32 .rne) rfl,
      lanes (op := floatArith .mul fmtF32 .rne) rfl, lanes rfl, lanes rfl⟩
  case signed =>
    obtain ⟨hx, hy⟩ := hs
    have shaped {i : Instr} {op : IntOp} {word : BitVec 32 → BitVec 32 → BitVec 32} :=
      State.computes_intShaped (i := i) (op := op) (word := word) (it := .s32) (len := 2) (vb := shortSrc ss)
        (va := .v vd) (nw := false) hi hd hc rfl rfl rfl
    exact ⟨shaped (intArith_add true) (fun _ _ _ l h => Shape.read_addShape h l) hx hy rfl,
      shaped (intArith_sub true) (fun _ _ _ l h => Shape.read_addShape h l) hx hy rfl,
      shaped (intArith_mul true) (fun _ _ _ l h => Shape.read_mulShape h l) hx hy rfl⟩
  case natural =>
    obtain ⟨hx, hy⟩ := hn
    have shaped {i : Instr} {op : IntOp} {word : BitVec 32 → BitVec 32 → BitVec 32} :=
      State.computes_intShaped (i := i) (op := op) (word := word) (it := .n32) (len := 2) (vb := shortSrc ss)
        (va := .v vd) (nw := false) hi hd hc rfl rfl rfl
    refine ⟨shaped (intArith_add false) (fun _ _ _ l h => Shape.read_addShape h l) hx hy rfl,
      shaped (intArith_sub false) (fun _ _ _ l h => Shape.read_addShape h l) hx hy rfl,
      shaped (intArith_shl false) (fun _ _ _ l h => Shape.read_shlShape h l) hx hy rfl, ?_⟩
    have done := State.computes_laneTwo (op := intArith .shr false 32) (f := .n32) (i := .shrN32Short ss vd)
      (len := 2) (nw := false) hi hd hc rfl rfl (fun _ => rfl) hx hy rfl
    have bits (a : Src) (l : Nat) : a.bits .n32 l = (a.lo.read l).toNat := Src.val_mod a l
    simp only [bits, intArith_shr] at done
    exact done
  case bits =>
    obtain ⟨hx, hy⟩ := hb
    exact ⟨State.computes_bitTwo hi hd hc (fun _ _ => (BitVec.toNat_and ..).symm) hx hy rfl,
      State.computes_bitTwo hi hd hc (fun _ _ => (BitVec.toNat_or ..).symm) hx hy rfl,
      State.computes_bitTwo hi hd hc (fun _ _ => (BitVec.toNat_xor ..).symm) hx hy rfl⟩

end Sys2Proof.Machine

/-!
Fences of fetches and of translations (R151, R301): a release and the wait for what it covers leave the gangs alone, and
the cached translations of the cores of a scope are dropped after it.
-/

namespace Sys2Proof.Machine

/-! ## The gangs through publications (R103, R106, R109) -/

/-- A run of operations that each keep the gangs keeps them. -/
theorem State.gangs_foldl {α : Type} {f : State → α → State} (h : ∀ s a, (f s a).gangs = s.gangs) (xs : List α)
    (s : State) : (xs.foldl f s).gangs = s.gangs := by
  induction xs generalizing s with
  | nil => rfl
  | cons x xs ih => exact (ih (f s x)).trans (h s x)

section
variable (s : State)

@[simp] theorem State.gangs_syncFlows (core : Nat) (devs : List (BitVec 10)) :
    (s.syncFlows core devs).gangs = s.gangs := by
  obtain ⟨_, _, h⟩ := State.syncFlows_sameButFlows (s := s) core devs
  rw [h]

@[simp] theorem State.gangs_backInvalidate (g : Nat) : (s.backInvalidate g).gangs = s.gangs := by
  unfold State.backInvalidate
  split <;> rfl

@[simp] theorem State.gangs_setPoison (g : Nat) (on : Bool) : (s.setPoison g on).gangs = s.gangs := rfl

@[simp] theorem State.gangs_takeOver (n : Option (BitVec 8)) (g : Nat) : (s.takeOver n g).gangs = s.gangs := by
  unfold State.takeOver
  extract_lets h u
  have kept : u.gangs = s.gangs := (apply_ite State.gangs _ _ _).trans (ite_self _)
  clear_value u h
  split
  · split
    · exact kept
    · exact kept
  · exact kept
  · exact kept

@[simp] theorem State.gangs_applyReduce (key : Nat) (op : BitVec 4) (f : Fmt) (v : BitVec 64) (poison : Bool) :
    (s.applyReduce key op f v poison).gangs = s.gangs := by
  unfold State.applyReduce
  cases poison <;> exact s.gangs_backInvalidate _

@[simp] theorem State.gangs_settle (g : Nat) : (s.settle g).gangs = s.gangs := by
  unfold State.settle
  split
  · rfl
  · exact State.gangs_foldl (fun u e => u.gangs_applyReduce _ _ _ _ _) _ _

@[simp] theorem State.gangs_granWrite (g : Nat) (data : List Byte) (mask : BitVec 32) (poison : Bool) :
    (s.granWrite g data mask poison).gangs = s.gangs := by
  unfold State.granWrite
  split
  · simp
  · split <;> simp

@[simp] theorem State.gangs_applyEntry (e : LogEntry) : (s.applyEntry e).gangs = s.gangs := by
  unfold State.applyEntry
  split
  · rfl
  · have taken := State.gangs_foldl (f := fun (s : State) g => s.takeOver (some e.tenant) g)
      (fun u g => u.gangs_takeOver _ _) e.grans s
    dsimp only
    split
    · rw [State.gangs_granWrite, taken]
    · refine (State.gangs_foldl (fun u k => ?_) _ _).trans taken
      split
      · rfl
      · simp
    · exact (State.gangs_foldl (fun u i => u.gangs_granWrite _ _ _ _) _ _).trans taken

@[simp] theorem State.gangs_land (f : Flight) : (s.land f).gangs = s.gangs := by simp [State.land]

@[simp] theorem State.gangs_sendPub (core pub : Nat) : (s.sendPub core pub).gangs = s.gangs := by simp [State.sendPub]

@[simp] theorem State.gangs_ack (core : Nat) : (s.ack core).gangs = s.gangs := rfl

@[simp] theorem State.gangs_prunePubs : s.prunePubs.gangs = s.gangs := rfl

@[simp] theorem State.gangs_forceTo (seq : Nat) : (s.forceTo seq).gangs = s.gangs := by
  unfold State.forceTo
  dsimp only
  rw [State.gangs_prunePubs, State.gangs_foldl fun u p => u.gangs_ack _, State.gangs_foldl State.gangs_land]
  exact State.gangs_foldl (fun u p => u.gangs_sendPub _ _) _ _

@[simp] theorem State.gangs_recordPubOf (core team gang : Nat) (sc : Scope) (cover : LogEntry → Bool) :
    (s.recordPubOf core team gang sc cover).gangs = s.gangs := by
  unfold State.recordPubOf
  dsimp only
  split <;> rfl

@[simp] theorem State.gangs_publishTail (t : Team) (sc : Scope) (tail : BitVec 48) :
    (s.publishTail t sc tail).gangs = s.gangs := by
  unfold State.publishTail
  split
  · rfl
  · exact s.gangs_recordPubOf _ _ _ _ _

@[simp] theorem State.gangs_recordPending (team : Nat) : (s.recordPending team).gangs = s.gangs := by
  unfold State.recordPending
  split
  · rfl
  · exact State.gangs_foldl (fun u p => u.gangs_publishTail _ _ _) _ _

@[simp] theorem State.gangs_publish (team : Nat) (sc : Scope) : (s.publish team sc).gangs = s.gangs := by
  unfold State.publish
  dsimp only
  split <;> simp

@[simp] theorem State.gangs_publishAndWait (team : Nat) (sc : Scope) : (s.publishAndWait team sc).gangs = s.gangs := by
  unfold State.publishAndWait
  dsimp only
  split <;> simp

@[simp] theorem State.gangs_append (t : Team) (e : LogEntry) : (s.append t e).gangs = s.gangs := by
  unfold State.append
  dsimp only
  split <;> rfl

@[simp] theorem State.gangs_flush (t : Team) (sel : LogEntry → Bool) : (s.flush t sel).gangs = s.gangs :=
  State.gangs_foldl (fun u e => u.gangs_append t e) _ _

end

/-! ## The release of `tcinv` and `tcinva` (R301) -/

/-- Whether a log entry is of a team. -/
def LogEntry.ofTeam (t : Team) (e : LogEntry) : Bool := e.team == t.id

/-- The state once what a team has appended is applied at its homes. -/
def State.published (s : State) (t : Team) : State :=
  (if 1 ≤ s.levelOf t then s.flush t (LogEntry.ofTeam t) else s).publishAndWait t.id .device

theorem State.gangOf?_published (s : State) (t u : Team) : (s.published t).gangOf? u = s.gangOf? u := by
  have gangs : (s.published t).gangs = s.gangs := by
    unfold State.published
    split <;> simp
  rw [State.gangOf?, State.gang?, gangs]
  rfl

section
variable {s : State} {t : Team} (ht : s.team? t.id = some t) (hp : t.pend = []) (hpub : s.pendPubs = [])
include ht hp

/-- A team with nothing outstanding has nothing to complete. -/
theorem M.bind_of_pend_nil : M.bind t s = .ok () s := by
  unfold M.bind
  rw [M.modify_run, State.bindPath, ht]
  simp only [hp, State.completeIn]

include hpub

/-- A release that waits for nothing publishes what the team has appended and applies it. -/
theorem M.publishAll_eq (hap : t.ap = 0) (hfl : 1 ≤ s.levelOf t → s.flushes t (LogEntry.ofTeam t) = true) :
    M.publishAll t s = .ok () (s.published t) := by
  have counted : (t.ap != 0) = false := by simp [hap]
  unfold M.publishAll State.published
  rw [counted, M.bind_ok (M.stopIf_false _ s), M.bind_ok (M.bind_of_pend_nil ht hp), M.bind_ok (M.modify_run _ s),
    State.recordPending_of_nil ht hpub, M.bind_ok (M.get_run s)]
  by_cases hl : 1 ≤ s.levelOf t
  · have flushed : M.flush t .logFull (LogEntry.ofTeam t) s = .ok () (s.flush t (LogEntry.ofTeam t)) := by
      unfold M.flush
      rw [M.bind_ok (M.get_run s), hfl hl]
      rfl
    rw [if_pos hl, if_pos hl]
    exact M.bind_ok flushed
  · rw [if_neg hl, if_neg hl]
    rfl

end

/-! ## The operands of `tcinva` -/

theorem extractLsb'_eq_zero_of_lt {a : Word} (h : a.toNat < 2 ^ 9) : (a.extractLsb' 9 55 != 0) = false := by
  have zero : a.extractLsb' 9 55 = 0 := BitVec.eq_of_toNat_eq (by
    simp only [BitVec.extractLsb'_toNat, Nat.shiftRight_eq_div_pow]
    simp
    omega)
  rw [zero]
  rfl

theorem extractLsb'_ne_zero_of_le {a : Word} (h : 2 ^ 9 ≤ a.toNat) : (a.extractLsb' 9 55 != 0) = true := by
  refine bne_iff_ne.mpr fun zero => ?_
  have number := congrArg BitVec.toNat zero
  have bound := a.isLt
  simp only [BitVec.extractLsb'_toNat, Nat.shiftRight_eq_div_pow] at number
  simp at number
  omega

/-- Below 2 ^ 9 the bit says whether every tenant is named, and the low byte which one is (R301). -/
theorem tcinva_names {a : Word} (h : a.toNat < 2 ^ 9) (n : BitVec 8) :
    (a.getLsbD 8 || n == a.extractLsb' 0 8) = (decide (2 ^ 8 ≤ a.toNat) || n.toNat == a.toNat) := by
  have all : a.getLsbD 8 = decide (2 ^ 8 ≤ a.toNat) := by
    rw [BitVec.getLsbD, Nat.testBit_eq_decide_div_mod_eq]
    exact decide_eq_decide.mpr (by omega)
  rw [all]
  by_cases hall : 2 ^ 8 ≤ a.toNat
  · rw [decide_eq_true hall, Bool.true_or, Bool.true_or]
  · have low : (a.extractLsb' 0 8).toNat = a.toNat := by
      simp only [BitVec.extractLsb'_toNat]
      simp
      omega
    rw [decide_eq_false hall, Bool.false_or, Bool.false_or, ← low, Bool.eq_iff_iff, beq_iff_eq, beq_iff_eq,
      BitVec.toNat_inj]

/-! ## The obligation -/

/-- The team with nothing fetched ahead (R151). -/
def Team.unfetched (t : Team) : Team := { t with prefetched := [] }

/-- An instruction of four bytes whose body changes the issuing team leaves the changed team, moved behind it. -/
theorem State.teamStep_of_changed {s : State} {t : Team} {i : Instr} {body : Team → M Done} {f : Team → Team}
    (hi : s.issuer? = some t) (hx : exec i s = issue 4 body s) (hb : body t s = .ok .next (s.modTeam t.id f))
    (hf : ∀ u, (f u).id = u.id) :
    s.TeamStep t i (((f t).moveTo (t.arm.pc + 4)).countRetired (!t.isSystem) s.tick.toNat) := by
  refine State.teamStep_of_exec (fun u => ((f u).moveTo (t.arm.pc + 4)).countRetired (!t.isSystem) s.tick.toNat) hi
    (by simp [hf]) ?_
  rw [hx, issue_ok hi hb, State.retire_next, State.modTeam_modTeam s t.id f _ hf]
  rfl

/-- An instruction of four bytes whose body goes on has its body's effect. -/
theorem State.effect_of_issue {s w : State} {t : Team} {i : Instr} {body : Team → M Done} (hi : s.issuer? = some t)
    (hx : exec i s = issue 4 body s) (hb : body t s = .ok .next w) : s.Effect t i w := hx.trans (issue_ok hi hb)

/-- An instruction whose body traps without having changed anything traps. -/
theorem State.traps_of_issue {s : State} {t : Team} {i : Instr} {body : Team → M Done} {len : Nat} {code : BitVec 9}
    {a : Word} (hi : s.issuer? = some t) (hx : exec i s = issue len body s)
    (hb : body t s = .error (.trap code a none) s) : s.Traps t i code a := hx.trans (issue_trap hi hb)

theorem M.system_of_isSystem {t : Team} (h : t.isSystem = true) (word : BitVec 32) (s : State) :
    M.system t word s = .ok () s := by
  rw [M.system, h]
  rfl

/-- Settles O45: `ifence` changes the issuing team alone; `tcinv` and `tcinva` release (`M.publishAll_eq`), which leaves
the gang's tenant as it was (`State.gangOf?_published`), and then drop what they name. -/
theorem instructionAndTranslationFences : Obligations.InstructionAndTranslationFences := by
  unfold Obligations.InstructionAndTranslationFences
  intro s t g sc sa a hi hg ha hp hpub mine published dropped
  have ht := s.team?_of_issuer t hi
  have read : M.read t (fun v => v.readS posSA sa) s = .ok a s := by rw [M.read_eq t _ s ht, ha]
  refine ⟨?ifence, fun hsys hap hfl => ?_⟩
  case ifence =>
    exact State.teamStep_of_changed (f := Team.unfetched) hi rfl (by rfl) fun _ => rfl
  have released : M.publishAll t s = .ok () (s.published t) := M.publishAll_eq ht hp hpub hap hfl
  refine ⟨?tcinv, fun small => ?tcinva, fun large => ?trap⟩
  case tcinv =>
    refine State.effect_of_issue (body := invalidatePage sc sa) hi rfl ?_
    unfold invalidatePage
    rw [M.bind_ok (M.system_of_isSystem hsys _ s), M.bind_ok read, M.bind_ok released, M.bind_ok (M.get_run _),
      State.gangOf?_published, hg]
    rfl
  case tcinva =>
    refine State.effect_of_issue (body := invalidateTenant sc sa) hi rfl ?_
    unfold invalidateTenant
    rw [M.bind_ok (M.system_of_isSystem hsys _ s), M.bind_ok read, extractLsb'_eq_zero_of_lt small,
      M.bind_ok (M.stopIf_false _ s), M.bind_ok released]
    simp only [tcinva_names small]
    rfl
  case trap =>
    refine State.traps_of_issue (body := invalidateTenant sc sa) hi rfl ?_
    unfold invalidateTenant
    rw [M.bind_ok (M.system_of_isSystem hsys _ s), M.bind_ok read, extractLsb'_ne_zero_of_le large,
      M.bind_error (M.stopIf_true _ s)]
    rfl

end Sys2Proof.Machine

/-!
Scalar results (R163 to R165): the value that each operation on words gives, as R163 writes it, and the instructions that
read one or two scalars and write one.
-/

namespace Sys2Proof.Machine

/-! ## Operations on words as R163 writes them -/

section
variable (a b : Word)

theorem add_eq_ofNat : a + b = BitVec.ofNat 64 (a.toNat + b.toNat) := by
  simp only [BitVec.ofNat_add, BitVec.ofNat_toNat, BitVec.setWidth_eq]

theorem sub_eq_ofInt : a - b = BitVec.ofInt 64 ((a.toNat : Int) - b.toNat) := by
  simp only [ofInt_sub, BitVec.ofInt_natCast, BitVec.ofNat_toNat, BitVec.setWidth_eq]

theorem mul_eq_ofNat : a * b = BitVec.ofNat 64 (a.toNat * b.toNat) := by
  simp only [BitVec.ofNat_mul, BitVec.ofNat_toNat, BitVec.setWidth_eq]

theorem shiftLeft_eq_ofNat (n : Nat) : a <<< n = BitVec.ofNat 64 (a.toNat * 2 ^ n) :=
  BitVec.eq_of_toNat_eq (by rw [BitVec.toNat_shiftLeft, Nat.shiftLeft_eq, BitVec.toNat_ofNat])

theorem ushiftRight_eq_ofNat (n : Nat) : a >>> n = BitVec.ofNat 64 (a.toNat / 2 ^ n) := by
  rw [← Nat.shiftRight_eq_div_pow, ← BitVec.toNat_ushiftRight, BitVec.ofNat_toNat, BitVec.setWidth_eq]

theorem sshiftRight_eq_ofInt (n : Nat) : a.sshiftRight n = BitVec.ofInt 64 (a.toInt / 2 ^ n) := by
  rw [BitVec.sshiftRight_eq, Int.shiftRight_eq_div_pow]
  norm_cast

theorem sdivSigned_eq : sdivSigned a b = if b = 0 then BitVec.allOnes 64 else BitVec.ofInt 64 (a.toInt.tdiv b.toInt) := by
  simp only [sdivSigned, beq_iff_eq]
  rfl

theorem sdivUnsigned_eq : sdivUnsigned a b = if b = 0 then BitVec.allOnes 64 else BitVec.ofNat 64 (a.toNat / b.toNat) := by
  simp only [sdivUnsigned, beq_iff_eq]
  rfl

theorem sremSigned_eq :
    sremSigned a b = if b = 0 then a else BitVec.ofInt 64 (a.toInt - b.toInt * a.toInt.tdiv b.toInt) := by
  simp only [sremSigned, beq_iff_eq, Int.tmod_def]

theorem sremUnsigned_eq :
    sremUnsigned a b = if b = 0 then a else BitVec.ofNat 64 (a.toNat - b.toNat * (a.toNat / b.toNat)) := by
  simp only [sremUnsigned, beq_iff_eq, Nat.mod_def]

/-- Between equal things a strict comparison chooses as well as a weak one. -/
theorem ite_lt_eq_ite_le {α β : Type} [LinearOrder α] {i j : α} {x y : β} (h : i = j → x = y) :
    (if i < j then x else y) = if i ≤ j then x else y := by
  rcases lt_trichotomy i j with lt | eq | gt
  · rw [if_pos lt, if_pos lt.le]
  · rw [if_neg eq.not_lt, if_pos eq.le, h eq]
  · rw [if_neg gt.not_gt, if_neg gt.not_ge]

theorem ite_slt_eq {x y : Word} (h : a = b → x = y) :
    (if a.slt b then x else y) = if a.toInt ≤ b.toInt then x else y := by
  simp only [BitVec.slt_iff_toInt_lt]
  exact ite_lt_eq_ite_le fun e => h (BitVec.eq_of_toInt_eq e)

theorem ite_ult_eq {x y : Word} (h : a = b → x = y) :
    (if a.ult b then x else y) = if a.toNat ≤ b.toNat then x else y := by
  simp only [BitVec.ult_iff_toNat_lt]
  exact ite_lt_eq_ite_le fun e => h (BitVec.eq_of_toNat_eq e)

theorem truth_slt : truth (a.slt b) = if a.toInt < b.toInt then 1 else 0 := by
  simp only [truth, BitVec.slt_iff_toInt_lt]

theorem truth_ult : truth (a.ult b) = if a.toNat < b.toNat then 1 else 0 := by
  simp only [truth, BitVec.ult_iff_toNat_lt]

theorem truth_beq : truth (a == b) = if a = b then 1 else 0 := by
  simp only [truth, beq_iff_eq]

theorem ofNat_clzBits :
    BitVec.ofNat 64 (clzBits 64 a.toNat) = if a = 0 then 64 else BitVec.ofNat 64 (63 - a.toNat.log2) := by
  unfold clzBits bitLen
  rw [Nat.mod_eq_of_lt a.isLt]
  by_cases h : a = 0
  · subst h
    rfl
  · have positive : a.toNat ≠ 0 := fun zero => h (BitVec.eq_of_toNat_eq zero)
    rw [if_neg positive, if_neg h, Nat.add_comm, Nat.sub_add_eq]

end

/-! ## Quarters of a word (R165) -/

/-- Replacing a quarter replaces its 16 bits. -/
theorem getLsbD_setQuarter (x : Word) (q : BitVec 2) (imm : BitVec 16) {i : Nat} (hi : i < 64) :
    (setQuarter x q imm).getLsbD i = if i / 16 = q.toNat then imm.getLsbD (i % 16) else x.getLsbD i := by
  have window : (0xFFFF#64).getLsbD (i - 16 * q.toNat) = decide (i - 16 * q.toNat < 16) := by
    rw [show 0xFFFF#64 = BitVec.ofNat 64 (2 ^ 16 - 1) from rfl, BitVec.getLsbD_ofNat, Nat.testBit_two_pow_sub_one,
      decide_eq_true (by omega), Bool.true_and]
  simp only [setQuarter, BitVec.getLsbD_or, BitVec.getLsbD_and, BitVec.getLsbD_not, BitVec.getLsbD_shiftLeft,
    BitVec.getLsbD_setWidth, window, hi]
  by_cases hq : i / 16 = q.toNat
  · have off : i - 16 * q.toNat = i % 16 := by omega
    have low : ¬ i < 16 * q.toNat := by omega
    simp [hq, low, off, Nat.mod_lt, show i % 16 < 64 by omega]
  · rw [if_neg hq]
    by_cases low : i < 16 * q.toNat
    · simp [low]
    · have high : 16 ≤ i - 16 * q.toNat := by omega
      simp [low, Nat.not_lt.mpr high, BitVec.getLsbD_of_ge imm _ high]

/-- Over zeros a quarter is the immediate shifted there. -/
theorem setQuarter_zero (q : BitVec 2) (imm : BitVec 16) :
    setQuarter 0 q imm = BitVec.ofNat 64 (imm.toNat * 2 ^ (16 * q.toNat)) := by
  have width : (imm.setWidth 64).toNat = imm.toNat := BitVec.toNat_setWidth_of_le (by decide)
  rw [setQuarter, show (0 : Word) = 0#64 from rfl, BitVec.zero_and, BitVec.zero_or, shiftLeft_eq_ofNat, width]

/-! ## Instructions that write one scalar -/

section
variable {s : State} {t : Team} {i : Instr} {sb sa : SSrc} {sd : BitVec 6} {a b x : Word} (hi : s.issuer? = some t)
  (ha : (s.viewOf t).readS posSA sa = .ok a) (hd : (s.viewOf t).checkS posD sd = .ok ())
include hi ha hd

theorem State.registers_scalarTwo {f : Word → Word → Word} (hb : (s.viewOf t).readS posSB sb = .ok b)
    (hx : exec i s = regOp 4 (scalarTwo f sb sa sd) s) (hf : f a b = x) :
    s.Registers t i 4 ((s.viewOf t).setS sd x) := by
  refine State.registers_of_regOp hi hx ?_ (View.team_id_setS ..) (View.team_core_setS ..)
  rw [scalarTwo, ha, hb, Encoding.bind_ok, Encoding.bind_ok, View.writeS_of_checkS hd, hf]

theorem State.registers_scalarOne {f : Word → Word} (hx : exec i s = regOp 4 (scalarOne f sa sd) s) (hf : f a = x) :
    s.Registers t i 4 ((s.viewOf t).setS sd x) := by
  refine State.registers_of_regOp hi hx ?_ (View.team_id_setS ..) (View.team_core_setS ..)
  rw [scalarOne, ha, Encoding.bind_ok, View.writeS_of_checkS hd, hf]

end

/-- Settles O1: the body of every instruction of major 20 is `scalarTwo` or `scalarOne` of its operation, and so are those
of the immediate forms; each operation gives the value of R163. -/
theorem scalarResults : Obligations.ScalarResults := by
  unfold Obligations.ScalarResults
  refine ⟨fun s t sb sa sd a b hi ha hb hd => ?two, fun s t sa sd a imm amt hi ha hd => ?one⟩
  case two =>
    have gives {i : Instr} {f : Word → Word → Word} {x : Word} (hx : exec i s = regOp 4 (scalarTwo f sb sa sd) s)
        (hf : f a b = x) : s.Registers t i 4 ((s.viewOf t).setS sd x) :=
      State.registers_scalarTwo hi ha hd hb hx hf
    exact ⟨gives rfl (add_eq_ofNat a b), gives rfl (sub_eq_ofInt a b), gives rfl (mul_eq_ofNat a b), gives rfl rfl,
      gives rfl rfl, gives rfl (sdivSigned_eq a b), gives rfl (sdivUnsigned_eq a b), gives rfl (sremSigned_eq a b),
      gives rfl (sremUnsigned_eq a b), gives rfl rfl, gives rfl rfl, gives rfl rfl, gives rfl rfl,
      gives rfl (shiftLeft_eq_ofNat a _), gives rfl (ushiftRight_eq_ofNat a _), gives rfl (sshiftRight_eq_ofInt a _),
      gives rfl rfl, gives rfl (ite_slt_eq a b id), gives rfl (ite_ult_eq a b id),
      gives rfl (ite_slt_eq a b Eq.symm), gives rfl (ite_ult_eq a b Eq.symm), gives rfl (truth_slt a b),
      gives rfl (truth_ult a b), gives rfl (truth_beq a b)⟩
  case one =>
    have gives {i : Instr} {f : Word → Word} {x : Word} (hx : exec i s = regOp 4 (scalarOne f sa sd) s)
        (hf : f a = x) : s.Registers t i 4 ((s.viewOf t).setS sd x) :=
      State.registers_scalarOne hi ha hd hx hf
    have whole : amt.toNat % 64 = amt.toNat := Nat.mod_eq_of_lt amt.isLt
    have added : a + imm.signExtend 64 = BitVec.ofInt 64 ((a.toNat : Int) + imm.toInt) := by
      rw [BitVec.ofInt_add, BitVec.ofInt_natCast, BitVec.ofNat_toNat, BitVec.setWidth_eq]
      rfl
    have widened : imm.setWidth 64 = BitVec.ofNat 64 imm.toNat := (BitVec.ofNat_toNat ..).symm
    refine ⟨gives rfl rfl, gives rfl (ofNat_clzBits a), gives rfl rfl, gives rfl rfl, gives rfl added,
      gives rfl (by rw [widened]), gives rfl (by rw [widened]), gives rfl (by rw [widened]), gives rfl ?_, gives rfl ?_,
      gives rfl ?_, gives rfl ?_⟩
    · rw [sshlBy, whole, shiftLeft_eq_ofNat]
    · rw [sshrBy, whole, ushiftRight_eq_ofNat]
    · rw [ssarBy, whole, sshiftRight_eq_ofInt]
    · rw [srotlBy, whole]

end Sys2Proof.Machine

/-!
Wide constants (R165): the words of formats SU and BS as numbers, and what `sli` and `slk` write.
-/

namespace Sys2Proof.Encoding

/-! ## Words written as numbers (R155) -/

theorem toNat_append_eq_add {n m : Nat} (x : BitVec n) (y : BitVec m) :
    (x ++ y).toNat = x.toNat * 2 ^ m + y.toNat := by
  rw [BitVec.toNat_append, ← Nat.shiftLeft_add_eq_or_of_lt y.isLt, Nat.shiftLeft_eq]

theorem asmSU_eq_ofNat (imm : BitVec 16) (q : BitVec 2) (sd : BitVec 6) (k : BitVec 1) :
    asmSU imm q sd k = BitVec.ofNat 32
      (imm.toNat * 2 ^ 16 + q.toNat * 2 ^ 14 + sd.toNat * 2 ^ 8 + k.toNat * 2 ^ 7 + 26 * 2 + 1) := by
  refine BitVec.eq_of_toNat_eq ?_
  have imm_lt := imm.isLt
  have q_lt := q.isLt
  have sd_lt := sd.isLt
  have k_lt := k.isLt
  simp only [asmSU, toNat_append_eq_add, BitVec.toNat_ofNat]
  omega

theorem asmBS_eq_ofNat (off : BitVec 16) (cc : BitVec 2) (sa : BitVec 7) :
    asmBS off cc sa = BitVec.ofNat 32 (off.toNat * 2 ^ 16 + cc.toNat * 2 ^ 14 + sa.toNat * 2 ^ 7 + 28 * 2 + 1) := by
  refine BitVec.eq_of_toNat_eq ?_
  have off_lt := off.isLt
  have cc_lt := cc.isLt
  have sa_lt := sa.isLt
  simp only [asmBS, toNat_append_eq_add, BitVec.toNat_ofNat]
  omega

/-- The decoder reads a well-formed instruction from the number of its word. -/
theorem decodeTableWord_of_encode32 {i : Instr} {n : Nat} (hwf : i.WellFormed)
    (h : encode32 i = some (BitVec.ofNat 32 n)) : decodeTableWord 32 n = some i := by
  obtain ⟨d, ⟨first, read⟩, rfl⟩ := decodeWord_of_encode32 hwf h
  have reduced : BitVec.ofNat 32 (n % 2 ^ 32) = BitVec.ofNat 32 n := BitVec.eq_of_toNat_eq (by simp)
  have parcel : ((BitVec.ofNat 32 n).extractLsb' 0 16).getLsbD 0 = true := by
    rw [BitVec.getLsbD_extractLsb']
    exact first
  unfold decodeTableWord decodeParcels decodeFetched
  simp only [reduced]
  rw [parcel, if_pos rfl, word_of_parcels, read]
  rfl

end Sys2Proof.Encoding

namespace Sys2Proof.Machine

/-- Settles O2: `sli` replaces a quarter of 0, and `slk` a quarter of its destination (`getLsbD_setQuarter`); a word of
format SU is the encoding of one of the two. -/
theorem wideConstantResults : Obligations.WideConstantResults := by
  unfold Obligations.WideConstantResults
  refine ⟨fun s t imm q sd hi hd => ⟨?sli, setQuarter ((s.viewOf t).scalar sd) q imm, ?slk, fun i hi => ?bits⟩,
    fun imm q sd k => ?words, rfl⟩
  case sli =>
    rw [← setQuarter_zero]
    exact State.registers_writeS (f := fun _ => setQuarter 0 q imm) hi hd rfl
  case slk => exact State.registers_writeS (f := fun v => setQuarter (v.scalar sd) q imm) hi hd rfl
  case bits => exact getLsbD_setQuarter _ q imm hi
  case words =>
    have encoding := Encoding.asmSU_eq_ofNat imm q sd (bit k)
    cases k
    · exact Encoding.decodeTableWord_of_encode32 rfl (congrArg some encoding)
    · exact Encoding.decodeTableWord_of_encode32 rfl (congrArg some encoding)

end Sys2Proof.Machine

/-!
Branches, jumps and links (R167 to R170): where each goes, and what a link leaves.
-/

namespace Sys2Proof.Machine

/-- A signed number of parcels from an address, as R167 writes it. -/
theorem parcelsFrom_eq {n : Nat} (pc : Word) (off : BitVec n) :
    parcelsFrom pc off = BitVec.ofInt 64 ((pc.toNat : Int) + 2 * off.toInt) := by
  have extended : off.signExtend 64 = BitVec.ofInt 64 off.toInt := rfl
  have two : BitVec.twoPow 64 1 = BitVec.ofInt 64 2 := rfl
  rw [parcelsFrom, extended, BitVec.shiftLeft_eq_mul_twoPow, two, BitVec.mul_comm, ← BitVec.ofInt_mul]
  simp only [BitVec.ofInt_add, BitVec.ofInt_natCast, BitVec.ofNat_toNat, BitVec.setWidth_eq]

/-! ## Instructions that only move the path -/

section
variable {s : State} {t : Team} {i : Instr} {body : Team → M Done} {pc : Word} (hi : s.issuer? = some t)
  (hx : exec i s = issue 4 body s)
include hi hx

/-- An instruction whose body only goes to an address moves the path there. -/
theorem State.teamStep_of_goto (hb : body t s = .ok (.goto pc) s) : s.TeamStep t i (t.goesTo pc s.tick.toNat) := by
  refine State.teamStep_of_exec (fun u => (u.moveTo pc).countRetired (!t.isSystem) s.tick.toNat) hi (by simp) ?_
  rw [hx, issue_ok hi hb]
  rfl

/-- An instruction whose body goes to an address or does nothing moves the path there or behind itself. -/
theorem State.teamStep_of_branch {taken : Bool} (hb : body t s = .ok (if taken then .goto pc else .next) s) :
    s.TeamStep t i (t.goesTo (if taken then pc else t.arm.pc + 4) s.tick.toNat) := by
  cases taken with
  | true => exact State.teamStep_of_goto hi hx hb
  | false => exact State.teamStep_of_next hi hx hb

end

/-- What a body reads where the read succeeds. -/
theorem M.read_ok {α : Type} {t : Team} {s : State} {a : α} (f : View → Except Stop α) (ht : s.team? t.id = some t)
    (ha : f (s.viewOf t) = .ok a) : M.read t f s = .ok a s := by
  rw [M.read_eq t f s ht, ha]

/-- Changed registers are put back. -/
theorem M.regs_ok {t : Team} {s : State} {w : View} (f : View → Except Stop View) (ht : s.team? t.id = some t)
    (hw : f (s.viewOf t) = .ok w) : M.regs t f s = .ok () (s.putView w) := by
  unfold M.regs
  rw [M.bind_ok (M.read_ok f ht hw)]
  rfl

/-- Settles O13: a uniform branch reads SA and moves the path alone (`State.teamStep_of_branch`), and its word is the one
of format BS with its condition code. -/
theorem branchesGoWhereTheirConditionSays : Obligations.BranchesGoWhereTheirConditionSays := by
  unfold Obligations.BranchesGoWhereTheirConditionSays
  refine ⟨fun s t off sa a hi ha => ?branches, fun off sa cc => ?words, rfl⟩
  case branches =>
    have read := M.read_ok (fun v => v.readS posSA sa) (s.team?_of_issuer t hi) ha
    have goes {i : Instr} {cond : Word → Bool} {taken : Bool} (hx : exec i s = issue 4 (branchIf cond off sa) s)
        (hc : cond a = taken) : s.TeamStep t i (t.goesTo
          (if taken then BitVec.ofInt 64 ((t.arm.pc.toNat : Int) + 2 * off.toInt) else t.arm.pc + 4) s.tick.toNat) := by
      rw [← parcelsFrom_eq, ← hc]
      refine State.teamStep_of_branch hi hx ?_
      unfold branchIf
      exact M.bind_ok read
    have sign : (!a.msb) = decide (0 ≤ a.toInt) := by
      rw [BitVec.msb_eq_toInt, ← decide_not, decide_eq_decide, Int.not_lt]
    exact ⟨goes (cond := fun a => a == 0) rfl rfl, goes (cond := fun a => a != 0) rfl (decide_not).symm,
      goes (cond := fun a => a.msb) rfl BitVec.msb_eq_toInt, goes (cond := fun a => !a.msb) rfl sign⟩
  case words =>
    have encoding (c : BitVec 2) := Encoding.asmBS_eq_ofNat off c sa.bits
    match cc with
    | 0 => exact Encoding.decodeTableWord_of_encode32 rfl (congrArg some (encoding 0))
    | 1 => exact Encoding.decodeTableWord_of_encode32 rfl (congrArg some (encoding 1))
    | 2 => exact Encoding.decodeTableWord_of_encode32 rfl (congrArg some (encoding 2))
    | 3 => exact Encoding.decodeTableWord_of_encode32 rfl (congrArg some (encoding 3))

end Sys2Proof.Machine

/-!
Divergence (R36, R171, R173): which of two sets of lanes is arm 0, and what `bdiv` leaves.
-/

namespace Sys2Proof.Machine

/-! ## The lowest lane (R36) -/

/-- The lowest lane of a mask. -/
theorem ctzBits_eq {m : Mask} {l : Nat} (hl : l < 1024) (set : m.getLsbD l = true)
    (clear : ∀ j < l, m.getLsbD j = false) : ctzBits 1024 m.toNat = l := by
  have found : ((List.range 1024).find? fun j => m.toNat.testBit j) = some l :=
    List.find?_range_eq_some.mpr ⟨set, List.mem_range.mpr hl, fun j hj => by rw [← BitVec.getLsbD, clear j hj]; rfl⟩
  rw [ctzBits, found]
  rfl

/-- The lowest lane of a mask, if any, is above the lanes that are not in it. -/
theorem lt_ctzBits {m : Mask} {l : Nat} (hl : l < 1024) (clear : ∀ j ≤ l, m.getLsbD j = false) :
    l < ctzBits 1024 m.toNat := by
  unfold ctzBits
  cases found : (List.range 1024).find? fun j => m.toNat.testBit j with
  | none => exact hl
  | some k =>
    have set : m.getLsbD k = true := List.find?_some found
    exact Nat.lt_of_not_le fun hk => Bool.false_ne_true ((clear k hk).symm.trans set)

/-- A mask with a lane has a lowest one. -/
theorem exists_lowest {m : Mask} (h : m ≠ 0) : ∃ l < 1024, (List.range 1024).find? m.getLsbD = some l ∧
    m.getLsbD l = true ∧ ∀ j < l, m.getLsbD j = false := by
  cases found : (List.range 1024).find? m.getLsbD with
  | none =>
    refine absurd (BitVec.eq_of_getLsbD_eq fun l hl => ?_) h
    have clear := List.find?_eq_none.mp found l (List.mem_range.mpr hl)
    simpa using clear
  | some l =>
    obtain ⟨set, hl, clear⟩ := List.find?_range_eq_some.mp found
    exact ⟨l, List.mem_range.mp hl, rfl, set, fun j hj => by simpa using clear j hj⟩

/-- Of the two parts of a mask with a lane, arm 0 is the one that has its lowest lane. -/
theorem firstIn_parts {m : Mask} (p : Mask) (h : m ≠ 0) :
    firstIn (m &&& p) (m &&& ~~~p) = (m &&& p).getLsbD (((List.range 1024).find? m.getLsbD).getD 0) := by
  obtain ⟨l, hl, found, set, clear⟩ := exists_lowest h
  have below (q : Mask) (j : Nat) (hj : j < l) : (m &&& q).getLsbD j = false := by
    rw [BitVec.getLsbD_and, clear j hj, Bool.false_and]
  have through {q : Mask} (hq : (m &&& q).getLsbD l = false) (j : Nat) (hj : j ≤ l) : (m &&& q).getLsbD j = false := by
    rcases Nat.lt_or_eq_of_le hj with lt | rfl
    · exact below q j lt
    · exact hq
  have taken : (m &&& p).getLsbD l = p.getLsbD l := by rw [BitVec.getLsbD_and, set, Bool.true_and]
  have falls : (m &&& ~~~p).getLsbD l = !p.getLsbD l := by
    rw [BitVec.getLsbD_and, set, Bool.true_and, BitVec.getLsbD_not, decide_eq_true hl, Bool.true_and]
  rw [firstIn, found, Option.getD_some, taken]
  cases side : p.getLsbD l with
  | true =>
    rw [side] at taken falls
    rw [ctzBits_eq hl taken (below p)]
    exact decide_eq_true (lt_ctzBits hl (through falls))
  | false =>
    rw [side] at taken falls
    rw [ctzBits_eq hl falls (below _)]
    exact decide_eq_false (Nat.lt_asymm (lt_ctzBits hl (through taken)))

/-! ## `bdiv` (R171) -/

/-- An unsigned number of parcels from an address, as R171 writes it. -/
theorem parcelsAfter_eq (pc : Word) (joff : BitVec 10) :
    pc + (joff.setWidth 64 <<< 1) = BitVec.ofNat 64 (pc.toNat + 2 * joff.toNat) := by
  have width : (joff.setWidth 64).toNat = joff.toNat := BitVec.toNat_setWidth_of_le (by decide)
  rw [shiftLeft_eq_ofNat, width, Nat.pow_one, Nat.mul_comm, BitVec.ofNat_add, BitVec.ofNat_toNat, BitVec.setWidth_eq]

/-- What `bdiv` makes of the record of a team whose lanes part into `taken` and `fall`. -/
def Team.diverge (u : Team) (pc target join : Word) (taken fall : Mask) (tick : Nat) : Team :=
  if firstIn taken fall then u.push join target taken (pc + 4) fall false tick
  else u.push join (pc + 4) fall target taken false tick

@[simp] theorem Team.diverge_id (u : Team) (pc target join : Word) (taken fall : Mask) (tick : Nat) :
    (u.diverge pc target join taken fall tick).id = u.id := by
  unfold Team.diverge
  split <;> rfl

@[simp] theorem Team.handling_diverge (u : Team) (pc target join : Word) (taken fall : Mask) (tick : Nat) :
    (u.diverge pc target join taken fall tick).handling = u.handling := by
  unfold Team.diverge
  split <;> rfl

/-- The entry pushed has the arms in the order that R36 gives them. -/
theorem Team.diverge_eq (u : Team) (pc target join : Word) (taken fall : Mask) (tick : Nat) :
    u.diverge pc target join taken fall tick = { u with
      stack :=
        { join := join
          arm0 := if firstIn taken fall then Arm.start target taken u.quant else Arm.start (pc + 4) fall u.quant
          arm1 := if firstIn taken fall then Arm.start (pc + 4) fall u.quant else Arm.start target taken u.quant
          sel := false, table := false } :: u.stack
      starveAt := if u.stack.length ≤ 1 then tick else u.starveAt } := by
  unfold Team.diverge
  cases firstIn taken fall <;> rfl

/-- What `bdiv` does: its lanes agree, or it traps, or they part. -/
theorem divergeBy_run {s : State} {t : Team} {off : BitVec 12} {joff : BitVec 10} {ms : BitVec 3} {taken fall : Mask}
    {target : Word} (ht : s.team? t.id = some t) (hk : t.active &&& (s.viewOf t).mask ms = taken)
    (hf : t.active &&& ~~~(s.viewOf t).mask ms = fall) (hg : parcelsFrom t.arm.pc off = target) :
    divergeBy off joff ms t s =
      if fall = 0 then .ok (.goto target) s
      else if taken = 0 then .ok .next s
      else if t.handling = true then .error (trapWith 0x08C 0) s
      else if 32 ≤ t.stack.length then .error (trapWith 0x080 32) s
      else .ok .moved (s.modTeam t.id fun u =>
        u.diverge t.arm.pc target (t.arm.pc + (joff.setWidth 64 <<< 1)) taken fall s.tick.toNat) := by
  subst hk hf hg
  unfold divergeBy
  rw [M.bind_ok (M.read_ok (fun v => .ok (v.mask ms)) ht rfl)]
  by_cases hf : t.active &&& ~~~(s.viewOf t).mask ms = 0
  · rw [if_pos hf]
    exact congrFun (if_pos (beq_iff_eq.mpr hf)) s
  rw [if_neg hf]
  refine (congrFun (if_neg fun h => hf (beq_iff_eq.mp h)) s).trans ?_
  by_cases hk : t.active &&& (s.viewOf t).mask ms = 0
  · rw [if_pos hk]
    exact congrFun (if_pos (beq_iff_eq.mpr hk)) s
  rw [if_neg hk]
  refine (congrFun (if_neg fun h => hk (beq_iff_eq.mp h)) s).trans ?_
  cases hh : t.handling with
  | true => exact M.bind_error (by rw [M.notInHandler, hh]; rfl)
  | false =>
    rw [M.bind_ok (u := s) (a := ()) (by rw [M.notInHandler, hh]; rfl), if_neg Bool.false_ne_true]
    by_cases hs : 32 ≤ t.stack.length
    · rw [if_pos hs]
      exact M.bind_error (by rw [stackEntries, decide_eq_true hs]; rfl)
    · rw [if_neg hs, M.bind_ok (u := s) (a := ()) (by rw [stackEntries, decide_eq_false hs]; rfl)]
      rfl

/-- Settles O15: `divergeBy_run` says which of the five cases of R171 it is, and `firstIn_parts` which arm comes first. -/
theorem divergenceSplitsThePath : Obligations.DivergenceSplitsThePath := by
  unfold Obligations.DivergenceSplitsThePath
  intro s t off joff ms hi taken fall target i first hot cold
  have ht := s.team?_of_issuer t hi
  have run := divergeBy_run (joff := joff) (taken := taken) (fall := fall) ht rfl rfl (parcelsFrom_eq t.arm.pc off)
  refine ⟨fun hf => ?same, fun hf hk => ?none, fun hf hk hh hs => ?full, fun hf hk hh => ?handler,
    fun hf hk hh hs => ?push⟩
  case same => exact State.teamStep_of_goto hi rfl (run.trans (if_pos hf))
  case none => exact State.teamStep_of_next hi rfl (run.trans ((if_neg hf).trans (if_pos hk)))
  case full =>
    rw [if_neg hf, if_neg hk, hh, if_neg Bool.false_ne_true, if_pos hs] at run
    exact State.traps_of_issue hi rfl run
  case handler =>
    rw [if_neg hf, if_neg hk, if_pos hh] at run
    exact State.traps_of_issue hi rfl run
  case push =>
    rw [if_neg hf, if_neg hk, hh, if_neg Bool.false_ne_true, if_neg (Nat.not_le.mpr hs)] at run
    have step : s.TeamStep t i _ := State.teamStep_of_moved hi rfl run (by simp) (by simp)
    have lanes : t.active ≠ 0 := fun zero => hf ((congrArg (· &&& _) zero).trans BitVec.zero_and)
    have order : firstIn taken fall = taken.getLsbD first := firstIn_parts _ lanes
    rw [Team.diverge_eq, parcelsAfter_eq, order] at step
    exact step

end Sys2Proof.Machine

/-!
Jumps, links and branch tables (R169, R170, R174 to R176).
-/

namespace Sys2Proof.Machine

/-! ## The link register (R169, R298) -/

/-- `s63` is `k15` under the trap bank's naming. -/
theorem View.scalar_link (v : View) : v.scalar 63 = if v.team.ksw then v.k.getD 15 0 else v.team.s.getD 63 0 := by
  unfold View.scalar View.namesK
  cases v.team.ksw <;> rfl

theorem setIfInBounds_eq_set {α : Type} {n i : Nat} (xs : Vector α n) (x : α) (hi : i < n) :
    xs.setIfInBounds i x = xs.set i x := by
  refine Vector.ext fun j hj => ?_
  rw [Vector.getElem_setIfInBounds, Vector.getElem_set]

/-- A link is written to `s63`, or to `k15` under the trap bank's naming. -/
theorem View.setS_link (v : View) (x : Word) :
    v.setS 63 x = if v.team.ksw then { v with k := v.k.set 15 x }
      else { v with team := { v.team with s := v.team.s.set 63 x } } := by
  cases h : v.team.ksw with
  | true =>
    rw [View.setS_bank (View.namesK_of_le h (by decide)), if_pos rfl, ← setIfInBounds_eq_set]
    rfl
  | false =>
    rw [View.setS_own (View.namesK_of_ksw h _), if_neg Bool.false_ne_true, ← setIfInBounds_eq_set]
    rfl

/-! ## Indirect transfers (R170) -/

theorem M.link_run {s : State} {t : Team} (ht : s.team? t.id = some t) :
    M.link t s = .ok () (s.putView ((s.viewOf t).setS 63 (t.arm.pc + 4))) := M.regs_ok _ ht rfl

theorem M.target_even {a : Word} (h : a.getLsbD 0 = false) (s : State) : M.target a s = .ok () s := by
  rw [M.target, h]
  rfl

theorem M.target_odd {a : Word} (h : a.getLsbD 0 = true) (s : State) : M.target a s = .error (trapWith 0x086 a) s := by
  rw [M.target, h]
  rfl

/-! ## Branch tables (R174 to R176) -/

/-- A body that leaves the state as it is for each element of a list does so for the list. -/
theorem M.mapM_ok {α β : Type} {f : α → M β} {g : α → β} {s : State} {xs : List α}
    (h : ∀ x ∈ xs, f x s = .ok (g x) s) : xs.mapM f s = .ok (xs.map g) s := by
  induction xs with
  | nil => rfl
  | cons x xs ih =>
    rw [List.mapM_cons, M.bind_ok (h x List.mem_cons_self), M.bind_ok (ih fun y hy => h y (List.mem_cons_of_mem x hy))]
    rfl

/-- An offset that is even, in the list and mapped passes. -/
theorem M.targetCheck_passes {t : Team} {targets : List Word} {off : Word} {s : State} (even : off.getLsbD 0 = false)
    (listed : off ∈ targets) (mapped : M.mapped t (t.arm.pc + off) s = .ok true s) :
    M.targetCheck t targets off s = .ok none s := by
  have contained : targets.contains off = true := List.contains_iff_mem.mpr listed
  unfold M.targetCheck
  rw [even, contained]
  exact M.bind_ok mapped

/-- The targets of lanes that agree are one. -/
theorem eraseDups_of_agree {off : Nat → Word} {l₀ : Nat} {ls : List Nat} (h : ∀ l ∈ ls, off l = off l₀) :
    ((l₀ :: ls).map off).eraseDups = [off l₀] := by
  have rest : (ls.map off).filter (fun d => !d == off l₀) = [] := by simpa [List.filter_eq_nil_iff] using h
  rw [List.map_cons, List.eraseDups_cons, rest, List.eraseDups_nil]

/-- The targets of lanes that do not agree are several, that of the first lane first. -/
theorem eraseDups_of_differ {off : Nat → Word} {l₀ : Nat} {ls : List Nat} (h : ¬ ∀ l ∈ ls, off l = off l₀) :
    ∃ d ds, ((l₀ :: ls).map off).eraseDups = off l₀ :: d :: ds := by
  rw [List.map_cons, List.eraseDups_cons]
  cases rest : (ls.map off).filter (fun d => !d == off l₀) with
  | nil => exact absurd (by simpa [List.filter_eq_nil_iff] using rest) h
  | cons d ds => exact ⟨d, _, by rw [List.eraseDups_cons]⟩

section
variable {s : State} {t : Team} {va : VSrc} {x : Src} (ht : s.team? t.id = some t)
  (hv : (s.viewOf t).readV posSA va .s32 = .ok x) (hc : (s.viewOf t).consume [x] = .ok ())
include ht hv hc

/-- The operand that `brtab` reads. -/
theorem branchTable_reads : M.read t (fun v => do
    let a ← v.readV posSA va .s32
    v.consume [a]
    return a) s = .ok x s :=
  M.read_ok _ ht (by rw [hv, Encoding.bind_ok, hc, Encoding.bind_ok]; rfl)

theorem branchTable_malformed (hl : M.targets t s = .ok none s) :
    branchTable va t s = .error (.trap 0x085 0 (some t.active)) s := by
  unfold branchTable
  rw [M.bind_ok (branchTable_reads ht hv hc)]
  exact M.bind_ok hl

/-- What `brtab` does once its lanes have passed: they agree, or it traps, or they part. -/
theorem branchTable_run {targets : List Word} {off : Nat → Word} {l₀ : Nat} {ls : List Nat}
    (ho : (fun l => (x.lo.read l).signExtend 64) = off) (hl : M.targets t s = .ok (some targets) s)
    (pass : ∀ l ∈ t.lanes, (off l).getLsbD 0 = false ∧ off l ∈ targets ∧ M.mapped t (t.arm.pc + off l) s = .ok true s)
    (lanes : t.lanes = l₀ :: ls) :
    branchTable va t s =
      if ∀ l ∈ ls, off l = off l₀ then .ok (.goto (t.arm.pc + off l₀)) s
      else if t.handling = true then .error (trapWith 0x08C 0) s
      else if 32 < t.stack.length + ((t.lanes.map off).eraseDups.length - 1) then
        .error (trapWith 0x081 (BitVec.ofNat 64 (t.lanes.map off).eraseDups.length)) s
      else
        let mine := maskOf (t.lanes.filter fun l => off l == off l₀)
        .ok .moved (s.modTeam t.id fun u => u.push (t.arm.pc + 8 + BitVec.ofNat 64 (4 * targets.length))
          (t.arm.pc + off l₀) mine t.arm.pc (t.active &&& ~~~mine) true s.tick.toNat) := by
  subst ho
  have checked := M.mapM_ok (f := fun l => do return (l, ← M.targetCheck t targets ((x.lo.read l).signExtend 64)))
    (g := fun l => (l, (none : Option Nat))) fun l hl => by
      obtain ⟨even, listed, mapped⟩ := pass l hl
      exact M.bind_ok (M.targetCheck_passes even listed mapped)
  unfold branchTable
  rw [M.bind_ok (branchTable_reads ht hv hc), M.bind_ok hl]
  dsimp only
  rw [M.bind_ok checked]
  have passed : ((t.lanes.map fun l => (l, (none : Option Nat))).filterMap fun c => c.2.map fun d => (c.1, d)) = [] := by
    simp
  rw [passed]
  by_cases agree : ∀ l ∈ ls, (x.lo.read l).signExtend 64 = (x.lo.read l₀).signExtend 64
  · have groups := eraseDups_of_agree agree
    rw [← lanes] at groups
    rw [if_pos agree, groups]
    rfl
  rw [if_neg agree]
  obtain ⟨d, ds, groups⟩ := eraseDups_of_differ agree
  rw [← lanes] at groups
  rw [groups]
  dsimp only
  cases hh : t.handling with
  | true => exact M.bind_error (by rw [M.notInHandler, hh]; rfl)
  | false =>
    rw [M.bind_ok (u := s) (a := ()) (by rw [M.notInHandler, hh]; rfl), if_neg Bool.false_ne_true]
    split
    case isTrue full => exact M.bind_error (by rw [stackEntries, decide_eq_true full]; rfl)
    case isFalse room =>
      rw [M.bind_ok (u := s) (a := ()) (by rw [stackEntries, decide_eq_false room]; rfl)]
      rfl

end

/-! ## The obligation -/

/-- A trap that names every active lane is one that names none (R369). -/
theorem State.stop_trap_active (s : State) (t : Team) (code : BitVec 9) (a : Word) :
    s.stop t (.trap code a (some t.active)) = s.stop t (.trap code a none) := rfl

/-- An instruction of four bytes whose body goes to an address has its body's effect. -/
theorem State.exec_of_goto {s w : State} {t : Team} {i : Instr} {body : Team → M Done} {pc : Word}
    (hi : s.issuer? = some t) (hx : exec i s = issue 4 body s) (hb : body t s = .ok (.goto pc) w) :
    exec i s = .next (w.retire t 4 (.goto pc)) := hx.trans (issue_ok hi hb)

/-- Settles O14: the link register is read and written under its name (`View.scalar_link`, `View.setS_link`), an odd
target traps before the link (`M.target_odd`), and `branchTable_run` says which of its cases a `brtab` is. -/
theorem jumpsLinksAndBranchTables : Obligations.JumpsLinksAndBranchTables := by
  unfold Obligations.JumpsLinksAndBranchTables
  refine ⟨fun s t off sa a hi ha => ?jumps, fun s t va x targets => ?tables⟩
  case jumps =>
    intro near link linked goes links
    have ht := s.team?_of_issuer t hi
    have near_eq : parcelsFrom t.arm.pc off = near := parcelsFrom_eq t.arm.pc off
    have reads : M.read t (fun v => v.readS posSA sa) s = .ok a s := M.read_ok _ ht ha
    have readsLink : M.read t (fun v => .ok (v.scalar 63)) s = .ok link s :=
      M.read_ok _ ht (congrArg Except.ok (s.viewOf t).scalar_link)
    have linking : M.link t s = .ok () (s.putView linked) := by
      rw [M.link_run ht, View.setS_link]
      rfl
    refine ⟨?jmp, ?call, fun even => ?ret, fun odd => ?retOdd, fun even => ⟨?jr, ?callr⟩, fun odd => ⟨?jrOdd, ?callrOdd⟩⟩
    case jmp =>
      have step : s.TeamStep t (.jmp off) _ := State.teamStep_of_goto (pc := parcelsFrom t.arm.pc off) hi rfl (by rfl)
      rw [near_eq] at step
      exact step
    case call =>
      refine State.exec_of_goto hi rfl ((M.bind_ok linking).trans ?_)
      rw [near_eq]
      rfl
    case ret =>
      exact State.teamStep_of_goto hi rfl ((M.bind_ok readsLink).trans (M.bind_ok (M.target_even even s)))
    case retOdd =>
      exact State.traps_of_issue hi rfl ((M.bind_ok readsLink).trans (M.bind_error (M.target_odd odd s)))
    case jr => exact State.teamStep_of_goto hi rfl ((M.bind_ok reads).trans (M.bind_ok (M.target_even even s)))
    case callr =>
      exact State.exec_of_goto hi rfl
        ((M.bind_ok reads).trans ((M.bind_ok (M.target_even even s)).trans (M.bind_ok linking)))
    case jrOdd => exact State.traps_of_issue hi rfl ((M.bind_ok reads).trans (M.bind_error (M.target_odd odd s)))
    case callrOdd => exact State.traps_of_issue hi rfl ((M.bind_ok reads).trans (M.bind_error (M.target_odd odd s)))
  case tables =>
    intro v off tick hi hv hc
    have ht := s.team?_of_issuer t hi
    refine ⟨fun hl => ?malformed, fun hl pass l₀ ls lanes => ?checked⟩
    case malformed =>
      exact (issue_trap hi (branchTable_malformed ht hv hc hl)).trans (congrArg _ (State.stop_trap_active ..))
    case checked =>
      have run := branchTable_run (off := off) ht hv hc rfl hl pass lanes
      refine ⟨fun agree => ?one, fun differ hh room => ?several⟩
      case one => exact State.teamStep_of_goto hi rfl (run.trans (if_pos agree))
      case several =>
        have apart : ¬ ∀ l ∈ ls, off l = off l₀ := by simpa using differ
        rw [if_neg apart, hh, if_neg Bool.false_ne_true, if_neg (Nat.not_lt.mpr room)] at run
        exact State.teamStep_of_moved hi rfl run (fun _ => rfl) rfl

end Sys2Proof.Machine

/-!
Waits, the hint space, clock and identity reads, and lanes that end (R159, R177 to R181).
-/

namespace Sys2Proof.Machine

/-! ## Waits (R179) -/

/-- An instruction whose body waits without having changed anything waits. -/
theorem issue_wait {len : Nat} {body : Team → M Done} {s : State} {t : Team} {w : Wait} (hi : s.issuer? = some t)
    (hb : body t s = .error (.wait w) s) : issue len body s = .next (s.setWait t w) := by
  simp only [issue, hi, hb]
  rfl

/-- The counters by number. -/
theorem Team.counter_eq (t : Team) (c : BitVec 2) : t.counter c =
    if c = 0 then t.ld + (t.arms.filter fun a => a.wait == some .fullEmpty).length
    else if c = 1 then t.ap else if c = 2 then t.en else t.xl := by
  have numbers : c = 0 ∨ c = 1 ∨ c = 2 ∨ c = 3 := by revert c; decide
  rcases numbers with rfl | rfl | rfl | rfl <;> rfl

/-! ## What moves of the paths leave of a team's record -/

/-- `u` is `t` but for where its paths and arms stand and which of them issues. -/
def Team.SameButPaths (t u : Team) : Prop :=
  ∃ path hpath stack starveAt switchDue, u = { t with
    path := path, hpath := hpath, stack := stack, starveAt := starveAt, switchDue := switchDue }

section
variable {t u w : Team}

theorem Team.SameButPaths.refl (t : Team) : t.SameButPaths t := ⟨_, _, _, _, _, rfl⟩

theorem Team.SameButPaths.trans (h : t.SameButPaths u) (h' : u.SameButPaths w) : t.SameButPaths w := by
  obtain ⟨_, _, _, _, _, rfl⟩ := h
  obtain ⟨_, _, _, _, _, rfl⟩ := h'
  exact ⟨_, _, _, _, _, rfl⟩

theorem Team.sameButPaths_setArm (t : Team) (a : Arm) : t.SameButPaths (t.setArm a) := by
  unfold Team.setArm
  split
  · exact ⟨_, _, _, _, _, rfl⟩
  · split <;> exact ⟨_, _, _, _, _, rfl⟩

theorem Team.sameButPaths_moveTo (t : Team) (pc : Word) : t.SameButPaths (t.moveTo pc) := t.sameButPaths_setArm _

theorem Team.sameButPaths_collapse (t : Team) (tick : Nat) : t.SameButPaths (t.collapse tick) := ⟨_, _, _, _, _, rfl⟩

theorem Team.sameButPaths_passIssue (t : Team) : t.SameButPaths t.passIssue := by
  unfold Team.passIssue
  split <;> exact ⟨_, _, _, _, _, rfl⟩

theorem Team.sameButPaths_arrivalSwitch (t : Team) (level : Nat) : t.SameButPaths (t.arrivalSwitch level) := by
  unfold Team.arrivalSwitch
  split
  · exact .refl t
  · split
    · split
      · exact ⟨_, _, _, _, _, rfl⟩
      · exact t.sameButPaths_passIssue
    · exact .refl t

/-- Moves of the paths leave the lanes and the registers. -/
theorem Team.SameButPaths.keeps (h : t.SameButPaths u) :
    u.id = t.id ∧ u.act = t.act ∧ u.v = t.v ∧ u.s = t.s ∧ u.spawned = t.spawned := by
  obtain ⟨_, _, _, _, _, rfl⟩ := h
  exact ⟨rfl, rfl, rfl, rfl, rfl⟩

/-- Lanes that end leave the team's lanes, and its paths and arms; nothing else of its record changes (R25). -/
theorem Team.sameButPaths_clearLanes (t : Team) (gone : Mask) (tick level : Nat) :
    ({ t with act := t.act &&& ~~~gone } : Team).SameButPaths (t.clearLanes gone tick level) := by
  unfold Team.clearLanes
  refine .trans ?_ (Team.sameButPaths_arrivalSwitch _ level)
  refine .trans ?_ (Team.sameButPaths_collapse _ tick)
  exact ⟨_, _, _, _, _, rfl⟩

end

/-! ## `exit` (R177) -/

/-- Lanes of a launched team end while others remain: its record changes and nothing follows. -/
theorem State.exitLanes_of_left {s : State} {t : Team} {gone : Mask} (ht : s.team? t.id = some t)
    (hs : t.spawned = false) (left : t.act &&& ~~~gone ≠ 0) :
    s.exitLanes t.id gone = s.modTeam t.id fun u => u.clearLanes gone s.tick.toNat (s.levelOf u) := by
  have keepsId (u : Team) : (u.clearLanes gone s.tick.toNat (s.levelOf u)).id = u.id :=
    (u.sameButPaths_clearLanes ..).keeps.1
  have found := s.team?_modTeam t.id _ keepsId
  rw [ht, Option.map_some] at found
  have lanes : (t.clearLanes gone s.tick.toNat (s.levelOf t)).act ≠ 0 := by
    obtain ⟨-, act, -⟩ := (t.sameButPaths_clearLanes gone s.tick.toNat (s.levelOf t)).keeps
    rwa [act]
  unfold State.exitLanes
  simp only [ht, hs, Bool.false_eq_true, if_false, found, beq_iff_eq, lanes, Bool.and_eq_true, false_and]

/-- `exit` of a launched team with nothing outstanding, some of whose lanes remain. -/
theorem exitActive_run {s : State} {t : Team} {gone : Mask} (hg : (if t.handling then t.act else t.active) = gone)
    (hld : t.counter 0 = 0) (hap : t.ap = 0) (hs : t.spawned = false) (left : t.act &&& ~~~gone ≠ 0) :
    exitActive t s = .ok .moved ((s.modTeam t.id fun u => u.moveTo (t.arm.pc + 4)).exitLanes t.id gone) := by
  subst hg
  have partly : ((if t.handling then t.act else t.active) == t.act) = false := by
    refine beq_eq_false_iff_ne.mpr fun all => left ?_
    rw [all]
    exact BitVec.and_not_self _
  unfold exitActive
  rw [hld, hap, hs, M.bind_ok (a := ()) (u := s) (by rfl), if_neg Bool.false_ne_true]
  dsimp only
  rw [M.bind_ok (M.get_run s), M.bind_ok (M.get_run s), partly, Bool.false_and, M.bind_ok (M.stopIf_false _ s)]
  rfl

/-- What `exit` makes of the record of a launched team some of whose lanes remain. -/
def Team.exited (u t : Team) (gone : Mask) (tick level : Nat) : Team :=
  ((u.moveTo (t.arm.pc + 4)).clearLanes gone tick level).countedFor t tick

/-- Nothing of a team's record that says what it computes changes as some of its lanes end. -/
theorem Team.exited_keeps (u t : Team) (gone : Mask) (tick level : Nat) :
    (u.exited t gone tick level).id = u.id ∧ (u.exited t gone tick level).act = u.act &&& ~~~gone ∧
      (u.exited t gone tick level).v = u.v ∧ (u.exited t gone tick level).s = u.s := by
  obtain ⟨id', act', v', s', -⟩ := (u.sameButPaths_moveTo (t.arm.pc + 4)).keeps
  obtain ⟨id, act, v, s, -⟩ := ((u.moveTo (t.arm.pc + 4)).sameButPaths_clearLanes gone tick level).keeps
  unfold Team.exited Team.countedFor Team.restartRetire
  cases t.handling <;> exact ⟨id.trans id', act.trans (by rw [act']), v.trans v', s.trans s'⟩

theorem exec_exit {s : State} {t : Team} {gone : Mask} (hi : s.issuer? = some t)
    (hg : (if t.handling then t.act else t.active) = gone) (hld : t.counter 0 = 0) (hap : t.ap = 0)
    (hs : t.spawned = false) (left : t.act &&& ~~~gone ≠ 0) :
    exec .exit s = .next (s.modTeam t.id fun u => u.exited t gone s.tick.toNat (s.levelOf (u.moveTo (t.arm.pc + 4)))) := by
  have ht := s.team?_of_issuer t hi
  obtain ⟨-, act, -, -, spawned⟩ := (t.sameButPaths_moveTo (t.arm.pc + 4)).keeps
  have found : (s.modTeam t.id fun u => u.moveTo (t.arm.pc + 4)).team? t.id = some (t.moveTo (t.arm.pc + 4)) := by
    rw [s.team?_modTeam t.id _ (by simp), ht]
    rfl
  have ends := State.exitLanes_of_left (gone := gone) (t := t.moveTo (t.arm.pc + 4)) (by rw [t.moveTo_id, found])
    (spawned.trans hs) (by rwa [act])
  rw [t.moveTo_id] at ends
  have keepsId (u : Team) : ((u.moveTo (t.arm.pc + 4)).clearLanes gone s.tick.toNat
      (s.levelOf (u.moveTo (t.arm.pc + 4)))).id = u.id :=
    (Team.sameButPaths_clearLanes ..).keeps.1.trans (u.moveTo_id _)
  have body := exitActive_run (s := s) hg hld hap hs left
  rw [ends, State.modTeam_modTeam s t.id _ _ (by simp)] at body
  refine (issue_ok hi body).trans (congrArg _ ?_)
  rw [State.retire_moved]
  exact State.modTeam_modTeam s t.id _ _ keepsId

/-! ## Reads of the clock and of the identity (R180, R181) -/

/-- A body that reads the state and then changes registers is the instruction on registers of that change. -/
theorem issue_of_regs {s : State} {t : Team} {f : State → Team → View → Except Stop View} {w : View}
    (hi : s.issuer? = some t) (hw : f s t (s.viewOf t) = .ok w) :
    issue 4 (fun t => do
      let s ← get
      M.regs t (f s t)
      return .next) s = regOp 4 (f s t) s := by
  have ht := s.team?_of_issuer t hi
  have body : (do let s ← get; M.regs t (f s t); return Done.next : M Done) s = .ok .next (s.putView w) :=
    (M.bind_ok (M.get_run s)).trans (M.bind_ok (M.regs_ok _ ht hw))
  have own : f s t (View.of t (s.core t.core)) = .ok w := hw
  rw [issue_ok hi body]
  simp only [regOp, issue, hi, own]

/-- What `rdclk` writes (R180). -/
def State.clock (s : State) (ret : Bool) (t : Team) : Word := if ret || 2 ≤ s.levelOf t then t.retired else s.tick

/-- What `rdid` writes (R181). -/
def State.identityWrite (s : State) (t : Team) (k : BitVec 4) (sd : BitVec 6) (v : View) : Except Stop View :=
  if 8 ≤ k.toNat ∧ k.toNat < 12 then v.writeV sd false (v.keyWord (k.toNat - 8)) else v.writeS sd (s.identity t k.toNat)

section
variable {s : State} {t : Team} {sd : BitVec 6} (hi : s.issuer? = some t)
include hi

theorem State.registers_rdclk (ret : Bool) (hd : (s.viewOf t).checkS posD sd = .ok ()) :
    s.Registers t (.rdclk ret sd) 4 ((s.viewOf t).setS sd (s.clock ret t)) := by
  have write := View.writeS_of_checkS hd (s.clock ret t)
  have body := issue_of_regs (f := fun s t v => v.writeS sd (s.clock ret t)) hi write
  exact State.registers_of_regOp hi body write (View.team_id_setS ..) (View.team_core_setS ..)

theorem State.exec_rdid {k : BitVec 4} {w : View} (hw : s.identityWrite t k sd (s.viewOf t) = .ok w) :
    exec (.rdid k sd) s = regOp 4 (s.identityWrite t k sd) s :=
  issue_of_regs (f := fun s t => s.identityWrite t k sd) hi hw

theorem State.registers_rdid {k : BitVec 4} (hk : ¬ (8 ≤ k.toNat ∧ k.toNat < 12))
    (hd : (s.viewOf t).checkS posD sd = .ok ()) :
    s.Registers t (.rdid k sd) 4 ((s.viewOf t).setS sd (s.identity t k.toNat)) := by
  have write : s.identityWrite t k sd (s.viewOf t) = _ := (if_neg hk).trans (View.writeS_of_checkS hd _)
  exact State.registers_of_regOp hi (State.exec_rdid hi write) write (View.team_id_setS ..) (View.team_core_setS ..)

end

/-! ## The words of a key (R19, R52) -/

theorem toNat_launchedKey {gang : BitVec 32} {team lane : Nat} (ht : team < 64) (hl : lane < 1024) :
    (launchedKey gang team lane).toNat = gang.toNat * 2 ^ 96 + team * 2 ^ 90 + lane * 2 ^ 80 := by
  have bound := gang.isLt
  rw [launchedKey, BitVec.toNat_ofNat]
  exact Nat.mod_eq_of_lt (by omega)

/-- Of a launched lane's key the two low words are 0, the next holds the team and the lane, and the top one the gang. -/
theorem launchedKey_word {gang : BitVec 32} {team lane : Nat} (ht : team < 64) (hl : lane < 1024) {i : Nat} (hi : i < 4) :
    (launchedKey gang team lane).toNat / 2 ^ (32 * i) % 2 ^ 32 =
      if i = 3 then gang.toNat else if i = 2 then team * 2 ^ 26 + lane * 2 ^ 16 else 0 := by
  have bound := gang.isLt
  rw [toNat_launchedKey ht hl]
  have cases : i = 0 ∨ i = 1 ∨ i = 2 ∨ i = 3 := by omega
  rcases cases with rfl | rfl | rfl | rfl
  · simp; omega
  · simp; omega
  · simp; omega
  · simp; omega

/-- The word of a launched lane is affine in the lane. -/
theorem affine_word {team lane : Nat} (ht : team < 64) (hl : lane < 1024) :
    (BitVec.ofNat 32 (team * 2 ^ 26 + 0 * 2 ^ 16) + 0x10000 * BitVec.ofNat 32 lane).toNat =
      team * 2 ^ 26 + lane * 2 ^ 16 := by
  have product : (0x10000 : BitVec 32) * BitVec.ofNat 32 lane = BitVec.ofNat 32 (0x10000 * lane) :=
    (BitVec.ofNat_mul ..).symm
  rw [product, ← BitVec.ofNat_add, BitVec.toNat_ofNat, Nat.mod_eq_of_lt (by omega)]
  omega

theorem View.keyWord_of_launched {v : View} (h : v.team.spawned = false) (i : Nat) :
    v.keyWord i = Res.ofShape (.fmt .n32)
      (if i = 2 then .affine (BitVec.ofNat 32 ((v.team.laneKey 0).toNat / 2 ^ (32 * i) % 2 ^ 32)) 0x10000
      else .uniform (BitVec.ofNat 32 ((v.team.laneKey 0).toNat / 2 ^ (32 * i) % 2 ^ 32))) := by
  rw [View.keyWord, h]
  rfl

/-- The key words of a launched team are uniform, or affine in the lane; those of a spawned one are read lane by lane. -/
theorem View.keyWord_holds (v : View) {i : Nat} (hi : i < 4) (hs : v.team.size ≤ 1024) (h0 : 0 < v.team.size)
    (hk : v.team.spawned = true ∨
      ∃ gang team, ∀ l, l < v.team.size → v.team.laneKey l = launchedKey gang team l ∧ team < 64) :
    (v.keyWord i).Holds v (.fmt .n32) fun l => (v.team.laneKey l).toNat / 2 ^ (32 * i) := by
  cases spawned : v.team.spawned with
  | true =>
    rw [View.keyWord, spawned]
    obtain ⟨tag, single, words⟩ := v.lanewise_holds (tag := .fmt .n32) rfl (u := false)
      (f := fun l => (v.team.laneKey l).toNat / 2 ^ (32 * i) % 2 ^ 32) nofun
    exact ⟨tag, single, fun l hl ha => (words l hl ha).trans (Nat.mod_mod ..)⟩
  | false =>
    obtain ⟨gang, team, launched⟩ := hk.resolve_left (by simp [spawned])
    obtain ⟨-, ht⟩ := launched 0 h0
    have bound := gang.isLt
    have word (l : Nat) (hl : l < v.team.size) : (v.team.laneKey l).toNat / 2 ^ (32 * i) % 2 ^ 32 =
        if i = 3 then gang.toNat else if i = 2 then team * 2 ^ 26 + l * 2 ^ 16 else 0 := by
      rw [(launched l hl).1, launchedKey_word ht (by omega) hi]
    rw [View.keyWord_of_launched spawned, word 0 h0]
    refine ⟨rfl, rfl, fun l hl _ => ?_⟩
    rw [word l hl]
    by_cases h2 : i = 2
    · subst h2
      exact affine_word ht (by omega)
    · rw [if_neg h2, if_neg h2, if_neg h2]
      exact (BitVec.toNat_ofNat ..).trans (Nat.mod_eq_of_lt (by split <;> omega))

theorem State.computes_rdid {s : State} {t : Team} {sd : BitVec 6} (hi : s.issuer? = some t)
    (hd : (s.viewOf t).checkV posD sd false = .ok ()) (hs : t.size ≤ 1024) (h0 : 0 < t.size)
    (hk : t.spawned = true ∨ ∃ gang team, ∀ l, l < t.size → t.laneKey l = launchedKey gang team l ∧ team < 64) {i : Nat}
    (h4 : i < 4) : s.Computes t (.rdid (BitVec.ofNat 4 (8 + i)) sd) 4 sd false (.fmt .n32) fun l =>
      (t.laneKey l).toNat / 2 ^ (32 * i) := by
  have number : (BitVec.ofNat 4 (8 + i)).toNat = 8 + i := by rw [BitVec.toNat_ofNat]; omega
  obtain ⟨tag, single, words⟩ := (s.viewOf t).keyWord_holds h4 hs h0 hk
  have write : s.identityWrite t (BitVec.ofNat 4 (8 + i)) sd (s.viewOf t) =
      .ok ((s.viewOf t).put sd false ((s.viewOf t).keyWord i)) := by
    rw [State.identityWrite, number, if_pos (by omega), Nat.add_sub_cancel_left, View.writeV, single, Option.isSome_none,
      hd, Encoding.bind_ok]
    rfl
  exact State.computes_of_put hi (State.exec_rdid hi write) write rfl ⟨tag, single, words⟩

/-! ## The obligation -/

/-- Settles O17: a `wcnt` goes on or waits (`issue_wait`), the words of the hint space do nothing, an `exit` that leaves
lanes changes the team's record alone (`exec_exit`), and `rdclk` and `rdid` write what the state says. -/
theorem exitsWaitsHintsAndIdentity : Obligations.ExitsWaitsHintsAndIdentity := by
  unfold Obligations.ExitsWaitsHintsAndIdentity
  refine ⟨fun s t c n hk p hi => ?control, fun s t g f sd hi hg hf => ?identity⟩
  case control =>
    intro next waiting counter
    have count : t.counter c = counter := t.counter_eq c
    refine ⟨fun low => ?passes, fun high => ?waits, State.teamStep_of_next hi rfl (by rfl),
      State.teamStep_of_next hi rfl (by rfl), State.teamStep_of_next hi rfl (by rfl),
      State.teamStep_of_next hi rfl (by rfl), fun hld hap hs => ?exit⟩
    case passes =>
      refine State.teamStep_of_next hi rfl (M.bind_ok (a := ()) ?_)
      rw [count, decide_eq_false (Nat.not_lt.mpr low)]
      rfl
    case waits =>
      refine issue_wait hi (M.bind_error ?_)
      rw [count, decide_eq_true high]
      rfl
    case exit =>
      intro gone left
      obtain ⟨-, act, v, regs⟩ := t.exited_keeps t gone s.tick.toNat (s.levelOf (t.moveTo (t.arm.pc + 4)))
      obtain ⟨s', done, found, others, rest⟩ := State.teamStep_of_exec _ hi (fun u => (u.exited_keeps ..).1)
        (exec_exit hi rfl hld hap hs left)
      exact ⟨s', _, done, found, act, v, regs, others, rest⟩
  case identity =>
    intro v gives
    have level : s.levelOf t = g.level.toNat := by rw [State.levelOf, hg]; rfl
    refine ⟨fun hd => ?scalars, fun hd keys small inhabited i h4 => State.computes_rdid hi hd small inhabited keys h4⟩
    have id {k : BitVec 4} {x : Word} (hk : ¬ (8 ≤ k.toNat ∧ k.toNat < 12)) (hx : s.identity t k.toNat = x) :
        gives (.rdid k sd) x := hx ▸ State.registers_rdid hi hk hd
    have clock (ret : Bool) : gives (.rdclk ret sd) (s.clock ret t) := State.registers_rdclk hi ret hd
    refine ⟨clock true, ?ticks, id (by decide) ?high, id (by decide) ?low, id (by decide) ?gang, id (by decide) rfl,
      id (by decide) ?core, id (by decide) ?dev, id (by decide) ?level, id (by decide) ?tenant, id (by decide) rfl,
      id (by decide) ?part⟩
    case ticks =>
      have ticks : s.clock false t = if g.level.toNat < 2 then s.tick else t.retired := by
        rw [State.clock, level]
        by_cases low : g.level.toNat < 2
        · simp [low]
        · simp [low, Nat.le_of_not_lt low]
      rw [← ticks]
      exact clock false
    case high => exact BitVec.eq_of_toNat_eq (by simp [State.identity, Nat.shiftRight_eq_div_pow])
    case low => exact BitVec.eq_of_toNat_eq (by simp [State.identity])
    case gang => simp [State.identity, hg]
    case core =>
      by_cases low : g.level.toNat < 2
      · simp [State.identity, hg, level, low]
      · simp [State.identity, hg, level, low, Nat.le_of_not_lt low]
    case dev => simp [State.identity]
    case level =>
      have join : ∀ (l : BitVec 2) (b : Bool), BitVec.ofNat 64 l.toNat ||| (if b then 4 else 0) =
          BitVec.ofNat 64 (l.toNat + if b then 4 else 0) := by decide
      rw [← join g.level g.checked, ← level]
      simp [State.identity, hg]
    case tenant => simp [State.identity, State.tenantOf, hg]
    case part => simp [State.identity, hf]

end Sys2Proof.Machine

/-!
The turn after a push (R173), over every state: two records under one id.
-/

namespace Sys2Proof.Machine

/-! ## A state with two records under one id -/

/-- A team of one lane before a `brtab` whose operand has another tag than s32, so that it traps and, without a handler,
halts (R296). -/
def shallowTeam : Team := loadedTeam 2 1 0 0x10000 0

/-- A record with the same id in a gang of its own, two entries deep. -/
def deepTwin : Team :=
  let e : Entry :=
    { join := 0x10100, arm0 := Arm.start 0x10000 1 64, arm1 := Arm.start 0x10040 0 64, sel := false, table := false }
  { loadedTeam 2 9 0 0x10000 0 with stack := [e, e] }

/-- The state in which both are listed. -/
def twins : State :=
  { State.reset with
    cur := some 2, nextId := 10, teams := [shallowTeam, deepTwin], gangs := [loadedGang 1 0],
    families := [loadedFamily 0] }

/-- The depth of the stack found under an id after an instruction. -/
def depthAfter (o : Host.Outcome State Fault Refusal) (id : Nat) : Option Nat :=
  match o with
  | .next s => (s.team? id).map fun u => u.stack.length
  | _ => none

theorem exists_team_of_depthAfter {o : Host.Outcome State Fault Refusal} {id n : Nat} (h : depthAfter o id = some n) :
    ∃ s u, o = .next s ∧ s.team? id = some u ∧ u.stack.length = n := by
  cases o with
  | next s =>
    obtain ⟨u, found, depth⟩ := Option.map_eq_some_iff.mp h
    exact ⟨s, u, rfl, found, depth⟩
  | fault _ => cases h
  | refused _ => cases h

/-- The first record halts, and with it its gang dissolves, whose record goes (R31); the twin's is found in its place. -/
theorem depthAfter_twins : depthAfter (exec (.brtab (.v 0)) twins) 2 = some 2 := by decide +kernel

/-- Refutes O54: a `brtab` that traps without a handler halts its team, the team's gang dissolves with its record, and
under the same id a second record is found, whose stack is longer by more than a push. -/
theorem not_pushedEntriesStartWithArmZero : ¬ Obligations.PushedEntriesStartWithArmZero := by
  unfold Obligations.PushedEntriesStartWithArmZero
  intro h
  obtain ⟨s', u, done, found, depth⟩ := exists_team_of_depthAfter depthAfter_twins
  obtain ⟨e, stack, -⟩ := h twins s' shallowTeam u (.brtab (.v 0)) rfl (.inr ⟨_, rfl⟩) done found
    (by rw [depth]; decide)
  have pushed : u.stack.length = 1 := by rw [stack]; rfl
  omega

end Sys2Proof.Machine

/-!
Results computed lane by lane (R52 to R54, R182): what a result holds in the active lanes, single or pair, and the masks of
lanes (R23).
-/

namespace Sys2Proof.Machine

/-! ## Checks and reads that succeed -/

/-- Where two parts succeed, both do. -/
theorem ok_of_bind {ε α β : Type} {e : Except ε α} {f : α → Except ε β} {b : β} (h : (e >>= f) = .ok b) :
    ∃ a, e = .ok a ∧ f a = .ok b := by
  cases e with
  | error r => cases h
  | ok a => exact ⟨a, rfl, h⟩

theorem stopIf_eq_ok {b : Bool} {e : Stop} : stopIf b e = .ok () ↔ b = false := by
  cases b <;> simp [stopIf]

/-- An operand that is checked for some tags carries one of them (R56). -/
theorem tag_mem_of_fmtCheck {a : Src} {tags : List Tag} {pos spec : Nat} (h : fmtCheck a tags pos spec = .ok ())
    (hne : tags ≠ []) : a.tag ∈ tags := by
  cases tags with
  | nil => exact absurd rfl hne
  | cons w ws =>
    have listed : (w :: ws).contains a.tag = true := by simpa only [Bool.not_eq_false'] using stopIf_eq_ok.mp h
    exact List.contains_iff_mem.mp listed

/-- An operand of one of several formats carries the tag of one of them, an immediate that of the first. -/
theorem View.tag_of_readOneOf {v : View} {pos : Nat} {a : VSrc} {f : Fmt} {fs : List Fmt} {x : Src}
    (h : v.readOneOf pos a (f :: fs) = .ok x) : ∃ g ∈ f :: fs, x.tag = .fmt g := by
  have checked {e : Except Stop Src} (h : (do
      let x ← e
      fmtCheck x ((f :: fs).map .fmt) pos a.bits.toNat
      return x) = .ok x) : ∃ g ∈ f :: fs, x.tag = .fmt g := by
    obtain ⟨z, -, h⟩ := ok_of_bind h
    obtain ⟨_, check, h⟩ := ok_of_bind h
    cases h
    simpa [eq_comm] using tag_mem_of_fmtCheck check (by simp)
  cases a with
  | imm i =>
    cases h
    exact ⟨f, by simp, rfl⟩
  | v r => exact checked h
  | o r => exact checked h
  | x r => exact checked h

/-! ## Masks of lanes (R23) -/

theorem getLsbD_ofNat_two_pow {l : Nat} (hl : l < 1024) (k : Nat) :
    (BitVec.ofNat 1024 (2 ^ k)).getLsbD l = decide (k = l) := by
  rw [BitVec.getLsbD_ofNat, Nat.testBit_two_pow, decide_eq_true hl, Bool.true_and]

theorem getLsbD_maskOf (ls : List Nat) {l : Nat} (hl : l < 1024) : (maskOf ls).getLsbD l = decide (l ∈ ls) := by
  have onto (m : Mask) : (ls.foldl (fun m l => m ||| BitVec.ofNat 1024 (2 ^ l)) m).getLsbD l =
      (m.getLsbD l || decide (l ∈ ls)) := by
    induction ls generalizing m with
    | nil => simp
    | cons k ks ih =>
      rw [List.foldl_cons, ih, BitVec.getLsbD_or, getLsbD_ofNat_two_pow hl, Bool.or_assoc]
      simp [eq_comm]
  exact (onto 0).trans (by simp)

theorem Team.mem_lanes {t : Team} {l : Nat} : l ∈ t.lanes ↔ l < t.size ∧ t.active.getLsbD l = true := by
  simp [Team.lanes, lanesOf]

/-- The mask of the active lanes that satisfy a condition. -/
theorem getLsbD_maskOf_lanes (t : Team) (p : Nat → Bool) {l : Nat} (hl : l < t.size) :
    (maskOf (t.lanes.filter p)).getLsbD l = (t.active.getLsbD l && p l) := by
  by_cases low : l < 1024
  · simp [getLsbD_maskOf _ low, Team.mem_lanes, hl]
  · have none (m : Mask) : m.getLsbD l = false := BitVec.getLsbD_of_ge m l (Nat.le_of_not_lt low)
    rw [none, none, Bool.false_and]

/-! ## Results lane by lane (R52, R54, R182) -/

/-- A result of the registers that a tag asks for holds, in the lanes that a view has active, the elements of `f`. -/
def Res.Gives (r : Res) (v : View) (tag : Tag) (f : Nat → Nat) : Prop :=
  r.tagged tag ∧ r.hi.isSome = tag.isPair ∧ ∀ l, l < v.team.size → v.active.getLsbD l = true →
    r.val l = f l % 2 ^ (if tag.isPair then 64 else 32)

theorem Res.Holds.gives {r : Res} {v : View} {tag : Tag} {f : Nat → Nat} (hp : tag.isPair = false)
    (h : r.Holds v tag f) : r.Gives v tag f := by
  obtain ⟨htag, single, words⟩ := h
  refine ⟨⟨htag, by simp [single]⟩, by simp [single, hp], fun l hl ha => ?_⟩
  simpa [Res.val, single, hp] using words l hl ha

/-- A lane of a register that is given lane by lane. -/
theorem VReg.read_lanes {n l : Nat} (tag : Tag) (f : Nat → Elem) (poison : Mask) (hl : l < n) :
    ({ tag := tag, shape := .general ((List.range n).map f), poison := poison } : VReg).read l = f l := by
  simp [VReg.read, Shape.read, hl]

/-- A lane of the values of the active lanes. -/
theorem View.read_general {v : View} {l : Nat} (tag : Tag) (f : Nat → Nat) (poison : Mask) (hl : l < v.team.size)
    (ha : v.active.getLsbD l = true) : (v.general tag f poison).read l = BitVec.ofNat 32 (f l) := by
  rw [View.general, VReg.read_lanes _ _ _ hl, if_pos ha]

/-- What an active lane receives by a move. -/
theorem View.moved_lane {v : View} {l : Nat} (tag : Tag) (f : Nat → Elem × Elem) (bad : Nat → Bool)
    (hl : l < v.team.size) (ha : v.active.getLsbD l = true) :
    ((v.moved tag f bad).lo.read l, ((v.moved tag f bad).hi.map fun h => h.read l).getD 0) =
      ((f l).1, if tag.isPair then (f l).2 else 0) := by
  have low := View.read_general tag (fun l => (f l).1.toNat) (maskOf (v.team.lanes.filter bad)) hl ha
  refine Prod.ext (low.trans ((BitVec.ofNat_toNat ..).trans (BitVec.setWidth_eq _))) ?_
  cases pair : tag.isPair with
  | false => simp [View.moved, pair]
  | true =>
    have high := View.read_general tag (fun l => (f l).2.toNat) (maskOf (v.team.lanes.filter bad)) hl ha
    simpa [View.moved, pair] using high

/-- The words of an element of 64 bits. -/
theorem toNat_halves (n : Nat) :
    (BitVec.ofNat 32 (n % 2 ^ 32)).toNat + 2 ^ 32 * (BitVec.ofNat 32 (n / 2 ^ 32)).toNat = n % 2 ^ 64 := by
  simp only [BitVec.toNat_ofNat]
  omega

/-- A result computed lane by lane gives the elements, whether it is kept uniform or not. -/
theorem View.lanewise_gives (v : View) (tag : Tag) {u : Bool} {f : Nat → Nat} (hu : u = true → ∀ l, f l = f 0) :
    (v.lanewise tag u f).Gives v tag f := by
  cases pair : tag.isPair with
  | false => exact (v.lanewise_holds pair hu).gives pair
  | true =>
    cases u with
    | true =>
      refine ⟨⟨rfl, by simp [View.lanewise, pair, VReg.uniformOf]⟩, by simp [View.lanewise, pair], fun l _ _ => ?_⟩
      rw [hu rfl l, pair]
      simpa [Res.val, View.lanewise, pair, VReg.uniformOf, VReg.read, Shape.read] using toNat_halves (f 0)
    | false =>
      refine ⟨⟨rfl, by simp [View.lanewise, pair, View.general]⟩, by simp [View.lanewise, pair], fun l hl ha => ?_⟩
      have low := View.read_general tag (fun l => f l % 2 ^ 32) 0 hl ha
      have high := View.read_general tag (fun l => f l / 2 ^ 32) 0 hl ha
      rw [pair, if_pos rfl, ← toNat_halves, ← low, ← high]
      simp [Res.val, View.lanewise, pair]

/-- A uniform operand has one element in every lane. -/
theorem Src.val_of_uniform {a : Src} (h : a.uniform = true) (l : Nat) : a.val l = a.val 0 := by
  obtain ⟨lo, hi⟩ := Bool.and_eq_true_iff.mp h
  cases pair : a.pair with
  | false => simp [Src.val, pair, VReg.read_of_isUniform lo l]
  | true =>
    have high : a.hi.shape.isUniform = true := by simpa [pair] using hi
    simp [Src.val, pair, VReg.read_of_isUniform lo l, VReg.read_of_isUniform high l]

theorem Src.bits_of_uniform {a : Src} (h : a.uniform = true) (f : Fmt) (l : Nat) : a.bits f l = a.bits f 0 := by
  rw [Src.bits, Src.bits, a.val_of_uniform h l]

/-- The low register of a uniform operand reads the same in every lane. -/
theorem Src.lo_of_uniform {a : Src} (h : a.uniform = true) (l : Nat) : a.lo.read l = a.lo.read 0 :=
  VReg.read_of_isUniform (Bool.and_eq_true_iff.mp h).1 l

/-! ## Instructions that place one result -/

/-- An instruction on registers that puts a result places it and completes. -/
theorem State.registers_put {s : State} {t : Team} {i : Instr} {len : Nat} {vd : BitVec 6} {nw : Bool}
    {body : View → Except Stop View} {r : Res} (hi : s.issuer? = some t) (hx : exec i s = regOp len body s)
    (hb : body (s.viewOf t) = .ok ((s.viewOf t).put vd nw r)) :
    s.Registers t i len ((s.viewOf t).put vd nw r) := by
  obtain ⟨hid, hcore⟩ := (s.viewOf t).team_put vd nw r
  exact State.registers_of_regOp hi hx hb hid hcore

/-- A vector destination that passes its check takes the result. -/
theorem View.writeV_of_checkV {v : View} {vd : BitVec 6} {r : Res} (h : v.checkV posD vd r.hi.isSome = .ok ())
    (nw : Bool) : v.writeV vd nw r = .ok (v.put vd nw r) := by
  rw [View.writeV, h]
  rfl

/-- An instruction that places a result computes the elements the result gives. -/
theorem State.Registers.computes {s : State} {t : Team} {i : Instr} {len : Nat} {vd : BitVec 6} {nw : Bool} {tag : Tag}
    {f : Nat → Nat} {r : Res} (h : s.Registers t i len ((s.viewOf t).put vd nw r)) (hr : r.Gives (s.viewOf t) tag f) :
    s.Computes t i len vd nw tag f := ⟨r, h, hr⟩

/-- What counts of an element are its bits. -/
theorem State.Computes.congr {s : State} {t : Team} {i : Instr} {len : Nat} {vd : BitVec 6} {nw : Bool} {tag : Tag}
    {f g : Nat → Nat} (h : s.Computes t i len vd nw tag f)
    (e : ∀ l, f l % 2 ^ (if tag.isPair then 64 else 32) = g l % 2 ^ (if tag.isPair then 64 else 32)) :
    s.Computes t i len vd nw tag g := by
  obtain ⟨r, placed, tagged, high, val⟩ := h
  exact ⟨r, placed, tagged, high, fun l hl ha => (val l hl ha).trans (e l)⟩

/-! ## Bodies that compute lane by lane (R182 to R186) -/

section
variable {s : State} {t : Team} {i : Instr} {len : Nat} {x y d : Src} {va vb : VSrc} {vd : BitVec 6} {nw : Bool}
  (hi : s.issuer? = some t)
include hi

theorem State.computes_laneOne {f res : Fmt} {op : Nat → Nat} (hx : (s.viewOf t).readV posSA va f = .ok x)
    (hd : (s.viewOf t).checkV posD vd res.isPair = .ok ()) (hc : (s.viewOf t).consume [x] = .ok ())
    (he : exec i s = regOp len (laneOne f res op va vd nw) s) :
    s.Computes t i len vd nw (.fmt res) fun l => res.place (op (x.bits f l)) := by
  refine (State.registers_put hi he ?_).computes
    ((s.viewOf t).lanewise_gives (.fmt res) (u := x.uniform) fun hu l => ?_)
  · simp only [laneOne, hx, hd, hc, Encoding.bind_ok]
    rfl
  · rw [x.bits_of_uniform hu]

theorem State.computes_laneTwo_place {f res : Fmt} {op : Nat → Nat → Nat}
    (hx : (s.viewOf t).readV posSA va f = .ok x) (hy : (s.viewOf t).readV posSB vb f = .ok y)
    (hd : (s.viewOf t).checkV posD vd res.isPair = .ok ()) (hc : (s.viewOf t).consume [x, y] = .ok ())
    (he : exec i s = regOp len (laneTwo f res op vb va vd nw) s) :
    s.Computes t i len vd nw (.fmt res) fun l => res.place (op (x.bits f l) (y.bits f l)) := by
  refine (State.registers_put hi he ?_).computes
    ((s.viewOf t).lanewise_gives (.fmt res) (u := x.uniform && y.uniform) fun hu l => ?_)
  · simp only [laneTwo, hx, hy, hd, hc, Encoding.bind_ok]
    rfl
  · obtain ⟨ux, uy⟩ := Bool.and_eq_true_iff.mp hu
    rw [x.bits_of_uniform ux, y.bits_of_uniform uy]

theorem State.computes_laneThree {f : Fmt} {op : Nat → Nat → Nat → Nat}
    (hx : (s.viewOf t).readV posSA va f = .ok x) (hy : (s.viewOf t).readV posSB vb f = .ok y)
    (hd : (s.viewOf t).readD vd f = .ok d) (hc : (s.viewOf t).consume [x, y, d] = .ok ())
    (he : exec i s = regOp len (laneThree f op vb va vd nw) s) :
    s.Computes t i len vd nw (.fmt f) fun l => f.place (op (x.bits f l) (y.bits f l) (d.bits f l)) := by
  refine (State.registers_put hi he ?_).computes
    ((s.viewOf t).lanewise_gives (.fmt f) (u := x.uniform && y.uniform && d.uniform) fun hu l => ?_)
  · simp only [laneThree, hx, hy, hd, hc, Encoding.bind_ok]
    rfl
  · obtain ⟨uxy, ud⟩ := Bool.and_eq_true_iff.mp hu
    obtain ⟨ux, uy⟩ := Bool.and_eq_true_iff.mp uxy
    rw [x.bits_of_uniform ux, y.bits_of_uniform uy, d.bits_of_uniform ud]

end

end Sys2Proof.Machine

/-!
Floating point (R183 to R185).
-/

namespace Sys2Proof.Machine

/-! ## Floating point (R183 to R185) -/

/-- The sign bit flipped, as R185 says it. -/
theorem floatNeg_eq (f : FloatFmt) (a : Nat) :
    floatNeg f a = if a / f.signBit % 2 = 0 then a % f.signBit + f.signBit else a % f.signBit := by
  unfold floatNeg
  rcases Nat.mod_two_eq_zero_or_one (a / f.signBit) with clear | set
  · rw [clear, if_pos rfl, Nat.sub_zero, Nat.one_mul]
  · rw [set, if_neg Nat.one_ne_zero, Nat.sub_self, Nat.zero_mul, Nat.add_zero]

/-- Settles O4: the body of every instruction of majors 1 to 7 is `laneOne`, `laneTwo` or `laneThree` of its operation
on a lane, and these compute that operation in every active lane. -/
theorem floatArithmeticResults : Obligations.FloatArithmeticResults := by
  unfold Obligations.FloatArithmeticResults
  refine ⟨fun s t ft vb va vd nw rm x y hi hx hy hd hc => ?two,
    fun s t ft vb va vd nw rm x y d hi hx hy hd hc => ?three,
    fun s t ft va vd nw rm x hi hx hc => ?one⟩
  case two =>
    intro gives pick
    have lanes {i : Instr} {op : Nat → Nat → Nat} (he : exec i s = regOp 4 (laneTwo ft.fmt ft.fmt op vb va vd nw) s) :
        gives i op := State.computes_laneTwo_place hi hx hy hd hc he
    refine ⟨lanes (op := floatArith .add _ _) ?_, lanes (op := floatArith .sub _ _) ?_,
      lanes (op := floatArith .mul _ _) ?_, lanes rfl, lanes rfl, lanes rfl, lanes (op := floatCopysign _) rfl⟩
    · cases ft <;> rfl
    · cases ft <;> rfl
    · cases ft <;> rfl
  case three =>
    refine State.computes_laneThree (op := floatFma (FloatFmt.ofFType ft) (rmodeOf rm)) hi hx hy hd hc ?_
    cases ft <;> rfl
  case one =>
    intro gives
    have lanes {i : Instr} {op : Nat → Nat} (he : exec i s = regOp 4 (laneOne ft.fmt ft.fmt op va vd nw) s) :
        gives i op := fun hd => State.computes_laneOne hi hx hd hc he
    have flipped : floatNeg (FloatFmt.ofFType ft) = _ := funext (floatNeg_eq (FloatFmt.ofFType ft))
    refine ⟨lanes rfl, lanes rfl, lanes rfl, lanes rfl, lanes rfl, lanes rfl, lanes rfl, lanes rfl, lanes rfl,
      flipped ▸ lanes rfl, lanes (op := floatAbs _) rfl, fun hd => ?classes⟩
    case classes => exact (State.computes_laneOne (res := .n32) hi hx hd hc rfl).congr fun l => Nat.mod_mod ..
end Sys2Proof.Machine

/-!
Vector integers (R186) with the shapes of R52.
-/

namespace Sys2Proof.Machine

/-! ## Integers (R186, R52) -/

/-- A type of majors 8 to 11 fills one register with 32 bits or a pair with 64. -/
theorem IType.registers_and_bits (it : IType) : it.fmt.isPair = decide (it.shape.2 = 64) ∧ it.fmt.bits = it.shape.2 ∧
    (it.shape.2 = 32 ∨ it.shape.2 = 64) := by cases it <;> decide

theorem IType.width_of_single {it : IType} (h : it.fmt.isPair = false) : it.shape.2 = 32 := by
  obtain ⟨pair, -, width⟩ := IType.registers_and_bits it
  exact width.resolve_right fun e => by simp [pair, e] at h

theorem IType.place_eq (it : IType) (b : Nat) : it.fmt.place b = b % 2 ^ it.shape.2 := by cases it <;> rfl

theorem wrapBits_lt (w : Nat) (i : Int) : wrapBits w i < 2 ^ w := by
  rw [wrapBits_eq]
  exact BitVec.isLt _

/-- Sat, comparison by comparison (R70). -/
theorem satInt_eq (signed : Bool) (w : Nat) (i : Int) : satInt signed w i =
    if i < intLeast signed w then intLeast signed w
    else if intGreatest signed w < i then intGreatest signed w else i := by
  have half : (0 : Int) < 2 ^ (w - 1) := by positivity
  have whole : (0 : Int) < 2 ^ w := by positivity
  have ordered : intLeast signed w ≤ intGreatest signed w := by
    cases signed <;> simp only [intLeast, intGreatest, if_true, Bool.false_eq_true, if_false] <;> omega
  unfold satInt
  split
  · omega
  · split <;> omega

/-- A shift amount is taken modulo a width that divides the number of words. -/
theorem toNat_intOf_emod {w : Nat} (hw : w ∣ 2 ^ w) (signed : Bool) (b : Nat) :
    (intOf signed w b % w).toNat = b % 2 ^ w % w := by
  obtain ⟨k, hk⟩ := hw
  have wraps : (2 : Int) ^ w = w * k := by exact_mod_cast hk
  have drops : intOf signed w b % w = ((b % 2 ^ w : Nat) : Int) % w := by
    dsimp only [intOf]
    split
    · rw [wraps, Int.sub_mul_emod_self_left]
    · rfl
  rw [drops]
  omega

section
variable (signed : Bool) (w a b : Nat)

theorem intArith_min : intArith .min signed w a b =
    wrapBits w (if intOf signed w a ≤ intOf signed w b then intOf signed w a else intOf signed w b) :=
  congrArg (wrapBits w) (min_def ..)

theorem intArith_max : intArith .max signed w a b =
    wrapBits w (if intOf signed w a ≤ intOf signed w b then intOf signed w b else intOf signed w a) :=
  congrArg (wrapBits w) (max_def ..)

theorem intArith_adds : intArith .adds signed w a b = wrapBits w (
    if intOf signed w a + intOf signed w b < intLeast signed w then intLeast signed w
    else if intGreatest signed w < intOf signed w a + intOf signed w b then intGreatest signed w
    else intOf signed w a + intOf signed w b) := congrArg (wrapBits w) (satInt_eq ..)

theorem intArith_subs : intArith .subs signed w a b = wrapBits w (
    if intOf signed w a - intOf signed w b < intLeast signed w then intLeast signed w
    else if intGreatest signed w < intOf signed w a - intOf signed w b then intGreatest signed w
    else intOf signed w a - intOf signed w b) := congrArg (wrapBits w) (satInt_eq ..)

theorem intArith_rem : intArith .rem signed w a b = wrapBits w (if intOf signed w b = 0 then intOf signed w a
    else intOf signed w a - intOf signed w b * (intOf signed w a).tdiv (intOf signed w b)) := by
  simp only [intArith, Int.tmod_def, apply_ite (wrapBits w)]

theorem intAbsBits_eq :
    intAbsBits w a = wrapBits w (if intOf true w a < 0 then -intOf true w a else intOf true w a) := by
  unfold intAbsBits
  refine congrArg _ ?_
  split <;> omega

end

/-- An integer operation on 32 or 64 bits whose result on one register may have a shape (R52). -/
theorem State.computes_intArith_shaped {s : State} {t : Team} {i : Instr} {len : Nat} {x y : Src} {va vb : VSrc}
    {vd : BitVec 6} {nw : Bool} {it : IType} {op : IntOp} (word : BitVec 32 → BitVec 32 → BitVec 32)
    (hop : ∀ a b : BitVec 32, intArith op it.shape.1 32 a.toNat b.toNat = (word a b).toNat)
    (hsh : ∀ a b sh l, IntOp.shapeOf op a b = some sh → sh.read l = word (a.read l) (b.read l))
    (hi : s.issuer? = some t) (hx : (s.viewOf t).readV posSA va it.fmt = .ok x)
    (hy : (s.viewOf t).readV posSB vb it.fmt = .ok y) (hd : (s.viewOf t).checkV posD vd it.fmt.isPair = .ok ())
    (hc : (s.viewOf t).consume [x, y] = .ok ()) (he : exec i s = regOp len (intShaped op vb va vd nw it) s) :
    s.Computes t i len vd nw (.fmt it.fmt) fun l =>
      intArith op it.shape.1 it.shape.2 (x.bits it.fmt l) (y.bits it.fmt l) := by
  cases pair : it.fmt.isPair with
  | false =>
    have w32 := IType.width_of_single pair
    obtain ⟨-, width, -⟩ := IType.registers_and_bits it
    have bits : it.fmt.bits = 32 := width.trans w32
    have low (a : Src) (l : Nat) : a.bits it.fmt l = (a.lo.read l).toNat := by rw [Src.bits, bits, Src.val_mod]
    simp only [w32, low, hop]
    exact State.computes_intShaped hi (pair ▸ hd) hc w32 bits pair hop hsh hx hy he
  | true =>
    refine (State.registers_put hi he ?_).computes
      ((s.viewOf t).lanewise_gives (.fmt it.fmt) (u := x.uniform && y.uniform) fun hu l => ?_)
    · rw [pair] at hd
      simp only [intShaped, hx, hy, hd, hc, Encoding.bind_ok, pair, if_true]
      rfl
    · obtain ⟨ux, uy⟩ := Bool.and_eq_true_iff.mp hu
      rw [x.bits_of_uniform ux, y.bits_of_uniform uy]

/-- Settles O5: `add`, `sub`, `mul` and `shl` keep the shapes of R52 (`State.computes_intArith_shaped`); the bodies of
the others are `laneOne`, `laneTwo` and `laneThree` of their operation. -/
theorem integerArithmeticResults : Obligations.IntegerArithmeticResults := by
  unfold Obligations.IntegerArithmeticResults
  refine ⟨fun s t it vb va vd nw x y hi hx hy hd hc => ?two, fun s t it wide vb va vd nw x y d => ?oneAndThree⟩
  case two =>
    intro gives
    obtain ⟨-, -, width⟩ := IType.registers_and_bits it
    have divides : it.shape.2 ∣ 2 ^ it.shape.2 := by
      rcases width with w | w <;> rw [w] <;> decide
    have shaped {i : Instr} {op : IntOp} {exact_ : Int → Int → Int} (word : BitVec 32 → BitVec 32 → BitVec 32)
        (hword : ∀ sg, ∀ a b : BitVec 32, intArith op sg 32 a.toNat b.toNat = (word a b).toNat)
        (hsh : ∀ a b sh l, IntOp.shapeOf op a b = some sh → sh.read l = word (a.read l) (b.read l))
        (he : exec i s = regOp 4 (intShaped op vb va vd nw it) s)
        (hop : ∀ a b, intArith op it.shape.1 it.shape.2 a b =
          wrapBits it.shape.2 (exact_ (intOf it.shape.1 it.shape.2 a) (intOf it.shape.1 it.shape.2 b))) :
        gives i exact_ := by
      refine (State.computes_intArith_shaped word (hword it.shape.1) hsh hi hx hy hd hc he).congr fun l => ?_
      rw [hop]
    have lanes {i : Instr} {op : IntOp} {exact_ : Int → Int → Int}
        (he : exec i s = regOp 4 (laneTwo it.fmt it.fmt (intArith op it.shape.1 it.shape.2) vb va vd nw) s)
        (hop : ∀ a b, intArith op it.shape.1 it.shape.2 a b =
          wrapBits it.shape.2 (exact_ (intOf it.shape.1 it.shape.2 a) (intOf it.shape.1 it.shape.2 b))) :
        gives i exact_ := by
      refine (State.computes_laneTwo_place hi hx hy hd hc he).congr fun l => ?_
      rw [IType.place_eq, hop, Nat.mod_eq_of_lt (wrapBits_lt _ _)]
    have power (b : Nat) : (2 : Int) ^ (b % 2 ^ it.shape.2 % it.shape.2) =
        2 ^ (intOf it.shape.1 it.shape.2 b % it.shape.2).toNat := by rw [toNat_intOf_emod divides]
    clear_value gives
    exact ⟨shaped _ intArith_add (fun _ _ _ l h => Shape.read_addShape h l) rfl fun _ _ => rfl,
      shaped _ intArith_sub (fun _ _ _ l h => Shape.read_addShape h l) rfl fun _ _ => rfl,
      shaped _ intArith_mul (fun _ _ _ l h => Shape.read_mulShape h l) rfl fun _ _ => rfl,
      lanes rfl fun _ _ => rfl, lanes rfl (intArith_min _ _), lanes rfl (intArith_max _ _),
      lanes rfl (intArith_adds _ _), lanes rfl (intArith_subs _ _),
      shaped _ intArith_shl (fun _ _ _ l h => Shape.read_shlShape h l) rfl fun _ b => by rw [← power]; rfl,
      lanes rfl fun _ b => by rw [← power]; rfl, lanes rfl fun _ _ => rfl, lanes rfl (intArith_rem _ _)⟩
  case oneAndThree =>
    intro v f w hi
    refine ⟨fun hx hd hc => ?one, fun hx hy hd hc => ?mad⟩
    case one =>
      have place (b : Nat) : f.place b = b % 2 ^ w := by cases wide <;> rfl
      have lanes {i : Instr} {op : Nat → Nat} {exact_ : Int → Int}
          (he : exec i s = regOp 4 (laneOne f f op va vd nw) s)
          (hop : ∀ a, op a = wrapBits w (exact_ (intOf true w a))) :
          s.Computes t i 4 vd nw (.fmt f) fun l => wrapBits w (exact_ (intOf true w (x.bits f l))) := by
        refine (State.computes_laneOne hi hx hd hc he).congr fun l => ?_
        rw [place, hop, Nat.mod_eq_of_lt (wrapBits_lt _ _)]
      exact ⟨lanes (exact_ := fun a => if a < 0 then -a else a) rfl (intAbsBits_eq w),
        lanes (exact_ := fun a => -a) rfl fun _ => rfl⟩
    case mad =>
      refine (State.computes_laneThree hi hx hy hd hc (op := intMadd it.shape.2) rfl).congr fun l => ?_
      rw [IType.place_eq, intMadd, Nat.mod_mod]

end Sys2Proof.Machine

/-!
Bit instructions and vector immediates (R187, R188).
-/

namespace Sys2Proof.Machine

/-! ## Bits of words (R187) -/

theorem rotlBits_eq (a : BitVec 32) (k : Nat) : rotlBits 32 a.toNat k = (a.rotateLeft (k % 32)).toNat := by
  have whole := a.isLt
  have amount : k % 32 < 32 := Nat.mod_lt _ (by decide)
  have split : 2 ^ 32 = 2 ^ (k % 32) * 2 ^ (32 - k % 32) := by rw [← Nat.pow_add]; congr 1; omega
  have high : a.toNat * 2 ^ (k % 32) % 2 ^ 32 = 2 ^ (k % 32) * (a.toNat % 2 ^ (32 - k % 32)) := by
    rw [split, Nat.mul_comm, Nat.mul_mod_mul_left]
  have low : a.toNat / 2 ^ (32 - k % 32) < 2 ^ (k % 32) := by
    rw [Nat.div_lt_iff_lt_mul (by positivity), ← split]
    exact whole
  rw [BitVec.toNat_rotateLeft, Nat.mod_mod, Nat.shiftLeft_eq, Nat.shiftRight_eq_div_pow, high,
    ← Nat.two_pow_add_eq_or_of_lt low, ← high, rotlBits, Nat.mod_eq_of_lt whole]

/-- Half of a number and its lowest bit, from place k on. -/
theorem high_bits_step (x k : Nat) :
    x / 2 ^ k * 2 ^ k = x / 2 ^ (k + 1) * 2 ^ (k + 1) + if x.testBit k then 2 ^ k else 0 := by
  have halves := Nat.div_add_mod (x / 2 ^ k) 2
  rw [Nat.div_div_eq_div_mul, ← Nat.pow_succ] at halves
  rw [Nat.testBit_eq_decide_div_mod_eq, ← halves]
  rcases Nat.mod_two_eq_zero_or_one (x / 2 ^ k) with bit | bit
  · simp [bit, Nat.pow_succ]
    ring
  · simp [bit, Nat.pow_succ]
    ring

/-- The first n lanes of the fold fill the n highest bits. -/
theorem foldl_brev_eq_high_bits (a : BitVec 32) {n : Nat} (hn : n ≤ 32) :
    (List.range n).foldl (fun r i => if a.toNat.testBit i then r + 2 ^ (32 - 1 - i) else r) 0 =
      a.reverse.toNat / 2 ^ (32 - n) * 2 ^ (32 - n) := by
  induction n with
  | zero =>
    rw [Nat.div_eq_of_lt a.reverse.isLt, Nat.zero_mul]
    rfl
  | succ n ih =>
    have place : 32 - n = 32 - (n + 1) + 1 := by omega
    have bit : a.reverse.toNat.testBit (32 - (n + 1)) = a.toNat.testBit n := by
      change a.reverse.getLsbD _ = a.getLsbD n
      rw [BitVec.getLsbD_reverse, BitVec.getMsbD_eq_getLsbD, decide_eq_true (by omega), Bool.true_and]
      congr 1
      omega
    rw [List.range_succ, List.foldl_append, ih (by omega), high_bits_step a.reverse.toNat (32 - (n + 1)), bit, ← place]
    simp only [List.foldl_cons, List.foldl_nil]
    split
    · congr 2
      omega
    · rfl

theorem brevBits_eq (a : BitVec 32) : brevBits 32 a.toNat = a.reverse.toNat :=
  (foldl_brev_eq_high_bits a (Nat.le_refl 32)).trans (by simp)

theorem clzBits_eq (a : BitVec 32) : clzBits 32 a.toNat = if a = 0 then 32 else 31 - a.toNat.log2 := by
  unfold clzBits bitLen
  rw [Nat.mod_eq_of_lt a.isLt]
  by_cases h : a = 0
  · subst h
    rfl
  · have positive : a.toNat ≠ 0 := fun zero => h (BitVec.eq_of_toNat_eq zero)
    rw [if_neg positive, if_neg h]
    omega

theorem toNat_andn (a b : BitVec 32) : a.toNat &&& (2 ^ 32 - 1 - b.toNat) = (a &&& ~~~b).toNat := by
  rw [BitVec.toNat_and, BitVec.toNat_not]

/-- Of an operand only the bits of the width count. -/
theorem intArith_ofNat (op : IntOp) (signed : Bool) (a b : Nat) :
    intArith op signed 32 a b = intArith op signed 32 (BitVec.ofNat 32 a).toNat b := by
  have own : intOf signed 32 (BitVec.ofNat 32 a).toNat = intOf signed 32 a := by
    simp only [intOf, BitVec.toNat_ofNat, Nat.mod_mod]
  cases op <;> simp only [intArith, intQuot, own]

theorem rotlBits_ofNat (a k : Nat) : rotlBits 32 a k = rotlBits 32 (BitVec.ofNat 32 a).toNat k := by
  simp only [rotlBits, BitVec.toNat_ofNat, Nat.mod_mod]

theorem intOf_toInt (a : BitVec 32) : intOf true 32 a.toNat = a.toInt := by
  rw [BitVec.toInt_eq_toNat_cond]
  simp only [intOf, Nat.mod_eq_of_lt a.isLt, Bool.true_and, decide_eq_true_eq]
  split <;> split <;> omega

theorem intArith_sshr (a : BitVec 32) {k : Nat} (hk : k < 32) :
    intArith .shr true 32 a.toNat k = (a.sshiftRight k).toNat := by
  have amount : k % 2 ^ 32 % 32 = k := by omega
  simp only [intArith, wrapBits_eq, amount, BitVec.sshiftRight_eq, Int.shiftRight_eq_div_pow, intOf_toInt]
  norm_cast

/-! ## Bodies of one source (R187, R188) -/

section
variable {s : State} {t : Team} {i : Instr} {x : Src} {va : VSrc} {vd : BitVec 6} {nw : Bool}
  (hi : s.issuer? = some t) (hd : (s.viewOf t).checkV posD vd false = .ok ())
  (hc : (s.viewOf t).consume [x] = .ok ())
include hi hd hc

theorem State.computes_bitOne {op : Nat → Nat} {res : Fmt} {g : BitVec 32 → Nat} (hp : res.isPair = false)
    (hop : ∀ a : BitVec 32, op a.toNat = g a) (hx : (s.viewOf t).readSingle posSA va .b32 = .ok x)
    (he : exec i s = regOp 4 (bitOne op res va vd nw) s) :
    s.Computes t i 4 vd nw (.fmt res) fun l => g (x.lo.read l) := by
  have val (l : Nat) : x.val l = (x.lo.read l).toNat := by simp [Src.val, View.pair_of_readSingle rfl hx]
  have body : bitOne op res va vd nw (s.viewOf t) = .ok ((s.viewOf t).put vd nw
      ((s.viewOf t).lanewise (.fmt res) x.uniform fun l => g (x.lo.read l) % 2 ^ 32)) := by
    simp only [bitOne, hx, hd, hc, Encoding.bind_ok, val, hop]
    rfl
  have computes := (State.registers_put hi he body).computes
    ((s.viewOf t).lanewise_gives (.fmt res) fun hu l => by rw [x.lo_of_uniform hu])
  exact computes.congr fun l => by simp [Tag.isPair, hp]

theorem State.computes_immShaped {f : Fmt} {fs : List Fmt} {shape : Shape → Shape → Option Shape}
    {op : Nat → Nat → Nat} {imm : Elem} {word : BitVec 32 → BitVec 32} (hp : ∀ g ∈ f :: fs, g.isPair = false)
    (hop : ∀ n, op n imm.toNat = (word (BitVec.ofNat 32 n)).toNat)
    (hsh : ∀ a sh l, shape a (.uniform imm) = some sh → sh.read l = word (a.read l))
    (hx : (s.viewOf t).readOneOf posSA va (f :: fs) = .ok x)
    (he : exec i s = regOp 4 (immShaped (f :: fs) shape op imm va vd nw) s) :
    s.Computes t i 4 vd nw x.tag fun l => (word (x.lo.read l)).toNat := by
  obtain ⟨g, mem, tag⟩ := View.tag_of_readOneOf hx
  have single : x.tag.isPair = false := tag ▸ hp g mem
  have low (l : Nat) : BitVec.ofNat 32 (x.val l) = x.lo.read l :=
    BitVec.eq_of_toNat_eq ((BitVec.toNat_ofNat ..).trans (x.val_mod l))
  cases shaped : shape x.lo.shape (.uniform imm) with
  | some sh =>
    refine State.computes_of_put (r := Res.ofShape x.tag sh) hi he ?_ single ⟨rfl, rfl, fun l _ _ => ?_⟩
    · simp only [immShaped, hx, hd, hc, Encoding.bind_ok, shaped]
      rfl
    · rw [Nat.mod_eq_of_lt (BitVec.isLt _)]
      exact congrArg BitVec.toNat (hsh _ _ l shaped)
  | none =>
    refine (State.registers_put hi he ?_).computes ((s.viewOf t).lanewise_gives x.tag (u := x.uniform) fun hu l => ?_)
    · simp only [immShaped, hx, hd, hc, Encoding.bind_ok, shaped, hop, low]
      rfl
    · rw [x.lo_of_uniform hu]

end

/-- Settles O6: the bodies are `bitTwo`, `bitOne` and `immShaped` of operations that are those of words. -/
theorem bitResults : Obligations.BitResults := by
  unfold Obligations.BitResults
  intro s t vb va vd nw imm amt x y v hi hd hc hcc a b
  have amount : (amt.setWidth 32).toNat = amt.toNat := by
    rw [BitVec.toNat_setWidth, Nat.mod_eq_of_lt (Nat.lt_trans amt.isLt (by decide))]
  refine ⟨fun hx hy => ?bits, fun hx => ?vaddi, fun hx => ⟨?shli, ?rotli⟩,
    fun hx => ?shriN, fun hx => ?shriS⟩
  case bits =>
    have two {i : Instr} {op : Nat → Nat → Nat} (word : BitVec 32 → BitVec 32 → BitVec 32)
        (he : exec i s = regOp 4 (bitTwo op vb va vd nw) s)
        (hop : ∀ a b : BitVec 32, op a.toNat b.toNat = (word a b).toNat) := State.computes_bitTwo hi hd hcc hop hx hy he
    have one {i : Instr} {op : Nat → Nat} {res : Fmt} (g : BitVec 32 → Nat)
        (he : exec i s = regOp 4 (bitOne op res va vd nw) s) (hp : res.isPair = false)
        (hop : ∀ a : BitVec 32, op a.toNat = g a) := State.computes_bitOne hi hd hc hp hop hx he
    exact ⟨two (fun a b => a &&& b) rfl fun _ _ => (BitVec.toNat_and ..).symm,
      two (fun a b => a ||| b) rfl fun _ _ => (BitVec.toNat_or ..).symm,
      two (fun a b => a ^^^ b) rfl fun _ _ => (BitVec.toNat_xor ..).symm, two (fun a b => a &&& ~~~b) rfl toNat_andn,
      two (fun a b => a.rotateLeft (b.toNat % 32)) rfl fun a b => rotlBits_eq a b.toNat,
      one (fun a => (~~~a).toNat) rfl rfl fun _ => BitVec.toNat_not.symm,
      one (fun a => a.reverse.toNat) rfl rfl brevBits_eq,
      one (fun a => ((List.range 32).filter a.getLsbD).length) rfl rfl fun _ => rfl,
      one (fun a => if a = 0 then 32 else 31 - a.toNat.log2) rfl rfl clzBits_eq,
      one (fun a => ((List.range 32).find? a.getLsbD).getD 32) rfl rfl fun _ => rfl⟩
  case vaddi =>
    exact State.computes_immShaped (shape := addShape false) (word := (· + imm.signExtend 32)) hi hd hc (by decide)
      (fun n => (intArith_ofNat ..).trans (intArith_add false _ (imm.signExtend 32)))
      (fun _ _ l h => Shape.read_addShape h l) hx rfl
  case shli =>
    refine State.computes_immShaped (word := (· <<< amt.toNat)) hi hd hc (by decide) (fun n => ?_)
      (fun _ _ l h => ?_) hx rfl
    · rw [intArith_ofNat, intArith_shl, amount, Nat.mod_eq_of_lt amt.isLt]
    · rw [Shape.read_shlShape h l]
      simp only [Shape.read, amount, Nat.mod_eq_of_lt amt.isLt]
  case rotli =>
    refine State.computes_immShaped (word := (·.rotateLeft amt.toNat)) hi hd hc (by decide) (fun n => ?_)
      (fun _ _ _ h => by cases h) hx rfl
    rw [rotlBits_ofNat, rotlBits_eq, amount, Nat.mod_eq_of_lt amt.isLt]
  case shriN =>
    refine State.computes_immShaped (word := (· >>> amt.toNat)) hi hd hc (by decide) (fun n => ?_)
      (fun _ _ _ h => by cases h) hx rfl
    rw [intArith_ofNat, intArith_shr, amount, Nat.mod_eq_of_lt amt.isLt]
  case shriS =>
    refine State.computes_immShaped (word := (·.sshiftRight amt.toNat)) hi hd hc (by decide) (fun n => ?_)
      (fun _ _ _ h => by cases h) hx rfl
    rw [amount, intArith_ofNat, intArith_sshr _ amt.isLt]

end Sys2Proof.Machine

/-!
Compares (R189).
-/

namespace Sys2Proof.Machine

/-- Settles O7: a compare writes one mask register (`State.registers_setMask`), in which the bits of the active lanes
are those of `getLsbD_maskOf_lanes`. -/
theorem compareWritesItsMask : Obligations.CompareWritesItsMask := by
  unfold Obligations.CompareWritesItsMask
  intro s t vb va ty md cc x y v hi hx hy hc small
  have body : compare vb va ty md cc v = .ok (v.setMask md ((v.mask md &&& ~~~v.active) |||
      maskOf (t.lanes.filter fun l => cmpLane cc ty (x.bits ty.fmt l) (y.bits ty.fmt l)))) := by
    simp only [compare, hx, hy, hc, Encoding.bind_ok]
    rfl
  obtain ⟨m, bits, done⟩ := State.registers_setMask hi (i := .cmp vb va ty md cc) rfl body fun _ _ => rfl
  refine ⟨m, done, fun l hl => ?_⟩
  have low : l < 1024 := Nat.lt_of_lt_of_le hl small
  rw [bits, decide_eq_true ⟨hl, low⟩, Bool.true_and, BitVec.getLsbD_or, getLsbD_maskOf_lanes t _ hl,
    BitVec.getLsbD_and, BitVec.getLsbD_not, decide_eq_true low, Bool.true_and]
  change (_ && !t.active.getLsbD l || _) = _
  cases t.active.getLsbD l
  · simp
  · simp

end Sys2Proof.Machine

/-!
Conversions and packed dot products (R190 to R192).
-/

namespace Sys2Proof.Machine

/-! ## cvt (R190, R191) -/

/-- A code allowed for one source is not barred for all. -/
theorem cvtBarred_of_allowed {src df : Tag} {sat : Bool} {rm : BitVec 3} {mode : RMode}
    (h : cvtDisallowed src df sat rm mode = false) : cvtBarred df sat rm = false := (Bool.or_eq_false_iff.mp h).1

section
variable {s : State} {t : Team} {df : Tag} {sat nw : Bool} {va vb : VSrc} {vd : BitVec 6} {rm : BitVec 3} {x y d : Src}
  (hi : s.issuer? = some t) (hf : (s.viewOf t).fetch posSA va (fun _ => false) = .ok y) (htag : y.tag = x.tag)
  (hx : (s.viewOf t).readAny posSA va = .ok x)
  (hallowed : cvtDisallowed x.tag df sat rm (cvtMode (s.viewOf t) df rm) = false)
  (hkind : x.tag.kind (s.viewOf t).nf ≠ .raw)
include hi hf htag hx hallowed hkind

theorem State.computes_convert (hmode : cvtMode (s.viewOf t) df rm ≠ .sr)
    (hd : (s.viewOf t).checkV posD vd df.isPair = .ok ()) (hc : (s.viewOf t).consume [x] = .ok ()) :
    s.Computes t (.cvt df sat va vd nw rm) 4 vd nw df fun l => df.place (s.viewOf t).nf
      (cvtLane (x.tag.kind (s.viewOf t).nf) (df.kind (s.viewOf t).nf) sat (cvtMode (s.viewOf t) df rm) 0
        (x.val l)) := by
  refine (State.registers_put (body := convert df sat va vd nw rm) hi rfl ?_).computes
    ((s.viewOf t).lanewise_gives df (u := x.uniform) fun hu l => by rw [x.val_of_uniform hu])
  simp only [convert, cvtBarred_of_allowed hallowed, hf, htag, hallowed, hx, beq_eq_false_iff_ne.mpr hkind,
    beq_eq_false_iff_ne.mpr hmode, hd, hc, stopIf_eq_ok.mpr, Encoding.bind_ok]
  rfl

theorem State.computes_convert_stochastic (hmode : cvtMode (s.viewOf t) df rm = .sr)
    (hd : (s.viewOf t).readD vd .n32 = .ok d) (hc : (s.viewOf t).consume [x, d] = .ok ()) :
    s.Computes t (.cvt df sat va vd nw rm) 4 vd nw df fun l => df.place (s.viewOf t).nf
      (cvtLane (x.tag.kind (s.viewOf t).nf) (df.kind (s.viewOf t).nf) sat (cvtMode (s.viewOf t) df rm)
        (d.val l % 2 ^ 16) (x.val l)) := by
  refine (State.registers_put (body := convert df sat va vd nw rm) hi rfl ?_).computes
    ((s.viewOf t).lanewise_gives df (u := x.uniform && d.uniform) fun hu l => ?_)
  · have barred := cvtBarred_of_allowed hallowed
    rw [hmode] at hallowed
    simp only [convert, barred, hf, htag, hmode, hallowed, hx, beq_eq_false_iff_ne.mpr hkind, beq_self_eq_true, if_true,
      hd, hc, stopIf_eq_ok.mpr, Encoding.bind_ok]
    rfl
  · obtain ⟨ux, ud⟩ := Bool.and_eq_true_iff.mp hu
    rw [x.val_of_uniform ux, d.val_of_uniform ud]

end

/-! ## dot (R192) -/

theorem State.computes_dotLanes {s : State} {t : Team} {i : Instr} {x y d : Src} {va vb : VSrc} {vd : BitVec 6}
    {nw : Bool} {af : AccFmt} {f : Fmt} {slot : Nat} {fa fb : Nat → XVal} {bad : Bool}
    {body : View → Except Stop View} (hi : s.issuer? = some t)
    (hx : (s.viewOf t).readV posSA va .pk = .ok x) (hy : (s.viewOf t).readV posSB vb .pk = .ok y)
    (hd : (s.viewOf t).readD vd f = .ok d) (hc : (s.viewOf t).consume [x, y, d] = .ok ()) (hb : bad = false)
    (he : exec i s = regOp 4 body s)
    (hdot : body (s.viewOf t) = dotLanes af f slot fa fb bad vb va vd nw (s.viewOf t)) :
    s.Computes t i 4 vd nw (.fmt f) fun l => (chunkSum af (d.val l) { sat := false, ovf := false }
      [slotProducts slot fa fb (x.lo.read l) (y.lo.read l)]).1 := by
  refine (State.registers_put hi he ?_).computes
    ((s.viewOf t).lanewise_gives (.fmt f) (u := x.uniform && y.uniform && d.uniform) fun hu l => ?_)
  · simp only [hdot, dotLanes, hx, hy, hd, hb, hc, stopIf_eq_ok.mpr, Encoding.bind_ok]
    rfl
  · obtain ⟨uxy, ud⟩ := Bool.and_eq_true_iff.mp hu
    obtain ⟨ux, uy⟩ := Bool.and_eq_true_iff.mp uxy
    rw [x.lo_of_uniform ux, y.lo_of_uniform uy, d.val_of_uniform ud]

/-- Settles O8: `cvt` passes its checks and converts (`State.computes_convert`, `State.computes_convert_stochastic`); a
packed dot product is `dotLanes` of its formats. -/
theorem conversionAndDotResults : Obligations.ConversionAndDotResults := by
  unfold Obligations.ConversionAndDotResults
  intro s t df sat nw vb va vd rm x y d v mode hi
  refine ⟨fun hf htag hx hallowed hkind => ⟨fun hmode hd hc => ?plain, fun hmode hd hc _ => ?stochastic⟩,
    fun hx hy hc => ?dots⟩
  case plain => exact State.computes_convert hi hf htag hx hallowed hkind hmode hd hc
  case stochastic => exact State.computes_convert_stochastic hi hf htag hx hallowed hkind hmode hd hc
  case dots =>
    intro products sum byte
    have dot {i : Instr} {af : AccFmt} {f : Fmt} {slot : Nat} {fa fb : Nat → XVal} {bad : Bool}
        {body : View → Except Stop View} (he : exec i s = regOp 4 body s)
        (hdot : body v = dotLanes af f slot fa fb bad vb va vd nw v) (hb : bad = false) (hd : v.readD vd f = .ok d) :
        s.Computes t i 4 vd nw (.fmt f) (sum af (products slot fa fb)) :=
      State.computes_dotLanes hi hx hy hd hc hb he hdot
    clear_value sum products
    refine ⟨fun hd => ⟨dot rfl rfl rfl hd, dot rfl rfl rfl hd, fun equal => ?narrow⟩, fun hd => dot rfl rfl rfl hd⟩
    case narrow =>
      have differs : (slotWidth (narrowFmt (v.nf 0)).width != slotWidth (narrowFmt (v.nf 1)).width) = false :=
        bne_eq_false_iff_eq.mpr equal
      exact dot (body := fun u => dotLanes .f32 .f32 (slotWidth (narrowFmt (u.nf 0)).width) (narrowFmt (u.nf 0)).value
        (narrowFmt (u.nf 1)).value (slotWidth (narrowFmt (u.nf 0)).width != slotWidth (narrowFmt (u.nf 1)).width)
        vb va vd nw u) rfl rfl differs hd

end Sys2Proof.Machine

/-!
Cross-lane moves, votes, samples and random words (R195 to R200).
-/

namespace Sys2Proof.Machine

/-! ## Instructions of major 17 (R201) -/

/-- The team of `View.noteVacant`. -/
def Team.noteVacant (m : Mask) (t : Team) : Team := { t with vacant := t.vacant ||| m }

/-- A view put back replaces the record of its team, however that was changed before. -/
theorem State.putView_modTeam (s : State) (f : Team → Team) (hf : ∀ u, (f u).id = u.id) (w : View) :
    (s.modTeam w.team.id f).putView w = s.putView w := by
  have teams : (s.modTeam w.team.id f).putTeam w.team = s.putTeam w.team := by
    unfold State.putTeam State.modTeam setWhere
    simp only [List.map_map]
    congr 1
    refine List.map_congr_left fun u _ => ?_
    by_cases own : u.id = w.team.id <;> simp [own, hf]
  simp only [State.putView, teams]

/-- Without a choice to come nothing is left outstanding (log 7). -/
theorem M.later_of_nil {s : State} (h : s.defer = []) : M.later s = .ok false s := by
  have drawn : M.later s = .ok s.choose.1 s.choose.2 := rfl
  have none : s.choose = (false, s) := by simp only [State.choose, h]
  rw [drawn, none]

/-- A counter below its bound may rise (R178). -/
theorem M.countable_of_lt {t : Team} {c : BitVec 2} (h : t.counter c < 63) (s : State) :
    M.countable t c s = .ok () s := by
  rw [M.countable, decide_eq_false (Nat.not_le.mpr h)]
  rfl

/-- Without a choice to come the result is placed now, and the lanes that read a vacant source are noted (R178, R195,
log 7). -/
theorem M.result_of_nil {s : State} {t : Team} (ht : s.team? t.id = some t) (hdefer : s.defer = []) (cross : Bool)
    (vd : BitVec 6) (nw : Bool) (r : Res) (m : Mask) :
    M.result t cross vd nw r m s = .ok () (s.putView (((s.viewOf t).noteVacant m).put vd nw r)) := by
  have noted : (s.modTeam t.id (Team.noteVacant m)).team? t.id = some (t.noteVacant m) := by
    rw [s.team?_modTeam t.id (Team.noteVacant m) fun _ => rfl, ht]
    rfl
  have put : M.regs (t.noteVacant m) (fun v => .ok (v.put vd nw r)) (s.modTeam t.id (Team.noteVacant m)) = _ :=
    M.regs_ok _ noted rfl
  have same := s.putView_modTeam (Team.noteVacant m) (fun _ => rfl) (((s.viewOf t).noteVacant m).put vd nw r)
  rw [(View.team_put ..).1] at same
  rw [M.result, M.bind_ok (M.later_of_nil hdefer)]
  exact (M.bind_ok (M.modify_run ..)).trans (put.trans (congrArg _ same))

/-- What a cross-lane instruction does where nothing is left outstanding. -/
theorem State.registers_crossOp {s : State} {t : Team} {i : Instr} {vd : BitVec 6} {nw : Bool}
    {f : View → Except Stop (Res × Mask)} {r : Res} {m : Mask} (hi : s.issuer? = some t) (hdefer : s.defer = [])
    (hxl : t.xl < 63) (hx : exec i s = crossOp vd nw f s) (hf : f (s.viewOf t) = .ok (r, m)) :
    s.Registers t i 4 (((s.viewOf t).noteVacant m).put vd nw r) := by
  have ht := s.team?_of_issuer t hi
  obtain ⟨hid, hcore⟩ := ((s.viewOf t).noteVacant m).team_put vd nw r
  have body : (do
      let (r, vacant) ← M.read t f
      M.countable t 3
      M.result t true vd nw r vacant
      return Done.next : M Done) s = .ok .next (s.putView (((s.viewOf t).noteVacant m).put vd nw r)) := by
    rw [M.bind_ok (M.read_ok f ht hf)]
    exact (M.bind_ok (M.countable_of_lt (c := 3) hxl s)).trans (M.bind_ok (M.result_of_nil ht hdefer true vd nw r m))
  refine State.registers_of_regOp (f := fun _ => .ok (((s.viewOf t).noteVacant m).put vd nw r)) hi ?_ rfl hid hcore
  rw [hx, crossOp, issue_ok hi body]
  simp only [regOp, issue, hi]

/-- A cross-lane instruction that reads no vacant lane computes its result. -/
theorem State.computes_crossOp {s : State} {t : Team} {i : Instr} {vd : BitVec 6} {nw : Bool} {tag : Tag}
    {g : Nat → Nat} {f : View → Except Stop (Res × Mask)} {r : Res} (hi : s.issuer? = some t) (hdefer : s.defer = [])
    (hxl : t.xl < 63) (hx : exec i s = crossOp vd nw f s) (hf : f (s.viewOf t) = .ok (r, 0))
    (hr : r.Gives (s.viewOf t) tag g) :
    s.Computes t i 4 vd nw tag g := by
  have none : (s.viewOf t).noteVacant 0 = s.viewOf t := by simp [View.noteVacant]
  exact State.Registers.computes (none ▸ State.registers_crossOp hi hdefer hxl hx hf) hr

/-! ## Reads of another lane (R195 to R197) -/

section
variable (v : View)

theorem View.picked_lane (p : Nat) : v.picked (.lane p) = if v.isVacant p then none else some p := rfl

theorem View.vacantPick_lane (p : Nat) : v.vacantPick (.lane p) = v.isVacant p := by
  rw [View.vacantPick, View.picked_lane]
  cases v.isVacant p <;> rfl

theorem View.picked_permutePick (w : Elem) : v.picked (permutePick w) =
    if w.msb || v.isVacant (w.toNat % 2 ^ 31) then none else some (w.toNat % 2 ^ 31) := by
  rw [permutePick, BitVec.msb_eq_getLsbD_last]
  cases w.getLsbD 31
  · rw [Bool.false_or]
    rfl
  · rfl

theorem View.vacantPick_permutePick (w : Elem) :
    v.vacantPick (permutePick w) = (!w.msb && v.isVacant (w.toNat % 2 ^ 31)) := by
  rw [permutePick, BitVec.msb_eq_getLsbD_last]
  cases w.getLsbD 31
  · exact v.vacantPick_lane _
  · rfl

theorem View.picked_shufflePick (l : Nat) (w : Elem) : v.picked (shufflePick l w) =
    if w.toNat < 32 ∧ v.isVacant (l / 32 * 32 + w.toNat) = false then some (l / 32 * 32 + w.toNat) else none := by
  unfold shufflePick
  by_cases low : w.toNat < 32
  · rw [if_pos low, View.picked_lane]
    cases v.isVacant (l / 32 * 32 + w.toNat) <;> simp [low]
  · rw [if_neg low, if_neg fun h => low h.1]
    rfl

theorem View.vacantPick_shufflePick (l : Nat) (w : Elem) : v.vacantPick (shufflePick l w) =
    !(decide (w.toNat < 32) && !v.isVacant (l / 32 * 32 + w.toNat)) := by
  unfold shufflePick
  by_cases low : w.toNat < 32
  · rw [if_pos low, View.vacantPick_lane, decide_eq_true low, Bool.true_and, Bool.not_not]
  · rw [if_neg low, decide_eq_false low]
    rfl

theorem View.picked_leafPick (l : Nat) (p : Int) : v.picked (leafPick l p) =
    if 0 ≤ p ∧ p / 32 = l / 32 ∧ v.isVacant p.toNat = false then some p.toNat else none := by
  have word : 0 ≤ p → (p.toNat / 32 = l / 32 ↔ p / 32 = l / 32) := by omega
  unfold leafPick
  by_cases own : 0 ≤ p ∧ p.toNat / 32 = l / 32
  · have own' : p / 32 = l / 32 := (word own.1).mp own.2
    rw [if_pos own, View.picked_lane]
    cases v.isVacant p.toNat <;> simp [own.1, own']
  · rw [if_neg own, if_neg fun h => own ⟨h.1, (word h.1).mpr h.2.1⟩]
    rfl

theorem View.vacantPick_leafPick (l : Nat) (p : Int) :
    v.vacantPick (leafPick l p) = (v.picked (leafPick l p)).isNone := by
  have noFill : (leafPick l p != .fill) = true := by
    unfold leafPick
    split <;> rfl
  rw [View.vacantPick, noFill, Bool.and_true]

/-- What an active lane receives of a cross-lane move, and whether it is noted in VACANT. -/
theorem View.xmove_lane (a : Src) (pick : Nat → Pick) {l : Nat} (hl : l < v.team.size)
    (ha : v.active.getLsbD l = true) :
    (v.xmove a pick).2.getLsbD l = v.vacantPick (pick l) ∧
      ((v.xmove a pick).1.lo.read l, ((v.xmove a pick).1.hi.map fun h => h.read l).getD 0) =
        ((v.xread a (pick l)).1, if a.tag.isPair then (v.xread a (pick l)).2 else 0) := by
  refine ⟨(getLsbD_maskOf_lanes v.team _ hl).trans ?_, v.moved_lane a.tag _ _ hl ha⟩
  rw [show v.team.active.getLsbD l = true from ha, Bool.true_and]

end

/-! ## Votes (R198) -/

section
variable (v : View) (a : Src) (k l : Nat)

/-- Whether a lane of a group is true for its vote. -/
def View.votesTrue (v : View) (a : Src) (p : Nat) : Bool := !v.isVacant p && a.lo.read p != 0

theorem voteTrue_value (p : Nat) :
    voteTrue (if v.isVacant p then none else some (a.lo.read p)) = v.votesTrue a p := by
  unfold View.votesTrue
  cases v.isVacant p <;> rfl

theorem length_groupLanes : (groupLanes k l).length = 2 ^ k := by simp [groupLanes]

/-- Every group has a first lane. -/
theorem groupLanes_eq_cons : ∃ ps, groupLanes k l = l / 2 ^ k * 2 ^ k :: ps := by
  obtain ⟨n, hn⟩ := Nat.exists_eq_succ_of_ne_zero (Nat.two_pow_pos k).ne'
  exact ⟨_, by rw [groupLanes, hn, List.range_succ_eq_map]; rfl⟩

theorem ruleAny_groupValues : ruleAny (v.groupValues a k l) =
    if ((groupLanes k l).filter (v.votesTrue a)).isEmpty then 0 else 1 := by
  have any : (v.groupValues a k l).any voteTrue = (groupLanes k l).any (v.votesTrue a) := by
    simp only [View.groupValues, List.any_map, Function.comp_def, voteTrue_value]
  have empty : ((groupLanes k l).filter (v.votesTrue a)).isEmpty = !(groupLanes k l).any (v.votesTrue a) :=
    Bool.eq_iff_iff.mpr (by simp)
  rw [ruleAny, any, empty]
  cases (groupLanes k l).any (v.votesTrue a) <;> rfl

theorem ruleAll_groupValues : ruleAll (v.groupValues a k l) =
    if ((groupLanes k l).filter (v.votesTrue a)).length = 2 ^ k then 1 else 0 := by
  have all : (v.groupValues a k l).all voteTrue = (groupLanes k l).all (v.votesTrue a) := by
    simp only [View.groupValues, List.all_map, Function.comp_def, voteTrue_value]
  rw [ruleAll, all, ← length_groupLanes k l]
  simp only [List.length_filter_eq_length_iff, List.all_eq_true]

theorem ruleEq_groupValues : ruleEq (v.groupValues a k l) =
    if (groupLanes k l).all fun p => !v.isVacant p && a.lo.read p == a.lo.read ((groupLanes k l).headD 0)
    then 1 else 0 := by
  obtain ⟨ps, lanes⟩ := groupLanes_eq_cons k l
  rw [ruleEq, View.groupValues, lanes]
  simp only [List.map_cons, List.headD_cons]
  cases first : v.isVacant (l / 2 ^ k * 2 ^ k)
  · have each (p : Nat) : ((if v.isVacant p then none else some (a.lo.read p)).isSome &&
        (if v.isVacant p then none else some (a.lo.read p)) == some (a.lo.read (l / 2 ^ k * 2 ^ k))) =
          (!v.isVacant p && a.lo.read p == a.lo.read (l / 2 ^ k * 2 ^ k)) := by
      cases v.isVacant p <;> simp
    simp [List.all_map, Function.comp_def, each, first]
  · simp [first]

/-- The bits of the true lanes, from lane j on. -/
theorem foldl_ballot (value : Nat → Option Elem) (j n w : Nat) :
    (((List.range' j n).map value).zipIdx j).foldl (fun w p => if voteTrue p.1 then w + 2 ^ p.2 else w) w =
      w + (((List.range' j n).filter fun i => voteTrue (value i)).map fun i => 2 ^ i).sum := by
  induction n generalizing j w with
  | zero => simp
  | succ n ih =>
    rw [List.range'_succ, List.map_cons, List.zipIdx_cons, List.foldl_cons, ih, List.filter_cons]
    cases voteTrue (value j)
    · simp
    · simp [Nat.add_assoc]

theorem ruleBallot_groupValues : ruleBallot (v.groupValues a k l) =
    (((groupLanes k l).filter (v.votesTrue a)).map fun p => 2 ^ (p - l / 2 ^ k * 2 ^ k)).sum := by
  rw [ruleBallot, View.groupValues, groupLanes, List.map_map, List.range_eq_range', foldl_ballot, Nat.zero_add,
    List.filter_map, List.map_map]
  simp only [Function.comp_def, voteTrue_value, Nat.add_sub_cancel_left]

theorem any_isNone_groupValues : (v.groupValues a k l).any Option.isNone = (groupLanes k l).any v.isVacant := by
  have each (p : Nat) : (if v.isVacant p then none else some (a.lo.read p)).isNone = v.isVacant p := by
    cases v.isVacant p <;> rfl
  simp only [View.groupValues, List.any_map, Function.comp_def, each]

/-- The result of a vote: where a group is 1,024 lanes there is one group, and its value is kept uniform. -/
def View.voteResult (v : View) (rule : VoteRule) (a : Src) (k : Nat) : Res :=
  if k = 10 then Res.ofShape (.fmt .n32) (.uniform (BitVec.ofNat 32 (rule (v.groupValues a k 0))))
  else v.lanewise (.fmt .n32) false fun l => rule (v.groupValues a k l)

theorem View.voteResult_holds (rule : VoteRule) :
    (v.voteResult rule a k).Holds v (.fmt .n32) fun l => rule (v.groupValues a k l) := by
  unfold View.voteResult
  split
  case isTrue whole =>
    refine ⟨rfl, rfl, fun l _ ha => ?_⟩
    have one : l / 2 ^ k = 0 / 2 ^ k := by
      have low := BitVec.lt_of_getLsbD ha
      rw [whole]
      omega
    have same : v.groupValues a k l = v.groupValues a k 0 := by simp only [View.groupValues, groupLanes, one]
    simp only [same]
    exact BitVec.toNat_ofNat ..
  case isFalse => exact v.lanewise_holds rfl nofun

end

/-! ## The bodies -/

section
variable {v : View} {x y : Src} {va vb : VSrc} {sb : SSrc} {vd : BitVec 6} {b : Word}

theorem crossVector_ok {pick : Nat → Elem → Pick} (hx : v.readAny posSA va = .ok x)
    (hy : v.readOneOf posSB vb [.s32, .n32, .b32] = .ok y) (hd : v.checkV posD vd x.pair = .ok ())
    (hc : v.consume [y] = .ok ()) :
    crossVector pick vb va vd v = .ok (v.xmove x fun l => pick l (y.lo.read l)) := by
  simp only [crossVector, hx, hy, hd, hc, indexFmts, Encoding.bind_ok]
  rfl

theorem crossScalar_ok {pick : Nat → Nat → Int} (hx : v.readAny posSA va = .ok x) (hb : v.readS posSB sb = .ok b)
    (hd : v.checkV posD vd x.pair = .ok ()) :
    crossScalar pick sb va vd v = .ok (v.xmove x fun l => leafPick l (pick l b.toNat)) := by
  simp only [crossScalar, hx, hb, hd, Encoding.bind_ok]
  rfl

theorem vote_ok {rule : VoteRule} {limit : Nat} (hx : v.readSingle posSA va .s32 = .ok x)
    (hb : v.readS posSB sb = .ok b) (hd : v.checkV posD vd false = .ok ()) (hc : v.consume [x] = .ok ())
    (hk : b.toNat ≤ limit) : vote rule limit sb va vd v = .ok (v.voteResult rule x b.toNat,
      maskOf (v.team.lanes.filter fun l => (groupLanes b.toNat l).any v.isVacant)) := by
  have bound : decide (limit < b.toNat) = false := decide_eq_false (Nat.not_lt.mpr hk)
  simp only [vote, hx, hb, hd, hc, bound, stopIf_eq_ok.mpr, Encoding.bind_ok, any_isNone_groupValues]
  rfl

theorem sampleLanes_ok (hx : v.readOneOf posSA va [.f32, .f16, .bf16, .n32] = .ok x) (hb : v.readS posSB sb = .ok b)
    (hd : v.checkV posD vd false = .ok ()) (hc : v.consume [x] = .ok ()) :
    sampleLanes sb va vd v = .ok (Res.ofShape (.fmt .n32) (.uniform
      (cSample (v.team.lanes.map fun l => (l, v.weight x l)) (b.setWidth 32))), 0) := by
  simp only [sampleLanes, hx, hb, hd, hc, Encoding.bind_ok]
  rfl

theorem randomWords_ok (hb : v.readS posSA sb = .ok b) (hx : v.readOneOf posSB va [.n32, .s32, .b32] = .ok x)
    (hd : v.checkV posD vd false = .ok ()) (hc : v.consume [x] = .ok ()) :
    randomWords va sb vd v =
      .ok (v.lanewise (.fmt .n32) x.uniform fun l => (rng b (x.lo.read l)).toNat, 0) := by
  simp only [randomWords, hb, hx, hd, hc, Encoding.bind_ok]
  rfl

end

/-- Settles O9: a cross-lane instruction places its result and notes the vacant reads (`State.registers_crossOp`); a
move picks the lane that the obligation names (`View.picked`), a vote is its rule over the group of the lane. That the
result is not left outstanding is a choice of log 7. -/
theorem crossLaneResults : Obligations.CrossLaneResults := by
  unfold Obligations.CrossLaneResults
  intro s t vb va sb sk vd nw x y b v vacant fill leaf hi hdefer hxl moves
  have moved {i : Instr} {f : View → Except Stop (Res × Mask)} {pick : Nat → Pick} {from_ : Nat → Option Nat}
      {noted : Nat → Bool} (he : exec i s = crossOp vd nw f s) (body : f v = .ok (v.xmove x pick))
      (hf : ∀ l, v.picked (pick l) = from_ l) (hn : ∀ l, v.vacantPick (pick l) = noted l) : moves i from_ noted := by
    refine ⟨_, _, State.registers_crossOp hi hdefer hxl he body, fun l hl ha => ?_⟩
    obtain ⟨mask, lane⟩ := v.xmove_lane x pick hl ha
    refine ⟨mask.trans (hn l), lane.trans ?_⟩
    rw [View.xread, hf]
    cases from_ l <;> rfl
  refine ⟨fun hx hd hpair => ⟨fun hy hc => ?vectors, fun hb => ?scalars⟩, fun hx hb hd hc => ?votes,
    fun hx hb hd hc => ?csamp, fun hb hx hd hc => ?rng⟩
  case vectors =>
    exact ⟨moved rfl (crossVector_ok hx hy hd hc) (fun l => v.picked_permutePick _) fun l => v.vacantPick_permutePick _,
      moved rfl (crossVector_ok hx hy hd hc) (fun l => v.picked_shufflePick l _) fun l => v.vacantPick_shufflePick l _⟩
  case scalars =>
    intro up dn xr
    have leafMoved {i : Instr} {pick : Nat → Nat → Int} (he : exec i s = crossOp vd nw (crossScalar pick sb va vd) s) :
        moves i (fun l => leaf l (pick l b.toNat)) fun l => (leaf l (pick l b.toNat)).isNone :=
      moved he (crossScalar_ok hx hb hd) (fun l => v.picked_leafPick l _) fun l =>
        (v.vacantPick_leafPick l _).trans (congrArg _ (v.picked_leafPick l _))
    exact ⟨leafMoved (pick := fun l b => ((l ^^^ b : Nat) : Int)) rfl, leafMoved (pick := fun l b => (l : Int) - b) rfl,
      leafMoved (pick := fun l b => (l : Int) + b) rfl⟩
  case votes =>
    intro group votes on
    have voted {i : Instr} {rule : VoteRule} {limit : Nat} {f : Nat → Nat}
        (he : exec i s = crossOp vd nw (vote rule limit sb va vd) s) (hk : b.toNat ≤ limit)
        (hf : ∀ l, rule (v.groupValues x b.toNat l) = f l) : votes i f := by
      obtain ⟨tag, single, words⟩ := v.voteResult_holds x b.toNat rule
      refine ⟨_, _, State.registers_crossOp hi hdefer hxl he (vote_ok hx hb hd hc hk),
        ⟨tag, fun _ e => nomatch single.symm.trans e⟩, fun l hl ha => ⟨?_, hf l ▸ words l hl ha⟩⟩
      exact (getLsbD_maskOf_lanes t _ hl).trans (by rw [ha, Bool.true_and]; rfl)
    exact ⟨fun hk => ⟨voted rfl hk (ruleAny_groupValues v x _), voted rfl hk (ruleAll_groupValues v x _),
      voted rfl hk (ruleEq_groupValues v x _)⟩, fun hk => voted rfl hk (ruleBallot_groupValues v x _)⟩
  case csamp =>
    exact State.computes_crossOp hi hdefer hxl rfl (sampleLanes_ok hx hb hd hc)
      (Res.Holds.gives rfl ⟨rfl, rfl, fun l _ _ => (Nat.mod_eq_of_lt (BitVec.isLt _)).symm⟩)
  case rng =>
    exact State.computes_crossOp hi hdefer hxl rfl (randomWords_ok hb hx hd hc)
      (v.lanewise_gives (.fmt .n32) fun hu l => by rw [x.lo_of_uniform hu])

end Sys2Proof.Machine

/-!
Moves and shape builders (R193, R194, R57, R60).
-/

namespace Sys2Proof.Machine

/-! ## Moves of registers (R193) -/

/-- A retagged register holds in every active lane the bits of the new width in the new tag's place. -/
theorem View.retag_holds (v : View) {tag : Tag} (r : VReg) :
    ({ lo := v.retag tag r, hi := none } : Res).Holds v tag fun l =>
      tag.place v.nf ((r.read l).toNat % 2 ^ tag.bits v.nf) := by
  have cut (l : Nat) (hl : l < v.team.size) (ha : v.active.getLsbD l = true) :
      ((v.general tag (fun l => (BitVec.ofNat 32 (tag.place v.nf ((r.read l).toNat % 2 ^ tag.bits v.nf))).toNat)
        r.poison).read l).toNat = tag.place v.nf ((r.read l).toNat % 2 ^ tag.bits v.nf) % 2 ^ 32 := by
    rw [View.read_general tag _ _ hl ha]
    simp
  obtain ⟨old, shape, poison⟩ := r
  cases shape with
  | uniform u => exact ⟨rfl, rfl, fun l _ _ => BitVec.toNat_ofNat ..⟩
  | general ls => exact ⟨rfl, rfl, cut⟩
  | affine b d =>
    by_cases word : (tag == .fmt .s32 || tag == .fmt .n32) = true
    · have kept : v.retag tag { tag := old, shape := .affine b d, poison := poison } =
          { tag := tag, shape := .affine b d, poison := poison } := if_pos word
      rw [kept]
      refine ⟨rfl, rfl, fun l _ _ => ?_⟩
      have whole (x : BitVec 32) : x.toNat = x.toNat % 2 ^ 32 % 2 ^ 32 % 2 ^ 32 := by have := x.isLt; omega
      rcases Bool.or_eq_true_iff.mp word with s32 | n32
      · obtain rfl := beq_iff_eq.mp s32
        exact whole _
      · obtain rfl := beq_iff_eq.mp n32
        exact whole _
    · have general : v.retag tag { tag := old, shape := .affine b d, poison := poison } = v.general tag (fun l =>
          (BitVec.ofNat 32 (tag.place v.nf ((VReg.read { tag := old, shape := .affine b d, poison := poison } l).toNat %
            2 ^ tag.bits v.nf))).toNat) poison := if_neg word
      rw [general]
      exact ⟨rfl, rfl, cut⟩

/-! ## sel (R193) -/

/-- What an operand is read from beyond a single register reads the same in every lane. -/
theorem Src.hi_of_uniform {a : Src} (h : a.uniform = true) (single : a.pair = false → a.hi.shape.isUniform = true)
    (l : Nat) : a.hi.read l = a.hi.read 0 := by
  refine VReg.read_of_isUniform ?_ l
  cases pair : a.pair with
  | false => exact single pair
  | true => simpa [pair] using (Bool.and_eq_true_iff.mp h).2

/-- Beyond a single register a fetched operand has uniform 0. -/
theorem View.hi_of_fetch {v : View} {pos : Nat} {a : VSrc} {p : Tag → Bool} {x : Src} (h : v.fetch pos a p = .ok x)
    (single : x.pair = false) : x.hi.shape.isUniform = true := by
  cases a with
  | imm i =>
    cases h
    rfl
  | v r =>
    obtain ⟨-, -, h⟩ := ok_of_bind h
    obtain ⟨-, -, h⟩ := ok_of_bind h
    obtain ⟨-, -, h⟩ := ok_of_bind h
    cases h
    dsimp only at single ⊢
    rw [single]
    rfl
  | o r =>
    obtain ⟨-, -, h⟩ := ok_of_bind h
    cases h
    dsimp only at single ⊢
    rw [single]
    rfl
  | x r =>
    unfold View.fetch at h
    dsimp only at h
    split at h
    · cases h
    · cases h
    · rename_i q _
      cases h
      have none : q.hi = none := by simpa using single
      simp [none, VReg.zero, Shape.isUniform]

theorem View.hi_of_readAs {v : View} {pos : Nat} {a : VSrc} {tag : Tag} {x : Src} (h : v.readAs pos a tag = .ok x)
    (single : x.pair = false) : x.hi.shape.isUniform = true := by
  have checked {e : Except Stop Src} (he : ∀ x, e = .ok x → x.pair = false → x.hi.shape.isUniform = true) (h : (do
      let x ← e
      fmtCheck x [tag] pos a.bits.toNat
      pairCheck x pos a.bits.toNat
      return x) = .ok x) : x.hi.shape.isUniform = true := by
    obtain ⟨z, hz, h⟩ := ok_of_bind h
    obtain ⟨-, -, h⟩ := ok_of_bind h
    obtain ⟨-, -, h⟩ := ok_of_bind h
    cases h
    exact he _ hz single
  cases a with
  | imm i =>
    cases tag with
    | fmt f =>
      cases h
      rfl
    | nf k =>
      cases h
      rfl
  | v r => exact checked (fun _ => View.hi_of_fetch) h
  | o r => exact checked (fun _ => View.hi_of_fetch) h
  | x r => exact checked (fun _ => View.hi_of_fetch) h

/-- What `sel` takes from each lane: the second source where the old destination is 0. -/
def selected (d : VReg) (x y : Src) (l : Nat) : Src := if d.read l == 0 then y else x

/-- The result of `sel`. -/
def View.selResult (v : View) (tag : Tag) (d : VReg) (x y : Src) : Res :=
  if x.uniform && y.uniform && d.shape.isUniform then
    Res.uniformOf tag ((selected d x y 0).lane 0) ((selected d x y 0).isPoisoned 0)
  else v.moved tag (fun l => (selected d x y l).lane l) fun l => (selected d x y l).isPoisoned l

theorem View.selResult_lane (v : View) (tag : Tag) (d : VReg) {x y : Src}
    (hx : x.pair = false → x.hi.shape.isUniform = true) (hy : y.pair = false → y.hi.shape.isUniform = true) {l : Nat}
    (hl : l < v.team.size) (ha : v.active.getLsbD l = true) :
    ((v.selResult tag d x y).lo.read l, ((v.selResult tag d x y).hi.map fun h => h.read l).getD 0) =
      ((selected d x y l).lo.read l, if tag.isPair then (selected d x y l).hi.read l else 0) := by
  unfold View.selResult
  split
  case isTrue flat =>
    obtain ⟨both, ud⟩ := Bool.and_eq_true_iff.mp flat
    obtain ⟨ux, uy⟩ := Bool.and_eq_true_iff.mp both
    have low : (selected d x y l).lo.read l = (selected d x y 0).lo.read 0 := by
      unfold selected
      rw [VReg.read_of_isUniform ud l]
      split
      · exact Src.lo_of_uniform uy l
      · exact Src.lo_of_uniform ux l
    have high : (selected d x y l).hi.read l = (selected d x y 0).hi.read 0 := by
      unfold selected
      rw [VReg.read_of_isUniform ud l]
      split
      · exact Src.hi_of_uniform uy hy l
      · exact Src.hi_of_uniform ux hx l
    rw [low, high]
    cases pair : tag.isPair
    · simp [Res.uniformOf, pair, Src.lane, VReg.read, Shape.read]
    · simp [Res.uniformOf, pair, Src.lane, VReg.read, Shape.read]
  case isFalse => exact v.moved_lane tag _ _ hl ha

/-! ## Per-lane indirection (R60, R194) -/

section
variable {v : View} {x : Src} {tag : Tag}
  (hn : ∀ l, l < v.team.size → v.active.getLsbD l = true →
    (x.lo.read l).toNat < v.team.vcnt ∧ (v.team.v.getD (x.lo.read l).toNat VReg.zero).tag = tag)
include hn

/-- Registers that are all there, with the right tag and not awaited, pass the check. -/
theorem View.checkNames_ok (hp : v.team.pend = []) (pos : Nat) : v.checkNames x tag pos = .ok () := by
  have good : v.team.lanes.filter (v.badName x tag) = [] := by
    refine List.filter_eq_nil_iff.mpr fun l mem => ?_
    obtain ⟨hl, ha⟩ := Team.mem_lanes.mp mem
    obtain ⟨counted, tagged⟩ := hn l hl ha
    simp [View.badName, counted, tagged]
  have free : (v.team.lanes.any fun l => v.team.pend.any fun p =>
      v.team.issuedBy p && p.writes (.v (x.lo.read l).toNat)) = false := by simp [hp]
  rw [View.checkNames, free, good]
  rfl

end

section
variable (v : View) (a b : Src)

/-- The registers after `vmovi.put` has served one name. -/
theorem View.read_putNamed (n : Nat) {m l : Nat} (hm : m < 64) (hl : l < v.team.size) :
    ((v.putNamed a b n).team.v.getD m VReg.zero).read l =
      if m = n ∧ v.active.getLsbD l = true ∧ (a.lo.read l).toNat = m then b.lo.read l
      else (v.team.v.getD m VReg.zero).read l := by
  by_cases same : n = m
  · subst same
    rw [View.putNamed, getD_setIfInBounds_self _ _ _ hm]
    rw [VReg.read_lanes _ _ _ hl, getLsbD_maskOf_lanes v.team (fun l => (a.lo.read l).toNat == n) hl]
    simp [View.active]
  · rw [View.putNamed, getD_setIfInBounds_ne _ _ _ same, if_neg fun h => same h.1.symm]

/-- `vmovi.put` over some names. -/
def View.putNames (v : View) (a b : Src) (ns : List Nat) : View := ns.foldl (fun w n => w.putNamed a b n) v

/-- Serving names changes the vector registers of the team alone. -/
theorem View.putNames_keeps (ns : List Nat) : { (v.putNames a b ns).team with v := v.team.v } = v.team ∧
    (v.putNames a b ns).k = v.k ∧ (v.putNames a b ns).kv = v.kv ∧ (v.putNames a b ns).latches = v.latches := by
  induction ns generalizing v with
  | nil => exact ⟨rfl, rfl, rfl, rfl⟩
  | cons n ns ih =>
    obtain ⟨team, k, kv, latches⟩ := ih (v.putNamed a b n)
    exact ⟨congrArg (fun u : Team => { u with v := v.team.v }) team, k, kv, latches⟩

theorem View.read_putNames (ns : List Nat) {m l : Nat} (hm : m < 64) (hl : l < v.team.size) :
    ((v.putNames a b ns).team.v.getD m VReg.zero).read l =
      if m ∈ ns ∧ v.active.getLsbD l = true ∧ (a.lo.read l).toNat = m then b.lo.read l
      else (v.team.v.getD m VReg.zero).read l := by
  induction ns generalizing v with
  | nil => simp [View.putNames]
  | cons n ns ih =>
    have rest := ih (v.putNamed a b n) hl
    rw [v.read_putNamed a b n hm hl] at rest
    refine rest.trans ?_
    change (if m ∈ ns ∧ v.active.getLsbD l = true ∧ _ then _ else _) = _
    by_cases own : v.active.getLsbD l = true ∧ (a.lo.read l).toNat = m
    · by_cases here : m = n <;> by_cases later : m ∈ ns <;> simp [own, here, later]
    · simp only [List.mem_cons, own, and_false, if_false]

end

/-! ## The bodies -/

section
variable {v : View} {tag : Tag} {x y : Src} {va vb : VSrc} {vd : BitVec 6} {nw : Bool}

theorem moveReg_ok (hx : v.readAny posSA va = .ok x) (hd : v.checkV posD vd x.pair = .ok ()) :
    moveReg va vd nw v = .ok (v.put vd nw { lo := x.lo, hi := if x.pair then some x.hi else none }) := by
  simp only [moveReg, hx, hd, Encoding.bind_ok]
  rfl

theorem moveTag_pair (hx : v.readAny posSA va = .ok x) (hp : x.pair = true) (htag : tag.isPair = true)
    (hd : v.checkV posD vd true = .ok ()) : moveTag tag va vd nw v =
      .ok (v.put vd nw { lo := { x.lo with tag := tag }, hi := some { x.hi with tag := tag } }) := by
  simp only [moveTag, hx, hd, hp, htag, bne_self_eq_false, stopIf_eq_ok.mpr, Encoding.bind_ok]
  rfl

theorem moveTag_single (hx : v.readAny posSA va = .ok x) (hp : x.pair = false) (htag : tag.isPair = false)
    (hd : v.checkV posD vd false = .ok ()) :
    moveTag tag va vd nw v = .ok (v.put vd nw { lo := v.retag tag x.lo, hi := none }) := by
  simp only [moveTag, hx, hd, hp, htag, bne_self_eq_false, stopIf_eq_ok.mpr, Encoding.bind_ok]
  rfl

/-- The registers after `bcast` of lane p: a vacant lane gives the fill, without poison, and is noted (R195, R196). -/
def View.broadcastOf (v : View) (x : Src) (p : Nat) (vd : BitVec 6) (nw : Bool) : View :=
  (if v.isVacant p then v.noteVacant v.active else v).put vd nw
    (Res.uniformOf x.tag (if v.isVacant p then v.fill x.tag else x.lane p) (!v.isVacant p && x.isPoisoned p))

theorem broadcast_ok {sb : SSrc} {b : Word} (hx : v.readAny posSA va = .ok x) (hb : v.readS posSB sb = .ok b)
    (hd : v.checkV posD vd x.pair = .ok ()) : broadcast sb va vd nw v = .ok (v.broadcastOf x b.toNat vd nw) := by
  have element : v.xread x (.lane b.toNat) = if v.isVacant b.toNat then v.fill x.tag else x.lane b.toNat := by
    rw [View.xread, View.picked_lane]
    cases v.isVacant b.toNat <;> rfl
  have poison : v.xpoison x (.lane b.toNat) = (!v.isVacant b.toNat && x.isPoisoned b.toNat) := by
    rw [View.xpoison, View.picked_lane]
    cases v.isVacant b.toNat <;> rfl
  simp only [broadcast, hx, hb, hd, Encoding.bind_ok, View.vacantPick_lane, element, poison]
  rfl

theorem moveToFile_ok {od : BitVec 3} (hx : v.readAny posSA va = .ok x) (hp : x.pair = false)
    (flat : x.lo.shape.affine?.isSome = true) (covered : v.covers false = true) : moveToFile va od nw v =
      .ok ((if nw then v else { v with team := { v.team with o := v.team.o.setIfInBounds od.toNat x.lo } }).latch
        (.held { lo := x.lo, hi := none })) := by
  simp only [moveToFile, hx, hp, flat, covered, Bool.false_and, Bool.not_false, Bool.true_or, Bool.and_true,
    Bool.not_true, stopIf_eq_ok.mpr, Encoding.bind_ok]
  rfl

theorem selectLanes_ok (hsel : v.selTag va vb = .ok tag) (hx : v.readAs posSA va tag = .ok x)
    (hy : v.readAs posSB vb tag = .ok y) (hd : v.checkV posD vd tag.isPair = .ok ())
    (hold : (v.vreg vd).tag.isPair = false) (hc : (v.vreg vd).poison &&& v.active = 0) :
    selectLanes vb va vd nw v = .ok (v.put vd nw (v.selResult tag (v.vreg vd) x y)) := by
  have clean : v.consume [{ lo := v.vreg vd, hi := VReg.zero, pair := false }] = .ok () := by
    have none : ((v.vreg vd).poison &&& v.active != 0) = false := bne_eq_false_iff_eq.mpr hc
    exact stopIf_eq_ok.mpr (by simpa [Src.poison] using none)
  simp only [selectLanes, hsel, hx, hy, hd, hold, clean, stopIf_eq_ok.mpr, Encoding.bind_ok]
  rfl

/-- The register that lane l of an operand names. -/
def View.namedBy (v : View) (x : Src) (l : Nat) : VReg := v.team.v.getD (x.lo.read l).toNat VReg.zero

theorem vmoviRead_ok (hx : v.readOneOf posSA va [.s32, .n32] = .ok x) (htag : tag.isPair = false)
    (hd : v.checkV posD vd false = .ok ()) (hc : v.consume [x] = .ok ()) (hn : v.checkNames x tag posSA = .ok ()) :
    vmoviRead tag va vd nw v = .ok (v.put vd nw
      (v.moved tag (fun l => ((v.namedBy x l).read l, 0)) fun l => (v.namedBy x l).poison.getLsbD l)) := by
  simp only [vmoviRead, hx, htag, hd, hc, hn, stopIf_eq_ok.mpr, Encoding.bind_ok]
  rfl

theorem vmoviWrite_ok (hx : v.readOneOf posSA va [.s32, .n32] = .ok x) (hy : v.readSingle posSB vb .s32 = .ok y)
    (hc : v.consume [x] = .ok ()) (hn : v.checkNames x y.tag posD = .ok ()) : vmoviWrite vb va v =
      .ok (v.putNames x y (v.team.lanes.map fun l => (x.lo.read l).toNat).eraseDups) := by
  simp only [vmoviWrite, hx, hy, hc, hn, Encoding.bind_ok]
  rfl

/-- Over the names of the active lanes, a lane is served where it is active and under the name it gives. -/
theorem View.read_putNames_lanes (v : View) (x y : Src) {n l : Nat} (hn : n < 64) (hl : l < v.team.size) :
    ((v.putNames x y (v.team.lanes.map fun l => (x.lo.read l).toNat).eraseDups).team.v.getD n VReg.zero).read l =
      if v.active.getLsbD l && (x.lo.read l).toNat == n then y.lo.read l
      else (v.team.v.getD n VReg.zero).read l := by
  refine (v.read_putNames x y _ hn hl).trans (if_congr ⟨fun h => ?_, fun h => ?_⟩ rfl rfl)
  · obtain ⟨-, active, name⟩ := h
    exact Bool.and_eq_true_iff.mpr ⟨active, beq_iff_eq.mpr name⟩
  · obtain ⟨active, name⟩ := Bool.and_eq_true_iff.mp h
    have lane : l ∈ v.team.lanes := Team.mem_lanes.mpr ⟨hl, active⟩
    exact ⟨List.mem_eraseDups.mpr (List.mem_map.mpr ⟨l, lane, beq_iff_eq.mp name⟩), active, beq_iff_eq.mp name⟩

end

/-- Settles O10: a move places what it read, `bcast`, `sel` and `vmovi.get` what the obligation names, lane by lane;
`vmovi.put` serves the names of the active lanes (`View.read_putNames_lanes`) and `omov` writes the operand file. That
`sel` moves a pair whole is the model's reading of log 37. -/
theorem moveResults : Obligations.MoveResults := by
  unfold Obligations.MoveResults
  intro s t tag vb va sb sa vd od nw x y a b v one writes hi
  refine ⟨fun hx => ⟨fun hd => ?mov, fun hp htag hd => ?movtagPair, fun hp htag hd => ?movtag, fun hb hd _ => ?bcast,
    fun hp flat covers => ?omov⟩, fun hd => ⟨?lane, fun ha hb => ?affine⟩,
    fun hsel hx hy hd hold hc => ?sel, fun hx hc hpend _ => ⟨fun htag hd hn => ?get, fun hy _ hn => ?put⟩⟩
  case mov => exact State.registers_put hi rfl (moveReg_ok hx hd)
  case movtagPair => exact State.registers_put hi rfl (moveTag_pair hx hp htag hd)
  case movtag =>
    exact (State.registers_put hi rfl (moveTag_single hx hp htag hd)).computes ((v.retag_holds x.lo).gives htag)
  case bcast =>
    intro vacant
    have noted : (if vacant then v.noteVacant v.active else v) =
        { v with team := { t with vacant := if vacant then t.vacant ||| t.active else t.vacant } } := by
      cases vacant <;> rfl
    obtain ⟨hid, hcore⟩ := View.team_put (if vacant then v.noteVacant v.active else v) vd nw (Res.uniformOf x.tag
      (if vacant then v.fill x.tag else x.lane b.toNat) (!vacant && x.isPoisoned b.toNat))
    have done := State.registers_of_regOp (i := .bcast sb va vd nw) hi rfl (broadcast_ok hx hb hd)
      (hid.trans (by rw [noted])) (hcore.trans (by rw [noted]))
    rw [← noted]
    exact done
  case omov =>
    intro w
    have body := moveToFile_ok (od := od) (nw := nw) hx hp flat (beq_iff_eq.mpr covers)
    refine State.registers_of_regOp hi rfl body ?_ ?_
    · cases nw <;> rfl
    · cases nw <;> rfl
  case lane =>
    exact State.registers_put (body := fun v => v.writeV vd nw (Res.ofShape (.fmt .s32) (.affine 0 1))) hi rfl
      (View.writeV_of_checkV hd nw)
  case affine =>
    have low (x : Word) : x.extractLsb' 0 32 = x.setWidth 32 := (BitVec.setWidth_eq_extractLsb' (by decide)).symm
    rw [low, low]
    refine State.registers_put (body := fun v => do
      let a ← v.readS posSA sa
      let b ← v.readS posSB sb
      v.writeV vd nw (Res.ofShape (.fmt .s32) (.affine (a.setWidth 32) (b.setWidth 32)))) hi rfl ?_
    change (v.readS posSA sa >>= fun a => v.readS posSB sb >>= fun b => _) = _
    rw [ha, hb]
    exact View.writeV_of_checkV hd nw
  case sel =>
    exact ⟨_, State.registers_put hi rfl (selectLanes_ok hsel hx hy hd hold hc),
      fun l hl ha => v.selResult_lane tag _ (View.hi_of_readAs hx) (View.hi_of_readAs hy) hl ha⟩
  case get =>
    have body := vmoviRead_ok (v := v) (nw := nw) hx htag hd hc (View.checkNames_ok hn hpend posSA)
    refine (State.registers_put hi rfl body).computes (Res.Holds.gives htag ⟨rfl, ?_, fun l hl ha => ?_⟩)
    · simp [View.moved, htag]
    · obtain ⟨word, -⟩ := Prod.mk.inj (v.moved_lane tag (fun l => ((v.namedBy x l).read l, 0))
        (fun l => (v.namedBy x l).poison.getLsbD l) hl ha)
      rw [word, Nat.mod_eq_of_lt (BitVec.isLt _)]
      rfl
  case put =>
    have body := vmoviWrite_ok (v := v) hx hy hc (View.checkNames_ok hn hpend posD)
    obtain ⟨team, k, kv, latches⟩ := v.putNames_keeps x y (t.lanes.map fun l => (x.lo.read l).toNat).eraseDups
    have hid := congrArg Team.id team
    have hcore := congrArg Team.core team
    exact ⟨_, State.registers_of_regOp hi rfl body hid hcore, team, k, kv, latches,
      fun n l hn hl => v.read_putNames_lanes x y hn hl⟩

end Sys2Proof.Machine
/-!
Instructions of majors 32 to 41: how the parts that their bodies share go on where nothing is outstanding (log 7), the
team that issues them being the one found under its id.
-/

namespace Sys2Proof.Machine

/-! ## Parts that go on -/

theorem M.stopIf_of_false {b : Bool} (h : b = false) (e : Stop) (s : State) : M.stopIf b e s = .ok () s := by
  rw [h]
  rfl

theorem M.stopIf_of_true {b : Bool} (h : b = true) (e : Stop) (s : State) : M.stopIf b e s = .error e s := by
  rw [h]
  rfl

/-- A team that may pass does pass (R327). -/
theorem M.gate_of_passes {s : State} {t : Team} (h : s.Passes t) : M.gate t s = .ok () s := by
  unfold M.gate
  dsimp only
  refine if_pos ?_
  rcases h with low | least
  · rw [decide_eq_true low, Bool.or_true, Bool.true_or]
  · rw [least, Bool.or_true]

theorem M.notInHandler_of_not {t : Team} (h : t.handling = false) (s : State) : M.notInHandler t s = .ok () s :=
  M.stopIf_of_false h _ s

theorem M.emptyStack_of_nil {t : Team} (h : t.stack = []) (s : State) : M.emptyStack t s = .ok () s :=
  M.stopIf_of_false (by rw [h]; rfl) _ s

/-- An instruction whose body goes on and puts registers back has changed registers. -/
theorem State.registers_of_issue {s : State} {t : Team} {i : Instr} {len : Nat} {body : Team → M Done} {w : View}
    (hi : s.issuer? = some t) (hx : exec i s = issue len body s) (hb : body t s = .ok .next (s.putView w))
    (hid : w.team.id = t.id) (hc : w.team.core = t.core) : s.Registers t i len w := by
  refine State.registers_of_regOp (f := fun _ => .ok w) hi ?_ rfl hid hc
  rw [hx, issue_ok hi hb]
  simp only [regOp, issue, hi]

end Sys2Proof.Machine

/-!
Tiles (R99, R100, R221).
-/

namespace Sys2Proof.Machine

/-! ## The tile an index names -/

theorem toNat_tileIndex {k : Nat} (hk : k < 256) : (BitVec.ofNat 64 k).toNat = k := by
  rw [BitVec.toNat_ofNat]
  exact Nat.mod_eq_of_lt (by omega)

theorem setWidth_tileIndex (k : Nat) : (BitVec.ofNat 64 k).setWidth 8 = BitVec.ofNat 8 k :=
  BitVec.eq_of_toNat_eq (by simp only [BitVec.toNat_setWidth, BitVec.toNat_ofNat]; omega)

section
variable (c : Core) (g : Gang) {k : Nat} (hk : k < 256) (state : TileState)
include hk

/-- What `tready` and `trel` ask of a tile, in their order (R221). -/
theorem ownTile_eq : ownTile c g (BitVec.ofNat 64 k) state = (do
    let x := c.tile (BitVec.ofNat 8 k)
    stopIf (x.state != .empty && x.gslot != g.gslot) (trapWith 0x103 0)
    stopIf (x.state != state) (trapWith 0x105 0)
    return (BitVec.ofNat 8 k, x)) := by
  unfold ownTile
  rw [toNat_tileIndex hk, setWidth_tileIndex, decide_eq_false (Nat.not_le.mpr hk)]
  rfl

theorem ownTile_ok (own : ((c.tile (BitVec.ofNat 8 k)).gslot == g.gslot) = true)
    (st : (c.tile (BitVec.ofNat 8 k)).state = state) :
    ownTile c g (BitVec.ofNat 64 k) state = .ok (BitVec.ofNat 8 k, c.tile (BitVec.ofNat 8 k)) := by
  have owner : ((c.tile (BitVec.ofNat 8 k)).gslot != g.gslot) = false := by rw [bne, own]; rfl
  rw [ownTile_eq c g hk]
  dsimp only
  rw [owner, Bool.and_false, st, bne_self_eq_false]
  rfl

theorem ownTile_foreign (own : ((c.tile (BitVec.ofNat 8 k)).gslot == g.gslot) = false)
    (used : (c.tile (BitVec.ofNat 8 k)).state ≠ .empty) :
    ownTile c g (BitVec.ofNat 64 k) state = .error (trapWith 0x103 0) := by
  have owner : ((c.tile (BitVec.ofNat 8 k)).gslot != g.gslot) = true := by rw [bne, own]; rfl
  rw [ownTile_eq c g hk]
  dsimp only
  rw [owner, Bool.and_true, bne_iff_ne.mpr used]
  rfl

theorem ownTile_otherState (own : ((c.tile (BitVec.ofNat 8 k)).gslot == g.gslot) = true)
    (st : (c.tile (BitVec.ofNat 8 k)).state ≠ state) :
    ownTile c g (BitVec.ofNat 64 k) state = .error (trapWith 0x105 0) := by
  have owner : ((c.tile (BitVec.ofNat 8 k)).gslot != g.gslot) = false := by rw [bne, own]; rfl
  rw [ownTile_eq c g hk]
  dsimp only
  rw [owner, Bool.and_false, bne_iff_ne.mpr st]
  rfl

end

/-- The 64 bits of an entry, field by field (R99). -/
theorem Tile.bits_eq (x : Tile) : x.bits = BitVec.ofNat 64 (x.base.toNat + 2 ^ 12 * x.sizeM1.toNat +
    2 ^ 28 * x.gslot.toNat + 2 ^ 33 * x.fmt.code.toNat + 2 ^ 38 * x.state.code) := by
  rw [Tile.bits]
  congr 1
  omega

/-! ## The bodies -/

section
variable {s : State} {t : Team} {g : Gang} {f : Family} {sa : SSrc} {sd : BitVec 6} {a : Word}
  (ht : s.team? t.id = some t) (hg : s.gangOf? t = some g) (ha : (s.viewOf t).readS posSA sa = .ok a)
include ht hg ha

theorem tileStep_run (hp : s.Passes t) {old new : TileState} :
    tileStep old new sa t s = (do
      let (k, x) ← M.lift (ownTile (s.core t.core) g a old)
      M.stopIf (old == .ready && (s.core t.core).readsTile k) (.wait .tile)
      modify fun s => s.modCore t.core fun c => c.setTile k { x with state := new }
      return .next : M Done) s := by
  unfold tileStep
  rw [M.bind_ok (M.read_ok _ ht ha), M.bind_ok (M.gate_of_passes hp), M.bind_ok (M.get_run s)]
  simp only [hg]

theorem tileStat_run (hd : (s.viewOf t).checkS posD sd = .ok ()) (small : a.toNat < 256) :
    tileStat sa sd t s = .ok .next (s.putView ((s.viewOf t).setS sd
      (if ((s.core t.core).tile (a.setWidth 8)).state == .empty || ((s.core t.core).tile (a.setWidth 8)).gslot == g.gslot
        then ((s.core t.core).tile (a.setWidth 8)).bits else 0))) := by
  unfold tileStat
  rw [M.bind_ok (M.read_ok _ ht (by rw [ha, Encoding.bind_ok, hd]; rfl)), M.bind_ok (M.get_run s), if_pos small]
  dsimp only
  rw [hg]
  exact M.bind_ok (M.regs_ok _ ht (by simp [BEq.comm]))

/-- Once its checks have passed, `talloc` looks for the lowest empty entry. -/
theorem tileAlloc_run (hf : s.familyOf? t = some f) (hd : (s.viewOf t).checkS posD sd = .ok ())
    (small : a.toNat < 2 ^ 29) {fmt : Tag} (hfmt : tagOf (a.extractLsb' 24 5) = .ok fmt)
    (inside : ((a.extractLsb' 0 12).toNat + (a.extractLsb' 12 12).toNat + 1) * 1024 ≤ f.partSize) (hp : s.Passes t)
    {o : Option Nat}
    (ho : ((List.range 256).find? fun k => ((s.core t.core).tile (BitVec.ofNat 8 k)).state == .empty) = o) :
    tileAlloc sa sd t s = o.elim (.ok .next (s.putView ((s.viewOf t).setS sd (-1)))) fun k =>
      let w := s.modCore t.core fun c => c.setTile (BitVec.ofNat 8 k)
        { state := .filling, fmt := fmt, gslot := g.gslot, sizeM1 := a.extractLsb' 12 12, base := a.extractLsb' 0 12 }
      .ok .next (w.putView ((w.viewOf t).setS sd (BitVec.ofNat 64 k))) := by
  have high : (a.extractLsb' 29 35 != 0) = false := by
    have zero : a.extractLsb' 29 35 = 0 := BitVec.eq_of_toNat_eq (by
      simp only [BitVec.extractLsb'_toNat, Nat.shiftRight_eq_div_pow]
      simp
      omega)
    rw [zero]
    rfl
  unfold tileAlloc
  rw [M.bind_ok (M.read_ok _ ht (by rw [ha, Encoding.bind_ok, hd]; rfl)), M.bind_ok (M.get_run s)]
  simp only [hg, hf]
  rw [M.bind_ok (M.stopIf_of_false high _ s)]
  simp only [hfmt]
  rw [M.bind_ok (M.stopIf_of_false (decide_eq_false (Nat.not_lt.mpr inside)) _ s), M.bind_ok (M.gate_of_passes hp), ho]
  cases o with
  | none => exact M.bind_ok (M.regs_ok _ ht rfl)
  | some k => exact (M.bind_ok (M.modify_run ..)).trans (M.bind_ok (M.regs_ok _ ht rfl))

end

/-- Settles O31: `talloc` looks for the lowest empty entry (`tileAlloc_run`), `tstat` reads one (`tileStat_run`), and
`tready` and `trel` ask of their tile what `ownTile` says (`tileStep_run`). -/
theorem tileInstructions : Obligations.TileInstructions := by
  unfold Obligations.TileInstructions
  intro s t g f sa sd a fmt k v tile mine becomes hi hg hf ha hp
  have ht := s.team?_of_issuer t hi
  refine ⟨fun hd small hfmt inside => ⟨fun full => ?full, fun hk empty least => ?found⟩, fun hd ha' hk => ?stat,
    fun ha' hk => ⟨fun own st => ?ready, fun own st free => ?release, fun own used => ⟨?foreign, ?foreign'⟩,
      fun own st => ?unready, fun own st => ?unreleased⟩⟩
  case full =>
    have none : ((List.range 256).find? fun k => ((s.core t.core).tile (BitVec.ofNat 8 k)).state == .empty) = none := by
      simpa [List.find?_eq_none] using full
    refine State.registers_of_issue (body := tileAlloc sa sd) hi rfl ?_ (View.team_id_setS ..) (View.team_core_setS ..)
    exact tileAlloc_run ht hg ha hf hd small hfmt inside hp none
  case found =>
    have first : ((List.range 256).find? fun k => ((s.core t.core).tile (BitVec.ofNat 8 k)).state == .empty) = some k := by
      refine List.find?_range_eq_some.mpr ⟨beq_iff_eq.mpr empty, List.mem_range.mpr hk, fun j hj => ?_⟩
      simpa using least j hj
    exact State.effect_of_issue (body := tileAlloc sa sd) hi rfl (tileAlloc_run ht hg ha hf hd small hfmt inside hp first)
  case stat =>
    have small : a.toNat < 256 := by rw [ha', toNat_tileIndex hk]; exact hk
    refine State.registers_of_issue (body := tileStat sa sd) hi rfl ?_ (View.team_id_setS ..) (View.team_core_setS ..)
    rw [tileStat_run ht hg ha hd small, ha', setWidth_tileIndex, Tile.bits_eq]
    simp only [Bool.or_eq_true, beq_iff_eq, tile, mine, v]
    rfl
  all_goals subst ha'
  case ready =>
    refine State.effect_of_issue (body := tileStep .filling .ready sa) hi rfl ?_
    rw [tileStep_run ht hg ha hp, ownTile_ok _ g hk _ own st]
    rfl
  case release =>
    refine State.effect_of_issue (body := tileStep .ready .empty sa) hi rfl ?_
    rw [tileStep_run ht hg ha hp, ownTile_ok _ g hk _ own st, M.bind_ok (M.lift_ok _ s)]
    dsimp only
    rw [free]
    rfl
  case foreign =>
    refine State.traps_of_issue (body := tileStep .filling .ready sa) hi rfl ?_
    rw [tileStep_run ht hg ha hp, ownTile_foreign _ g hk _ own used]
    rfl
  case foreign' =>
    refine State.traps_of_issue (body := tileStep .ready .empty sa) hi rfl ?_
    rw [tileStep_run ht hg ha hp, ownTile_foreign _ g hk _ own used]
    rfl
  case unready =>
    refine State.traps_of_issue (body := tileStep .filling .ready sa) hi rfl ?_
    rw [tileStep_run ht hg ha hp, ownTile_otherState _ g hk _ own st]
    rfl
  case unreleased =>
    refine State.traps_of_issue (body := tileStep .ready .empty sa) hi rfl ?_
    rw [tileStep_run ht hg ha hp, ownTile_otherState _ g hk _ own st]
    rfl

end Sys2Proof.Machine

/-!
Joining and leaving gangs (R20, R29, R30, R215).
-/

namespace Sys2Proof.Machine

/-- The logical ID of a handle below 2 ^ 30 (R20). -/
theorem handleId_eq (a : Word) : handleId (a.extractLsb' 0 30) = BitVec.ofNat 32 (2 ^ 31 + a.toNat % 2 ^ 30) := by
  have small : a.toNat % 2 ^ 30 < 2 ^ 31 := (Nat.mod_lt _ (by decide)).trans (by decide)
  have low : ((a.extractLsb' 0 30).setWidth 32).toNat = a.toNat % 2 ^ 30 := by
    simp only [BitVec.toNat_setWidth, BitVec.extractLsb'_toNat, Nat.shiftRight_zero]
    exact Nat.mod_eq_of_lt (small.trans (by decide))
  refine BitVec.eq_of_toNat_eq ?_
  rw [handleId, BitVec.toNat_or, low, BitVec.toNat_ofNat,
    Nat.mod_eq_of_lt (show 2 ^ 31 + a.toNat % 2 ^ 30 < 2 ^ 32 by omega)]
  exact (Nat.two_pow_add_eq_or_of_lt small 1).symm

/-- Whether the bits above a handle's 30 are in use. -/
theorem extractLsb'_high_bne (a : Word) : (a.extractLsb' 30 34 != 0) = decide (2 ^ 30 ≤ a.toNat) := by
  have bound := a.isLt
  have number : (a.extractLsb' 30 34).toNat = a.toNat / 2 ^ 30 := by
    rw [BitVec.extractLsb'_toNat, Nat.shiftRight_eq_div_pow]
    exact Nat.mod_eq_of_lt (by omega)
  have zero : a.extractLsb' 30 34 = 0 ↔ (a.extractLsb' 30 34).toNat = 0 := BitVec.toNat_inj.symm
  rw [Bool.eq_iff_iff, bne_iff_ne, decide_eq_true_iff, ne_eq, zero, number]
  omega

/-! ## Entering a gang (R29, R30) -/

section
variable {s : State} {t : Team} {g h : Gang} (id : BitVec 32) (trap : Stop)

theorem M.enter_elsewhere (away : h.core ≠ g.core ∨ h.family ≠ g.family) :
    M.enter t g id (some h) trap s = .error trap s := by
  unfold M.enter
  rw [M.bind_ok (M.get_run s)]
  refine M.bind_error (M.stopIf_of_true ?_ _ s)
  simpa using away

theorem M.enter_here (here : ¬ (h.core ≠ g.core ∨ h.family ≠ g.family)) :
    M.enter t g id (some h) trap s = .ok () (if h.uid = g.uid then s else s.moveTeam t h.uid (h.barGen + 1)) := by
  have stays : (h.core != g.core || h.family != g.family) = false := by simpa using here
  unfold M.enter
  rw [M.bind_ok (M.get_run s)]
  refine (M.bind_ok (M.stopIf_of_false stays _ s)).trans ?_
  by_cases own : h.uid = g.uid
  · rw [own, bne_self_eq_false, if_pos rfl]
    rfl
  · rw [if_pos (bne_iff_ne.mpr own), if_neg own]
    rfl

theorem M.enter_new {core : Nat} {slot : BitVec 5} (hc : g.core = some core) (hs : s.gangSlotFor core = some slot) :
    M.enter t g id none trap s = .ok () (({ s with
      nextId := s.nextId + 1, gangs := s.gangs ++ [g.child s.nextId id slot] } : State).moveTeam t s.nextId 0) := by
  unfold M.enter
  rw [M.bind_ok (M.get_run s), hc]
  simp only [Option.bind_some, hs]
  rfl

end

/-! ## The bodies -/

section
variable {s : State} {t : Team} {g : Gang} {sa : SSrc} {a : Word} (ht : s.team? t.id = some t)
  (hg : s.gangOf? t = some g) (hh : t.handling = false) (hs : t.stack = [])

theorem M.leaveGang_of_ready (hc : t.counter 0 = 0) (hap : t.ap = 0) (hp : s.Passes t) :
    M.leaveGang t s = .ok () s := by
  unfold M.leaveGang
  rw [M.bind_ok (M.stopIf_of_false (by rw [hc, hap]; rfl) _ s)]
  exact M.gate_of_passes hp

include hh hs

/-- `gleave` needs a gang to go back to; then it enters that one (R215). -/
theorem leaveGang_run (hg : s.gangOf? t = some g) : leaveGang t s = (do
    M.stopIf (g.logical == t.home) (trapWith 0x183 0)
    M.leaveGang t
    let home := ((← get).gangsOf g.family).find? fun h => h.logical == t.home
    M.enter t g t.home home (trapWith 0x183 0)
    return .next : M Done) s := by
  unfold leaveGang
  rw [M.bind_ok (M.notInHandler_of_not hh s), M.bind_ok (M.emptyStack_of_nil hs s), M.bind_ok (M.get_run s)]
  simp only [hg]

include ht

/-- `gjoin` reads its handle before any check (R215). -/
theorem joinGang_run (ha : (s.viewOf t).readS posSA sa = .ok a) : joinGang sa t s = (do
    M.stopIf t.spawned (trapWith 0x182 0)
    M.stopIf (decide (2 ^ 30 ≤ a.toNat)) (trapWith 0x183 a)
    M.leaveGang t
    let s ← get
    match s.gangOf? t with
    | none => throw (.wait .other)
    | some g =>
      let id := handleId (a.extractLsb' 0 30)
      M.enter t g id (s.namedGang g id) (trapWith 0x183 a)
      return .next : M Done) s := by
  unfold joinGang
  rw [M.bind_ok (M.read_ok _ ht ha), M.bind_ok (M.notInHandler_of_not hh s), M.bind_ok (M.emptyStack_of_nil hs s)]
  simp only [extractLsb'_high_bne] <;> rfl

include hg

/-- Past its checks `gjoin` enters the gang that its handle names. -/
theorem joinGang_enters (ha : (s.viewOf t).readS posSA sa = .ok a) (hsp : t.spawned = false) (small : a.toNat < 2 ^ 30)
    (hc : t.counter 0 = 0) (hap : t.ap = 0) (hp : s.Passes t) : joinGang sa t s = (do
      M.enter t g (handleId (a.extractLsb' 0 30)) (s.namedGang g (handleId (a.extractLsb' 0 30))) (trapWith 0x183 a)
      return .next : M Done) s := by
  rw [joinGang_run ht hh hs ha, M.bind_ok (M.stopIf_of_false hsp _ s),
    M.bind_ok (M.stopIf_of_false (decide_eq_false (Nat.not_le.mpr small)) _ s),
    M.bind_ok (M.leaveGang_of_ready hc hap hp), M.bind_ok (M.get_run s)]
  simp only [hg]

end

/-- Settles O29: past their checks (`joinGang_enters`, `leaveGang_run`) both enter a gang, and `M.enter` does one of three
things. -/
theorem joiningAndLeavingGangs : Obligations.JoiningAndLeavingGangs := by
  unfold Obligations.JoiningAndLeavingGangs
  intro s t g sa a hi hg ha hh hs id home elsewhere ready enters
  have ht := s.team?_of_issuer t hi
  have enter {i : Instr} {body : Team → M Done} {id : BitVec 32} {named : Option Gang} {trap : Stop}
      (hx : exec i s = issue 4 body s) (run : body t s = (do
        M.enter t g id named trap
        return .next : M Done) s) : enters i id named := by
    have goes {w : State} (h : M.enter t g id named trap s = .ok () w) : s.Effect t i w :=
      State.effect_of_issue hi hx (run.trans (M.bind_ok h))
    refine ⟨fun h hn here own => ?_, fun h hn here other => ?_, fun core slot hn hc hsl => ?_⟩
    · subst hn
      exact goes ((M.enter_here id trap here).trans (by rw [if_pos own]))
    · subst hn
      exact goes ((M.enter_here id trap here).trans (by rw [if_neg other]))
    · subst hn
      exact goes (M.enter_new id trap hc hsl)
  refine ⟨fun hsp => ?spawned, fun hsp large => ?high, fun hsp small hr => ?join, fun own => ?own,
    fun other hr => ?leave⟩
  case spawned =>
    refine State.traps_of_issue (body := joinGang sa) hi rfl ?_
    rw [joinGang_run ht hh hs ha]
    exact M.bind_error (M.stopIf_of_true hsp _ s)
  case high =>
    refine State.traps_of_issue (body := joinGang sa) hi rfl ?_
    rw [joinGang_run ht hh hs ha, M.bind_ok (M.stopIf_of_false hsp _ s)]
    exact M.bind_error (M.stopIf_of_true (decide_eq_true large) _ s)
  case join =>
    obtain ⟨hc, hap, hp⟩ := hr
    have run := joinGang_enters ht hg hh hs ha hsp small hc hap hp
    rw [handleId_eq] at run
    refine ⟨enter (body := joinGang sa) rfl run, fun h named away => ?_⟩
    refine State.traps_of_issue (body := joinGang sa) hi rfl (run.trans (M.bind_error ?_))
    rw [named]
    exact M.enter_elsewhere _ _ away
  case own =>
    refine State.traps_of_issue (body := leaveGang) hi rfl ?_
    rw [leaveGang_run hh hs hg]
    exact M.bind_error (M.stopIf_of_true (beq_iff_eq.mpr own) _ s)
  case leave =>
    obtain ⟨hc, hap, hp⟩ := hr
    refine enter (body := leaveGang) (trap := trapWith 0x183 0) rfl ?_
    rw [leaveGang_run hh hs hg, M.bind_ok (M.stopIf_of_false (beq_eq_false_iff_ne.mpr other) _ s),
      M.bind_ok (M.leaveGang_of_ready hc hap hp), M.bind_ok (M.get_run s)]

end Sys2Proof.Machine

/-!
What the memory system leaves alone: translation, publication, application at the homes, loads and atomics change memory
and what belongs to it, the cores' logs and caches among it, and no team, gang, family, channel or choice of the model.
-/

namespace Sys2Proof.Machine

/-- The state without memory and all that belongs to it: homes, publications, flows, free values, and the cores. Two
states that agree here differ in what the memory system owns alone. -/
def State.bare (s : State) : State :=
  { s with
    mem := [], poison := [], held := [], staged := [], flights := [], pubs := [], pubNum := 0, pubSeq := 0
    hostCached := [], backInvalidates := [], free := 0, discarded := 0, flows := [], linkKeys := [], cores := [] }

/-- A run of operations that each leave the rest alone does so. -/
theorem State.bare_foldl {α : Type} {f : State → α → State} (h : ∀ s a, (f s a).bare = s.bare) (xs : List α) (s : State) :
    (xs.foldl f s).bare = s.bare := by
  induction xs generalizing s with
  | nil => rfl
  | cons x xs ih => exact (ih (f s x)).trans (h s x)

theorem State.bare_ite {p : Prop} [Decidable p] {s u w : State} (hu : u.bare = s.bare) (hw : w.bare = s.bare) :
    (if p then u else w).bare = s.bare := by
  split
  · exact hu
  · exact hw

section
variable {s u : State} (h : u.bare = s.bare)
include h

theorem State.team?_of_bare (n : Nat) : u.team? n = s.team? n :=
  (congrArg (fun s : State => s.team? n) h :)

theorem State.levelOf_of_bare (t : Team) : u.levelOf t = s.levelOf t :=
  (congrArg (fun s : State => s.levelOf t) h :)

theorem State.defer_of_bare : u.defer = s.defer :=
  (congrArg (fun s : State => s.defer) h :)

theorem State.pendPubs_of_bare : u.pendPubs = s.pendPubs :=
  (congrArg (fun s : State => s.pendPubs) h :)

theorem State.dev_of_bare : u.dev = s.dev :=
  (congrArg (fun s : State => s.dev) h :)

end

/-! ## Homes (R109, R114, R115, R323) -/

section
variable (s : State)

@[simp] theorem State.bare_putCore (c : Core) : (s.putCore c).bare = s.bare := rfl

@[simp] theorem State.bare_modCore (n : Nat) (f : Core → Core) : (s.modCore n f).bare = s.bare := rfl

@[simp] theorem State.bare_syncFlows (core : Nat) (devs : List (BitVec 10)) : (s.syncFlows core devs).bare = s.bare := by
  obtain ⟨_, _, h⟩ := State.syncFlows_sameButFlows (s := s) core devs
  rw [h]
  rfl

@[simp] theorem State.bare_backInvalidate (g : Nat) : (s.backInvalidate g).bare = s.bare := State.bare_ite rfl rfl

@[simp] theorem State.bare_takeOver (n : Option (BitVec 8)) (g : Nat) : (s.takeOver n g).bare = s.bare := by
  unfold State.takeOver
  extract_lets h u
  have kept : u.bare = s.bare := State.bare_ite rfl rfl
  clear_value u h
  split
  · exact State.bare_ite kept kept
  · exact kept
  · exact kept

@[simp] theorem State.bare_applyReduce (key : Nat) (op : BitVec 4) (f : Fmt) (v : BitVec 64) (poison : Bool) :
    (s.applyReduce key op f v poison).bare = s.bare := by
  unfold State.applyReduce
  exact State.bare_ite (s.bare_backInvalidate _) (s.bare_backInvalidate _)

@[simp] theorem State.bare_settle (g : Nat) : (s.settle g).bare = s.bare := by
  unfold State.settle
  split
  · rfl
  · exact State.bare_foldl (fun u e => u.bare_applyReduce _ _ _ _ _) _ _

@[simp] theorem State.bare_settleAll (gs : List Nat) : (s.settleAll gs).bare = s.bare :=
  State.bare_foldl State.bare_settle gs s

@[simp] theorem State.bare_homeRead (key n : Nat) : (s.homeRead key n).2.2.bare = s.bare := by
  unfold State.homeRead
  dsimp only
  split
  · exact s.bare_settleAll _
  · exact s.bare_settleAll _

@[simp] theorem State.bare_granWrite (g : Nat) (data : List Byte) (mask : BitVec 32) (poison : Bool) :
    (s.granWrite g data mask poison).bare = s.bare := by
  have written : ((s.settle g).backInvalidate g).bare = s.bare := by simp
  unfold State.granWrite
  exact State.bare_ite written (State.bare_ite written written)

@[simp] theorem State.bare_streamWrite (key : Nat) (bs : List Byte) (poison : Bool) :
    (s.streamWrite key bs poison).bare = s.bare := State.bare_foldl (fun u p => by simp) _ _

@[simp] theorem State.bare_homeWrite (key : Nat) (bs : List Byte) : (s.homeWrite key bs).bare = s.bare :=
  s.bare_streamWrite key bs false

@[simp] theorem State.bare_applyEntry (e : LogEntry) : (s.applyEntry e).bare = s.bare := by
  have taken := State.bare_foldl (f := fun (s : State) g => s.takeOver (some e.tenant) g)
    (fun u g => u.bare_takeOver _ _) e.grans s
  unfold State.applyEntry
  refine State.bare_ite rfl ?_
  extract_lets u bs
  refine Eq.trans ?_ taken
  change State.bare _ = u.bare
  clear_value u
  split
  · exact u.bare_granWrite _ _ _ _
  · refine State.bare_foldl (fun w k => ?_) _ u
    dsimp only
    split
    · rfl
    · rw [State.bare_applyReduce, State.bare_settle]
  · exact State.bare_foldl (fun w i => w.bare_granWrite _ _ _ _) _ u

/-! ## The log and its publications (R106 to R109) -/

@[simp] theorem State.bare_land (f : Flight) : (s.land f).bare = s.bare := by simp [State.land]

@[simp] theorem State.bare_sendPub (core pub : Nat) : (s.sendPub core pub).bare = s.bare := by
  unfold State.sendPub
  rw [State.bare_syncFlows]
  rfl

@[simp] theorem State.bare_forceTo (seq : Nat) : (s.forceTo seq).bare = s.bare := by
  unfold State.forceTo
  dsimp only
  refine (State.bare_foldl (f := fun s (p : Pub) => s.ack p.core) (fun u p => rfl) _ _).trans ?_
  refine (State.bare_foldl State.bare_land _ _).trans ?_
  exact State.bare_foldl (f := fun s (p : Pub) => s.sendPub p.core p.seq) (fun u p => u.bare_sendPub _ _) _ s

@[simp] theorem State.bare_forceBelow (n : Nat) : (s.forceBelow n).bare = s.bare :=
  State.bare_ite rfl (s.bare_forceTo _)

@[simp] theorem State.bare_showTo (core : Nat) (gs : List Nat) : (s.showTo core gs).bare = s.bare :=
  State.bare_ite (s.bare_forceBelow _) rfl

@[simp] theorem State.bare_recordPubOf (core team gang : Nat) (sc : Scope) (cover : LogEntry → Bool) :
    (s.recordPubOf core team gang sc cover).bare = s.bare := by
  rw [State.recordPubOf_eq]
  exact State.bare_ite rfl rfl

@[simp] theorem State.bare_publishTail (t : Team) (sc : Scope) (tail : BitVec 48) :
    (s.publishTail t sc tail).bare = s.bare := by
  unfold State.publishTail
  split
  · rfl
  · exact s.bare_recordPubOf _ _ _ _ _

@[simp] theorem State.bare_see (core n : Nat) : (s.see core n).bare = s.bare := State.bare_ite rfl rfl

/-- A release without publications that wait to be recorded. -/
theorem State.bare_publish {s : State} {u : Team} {n : Nat} (hu : s.team? n = some u) (hp : s.pendPubs = []) (sc : Scope) :
    (s.publish n sc).bare = s.bare := by
  unfold State.publish
  rw [State.recordPending_of_nil hu hp]
  dsimp only
  rw [hu]
  exact s.bare_publishTail _ _ _

@[simp] theorem State.bare_markEntry (key : Nat) (bits : BitVec 8) : (s.markEntry key bits).bare = s.bare := by
  unfold State.markEntry
  exact s.bare_backInvalidate _

end

/-! ## Translation (R93 to R96) -/

/-- From `s` to `u` only memory and what belongs to it changed, and of the cores what they have cached. -/
structure State.Walked (s u : State) : Prop where
  bare : u.bare = s.bare
  core : ∀ n, { u.core n with tc := (s.core n).tc } = s.core n

theorem State.Walked.refl (s : State) : State.Walked s s := ⟨rfl, fun _ => rfl⟩

theorem State.Walked.trans {s u w : State} (h : State.Walked s u) (k : State.Walked u w) : State.Walked s w := by
  refine ⟨k.bare.trans h.bare, fun n => ?_⟩
  calc { w.core n with tc := (s.core n).tc }
      = { ({ w.core n with tc := (u.core n).tc } : Core) with tc := (s.core n).tc } := rfl
    _ = { u.core n with tc := (s.core n).tc } := by rw [k.core n]
    _ = s.core n := h.core n

theorem State.Walked.of_cores {s u : State} (hb : u.bare = s.bare) (hc : u.cores = s.cores) : State.Walked s u := by
  have core (n : Nat) : u.core n = s.core n := by rw [State.core, State.core, hc]
  exact ⟨hb, fun n => by rw [core]⟩

/-- A result paired with a state. -/
theorem State.Walked.of_eq {α : Type} {p : α × State} {a : α} {s u : State} (e : p = (a, u)) (h : State.Walked s p.2) :
    State.Walked s u := by
  rw [e] at h
  exact h

theorem Core.with_n {c : Core} {k : Nat} (h : c.n = k) : { c with n := k } = c := by
  subst h
  rfl

theorem State.walked_modCore (s : State) (n : Nat) {f : Core → Core} (hf : ∀ c, { f c with tc := c.tc } = c) :
    State.Walked s (s.modCore n f) := by
  refine ⟨rfl, fun k => ?_⟩
  by_cases own : k = n
  · subst own
    rw [State.core_modCore]
    calc { ({ f (s.core k) with n := k } : Core) with tc := (s.core k).tc }
        = { ({ f (s.core k) with tc := (s.core k).tc } : Core) with n := k } := rfl
      _ = { s.core k with n := k } := by rw [hf]
      _ = s.core k := Core.with_n (s.core_n k)
  · rw [State.core_modCore_ne _ _ _ _ own]

theorem State.walked_cacheAdd (s : State) (n : Nat) (c : CachedTr) : State.Walked s (s.cacheAdd n c) := by
  unfold State.cacheAdd
  exact s.walked_modCore n fun _ => rfl

theorem State.walked_homeRead (s : State) (key n : Nat) : State.Walked s (s.homeRead key n).2.2 := by
  refine .of_cores (s.bare_homeRead key n) ?_
  have settled : (s.settleAll (granulesOf (bareKey key) n)).cores = s.cores :=
    (congrArg (fun u : State => u.cores) (State.settleAll_cores s s.cores (granulesOf (bareKey key) n)) :)
  unfold State.homeRead
  dsimp only
  split
  · exact settled
  · exact settled

theorem State.walked_markEntry (s : State) (key : Nat) (bits : BitVec 8) : State.Walked s (s.markEntry key bits) :=
  .of_cores (s.bare_markEntry key bits)
    (congrArg (fun u : State => u.cores) (State.backInvalidate_cores s s.cores (granule key)) :)

theorem State.walked_walkFrom (dev local_ : Nat) (acc : AccKind) (sys : Bool) (level table : Nat) (s : State) :
    State.Walked s (walkFrom dev local_ acc sys level table s).2 := by
  induction level generalizing table s with
  | zero =>
    rw [walkFrom_zero]
    delta walkFrom._f walkFrom.match_7
    beta_reduce
    extract_lets pa key
    split
    · exact .refl s
    split
    next u e =>
    have read : State.Walked s u := by
      have h := s.walked_homeRead key 8
      rw [e] at h
      exact h
    extract_lets entry next
    split
    · exact read
    split
    · exact read
    split
    · exact read
    split
    · split
      · exact read
      · exact read.trans (u.walked_markEntry _ _)
    · exact read
  | succ level ih =>
    rw [walkFrom_succ]
    have ih : ∀ table s, State.Walked s ((Nat.brecOn.go level (walkFrom._f dev local_ acc sys)).1 table s).2 := by
      rw [walkFrom_eq_brecOn] at ih
      exact ih
    generalize Nat.brecOn.go level (walkFrom._f dev local_ acc sys) = below at ih ⊢
    delta walkFrom._f walkFrom.match_7
    beta_reduce
    extract_lets pa key
    split
    · exact .refl s
    split
    next u e =>
    have read : State.Walked s u := by
      have h := s.walked_homeRead key 8
      rw [e] at h
      exact h
    have marked (bits : BitVec 8) : State.Walked s (u.markEntry key bits) := read.trans (u.walked_markEntry _ _)
    extract_lets entry next
    split
    · exact read
    split
    · exact read
    split
    · exact read
    split
    · split
      · exact read
      · exact marked _
    · exact (marked _).trans (ih _ _)

theorem State.walked_walk (s : State) (c : TrCtx) (acc : AccKind) (va : Word) (root : Nat) :
    State.Walked s (s.walk c acc va root).2 := by
  have walked := State.walked_walkFrom (devOf va) (localOf va) acc c.sys 3 (root * 2 ^ 16) s
  unfold State.walk
  extract_lets dev at_
  split
  next u h => exact .of_eq h walked
  next l u h =>
    have kept : State.Walked s u := .of_eq h walked
    cases c.core with
    | none => exact kept
    | some n => exact kept.trans (u.walked_cacheAdd n _)

theorem State.walked_translate (s : State) (c : TrCtx) (acc : AccKind) (va : Word) :
    State.Walked s (s.translate c acc va).2 := by
  unfold State.translate
  split
  · exact .refl s
  split
  · exact .refl s
  split
  · exact .refl s
  next root _ =>
  split
  · exact .refl s
  split
  next r u h =>
  have kept : State.Walked s u := by
    refine .of_eq h ?_
    split
    · exact s.walked_walk c acc va root
    next entry _ =>
      split
      · exact .refl s
      · dsimp only
        split
        · split
          · exact .refl s
          next n _ => exact (s.walked_markEntry entry.leaf 0x40).trans (State.walked_modCore _ n fun _ => rfl)
        · exact .refl s
  split
  · exact kept
  · exact kept

theorem State.walked_translateParts (c : TrCtx) (acc : AccKind) (ps : List (Word × Nat)) (s : State) :
    State.Walked s (s.translateParts c acc ps).2 := by
  induction ps generalizing s with
  | nil => exact .refl s
  | cons p ps ih =>
    have first := s.walked_translate c acc p.1
    unfold State.translateParts
    split
    next e u h => exact .of_eq h first
    next key u h =>
      have rest := (State.Walked.of_eq h first).trans (ih u)
      split
      next e w h => exact .of_eq h rest
      next ks w h => exact .of_eq h rest

theorem State.walked_translateUpTo (c : TrCtx) (acc : AccKind) (ps : List (Word × Nat)) (s : State) :
    State.Walked s (s.translateUpTo c acc ps).2.2 := by
  induction ps generalizing s with
  | nil => exact .refl s
  | cons p ps ih =>
    have first := s.walked_translate c acc p.1
    unfold State.translateUpTo
    split
    next e u h => exact .of_eq h first
    next key u h => exact (State.Walked.of_eq h first).trans (ih u)

theorem State.walked_resolve (t : Team) (acc : AccKind) (va : Word) (n : Nat) (s : State) :
    State.Walked s (s.resolve t acc va n).2 := by
  unfold State.resolve
  split
  · exact .refl s
  split
  · split
    · exact .refl s
    · exact .refl s
    · exact .refl s
  · have cut := State.walked_translateParts (s.teamCtx t) acc (cutRange (n / 32 + 2) va n) s
    split
    next h => exact .of_eq h cut
    next h => exact .of_eq h cut

theorem State.walked_resolveAll (t : Team) (acc : AccKind) (n : Nat) (ls : List (Nat × Word)) (s : State) :
    State.Walked s (s.resolveAll t acc n ls).2 := by
  induction ls generalizing s with
  | nil => exact .refl s
  | cons p ls ih => exact (State.walked_resolve t acc p.2 n s).trans (ih _)

/-! ## Atomics at their homes (R209) -/

theorem State.bare_atomicAt (s : State) (key : Nat) (op : BitVec 4) (f : Fmt) (v w : BitVec 64) :
    (s.atomicAt key op f v w).2.2.bare = s.bare := by
  have read := s.bare_homeRead key f.bytes
  unfold State.atomicAt
  split
  next bs bad u h =>
  rw [h] at read
  dsimp only
  split
  · exact read
  · exact (u.bare_homeWrite _ _).trans read

theorem State.bare_performAtomic (op : BitVec 4) (f : Fmt) (lanes : List (Nat × BitVec 64 × BitVec 64))
    (keys : List (Nat × Nat)) (s : State) : (s.performAtomic op f lanes keys).2.bare = s.bare := by
  induction lanes generalizing s with
  | nil => rfl
  | cons p lanes ih => exact (ih _).trans (s.bare_atomicAt _ _ _ _ _)

end Sys2Proof.Machine

/-!
What the log of a core changes in the team that appends: LOGT and the digest record alone (R103, R334); then releases and
acquires where nothing is outstanding (R106 to R108, R212, R225).
-/

namespace Sys2Proof.Machine

/-! ## Appending (R103, R110) -/

/-- The state without what the memory system owns and without the teams. -/
def State.teamless (s : State) : State := { s.bare with teams := [] }

/-- A team with another LOGT and other digest records. -/
def Team.withLog (t : Team) (l : Word) (r : List Byte) : Team := { t with logt := l, records := r }

/-- From `s` to `u` a team appended: but for what the memory system owns, only its LOGT and records changed. -/
structure State.Appended (n : Nat) (s u : State) : Prop where
  rest : u.teamless = s.teamless
  team : ∀ v, s.team? n = some v → ∃ l r, u.team? n = some (v.withLog l r)

theorem State.Appended.refl (n : Nat) (s : State) : State.Appended n s s := ⟨rfl, fun v h => ⟨v.logt, v.records, h⟩⟩

theorem State.Appended.trans {n : Nat} {s u w : State} (h : State.Appended n s u) (k : State.Appended n u w) :
    State.Appended n s w := by
  refine ⟨k.rest.trans h.rest, fun v hv => ?_⟩
  obtain ⟨l, r, hu⟩ := h.team v hv
  obtain ⟨l', r', hw⟩ := k.team _ hu
  exact ⟨l', r', hw⟩

theorem State.Appended.of_bare {n : Nat} {s u : State} (h : u.bare = s.bare) : State.Appended n s u :=
  ⟨by rw [State.teamless, State.teamless, h], fun v hv => ⟨v.logt, v.records, (State.team?_of_bare h n).trans hv⟩⟩

theorem State.Appended.foldl {α : Type} {n : Nat} {f : State → α → State} (h : ∀ s a, State.Appended n s (f s a))
    (xs : List α) (s : State) : State.Appended n s (xs.foldl f s) := by
  induction xs generalizing s with
  | nil => exact .refl n s
  | cons x xs ih => exact (h s x).trans (ih _)

theorem State.Appended.modTeam (s : State) (n : Nat) {f : Team → Team} (hf : ∀ v, ∃ l r, f v = v.withLog l r) :
    State.Appended n s (s.modTeam n f) := by
  have same (v : Team) : (f v).id = v.id := by
    obtain ⟨l, r, h⟩ := hf v
    rw [h]
    rfl
  refine ⟨rfl, fun v hv => ?_⟩
  obtain ⟨l, r, h⟩ := hf v
  refine ⟨l, r, ?_⟩
  rw [s.team?_modTeam n f same, hv, Option.map_some, h]

theorem State.appended_append (s : State) (t : Team) (e : LogEntry) : State.Appended t.id s (s.append t e) := by
  unfold State.append
  extract_lets lsn paired u
  have kept : u.bare = s.bare := s.bare_putCore _
  clear_value u
  split
  · exact .of_bare kept
  · exact (State.Appended.of_bare kept).trans (.modTeam u t.id fun v => ⟨_, _, rfl⟩)

theorem State.appended_flush (s : State) (t : Team) (sel : LogEntry → Bool) : State.Appended t.id s (s.flush t sel) :=
  (State.Appended.of_bare (s.bare_modCore _ _)).trans (.foldl (fun u e => u.appended_append t e) _ _)

section
variable {n : Nat} {s u : State} (h : State.Appended n s u)
include h

theorem State.Appended.defer : u.defer = s.defer :=
  (congrArg (fun s : State => s.defer) h.rest :)

theorem State.Appended.pendPubs : u.pendPubs = s.pendPubs :=
  (congrArg (fun s : State => s.pendPubs) h.rest :)

theorem State.Appended.inBound : u.inBound = s.inBound :=
  (congrArg (fun s : State => s.inBound) h.rest :)

end

/-! ## Releases and acquires (R212) -/

/-- What an acquire covers depends on the core and the gang of the team alone (R107, R224). -/
theorem State.coverage_congr (s : State) {t u : Team} (hc : u.core = t.core) (hg : u.gang = t.gang) (sc : Scope)
    (cores : Nat → Bool) : s.coverage u sc cores = s.coverage t sc cores := by
  have covers (p : Pub) : p.covers u sc cores = p.covers t sc cores := by rw [Pub.covers, Pub.covers, hc, hg]
  simp only [State.coverage, State.coveredUpTo, covers]

@[simp] theorem M.set_run (s u : State) : (set u : M Unit) s = .ok () u := rfl

theorem State.choose_of_nil {s : State} (h : s.defer = []) : s.choose = (false, s) := by rw [State.choose, h]

theorem M.inBound_of_bound {s : State} {sc : Scope} (h : sc = .domain → s.inBound = true) :
    M.inBound sc s = .ok () s := by
  unfold M.inBound
  rw [M.bind_ok (M.get_run s)]
  refine M.stopIf_of_false ?_ _ s
  by_cases hs : sc = .domain
  · rw [h hs, Bool.not_true, Bool.and_false]
  · rw [beq_eq_false_iff_ne.mpr hs, Bool.false_and]

theorem M.flush_of_room {s : State} {t : Team} {sel : LogEntry → Bool} (h : s.flushes t sel = true) (w : Wait) :
    M.flush t w sel s = .ok () (s.flush t sel) := by
  unfold M.flush
  rw [M.bind_ok (M.get_run s)]
  refine (M.bind_ok (M.stopIf_of_false ?_ _ s)).trans (M.modify_run _ s)
  rw [h]
  rfl

/-- The path's earlier accesses are complete where the team found has none. -/
theorem M.bind_of_found {s : State} {t u : Team} (hu : s.team? t.id = some u) (hp : u.pend = []) :
    M.bind t s = .ok () s := by
  unfold M.bind
  rw [M.modify_run, State.bindPath, hu]
  simp only [hp, State.completeIn]

/-- A release flushes the team's buffered reductions at device scope and wider, at level 1 and above (R110). -/
def State.flushedFor (s : State) (t : Team) (sc : Scope) : State :=
  if 1 ≤ s.levelOf t ∧ (sc = .device ∨ sc = .domain) then s.flush t (LogEntry.ofTeam t) else s

theorem State.appended_flushedFor (s : State) (t : Team) (sc : Scope) :
    State.Appended t.id s (s.flushedFor t sc) := by
  unfold State.flushedFor
  split
  · exact s.appended_flush t _
  · exact .refl _ s

section
variable {s : State} {t : Team} {sc : Scope}

/-- The release of a team with nothing outstanding flushes and publishes. -/
theorem M.release_run (ht : s.team? t.id = some t) (hu : s.Undelayed t) (hap : t.ap = 0)
    (hb : sc = .domain → s.inBound = true)
    (room : 1 ≤ s.levelOf t ∧ (sc = .device ∨ sc = .domain) → s.flushes t (LogEntry.ofTeam t) = true) :
    M.release t sc s = .ok () ((s.flushedFor t sc).publish t.id sc) := by
  obtain ⟨hp, -, hpub, hd⟩ := hu
  have counted : (t.ap != 0) = false := by rw [hap]; rfl
  unfold M.release
  rw [M.bind_ok (M.inBound_of_bound hb), M.bind_ok (M.stopIf_of_false counted _ s),
    M.bind_ok (M.bind_of_found ht hp), M.bind_ok (M.modify_run _ s), State.recordPending_of_nil ht hpub,
    M.bind_ok (M.get_run s)]
  have flushed : ∀ k : Unit → M Unit,
      (if (decide (1 ≤ s.levelOf t) && (sc == .device || sc == .domain)) = true then
        M.flush t .logFull (LogEntry.ofTeam t) >>= k else k ()) s = k () (s.flushedFor t sc) := by
    intro k
    unfold State.flushedFor
    by_cases hw : 1 ≤ s.levelOf t ∧ (sc = .device ∨ sc = .domain)
    · rw [if_pos hw, if_pos (by simpa using hw)]
      exact M.bind_ok (M.flush_of_room (room hw) _)
    · rw [if_neg hw, if_neg (by simpa using hw)]
  refine (flushed _).trans ?_
  dsimp only
  rw [M.bind_ok (M.get_run _), State.choose_of_nil ((s.appended_flushedFor t sc).defer.trans hd)]
  rfl

/-- The acquire of a path that has none under way makes what it covers visible. -/
theorem M.acquire_run {u : Team} (hu : s.team? t.id = some u) (hp : u.pend = []) (hc : u.core = t.core)
    (hg : u.gang = t.gang) (hpub : s.pendPubs = []) (hd : s.defer = []) (hprog : t.arm.prog = .none)
    (hb : sc = .domain → s.inBound = true) (cores : Nat → Bool) :
    M.acquire t sc cores s = .ok () (s.see t.core (s.coverage t sc cores)) := by
  unfold M.acquire
  rw [hprog]
  dsimp only
  rw [M.bind_ok (M.inBound_of_bound hb), M.bind_ok (M.bind_of_found hu hp), M.bind_ok (M.modify_run _ s),
    State.recordPending_of_nil hu hpub, M.bind_ok (M.get_run s), State.choose_of_nil hd]
  dsimp only
  rw [M.bind_ok (M.set_run s s), hu]
  show EStateM.Result.ok () (s.see u.core (s.coverage u sc cores)) = _
  rw [hc, s.coverage_congr hc hg]

end

/-- Settles O27: the release flushes and publishes (`M.release_run`), the acquire makes visible what it covers
(`M.acquire_run`), and the release of a fence leaves its acquire the same team but for LOGT. -/
theorem releasesAndAcquires : Obligations.ReleasesAndAcquires := by
  unfold Obligations.ReleasesAndAcquires
  intro s t sc sa a hi hu hpass hb named mine wide flushed released acquired
  have ht := s.team?_of_issuer t hi
  obtain ⟨hp, -, hpub, hd⟩ := id hu
  refine ⟨fun hap room => ?_, fun hprog => ⟨?_, fun ha => ?_, fun hap room => ?_⟩⟩
  · refine State.effect_of_issue hi rfl ?_
    rw [M.bind_ok (M.gate_of_passes hpass), M.bind_ok (M.release_run ht hu hap hb room)]
    rfl
  · refine State.effect_of_issue hi rfl ?_
    rw [M.bind_ok (M.gate_of_passes hpass), M.bind_ok (M.acquire_run ht hp rfl rfl hpub hd hprog hb _)]
    rfl
  · refine State.effect_of_issue hi rfl ?_
    rw [M.bind_ok (M.read_ok _ ht ha), M.bind_ok (M.gate_of_passes hpass), M.bind_ok (M.get_run s),
      M.bind_ok (M.acquire_run ht hp rfl rfl hpub hd hprog hb _)]
    rfl
  · have app := s.appended_flushedFor t sc
    obtain ⟨l, r, hf⟩ := app.team t ht
    have kept : ((s.flushedFor t sc).publish t.id sc).bare = (s.flushedFor t sc).bare :=
      State.bare_publish hf (app.pendPubs.trans hpub) sc
    have found : ((s.flushedFor t sc).publish t.id sc).team? t.id = some (t.withLog l r) :=
      (State.team?_of_bare kept t.id).trans hf
    have acquire := M.acquire_run (sc := sc) found hp rfl rfl
      ((State.pendPubs_of_bare kept).trans (app.pendPubs.trans hpub))
      ((State.defer_of_bare kept).trans (app.defer.trans hd)) hprog
      (fun h => (congrArg (fun s : State => s.inBound) kept :).trans (app.inBound.trans (hb h))) allCores
    refine State.effect_of_issue hi rfl ?_
    unfold fence
    rw [M.bind_ok (M.gate_of_passes hpass), hprog]
    dsimp only
    rw [M.bind_ok (M.release_run ht hu hap hb room), M.bind_ok acquire]
    rfl

end Sys2Proof.Machine

/-!
Barriers (R29, R43, R214): what the release of partial groups leaves of a gang, the end of a generation, and the
completion of a team that has arrived.
-/

namespace Sys2Proof.Machine

/-! ## Gangs but for the children they have spawned (R40, R41) -/

/-- A gang without its released groups and its ring. -/
def Gang.childless (g : Gang) : Gang := { g with released := [], ring := [] }

/-- The gangs but for what spawning changes of them. -/
def State.childlessGangs (s : State) : List Gang := s.gangs.map Gang.childless

theorem List.map_map_of_absorbs {α β : Type} {f : α → β} {g : α → α} (h : ∀ x, f (g x) = f x) (xs : List α) :
    (xs.map g).map f = xs.map f := by
  rw [List.map_map]
  exact List.map_congr_left fun x _ => h x

/-- A change of the gangs that leaves all but their children alone. -/
theorem State.childlessGangs_of_map {s u : State} {f : Gang → Gang} (hu : u.gangs = s.gangs.map f)
    (hf : ∀ g, (f g).childless = g.childless) : u.childlessGangs = s.childlessGangs := by
  rw [State.childlessGangs, hu]
  exact List.map_map_of_absorbs hf s.gangs

theorem Gang.childless_ite (p : Prop) [Decidable p] {g h : Gang} (e : h.childless = g.childless) :
    (if p then h else g).childless = g.childless := by
  split
  · exact e
  · rfl

theorem State.childlessGangs_seatChild {s u : State} {g : Gang} {cs : List Child} (h : s.seatChild g cs = some u) :
    u.childlessGangs = s.childlessGangs := by
  have seen (w : State) (core n : Nat) : (w.see core n).childlessGangs = w.childlessGangs := by
    unfold State.see
    split
    · rfl
    · rfl
  unfold State.seatChild at h
  split at h
  · dsimp only at h
    split at h
    · obtain rfl := Option.some.inj h
      exact seen s _ _
    · split at h
      · exact nomatch h
      · obtain rfl := Option.some.inj h
        exact seen (s.putFamily _) _ _
  · exact nomatch h

theorem State.childlessGangs_seatGroups (g : Gang) (groups : List (List Child)) (held : List Nat) (s : State) :
    (s.seatGroups g groups held).2.childlessGangs = s.childlessGangs := by
  induction groups generalizing held s with
  | nil => rfl
  | cons cs rest ih =>
    unfold State.seatGroups
    dsimp only
    split
    · exact ih _ _
    · split
      next u h => exact (ih _ _).trans (State.childlessGangs_seatChild h)
      next => exact ih _ _

theorem State.childlessGangs_seatWaiting (s : State) (gang : Nat) : (s.seatWaiting gang).childlessGangs = s.childlessGangs := by
  unfold State.seatWaiting
  split
  · rfl
  next g _ =>
    split
    · rfl
    · refine Eq.trans ?_ (State.childlessGangs_seatGroups g g.released [] s)
      exact State.childlessGangs_of_map rfl fun h => Gang.childless_ite _ rfl

theorem State.childlessGangs_refillQueue (s : State) (core : Nat) : (s.refillQueue core).childlessGangs = s.childlessGangs := by
  unfold State.refillQueue
  dsimp only
  split
  · rfl
  · exact State.childlessGangs_of_map rfl fun g => rfl

theorem State.childlessGangs_release (s : State) (g : Gang) (core : Nat) (groups : List (List Child)) :
    (s.release g core groups).childlessGangs = s.childlessGangs := by
  unfold State.release
  rw [State.childlessGangs_seatWaiting, State.childlessGangs_refillQueue]
  exact State.childlessGangs_of_map rfl fun h => Gang.childless_ite _ rfl

theorem State.childlessGangs_releaseGroup (s : State) (gang : Nat) (entry : Word) :
    (s.releaseGroup gang entry).childlessGangs = s.childlessGangs := by
  unfold State.releaseGroup
  split
  · rfl
  · split
    · rfl
    · split
      · rfl
      · exact s.childlessGangs_release _ _ _

theorem State.childlessGangs_releasePartials (s : State) (gang : Nat) : (s.releasePartials gang).childlessGangs = s.childlessGangs := by
  unfold State.releasePartials
  split
  · rfl
  next core _ =>
    dsimp only
    generalize List.eraseDups (α := Word) _ = entries
    clear * -
    induction entries generalizing s with
    | nil => rfl
    | cons e es ih => exact (ih _).trans (s.childlessGangs_releaseGroup gang e)

/-- Where the gangs agree but for their children, so do those found under a uid. -/
theorem State.gang?_of_childlessGangs {s u : State} {n : Nat} {g : Gang} (h : u.childlessGangs = s.childlessGangs)
    (hg : s.gang? n = some g) : ∃ k, u.gang? n = some k ∧ k.childless = g.childless := by
  have found (w : State) : (w.gang? n).map Gang.childless = w.childlessGangs.find? fun g => g.uid == n := by
    rw [State.childlessGangs, List.find?_map]
    rfl
  have same : (u.gang? n).map Gang.childless = some g.childless := by rw [found, h, ← found, hg, Option.map_some]
  exact Option.map_eq_some_iff.mp same

/-- An element put in the place of those that a predicate selects is found there. -/
theorem find?_setWhere {α : Type} {p : α → Bool} {x y : α} {xs : List α} (hp : p x = true) (h : xs.find? p = some y) :
    (setWhere p x xs).find? p = some x := by
  have same : p ∘ (fun y => if p y then x else y) = p := by
    funext y
    rw [Function.comp_apply]
    split
    next e => rw [hp, e]
    · rfl
  rw [setWhere, List.find?_map, same, h, Option.map_some, if_pos (List.find?_some h)]

/-- Elements that the predicate does not select are found as before. -/
theorem find?_setWhere_ne {α : Type} {p q : α → Bool} {x : α} (xs : List α) (hp : ∀ y, p y = true → q y = false)
    (hx : q x = false) : (setWhere p x xs).find? q = xs.find? q := by
  unfold setWhere
  induction xs with
  | nil => rfl
  | cons y ys ih =>
    rw [List.map_cons, List.find?_cons, List.find?_cons, ih]
    by_cases hy : p y = true
    · rw [if_pos hy, hx, hp y hy]
    · rw [if_neg hy]

theorem State.gang?_putGang {s : State} {g h : Gang} {n : Nat} (hg : s.gang? n = some g) (hn : h.uid = n) :
    (s.putGang h).gang? n = some h := by
  subst hn
  exact find?_setWhere (beq_self_eq_true _) hg

/-! ## The generation in progress (R29, R214) -/

/-- Whether a team has arrived at a generation or a later one. -/
def Team.arrivedBy (t : Team) (gen : BitVec 32) : Bool := t.arrived && genLe gen t.arrGen

/-- The gang after its generation in progress. -/
def Gang.afterGeneration (g : Gang) : Gang :=
  { g with barGen := g.barGen + 1, barStatus := if g.abandoned then 1 else 0, abandoned := false }

section
variable {s : State} {g : Gang} (hg : s.gang? g.uid = some g) (clock : Option Word)
include hg

/-- While an expected team is missing the generation goes on. -/
theorem State.barStep_of_missing (h : ∃ u ∈ s.barExpected g, u.arrivedBy g.barGen = false) :
    s.barStep g.uid clock = s := by
  have waits : ((s.barExpected g).all fun t => t.arrived && genLe g.barGen t.arrGen) = false := by
    obtain ⟨u, hu, missing⟩ := h
    exact List.all_eq_false.mpr ⟨u, hu, by simpa [Team.arrivedBy] using missing⟩
  unfold State.barStep
  rw [hg]
  dsimp only
  rw [waits, Bool.and_false]
  rfl

/-- Once every expected team has arrived, and some team has, the generation ends. -/
theorem State.barStep_of_all (some_ : ∃ u ∈ s.teamsOf g.uid, u.gone = false ∧ u.arrivedBy g.barGen = true)
    (all_ : ∀ u ∈ s.barExpected g, u.arrivedBy g.barGen = true) :
    ∃ h, (s.barStep g.uid clock).gang? g.uid = some h ∧ h.childless = g.afterGeneration.childless := by
  have arrived : ((s.teamsOf g.uid).any fun t => !t.gone && t.arrived && genLe g.barGen t.arrGen) = true := by
    obtain ⟨u, hu, here, at_⟩ := some_
    exact List.any_eq_true.mpr ⟨u, hu, by simpa [here, Team.arrivedBy] using at_⟩
  have complete : ((s.barExpected g).all fun t => t.arrived && genLe g.barGen t.arrGen) = true :=
    List.all_eq_true.mpr all_
  unfold State.barStep
  rw [hg]
  dsimp only
  rw [arrived, complete, Bool.and_self, if_pos rfl]
  exact State.gang?_of_childlessGangs (State.childlessGangs_releasePartials _ _)
    (State.gang?_putGang (h := g.afterGeneration) hg rfl)

end

/-! ## Barrier instructions (R214) -/

section
variable {s : State} {t : Team} {sd : BitVec 6} (ht : s.team? t.id = some t)
  (hsd : (s.viewOf t).checkS posD sd = .ok ()) (hh : t.handling = false) (hs : t.stack = [])
include ht hsd hh hs

theorem M.barrierChecks_run (outside : Bool) :
    M.barrierChecks t sd outside s = M.stopIf (t.spawned || outside) (trapWith 0x182 0) s := by
  unfold M.barrierChecks
  rw [M.bind_ok (M.read_ok _ ht hsd), M.bind_ok (M.notInHandler_of_not hh s), M.bind_ok (M.emptyStack_of_nil hs s)]

theorem M.barrierChecks_trap {outside : Bool} (h : (t.spawned || outside) = true) :
    M.barrierChecks t sd outside s = .error (trapWith 0x182 0) s := by
  rw [M.barrierChecks_run ht hsd hh hs, h]
  rfl

theorem M.barrierChecks_ok {outside : Bool} (h : (t.spawned || outside) = false) :
    M.barrierChecks t sd outside s = .ok () s := by
  rw [M.barrierChecks_run ht hsd hh hs, h]
  rfl

end

/-- Changed registers of the team found, which need not be the one that issued, are put back. -/
theorem M.regs_of_found {s : State} {t u : Team} {w : View} (f : View → Except Stop View) (hu : s.team? t.id = some u)
    (hw : f (s.viewOf u) = .ok w) : M.regs t f s = .ok () (s.putView w) := by
  have same : u.id = t.id := s.team?_id t.id u hu
  have here := M.regs_ok (t := u) f (same ▸ hu) hw
  unfold M.regs M.read at here ⊢
  rwa [same] at here

/-- The completion of a barrier by a team that has arrived: what its acquire covers becomes visible, and SD receives the
generation and the status. -/
theorem M.barrierDone_run {s : State} {t u : Team} {sd : BitVec 6} (hu : s.team? t.id = some u) (hc : u.core = t.core)
    (hg : u.gang = t.gang) (hpub : s.pendPubs = []) (sc : Scope) (cores : Nat → Bool) (w : Word) :
    (do
      modify fun s => s.replay t.id sc cores
      M.regs t fun v => .ok (v.setS sd w)
      return Done.next : M Done) s =
      .ok .next ((s.see t.core (s.coverage t sc cores)).putView
        (((s.see t.core (s.coverage t sc cores)).viewOf u).setS sd w)) := by
  have replayed : s.replay t.id sc cores = s.see t.core (s.coverage t sc cores) := by
    unfold State.replay
    rw [State.recordPending_of_nil hu hpub]
    dsimp only
    rw [hu]
    show s.see u.core (s.coverage u sc cores) = _
    rw [hc, s.coverage_congr hc hg]
  have found : (s.see t.core (s.coverage t sc cores)).team? t.id = some u :=
    (State.team?_of_bare (s.bare_see _ _) t.id).trans hu
  rw [M.bind_ok (M.modify_run _ s), replayed]
  exact M.bind_ok (M.regs_of_found (fun v => .ok (v.setS sd w)) found rfl)

/-- The team once it has left the barrier it arrived at. -/
def Team.leftBarrier (t : Team) : Team := { t with arrived := false }

def Team.leftGroupBarrier (t : Team) : Team := { t with groupArrived := false }

section
variable {s : State} {t : Team} {g : Gang} {sc : Scope} {sd : BitVec 6} (ht : s.team? t.id = some t)
  (hg : s.gang? t.gang = some g) (hpub : s.pendPubs = []) (hsd : (s.viewOf t).checkS posD sd = .ok ())
  (hh : t.handling = false) (hs : t.stack = [])
include ht hg hpub hsd hh hs

/-- `bar` of a team that has arrived, once its generation has passed. -/
theorem barrier_run (hsp : t.spawned = false) (harr : t.arrived = true) (hgen : genLe g.barGen t.arrGen = false) :
    let w := (s.modTeam t.id Team.leftBarrier).see t.core (s.coverage t .gang allCores)
    barrier sc sd t s = .ok .next (w.putView ((w.viewOf t.leftBarrier).setS sd (barrierWord t.arrGen g.barStatus))) := by
  have left : (s.modTeam t.id Team.leftBarrier).team? t.id = some t.leftBarrier := by
    rw [s.team?_modTeam t.id Team.leftBarrier fun _ => rfl, ht, Option.map_some]
  have may : (t.spawned || false) = false := by rw [hsp, Bool.false_or]
  unfold barrier
  rw [M.bind_ok (M.barrierChecks_ok ht hsd hh hs may), harr, Bool.not_true, if_neg Bool.false_ne_true]
  dsimp only
  rw [M.bind_ok (M.get_run s), hg, ht]
  dsimp only
  rw [M.bind_ok (M.stopIf_of_false hgen _ s)]
  exact M.barrierDone_run (s := s.modTeam t.id Team.leftBarrier) left rfl rfl hpub _ _ _

/-- `gbar` of a team that has arrived, once the group's generation has passed. -/
theorem groupBarrier_run {id : Nat} {gr : Group} (hsp : t.spawned = false) (hid : g.group = some id)
    (hgr : s.group? id = some gr) (harr : t.groupArrived = true) (hgen : genLe gr.gen t.groupGen = false) :
    let w := (s.modTeam t.id Team.leftGroupBarrier).see t.core (s.coverage t sc (s.memberCores gr))
    groupBarrier sc sd t s =
      .ok .next (w.putView ((w.viewOf t.leftGroupBarrier).setS sd (barrierWord t.groupGen gr.barStatus))) := by
  have left : (s.modTeam t.id Team.leftGroupBarrier).team? t.id = some t.leftGroupBarrier := by
    rw [s.team?_modTeam t.id Team.leftGroupBarrier fun _ => rfl, ht, Option.map_some]
  have may : (t.spawned || (some id).isNone) = false := by rw [hsp]; rfl
  unfold groupBarrier
  rw [M.bind_ok (M.get_run s), hg, Option.bind_some, hid]
  dsimp only
  rw [M.bind_ok (M.barrierChecks_ok ht hsd hh hs may), harr, Bool.not_true, if_neg Bool.false_ne_true]
  rw [M.bind_ok (M.get_run s), hgr, ht]
  dsimp only
  rw [M.bind_ok (M.stopIf_of_false hgen _ s)]
  exact M.barrierDone_run (s := s.modTeam t.id Team.leftGroupBarrier) left rfl rfl hpub _ _ _

end

/-- `gbar` traps in a spawned team and outside a group. -/
theorem groupBarrier_trap {s : State} {t : Team} {g : Gang} {sc : Scope} {sd : BitVec 6} (ht : s.team? t.id = some t)
    (hg : s.gang? t.gang = some g) (hsd : (s.viewOf t).checkS posD sd = .ok ()) (hh : t.handling = false)
    (hs : t.stack = []) (h : (t.spawned || g.group.isNone) = true) :
    groupBarrier sc sd t s = .error (trapWith 0x182 0) s := by
  unfold groupBarrier
  rw [M.bind_ok (M.get_run s), hg, Option.bind_some]
  dsimp only
  exact M.bind_error (M.barrierChecks_trap ht hsd hh hs h)

/-- Settles O28: the checks trap first, a team whose generation has passed completes (`barrier_run`,
`groupBarrier_run`), and a generation ends with the arrival of all it expects (`State.barStep_of_all`). -/
theorem barrierArrivalsAndGenerations : Obligations.BarrierArrivalsAndGenerations := by
  unfold Obligations.BarrierArrivalsAndGenerations
  constructor
  · intro s t g sc sd hi hg hpub hsd hh hs word
    have ht := s.team?_of_issuer t hi
    refine ⟨fun hsp => ?_, fun hsp => ?_, fun hnone => ?_, fun hsp harr hgen => ?_,
      fun id gr hsp hid hgr harr hgen => ?_⟩
    · refine State.traps_of_issue (len := 4) hi rfl ?_
      exact M.bind_error (M.barrierChecks_trap ht hsd hh hs (by rw [hsp, Bool.true_or]))
    · exact State.traps_of_issue (len := 4) hi rfl (groupBarrier_trap ht hg hsd hh hs (by rw [hsp, Bool.true_or]))
    · refine State.traps_of_issue (len := 4) hi rfl (groupBarrier_trap ht hg hsd hh hs ?_)
      rw [hnone, Option.isNone_none, Bool.or_true]
    · exact State.effect_of_issue hi rfl (barrier_run ht hg hpub hsd hh hs hsp harr hgen)
    · exact State.effect_of_issue hi rfl (groupBarrier_run ht hg hpub hsd hh hs hsp hid hgr harr hgen)
  · intro s g clock hg live here expected
    have same : expected = s.barExpected g := by
      show ((s.teamsOf g.uid).filter _).filter _ = _
      rw [List.filter_filter]
      refine List.filter_congr fun u _ => ?_
      rw [Bool.and_right_comm]
    refine ⟨fun missing => State.barStep_of_missing hg clock (same ▸ missing), fun some_ all_ => ?_⟩
    obtain ⟨u, hu, at_⟩ := some_
    obtain ⟨member, present⟩ := List.mem_filter.mp hu
    obtain ⟨h, found, ends⟩ := State.barStep_of_all hg clock ⟨u, member, by simpa using present, at_⟩ (same ▸ all_)
    have gen := congrArg Gang.barGen ends
    have status := congrArg Gang.barStatus ends
    have abandoned := congrArg Gang.abandoned ends
    exact ⟨h, found, gen, status, abandoned⟩

end Sys2Proof.Machine

/-!
Spawning (R216) over every state: two records under one id, of which the first is shorter than the mask of its path.
-/

namespace Sys2Proof.Machine

/-! ## A state with two records under one id -/

/-- A team of one lane whose path's mask has a second bit. -/
def narrowSpawner : Team := { loadedTeam 2 1 0 0x10000 0 with path := Arm.start 0x10000 3 64 }

/-- A record with the same id, of two lanes. -/
def wideTwin : Team := { narrowSpawner with size := 2 }

/-- The state in which both are listed; its tenant has declared the entry 0, and the gang's lanes may spawn (R21, R216). -/
def spawningTwins : State :=
  { State.reset with
    cur := some 2, nextId := 10, teams := [narrowSpawner, wideTwin], gangs := [{ loadedGang 1 0 with nest := 1 }],
    families := [loadedFamily 0], tenants := [{ Tenant.fresh 0 with entries := [0] }] }

/-- The ordinals of every record after an instruction. -/
def ordinalsAfter (o : Host.Outcome State Fault Refusal) : List (List (BitVec 10)) :=
  match o with
  | .next s => s.teams.map fun u => u.ords
  | _ => []

/-- The model raises the ordinals of the active lanes of the record that issues, lane 0 alone. -/
theorem ordinalsAfter_spawningTwins : ordinalsAfter (exec (.spawn 0 0 (.s 0) 0) spawningTwins) = [[1], [1, 0]] := by
  decide +kernel

/-- Refutes O30: under one id the ordinals of a second, wider record rise in the statement with every bit of the mask of
the first's path, in the model with the lanes that the first has. -/
theorem not_spawningAndJoining : ¬ Obligations.SpawningAndJoining := by
  unfold Obligations.SpawningAndJoining
  intro h
  obtain ⟨spawn, -⟩ := h spawningTwins narrowSpawner { loadedGang 1 0 with nest := 1 } (loadedFamily 0) 0 0 (.s 0) 0 0 rfl
    rfl rfl rfl
  obtain ⟨-, -, -, -, completes⟩ := spawn rfl rfl rfl rfl
  have effect := completes (by decide) (by decide +kernel) (by decide +kernel) (by decide +kernel)
    (.inl (by decide +kernel)) rfl rfl (by decide +kernel) (by decide +kernel)
  have ordinals := congrArg ordinalsAfter effect
  rw [ordinalsAfter_spawningTwins] at ordinals
  revert ordinals
  decide +kernel

end Sys2Proof.Machine

/-!
Loads and stores (R156, R202 to R205): the lanes' addresses, the parts that loads and stores share, and what is loaded.
-/

namespace Sys2Proof.Machine

/-! ## Addresses (R156) -/

/-- Each active lane's address. -/
theorem View.addresses_eq (v : View) (b : Word) (x : Src) (off : BitVec 4) (f : Fmt) :
    v.addresses b x off f = v.team.lanes.map fun l => (l, laneAddress b x off f l) := by
  unfold View.addresses
  refine List.map_congr_left fun l _ => ?_
  have tag : (x.tag == .fmt .s32) = decide (x.tag = .fmt .s32) := rfl
  simp only [laneAddress, BitVec.ofInt_add, BitVec.ofInt_natCast, BitVec.ofNat_toNat, BitVec.setWidth_eq, tag,
    decide_eq_true_eq]

section
variable {s : State} {t : Team} {base : BitVec 4} {ix : VSrc} {vd : BitVec 6} {f : Fmt} {off : BitVec 4} {b : Word}
  {x d : Src} (ht : s.team? t.id = some t) (hb : (s.viewOf t).readBase base = .ok b)
  (hx : (s.viewOf t).readOneOf posIX ix [.s32, .n32] = .ok x) (hc : (s.viewOf t).consume [x] = .ok ())
include hb hx

theorem View.memOperands_ok : (s.viewOf t).memOperands base ix = .ok (b, x) := by
  unfold View.memOperands
  rw [hb, Encoding.bind_ok, hx]
  rfl

include ht hc

theorem M.loadAddresses_run (hd : (s.viewOf t).checkV posD vd f.isPair = .ok ()) :
    M.loadAddresses t base ix vd f off s = .ok (t.lanes.map fun l => (l, laneAddress b x off f l)) s := by
  unfold M.loadAddresses
  refine M.read_ok _ ht ?_
  rw [View.memOperands_ok hb hx, Encoding.bind_ok]
  dsimp only
  rw [hd, Encoding.bind_ok, hc, Encoding.bind_ok, View.addresses_eq]
  rfl

theorem M.storeAddresses_run (hd : (s.viewOf t).readD vd f = .ok d) :
    M.storeAddresses t base ix vd f off s = .ok (t.lanes.map fun l => (l, laneAddress b x off f l), d) s := by
  unfold M.storeAddresses
  refine M.read_ok _ ht ?_
  rw [View.memOperands_ok hb hx, Encoding.bind_ok]
  dsimp only
  rw [hd, Encoding.bind_ok, hc, Encoding.bind_ok, View.addresses_eq]
  rfl

end

/-! ## Parts that go on where nothing is outstanding (log 7) -/

section
variable {s : State} {t u : Team} (hu : s.team? t.id = some u) (hp : u.pend = [])
include hu hp

/-- No outstanding instruction of the team found has to complete first. -/
theorem State.completeWhere_of_nil (sel : Pending → Bool) : s.completeWhere t.id sel = s := by
  unfold State.completeWhere
  rw [hu]
  simp only [hp, State.completeIn]

theorem M.inOrder_of_nil (ts : List Touch) : M.inOrder t ts s = .ok () s := by
  unfold M.inOrder
  rw [M.modify_run, State.completeWhere_of_nil hu hp]

theorem M.appended_of_nil : M.appended t s = .ok () s := by
  unfold M.appended
  rw [M.modify_run, State.completeWhere_of_nil hu hp]

end

theorem M.recordPending_of_nil {s : State} {t u : Team} (hu : s.team? t.id = some u) (hpub : s.pendPubs = []) :
    (modify fun s => s.recordPending t.id : M Unit) s = .ok () s := by
  rw [M.modify_run, State.recordPending_of_nil hu hpub]

theorem M.view_run {s : State} {t u : Team} (hu : s.team? t.id = some u) : M.view t.id s = .ok (s.viewOf u) s := by
  unfold M.view
  rw [hu]
  rfl

@[simp] theorem View.noteVacant_zero (v : View) : v.noteVacant 0 = v := by
  have same : v.team.vacant ||| 0 = v.team.vacant := BitVec.or_zero
  rw [View.noteVacant, same]

/-- Without a violating lane none is switched off (R386). -/
theorem M.switchOff_nil (t : Team) (s : State) : M.switchOff t [] s = .ok true s := rfl

/-- Offsets inside the partition, as offsets of the scratchpad (R90). -/
theorem M.offsets_run {s : State} {t : Team} {fam : Family} (hf : s.familyOf? t = some fam) (n : Nat)
    (as : List (Nat × Word)) (inside : ∀ a ∈ as, a.2.toNat + n ≤ fam.partSize) :
    M.offsets t n as s = .ok (some (as.map fun a => (a.1, fam.partBase + a.2.toNat))) s := by
  have none_ : as.filter (fun a => decide (fam.partSize < a.2.toNat + n)) = [] :=
    List.filter_eq_nil_iff.mpr fun a ha => by simpa using inside a ha
  have all_ : as.filter (fun a => decide (a.2.toNat + n ≤ fam.partSize)) = as :=
    List.filter_eq_self.mpr fun a ha => decide_eq_true (inside a ha)
  unfold M.offsets
  rw [M.bind_ok (M.get_run s), hf]
  dsimp only [Option.map_some, Option.getD_some]
  rw [none_, all_]
  exact M.bind_ok (M.switchOff_nil t s)

/-- Without poison in the stored lanes none reaches scratchpad (R391). -/
theorem M.noPoison_of_clean {d : Src} {lanes : List Nat} (h : ∀ l ∈ lanes, d.isPoisoned l = false) (s : State) :
    M.noPoison d lanes s = .ok () s :=
  M.stopIf_of_false (List.any_eq_false.mpr fun l hl => by simp [h l hl]) _ s

theorem M.afterPasses_of_none {s : State} {t : Team} (h : ∀ p ∈ (s.core t.core).passes, p.team ≠ t.id) :
    M.afterPasses t s = .ok () s := by
  unfold M.afterPasses
  rw [M.bind_ok (M.get_run s)]
  exact M.stopIf_of_false (List.any_eq_false.mpr fun p hp => by simpa using h p hp) _ s

/-! ## Loaded values (R203) -/

section
variable (g : Nat → Nat) (bad : Nat → Bool) {ls : List Nat} {l : Nat} (h : l ∈ ls)
include h

/-- What a list of lanes' values holds for one of them. -/
theorem Loaded.find?_map : (ls.map fun l => (l, g l, bad l)).find? (fun x => x.1 == l) = some (l, g l, bad l) := by
  induction ls with
  | nil => exact nomatch h
  | cons k ks ih =>
    rw [List.map_cons, List.find?_cons]
    by_cases same : k = l
    · rw [same, beq_self_eq_true]
    · rw [beq_eq_false_iff_ne.mpr same]
      exact ih ((List.mem_cons.mp h).resolve_left (Ne.symm same))

theorem Loaded.bits_map : Loaded.bits (ls.map fun l => (l, g l, bad l)) l = g l := by
  rw [Loaded.bits, Loaded.find?_map g bad h]
  rfl

theorem Loaded.bad_map : Loaded.bad (ls.map fun l => (l, g l, bad l)) l = bad l := by
  rw [Loaded.bad, Loaded.find?_map g bad h]
  rfl

end

/-- A moved element whose words are those of a number. -/
theorem View.moved_val (v : View) (tag : Tag) (n : Nat → Nat) (bad : Nat → Bool) {l : Nat} (hl : l < v.team.size)
    (ha : v.active.getLsbD l = true) :
    (v.moved tag (fun l => (BitVec.ofNat 32 (n l), BitVec.ofNat 32 (n l / 2 ^ 32))) bad).val l =
      n l % 2 ^ (if tag.isPair then 64 else 32) := by
  obtain ⟨low, high⟩ := Prod.mk.inj
    (View.moved_lane tag (fun l => (BitVec.ofNat 32 (n l), BitVec.ofNat 32 (n l / 2 ^ 32))) bad hl ha)
  rw [Res.val, low]
  cases pair : tag.isPair with
  | false => simp [View.moved, pair]
  | true =>
    have words := toNat_halves (n l)
    rw [BitVec.toNat_ofNat, Nat.mod_mod, ← BitVec.toNat_ofNat] at words
    simp only [View.moved, pair, if_true, Option.map_some, Option.getD_some] at high ⊢
    rw [high]
    exact words

theorem View.moved_tagged (v : View) (tag : Tag) (f : Nat → Elem × Elem) (bad : Nat → Bool) :
    (v.moved tag f bad).tagged tag ∧ (v.moved tag f bad).hi.isSome = tag.isPair := by
  cases pair : tag.isPair with
  | false => simp [View.moved, View.general, Res.tagged, pair]
  | true => simp [View.moved, View.general, Res.tagged, pair]

/-- Loaded values give their lanes' bits. -/
theorem View.loaded_gives (v : View) (f : Fmt) (g : Nat → Nat) (bad : Nat → Bool) :
    (v.loaded f (v.team.lanes.map fun l => (l, g l, bad l))).Gives v (.fmt f) g := by
  obtain ⟨tagged, high⟩ := View.moved_tagged v (.fmt f)
    (fun l => (BitVec.ofNat 32 (Loaded.bits (v.team.lanes.map fun l => (l, g l, bad l)) l),
      BitVec.ofNat 32 (Loaded.bits (v.team.lanes.map fun l => (l, g l, bad l)) l / 2 ^ 32)))
    (Loaded.bad (v.team.lanes.map fun l => (l, g l, bad l)))
  refine ⟨tagged, high, fun l hl ha => ?_⟩
  have lane := Loaded.bits_map g bad (Team.mem_lanes.mpr ⟨hl, ha⟩)
  rw [View.loaded, View.moved_val _ _ _ _ hl ha, lane]

end Sys2Proof.Machine

/-!
Scratchpad loads and stores (R90, R203, R205).
-/

namespace Sys2Proof.Machine

/-! ## Bytes that lanes store one after the other -/

/-- A memory after the lanes of a list have stored their bytes, each from its offset on. -/
def Memory.storeLanes (at_ : Nat → Nat) (bytes : Nat → List Byte) (ls : List Nat) (m : Memory) : Memory :=
  ls.foldl (fun m l => Memory.writeBytes m (at_ l) (bytes l)) m

section
variable {at_ : Nat → Nat} {bytes : Nat → List Byte} {ls : List Nat} {m : Memory}

/-- A byte that no lane stores to stays. -/
theorem Memory.read_storeLanes_of_outside {k : Nat} (h : Memory.wf m = true)
    (out : ∀ l ∈ ls, k < at_ l ∨ at_ l + (bytes l).length ≤ k) :
    Memory.read (Memory.storeLanes at_ bytes ls m) k = Memory.read m k := by
  induction ls generalizing m with
  | nil => rfl
  | cons l ls ih =>
    exact (ih (Memory.wf_writeBytes _ _ h) fun k hk => out k (List.mem_cons_of_mem l hk)).trans
      (Memory.read_writeBytes_of_outside h (out l List.mem_cons_self))

/-- Of the lanes that store to a byte the highest, which is the last, wins. -/
theorem Memory.read_storeLanes {l i : Nat} (h : Memory.wf m = true) (up : ls.Pairwise (· < ·)) (hl : l ∈ ls)
    (hi : i < (bytes l).length)
    (last : ∀ k ∈ ls, l < k → at_ l + i < at_ k ∨ at_ k + (bytes k).length ≤ at_ l + i) :
    Memory.read (Memory.storeLanes at_ bytes ls m) (at_ l + i) = (bytes l)[i] := by
  induction ls generalizing m with
  | nil => exact nomatch hl
  | cons k ks ih =>
    obtain ⟨below, up⟩ := List.pairwise_cons.mp up
    rcases List.mem_cons.mp hl with rfl | hl
    · have kept := Memory.read_storeLanes_of_outside (Memory.wf_writeBytes (at_ l) (bytes l) h)
        fun k hk => last k (List.mem_cons_of_mem l hk) (below k hk)
      exact kept.trans (Memory.read_writeBytes_of_inside _ _ h hi)
    · exact ih (Memory.wf_writeBytes _ _ h) up hl fun j hj => last j (List.mem_cons_of_mem k hj)

end

theorem Team.pairwise_lanes (t : Team) : t.lanes.Pairwise (· < ·) := List.Pairwise.filter _ List.pairwise_lt_range

/-! ## What a scratchpad store changes (R205) -/

/-- The scratchpad after some lanes' stores at one core. -/
def Core.storeLanes (c : Core) (at_ : Nat → Nat) (bytes : Nat → List Byte) (ls : List Nat) : Core :=
  { c with scratch := Memory.storeLanes at_ bytes ls c.scratch }

section
variable (s : State) (f : Fmt) (d : Src) (core : Nat) (at_ : Nat → Nat) (ls : List Nat)

theorem State.storeScratch_cons (l : Nat) :
    s.storeScratch f d ((l :: ls).map fun l => (l, core, at_ l)) =
      (s.scratchWrite core (at_ l) (d.bytes f l)).storeScratch f d (ls.map fun l => (l, core, at_ l)) := rfl

theorem State.core_storeScratch :
    (s.storeScratch f d (ls.map fun l => (l, core, at_ l))).core core =
      (s.core core).storeLanes at_ (d.bytes f) ls := by
  induction ls generalizing s with
  | nil => rfl
  | cons l ls ih =>
    rw [State.storeScratch_cons, ih, State.scratchWrite, State.core_modCore]
    have number : (s.core core).n = core := s.core_n core
    simp only [Core.storeLanes, Memory.storeLanes, List.foldl_cons]
    rw [number]

theorem State.core_storeScratch_ne {n : Nat} (h : n ≠ core) :
    (s.storeScratch f d (ls.map fun l => (l, core, at_ l))).core n = s.core n := by
  induction ls generalizing s with
  | nil => rfl
  | cons l ls ih => rw [State.storeScratch_cons, ih, State.scratchWrite, State.core_modCore_ne _ _ _ _ h]

theorem State.storeScratch_rest :
    { s.storeScratch f d (ls.map fun l => (l, core, at_ l)) with cores := s.cores } = s := by
  induction ls generalizing s with
  | nil => rfl
  | cons l ls ih =>
    have rest := congrArg (fun w : State => { w with cores := s.cores }) (ih (s.scratchWrite core (at_ l) (d.bytes f l)))
    exact rest

end

theorem Src.length_bytes (d : Src) (f : Fmt) (l : Nat) : (d.bytes f l).length = f.bytes := by
  simp [Src.bytes]

/-! ## The obligation -/

section
variable {s : State} {t : Team} {fam : Family} {base : BitVec 4} {ix : VSrc} {vd : BitVec 6} {f : Fmt} {off : BitVec 4}
  {b : Word} {x d : Src} (ht : s.team? t.id = some t) (hcount : t.counter 0 < 63) (hf : s.familyOf? t = some fam)
  (hb : (s.viewOf t).readBase base = .ok b) (hx : (s.viewOf t).readOneOf posIX ix [.s32, .n32] = .ok x)
  (hc : (s.viewOf t).consume [x] = .ok ())
  (inside : ∀ a ∈ t.lanes.map fun l => (l, laneAddress b x off f l), a.2.toNat + f.bytes ≤ fam.partSize)
include ht hcount hf hb hx hc inside

theorem scratchLoad_run (hdefer : s.defer = []) (hd : (s.viewOf t).checkV posD vd f.isPair = .ok ()) :
    scratchLoad base ix vd f off t s = .ok .next (s.putView ((s.viewOf t).put vd false ((s.viewOf t).loaded f
      (t.lanes.map fun l => (l, f.place (natOfBytes (s.scratchRead t.core
        (fam.partBase + (laneAddress b x off f l).toNat) f.bytes)), false))))) := by
  unfold scratchLoad
  rw [M.bind_ok (M.loadAddresses_run ht hb hx hc hd), M.bind_ok (M.countable_of_lt hcount s),
    M.bind_ok (M.offsets_run hf f.bytes _ inside)]
  dsimp only
  rw [M.bind_ok (M.get_run s)]
  rw [M.bind_ok (M.view_run ht), M.bind_ok (M.result_of_nil ht hdefer ..), View.noteVacant_zero]
  simp only [List.map_map]
  rfl

theorem scratchStore_run (hp : t.pend = []) (hpub : s.pendPubs = []) (hd : (s.viewOf t).readD vd f = .ok d)
    (clean : ∀ l ∈ t.lanes, d.isPoisoned l = false) (idle : ∀ p ∈ (s.core t.core).passes, p.team ≠ t.id) :
    scratchStore base ix vd f off t s = .ok .next (s.storeScratch f d
      (t.lanes.map fun l => (l, t.core, fam.partBase + (laneAddress b x off f l).toNat))) := by
  unfold scratchStore
  rw [M.bind_ok (M.storeAddresses_run ht hb hx hc hd)]
  dsimp only
  rw [M.bind_ok (M.countable_of_lt hcount s), M.bind_ok (M.offsets_run hf f.bytes _ inside)]
  dsimp only
  rw [M.bind_ok (M.noPoison_of_clean (by simpa using clean) s), M.bind_ok (M.afterPasses_of_none idle),
    M.bind_ok (M.inOrder_of_nil ht hp _), M.bind_ok (M.recordPending_of_nil ht hpub), M.bind_ok (M.modify_run _ s)]
  simp only [List.map_map]
  rfl

end

/-- Settles O19: `scratchLoad_run` with `View.loaded_gives`, and `scratchStore_run`, whose bytes are those of
`Memory.storeLanes`, in which the highest lane wins (`Memory.read_storeLanes`). -/
theorem scratchpadAccesses : Obligations.ScratchpadAccesses := by
  unfold Obligations.ScratchpadAccesses
  intro s t fam base ix vd f off b x d v addr at_ hi hp hdefer hpub hcount hf hb hx hc inside
  have ht := s.team?_of_issuer t hi
  have inside' : ∀ a ∈ t.lanes.map fun l => (l, laneAddress b x off f l), a.2.toNat + f.bytes ≤ fam.partSize := by
    simpa using inside
  refine ⟨fun hd => ?_, fun hd clean idle canonical => ?_⟩
  · refine State.Registers.computes (State.registers_of_issue hi rfl
      (scratchLoad_run ht hcount hf hb hx hc inside' hdefer hd) ?_ ?_) (View.loaded_gives _ _ _ _)
    · exact (View.team_put ..).1
    · exact (View.team_put ..).2
  · refine ⟨_, State.effect_of_issue hi rfl (scratchStore_run ht hcount hf hb hx hc inside' hp hpub hd clean idle),
      s.storeScratch_rest .., fun n => ?_, fun n k out => ?_, fun l hl i hib last => ?_⟩
    · by_cases own : n = t.core
      · rw [own, State.core_storeScratch]
        rfl
      · rw [State.core_storeScratch_ne _ _ _ _ _ _ own]
    · by_cases own : n = t.core
      · rw [own, State.core_storeScratch]
        refine Memory.read_storeLanes_of_outside (canonical.core _) fun l hl => ?_
        rw [d.length_bytes]
        exact (out.resolve_left (not_not_intro own)) l hl
      · rw [State.core_storeScratch_ne _ _ _ _ _ _ own]
    · have bound : i < (d.bytes f l).length := by rwa [d.length_bytes]
      rw [State.core_storeScratch]
      refine (Memory.read_storeLanes (bytes := d.bytes f) (canonical.core _) t.pairwise_lanes hl bound ?_).trans ?_
      · intro k hk above
        rw [d.length_bytes]
        exact last k hk above
      · exact (List.getD_eq_getElem _ _ bound).symm

end Sys2Proof.Machine

/-!
Global loads, stores and reductions (R96, R103 to R105, R110, R203, R204, R208) whose addresses reach homes of this device.
-/

namespace Sys2Proof.Machine

/-! ## Places at homes of this device -/

/-- The places of lanes whose bytes lie at homes. -/
def homePlaces (place : Nat → List (Nat × Nat)) (ls : List Nat) : List (Nat × Place) := ls.map fun l => (l, .home (place l))

theorem windowPlaces_homePlaces (place : Nat → List (Nat × Nat)) (ls : List Nat) :
    windowPlaces (homePlaces place ls) = [] := by
  unfold windowPlaces homePlaces
  rw [List.filterMap_map]
  exact List.filterMap_eq_nil_iff.mpr fun l _ => rfl

section
variable {s w : State} {t : Team} {acc : AccKind} {n : Nat} {ls : List Nat} {addr : Nat → Word}
  {place : Nat → List (Nat × Nat)} (h : s.Reaches t acc n (ls.map fun l => (l, addr l)) place w)
include h

theorem State.Reaches.bare : w.bare = s.bare := by
  have kept := (State.walked_resolveAll t acc n (ls.map fun l => (l, addr l)) s).bare
  rwa [h.1] at kept

/-- Every lane has its place, and nothing is switched off. -/
theorem M.places_run : M.places t acc n (ls.map fun l => (l, addr l)) s = .ok (some (homePlaces place ls)) w := by
  obtain ⟨resolved, -⟩ := h
  rw [List.map_map] at resolved
  unfold M.places
  rw [M.bind_ok (M.get_run s), resolved]
  dsimp only
  rw [M.bind_ok (M.set_run s w)]
  have stops : failedStop acc (ls.map ((fun a : Nat × Word => (a.1, a.2, Resolved.at (.home (place a.1)))) ∘
      fun l => (l, addr l))) = .ok () := by
    simp [failedStop, Function.comp_def]
  rw [stops, M.bind_ok (M.lift_ok () w)]
  have none_ : ls.filterMap (fun _ => (none : Option (Nat × BitVec 9 × Word))) = [] :=
    List.filterMap_eq_nil_iff.mpr fun _ _ => rfl
  simp only [List.filterMap_map, Function.comp_def, none_]
  rw [M.bind_ok (M.switchOff_nil t w)]
  show EStateM.Result.ok (some (ls.filterMap (some ∘ fun l => (l, Place.home (place l))))) w = _
  rw [List.filterMap_eq_map]
  rfl

variable {u : State} (hu : u.bare = s.bare)
include hu

/-- No home is of another device. -/
theorem State.Reaches.remote_eq_none : u.remote (homePlaces place ls) = none := by
  have dev := State.dev_of_bare hu
  obtain ⟨-, here⟩ := h
  unfold State.remote homePlaces
  rw [List.flatMap_map, List.find?_eq_none]
  intro p hp
  obtain ⟨l, hl, hp⟩ := List.mem_flatMap.mp hp
  obtain ⟨q, hq, rfl⟩ := List.mem_map.mp hp
  have home := here (l, addr l) (List.mem_map_of_mem hl) q hq
  simp [home, dev]

theorem M.leaves_run (hd : s.defer = []) : M.leaves (homePlaces place ls) u = .ok false u := by
  unfold M.leaves
  rw [M.bind_ok (M.get_run u), h.remote_eq_none hu]
  exact M.later_of_nil ((State.defer_of_bare hu).trans hd)

theorem M.remoteAnswer_run (addrs : List (Nat × Word)) (perform : State → State) :
    M.remoteAnswer t (homePlaces place ls) addrs perform u = .ok () u := by
  unfold M.remoteAnswer
  rw [M.bind_ok (M.get_run u), h.remote_eq_none hu]
  rfl

end

/-! ## Loads (R105, R203) -/

section
variable {w : State} {core : Nat} {place : Nat → List (Nat × Nat)}

/-- What a core's reads of some parts give, one after the other. -/
def State.bytesAt (w : State) (core : Nat) (parts : List (Nat × Nat)) : List Byte :=
  parts.flatMap fun p => (w.coreRead core p.1 p.2).1

def State.poisonAt (w : State) (core : Nat) (parts : List (Nat × Nat)) : Bool :=
  parts.any fun p => (w.coreRead core p.1 p.2).2.1

theorem State.readParts_run {parts : List (Nat × Nat)} (h : ∀ p ∈ parts, (w.coreRead core p.1 p.2).2.2 = w) :
    w.readParts core parts = (w.bytesAt core parts, w.poisonAt core parts, w) := by
  induction parts with
  | nil => rfl
  | cons p ps ih =>
    have same := h p List.mem_cons_self
    unfold State.readParts
    dsimp only
    rw [same, ih fun q hq => h q (List.mem_cons_of_mem p hq)]
    rfl

theorem State.loadAll_run {ls : List Nat} (h : ∀ l ∈ ls, ∀ p ∈ place l, (w.coreRead core p.1 p.2).2.2 = w) (f : Fmt) :
    w.loadAll core f (homePlaces place ls) =
      (ls.map fun l => (l, f.place (natOfBytes (w.bytesAt core (place l))), w.poisonAt core (place l)), w) := by
  induction ls with
  | nil => rfl
  | cons l ls ih =>
    unfold homePlaces at ih ⊢
    rw [List.map_cons, List.map_cons]
    unfold State.loadAll
    dsimp only
    rw [State.readParts_run (h l List.mem_cons_self)]
    dsimp only
    rw [ih fun k hk => h k (List.mem_cons_of_mem l hk)]

end

/-- A lane's poison in a loaded result. -/
theorem View.loaded_poison (v : View) (f : Fmt) (g : Nat → Nat) (bad : Nat → Bool) {l : Nat} (hl : l ∈ v.team.lanes) :
    (v.loaded f (v.team.lanes.map fun l => (l, g l, bad l))).lo.poison.getLsbD l = bad l := by
  obtain ⟨size, active⟩ := Team.mem_lanes.mp hl
  show (maskOf _ &&& v.active).getLsbD l = bad l
  rw [BitVec.getLsbD_and, getLsbD_maskOf_lanes v.team _ size, Loaded.bad_map g bad hl, active,
    show v.active.getLsbD l = true from active, Bool.true_and, Bool.and_true]

/-- Settles O20: every lane has its place (`M.places_run`), and is read there as its core sees it
(`State.loadAll_run`). -/
theorem globalLoads : Obligations.GlobalLoads := by
  unfold Obligations.GlobalLoads
  intro s w t base ix vd f off b x place v hi hu hcount hb hx hd hc reach reads
  obtain ⟨hp, -, hpub, hdefer⟩ := hu
  have ht := s.team?_of_issuer t hi
  have htw : w.team? t.id = some t := (State.team?_of_bare reach.bare t.id).trans ht
  have gives := View.loaded_gives (w.viewOf t) f (fun l => f.place (natOfBytes (w.bytesAt t.core (place l))))
    (fun l => w.poisonAt t.core (place l))
  have poison := @View.loaded_poison (w.viewOf t) f (fun l => f.place (natOfBytes (w.bytesAt t.core (place l))))
    (fun l => w.poisonAt t.core (place l))
  obtain ⟨tagged, high, val⟩ := gives
  refine ⟨_, State.effect_of_issue hi rfl ?_, tagged, high, fun l hl => ?_⟩
  · unfold load
    rw [M.bind_ok (M.loadAddresses_run ht hb hx hc hd), M.bind_ok (M.countable_of_lt hcount s),
      M.bind_ok (M.places_run reach)]
    dsimp only
    rw [M.bind_ok (M.inOrder_of_nil htw hp _), M.bind_ok (M.remoteAnswer_run reach reach.bare _ _),
      M.bind_ok (M.leaves_run reach reach.bare hdefer), if_neg Bool.false_ne_true, M.bind_ok (M.get_run w),
      State.loadAll_run reads f]
    dsimp only
    rw [M.bind_ok (M.set_run w w)]
    exact M.bind_ok (M.regs_of_found (fun v => .ok (v.put vd false (v.loaded f _))) htw rfl)
  · obtain ⟨size, active⟩ := Team.mem_lanes.mp hl
    exact ⟨val l size active, poison hl⟩

end Sys2Proof.Machine

/-!
Stores and reductions (R103, R110, R204, R208): the entries they make, appended or buffered at once.
-/

namespace Sys2Proof.Machine

/-! ## Logs and buffers change no memory (R103, R110) -/

theorem State.memory_appends (t : Team) (es : List LogEntry) (s : State) :
    (es.foldl (fun s e => s.append t e) s).mem = s.mem ∧ (es.foldl (fun s e => s.append t e) s).poison = s.poison := by
  induction es generalizing s with
  | nil => exact ⟨rfl, rfl⟩
  | cons e es ih =>
    have one : (s.append t e).mem = s.mem ∧ (s.append t e).poison = s.poison := by
      unfold State.append
      dsimp only
      split
      · exact ⟨rfl, rfl⟩
      · exact ⟨rfl, rfl⟩
    exact ⟨(ih _).1.trans one.1, (ih _).2.trans one.2⟩

theorem State.mem_buffers (t : Team) (es : List LogEntry) (s : State) :
    (es.foldl (fun s e => s.buffer t e) s).mem = s.mem := by
  induction es generalizing s with
  | nil => rfl
  | cons e es ih => exact ih (s.buffer t e)

/-! ## Entries that go to the log at once -/

section
variable {s : State} {t : Team} (ht : s.team? t.id = some t) (hp : t.pend = []) {es : List LogEntry}
include ht hp

theorem M.append_run (room : es.length ≤ s.appendRoom t.core)
    (few : (es.foldl (fun s e => s.append t e) s).unpublishedOf t < unpublishedLimit) :
    M.append t es s = .ok () (es.foldl (fun s e => s.append t e) s) := by
  unfold M.append
  rw [M.bind_ok (M.get_run s), M.bind_ok (M.stopIf_of_false (decide_eq_false (Nat.not_lt.mpr room)) _ s),
    M.bind_ok (M.appended_of_nil ht hp), M.bind_ok (M.modify_run _ s), M.bind_ok (M.get_run _)]
  exact M.stopIf_of_false (decide_eq_false (Nat.not_le.mpr few)) _ _

theorem M.buffer_run (room : es.length ≤ s.bufferRoom t.core)
    (few : (es.foldl (fun s e => s.buffer t e) s).unpublishedOf t < unpublishedLimit) :
    M.buffer t es s = .ok () (es.foldl (fun s e => s.buffer t e) s) := by
  unfold M.buffer
  rw [M.bind_ok (M.get_run s), M.bind_ok (M.stopIf_of_false (decide_eq_false (Nat.not_lt.mpr room)) _ s),
    M.bind_ok (M.appended_of_nil ht hp), M.bind_ok (M.modify_run _ s), M.bind_ok (M.get_run _)]
  exact M.stopIf_of_false (decide_eq_false (Nat.not_le.mpr few)) _ _

end

/-- Without a choice to come entries are not left outstanding (log 7). -/
theorem M.toLog_of_nil {s : State} (hd : s.defer = []) (t : Team) (buffered : Bool) (ts : List Touch)
    (es : List LogEntry) : M.toLog t buffered ts es s = (if buffered then M.buffer t es else M.append t es) s := by
  unfold M.toLog
  rw [M.bind_ok (M.later_of_nil hd), Bool.and_false, if_neg Bool.false_ne_true]

/-- Aligned lanes do not stop a reduction or atomic (R206). -/
theorem M.aligned_run {n : Nat} {ls : List Nat} {addr : Nat → Word} (h : ∀ l ∈ ls, (addr l).toNat % n = 0)
    {code : BitVec 9} (s : State) : M.aligned code n (ls.map fun l => (l, addr l)) s = .ok () s := by
  have none_ : (ls.map fun l => (l, addr l)).filter (fun a => a.2.toNat % n != 0) = [] :=
    List.filter_eq_nil_iff.mpr fun a ha => by
      obtain ⟨l, hl, rfl⟩ := List.mem_map.mp ha
      simp [h l hl]
  unfold M.aligned
  rw [none_]
  rfl

/-! ## Stores (R204) -/

theorem storeEntries_homePlaces (f : Fmt) (d : Src) (place : Nat → List (Nat × Nat)) (ls : List Nat) :
    storeEntries f d (homePlaces place ls) =
      ls.flatMap fun l => partEntries (d.isPoisoned l) (place l) (d.bytes f l) := by
  have onto (es : List LogEntry) : (homePlaces place ls).foldl (fun es p =>
      match p.2 with
      | .home parts => es ++ partEntries (d.isPoisoned p.1) parts (d.bytes f p.1)
      | .window _ _ => es) es = es ++ ls.flatMap fun l => partEntries (d.isPoisoned l) (place l) (d.bytes f l) := by
    induction ls generalizing es with
    | nil => exact (List.append_nil es).symm
    | cons l ls ih =>
      rw [List.flatMap_cons, ← List.append_assoc]
      exact ih _
  exact onto []

/-- The entries of a reduction: one for each lane, at its home (R208). -/
def reduceEntries (t : Team) (op : BitVec 4) (f : Fmt) (d : Src) (sorted : Bool) (place : Nat → List (Nat × Nat)) :
    List LogEntry :=
  t.lanes.filterMap fun l => (place l).head?.map fun p =>
    LogEntry.reduceAt p.1 op f (d.val l % 2 ^ f.bits) (d.isPoisoned l) (t.laneKey l) t.order sorted

theorem reduceEntries_eq (t : Team) (op : BitVec 4) (f : Fmt) (d : Src) (sorted : Bool)
    (place : Nat → List (Nat × Nat)) :
    (homePlaces place t.lanes).filterMap (fun p =>
      match p.2 with
      | .home ((key, _) :: _) =>
        some (LogEntry.reduceAt key op f (d.val p.1 % 2 ^ f.bits) (d.isPoisoned p.1) (t.laneKey p.1) t.order sorted)
      | _ => none) = reduceEntries t op f d sorted place := by
  unfold homePlaces reduceEntries
  rw [List.filterMap_map]
  refine List.filterMap_congr fun l _ => ?_
  rw [Function.comp_apply]
  cases place l with
  | nil => rfl
  | cons p ps => rfl

section
variable {s w : State} {t : Team} {base : BitVec 4} {ix : VSrc} {vd : BitVec 6} {f : Fmt} {off : BitVec 4} {b : Word}
  {x d : Src} {place : Nat → List (Nat × Nat)} (ht : s.team? t.id = some t) (hu : s.Undelayed t) (hap : t.counter 1 < 63)
  (hb : (s.viewOf t).readBase base = .ok b) (hx : (s.viewOf t).readOneOf posIX ix [.s32, .n32] = .ok x)
  (hd : (s.viewOf t).readD vd f = .ok d) (hc : (s.viewOf t).consume [x] = .ok ())
include ht hu hap hb hx hd hc

/-- A store to homes of this device appends its entries, if the log and the limit have room. -/
theorem store_run (reach : s.Reaches t .store f.bytes (t.lanes.map fun l => (l, laneAddress b x off f l)) place w)
    {es : List LogEntry}
    (hes : es = t.lanes.flatMap fun l => partEntries (d.isPoisoned l) (place l) (d.bytes f l))
    (room : es.length ≤ w.appendRoom t.core)
    (few : (es.foldl (fun s e => s.append t e) w).unpublishedOf t < unpublishedLimit) :
    store base ix vd f off t s = .ok .next (es.foldl (fun s e => s.append t e) w) := by
  obtain ⟨hp, -, hpub, hdefer⟩ := hu
  have htw : w.team? t.id = some t := (State.team?_of_bare reach.bare t.id).trans ht
  have logged := M.toLog_of_nil ((State.defer_of_bare reach.bare).trans hdefer) t false
    (touches f.bytes (homePlaces place t.lanes)) es
  rw [if_neg Bool.false_ne_true, M.append_run htw hp room few] at logged
  unfold store
  rw [M.bind_ok (M.storeAddresses_run ht hb hx hc hd)]
  dsimp only
  rw [M.bind_ok (M.countable_of_lt hap s), M.bind_ok (M.places_run reach)]
  dsimp only
  rw [windowPlaces_homePlaces, List.map_nil, M.bind_ok (M.noPoison_of_clean (fun l hl => absurd hl List.not_mem_nil) w),
    M.bind_ok (M.inOrder_of_nil htw hp _),
    M.bind_ok (M.recordPending_of_nil htw ((State.pendPubs_of_bare reach.bare).trans hpub)),
    storeEntries_homePlaces, ← hes, M.bind_ok logged]
  rfl

/-- A reduction to homes of this device logs its entries, in the log or in the buffer. -/
theorem reduction_run (op : BitVec 4)
    (reach : s.Reaches t .reduction f.bytes (t.lanes.map fun l => (l, laneAddress b x 0 f l)) place w)
    (aligned : ∀ l ∈ t.lanes, (laneAddress b x 0 f l).toNat % f.bytes = 0) {u : State}
    (logged : (if decide (1 ≤ s.levelOf t) = true then
        M.buffer t (reduceEntries t op f d (decide (1 ≤ s.levelOf t)) place)
      else M.append t (reduceEntries t op f d (decide (1 ≤ s.levelOf t)) place)) w = .ok () u) :
    reduction op base ix vd f t s = .ok .next (u.modTeam t.id fun u => { u with order := u.order + 1 }) := by
  obtain ⟨hp, -, hpub, hdefer⟩ := hu
  have htw : w.team? t.id = some t := (State.team?_of_bare reach.bare t.id).trans ht
  rw [← M.toLog_of_nil ((State.defer_of_bare reach.bare).trans hdefer) t (decide (1 ≤ s.levelOf t))
    (touches f.bytes (homePlaces place t.lanes))] at logged
  unfold reduction
  rw [M.bind_ok (M.storeAddresses_run ht hb hx hc hd)]
  dsimp only
  rw [M.bind_ok (M.aligned_run aligned s), M.bind_ok (M.countable_of_lt hap s), M.bind_ok (M.places_run reach)]
  dsimp only
  rw [M.bind_ok (M.inOrder_of_nil htw hp _),
    M.bind_ok (M.recordPending_of_nil htw ((State.pendPubs_of_bare reach.bare).trans hpub)), M.bind_ok (M.get_run w),
    State.levelOf_of_bare reach.bare]
  have entries := reduceEntries_eq t op f d (decide (1 ≤ s.levelOf t)) place
  exact M.bind_ok ((congrArg (fun es => M.toLog t _ (touches f.bytes (homePlaces place t.lanes)) es w) entries).trans
    logged)

end

/-- Settles O21: stores append what `storeEntries` makes of the lanes' places (`store_run`), reductions append or buffer
one entry for each lane (`reduction_run`). -/
theorem storesAndReductionsAppend : Obligations.StoresAndReductionsAppend := by
  unfold Obligations.StoresAndReductionsAppend
  intro s w t base ix vd f off b x d place v appended buffered hi hu hap hb hx hd hc
  have ht := s.team?_of_issuer t hi
  refine ⟨fun reach room few => ?_, fun reach aligned => ?_⟩
  · obtain ⟨mem, poison⟩ := State.memory_appends t _ w
    exact ⟨State.effect_of_issue hi rfl (store_run ht hu hap hb hx hd hc reach rfl room few), mem, poison⟩
  · intro es adds
    have htw : w.team? t.id = some t := (State.team?_of_bare reach.bare t.id).trans ht
    have run {i : Instr} (op : BitVec 4) (hx' : exec i s = issue 4 (reduction op base ix vd f) s) : adds i op := by
      refine ⟨fun level room few => ⟨?_, (State.memory_appends t _ w).1⟩, fun level room few =>
        ⟨?_, State.mem_buffers t _ w⟩⟩
      · have low : decide (1 ≤ s.levelOf t) = false := decide_eq_false (by omega)
        refine State.effect_of_issue hi hx' (reduction_run ht hu hap hb hx hd hc op reach aligned ?_)
        rw [if_neg (by simp [low])]
        exact M.append_run htw hu.1 room few
      · refine State.effect_of_issue hi hx' (reduction_run ht hu hap hb hx hd hc op reach aligned ?_)
        rw [if_pos (decide_eq_true level)]
        exact M.buffer_run htw hu.1 room few
    exact ⟨run 0 rfl, run 1 rfl, run 2 rfl, run 3 rfl, run 4 rfl, run 5 rfl⟩

end Sys2Proof.Machine

/-!
Returning atomics (R206, R207, R209): one element at its home, the new values, and the lanes of an instruction.
-/

namespace Sys2Proof.Machine

/-! ## One element at its home (R209) -/

section
variable {s : State} {key n : Nat} (hs : s.staged = [])

/-- Taking over a granule that its key opens changes nothing but its holder (R114). -/
theorem State.takeOver_of_opens {tenant : Option (BitVec 8)} {g : Nat} (ho : (s.holder g).opens tenant = true) :
    ∃ held, s.takeOver tenant g = { s with held := held } := by
  unfold State.takeOver
  extract_lets h u
  have same : u = s := if_pos ho
  clear_value u h
  subst same
  split
  next t =>
    split
    · exact ⟨u.held, rfl⟩
    · exact ⟨setHeld g (.tenant t) u.held, rfl⟩
  · exact ⟨setHeld g .system u.held, rfl⟩
  · exact ⟨u.held, rfl⟩

include hs

/-- A write of part of a granule without poison leaves its poison (R115). -/
theorem State.granWrite_part (g : Nat) (data : List Byte) {mask : BitVec 32} (hm : mask ≠ 0xFFFFFFFF) :
    (s.granWrite g data mask false).poison = s.poison ∧ (s.granWrite g data mask false).mem =
      ((data.zipIdx 0).filter fun p => mask.getLsbD p.2).foldl (fun m p => Memory.write m (g + p.2) p.1) s.mem := by
  have invalidated : (s.backInvalidate g).poison = s.poison ∧ (s.backInvalidate g).mem = s.mem := by
    unfold State.backInvalidate
    split
    · exact ⟨rfl, rfl⟩
    · exact ⟨rfl, rfl⟩
  unfold State.granWrite
  rw [State.settle_of_staged_nil hs, beq_eq_false_iff_ne.mpr hm, if_neg Bool.false_ne_true, if_neg Bool.false_ne_true,
    invalidated.2]
  exact ⟨invalidated.1, rfl⟩

variable (h0 : 0 < n) (hn : bareKey key % 32 + n ≤ 32)
  (ho : (s.holder (granule (bareKey key))).opens (tenantOfKey key) = true)
include h0 hn ho

/-- A read at home within one granule. -/
theorem State.homeRead_granule :
    s.homeRead key n = (Memory.readBytes s.mem (bareKey key) n, s.poisoned (granule (bareKey key)), s) := by
  unfold State.homeRead
  dsimp only
  rw [granulesOf_of_le h0 hn, State.settleAll_of_staged_nil hs, if_pos (by simpa using ho)]
  simp

/-- A write at home within one granule and short of it. -/
theorem State.homeWrite_granule {bs : List Byte} (hb : bs.length = n) (part : n < 32) :
    (s.homeWrite key bs).poison = s.poison ∧ (s.homeWrite key bs).mem = Memory.writeBytes s.mem (bareKey key) bs := by
  have whole : bs.take (32 - bareKey key % 32) = bs := List.take_of_length_le (by omega)
  have rest : bs.drop (32 - bareKey key % 32) = [] := List.drop_of_length_le (by omega)
  have cut : cutGranules (bs.length + 1) (bareKey key) bs =
      [(granule (bareKey key), List.replicate (bareKey key % 32) 0 ++ bs, byteMask (bareKey key % 32) n)] := by
    cases bs with
    | nil => exact absurd hb (Nat.ne_of_lt h0)
    | cons b bs =>
      rw [cutGranules, whole, rest, hb]
      · cases n with
        | zero => exact absurd h0 (Nat.lt_irrefl 0)
        | succ n => rfl
      · exact List.cons_ne_nil b bs
  have mask : byteMask (bareKey key % 32) n ≠ 0xFFFFFFFF := by
    intro full
    have first := congrArg (fun m : BitVec 32 => m.getLsbD 0) full
    have last := congrArg (fun m : BitVec 32 => m.getLsbD 31) full
    simp only [getLsbD_byteMask] at first last
    simp at first last
    omega
  obtain ⟨held, taken⟩ := State.takeOver_of_opens ho
  have written := State.granWrite_part (s := { s with held := held }) hs (granule (bareKey key))
    (List.replicate (bareKey key % 32) 0 ++ bs) mask
  have bytes := filter_byteMask (k := bareKey key % 32) (pre := List.replicate (bareKey key % 32) 0) (bs := bs)
    (post := []) List.length_replicate hb hn
  rw [List.append_nil] at bytes
  unfold State.homeWrite State.streamWrite
  rw [cut]
  show ((s.takeOver _ _).granWrite _ _ _ false).poison = _ ∧ ((s.takeOver _ _).granWrite _ _ _ false).mem = _
  rw [taken, written.1, written.2, bytes, foldl_write_zipIdx,
    show granule (bareKey key) + bareKey key % 32 = bareKey key by unfold granule; omega]
  exact ⟨rfl, rfl⟩

end

theorem State.atomicAt_granule {s : State} {key : Nat} {f : Fmt} (op : BitVec 4) (v w : BitVec 64) (hs : s.staged = [])
    (hf : f.bytes = 4 ∨ f.bytes = 8) (ha : bareKey key % f.bytes = 0)
    (ho : (s.holder (granule (bareKey key))).opens (tenantOfKey key) = true) :
    let old := natOfBytes (Memory.readBytes s.mem (bareKey key) f.bytes)
    let r := s.atomicAt key op f v w
    r.1 = old ∧ r.2.1 = s.poisoned (granule (bareKey key)) ∧ r.2.2.poison = s.poison ∧
      r.2.2.mem = if s.poisoned (granule (bareKey key)) then s.mem
        else Memory.writeBytes s.mem (bareKey key) (bytesOf f.bytes (atomicOp op.toNat f old v.toNat w.toNat)) := by
  have within : 0 < f.bytes ∧ bareKey key % 32 + f.bytes ≤ 32 ∧ f.bytes < 32 := by
    rcases hf with h | h <;> rw [h] at ha ⊢ <;> omega
  obtain ⟨h0, hn, part⟩ := within
  unfold State.atomicAt
  rw [State.homeRead_granule hs h0 hn ho]
  dsimp only
  cases bad : s.poisoned (granule (bareKey key)) with
  | true => exact ⟨rfl, rfl, rfl, rfl⟩
  | false =>
    have length (x : Nat) : (bytesOf f.bytes x).length = f.bytes := by simp
    obtain ⟨poison, mem⟩ := State.homeWrite_granule hs h0 hn ho (length (atomicOp op.toNat f
      (natOfBytes (Memory.readBytes s.mem (bareKey key) f.bytes)) v.toNat w.toNat)) part
    exact ⟨rfl, rfl, poison, mem⟩

/-! ## New values (R207) -/

section
variable {f : Fmt} {sg : Bool} {n o v w : Nat}

/-- A 32- or 64-bit integer format has no floating one, and its width is its bits. -/
theorem Fmt.of_intShape (h : f.intShape = some (sg, n)) : f.float = none ∧ f.bits = n := by
  cases f <;> cases h <;> exact ⟨rfl, rfl⟩

theorem wrapBits_intOf (ho : o < 2 ^ n) : wrapBits n (intOf sg n o) = o := by
  have same := ofInt_intOf sg (BitVec.ofNat n o)
  rw [BitVec.toNat_ofNat, Nat.mod_eq_of_lt ho] at same
  rw [wrapBits_eq, same, BitVec.toNat_ofNat, Nat.mod_eq_of_lt ho]

theorem intArith_add_of_lt (ho : o < 2 ^ n) (hv : v < 2 ^ n) : intArith .add sg n o v = (o + v) % 2 ^ n := by
  have first := ofInt_intOf sg (BitVec.ofNat n o)
  have second := ofInt_intOf sg (BitVec.ofNat n v)
  rw [BitVec.toNat_ofNat, Nat.mod_eq_of_lt ho] at first
  rw [BitVec.toNat_ofNat, Nat.mod_eq_of_lt hv] at second
  rw [intArith, wrapBits_eq, BitVec.ofInt_add, first, second, ← BitVec.ofNat_add, BitVec.toNat_ofNat]

section
variable (h : f.intShape = some (sg, n))
include h

/-- Sum, minimum and maximum of an integer format. -/
theorem reduceOp_int : reduceOp 0 f o v = intArith .add sg n o v ∧ reduceOp 1 f o v = intArith .min sg n o v ∧
    reduceOp 2 f o v = intArith .max sg n o v := by
  obtain ⟨none, -⟩ := Fmt.of_intShape h
  unfold reduceOp
  rw [none, h]
  exact ⟨rfl, rfl, rfl⟩

theorem reduceOp_bitwise : reduceOp 3 f o v = (o &&& v) % 2 ^ n ∧ reduceOp 4 f o v = (o ||| v) % 2 ^ n ∧
    reduceOp 5 f o v = (o ^^^ v) % 2 ^ n := by
  obtain ⟨none, bits⟩ := Fmt.of_intShape h
  unfold reduceOp
  rw [none, bits]
  exact ⟨rfl, rfl, rfl⟩

end

theorem atomicOp_eq_reduceOp {k : Nat} (hk : k < 6) : atomicOp (8 + k) f o v w = reduceOp k f o v := by
  unfold atomicOp
  rw [if_neg (by omega), if_neg (by omega), Nat.add_sub_cancel_left]

/-- The new values of an integer format. -/
theorem atomicOp_int (h : f.intShape = some (sg, n)) (ho : o < 2 ^ n) (hv : v < 2 ^ n) (hw : w < 2 ^ n) :
    atomicOp 8 f o v w = (o + v) % 2 ^ n ∧
    atomicOp 9 f o v w = (if intOf sg n o ≤ intOf sg n v then o else v) ∧
    atomicOp 10 f o v w = (if intOf sg n v ≤ intOf sg n o then o else v) ∧
    atomicOp 11 f o v w = (o &&& v) ∧ atomicOp 12 f o v w = (o ||| v) ∧ atomicOp 13 f o v w = (o ^^^ v) ∧
    atomicOp 14 f o v w = v ∧ atomicOp 15 f o v w = if o = v then w else o := by
  obtain ⟨add, min_, max_⟩ := reduceOp_int (o := o) (v := v) h
  obtain ⟨and_, or_, xor_⟩ := reduceOp_bitwise (o := o) (v := v) h
  obtain ⟨-, bits⟩ := Fmt.of_intShape h
  refine ⟨?_, ?_, ?_, ?_, ?_, ?_, ?_, ?_⟩
  · exact (atomicOp_eq_reduceOp (k := 0) (by omega)).trans (add.trans (intArith_add_of_lt ho hv))
  · refine (atomicOp_eq_reduceOp (k := 1) (by omega)).trans (min_.trans ?_)
    rw [intArith_min, apply_ite (wrapBits n), wrapBits_intOf ho, wrapBits_intOf hv]
  · refine (atomicOp_eq_reduceOp (k := 2) (by omega)).trans (max_.trans ?_)
    rw [intArith, max_comm, max_def, apply_ite (wrapBits n), wrapBits_intOf ho, wrapBits_intOf hv]
  · exact (atomicOp_eq_reduceOp (k := 3) (by omega)).trans (and_.trans (Nat.mod_eq_of_lt (Nat.and_lt_two_pow o hv)))
  · exact (atomicOp_eq_reduceOp (k := 4) (by omega)).trans (or_.trans (Nat.mod_eq_of_lt (Nat.or_lt_two_pow ho hv)))
  · exact (atomicOp_eq_reduceOp (k := 5) (by omega)).trans (xor_.trans (Nat.mod_eq_of_lt (Nat.xor_lt_two_pow ho hv)))
  · rw [atomicOp, if_pos rfl, bits, Nat.mod_eq_of_lt hv]
  · rw [atomicOp, if_neg (by omega), if_pos rfl, bits, Nat.mod_eq_of_lt ho, Nat.mod_eq_of_lt hv, Nat.mod_eq_of_lt hw]

/-- The new values of `f32` and `f64`. -/
theorem atomicOp_float {F : FloatFmt} (h : f.float = some F) :
    atomicOp 8 f o v w = F.round ((F.value o).add .rne (F.value v)) .rne 0 ∧
    atomicOp 9 f o v w = floatMinMax F false o v ∧ atomicOp 10 f o v w = floatMinMax F true o v ∧
    (v < 2 ^ f.bits → atomicOp 14 f o v w = v) := by
  have reduce : reduceOp 0 f o v = floatArith .add F .rne o v ∧ reduceOp 1 f o v = floatMinMax F false o v ∧
      reduceOp 2 f o v = floatMinMax F true o v := by
    unfold reduceOp
    rw [h]
    exact ⟨rfl, rfl, rfl⟩
  obtain ⟨add, min_, max_⟩ := reduce
  refine ⟨?_, ?_, ?_, fun hv => ?_⟩
  · exact (atomicOp_eq_reduceOp (k := 0) (by omega)).trans add
  · exact (atomicOp_eq_reduceOp (k := 1) (by omega)).trans min_
  · exact (atomicOp_eq_reduceOp (k := 2) (by omega)).trans max_
  · rw [atomicOp, if_pos rfl, Nat.mod_eq_of_lt hv]

end

/-! ## The lanes of an instruction (R209) -/

/-- The atomics performed are those of the lanes, in their order. -/
theorem State.fst_performAtomic (op : BitVec 4) (f : Fmt) (lanes : List (Nat × BitVec 64 × BitVec 64))
    (keys : List (Nat × Nat)) (s : State) : (s.performAtomic op f lanes keys).1.map Prod.fst = lanes.map Prod.fst := by
  induction lanes generalizing s with
  | nil => rfl
  | cons p lanes ih => exact congrArg (p.1 :: ·) (ih _)

/-- What a list with one value for each of some lanes holds for a lane. -/
theorem Loaded.find?_of_mem {xs : Loaded} (nodup : (xs.map Prod.fst).Nodup) {x : Nat × Nat × Bool} (h : x ∈ xs) :
    xs.find? (fun y => y.1 == x.1) = some x := by
  induction xs with
  | nil => exact nomatch h
  | cons y ys ih =>
    obtain ⟨fresh, nodup⟩ := List.nodup_cons.mp nodup
    rw [List.find?_cons]
    rcases List.mem_cons.mp h with rfl | h
    · rw [beq_self_eq_true]
    · have other : y.1 ≠ x.1 := fun e => fresh (e ▸ List.mem_map_of_mem h)
      rw [beq_eq_false_iff_ne.mpr other]
      exact ih nodup h

/-- Loaded values of the active lanes, in their order, give their bits and poison. -/
theorem View.loaded_of_mem (v : View) (f : Fmt) {xs : Loaded} (hl : xs.map Prod.fst = v.team.lanes)
    {x : Nat × Nat × Bool} (h : x ∈ xs) :
    (v.loaded f xs).val x.1 = x.2.1 % 2 ^ (if (Tag.fmt f).isPair then 64 else 32) ∧
      (v.loaded f xs).lo.poison.getLsbD x.1 = x.2.2 := by
  have nodup : (xs.map Prod.fst).Nodup := hl ▸ v.team.pairwise_lanes.imp Nat.ne_of_lt
  have lane : x.1 ∈ v.team.lanes := hl ▸ List.mem_map_of_mem h
  obtain ⟨size, active⟩ := Team.mem_lanes.mp lane
  have bits : Loaded.bits xs x.1 = x.2.1 := by rw [Loaded.bits, Loaded.find?_of_mem nodup h]; rfl
  have bad : Loaded.bad xs x.1 = x.2.2 := by rw [Loaded.bad, Loaded.find?_of_mem nodup h]; rfl
  constructor
  · rw [View.loaded, View.moved_val _ _ _ _ size active, bits]
  · show (maskOf _ &&& v.active).getLsbD x.1 = x.2.2
    rw [BitVec.getLsbD_and, getLsbD_maskOf_lanes v.team _ size, bad, active,
      show v.active.getLsbD x.1 = true from active, Bool.true_and, Bool.and_true]

/-- The keys of the lanes' elements. -/
def homeKeys (place : Nat → List (Nat × Nat)) (ls : List Nat) : List (Nat × Nat) :=
  ls.filterMap fun l => (place l).head?.map fun p => (l, p.1)

theorem homeKeys_eq (place : Nat → List (Nat × Nat)) (ls : List Nat) :
    (homePlaces place ls).filterMap (fun p =>
      match p.2 with
      | .home ((key, _) :: _) => some (p.1, key)
      | _ => none) = homeKeys place ls := by
  unfold homePlaces homeKeys
  rw [List.filterMap_map]
  refine List.filterMap_congr fun l _ => ?_
  rw [Function.comp_apply]
  cases place l with
  | nil => rfl
  | cons p ps => rfl

/-- Where no entry has to be published first none is (R209). -/
theorem State.publishFor_of_none {s : State} {t : Team} {keys : List (Nat × Nat)}
    (h : ∀ k ∈ keys, s.mustPublish t (granule (bareKey k.2)) = false) : s.publishFor t keys = s := by
  unfold State.publishFor
  induction keys with
  | nil => rfl
  | cons k ks ih =>
    rw [List.foldl_cons, h k List.mem_cons_self, if_neg Bool.false_ne_true]
    exact ih fun j hj => h j (List.mem_cons_of_mem k hj)

/-- The state after the lanes' atomics, with their old values: what is visible to the core is applied first. -/
def State.atomicsDone (w : State) (t : Team) (op : BitVec 4) (f : Fmt) (c swap : Src) (keys : List (Nat × Nat)) :
    List (Nat × Nat × Bool) × State :=
  (w.showTo t.core (keyGranules keys)).performAtomic op f
    (t.lanes.map fun l => (l, BitVec.ofNat 64 (c.val l), BitVec.ofNat 64 (swap.val l))) keys

section
variable {s w : State} {t : Team} {base : BitVec 4} {ix : VSrc} {vd : BitVec 6} {f : Fmt} {b : Word} {x c swap : Src}
  {place : Nat → List (Nat × Nat)} {op : BitVec 4} (ht : s.team? t.id = some t) (hu : s.Undelayed t)
  (hcount : t.counter 0 < 63) (hpass : s.Passes t) (hb : (s.viewOf t).readBase base = .ok b)
  (hx : (s.viewOf t).readOneOf posIX ix [.s32, .n32] = .ok x)
  (ha : (s.viewOf t).atomOperands (op == 15) vd f = .ok (c, swap)) (hc : (s.viewOf t).consume [x, c, swap] = .ok ())
  (aligned : ∀ l ∈ t.lanes, (laneAddress b x 0 f l).toNat % f.bytes = 0)
  (reach : s.Reaches t .atomic f.bytes (t.lanes.map fun l => (l, laneAddress b x 0 f l)) place w)
  (fresh : ∀ k ∈ homeKeys place t.lanes, w.mustPublish t (granule (bareKey k.2)) = false)
include ht hu hcount hpass hb hx ha hc aligned reach fresh

theorem atomic_run : atomic op base ix vd f t s = .ok .next
    ((w.atomicsDone t op f c swap (homeKeys place t.lanes)).2.putView
      (((w.atomicsDone t op f c swap (homeKeys place t.lanes)).2.viewOf t).put vd false
        (((w.atomicsDone t op f c swap (homeKeys place t.lanes)).2.viewOf t).loaded f
          ((w.atomicsDone t op f c swap (homeKeys place t.lanes)).1.map fun o => (o.1, f.place o.2.1, o.2.2))))) := by
  obtain ⟨hp, -, hpub, hdefer⟩ := hu
  have htw : w.team? t.id = some t := (State.team?_of_bare reach.bare t.id).trans ht
  have operands : M.read t (fun v => do
      let (b, i) ← v.memOperands base ix
      let (c, w) ← v.atomOperands (op == 15) vd f
      v.consume [i, c, w]
      return (v.addresses b i 0 f, c, w)) s = .ok (t.lanes.map fun l => (l, laneAddress b x 0 f l), c, swap) s := by
    refine M.read_ok _ ht ?_
    rw [View.memOperands_ok hb hx, Encoding.bind_ok]
    dsimp only
    rw [ha, Encoding.bind_ok]
    dsimp only
    rw [hc, Encoding.bind_ok, View.addresses_eq]
    rfl
  have shown : (w.showTo t.core (keyGranules (homeKeys place t.lanes))).bare = s.bare :=
    (w.bare_showTo _ _).trans reach.bare
  have done := State.bare_performAtomic op f
    (t.lanes.map fun l => (l, BitVec.ofNat 64 (c.val l), BitVec.ofNat 64 (swap.val l))) (homeKeys place t.lanes)
    (w.showTo t.core (keyGranules (homeKeys place t.lanes)))
  have found := (State.team?_of_bare (done.trans shown) t.id).trans ht
  have lanes : (homePlaces place t.lanes).map (fun p =>
      (p.1, BitVec.ofNat 64 (c.val p.1), BitVec.ofNat 64 (swap.val p.1))) =
      t.lanes.map fun l => (l, BitVec.ofNat 64 (c.val l), BitVec.ofNat 64 (swap.val l)) := by
    unfold homePlaces
    rw [List.map_map]
    rfl
  unfold atomic
  rw [M.bind_ok operands]
  dsimp only
  rw [M.bind_ok (M.aligned_run aligned s), M.bind_ok (M.countable_of_lt hcount s), M.bind_ok (M.gate_of_passes hpass),
    M.bind_ok (M.places_run reach)]
  dsimp only
  rw [M.bind_ok (M.inOrder_of_nil htw hp _),
    M.bind_ok (M.recordPending_of_nil htw ((State.pendPubs_of_bare reach.bare).trans hpub))]
  generalize hk : List.filterMap (β := Nat × Nat) _ (homePlaces place t.lanes) = keys
  obtain rfl : keys = homeKeys place t.lanes := hk.symm.trans (homeKeys_eq place t.lanes)
  rw [lanes, M.bind_ok (M.modify_run _ w), State.completeWhere_of_nil htw hp, M.bind_ok (M.modify_run _ w),
    State.publishFor_of_none fresh, M.bind_ok (M.remoteAnswer_run reach shown _ _),
    M.bind_ok (M.leaves_run reach shown hdefer), M.bind_ok (M.get_run _), Bool.false_and, if_neg Bool.false_ne_true,
    M.bind_ok (M.get_run _), M.bind_ok (M.set_run _ _)]
  exact M.bind_ok (M.regs_of_found (fun v => .ok (v.put vd false (v.loaded f _))) found rfl)

/-- The values a returning atomic puts in its lanes are the old ones. -/
theorem State.effect_of_atomic {i : Instr} (hi : s.issuer? = some t) (hexec : exec i s = issue 4 (atomic op base ix vd f) s) :
    ∃ r : Res, s.Effect t i ((w.atomicsDone t op f c swap (homeKeys place t.lanes)).2.putView
        (((w.atomicsDone t op f c swap (homeKeys place t.lanes)).2.viewOf t).put vd false r)) ∧
      r.tagged (.fmt f) ∧ r.hi.isSome = f.isPair ∧
      ∀ o ∈ (w.atomicsDone t op f c swap (homeKeys place t.lanes)).1,
        r.val o.1 = f.place o.2.1 % 2 ^ (if f.isPair then 64 else 32) ∧ r.lo.poison.getLsbD o.1 = o.2.2 := by
  have run := atomic_run ht hu hcount hpass hb hx ha hc aligned reach fresh
  obtain ⟨tagged, high⟩ := View.moved_tagged ((w.atomicsDone t op f c swap (homeKeys place t.lanes)).2.viewOf t)
    (.fmt f) _ _
  refine ⟨_, State.effect_of_issue hi hexec run, tagged, high, fun o ho => ?_⟩
  have same : ((w.atomicsDone t op f c swap (homeKeys place t.lanes)).1.map fun o => (o.1, f.place o.2.1, o.2.2)).map
      Prod.fst = t.lanes := by
    have lanes := State.fst_performAtomic op f
      (t.lanes.map fun l => (l, BitVec.ofNat 64 (c.val l), BitVec.ofNat 64 (swap.val l))) (homeKeys place t.lanes)
      (w.showTo t.core (keyGranules (homeKeys place t.lanes)))
    rw [List.map_map] at lanes ⊢
    exact lanes.trans (List.map_id t.lanes)
  exact View.loaded_of_mem _ f same (List.mem_map_of_mem ho)

end

/-- Settles O23: the instruction (`State.effect_of_atomic`), one element at its home (`State.atomicAt_granule`), and the
new values (`atomicOp_int`, `atomicOp_float`, `atomicOp_eq_reduceOp`). -/
theorem atomicsAtTheirHome : Obligations.AtomicsAtTheirHome := by
  unfold Obligations.AtomicsAtTheirHome
  refine ⟨?_, ?_, ?_, ?_, ?_⟩
  · intro s w t base ix vd f b x c swap place cas v keys hi hu hcount hpass hb hx ha hc aligned reach fresh performs
    have ht := s.team?_of_issuer t hi
    have perform {i : Instr} (op : BitVec 4) (hop : (op == 15) = cas)
        (hexec : exec i s = issue 4 (atomic op base ix vd f) s) : performs i op :=
      State.effect_of_atomic ht hu hcount hpass hb hx (hop.symm ▸ ha) hc aligned reach fresh hi hexec
    refine ⟨fun hcas => ?_, fun hcas => perform 15 hcas.symm rfl⟩
    exact ⟨perform 8 hcas.symm rfl, perform 9 hcas.symm rfl, perform 10 hcas.symm rfl, perform 11 hcas.symm rfl,
      perform 12 hcas.symm rfl, perform 13 hcas.symm rfl, perform 14 hcas.symm rfl⟩
  · intro s key op f v w k hs hf ha ho
    exact State.atomicAt_granule op v w hs hf ha ho
  · intro f sg n o v w hshape _ ho hv hw
    exact atomicOp_int hshape ho hv hw
  · intro F f o v w hf
    have shape : f.float = some F := by
      rcases hf with ⟨rfl, rfl⟩ | ⟨rfl, rfl⟩
      · rfl
      · rfl
    exact atomicOp_float shape
  · intro k f o v w hk
    exact atomicOp_eq_reduceOp hk

end Sys2Proof.Machine

/-!
Copies and their batches (R112, R218 to R220, R279): the issue of a copy whose channel accepts it at once, `cbseal` and
`cbwait`.
-/

namespace Sys2Proof.Machine

/-! ## Channels, tiles and scratchpads -/

theorem State.chan?_putChan {s : State} {c d : Chan} (h : s.chan? c.id = some d) : (s.putChan c).chan? c.id = some c :=
  find?_setWhere (p := fun d : Chan => d.id == c.id) (beq_self_eq_true _) h

theorem State.chan?_putChan_ne (s : State) {c : Chan} {id : Nat} (h : id ≠ c.id) : (s.putChan c).chan? id = s.chan? id := by
  refine find?_setWhere_ne s.chans (fun y hy => ?_) (beq_eq_false_iff_ne.mpr (Ne.symm h))
  rw [beq_iff_eq.mp hy]
  exact beq_eq_false_iff_ne.mpr (Ne.symm h)

theorem Core.tile_setTile (c : Core) (k : BitVec 8) (x : Tile) : (c.setTile k x).tile k = x := by
  unfold Core.tile Core.setTile
  rw [List.find?_cons, beq_self_eq_true]
  rfl

theorem State.scratch_append (s : State) (t : Team) (e : LogEntry) (n : Nat) :
    ((s.append t e).core n).scratch = (s.core n).scratch := by
  have entry (e : LogEntry) : ((s.appendEntry t.core e).core n).scratch = (s.core n).scratch := by
    by_cases own : n = t.core
    · subst own
      have put := State.core_putCore s ((s.core t.core).withEntry e).spill
      rw [State.n_spill_withEntry] at put
      rw [State.appendEntry_eq, put]
      obtain ⟨k, spilled⟩ := ((s.core t.core).withEntry e).spill_eq
      rw [spilled]
      rfl
    · rw [State.core_appendEntry_ne _ _ _ own]
  unfold State.append
  dsimp only
  split
  · exact entry _
  · exact entry _

theorem State.scratch_appends (t : Team) (n : Nat) (es : List LogEntry) (s : State) :
    ((es.foldl (fun s e => s.append t e) s).core n).scratch = (s.core n).scratch := by
  induction es generalizing s with
  | nil => rfl
  | cons e es ih => exact (ih _).trans (s.scratch_append t e n)

theorem State.Walked.scratch {s u : State} (h : State.Walked s u) (n : Nat) : (u.core n).scratch = (s.core n).scratch :=
  (congrArg (fun c : Core => c.scratch) (h.core n) :)

/-- The segments of a copy leave what a translation leaves (R102, R218). -/
theorem M.walked_segments {c : Chan} {r : Run} {va src : Word} {n limit : Nat} {space : BitVec 8} {eng copy : Bool}
    {s u : State} {es : List LogEntry} {fault : Option (BitVec 9 × Word)}
    (h : M.segments c r va n src space eng copy s = .ok (es, limit, fault) u) : State.Walked s u := by
  have walked := State.walked_translateUpTo (r.ctx c) .store (cutRange (n / 32 + 2) va n) s
  unfold M.segments at h
  rw [M.bind_ok (M.get_run s)] at h
  generalize s.translateUpTo (r.ctx c) .store (cutRange (n / 32 + 2) va n) = result at h walked
  obtain ⟨parts, e, w⟩ := result
  dsimp only at h walked
  rw [M.bind_ok (M.set_run s w)] at h
  cases e with
  | none =>
    cases h
    exact walked
  | some e =>
    obtain ⟨stop, at_⟩ := e
    cases stop with
    | fault code level =>
      cases h
      exact walked
    | absent pa => cases h

/-! ## The issue of a copy (R218) -/

/-- A team that has issued one more command, a copy. -/
def Team.withCopy (t : Team) (x : CopyRec) : Team :=
  { t with en := t.en + 1, openCopies := t.openCopies + 1, copies := t.copies ++ [x] }

/-- A copy of no bytes leaves its tile ready at once (R218). -/
def State.readied (s : State) (f : Family) (x : Word) : State :=
  if (copyLen x == 0 && copyTv x) = true then s.tileTo f.core (copyTile x) .ready else s

/-- A channel's run takes the next number (R279). -/
def Run.numbered (r : Run) (c : Chan) : Run := { r with num := c.issued + 1 }

/-- A channel that has accepted a run. -/
def Chan.took (c : Chan) (r : Run) : Chan := { c with issued := c.issued + 1, runs := c.runs ++ [r.numbered c] }

/-- A log whose entries of a run bear its number. -/
def numberedLog (id : Nat) (num : Word) (log : List LogEntry) : List LogEntry :=
  log.map fun e => if e.runId == some id then { e with run := num } else e

/-- A team one of whose commands has been accepted, under a number. -/
def Team.withAccepted (id : Nat) (num : Word) (t : Team) : Team := ({ t with en := t.en - 1 } : Team).numbered id num

/-- The state after a channel with an empty queue has accepted a run (R279). -/
def State.accepted (s : State) (c : Chan) (r : Run) : State :=
  (((s.putChan { c with accept := [r] }).putChan (c.took r)).modTeam r.team
    (Team.withAccepted r.id (c.issued + 1))).modCore c.core fun d =>
      { d with log := numberedLog r.id (c.issued + 1) d.log }

section
variable {s : State} {c : Chan} {r : Run} (hc : s.chan? c.id = some c)
include hc

/-- A run that its channel accepts at once. -/
theorem State.acceptRun_putChan (hacc : c.accept = []) (room : c.open.length < 64) (hr : r.status = none) :
    (s.putChan { c with accept := c.accept ++ [r] }).acceptRun c.id = s.accepted c r := by
  have listed : ({ c with accept := c.accept ++ [r] } : Chan) = { c with accept := [r] } := by rw [hacc]; rfl
  have found : (s.putChan { c with accept := [r] }).chan? c.id = some { c with accept := [r] } :=
    State.chan?_putChan (c := { c with accept := [r] }) hc
  have may : ¬channelRuns ≤ ({ c with accept := [r] } : Chan).open.length := Nat.not_le.mpr room
  rw [listed]
  unfold State.acceptRun
  rw [found]
  dsimp only
  rw [if_neg may, hr, Option.isSome_none, if_neg Bool.false_ne_true]
  cases c
  cases r
  dsimp only at hacc hr
  subst hacc hr
  rfl

theorem State.chan?_accepted : (s.accepted c r).chan? c.id = some (c.took r) :=
  State.chan?_putChan (c := c.took r) (State.chan?_putChan (c := { c with accept := [r] }) hc)

omit hc in
theorem State.chan?_accepted_ne {id : Nat} (h : id ≠ c.id) : (s.accepted c r).chan? id = s.chan? id :=
  (State.chan?_putChan_ne (s.putChan { c with accept := [r] }) (c := c.took r) h).trans
    (State.chan?_putChan_ne s (c := { c with accept := [r] }) h)

end

section
variable (s : State) (c : Chan) (r : Run)

theorem State.team?_accepted :
    (s.accepted c r).team? r.team = (s.team? r.team).map (Team.withAccepted r.id (c.issued + 1)) :=
  State.team?_modTeam ((s.putChan { c with accept := [r] }).putChan (c.took r)) r.team
    (Team.withAccepted r.id (c.issued + 1)) fun _ => rfl

theorem State.core_accepted :
    (s.accepted c r).core c.core = { s.core c.core with log := numberedLog r.id (c.issued + 1) (s.core c.core).log } := by
  rw [State.accepted, State.core_modCore]
  exact Core.with_n (s.core_n c.core)

theorem State.core_accepted_ne {n : Nat} (h : n ≠ c.core) : (s.accepted c r).core n = s.core n := by
  rw [State.accepted, State.core_modCore_ne _ _ _ _ h]
  rfl

theorem State.memory_accepted : (s.accepted c r).mem = s.mem ∧ (s.accepted c r).poison = s.poison := ⟨rfl, rfl⟩

/-- Of a core only the log changes. -/
theorem State.scratch_accepted (n : Nat) :
    ((s.accepted c r).core n).scratch = (s.core n).scratch ∧ ((s.accepted c r).core n).tiles = (s.core n).tiles := by
  by_cases own : n = c.core
  · subst own
    rw [State.core_accepted]
    exact ⟨rfl, rfl⟩
  · rw [State.core_accepted_ne _ _ _ own]
    exact ⟨rfl, rfl⟩

end

section
variable (s : State) (f : Family) (x : Word)

theorem State.chan?_readied (id : Nat) : (s.readied f x).chan? id = s.chan? id := by
  unfold State.readied
  split
  · rfl
  · rfl

theorem State.team?_readied (id : Nat) : (s.readied f x).team? id = s.team? id := by
  unfold State.readied
  split
  · rfl
  · rfl

theorem State.memory_readied : (s.readied f x).mem = s.mem ∧ (s.readied f x).poison = s.poison := by
  unfold State.readied
  split
  · exact ⟨rfl, rfl⟩
  · exact ⟨rfl, rfl⟩

theorem State.core_readied (n : Nat) : ((s.readied f x).core n).scratch = (s.core n).scratch ∧
    ((s.readied f x).core n).log = (s.core n).log := by
  unfold State.readied
  split
  · by_cases own : n = f.core
    · subst own
      rw [State.tileTo, State.core_modCore]
      exact ⟨rfl, rfl⟩
    · rw [State.tileTo, State.core_modCore_ne _ _ _ _ own]
      exact ⟨rfl, rfl⟩
  · exact ⟨rfl, rfl⟩

theorem State.tile_readied (hn : copyLen x = 0) (htv : copyTv x = true) :
    (((s.readied f x).core f.core).tile (copyTile x)).state = .ready := by
  have ready : (copyLen x == 0 && copyTv x) = true := by rw [hn, htv]; rfl
  rw [State.readied, if_pos ready, State.tileTo, State.core_modCore]
  exact congrArg Tile.state (Core.tile_setTile (s.core f.core) (copyTile x) _)

end

/-! ## The body of `copy` -/

/-- What a copy records at its team. -/
def copyRecord (run : Nat) (x : Word) : CopyRec :=
  { run := run, batch := none, glob := !toScratch (copyDir x) && copyLen x != 0, done := copyLen x == 0, fault := false }

/-- The state after a copy was recorded and its run accepted. -/
def State.copied (A : State) (t : Team) (f : Family) (x : Word) (rec : CopyRec) (c : Chan) (r : Run) : State :=
  ((A.modTeam t.id fun u => u.withCopy rec).readied f x).accepted c r

/-- The last part of `copy`: the entries, the record at the team, and the run. -/
def M.recordCopy (t : Team) (f : Family) (x : Word) (c : Chan) (r : Run) (es : List LogEntry) : M Done := do
  M.append t es
  modify fun s => s.modTeam t.id fun u => u.withCopy (copyRecord r.id x)
  if copyLen x == 0 && copyTv x then modify fun s => s.tileTo f.core (copyTile x) .ready
  let later ← M.later
  modify fun s =>
    let s := s.putChan { c with accept := c.accept ++ [r] }
    if later then s else s.acceptRun c.id
  return .next

theorem M.recordCopy_run {s : State} {t : Team} {f : Family} {x : Word} {c : Chan} {r : Run} {es : List LogEntry}
    (ht : s.team? t.id = some t) (hp : t.pend = []) (hd : (es.foldl (fun s e => s.append t e) s).defer = [])
    (hc : (es.foldl (fun s e => s.append t e) s).chan? c.id = some c) (hacc : c.accept = []) (hopen : c.open.length < 64)
    (room : es.length ≤ s.appendRoom t.core)
    (few : (es.foldl (fun s e => s.append t e) s).unpublishedOf t < unpublishedLimit) (hr : r.status = none) :
    M.recordCopy t f x c r es s =
      .ok .next ((es.foldl (fun s e => s.append t e) s).copied t f x (copyRecord r.id x) c r) := by
  have accepted (u : State) (hu : u.chan? c.id = some c) (hdu : u.defer = []) :
      (do
        let later ← M.later
        modify fun s =>
          let s := s.putChan { c with accept := c.accept ++ [r] }
          if later then s else s.acceptRun c.id
        return Done.next : M Done) u = .ok .next (u.accepted c r) := by
    rw [M.bind_ok (M.later_of_nil hdu), ← State.acceptRun_putChan hu hacc hopen hr]
    rfl
  unfold M.recordCopy
  rw [M.bind_ok (M.append_run ht hp room few), M.bind_ok (M.modify_run _ _)]
  generalize es.foldl (fun s e => s.append t e) s = A at hd hc
  unfold State.copied State.readied
  by_cases ready : (copyLen x == 0 && copyTv x) = true
  · rw [if_pos ready, if_pos ready]
    exact accepted ((A.modTeam t.id _).tileTo _ _ _) hc hd
  · rw [if_neg ready, if_neg ready]
    exact accepted (A.modTeam t.id _) hc hd

section
variable {s w1 : State} {t : Team} {g : Gang} {f : Family} {sn sd : BitVec 6} {sa : SSrc} {a x d : Word} {c : Chan}
  {es : List LogEntry} {limit : Nat} {fault : Option (BitVec 9 × Word)}

/-- The entries of a copy at issue: none for one to scratchpad or of no bytes. -/
def State.CopySegments (s : State) (t : Team) (f : Family) (a x d : Word) (c : Chan)
    (es : List LogEntry) (limit : Nat) (fault : Option (BitVec 9 × Word)) (w1 : State) : Prop :=
  if toScratch (copyDir x) = true ∨ copyLen x = 0 then
    es = [] ∧ limit = copyLen x ∧ fault = none ∧ w1 = { s with nextId := s.nextId + 1 }
  else M.segments c (Run.make s t s.nextId (.copy d a x (copyLen x)) 0) d (copyLen x)
    (if fromScratch (copyDir x) then BitVec.ofNat 64 (f.partBase + a.toNat) else a)
    (if fromScratch (copyDir x) then 1 else 0) false true { s with nextId := s.nextId + 1 } = .ok (es, limit, fault) w1

theorem State.CopySegments.walked (h : s.CopySegments t f a x d c es limit fault w1) :
    State.Walked { s with nextId := s.nextId + 1 } w1 := by
  unfold State.CopySegments at h
  split at h
  · obtain ⟨-, -, -, rfl⟩ := h
    exact .refl _
  · exact M.walked_segments h

variable (ht : s.team? t.id = some t) (hg : s.gangOf? t = some g) (hf : s.familyOf? t = some f) (hd : s.defer = [])
  (hpub : s.pendPubs = []) (hp : t.pend = []) (ha : (s.viewOf t).readS posSA sa = .ok a)
  (hx : (s.viewOf t).readS posSB (.s sn) = .ok x) (hdst : (s.viewOf t).readS posD (.s sd) = .ok d)
  (hcheck : copyCheck (s.core t.core) g f d a x = .ok ()) (hen : t.counter 2 < 63)
  (hchan : s.chanOf? f.uid .bce = some c) (hc : s.chan? c.id = some c) (hacc : c.accept = [])
  (hopen : c.open.length < 64) (hseg : s.CopySegments t f a x d c es limit fault w1)
  (room : es.length ≤ w1.appendRoom t.core)
  (few : (es.foldl (fun s e => s.append t e) w1).unpublishedOf t < unpublishedLimit)
include ht hg hf hd hpub hp ha hx hdst hcheck hen hchan hc hacc hopen hseg room few

theorem copyCommand_run : copyCommand sn sa sd t s = .ok .next
    ((es.foldl (fun s e => s.append t e) w1).copied t f x (copyRecord s.nextId x) c
      { Run.make s t s.nextId (.copy d a x (copyLen x)) 0 with kind := .copy d a x limit, fault := fault }) := by
  have walked := hseg.walked
  have htw : w1.team? t.id = some t := (State.team?_of_bare walked.bare t.id).trans ht
  have app : State.Appended t.id w1 (es.foldl (fun s e => s.append t e) w1) :=
    .foldl (fun u e => u.appended_append t e) es w1
  have hda : (es.foldl (fun s e => s.append t e) w1).defer = [] :=
    app.defer.trans ((State.defer_of_bare walked.bare).trans hd)
  have hca : (es.foldl (fun s e => s.append t e) w1).chan? c.id = some c :=
    (congrArg (fun s : State => s.chan? c.id) app.rest :).trans
      ((congrArg (fun s : State => s.chan? c.id) walked.bare :).trans hc)
  have operands : M.read t (fun v => do
      let a ← v.readS posSA sa
      let w ← v.readS posSB (.s sn)
      let d ← v.readS posD (.s sd)
      return (a, w, d)) s = .ok (a, x, d) s := by
    refine M.read_ok _ ht ?_
    rw [ha, Encoding.bind_ok, hx, Encoding.bind_ok, hdst, Encoding.bind_ok]
    rfl
  have family : M.family t s = .ok (g, f) s := by
    unfold M.family
    rw [M.bind_ok (M.get_run s), hg, hf]
    rfl
  have chan : s.chanFor f g.tenant .bce = (some c, s) := by rw [State.chanFor, hchan]
  unfold copyCommand
  rw [M.bind_ok operands]
  dsimp only
  rw [M.bind_ok family]
  dsimp only
  rw [M.bind_ok (M.get_run s), hcheck, M.bind_ok (M.lift_ok () s), M.bind_ok (M.countable_of_lt hen s),
    M.bind_ok (M.recordPending_of_nil ht hpub), M.bind_ok (M.appended_of_nil ht hp), M.bind_ok (M.get_run s), chan]
  dsimp only
  rw [M.bind_ok (M.set_run _ _)]
  have rest := M.recordCopy_run htw hp hda hca hacc hopen room few (f := f) (x := x)
    (r := { Run.make s t s.nextId (.copy d a x (copyLen x)) 0 with kind := .copy d a x limit, fault := fault }) rfl
  by_cases none_ : toScratch (copyDir x) = true ∨ copyLen x = 0
  · unfold State.CopySegments at hseg
    rw [if_pos none_] at hseg
    obtain ⟨rfl, rfl, rfl, rfl⟩ := hseg
    rw [if_pos (by simpa using none_)]
    exact rest
  · unfold State.CopySegments at hseg
    rw [if_neg none_] at hseg
    rw [if_neg (by simpa using none_)]
    exact (M.bind_ok hseg).trans rest

end

/-! ## What an issued copy leaves -/

section
variable {A : State} {t u : Team} {f : Family} {x : Word} {rec : CopyRec} {c : Chan} {r : Run}

theorem State.team?_copied (hu : A.team? t.id = some u) (hr : r.team = t.id) :
    ∃ v, (A.copied t f x rec c r).team? t.id = some v ∧ v.openCopies = u.openCopies + 1 ∧ v.copies = u.copies ++ [rec] := by
  have withCopy : (A.modTeam t.id fun u => u.withCopy rec).team? t.id = some (u.withCopy rec) := by
    rw [State.team?_modTeam A t.id (fun u => u.withCopy rec) fun _ => rfl, hu]
    rfl
  refine ⟨(u.withCopy rec).withAccepted r.id (c.issued + 1), ?_, rfl, rfl⟩
  rw [State.copied, ← hr, State.team?_accepted, State.team?_readied, hr, withCopy]
  rfl

theorem State.chan?_copied (hc : A.chan? c.id = some c) : (A.copied t f x rec c r).chan? c.id = some (c.took r) ∧
    ∀ id, id ≠ c.id → (A.copied t f x rec c r).chan? id = A.chan? id := by
  refine ⟨State.chan?_accepted ((State.chan?_readied _ f x c.id).trans hc), fun id other => ?_⟩
  exact (State.chan?_accepted_ne other).trans (State.chan?_readied _ f x id)

theorem State.memory_copied : (A.copied t f x rec c r).mem = A.mem ∧ (A.copied t f x rec c r).poison = A.poison := by
  obtain ⟨mem, poison⟩ := State.memory_readied (A.modTeam t.id fun u => u.withCopy rec) f x
  obtain ⟨mem', poison'⟩ := State.memory_accepted ((A.modTeam t.id fun u => u.withCopy rec).readied f x) c r
  exact ⟨mem'.trans mem, poison'.trans poison⟩

theorem State.scratch_copied (n : Nat) : ((A.copied t f x rec c r).core n).scratch = (A.core n).scratch :=
  (State.scratch_accepted _ c r n).1.trans (State.core_readied (A.modTeam t.id fun u => u.withCopy rec) f x n).1

theorem State.log_copied :
    ((A.copied t f x rec c r).core c.core).log = numberedLog r.id (c.issued + 1) (A.core c.core).log := by
  rw [State.copied, State.core_accepted]
  exact congrArg (numberedLog r.id (c.issued + 1))
    (State.core_readied (A.modTeam t.id fun u => u.withCopy rec) f x c.core).2

theorem State.tile_copied (hn : copyLen x = 0) (htv : copyTv x = true) :
    (((A.copied t f x rec c r).core f.core).tile (copyTile x)).state = .ready := by
  rw [Core.tile, State.copied, (State.scratch_accepted _ c r f.core).2]
  exact State.tile_readied _ f x hn htv

end

theorem numberedLog_eq (id : Nat) (num : Word) (log : List LogEntry) :
    numberedLog id num log = log.map fun e => if e.runId = some id then { e with run := num } else e := by
  simp only [numberedLog, beq_iff_eq]

/-! ## Batches (R112, R220) -/

/-- A team that has sealed its open batch. -/
def Team.sealing (t u : Team) : Team :=
  { u with
    sealed := t.sealed + 1, openCopies := 0
    copies := u.copies.map fun c => { c with batch := some (c.batch.getD (t.sealed + 1)) } }

theorem M.modTeam_run (id : Nat) (f : Team → Team) (s : State) : M.modTeam id f s = .ok () (s.modTeam id f) := rfl

theorem sealBatch_run {s : State} {t : Team} {sd : BitVec 6} (ht : s.team? t.id = some t)
    (hd : (s.viewOf t).checkS posD sd = .ok ()) :
    sealBatch sd t s = .ok .next ((s.modTeam t.id t.sealing).putView
      (((s.modTeam t.id t.sealing).viewOf (t.sealing t)).setS sd ((t.sealed + 1).setWidth 64))) := by
  have found : (s.modTeam t.id t.sealing).team? t.id = some (t.sealing t) := by
    rw [s.team?_modTeam t.id t.sealing fun _ => rfl, ht]
    rfl
  unfold sealBatch
  rw [M.bind_ok (M.read_ok _ ht hd)]
  refine (M.bind_ok (M.modTeam_run t.id t.sealing s)).trans ?_
  exact M.bind_ok (M.regs_of_found (fun v => .ok (v.setS sd ((t.sealed + 1).setWidth 64))) found rfl)

/-- The batch up to which `cbwait` waits. -/
def Team.waitsUpTo (t : Team) (a : Word) : BitVec 32 :=
  if genLe (a.extractLsb' 0 32) t.sealed then a.extractLsb' 0 32 else t.sealed

/-- The copies `cbwait` waits for. -/
def Team.due (t : Team) (a : Word) : List CopyRec := t.copies.filter fun c => c.upTo (t.waitsUpTo a)

/-- An unpublished entry of one of these copies. -/
def LogEntry.ofCopies (due : List CopyRec) (e : LogEntry) : Bool :=
  e.copy && e.unpublished && e.runId.any fun i => (due.map fun c => c.run).contains i

/-- What copies left unpublished is published at core scope and applied (R220). -/
def State.publishCopies (s : State) (t : Team) (due : List CopyRec) : State :=
  if (s.core t.core).log.any (LogEntry.ofCopies due) then
    let w := s.recordPub t .core fun e => e.coveredBy t.id t.tail || e.ofCopies due
    w.forceBelow w.pubSeq
  else s

section
variable {s : State} {t : Team} {sa : SSrc} {a : Word} (ht : s.team? t.id = some t) (hpass : s.Passes t)
  (ha : (s.viewOf t).readS posSA sa = .ok a) (hdone : ∀ c ∈ t.due a, c.done = true)
include ht hpass ha hdone

/-- A faulted copy among those waited for traps, once. -/
theorem waitBatches_trap {c : CopyRec} (hc : (t.due a).find? (fun c => c.fault) = some c) :
    waitBatches sa t s = .error (trapWith 0x194 ((c.batch.getD 0).setWidth 64)) (s.modTeam t.id fun u => { u with
      copies := u.copies.map fun d => if d.upTo (t.waitsUpTo a) then { d with fault := false } else d }) := by
  have complete : (t.due a).any (fun c => !c.done) = false := List.any_eq_false.mpr fun c hc => by simp [hdone c hc]
  unfold waitBatches
  rw [M.bind_ok (M.read_ok _ ht ha), M.bind_ok (M.gate_of_passes hpass)]
  dsimp only
  refine (M.bind_ok (M.stopIf_of_false complete _ s)).trans ?_
  unfold Team.due Team.waitsUpTo at hc
  rw [hc]
  rfl

/-- Without one, `cbwait` publishes and forgets the copies. -/
theorem waitBatches_run (hp : t.pend = []) (hpub : s.pendPubs = []) (hfault : ∀ c ∈ t.due a, c.fault = false) :
    waitBatches sa t s = .ok .next ((s.publishCopies t (t.due a)).modTeam t.id fun u => { u with
      copies := u.copies.filter fun c => !c.upTo (t.waitsUpTo a) }) := by
  have complete : (t.due a).any (fun c => !c.done) = false := List.any_eq_false.mpr fun c hc => by simp [hdone c hc]
  have clean : (t.due a).find? (fun c => c.fault) = none := List.find?_eq_none.mpr fun c hc => by simp [hfault c hc]
  unfold waitBatches
  rw [M.bind_ok (M.read_ok _ ht ha), M.bind_ok (M.gate_of_passes hpass)]
  dsimp only
  refine (M.bind_ok (M.stopIf_of_false complete _ s)).trans ?_
  unfold Team.due Team.waitsUpTo at clean
  rw [clean]
  dsimp only
  rw [M.bind_ok (M.bind_of_found ht hp), M.bind_ok (M.recordPending_of_nil ht hpub), M.bind_ok (M.get_run s)]
  unfold State.publishCopies
  by_cases some_ : (s.core t.core).log.any (LogEntry.ofCopies (t.due a)) = true
  · rw [if_pos some_]
    refine (congrFun (if_pos some_) s).trans ?_
    rw [ht]
    rfl
  · rw [if_neg some_]
    exact congrFun (if_neg some_) s

end

/-- Settles O36: `copyCommand_run` with what `State.copied` leaves, `sealBatch_run`, and `waitBatches_trap` and
`waitBatches_run`. -/
theorem copiesAndBatches : Obligations.CopiesAndBatches := by
  unfold Obligations.CopiesAndBatches
  intro s t g f sn sa sd a x d v hi hg hf hpass hd hpub hp
  have ht := s.team?_of_issuer t hi
  refine ⟨?_, fun hsd => State.effect_of_issue hi rfl (sealBatch_run ht hsd), fun ha hdone =>
    ⟨fun c hc => ?_, fun hfault => ?_⟩⟩
  · intro c w1 es limit fault ha hx hdst hcheck hen hchan hc hacc hopen r w0 hseg appended copied room few accepted
    have hseg : s.CopySegments t f a x d c es limit fault w1 := hseg
    have walked := hseg.walked
    have htw : w1.team? t.id = some t := (State.team?_of_bare walked.bare t.id).trans ht
    have app : State.Appended t.id w1 appended := .foldl (fun u e => u.appended_append t e) es w1
    obtain ⟨l, rs, hta⟩ := app.team t htw
    have chan (id : Nat) : appended.chan? id = s.chan? id :=
      (congrArg (fun s : State => s.chan? id) app.rest :).trans (congrArg (fun s : State => s.chan? id) walked.bare :)
    have scratch (n : Nat) : (appended.core n).scratch = (s.core n).scratch :=
      (State.scratch_appends t n es w1).trans (walked.scratch n)
    have run := copyCommand_run ht hg hf hd hpub hp ha hx hdst hcheck hen hchan hc hacc hopen hseg room few
    obtain ⟨u, hu, openCopies, copies⟩ := State.team?_copied (f := f) (x := x) (rec := copied) (c := c)
      (r := { r with kind := .copy d a x limit, fault := fault }) hta rfl
    obtain ⟨own, others⟩ := State.chan?_copied (t := t) (f := f) (x := x) (rec := copied)
      (r := { r with kind := .copy d a x limit, fault := fault }) ((chan c.id).trans hc)
    obtain ⟨mem, poison⟩ := State.memory_copied (A := appended) (t := t) (f := f) (x := x) (rec := copied) (c := c)
      (r := { r with kind := .copy d a x limit, fault := fault })
    obtain ⟨mem', poison'⟩ := State.memory_appends t es w1
    exact ⟨_, u, State.effect_of_issue hi rfl run, hu, openCopies, copies, own,
      fun id other => (others id other).trans (chan id), mem.trans mem', poison.trans poison',
      fun n => (State.scratch_copied n).trans (scratch n), State.tile_copied,
      State.log_copied.trans (numberedLog_eq _ _ _)⟩
  · exact issue_trap (len := 4) hi (waitBatches_trap ht hpass ha hdone hc)
  · exact State.effect_of_issue hi rfl (waitBatches_run ht hpass ha hdone hp hpub hfault)

end Sys2Proof.Machine

/-!
Full/empty accesses (R98, R211) on words in the state they want: the registers a reading one writes lane by lane, and the
service of its lanes one after the other.
-/

namespace Sys2Proof.Machine

/-! ## Registers written lane by lane (R203) -/

/-- A register holds an element of a format, unpoisoned, in a lane. -/
def VReg.HoldsLane (r : VReg) (f : Fmt) (l : Nat) (e : Elem) : Prop :=
  r.tag = .fmt f ∧ r.read l = e ∧ r.poison.getLsbD l = false

section
variable {r : VReg} {n l k : Nat} {f : Fmt} {e x : Elem}

theorem VReg.poison_setLane :
    (r.setLane n k (.fmt f) x).poison.getLsbD l =
      (r.poison.getLsbD l && (!(maskOf [k]).getLsbD l && (maskBelow n).getLsbD l)) := by
  by_cases low : l < 1024
  · show BitVec.getLsbD ((0#1024 &&& maskOf [k]) ||| (r.poison &&& ~~~maskOf [k] &&& maskBelow n)) l = _
    rw [BitVec.getLsbD_or, BitVec.getLsbD_and, BitVec.getLsbD_and, BitVec.getLsbD_and, BitVec.getLsbD_not,
      BitVec.getLsbD_zero, decide_eq_true low, Bool.false_and, Bool.false_or, Bool.true_and, Bool.and_assoc]
  · rw [BitVec.getLsbD_of_ge _ _ (Nat.le_of_not_lt low), BitVec.getLsbD_of_ge _ _ (Nat.le_of_not_lt low), Bool.false_and]

theorem VReg.read_setLane_ne (hl : l < n) (other : l ≠ k) : (r.setLane n k (.fmt f) x).read l = r.read l := by
  have off : (maskOf [k]).getLsbD l = false := by
    by_cases low : l < 1024
    · rw [getLsbD_maskOf _ low]
      simpa using other
    · exact BitVec.getLsbD_of_ge _ _ (Nat.le_of_not_lt low)
  rw [VReg.setLane, VReg.over, VReg.read_lanes _ _ _ hl, off, if_neg Bool.false_ne_true]

theorem VReg.read_setLane (hl : l < n) (low : l < 1024) : (r.setLane n l (.fmt f) x).read l = x := by
  rw [VReg.setLane, VReg.over, VReg.read_lanes _ _ _ hl, getLsbD_maskOf _ low]
  simp [VReg.read, Shape.read]

theorem VReg.holdsLane_setLane (hl : l < n) (low : l < 1024) : (r.setLane n l (.fmt f) x).HoldsLane f l x := by
  refine ⟨rfl, by rw [VReg.read_setLane hl low], ?_⟩
  rw [VReg.poison_setLane, getLsbD_maskOf _ low]
  simp

theorem VReg.HoldsLane.setLane (h : r.HoldsLane f l e) (hl : l < n) (other : l ≠ k) :
    (r.setLane n k (.fmt f) x).HoldsLane f l e := by
  obtain ⟨-, value, clean⟩ := h
  refine ⟨rfl, by rw [VReg.read_setLane_ne hl other, value], ?_⟩
  rw [VReg.poison_setLane, clean, Bool.false_and]

end

/-- A register with the elements of `e` in some lanes, one after the other. -/
def VReg.setLanes (r : VReg) (n : Nat) (f : Fmt) (e : Nat → Elem) (ls : List Nat) : VReg :=
  ls.foldl (fun r k => r.setLane n k (.fmt f) (e k)) r

section
variable {r : VReg} {n l : Nat} {f : Fmt} {e : Nat → Elem} {ls : List Nat} (hl : l < n)
include hl

theorem VReg.HoldsLane.setLanes {x : Elem} (h : r.HoldsLane f l x) (out : l ∉ ls) :
    (r.setLanes n f e ls).HoldsLane f l x := by
  induction ls generalizing r with
  | nil => exact h
  | cons k ks ih =>
    obtain ⟨other, out⟩ := List.ne_and_not_mem_of_not_mem_cons out
    exact ih (h.setLane hl other) out

theorem VReg.holdsLane_setLanes (low : l < 1024) (h : l ∈ ls) : (r.setLanes n f e ls).HoldsLane f l (e l) := by
  induction ls generalizing r with
  | nil => exact nomatch h
  | cons k ks ih =>
    by_cases later : l ∈ ks
    · exact ih later
    · obtain rfl := (List.mem_cons.mp h).resolve_right later
      exact (VReg.holdsLane_setLane hl low).setLanes hl later

theorem VReg.read_setLanes_of_not_mem (out : l ∉ ls) : (r.setLanes n f e ls).read l = r.read l := by
  induction ls generalizing r with
  | nil => rfl
  | cons k ks ih =>
    obtain ⟨other, out⟩ := List.ne_and_not_mem_of_not_mem_cons out
    exact (ih out).trans (VReg.read_setLane_ne hl other)

end

/-- The lanes that a vector register number names elements of. -/
def View.lanesAt (v : View) (vd : BitVec 6) : Nat :=
  match v.targetOf vd with
  | .kv _ => 32
  | .v _ => v.team.size

@[simp] theorem View.size_setVreg (v : View) (r : BitVec 6) (x : VReg) : (v.setVreg r x).team.size = v.team.size := by
  unfold View.setVreg
  split
  · rfl
  · rfl

@[simp] theorem View.targetOf_setVreg (v : View) (r q : BitVec 6) (x : VReg) :
    (v.setVreg r x).targetOf q = v.targetOf q := by
  rw [View.targetOf, View.targetOf, View.namesKv_setVreg]

@[simp] theorem View.lanesAt_setVreg (v : View) (r q : BitVec 6) (x : VReg) :
    (v.setVreg r x).lanesAt q = v.lanesAt q := by
  rw [View.lanesAt, View.lanesAt, View.targetOf_setVreg, View.size_setVreg]

/-- A register with a new element in one lane, put back. -/
def View.putLane (v : View) (r : BitVec 6) (f : Fmt) (lane : Nat) (e : Elem) : View :=
  v.setVreg r ((v.vreg r).setLane (v.lanesAt r) lane (.fmt f) e)

/-- The bank of a pair's first register is that of its second. -/
theorem View.namesKv_succ (v : View) {r : BitVec 6} (even : r.getLsbD 0 = false) :
    v.namesKv (r + 1) = v.namesKv r ∧ (r + 1).toNat = r.toNat + 1 := by
  have parity : r.toNat % 2 = 0 := by
    have bit : r.toNat.testBit 0 = false := even
    rw [Nat.testBit_zero] at bit
    have := Nat.mod_two_eq_zero_or_one r.toNat
    simpa [this] using bit
  have next : (r + 1).toNat = r.toNat + 1 := by
    have := r.isLt
    rw [BitVec.toNat_add]
    simp
    omega
  refine ⟨?_, next⟩
  rw [View.namesKv, View.namesKv, next, decide_eq_decide.mpr (by omega : 60 ≤ r.toNat + 1 ↔ 60 ≤ r.toNat)]

theorem View.setLane_targetOf (v : View) {r : BitVec 6} {f : Fmt} (even : f.isPair = true → r.getLsbD 0 = false)
    (lane x : Nat) : v.setLane (v.targetOf r) f lane x =
      if f.isPair then (v.putLane r f lane (BitVec.ofNat 32 x)).putLane (r + 1) f lane (BitVec.ofNat 32 (x / 2 ^ 32))
      else v.putLane r f lane (BitVec.ofNat 32 x) := by
  cases pair : f.isPair with
  | false =>
    cases bank : v.namesKv r with
    | true => simp [View.setLane, View.putLane, View.lanesAt, View.targetOf, View.setVreg, View.vreg, bank, pair]
    | false => simp [View.setLane, View.putLane, View.lanesAt, View.targetOf, View.setVreg, View.vreg, bank, pair]
  | true =>
    obtain ⟨same, next⟩ := v.namesKv_succ (even pair)
    cases bank : v.namesKv r with
    | true =>
      have place : (r + 1).toNat - 60 = r.toNat - 60 + 1 := by
        have := View.le_of_namesKv bank
        omega
      simp only [View.setLane, View.putLane, View.lanesAt, View.targetOf, View.vreg, View.namesKv_setVreg, same, bank, pair,
        if_true]
      rw [View.setVreg_bank bank, View.setVreg_bank (by rw [← same] at bank; exact bank), place]
      rfl
    | false =>
      simp only [View.setLane, View.putLane, View.lanesAt, View.targetOf, View.vreg, View.namesKv_setVreg, same, bank, pair,
        if_true, View.size_setVreg]
      rw [View.setVreg_own bank, View.setVreg_own (by rw [← same] at bank; exact bank), next]
      rfl

/-- A view with the elements of some lanes written one after the other. -/
def View.setLanes (v : View) (target : VTarget) (f : Fmt) (g : Nat → Nat) (ls : List Nat) : View :=
  ls.foldl (fun v l => v.setLane target f l (g l)) v

/-- The registers a vector register field of a format names (R54). -/
def fieldCovers (f : Fmt) (vd r : BitVec 6) : Prop := r = vd ∨ f.isPair = true ∧ r = vd + 1

section
variable {vd : BitVec 6} {f : Fmt} (even : f.isPair = true → vd.getLsbD 0 = false)
include even

/-- What one lane's element changes: the registers it is written to. -/
theorem View.setLane_changes (v : View) (l x : Nat) :
    let w := v.setLane (v.targetOf vd) f l x
    w.team.size = v.team.size ∧ (∀ r, w.targetOf r = v.targetOf r ∧ w.lanesAt r = v.lanesAt r) ∧
      w.vreg vd = (v.vreg vd).setLane (v.lanesAt vd) l (.fmt f) (BitVec.ofNat 32 x) ∧
      (f.isPair = true →
        w.vreg (vd + 1) = (v.vreg (vd + 1)).setLane (v.lanesAt (vd + 1)) l (.fmt f) (BitVec.ofNat 32 (x / 2 ^ 32))) ∧
      ∀ r, ¬ fieldCovers f vd r → w.vreg r = v.vreg r := by
  have apart : vd ≠ vd + 1 := by
    intro h
    have := congrArg BitVec.toNat h
    rw [BitVec.toNat_add] at this
    simp at this
    omega
  intro w
  have written : w = _ := v.setLane_targetOf even l x
  clear_value w
  cases pair : f.isPair with
  | false =>
    rw [pair, if_neg Bool.false_ne_true] at written
    subst written
    unfold View.putLane
    exact ⟨View.size_setVreg .., fun r => ⟨View.targetOf_setVreg .., View.lanesAt_setVreg ..⟩, View.vreg_setVreg_self ..,
      (fun h => nomatch h), fun r out => View.vreg_setVreg_ne _ _ fun h => out (.inl h)⟩
  | true =>
    rw [pair, if_pos rfl] at written
    subst written
    refine ⟨by simp [View.putLane], fun r => ⟨by simp [View.putLane], by simp [View.putLane]⟩, ?_, fun _ => ?_,
      fun r out => ?_⟩
    · unfold View.putLane
      rw [View.vreg_setVreg_ne _ _ apart, View.vreg_setVreg_self]
    · unfold View.putLane
      rw [View.vreg_setVreg_self, View.vreg_setVreg_ne _ _ apart.symm, View.lanesAt_setVreg]
    · unfold View.putLane
      rw [View.vreg_setVreg_ne _ _ fun h => out (.inr ⟨pair, h⟩), View.vreg_setVreg_ne _ _ fun h => out (.inl h)]

theorem View.setLanes_changes (v : View) (g : Nat → Nat) (ls : List Nat) :
    let w := v.setLanes (v.targetOf vd) f g ls
    w.team.size = v.team.size ∧
      w.vreg vd = (v.vreg vd).setLanes (v.lanesAt vd) f (fun l => BitVec.ofNat 32 (g l)) ls ∧
      (f.isPair = true → w.vreg (vd + 1) =
        (v.vreg (vd + 1)).setLanes (v.lanesAt (vd + 1)) f (fun l => BitVec.ofNat 32 (g l / 2 ^ 32)) ls) ∧
      ∀ r, ¬ fieldCovers f vd r → w.vreg r = v.vreg r := by
  induction ls generalizing v with
  | nil => exact ⟨rfl, rfl, fun _ => rfl, fun _ _ => rfl⟩
  | cons l ls ih =>
    obtain ⟨size, targets, low, high, other⟩ := v.setLane_changes even l (g l)
    obtain ⟨size', low', high', other'⟩ := ih (v.setLane (v.targetOf vd) f l (g l))
    rw [(targets vd).1] at size' low' high' other'
    refine ⟨size'.trans size, ?_, fun pair => ?_, fun r out => (other' r out).trans (other r out)⟩
    · exact low'.trans (by rw [low, (targets vd).2]; rfl)
    · exact (high' pair).trans (by rw [high pair, (targets (vd + 1)).2]; rfl)

/-- The lanes written read back, in one register or in two. -/
theorem View.setLanes_lane (v : View) (g : Nat → Nat) (ls : List Nat) {l : Nat} (hl : l < v.lanesAt vd)
    (low : l < 1024) (h : l ∈ ls) :
    let w := v.setLanes (v.targetOf vd) f g ls
    (((w.vreg vd).read l).toNat + if f.isPair then 2 ^ 32 * ((w.vreg (vd + 1)).read l).toNat else 0) =
        g l % 2 ^ (if f.isPair then 64 else 32) ∧
      (w.vreg vd).tag = .fmt f ∧ (w.vreg vd).poison.getLsbD l = false := by
  intro w
  obtain ⟨-, first, second, -⟩ := v.setLanes_changes even g ls
  have holds := VReg.holdsLane_setLanes (r := v.vreg vd) (f := f) (e := fun l => BitVec.ofNat 32 (g l)) hl low h
  rw [← first] at holds
  obtain ⟨tag, value, clean⟩ := holds
  refine ⟨?_, tag, clean⟩
  rw [value]
  cases pair : f.isPair with
  | false => simp
  | true =>
    have wide : v.lanesAt (vd + 1) = v.lanesAt vd := by
      have same := (v.namesKv_succ (even pair)).1
      cases bank : v.namesKv vd with
      | true => simp only [View.lanesAt, View.targetOf, same, bank, if_true]
      | false => simp only [View.lanesAt, View.targetOf, same, bank, Bool.false_eq_true, if_false]
    obtain ⟨-, value', -⟩ := VReg.holdsLane_setLanes (r := v.vreg (vd + 1)) (f := f)
      (e := fun l => BitVec.ofNat 32 (g l / 2 ^ 32)) (wide ▸ hl) low h
    rw [second pair, value']
    have halves := toNat_halves (g l)
    rw [BitVec.toNat_ofNat, Nat.mod_mod, ← BitVec.toNat_ofNat] at halves
    exact halves

end

end Sys2Proof.Machine

/-!
The service of a full/empty access (R98): the team that holds it, and what each lane served changes.
-/

namespace Sys2Proof.Machine

/-! ## The arms of a team -/

theorem Team.arm_setArm (t : Team) (a : Arm) : (t.setArm a).arm = a := by
  unfold Team.setArm
  split
  next h => simp only [Team.arm, h]
  next h =>
    split
    next e => simp only [Team.arm, e]
    next e es k =>
      cases sel : e.sel with
      | true => simp only [Team.arm, if_true]
      | false => simp only [Team.arm, Bool.false_eq_true, if_false]

theorem Team.arm_mem_arms (t : Team) : t.arm ∈ t.arms := by
  unfold Team.arm Team.arms
  split
  · exact List.mem_cons_self
  · split
    · exact List.mem_cons_of_mem _ List.mem_cons_self
    next e es k =>
      rw [k]
      split
      · simp
      · simp

theorem Team.mem_arms_setArm {t : Team} {a b : Arm} (h : b ∈ (t.setArm a).arms) : b = a ∨ b ∈ t.arms := by
  unfold Team.setArm at h
  unfold Team.arms at h ⊢
  split at h
  · simp only [List.mem_cons] at h ⊢
    tauto
  · split at h
    · simp only [List.mem_cons] at h ⊢
      tauto
    next e es k =>
      rw [k]
      split at h
      · simp only [List.mem_cons, List.flatMap_cons, List.mem_append] at h ⊢
        tauto
      · simp only [List.mem_cons, List.flatMap_cons, List.mem_append] at h ⊢
        tauto

theorem Team.arms_mapArms (t : Team) (f : Arm → Arm) : (t.mapArms f).arms = t.arms.map f := by
  simp [Team.arms, Team.mapArms, List.flatMap_map, List.map_flatMap]

theorem Team.arm_mapArms (t : Team) (f : Arm → Arm) : (t.mapArms f).arm = f t.arm := by
  unfold Team.arm Team.mapArms
  dsimp only
  split
  · rfl
  · cases t.stack with
    | nil => rfl
    | cons e es => exact (apply_ite f (e.sel = true) e.arm1 e.arm0).symm

/-- The one value a search can give it gives, if some element has it. -/
theorem List.findSome?_eq_some_of_only {α β : Type} {g : α → Option β} {b : β} {as : List α}
    (only : ∀ a ∈ as, ∀ c, g a = some c → c = b) (any : ∃ a ∈ as, g a = some b) : as.findSome? g = some b := by
  obtain ⟨a, ha, hb⟩ := any
  obtain ⟨c, hc⟩ := Option.isSome_iff_exists.mp
    (List.findSome?_isSome_iff.mpr ⟨a, ha, Option.isSome_iff_exists.mpr ⟨b, hb⟩⟩)
  obtain ⟨k, hk, found⟩ := List.exists_of_findSome?_eq_some hc
  rw [hc, only k hk c found]

/-! ## The team that holds an access -/

/-- `u` is `t` but for its clock, its vector registers and what its arms do, its issuing arm performs the access `x`,
and no other arm an access under that ticket. -/
structure FeAccess.HeldBy (x : FeAccess) (t u : Team) : Prop where
  same : { u with base := t.base, v := t.v, hpath := t.hpath, path := t.path, stack := t.stack } = t
  prog : u.arm.prog = .access x
  only : ∀ a ∈ u.arms, ∀ y, a.prog = .access y → y.ticket = x.ticket → y = x

section
variable {x y : FeAccess} {t u : Team} (h : x.HeldBy t u)
include h

theorem FeAccess.HeldBy.id : u.id = t.id := (congrArg Team.id h.same :)
theorem FeAccess.HeldBy.core : u.core = t.core := (congrArg Team.core h.same :)
theorem FeAccess.HeldBy.size : u.size = t.size := (congrArg Team.size h.same :)
theorem FeAccess.HeldBy.gone : u.gone = t.gone := (congrArg Team.gone h.same :)
theorem FeAccess.HeldBy.pend : u.pend = t.pend := (congrArg Team.pend h.same :)
theorem FeAccess.HeldBy.s : u.s = t.s := (congrArg Team.s h.same :)

/-- The clock and the registers are not part of it. -/
theorem FeAccess.HeldBy.withBase (b : Word) : x.HeldBy t { u with base := b } := ⟨h.same, h.prog, h.only⟩

theorem FeAccess.HeldBy.withRegs (v : Vector VReg 64) : x.HeldBy t { u with v := v } := ⟨h.same, h.prog, h.only⟩

/-- The access goes on as `y`. -/
theorem FeAccess.HeldBy.putAccess (hy : y.ticket = x.ticket) : y.HeldBy t (u.putAccess y) := by
  refine ⟨h.same, ?_, fun a ha z hz tz => ?_⟩
  · rw [Team.putAccess, Team.arm_mapArms, h.prog]
    simp [hy]
  · rw [Team.putAccess, Team.arms_mapArms] at ha
    obtain ⟨b, -, rfl⟩ := List.mem_map.mp ha
    split at hz
    next w hw =>
      split at hz
      · exact (Prog.access.inj hz).symm
      next other =>
        obtain rfl : w = z := Prog.access.inj (hw.symm.trans hz)
        exact absurd (beq_iff_eq.mpr tz) other
    next none_ => exact absurd hz (none_ z)

/-- While it has lanes to serve it is found under its ticket. -/
theorem FeAccess.HeldBy.access? (todo : x.todo ≠ []) : u.access? x.ticket = some x := by
  have serves : x.todo.isEmpty = false := by simpa using todo
  unfold Team.access?
  refine List.findSome?_eq_some_of_only (fun a ha z hz => ?_) ⟨u.arm, u.arm_mem_arms, ?_⟩
  · split at hz
    next w hw =>
      split at hz
      next mine =>
        obtain rfl := Option.some.inj hz
        exact h.only a ha w hw (beq_iff_eq.mp (Bool.and_eq_true_iff.mp mine).1)
      next => exact nomatch hz
    next => exact nomatch hz
  · rw [h.prog]
    simp [serves]

end

/-! ## What a lane served changes (R98, R211) -/

/-- What the lanes of full/empty accesses read and write: the registers of the team, the full words, the bytes. -/
structure FeData where
  view : View
  full : List Nat
  scratch : Memory

/-- One lane served: the data and the bit as one. -/
def FeData.serve (x : FeAccess) (e : FeData) (q : Nat × Nat × BitVec 64) : FeData :=
  let view := e.view.setLane x.target x.fmt q.1 (x.fmt.place (natOfBytes (Memory.readBytes e.scratch q.2.1 x.fmt.bytes)))
  match x.op with
  | .ldfe => { e with view := view, full := e.full.filter fun w => w != q.2.1 / 8 }
  | .ldf => { e with view := view }
  | .stfe =>
    { e with full := insertNat (q.2.1 / 8) e.full
             scratch := Memory.writeBytes e.scratch q.2.1 (bytesOf x.fmt.bytes q.2.2.toNat) }

theorem contains_insertNat (n k : Nat) (ns : List Nat) : (insertNat n ns).contains k = (ns.contains k || k == n) := by
  induction ns with
  | nil => exact (List.contains_cons ..).trans (Bool.or_comm ..)
  | cons m ms ih =>
    unfold insertNat
    split
    · rw [List.contains_cons, ih, List.contains_cons, Bool.or_assoc]
    · split
      next same => rw [List.contains_cons, same, Bool.or_right_comm, Bool.or_self]
      next => rw [List.contains_cons, Bool.or_comm]

theorem contains_filter_ne (n k : Nat) (ns : List Nat) :
    (ns.filter fun w => w != n).contains k = (ns.contains k && !k == n) := by
  rw [Bool.eq_iff_iff]
  simp

/-- The bits of other words stay. -/
theorem FeData.contains_serve_ne (x : FeAccess) (e : FeData) {q : Nat × Nat × BitVec 64} {k : Nat} (h : k ≠ q.2.1 / 8) :
    (e.serve x q).full.contains k = e.full.contains k := by
  have other : (k == q.2.1 / 8) = false := beq_eq_false_iff_ne.mpr h
  unfold FeData.serve
  cases x.op with
  | ldfe => exact (contains_filter_ne ..).trans (by simp [other])
  | stfe => exact (contains_insertNat ..).trans (by simp [other])
  | ldf => rfl

/-- Writing a lane depends on the registers and the number of lanes alone. -/
theorem View.setLane_of_regs {v w : View} (hv : v.team.v = w.team.v) (hk : v.kv = w.kv) (hs : v.team.size = w.team.size)
    (target : VTarget) (f : Fmt) (l n : Nat) :
    (v.setLane target f l n).team = { v.team with v := (w.setLane target f l n).team.v } ∧
      (v.setLane target f l n).kv = (w.setLane target f l n).kv := by
  cases target with
  | v r =>
    unfold View.setLane
    cases f.isPair with
    | true => simp [hv, hk, hs]
    | false => simp [hv, hk, hs]
  | kv r =>
    unfold View.setLane
    cases f.isPair with
    | true => simp [← hv, hk]
    | false => simp [← hv, hk]

/-- Writing a lane changes the registers alone. -/
theorem View.team_setLane (v : View) (target : VTarget) (f : Fmt) (l n : Nat) :
    (v.setLane target f l n).team = { v.team with v := (v.setLane target f l n).team.v } :=
  (View.setLane_of_regs rfl rfl rfl target f l n).1

theorem View.team_setLanes (v : View) (target : VTarget) (f : Fmt) (g : Nat → Nat) (ls : List Nat) :
    (v.setLanes target f g ls).team = { v.team with v := (v.setLanes target f g ls).team.v } := by
  induction ls generalizing v with
  | nil => rfl
  | cons l ls ih =>
    refine (ih (v.setLane target f l (g l))).trans ?_
    rw [v.team_setLane]
    rfl

theorem FeData.size_serve (x : FeAccess) (e : FeData) (q : Nat × Nat × BitVec 64) :
    (e.serve x q).view.team.size = e.view.team.size := by
  unfold FeData.serve
  cases x.op with
  | stfe => rfl
  | ldfe => exact (congrArg (fun u : Team => u.size) (View.team_setLane ..) :)
  | ldf => exact (congrArg (fun u : Team => u.size) (View.team_setLane ..) :)

/-- In `w` the team `t` of `s` performs the access `x`, with the data `e`, while the accesses `arr` wait at its core;
beyond teams and cores nothing has changed. -/
structure State.Serves (s : State) (t : Team) (x : FeAccess) (e : FeData) (arr : List (Nat × Nat × Nat)) (w : State) :
    Prop where
  rest : { w with teams := [], cores := [] } = { s with teams := [], cores := [] }
  team : ∃ u, w.team? t.id = some u ∧ x.HeldBy t u ∧ u.v = e.view.team.v
  full : (w.core t.core).full = e.full
  scratch : (w.core t.core).scratch = e.scratch
  kv : (w.core t.core).kv = e.view.kv
  arrivals : (w.core t.core).arrivals = arr

section
variable {s w : State} {t : Team} {x y : FeAccess} {e : FeData} {arr : List (Nat × Nat × Nat)}
  (h : s.Serves t x e arr w)
include h

theorem State.Serves.setFull (off : Nat) (on : Bool) :
    s.Serves t x { e with full := if on then insertNat (off / 8) e.full else e.full.filter fun w => w != off / 8 } arr
      (w.setFull t.core off on) := by
  obtain ⟨rest, team, full, scratch, kv, arrivals⟩ := h
  refine ⟨rest, team, ?_, ?_, ?_, ?_⟩
  · rw [State.setFull, State.core_modCore, full]
  · rw [State.setFull, State.core_modCore, scratch]
  · rw [State.setFull, State.core_modCore, kv]
  · rw [State.setFull, State.core_modCore, arrivals]

theorem State.Serves.scratchWrite (off : Nat) (bs : List Byte) :
    s.Serves t x { e with scratch := Memory.writeBytes e.scratch off bs } arr (w.scratchWrite t.core off bs) := by
  obtain ⟨rest, team, full, scratch, kv, arrivals⟩ := h
  refine ⟨rest, team, ?_, ?_, ?_, ?_⟩
  · rw [State.scratchWrite, State.core_modCore, full]
  · rw [State.scratchWrite, State.core_modCore, scratch]
  · rw [State.scratchWrite, State.core_modCore, kv]
  · rw [State.scratchWrite, State.core_modCore, arrivals]

theorem State.Serves.setLane {u : Team} (hu : w.team? t.id = some u) (size : e.view.team.size = t.size) (target : VTarget)
    (f : Fmt) (l n : Nat) : s.Serves t x { e with view := e.view.setLane target f l n } arr
      (w.putView ((View.of u (w.core u.core)).setLane target f l n)) := by
  obtain ⟨rest, ⟨u', hu', held, regs⟩, full, scratch, kv, arrivals⟩ := h
  obtain rfl : u' = u := Option.some.inj (hu'.symm.trans hu)
  obtain ⟨team, bank⟩ := View.setLane_of_regs (v := View.of u' (w.core u'.core)) (w := e.view) regs
    ((congrArg (fun n => (w.core n).kv) held.core).trans kv) (held.size.trans size.symm) target f l n
  have core := w.core_putView ((View.of u' (w.core u'.core)).setLane target f l n)
  have found := w.team?_putView ((View.of u' (w.core u'.core)).setLane target f l n) u'
  have others := w.putView_rest ((View.of u' (w.core u'.core)).setLane target f l n)
  rw [team] at found core
  rw [bank] at core
  generalize w.putView ((View.of u' (w.core u'.core)).setLane target f l n) = z at found core others ⊢
  have core : z.core t.core = _ := held.core ▸ core
  have found : z.team? t.id = _ := held.id ▸ found (held.id.symm ▸ hu)
  refine ⟨(congrArg (fun s : State => { s with teams := [], cores := [] }) others).trans rest,
    ⟨_, found, held.withRegs _, rfl⟩, ?_, ?_, ?_, ?_⟩
  · rw [core]
    exact held.core.symm ▸ full
  · rw [core]
    exact held.core.symm ▸ scratch
  · rw [core]
  · rw [core]
    exact held.core.symm ▸ arrivals

/-- One lane's access. -/
theorem State.Serves.serveLane {u : Team} (hu : w.team? t.id = some u) (size : e.view.team.size = t.size) (l off : Nat)
    (value : BitVec 64) : s.Serves t x (e.serve x (l, off, value)) arr (w.serveLane u x l off value) := by
  obtain ⟨u', hu', held, -⟩ := h.team
  obtain rfl : u' = u := Option.some.inj (hu'.symm.trans hu)
  have bytes : w.scratchRead u'.core off x.fmt.bytes = Memory.readBytes e.scratch off x.fmt.bytes := by
    rw [State.scratchRead, held.core, h.scratch]
  unfold State.serveLane FeData.serve
  dsimp only
  rw [bytes, held.core, held.id]
  cases op : x.op with
  | stfe => exact (h.scratchWrite off _).setFull off true
  | ldfe =>
    have next := h.setFull off false
    have hu : (w.setFull t.core off false).team? t.id = some u' := hu
    simp only [hu]
    exact next.setLane hu size _ _ _ _
  | ldf =>
    simp only [hu]
    exact h.setLane hu size _ _ _ _

/-- The access goes on, perhaps with a raised clock. -/
theorem State.Serves.putAccess (hy : y.ticket = x.ticket) {raise : Team → Team}
    (hr : ∀ u, ∃ b, raise u = { u with base := b }) :
    s.Serves t y e arr (w.modTeam t.id fun u => (raise u).putAccess y) := by
  obtain ⟨rest, ⟨u, hu, held, regs⟩, full, scratch, kv, arrivals⟩ := h
  obtain ⟨b, raised⟩ := hr u
  have same (u : Team) : ((raise u).putAccess y).id = u.id := by
    obtain ⟨b, raised⟩ := hr u
    rw [raised]
    rfl
  refine ⟨rest, ⟨(raise u).putAccess y, ?_, ?_, ?_⟩, full, scratch, kv, arrivals⟩
  · rw [w.team?_modTeam t.id _ same, hu, Option.map_some]
  · rw [raised]
    exact (held.withBase b).putAccess hy
  · rw [raised]
    exact regs

theorem State.Serves.setArrivals (f : List (Nat × Nat × Nat) → List (Nat × Nat × Nat)) :
    s.Serves t x e (f arr) (w.modCore t.core fun c => { c with arrivals := f (w.core t.core).arrivals }) := by
  obtain ⟨rest, team, full, scratch, kv, arrivals⟩ := h
  refine ⟨rest, team, ?_, ?_, ?_, ?_⟩
  · rw [State.core_modCore, full]
  · rw [State.core_modCore, scratch]
  · rw [State.core_modCore, kv]
  · rw [State.core_modCore, arrivals]

/-! ## Accesses served (R98) -/

/-- At a word where nothing waits nothing is served. -/
theorem State.Serves.serveWord_of_none {word : Nat} (none_ : ∀ a ∈ arr, a.1 ≠ word) (fuel : Nat) (clock : Option Word) :
    State.serveWord fuel t.core word clock w = w := by
  cases fuel with
  | zero => rfl
  | succ fuel =>
    have nobody : w.nextArrival t.core word = none := by
      unfold State.nextArrival
      rw [h.arrivals, List.findSome?_eq_none_iff]
      exact fun a ha => if_pos (by simpa using none_ a ha)
    unfold State.serveWord
    rw [nobody]

/-- The access that waits at a word in the state it wants is the next to be served, if no other waits there. -/
theorem State.Serves.nextArrival {others : List (Nat × Nat × Nat)} {word : Nat}
    (harr : arr = others ++ [(word, t.id, x.ticket)]) (none_ : ∀ a ∈ others, a.1 ≠ word) (todo : x.todo ≠ [])
    (live : t.gone = false) (wants : e.full.contains word = x.op.wants) :
    ∃ u, w.team? t.id = some u ∧ w.nextArrival t.core word = some (u, x) := by
  obtain ⟨u, hu, held, -⟩ := h.team
  refine ⟨u, hu, ?_⟩
  have bit : w.isFull t.core (8 * word) = x.op.wants := by
    rw [State.isFull, h.full, Nat.mul_div_cancel_left _ (by decide : 0 < 8), wants]
  unfold State.nextArrival
  rw [h.arrivals, harr, List.findSome?_append]
  refine (congrArg (Option.or · _) (List.findSome?_eq_none_iff.mpr fun a ha => if_pos ?_)).trans ?_
  · simpa using none_ a ha
  simp [hu, held.access? todo, held.core, held.gone, live, bit]

end

/-- A team whose clock is raised past the operation that satisfied its wait, if it counts (R328). -/
def Team.raisedBy (clock : Option Word) (counts : Bool) (u : Team) : Team :=
  match clock with
  | some c => if counts then u.raiseClock c else u
  | none => u

theorem Team.raisedBy_eq (clock : Option Word) (counts : Bool) (u : Team) :
    ∃ b, u.raisedBy clock counts = { u with base := b } := by
  unfold Team.raisedBy
  split
  · split
    · unfold Team.raiseClock
      split
      · exact ⟨_, rfl⟩
      · exact ⟨u.base, rfl⟩
    · exact ⟨u.base, rfl⟩
  · exact ⟨u.base, rfl⟩

/-- The first lane served: the access goes on at the word of the next, and then what else waits at the word is served. -/
theorem State.Serves.serveFirst {s w : State} {t : Team} {x : FeAccess} {e : FeData} {others : List (Nat × Nat × Nat)}
    {q : Nat × Nat × BitVec 64} {qs : List (Nat × Nat × BitVec 64)}
    (h : s.Serves t x e (others ++ [(q.2.1 / 8, t.id, x.ticket)]) w) (todo : x.todo = q :: qs)
    (none_ : ∀ a ∈ others, a.1 ≠ q.2.1 / 8) (live : t.gone = false) (wants : e.full.contains (q.2.1 / 8) = x.op.wants)
    (size : e.view.team.size = t.size) (fuel : Nat) (clock : Option Word) :
    ∃ w', s.Serves t { x with todo := qs } (e.serve x q) (others.filter (fun a => a.2.2 != x.ticket) ++
        ((qs.head?.map fun p => p.2.1 / 8).map fun word => (word, t.id, x.ticket)).toList) w' ∧
      let c := clock.map fun _ => ((w'.team? t.id).map fun u => u.lclk).getD 0
      State.serveWord (fuel + 1) t.core (q.2.1 / 8) clock w = State.serveWord fuel t.core (q.2.1 / 8) c
        (qs.head?.elim w' fun p => State.serveWord fuel t.core (p.2.1 / 8) c w') := by
  obtain ⟨u, hu, next⟩ := h.nextArrival rfl none_ (todo ▸ List.cons_ne_nil _ _) live wants
  obtain ⟨u', hu', held, -⟩ := h.team
  obtain rfl : u' = u := Option.some.inj (hu'.symm.trans hu)
  have gone : (others ++ [(q.2.1 / 8, t.id, x.ticket)]).filter (fun a => a.2.2 != x.ticket) =
      others.filter fun a => a.2.2 != x.ticket := by simp
  have served := ((h.serveLane hu size q.1 q.2.1 q.2.2).putAccess (y := { x with todo := qs }) rfl
    (Team.raisedBy_eq clock (u'.excluded && ((w.serveLane u' x q.1 q.2.1 q.2.2).domainOf u').isSome))).setArrivals
    fun arr => arr.filter (fun a => a.2.2 != x.ticket) ++
      ((qs.head?.map fun p => p.2.1 / 8).map fun word => (word, t.id, x.ticket)).toList
  rw [gone] at served
  refine ⟨_, served, ?_⟩
  rw [State.serveWord, next]
  dsimp only
  rw [todo, held.id]
  cases qs with
  | nil => rfl
  | cons p ps => rfl

/-- An access whose words are each in the state it wants, with nothing else waiting there, is served for all its lanes,
in their order. -/
theorem State.Serves.serveWord {s : State} {t : Team} (live : t.gone = false) {qs : List (Nat × Nat × BitVec 64)} :
    ∀ {fuel : Nat} {w : State} {x : FeAccess} {e : FeData} {others : List (Nat × Nat × Nat)} {q : Nat × Nat × BitVec 64}
      {clock : Option Word}, s.Serves t x e (others ++ [(q.2.1 / 8, t.id, x.ticket)]) w → x.todo = q :: qs →
      qs.length < fuel → (∀ a ∈ others, ∀ p ∈ q :: qs, a.1 ≠ p.2.1 / 8) →
      ((q :: qs).map fun p => p.2.1 / 8).Nodup → (∀ p ∈ q :: qs, e.full.contains (p.2.1 / 8) = x.op.wants) →
      e.view.team.size = t.size →
      ∃ arr, (∀ a ∈ arr, a ∈ others) ∧ s.Serves t { x with todo := [] } ((q :: qs).foldl (FeData.serve x) e) arr
        (State.serveWord fuel t.core (q.2.1 / 8) clock w) := by
  induction qs with
  | nil =>
    intro fuel w x e others q clock h todo room none_ words wants size
    obtain ⟨fuel, rfl⟩ := Nat.exists_eq_succ_of_ne_zero (Nat.ne_of_gt (Nat.lt_of_le_of_lt (Nat.zero_le _) room))
    obtain ⟨w', served, run⟩ := h.serveFirst todo (fun a ha => none_ a ha q List.mem_cons_self) live
      (wants q List.mem_cons_self) size fuel clock
    have served : s.Serves t _ _ (others.filter fun a => a.2.2 != x.ticket) w' := List.append_nil _ ▸ served
    refine ⟨others.filter fun a => a.2.2 != x.ticket, fun a ha => (List.mem_filter.mp ha).1, ?_⟩
    dsimp only at run
    rw [run]
    refine (served.serveWord_of_none (fun a ha => ?_) fuel _).symm ▸ served
    exact none_ a (List.mem_filter.mp ha).1 q List.mem_cons_self
  | cons p ps ih =>
    intro fuel w x e others q clock h todo room none_ words wants size
    obtain ⟨fuel, rfl⟩ := Nat.exists_eq_succ_of_ne_zero (Nat.ne_of_gt (Nat.lt_of_le_of_lt (Nat.zero_le _) room))
    obtain ⟨w', served, run⟩ := h.serveFirst todo (fun a ha => none_ a ha q List.mem_cons_self) live
      (wants q List.mem_cons_self) size fuel clock
    obtain ⟨apart, words⟩ := List.nodup_cons.mp words
    obtain ⟨arr, sub, done⟩ := ih served rfl (Nat.lt_of_succ_lt_succ room)
      (fun a ha r hr => none_ a (List.mem_filter.mp ha).1 r (List.mem_cons_of_mem q hr)) words
      (fun r hr => (e.contains_serve_ne x fun same => apart (List.mem_map.mpr ⟨r, hr, same⟩)).trans
        (wants r (List.mem_cons_of_mem q hr)))
      ((e.size_serve x q).trans size)
    refine ⟨arr, fun a ha => (List.mem_filter.mp (sub a ha)).1, ?_⟩
    dsimp only at run
    rw [run]
    refine (done.serveWord_of_none (fun a ha => ?_) fuel _).symm ▸ done
    exact none_ a (List.mem_filter.mp (sub a ha)).1 q List.mem_cons_self

/-- The lanes of the access are among those a core has still to serve. -/
theorem State.Serves.length_le_toServe {s w : State} {t : Team} {x : FeAccess} {e : FeData} {arr : List (Nat × Nat × Nat)}
    (h : s.Serves t x e arr w) : x.todo.length ≤ w.toServe t.core := by
  obtain ⟨u, hu, held, -⟩ := h.team
  unfold State.toServe
  rw [← List.sum_eq_foldl_nat]
  refine List.le_sum_of_mem (List.mem_flatMap.mpr ⟨u, List.mem_filter.mpr ⟨List.mem_of_find?_eq_some hu, ?_⟩, ?_⟩)
  · exact beq_iff_eq.mpr held.core
  · exact List.mem_map.mpr ⟨u.arm, u.arm_mem_arms, by rw [held.prog]⟩

/-- An access that arrives at words in the state it wants, where no other waits, is served at once. -/
theorem State.Serves.arrive {s w : State} {t : Team} {x : FeAccess} {e : FeData} {others : List (Nat × Nat × Nat)}
    (h : s.Serves t x e others w) (live : t.gone = false) (none_ : ∀ a ∈ others, ∀ p ∈ x.todo, a.1 ≠ p.2.1 / 8)
    (words : (x.todo.map fun p => p.2.1 / 8).Nodup) (wants : ∀ p ∈ x.todo, e.full.contains (p.2.1 / 8) = x.op.wants)
    (size : e.view.team.size = t.size) :
    ∃ arr, s.Serves t { x with todo := [] } (x.todo.foldl (FeData.serve x) e) arr (w.arrive t x) := by
  unfold State.arrive
  cases todo : x.todo with
  | nil =>
    obtain ⟨op, fmt, target, ticket, lanes⟩ := x
    obtain rfl : lanes = [] := todo
    exact ⟨others, h⟩
  | cons q qs =>
    rw [todo] at none_ words wants
    have waits := h.setArrivals fun arr => arr ++ [(q.2.1 / 8, t.id, x.ticket)]
    have room := waits.length_le_toServe
    rw [todo] at room
    obtain ⟨arr, -, served⟩ := State.Serves.serveWord (clock := some t.lclk) live waits todo
      (Nat.lt_succ_of_le (Nat.le_trans (Nat.le_succ _) room)) none_ words wants size
    exact ⟨arr, served⟩

/-! ## The data after all lanes -/

section
variable {x : FeAccess} (e : FeData) (at_ : Nat → Nat) (value : Nat → BitVec 64) (ls : List Nat)

/-- What an access serves: each lane with its offset and its value. -/
def feLanes (at_ : Nat → Nat) (value : Nat → BitVec 64) (ls : List Nat) : List (Nat × Nat × BitVec 64) :=
  ls.map fun l => (l, at_ l, value l)

theorem FeData.serve_stfe (hx : x.op = .stfe) :
    let r := (feLanes at_ value ls).foldl (FeData.serve x) e
    r.view = e.view ∧
      r.scratch = Memory.storeLanes at_ (fun l => bytesOf x.fmt.bytes (value l).toNat) ls e.scratch ∧
      ∀ k, r.full.contains k = (e.full.contains k || (ls.map fun l => at_ l / 8).contains k) := by
  induction ls generalizing e with
  | nil => exact ⟨rfl, rfl, fun k => (Bool.or_false _).symm⟩
  | cons l ls ih =>
    obtain ⟨view, scratch, full⟩ := ih (e.serve x (l, at_ l, value l))
    refine ⟨view.trans ?_, scratch.trans ?_, fun k => (full k).trans ?_⟩
    · simp only [FeData.serve, hx]
    · simp only [FeData.serve, hx]
      rfl
    · simp only [FeData.serve, hx, contains_insertNat, List.map_cons, List.contains_cons, Bool.or_assoc]

theorem FeData.serve_reads (hx : x.op ≠ .stfe) :
    let r := (feLanes at_ value ls).foldl (FeData.serve x) e
    r.view = e.view.setLanes x.target x.fmt
        (fun l => x.fmt.place (natOfBytes (Memory.readBytes e.scratch (at_ l) x.fmt.bytes))) ls ∧
      r.scratch = e.scratch ∧
      ∀ k, r.full.contains k =
        (e.full.contains k && !(x.op == .ldfe && (ls.map fun l => at_ l / 8).contains k)) := by
  induction ls generalizing e with
  | nil => exact ⟨rfl, rfl, fun k => by simp [feLanes]⟩
  | cons l ls ih =>
    obtain ⟨view, scratch, full⟩ := ih (e.serve x (l, at_ l, value l))
    cases op : x.op with
    | stfe => exact absurd op hx
    | ldf =>
      rw [op] at full
      refine ⟨view.trans ?_, scratch.trans ?_, fun k => (full k).trans ?_⟩
      · simp only [FeData.serve, op]
        rfl
      · simp only [FeData.serve, op]
      · simp only [FeData.serve, op]
        rfl
    | ldfe =>
      rw [op] at full
      refine ⟨view.trans ?_, scratch.trans ?_, fun k => (full k).trans ?_⟩
      · simp only [FeData.serve, op]
        rfl
      · simp only [FeData.serve, op]
      · simp only [FeData.serve, op, contains_filter_ne, List.map_cons, List.contains_cons, beq_self_eq_true, Bool.true_and,
          Bool.not_or, Bool.and_assoc]

end

end Sys2Proof.Machine

/-!
Full/empty accesses that complete at once (R98, R211).
-/

namespace Sys2Proof.Machine

/-! ## The data of a core and its team -/

/-- What full/empty accesses of a team find. -/
def State.feData (s : State) (t : Team) : FeData :=
  { view := s.viewOf t, full := (s.core t.core).full, scratch := (s.core t.core).scratch }

/-- An access begun under a new ticket. -/
def State.begun (s : State) (t : Team) (x : FeAccess) : State :=
  { s with nextId := s.nextId + 1 }.modTeam t.id fun u => u.setArm { u.arm with prog := .access x }

/-- The team that begins an access under a ticket that none of its arms uses holds it. -/
theorem Team.heldBy_setArm {t : Team} {x : FeAccess} (fresh : ∀ a ∈ t.arms, ∀ y, a.prog = .access y → y.ticket ≠ x.ticket) :
    x.HeldBy t (t.setArm { t.arm with prog := .access x }) := by
  refine ⟨?_, by rw [Team.arm_setArm], fun a ha y hy ty => ?_⟩
  · obtain ⟨_, _, _, _, _, h⟩ := t.sameButPaths_setArm { t.arm with prog := .access x }
    unfold Team.setArm
    split
    · rfl
    · split
      · rfl
      · rfl
  · rcases Team.mem_arms_setArm ha with rfl | old
    · exact (Prog.access.inj hy).symm
    · exact absurd ty (fresh a old y hy)

theorem State.serves_begun {s : State} {t : Team} {x : FeAccess} (ht : s.team? t.id = some t)
    (fresh : ∀ a ∈ t.arms, ∀ y, a.prog = .access y → y.ticket ≠ x.ticket) :
    State.Serves { s with nextId := s.nextId + 1 } t x (s.feData t) (s.core t.core).arrivals (s.begun t x) := by
  refine ⟨rfl, ⟨_, ?_, Team.heldBy_setArm fresh, ?_⟩, rfl, rfl, rfl, rfl⟩
  · unfold State.begun
    rw [State.team?_modTeam _ _ _ (fun u => u.setArm_id _)]
    exact congrArg (Option.map _) ht
  · exact (t.sameButPaths_setArm _).keeps.2.2.1

/-! ## The end of an access -/

/-- A team that moves on behind an instruction keeps its registers. -/
theorem Team.retired_keeps (t : Team) (pc : Word) (user : Bool) (tick : Nat) :
    let u := (t.moveTo pc).countRetired user tick
    u.arm.pc = pc ∧ u.s = t.s ∧ u.v = t.v ∧ u.core = t.core ∧ u.ksw = t.ksw := by
  have counted (u : Team) : ∃ r i a b, u.countRetired user tick =
      { u with retired := r, issued := i, hangAt := a, retireAt := b } := by
    unfold Team.countRetired Team.restartRetire
    split
    · exact ⟨_, _, _, u.retireAt, rfl⟩
    · exact ⟨_, _, u.hangAt, _, rfl⟩
  obtain ⟨r, i, a, b, e⟩ := counted (t.moveTo pc)
  have at_ : (t.moveTo pc).arm.pc = pc := by rw [Team.moveTo, Team.arm_setArm]
  obtain ⟨_, _, _, _, _, moved⟩ := t.sameButPaths_moveTo pc
  intro u
  have hu : u = _ := e
  clear_value u
  subst hu
  refine ⟨at_, ?_, ?_, ?_, ?_⟩
  · exact (congrArg (fun u : Team => u.s) moved :)
  · exact (congrArg (fun u : Team => u.v) moved :)
  · exact (congrArg (fun u : Team => u.core) moved :)
  · exact (congrArg (fun u : Team => u.ksw) moved :)

/-- What a register number names depends on the registers and KSW alone. -/
theorem View.vreg_of_regs {v w : View} (ksw : v.team.ksw = w.team.ksw) (regs : v.team.v = w.team.v) (bank : v.kv = w.kv)
    (r : BitVec 6) : v.vreg r = w.vreg r := by
  rw [View.vreg, View.vreg, View.namesKv, View.namesKv, ksw, regs, bank]

theorem FeAccess.HeldBy.ksw {x : FeAccess} {t u : Team} (h : x.HeldBy t u) : u.ksw = t.ksw :=
  (congrArg (fun u : Team => u.ksw) h.same :)

section
variable {s w : State} {t : Team} {x : FeAccess} {e : FeData} {arr : List (Nat × Nat × Nat)}
  (h : s.Serves t x e arr w)
include h

theorem State.Serves.see (n : Nat) : s.Serves t x e arr (w.see t.core n) := by
  unfold State.see
  split
  · exact h
  · obtain ⟨rest, team, full, scratch, kv, arrivals⟩ := h
    refine ⟨rest, team, ?_, ?_, ?_, ?_⟩
    · rw [State.core_modCore, full]
    · rw [State.core_modCore, scratch]
    · rw [State.core_modCore, kv]
    · rw [State.core_modCore, arrivals]

theorem State.Serves.mem : w.mem = s.mem := (congrArg State.mem h.rest :)
theorem State.Serves.pendPubs : w.pendPubs = s.pendPubs := (congrArg State.pendPubs h.rest :)
theorem State.Serves.pubSeq : w.pubSeq = s.pubSeq := (congrArg State.pubSeq h.rest :)

/-- An access with all lanes served ends, a reading one with its acquire. -/
theorem State.Serves.endAccess_run (todo : x.todo = []) (op : FeOp) (hp : t.pend = []) (hpub : s.pendPubs = []) :
    ∃ z, M.endAccess t op w = .ok .next z ∧ s.Serves t x e arr z := by
  obtain ⟨u, hu, held, -⟩ := h.team
  have found : M.team t.id w = .ok u w := by
    unfold M.team
    rw [hu]
  have served : (!x.todo.isEmpty) = false := by rw [todo]; rfl
  unfold M.endAccess
  rw [M.bind_ok found, held.prog]
  dsimp only
  rw [M.bind_ok (M.stopIf_of_false served _ w)]
  by_cases reads : (op != .stfe) = true
  · have replayed : w.replay t.id .gang allCores = w.see t.core (w.coverage u .gang allCores) := by
      unfold State.replay
      rw [State.recordPending_of_nil hu (h.pendPubs.trans hpub)]
      dsimp only
      rw [hu, ← held.core]
    refine ⟨_, ?_, h.see (w.coverage u .gang allCores)⟩
    rw [if_pos reads, M.bind_ok (M.bind_of_found hu (held.pend.trans hp)), M.bind_ok (M.modify_run _ w), replayed]
    rfl
  · refine ⟨w, ?_, h⟩
    rw [if_neg reads]
    rfl

/-- The team after the instruction, with the registers of the data. -/
theorem State.Serves.retire :
    ∃ u, (w.retire t 4 .next).team? t.id = some u ∧ u.arm.pc = t.arm.pc + 4 ∧ u.s = t.s ∧ u.v = e.view.team.v ∧
      (e.view.team.ksw = t.ksw → ∀ r, ((w.retire t 4 .next).viewOf u).vreg r = e.view.vreg r) := by
  obtain ⟨u, hu, held, regs⟩ := h.team
  have kept := u.retired_keeps (t.arm.pc + 4) (!t.isSystem) w.tick.toNat
  have found : (w.retire t 4 .next).team? t.id =
      some ((u.moveTo (t.arm.pc + 4)).countRetired (!t.isSystem) w.tick.toNat) := by
    rw [State.retire_next, State.team?_modTeam _ _ _ (by simp), hu]
    rfl
  have bank (n : Nat) : ((w.retire t 4 .next).core n).kv = (w.core n).kv := rfl
  generalize w.retire t 4 .next = y at found bank ⊢
  generalize (u.moveTo (t.arm.pc + 4)).countRetired (!t.isSystem) w.tick.toNat = z at kept found
  obtain ⟨pc, s, v, core, ksw⟩ := kept
  refine ⟨z, found, pc, s.trans held.s, v.trans regs, fun same r => ?_⟩
  have named : z.ksw = e.view.team.ksw := by rw [ksw, held.ksw, same]
  exact View.vreg_of_regs (v := y.viewOf z) named (v.trans regs)
    ((bank z.core).trans (by rw [core, held.core, h.kv])) r

end

/-! ## The access up to its arrival (R211) -/

/-- The access that an instruction begins. -/
def State.feAccess (s : State) (t : Team) (op : FeOp) (vd : BitVec 6) (f : Fmt) (at_ : Nat → Nat) (d : Src) : FeAccess :=
  { op := op, fmt := f, target := (s.viewOf t).targetOf vd, ticket := s.nextId
    todo := feLanes at_ (fun l => BitVec.ofNat 64 (d.val l)) t.lanes }

/-- The last part of `fullEmpty`: the access arrives. -/
def M.beginAccess (op : FeOp) (vd : BitVec 6) (f : Fmt) (d : Src) (os : List (Nat × Nat)) (t : Team) : M Done := do
  let (ticket, s) := (← get).fresh
  set s
  let v ← M.view t.id
  let x : FeAccess :=
    { op := op, fmt := f, target := v.targetOf vd, ticket := ticket
      todo := os.map fun o => (o.1, o.2, BitVec.ofNat 64 (d.val o.1)) }
  M.setProg t.id (.access x)
  modify fun s => s.arrive t x
  M.endAccess t op

/-- What `fullEmpty` does for a reading access whose lanes' addresses it has. -/
def M.readLanes (op : FeOp) (vd : BitVec 6) (f : Fmt) (as : List (Nat × Word)) (t : Team) : M Done := do
  M.aligned 0x102 f.bytes as
  M.countable t 0
  match ← M.offsets t f.bytes as with
  | none => return .moved
  | some os =>
    M.inOrder t (os.map fun o => { lane := o.1, space := some t.core, addr := o.2, len := f.bytes })
    modify fun s => s.recordPending t.id
    M.beginAccess op vd f (Src.imm .s32 16) os t

theorem M.beginAccess_run {s : State} {t : Team} (ht : s.team? t.id = some t) (op : FeOp) (vd : BitVec 6) (f : Fmt)
    (d : Src) (at_ : Nat → Nat) :
    M.beginAccess op vd f d (t.lanes.map fun l => (l, at_ l)) t s =
      M.endAccess t op ((s.begun t (s.feAccess t op vd f at_ d)).arrive t (s.feAccess t op vd f at_ d)) := by
  have found : ({ s with nextId := s.nextId + 1 } : State).team? t.id = some t := ht
  unfold M.beginAccess
  rw [M.bind_ok (M.get_run s)]
  dsimp only
  rw [M.bind_ok (M.set_run s _)]
  refine (M.bind_ok (M.view_run found)).trans ?_
  rw [List.map_map]
  rfl

section
variable {s : State} {t : Team} {op : FeOp} {vd : BitVec 6} {f : Fmt} {at_ : Nat → Nat} {d : Src}
  (ht : s.team? t.id = some t) (live : t.gone = false) (hp : t.pend = []) (hpub : s.pendPubs = [])
  (fresh : ∀ a ∈ t.arms, ∀ y, a.prog = .access y → y.ticket ≠ s.nextId)
  (words : (t.lanes.map fun l => at_ l / 8).Nodup)
  (none_ : ∀ a ∈ (s.core t.core).arrivals, ∀ l ∈ t.lanes, a.1 ≠ at_ l / 8)
  (wants : ∀ l ∈ t.lanes, s.isFull t.core (at_ l) = op.wants)
include ht live hp hpub fresh words none_ wants

/-- An access whose words are in the state it wants is served for all its lanes and ends. -/
theorem M.endAccess_of_served :
    let y := s.feAccess t op vd f at_ d
    ∃ z arr, M.endAccess t op ((s.begun t y).arrive t y) = .ok .next z ∧
      State.Serves { s with nextId := s.nextId + 1 } t { y with todo := [] }
        ((feLanes at_ (fun l => BitVec.ofNat 64 (d.val l)) t.lanes).foldl (FeData.serve y) (s.feData t)) arr z := by
  intro y
  have lanes (p : Nat × Nat × BitVec 64) (h : p ∈ y.todo) : ∃ l ∈ t.lanes, p.2.1 = at_ l := by
    obtain ⟨l, hl, rfl⟩ := List.mem_map.mp h
    exact ⟨l, hl, rfl⟩
  have begins := s.serves_begun (x := y) ht fresh
  obtain ⟨arr, served⟩ := begins.arrive live
    (fun a ha p h => by
      obtain ⟨l, hl, e⟩ := lanes p h
      rw [e]
      exact none_ a ha l hl)
    (by
      show ((t.lanes.map _).map _).Nodup
      rw [List.map_map]
      exact words)
    (fun p h => by
      obtain ⟨l, hl, e⟩ := lanes p h
      rw [e]
      exact wants l hl)
    rfl
  obtain ⟨z, run, kept⟩ := served.endAccess_run rfl op hp hpub
  exact ⟨z, arr, run, kept⟩

end

section
variable {s : State} {t : Team} {fam : Family} {base : BitVec 4} {ix : VSrc} {vd : BitVec 6} {f : Fmt} {b : Word}
  {x d : Src} (ht : s.team? t.id = some t) (hf : s.familyOf? t = some fam) (pass : s.Passes t) (hp : t.pend = [])
  (hprog : t.arm.prog = .none) (hpub : s.pendPubs = []) (hcount : t.counter 0 < 63)
  (hb : (s.viewOf t).readBase base = .ok b) (hx : (s.viewOf t).readOneOf posIX ix [.s32, .n32] = .ok x)
  (hc : (s.viewOf t).consume [x] = .ok ()) (aligned : ∀ l ∈ t.lanes, (laneAddress b x 0 f l).toNat % f.bytes = 0)
  (inside : ∀ a ∈ t.lanes.map fun l => (l, laneAddress b x 0 f l), a.2.toNat + f.bytes ≤ fam.partSize)
include ht hf pass hp hprog hpub hcount hb hx hc aligned inside

/-- A reading access arrives at once. -/
theorem fullEmpty_reads {op : FeOp} (reads : op ≠ .stfe) (hd : (s.viewOf t).checkV posD vd f.isPair = .ok ()) :
    let y := s.feAccess t op vd f (fun l => fam.partBase + (laneAddress b x 0 f l).toNat) (Src.imm .s32 16)
    fullEmpty op base ix vd f t s = M.endAccess t op ((s.begun t y).arrive t y) := by
  intro y
  have offsets := M.offsets_run hf f.bytes _ inside
  rw [List.map_map] at offsets
  have arrives : M.readLanes op vd f (t.lanes.map fun l => (l, laneAddress b x 0 f l)) t s = M.endAccess t op
      ((s.begun t y).arrive t y) := by
    unfold M.readLanes
    rw [M.bind_ok (M.aligned_run aligned s), M.bind_ok (M.countable_of_lt hcount s), M.bind_ok offsets]
    dsimp only
    rw [M.bind_ok (M.inOrder_of_nil ht hp _), M.bind_ok (M.recordPending_of_nil ht hpub)]
    exact M.beginAccess_run ht op vd f (Src.imm .s32 16) fun l => fam.partBase + (laneAddress b x 0 f l).toNat
  have loaded := M.loadAddresses_run (off := 0) ht hb hx hc hd
  unfold fullEmpty
  rw [hprog]
  cases op with
  | stfe => exact absurd rfl reads
  | ldfe =>
    exact (M.bind_ok (M.gate_of_passes pass)).trans ((M.bind_ok loaded).trans arrives)
  | ldf =>
    exact (M.bind_ok (M.gate_of_passes pass)).trans ((M.bind_ok loaded).trans arrives)

/-- A store arrives once it has released. -/
theorem fullEmpty_stores (hd : (s.viewOf t).readD vd f = .ok d) (clean : ∀ l ∈ t.lanes, d.isPoisoned l = false)
    (idle : ∀ p ∈ (s.core t.core).passes, p.team ≠ t.id) :
    let w := s.publish t.id .gang
    let y := w.feAccess t .stfe vd f (fun l => fam.partBase + (laneAddress b x 0 f l).toNat) d
    fullEmpty .stfe base ix vd f t s = M.endAccess t .stfe ((w.begun t y).arrive t y) := by
  intro w y
  have found : w.team? t.id = some t := (State.team?_of_bare (State.bare_publish ht hpub .gang) t.id).trans ht
  have stores : (FeOp.stfe == FeOp.stfe) = true := rfl
  unfold fullEmpty
  rw [hprog]
  dsimp only
  rw [M.bind_ok (M.gate_of_passes pass), M.bind_ok (M.storeAddresses_run ht hb hx hc hd)]
  dsimp only
  rw [M.bind_ok (M.aligned_run aligned s), M.bind_ok (M.countable_of_lt hcount s),
    M.bind_ok (M.offsets_run hf f.bytes _ inside), List.map_map]
  dsimp only
  rw [if_pos stores, M.bind_ok (M.noPoison_of_clean (by simpa using clean) s), M.bind_ok (M.afterPasses_of_none idle),
    M.bind_ok (M.inOrder_of_nil ht hp _), if_pos stores, M.bind_ok (M.bind_of_found ht hp),
    M.bind_ok (M.appended_of_nil ht hp), M.bind_ok (M.modify_run _ s)]
  exact M.beginAccess_run found .stfe vd f d fun l => fam.partBase + (laneAddress b x 0 f l).toNat

end

/-! ## The obligation -/

/-- Two lanes of one alignment in different words share no byte. -/
theorem apart_of_aligned {p n a b : Nat} (ha : a % n = 0) (hb : b % n = 0) (h : (p + a) / 8 ≠ (p + b) / 8) :
    p + a + n ≤ p + b ∨ p + b + n ≤ p + a := by
  obtain ⟨i, rfl⟩ := Nat.dvd_of_mod_eq_zero ha
  obtain ⟨j, rfl⟩ := Nat.dvd_of_mod_eq_zero hb
  have differ : i ≠ j := fun e => h (e ▸ rfl)
  have steps {k m : Nat} (less : k < m) : n * k + n ≤ n * m := Nat.mul_le_mul_left n less
  rcases Nat.lt_or_gt_of_ne differ with less | less
  · have := steps less
    omega
  · have := steps less
    omega

/-- The bytes a lane stored read back, if those of higher lanes lie elsewhere. -/
theorem Memory.readBytes_storeLanes {at_ : Nat → Nat} {bytes : Nat → List Byte} {ls : List Nat} {m : Memory} {l : Nat}
    (h : Memory.wf m = true) (up : ls.Pairwise (· < ·)) (hl : l ∈ ls)
    (last : ∀ k ∈ ls, l < k → at_ l + (bytes l).length ≤ at_ k ∨ at_ k + (bytes k).length ≤ at_ l) :
    Memory.readBytes (Memory.storeLanes at_ bytes ls m) (at_ l) (bytes l).length = bytes l := by
  refine List.ext_getElem (by simp [Memory.readBytes]) fun i _ hi => ?_
  have byte := Memory.read_storeLanes (at_ := at_) (bytes := bytes) h up hl hi fun k hk above => by
    have := last k hk above
    omega
  simpa [Memory.readBytes] using byte

theorem bytesOf_mod {n m : Nat} (h : 8 * n ≤ m) (x : Nat) : bytesOf n (x % 2 ^ m) = bytesOf n x := by
  induction n generalizing m x with
  | zero => rfl
  | succ n ih =>
    obtain ⟨k, rfl⟩ := Nat.exists_eq_add_of_le (Nat.le_trans (by omega : 8 ≤ 8 * (n + 1)) h)
    have split_ : 2 ^ (8 + k) = 256 * 2 ^ k := Nat.pow_add 2 8 k
    have byte : BitVec.ofNat 8 (x % 2 ^ (8 + k)) = BitVec.ofNat 8 x := by
      refine BitVec.eq_of_toNat_eq ?_
      rw [BitVec.toNat_ofNat, BitVec.toNat_ofNat, split_]
      exact Nat.mod_mod_of_dvd x (Nat.dvd_mul_right 256 (2 ^ k))
    rw [bytesOf, bytesOf, byte, split_, Nat.mod_mul_right_div_self, ih (by omega)]

theorem Fmt.bytes_le (f : Fmt) : 8 * f.bytes ≤ 64 := by
  cases f with
  | _ => decide

/-- A release changes no more of the team's core than its log. -/
theorem State.core_publish {s : State} {t : Team} (ht : s.team? t.id = some t) (hpub : s.pendPubs = []) :
    { (s.publish t.id .gang).core t.core with log := (s.core t.core).log } = s.core t.core := by
  rw [State.publish_eq ht hpub (by decide), State.recordPubOf_eq]
  split
  · rfl
  · generalize hu : ({ s.countPub with pubs := s.pubs ++ [_] } : State) = u
    have put := u.core_putCore { s.core t.core with
      log := publishedLog (fun e => e.coveredBy t.id t.tail) s.pubSeq (s.core t.core).log }
    rw [show ({ s.core t.core with
      log := publishedLog (fun e => e.coveredBy t.id t.tail) s.pubSeq (s.core t.core).log } : Core).n = t.core from
        s.core_n t.core] at put
    rw [put]

/-- The first register of a checked pair is even (R54). -/
theorem View.even_of_checkV {v : View} {pos : Nat} {r : BitVec 6} (h : v.checkV pos r true = .ok ()) :
    r.getLsbD 0 = false := by
  unfold View.checkV at h
  cases first : v.checkV1 pos r with
  | error e =>
    rw [first] at h
    exact nomatch h
  | ok a =>
    rw [first] at h
    cases odd : r.getLsbD 0 with
    | false => rfl
    | true =>
      rw [odd] at h
      exact nomatch h

section
variable {s : State} {t : Team} {fam : Family} {base : BitVec 4} {ix : VSrc} {vd : BitVec 6} {f : Fmt} {b : Word}
  {x d : Src} {at_ : Nat → Nat} (ht : s.team? t.id = some t) (hf : s.familyOf? t = some fam) (pass : s.Passes t)
  (live : t.gone = false) (hp : t.pend = []) (hprog : t.arm.prog = .none)
  (fresh : ∀ a ∈ t.arms, ∀ y, a.prog = .access y → y.ticket ≠ s.nextId) (hpub : s.pendPubs = [])
  (hcount : t.counter 0 < 63) (hb : (s.viewOf t).readBase base = .ok b)
  (hx : (s.viewOf t).readOneOf posIX ix [.s32, .n32] = .ok x) (hc : (s.viewOf t).consume [x] = .ok ())
  (within : ∀ l ∈ t.lanes, (laneAddress b x 0 f l).toNat % f.bytes = 0 ∧
    (laneAddress b x 0 f l).toNat + f.bytes ≤ fam.partSize)
  (hat : at_ = fun l => fam.partBase + (laneAddress b x 0 f l).toNat) (words : (t.lanes.map fun l => at_ l / 8).Nodup)
  (none_ : ∀ a ∈ (s.core t.core).arrivals, ∀ l ∈ t.lanes, a.1 ≠ at_ l / 8)
include ht hf pass live hp hprog fresh hpub hcount hb hx hc within hat words none_

/-- A reading access of full words completes: its lanes' registers are written, and `ldfe` empties the words. -/
theorem fullEmpty_reads_run {op : FeOp} (reads : op ≠ .stfe) (hd : (s.viewOf t).checkV posD vd f.isPair = .ok ())
    (full : ∀ l ∈ t.lanes, s.isFull t.core (at_ l) = true) :
    ∃ z y arr e, fullEmpty op base ix vd f t s = .ok .next z ∧
      State.Serves { s with nextId := s.nextId + 1 } t y e arr z ∧
      e.view = (s.viewOf t).setLanes ((s.viewOf t).targetOf vd) f
        (fun l => f.place (natOfBytes (s.scratchRead t.core (at_ l) f.bytes))) t.lanes ∧
      e.scratch = (s.core t.core).scratch ∧
      ∀ k, e.full.contains k =
        ((s.core t.core).full.contains k && !(op == .ldfe && (t.lanes.map fun l => at_ l / 8).contains k)) := by
  have aligned := fun l hl => (within l hl).1
  have inside : ∀ a ∈ t.lanes.map fun l => (l, laneAddress b x 0 f l), a.2.toNat + f.bytes ≤ fam.partSize :=
    List.forall_mem_map.mpr fun l hl => (within l hl).2
  have wants : op.wants = true := bne_iff_ne.mpr reads
  obtain ⟨z, arr, run, served⟩ := M.endAccess_of_served (vd := vd) (f := f) (d := Src.imm .s32 16) ht live hp hpub fresh
    words none_ fun l hl => (full l hl).trans wants.symm
  have arrives := fullEmpty_reads ht hf pass hp hprog hpub hcount hb hx hc aligned inside reads hd
  dsimp only at arrives
  rw [← hat] at arrives
  exact ⟨z, _, arr, _, arrives.trans run, served, FeData.serve_reads (s.feData t) at_ _ t.lanes reads⟩

/-- A storing access of empty words completes: it releases, writes its lanes' bytes and fills the words. -/
theorem fullEmpty_stores_run (hd : (s.viewOf t).readD vd f = .ok d)
    (ready : ∀ l ∈ t.lanes, d.isPoisoned l = false ∧ s.isFull t.core (at_ l) = false)
    (idle : ∀ p ∈ (s.core t.core).passes, p.team ≠ t.id) :
    ∃ z w y arr e, fullEmpty .stfe base ix vd f t s = .ok .next z ∧ State.Serves w t y e arr z ∧
      w.mem = s.mem ∧ w.pubSeq = s.pubSeq + 1 ∧ e.view.team = t ∧
      e.scratch = Memory.storeLanes at_ (fun l => bytesOf f.bytes (BitVec.ofNat 64 (d.val l)).toNat) t.lanes
        (s.core t.core).scratch ∧
      ∀ k, e.full.contains k = ((s.core t.core).full.contains k || (t.lanes.map fun l => at_ l / 8).contains k) := by
  have aligned := fun l hl => (within l hl).1
  have inside : ∀ a ∈ t.lanes.map fun l => (l, laneAddress b x 0 f l), a.2.toNat + f.bytes ≤ fam.partSize :=
    List.forall_mem_map.mpr fun l hl => (within l hl).2
  have released : (s.publish t.id .gang).bare = s.bare := State.bare_publish ht hpub .gang
  have counted : (s.publish t.id .gang).mem = s.mem ∧ (s.publish t.id .gang).pubSeq = s.pubSeq + 1 := by
    rw [State.publish_eq ht hpub (by decide)]
    obtain ⟨mem, pubSeq, -, -⟩ := s.recordPubOf_spec t.core t.id t.gang .gang fun e => e.coveredBy t.id t.tail
    exact ⟨mem, pubSeq⟩
  have core := State.core_publish ht hpub
  have arrivals : ((s.publish t.id .gang).core t.core).arrivals = (s.core t.core).arrivals :=
    (congrArg Core.arrivals core :)
  have full : ((s.publish t.id .gang).core t.core).full = (s.core t.core).full := (congrArg Core.full core :)
  have bytes : ((s.publish t.id .gang).core t.core).scratch = (s.core t.core).scratch := (congrArg Core.scratch core :)
  have ticket : (s.publish t.id .gang).nextId = s.nextId := (congrArg State.nextId released :)
  have arrives := fullEmpty_stores ht hf pass hp hprog hpub hcount hb hx hc aligned inside hd
    (fun l hl => (ready l hl).1) idle
  dsimp only at arrives
  rw [← hat] at arrives
  generalize s.publish t.id .gang = w at released counted arrivals full bytes ticket arrives
  obtain ⟨z, arr, run, served⟩ := M.endAccess_of_served (s := w) (op := .stfe) (vd := vd) (f := f) (d := d)
    ((State.team?_of_bare released t.id).trans ht) live hp ((State.pendPubs_of_bare released).trans hpub)
    (ticket ▸ fresh) words (arrivals ▸ none_)
    fun l hl => (congrArg (fun ws => ws.contains (at_ l / 8)) full).trans (ready l hl).2
  obtain ⟨view, scratch, bits⟩ := FeData.serve_stfe (w.feData t) at_ (fun l => BitVec.ofNat 64 (d.val l)) t.lanes
    (x := w.feAccess t .stfe vd f at_ d) rfl
  exact ⟨z, _, _, arr, _, arrives.trans run, served, counted.1, counted.2, congrArg View.team view,
    scratch.trans (congrArg _ bytes), fun k => (bits k).trans (congrArg (fun ws => List.contains ws k || _) full)⟩

end

/-- Settles O24: an access that finds its words in the state it wants, with no other access there, is served lane after
lane (`State.Serves.arrive`); what the lanes read and write is `View.setLanes` and `Memory.storeLanes`. -/
theorem fullEmptyAccesses : Obligations.FullEmptyAccesses := by
  unfold Obligations.FullEmptyAccesses
  intro s t fam base ix vd f b x d v addr at_ mine n hi hf pass live hp hprog fresh hpub hcount hb hx hc within words none_
    reads
  have ht := s.team?_of_issuer t hi
  have low : ∀ l ∈ t.lanes, l < 1024 := fun l hl => by
    by_contra high
    have off := BitVec.getLsbD_of_ge t.active l (Nat.le_of_not_lt high)
    exact Bool.false_ne_true (off.symm.trans (Team.mem_lanes.mp hl).2)
  have read (i : Instr) (op : FeOp) (hop : op ≠ .stfe) (hx' : exec i s = issue 4 (fullEmpty op base ix vd f) s) :
      reads i (op == .ldfe) := by
    intro hd full
    obtain ⟨z, y, arr, e, run, served, view, scratch, bits⟩ := fullEmpty_reads_run ht hf pass live hp hprog fresh hpub
      hcount hb hx hc within rfl words none_ hop hd full
    obtain ⟨u, hu, pc, regs, -, names⟩ := served.retire
    have even : f.isPair = true → vd.getLsbD 0 = false := fun pair => View.even_of_checkV (pair ▸ hd)
    obtain ⟨-, first, -, other⟩ := View.setLanes_changes even v
      (fun l => f.place (natOfBytes (s.scratchRead t.core (at_ l) f.bytes))) t.lanes
    rw [view] at names
    have names := names (congrArg (fun u : Team => u.ksw) (View.team_setLanes ..) :)
    refine ⟨_, u, hx'.trans (issue_ok hi run), hu, pc, regs, served.mem, served.scratch.trans scratch, fun k => ?_,
      fun l hl inN => ?_, fun l inN out => ?_, fun r ne ne' => ?_⟩
    · exact (congrArg (fun ws => List.contains ws (k / 8)) served.full).trans (bits (k / 8))
    · rw [names vd, names (vd + 1)]
      exact View.setLanes_lane even v _ t.lanes inN (low l hl) hl
    · rw [names vd]
      exact (congrArg (fun r : VReg => r.read l) first).trans (VReg.read_setLanes_of_not_mem inN out)
    · rw [names r]
      exact other r fun covers => covers.elim ne fun h => ne' h.1 h.2
  refine ⟨read _ .ldfe (by decide) rfl, read _ .ldf (by decide) rfl, fun hd ready idle canonical => ?_⟩
  obtain ⟨z, w, y, arr, e, run, served, mem, pubSeq, team, scratch, bits⟩ := fullEmpty_stores_run ht hf pass live hp hprog
    fresh hpub hcount hb hx hc within rfl words none_ hd ready idle
  obtain ⟨u, hu, pc, regs, vs, -⟩ := served.retire
  have stored := served.scratch.trans scratch
  refine ⟨_, u, issue_ok hi run, hu, vs.trans (congrArg Team.v team), regs, pc, served.mem.trans mem,
    served.pubSeq.trans pubSeq, fun k => ?_, fun l hl => ?_, fun k out => ?_⟩
  · exact (congrArg (fun ws => List.contains ws (k / 8)) served.full).trans (bits (k / 8))
  · have back := Memory.readBytes_storeLanes (at_ := at_)
      (bytes := fun l => bytesOf f.bytes (BitVec.ofNat 64 (d.val l)).toNat) (canonical.core t.core) t.pairwise_lanes hl
      fun k hk above => by
        rw [bytesOf_length, bytesOf_length]
        exact apart_of_aligned (within l hl).1 (within k hk).1
          fun same => Nat.ne_of_lt above (List.inj_on_of_nodup_map words hl hk same)
    rw [bytesOf_length, ← stored, BitVec.toNat_ofNat, bytesOf_mod (Fmt.bytes_le f)] at back
    exact back
  · refine (congrArg (fun m => Memory.read m k) stored).trans ?_
    exact Memory.read_storeLanes_of_outside (canonical.core _) fun l hl => by rw [bytesOf_length]; exact out l hl

end Sys2Proof.Machine
